-- ==== Sys2Proof/Word.lean ====
section
/-!
DEFINITION. The word types of the terminal and the sparse table type. Registers are 32 bits wide and little-endian
(R5 of 00_scope.md); the operations over these types stand in Machine/Bits.lean.
-/
namespace Sys2Proof

/-- One byte. -/
abbrev Byte := BitVec 8

/-- One register word (R5): 32 bits. -/
abbrev W32 := BitVec 32

/-- A 64-bit count or time. -/
abbrev W64 := BitVec 64

/-- A sparse table: the entries that differ from the default, in strictly rising key order. It is plain data, and two
tables that read alike everywhere are equal lists. `Tab.get` and `Tab.put` of Machine/Bits.lean are its operations. -/
abbrev Tab (α : Type) := List (Nat × α)

end Sys2Proof
end

