-- ==== Sys2Proof/Syntax.lean ====
section
/-!
DEFINITION. The commands the terminal takes: `Instr` has one constructor per row of spec/opcode_table.json. The table
gives the rows no operand bits, so the operands are the model's (notes/assumptions/2.md): what a rule says a command
carries (an address, a register word, a received frame, the outcome of a unit whose inside the spec leaves to a standard).
-/
namespace Sys2Proof

/-! ### Numbers of units (R11 to R13) -/

/-- A lane slice, 0 to 95. -/
abbrev LaneId := Fin 96
/-- A quadrant, 0 to 3. -/
abbrev QuadId := Fin 4
/-- A cipher core, 0 to 71. -/
abbrev CoreId := Fin 72
/-- A bond group slot, 0 to 15 (R197). -/
abbrev GroupId := Fin 16
/-- A DMA ring, 0 to 4 (R479). -/
abbrev RingId := Fin 5
/-- An event source, 0 to 1,023 (R495). -/
abbrev EventId := Fin 1024
/-- A switched power domain, 0 to 207 (R531). -/
abbrev DomainId := Fin 208

/-- The two ports that reach the registers (R473, R491). -/
inductive Port where
  | pcie
  | twoWire
deriving DecidableEq, Repr

/-- A register address in one of the three memory windows (R471). -/
inductive RegAddr where
  /-- BAR0, 32 MiB: the registers of the islands. -/
  | bar0 (a : BitVec 25)
  /-- BAR2, 64 KiB: the tally page and the doorbells. -/
  | bar2 (a : BitVec 16)
  /-- BAR4, 32 KiB: the ring control blocks and the MSI-X tables. -/
  | bar4 (a : BitVec 15)
deriving DecidableEq, Repr

/-! ### Received fields protected by a hybrid error correction -/

/-- A received field with the outcome of its error-correcting check (G.9807.1): read as sent, corrected, or failed. -/
inductive Hec (α : Type) where
  | valid (v : α)
  | corrected (v : α)
  | bad
deriving DecidableEq, Repr

/-- The value that a check leaves, if it leaves one. -/
def Hec.val {α : Type} : Hec α → Option α
  | .valid v => some v
  | .corrected v => some v
  | .bad => none

/-- The check corrected the field. -/
def Hec.isCorrected {α : Type} : Hec α → Bool
  | .corrected _ => true
  | _ => false

/-- How a COMMIT's copy and its two vault writes went (R49). -/
inductive CommitResult where
  | ok
  | copyFails
  | wordFails
  | floorFails
deriving DecidableEq, Repr

/-- The HLend word of a downstream frame (R117): length of the bandwidth map and count of PLOAM messages. -/
structure HlEnd where
  bwLen : BitVec 11
  ploams : BitVec 8
deriving DecidableEq, Repr

/-- One allocation structure of the bandwidth map (R119). -/
structure AllocStruct where
  alloc : BitVec 14
  dbru : Bool
  ploamu : Bool
  start : BitVec 16
  size : BitVec 16
  fwi : Bool
  profile : BitVec 2
deriving DecidableEq, Repr

/-- One XGEM frame header (R122). -/
structure XgemHdr where
  pli : BitVec 14
  key : BitVec 2
  port : BitVec 16
  options : BitVec 18
  lf : Bool
deriving DecidableEq, Repr

/-- The body of a downstream PLOAM message, by kind (R145, R150, R157). -/
inductive PloamBody where
  /-- Index, FEC, preamble repeat count and pattern, and the delimiter of 4 or 8 bytes (R177). -/
  | burstProfile (index : BitVec 2) (fec : Bool) (rep : Byte) (pre : Vector Byte 8) (delim8 : Bool) (delim : Vector Byte 8)
  | assignOnuId (serial : W64) (id : BitVec 10)
  | rangingAbs (eqd : W32)
  | rangingRel (delta : Int)
  | deactivate
  | disableSn (all : Bool) (enable : Bool) (serial : W64)
  | assignAllocId (alloc : BitVec 14) (add : Bool)
  | keyControl (newKey : Bool) (k : BitVec 2) (bits128 : Bool)
  | sleepAllow
  | tuningControl (complete : Bool) (ds us : BitVec 4) (sched : BitVec 51)
  | channelProfile (ds us : BitVec 4) (thisChannel : Bool)
  | adjustTxWavelength
  | other
deriving DecidableEq, Repr

/-- A downstream PLOAM message (R121, R145 to R147): the addressee, whether its integrity check passes under the shared key
and under the default key, whether its sequence number passes, whether it acknowledges a COMPLETE_u (R141), and its body. -/
structure Ploam where
  onuId : BitVec 10
  micShared : Bool
  micDefault : Bool
  seqOk : Bool
  acksComplete : Bool
  body : PloamBody
deriving DecidableEq, Repr

/-- A received Ethernet frame (R228, R229): the seven bytes that follow its start block, whether an error or invalid block lies inside it,
the Clause 74 blocks of its time that were corrected and that could not be, and the bytes from the destination address to the end of the
FCS. -/
structure EthRx where
  preamble : List Byte
  codeErr : Bool
  corrected : Nat
  uncorrected : Nat
  bytes : List Byte
deriving DecidableEq, Repr



/-- A frame of a VC-4-Xv member (R215): the multiframe indicator MFI2 ∥ MFI1, the sequence indicator, and the payload. -/
structure VcatFrame where
  mfi : BitVec 12
  sq : Byte
  payload : List Byte
deriving DecidableEq, Repr

/-- The key of a fragmented IP datagram (R293): IPv4 addresses fill the low 32 bits. -/
structure FragKey where
  v6 : Bool
  src : BitVec 128
  dst : BitVec 128
  ident : W32
  proto : Byte
deriving DecidableEq, Repr

/-- A stored bit of an entry of the bridge or flow table that flips (R305, R323). -/
structure Upset where
  flow : Bool
  slot : Nat
  place : Fin 459
deriving DecidableEq, Repr

/-- The traffic windows of a quadrant (R350). -/
inductive TmWin where
  | policer
  | up
  | down
deriving DecidableEq, Repr

/-- A unit of the cipher cluster (R380): a core, or the fallback pipeline. -/
inductive CipherUnit where
  | core (k : CoreId)
  | fallback
deriving DecidableEq, Repr

/-- The causes of an integrity fault with the codes of R384 (R381). -/
inductive UnitFault where
  | test
  | parity
  | watchdog
  | forced
deriving DecidableEq, Repr

/-- CAUSE of R384. -/
def UnitFault.code : UnitFault → BitVec 3
  | .test => 1
  | .parity => 2
  | .watchdog => 3
  | .forced => 4

/-- A lookaside descriptor (R376). -/
structure LaDesc where
  op : Byte
  flags : Byte
  keyRef : BitVec 16
  aadLen : W32
  len : W32
  cookie : W32
  src : W64
  dst : W64
  aad : W64
  tag : W64
  iv : Vector Byte 16
deriving DecidableEq, Repr

/-- The operands of KEY_CMD (R420). -/
structure KeyCmdWord where
  slot : BitVec 4
  wrapSlot : BitVec 4
  lane : BitVec 7
  side : Bool
  purposes : BitVec 5
deriving DecidableEq, Repr

/-- Tamper causes in the order of KEY_TAMPER_STATUS.CAUSES (R406, R422). -/
inductive TamperCause where
  /-- TAMPER_N has been low for so many nanoseconds. -/
  | pin (lowNs : Nat)
  /-- The vault die's temperature in thousandths of a degree Celsius. -/
  | temperature (milliC : Int)
  /-- VDD_VLT in millivolts. -/
  | voltage (mV : Nat)
  | shield
  | link
deriving DecidableEq, Repr

/-- The bit of a cause in CAUSES. -/
def TamperCause.index : TamperCause → Nat
  | .pin _ => 0
  | .temperature _ => 1
  | .voltage _ => 2
  | .shield => 3
  | .link => 4

/-- What a cistern line error is (R457, R458). -/
inductive LineError where
  | corrected
  | uncorrectable
  /-- The CRC of the transfer failed at all 3 retries too. -/
  | retries
  /-- The transfer passed after this number of retries, less one. -/
  | retried (k : Fin 3)
deriving DecidableEq, Repr

/-- Who read the line (R459). -/
inductive CstUser where
  | spill
  | skew
  | lpm
  | scrub
deriving DecidableEq, Repr

/-- An inject descriptor with the bytes of its buffer (R487). -/
structure InjDesc where
  len : BitVec 16
  flags : Byte
  lane : Byte
  queue : BitVec 16
  port : BitVec 16
  tag : BitVec 16
  data : List Byte
deriving DecidableEq, Repr

/-- The commands: one constructor per row of spec/opcode_table.json, in the table's order. A command of a host port carries
the port p it comes through; acc is none for a read and the word for a write. -/
inductive Instr where
  -- Boot
  | powerUp
  | railUndervolt
  | reset (straps : BitVec 2)
  | bootGo (p : Port)
  | bootApply
  | keyReady
  -- Loader
  | load (p : Port) (src : BitVec 2)
  | loadDone (ok : Bool) (bytes : List Byte)
  | verify (p : Port)
  | verifyDone
  | apply (p : Port) (mask : BitVec 4)
  | applyDone (us : W32)
  | applyFail (q : QuadId)
  | commit (p : Port)
  | commitDone (res : CommitResult)
  | abandon (p : Port)
  | abandonDone (applyOk : Bool) (us : W32)
  -- Registers
  | registerWrite (p : Port) (a : RegAddr) (w : W32)
  -- LaneSlice
  | eqUpdate (n : LaneId) (x : Vector (BitVec 6) 16) (prev : Vector Bool 6)
  | eqLimit (n : LaneId)
  | seedLoaded (n : LaneId)
  | rxRestart (p : Port) (n : LaneId)
  | eqFreeze (p : Port) (n : LaneId) (on : Bool)
  | tapWrite (p : Port) (n : LaneId) (w : W32)
  | signalDetectSet (n : LaneId) (rms : Nat)
  | signalDetectClear (n : LaneId) (rms : Vector Nat 4)
  | cdrLock (n : LaneId)
  | cdrLockLost (n : LaneId)
  | adaptFastDone (n : LaneId)
  | noiseReport (n : LaneId) (sumSq : Nat)
  | refclkLoss (q : QuadId)
  | refclkReturn (q : QuadId)
  | refclkGate (q : QuadId) (ppm : Int)
  -- LaneTx
  | txinhFall (lowPs : Nat)
  | txinhRise
  | txSquelch (p : Port) (n : LaneId) (on : Bool)
  | genEn (p : Port) (n : LaneId) (on : Bool)
  | checkerLock (n : LaneId) (bits : List Bool)
  | checkerLockLoss (n : LaneId) (bits : List Bool)
  | prbsErrRead (p : Port) (n : LaneId) (bits : List Bool)
  | injSingle (p : Port) (n : LaneId)
  | injBurst (p : Port) (n : LaneId)
  -- LaneSlice
  | seedDataWrite (p : Port) (w : W32)
  -- HostBond
  | hbMarkerRx (n : LaneId) (blk : Nat) (b : Vector Byte 8)
  | hbHandshakeRx (n : LaneId) (blockLock : Bool) (b : Vector Byte 8)
  | hbHandshakeTx (n : LaneId)
  | hbCommitDone (n : LaneId)
  | hbTimeout (n : LaneId) (zeroN : Bool)
  | hbAlignTimeout (n : LaneId)
  | hbRestart (p : Port) (n : LaneId)
  -- Downstream
  | psyncCandidate (n : LaneId) (pos : Nat)
  | candidateCheckPoint (n : LaneId) (pos : Nat) (bitErrs : Nat) (sfc ponId : Hec (BitVec 51)) (hlend : Hec HlEnd)
  | dsFrame (n : LaneId) (bitErrs : Nat) (sfc ponId : Hec (BitVec 51)) (hlend : Hec HlEnd)
  | huntRestart (p : Port) (n : LaneId)
  | fecCodeword (n : LaneId) (byteErrs : Nat)
  | fecWindowEnd (n : LaneId)
  | fecThWrite (p : Port) (n : LaneId) (w : W32)
  | allocStructure (n : LaneId) (idx : Nat) (a : Hec AllocStruct)
  | dsPloam (n : LaneId) (m : Ploam)
  | xgemFrameRx (n : LaneId) (h : Hec XgemHdr) (idle : Bool) (payload : List Byte)
  | reassemblyTimeout (n : LaneId) (port : BitVec 16)
  | portTableWrite (p : Port) (n : LaneId) (w : W32)
  | dsCntClr (p : Port) (n : LaneId)
  | dsWinAccess (p : Port) (n : LaneId) (acc : Option W32)
  -- Activation
  | burstProfileMsg (n : LaneId)
  | assignOnuId (n : LaneId)
  | rangingTime (n : LaneId)
  | tuningControl (n : LaneId)
  | channelProfile (n : LaneId)
  | deactivateOnuId (n : LaneId)
  | disableSerialNumber (n : LaneId)
  | assignAllocId (n : LaneId)
  | keyControl (n : LaneId)
  | ploamUnexpected (n : LaneId)
  | keyReportHandoff (n : LaneId)
  | to1Expire (n : LaneId)
  | to2Expire (n : LaneId)
  | to4Expire (n : LaneId)
  | to5Expire (n : LaneId)
  | tuneScheduledCount (n : LaneId)
  | tuneAck (p : Port) (q : QuadId) (w : W32)
  | scanDwell (n : LaneId)
  -- Steward
  | stwLaneData (p : Port) (q : QuadId) (acc : Option W32)
  | bcastKey (p : Port) (q : QuadId) (slice : BitVec 5) (keyIdx : BitVec 2)
  | clearRogue (p : Port) (q : QuadId) (slice : BitVec 5)
  | clearDisable (p : Port) (q : QuadId) (slice : BitVec 5)
  | restartLane (p : Port) (q : QuadId) (slice : BitVec 5)
  -- Activation
  | rogueTrip (n : LaneId)
  -- Steward
  | loadFw (p : Port) (q : QuadId)
  | swapFw (p : Port) (q : QuadId) (force : Bool)
  | swapFwHalt (q : QuadId)
  | swapFwCheck (q : QuadId) (pass : Bool)
  | commitFw (p : Port) (q : QuadId)
  | stewardHeartbeatMiss (q : QuadId)
  | optGo (p : Port) (q : QuadId) (w : W32)
  | optDone (q : QuadId) (nack : Bool) (rdata : W32)
  | optTimeout (q : QuadId)
  -- Pump
  | grant (n : LaneId) (ns : Nat)
  | cisternToTroughMove (n : LaneId) (queue : Nat)
  | burstAssemble (n : LaneId)
  | lateCisternFrame (n : LaneId) (queue : Nat)
  | burstServe (n : LaneId)
  | burstEnd (n : LaneId)
  | usCntClr (p : Port) (n : LaneId)
  | usWinAccess (p : Port) (n : LaneId) (acc : Option W32)
  -- Bond
  | bondCapsTimer (n : LaneId)
  | bondJoin (n : LaneId)
  | bondHello (n : LaneId)
  | bondLeave (n : LaneId)
  | bondIndep (n : LaneId)
  | bondMessageDrop (n : LaneId)
  | bondHelloTx (n : LaneId)
  | bondHelloTimeout (n : LaneId)
  | bondProbeTimeout (n : LaneId)
  | bondPsyncStamp (n : LaneId)
  -- Skew
  | skewSduWrite (n : LaneId)
  | skewSlotRelease (g : GroupId)
  | groupEnable (p : Port) (g : GroupId) (w : W32)
  | groupDisable (p : Port) (g : GroupId) (w : W32)
  | grpDataAccess (p : Port) (acc : Option W32)
  | skwRestart (p : Port) (w : W32)
  -- Spread
  | spreadRemap (p : Port) (from_ to_ : BitVec 7)
  | spreadFill (p : Port) (dom : BitVec 6) (g : BitVec 4)
  | spreadCmdDone
  | sprDataAccess (p : Port) (acc : Option W32)
  -- Skew
  | vcatMemberFrame (g : GroupId) (pos : Fin 64) (f : VcatFrame)
  | vcatRecover (g : GroupId)
  -- Ethernet
  | anComplete (n : LaneId) (kr f0 f1 : Bool)
  | linkUpTimer (n : LaneId)
  | blockLockLost (n : LaneId) (hiBer : Bool)
  | faultOrderedSet (n : LaneId) (localF remoteF : Bool)
  | anRestart (p : Port) (n : LaneId)
  | ethFrameRx (n : LaneId) (f : EthRx)
  | pauseTx (n : LaneId)
  | pauseRefresh (n : LaneId)
  | pauseExpire (n : LaneId) (cls : Option (Fin 8))
  | pauseCfgWrite (p : Port) (n : LaneId) (w : W32)
  | ethFecWindow (n : LaneId) (corrected uncorrected : Nat)
  | ethTxFrame (n : LaneId)
  | ethCntClr (p : Port) (n : LaneId)
  | ethWinAccess (p : Port) (n : LaneId) (acc : Option W32)
  -- Sdh
  | sdhCandidate (n : LaneId) (pos : Nat) (pattern : BitVec 48)
  | sdhCheckPoint (n : LaneId) (pos : Nat) (pattern : BitVec 48)
  | sdhFrame (n : LaneId) (bytes : List Byte)
  | sdhLofTimer (n : LaneId)
  | sdhHuntRestart (p : Port) (n : LaneId)
  | sdhSdWindow (n : LaneId)
  -- Tributary
  | tribSeal (n : LaneId) (t : Fin 64)
  | tribBlockRx (n : LaneId)
  | sdhTxFrame (n : LaneId)
  | tribEntryWrite (p : Port) (n : LaneId) (w : W32)
  | pmSecond (n : LaneId) (point : Fin 65)
  | pmBinClose (n : LaneId) (day : Bool) (secondNow : BitVec 48)
  -- Sdh
  | sdhCntClr (p : Port) (n : LaneId)
  -- Tributary
  | pmClr (p : Port) (n : LaneId)
  | sdhWinAccess (p : Port) (n : LaneId) (acc : Option W32)
  -- Classify
  | classify (q : QuadId)
  | rallyPass (q : QuadId)
  -- Rules
  | clsSwap (p : Port) (q : QuadId)
  | clsSwapDrained (q : QuadId)
  | epochRetire (q : QuadId)
  | clsCopy (p : Port) (q : QuadId)
  | clsClear (p : Port) (q : QuadId)
  | clsCmdDone (q : QuadId)
  | ruleWrite (p : Port) (q : QuadId) (acc : Option W32)
  -- Classify
  | fragTimeout (k : FragKey)
  | fragFlush (p : Port)
  | sumpClr (p : Port) (mask : BitVec 4)
  | sumpDataRead (p : Port)
  | prsDeepCntRead (p : Port) (q : QuadId)
  | prsSkipCntRead (p : Port) (q : QuadId)
  | rlyStatusRead (p : Port) (q : QuadId)
  | frgCntRead (p : Port) (which : Fin 3)
  -- Forward
  | forwardLookup (q : QuadId) (upsets : List Upset)
  | lpmLookup (q : QuadId) (served : Bool)
  -- Tables
  | learnInsert (q : QuadId)
  | agePass (flow : Bool) (hits : List Nat) (upsets : List Upset)
  | search (p : Port) (tbl : BitVec 3)
  | next (p : Port) (tbl : BitVec 3)
  | insert (p : Port) (tbl : BitVec 3) (shadow : Bool)
  | delete (p : Port) (tbl : BitVec 3) (shadow byLoc : Bool)
  | flushPort (p : Port) (tbl : BitVec 3) (port : BitVec 8) (static : Bool)
  | ageNow (p : Port) (tbl : BitVec 3)
  | lpmSwap (p : Port) (tbl : BitVec 3)
  | rebuild (p : Port) (tbl : BitVec 3)
  | repair (p : Port) (tbl : BitVec 3)
  | tblCmdDone (hits : List Nat) (upsets : List Upset)
  | tblPortAccess (p : Port) (acc : Option W32)
  | tblCntRead (p : Port)
  -- Traffic
  | enqueue (q : QuadId)
  | calendarSlot (q : QuadId) (down : Bool) (sh : Nat)
  | wheelRevolution (q : QuadId) (down : Bool)
  -- TrafficRegs
  | shaperWrite (p : Port) (q : QuadId) (down : Bool) (w : W32)
  | policerWrite (p : Port) (q : QuadId) (w : W32)
  | tmPortWrite (p : Port) (q : QuadId) (down : Bool) (w : W32)
  | tmWinAccess (p : Port) (q : QuadId) (win : TmWin) (acc : Option W32)
  | badOffsetRead (p : Port) (q : QuadId) (down : Bool) (slice : BitVec 5)
  -- Cipher
  | cipherDispatch (q : QuadId)
  | coreJobDone (u : CipherUnit)
  -- CipherTest
  | katDue (u : CipherUnit) (pass : Bool)
  | katOverdue (k : CoreId)
  | firstKat (u : CipherUnit) (pass : Bool)
  | katNow (p : Port) (k : CoreId) (pass : Bool)
  | integrityFault (u : CipherUnit) (cause : UnitFault)
  | quarForce (p : Port) (k : CoreId) (on : Bool)
  | retest (p : Port) (u : CipherUnit) (pass : Bool)
  | afWindow (u : CipherUnit)
  | cphJobsRead (p : Port) (k : CoreId)
  | cphAfRead (p : Port) (k : CoreId)
  | cphCntRead (p : Port) (q : Option QuadId)
  -- Cipher
  | lookasideFetch (d : LaDesc)
  | lookasideComplete (input aad tag : List Byte)
  -- KeyContexts
  | keyCtxAccess (p : Port) (acc : Option W32)
  -- Keys
  | importClear (p : Port) (c : KeyCmdWord)
  | importWrapped (p : Port) (c : KeyCmdWord)
  | importDone (ok : Bool)
  | oldGenWipe (slot : Fin 16)
  | erase (p : Port) (c : KeyCmdWord)
  | eraseDone (ok : Bool)
  | closeProv (p : Port)
  | vkInstall (p : Port)
  | mskSet (p : Port) (c : KeyCmdWord)
  | mskClear (p : Port) (c : KeyCmdWord)
  | prefetch (p : Port)
  | tamperClear (p : Port) (present : Bool)
  | monoIncr (p : Port) (c : KeyCmdWord)
  | keyDerive
  | keyRequestTimeout (u : CipherUnit)
  -- Vault
  | zeroise (lowNs : Nat)
  | tamper (cause : TamperCause)
  | zeroNRise
  | trngFail (raw : List Bool)
  | trngRecover (passed : Nat)
  | drbgReseed
  | keyRngRead (p : Port)
  | operatingMinute
  | keyCntRead (p : Port)
  -- KeyContexts
  | keyLaAccess (p : Port) (acc : Option W32)
  -- Time
  | timIncrWrite (p : Port) (w : W32)
  | timNowRead (p : Port)
  | set (p : Port)
  | step (p : Port)
  | slew (p : Port) (ppm : BitVec 8)
  | tod (p : Port)
  | todCancel (p : Port)
  | todLatch
  | replicaUpdate
  | replicaStale (n : LaneId)
  | tsCal (p : Port) (n : LaneId)
  | tsCalDone (n : LaneId) (rx tx : BitVec 16)
  | txStamp (n : LaneId) (tag : BitVec 16)
  | txqRead (p : Port)
  | txqDropsRead (p : Port)
  -- Servo
  | tauDsRecompute
  | servoSample
  | refLost
  | timCtlWrite (p : Port) (w : W32)
  -- Time
  | cmpArm (p : Port) (c : Fin 8)
  | cmpFire (c : Fin 8)
  | ppsOutPulse
  | ppsOutEnd
  -- Servo
  | ppsInEdge (sub : Fin 16)
  -- Cistern
  | retrain (p : Port) (d : Fin 4)
  | retire (p : Port) (d : Fin 4)
  | scrubNow (p : Port)
  | scrubPass (corrected : Vector Nat 8)
  | cstTrainDone (failed : BitVec 4)
  | redirectCopyDone
  | drainDone (timeout : Bool)
  | restoreDone
  | cstLineError (ch : Fin 8) (line : BitVec 24) (e : LineError) (user : CstUser)
  | cstCntRead (p : Port)
  -- HostIf
  | perst (rise : Bool)
  | hotReset
  | functionLevelReset
  | linkChange (speed : BitVec 4) (width : BitVec 5)
  | gatedAccess (p : Port) (a : BitVec 25) (write : Bool)
  | partialWrite (p : Port) (a : BitVec 25)
  | hifCountRead (p : Port) (partial_ : Bool)
  | twCtlWrite (p : Port) (w : W32)
  | featAcceptWrite (p : Port) (i : Fin 4) (w : W32)
  | featLock (p : Port) (w : W32)
  -- Rings
  | doorbell (r : RingId) (w : W32)
  | ringEnable (r : RingId)
  | ringDisable (r : RingId)
  | ringStopped (r : RingId)
  | ringDmaError (r : RingId) (k : Nat)
  | ringCoalTimer (r : RingId)
  | ringDropsRead (r : RingId)
  | punt (bufs : List (W64 × BitVec 16))
  | inject (descs : List InjDesc)
  | eventRingPost
  -- TwoWire
  | twWrite (addr : BitVec 7) (off data : W32) (pec : Option Byte)
  | twRead (addr : BitVec 7) (off : W32)
  -- Referee
  | eventReport (e : EventId) (sev : BitVec 3) (detail : List Byte)
  | settleEnd (e : EventId)
  | gatherEnd (e : EventId)
  | holdEnd (e : EventId)
  | lastingExpire (e : EventId)
  -- EventRegs
  | evtStatusWrite (p : Port) (g : Fin 32) (w : W32)
  | evtMaskWrite (p : Port) (g : Fin 32) (w : W32)
  | evtForce (p : Port) (w : W32)
  | evtSrcAccess (p : Port)
  -- Well
  | wellScan
  | wellSeverityFlush
  | wellPeriodicFlush
  | wellFlushRecord (ok : Bool)
  | wellFlush (p : Port)
  | pfailFall
  | wellFreeze (p : Port)
  | wellThaw (p : Port)
  | freezeTimeout
  | wellRead (p : Port)
  | challenge (p : Port)
  | challengeExpire
  | clear (p : Port)
  -- Tally
  | tallyOccurrence (sel : BitVec 8) (q : Option (BitVec 3)) (s : Option (BitVec 5)) (count : Nat)
  | talCntCfgWrite (p : Port) (c : Fin 8) (w : W32)
  | tallyFreeze (p : Port) (on : Bool)
  | snap (p : Port) (w : W32)
  | userSnap
  -- Power
  | run (p : Port)
  | doze (p : Port)
  | standby (p : Port)
  | enterDone
  | rtcAlarm
  | wakeNLow
  | pcieWake (perstRise : Bool)
  | energyDetect (n : LaneId) (level : Nat)
  | domainPowerGood (d : DomainId)
  | domainPgTimeout (d : DomainId)
  | voteHostWrite (p : Port) (i : Fin 7) (w : W32)
  | voteTestWrite (p : Port) (i : Fin 7) (w : W32)
  | domFaultClear (p : Port) (i : Fin 7) (w : W32)
  | rtcWrite (p : Port) (w : W32)
  -- Thermal
  | thermalLimit
  | thermalTrip
  | thermalResume
  -- Activation
  | completeUAcknowledged (n : LaneId)
  -- HostBond
  | hbMarkerMissing (n : LaneId)
  | hbDownHoldExpire (n : LaneId)
  -- Traffic
  | shaperEligible (q : QuadId) (down : Bool) (sh : Nat)
  -- Steward
  | stwCmdDone (q : QuadId) (bytes : List Byte) (ok : Bool)
  -- Keys
  | keyCmdDone (bytes : List Byte) (ok : Bool)
  -- Well
  | wellCmdDone
  -- Boot
  | vaultLinkTimeout
  -- Thermal
  | thermalLimitRearm
deriving DecidableEq, Repr

end Sys2Proof
end

