-- ==== Sys2Proof/Decode.lean ====
section
/-!
DEFINITION. The host's reading of a command from the bits of spec/opcode_table.json. The table gives no row any bits: commands come
from outside as writes, reads, received frames and events, so no word spells one (notes/assumptions/2.md).
-/
namespace Sys2Proof

/-- The command that a word of nbits bits spells: none, since no row of the table gives bits. -/
def decodeTableWord (_nbits _w : Nat) : Option Instr := none

end Sys2Proof
end

