-- ==== Sys2Proof/Machine/Bits.lean ====
section
/-!
DEFINITION. Bit fields, byte order, sparse tables and checksums: the plain helpers that every island uses. Wire formats
and records say big-endian or little-endian in their own chapters; both orders are here once.
-/
namespace Sys2Proof.Machine

/-! ### Bit fields of a register word (R5, R6) -/

/-- Field [lo + n − 1 : lo] of a word. -/
def fld {w : Nat} (x : BitVec w) (lo n : Nat) : BitVec n := x.extractLsb' lo n

/-- Bit i of a word. -/
def bit {w : Nat} (x : BitVec w) (i : Nat) : Bool := x.getLsbD i

/-- A field placed at bit lo of a register word. -/
def at' {n : Nat} (lo : Nat) (f : BitVec n) : W32 := (f.setWidth 32) <<< lo

/-- A single-bit field placed at bit lo of a register word. -/
def atB (lo : Nat) (b : Bool) : W32 := if b then (1#32) <<< lo else 0#32

/-- A number as a field of n bits placed at bit lo. -/
def atN (lo n v : Nat) : W32 := at' lo (BitVec.ofNat n v)

/-- The write of an RW register whose writable bits are mask: reserved bits stay 0 (R6). -/
def rw (mask w : W32) : W32 := w &&& mask

/-- The write of a W1C field: 1 clears the bit, 0 has no effect (R6). -/
def w1c {n : Nat} (cur w : BitVec n) : BitVec n := cur &&& ~~~w

/-- The write of a W1C bit. -/
def w1cB (cur : Bool) (w : W32) (i : Nat) : Bool := cur && !(bit w i)

/-- Saturating addition on a counter of n bits. -/
def satAdd {n : Nat} (x : BitVec n) (k : Nat) : BitVec n :=
  if x.toNat + k < 2 ^ n then BitVec.ofNat n (x.toNat + k) else BitVec.allOnes n

/-- A bit vector with bit i set to b. -/
def setBit {w : Nat} (x : BitVec w) (i : Nat) (b : Bool) : BitVec w :=
  if b then x ||| (1#w <<< i) else x &&& ~~~(1#w <<< i)

/-- A word field [lo + n − 1 : lo] replaced. -/
def putFld {w n : Nat} (x : BitVec w) (lo : Nat) (f : BitVec n) : BitVec w :=
  (x &&& ~~~((BitVec.allOnes n).setWidth w <<< lo)) ||| (f.setWidth w <<< lo)

/-! ### Vectors addressed by a number -/

/-- Entry i of a vector, or the default outside it. -/
def vget {α : Type} {n : Nat} (d : α) (v : Vector α n) (i : Nat) : α := v.toList.getD i d

/-- A vector with entry i replaced; unchanged outside it. -/
def vset {α : Type} {n : Nat} (v : Vector α n) (i : Nat) (x : α) : Vector α n :=
  if h : i < n then v.set i x h else v

/-- A vector with entry i changed by f. -/
def vmod {α : Type} {n : Nat} (v : Vector α n) (i : Nat) (f : α → α) : Vector α n :=
  if h : i < n then v.set i (f v[i]) h else v

/-! ### Sparse tables -/

/-- The entry at a key, if one is listed. -/
def Tab.find {α : Type} : Tab α → Nat → Option α
  | [], _ => none
  | (j, x) :: t, k => if j = k then some x else if k < j then none else Tab.find t k

/-- The entry at a key, or the default. -/
def Tab.get {α : Type} (d : α) (t : Tab α) (k : Nat) : α := (Tab.find t k).getD d

/-- The table with no entry at a key. -/
def Tab.del {α : Type} : Tab α → Nat → Tab α
  | [], _ => []
  | (j, x) :: t, k => if j = k then t else if k < j then (j, x) :: t else (j, x) :: Tab.del t k

/-- The table with an entry listed at a key, whatever it is. -/
def Tab.ins {α : Type} : Tab α → Nat → α → Tab α
  | [], k, y => [(k, y)]
  | (j, x) :: t, k, y =>
    if j = k then (k, y) :: t else if k < j then (k, y) :: (j, x) :: t else (j, x) :: Tab.ins t k y

/-- The table with the entry at a key set: the default value is not listed. -/
def Tab.put {α : Type} [DecidableEq α] (d : α) (t : Tab α) (k : Nat) (y : α) : Tab α :=
  if y = d then Tab.del t k else Tab.ins t k y

/-- The table with the entry at a key changed by f. -/
def Tab.mod {α : Type} [DecidableEq α] (d : α) (t : Tab α) (k : Nat) (f : α → α) : Tab α :=
  Tab.put d t k (f (Tab.get d t k))

/-- Every listed entry changed by f; entries that become the default are dropped. -/
def Tab.mapAll {α : Type} [DecidableEq α] (d : α) (t : Tab α) (f : Nat → α → α) : Tab α :=
  (t.map fun p => (p.1, f p.1 p.2)).filter fun p => !(p.2 = d)

/-- The keys rise strictly: the canonical form of a table, without its second half (no entry is the default). -/
def Tab.sorted {α : Type} : Tab α → Bool
  | [] => true
  | [_] => true
  | (j, _) :: (k, y) :: t => decide (j < k) && Tab.sorted ((k, y) :: t)

/-- The canonical form: keys rise strictly and no entry is the default. -/
def Tab.wf {α : Type} [DecidableEq α] (d : α) (t : Tab α) : Bool :=
  Tab.sorted t && t.all fun p => !(decide (p.2 = d))

/-! ### Byte order -/

/-- A number as n bytes, least significant first. -/
def leBytes : Nat → Nat → List Byte
  | 0, _ => []
  | n + 1, v => BitVec.ofNat 8 v :: leBytes n (v / 256)

/-- A number as n bytes, most significant first. -/
def beBytes (n v : Nat) : List Byte := (leBytes n v).reverse

/-- The number that bytes spell, least significant first. -/
def leNat : List Byte → Nat
  | [] => 0
  | b :: t => b.toNat + 256 * leNat t

/-- The number that bytes spell, most significant first. -/
def beNat (bs : List Byte) : Nat := leNat bs.reverse

/-- Bytes i to i + n − 1 of a list. -/
def bytesAt (bs : List Byte) (i n : Nat) : List Byte := (bs.drop i).take n

/-- The big-endian number at offset i. -/
def beAt (bs : List Byte) (i n : Nat) : Nat := beNat (bytesAt bs i n)

/-- The little-endian number at offset i. -/
def leAt (bs : List Byte) (i n : Nat) : Nat := leNat (bytesAt bs i n)

/-- Byte i of a list, 0 beyond its end. -/
def byteAt (bs : List Byte) (i : Nat) : Byte := bs.getD i 0#8

/-- A list of bytes cut or filled with zeros to exactly n bytes. -/
def padTo (n : Nat) (bs : List Byte) : List Byte := (bs ++ List.replicate (n - bs.length) 0#8).take n

/-- n zero bytes. -/
def zeros (n : Nat) : List Byte := List.replicate n 0#8

/-! ### Checksums -/

/-- One bit of the IEEE 802.3 CRC-32, least significant bit first. -/
def crcBit (c : BitVec 32) : BitVec 32 := if bit c 0 then (c >>> 1) ^^^ 0xEDB88320#32 else c >>> 1

/-- One byte of the CRC-32. -/
def crcByte (c : BitVec 32) (b : Byte) : BitVec 32 :=
  let x := c ^^^ b.setWidth 32
  crcBit (crcBit (crcBit (crcBit (crcBit (crcBit (crcBit (crcBit x)))))))

/-- CRC-32 with the IEEE 802.3 polynomial (R512). -/
def crc32 (bs : List Byte) : BitVec 32 := ~~~(bs.foldl crcByte (BitVec.allOnes 32))

/-- One byte of a CRC-8 with polynomial x^8 + x^2 + x + 1, most significant bit first. -/
def crc8Byte (c b : Byte) : Byte :=
  (List.range 8).foldl (fun x _ => if bit x 7 then (x <<< 1) ^^^ 0x07#8 else x <<< 1) (c ^^^ b)

/-- CRC-8 with initial value 0 (R92). -/
def crc8 (bs : List Byte) : Byte := bs.foldl crc8Byte 0

/-- One byte of a CRC-16 with polynomial x^16 + x^12 + x^5 + 1, most significant bit first. -/
def crc16Byte (c : BitVec 16) (b : Byte) : BitVec 16 :=
  (List.range 8).foldl (fun x _ => if bit x 15 then (x <<< 1) ^^^ 0x1021#16 else x <<< 1) (c ^^^ (b.setWidth 16 <<< 8))

/-- CRC-16 with initial value 0xFFFF (R237). -/
def crc16 (bs : List Byte) : BitVec 16 := bs.foldl crc16Byte 0xFFFF#16

/-! ### Counts modulo a power of two -/

/-- a lies at or after b, counted modulo 2^32 within half the range. -/
def seqGe (a b : W32) : Bool := decide ((a - b).toNat < 2 ^ 31)

/-- The number of set bits. -/
def popCount {w : Nat} (x : BitVec w) : Nat := ((List.range w).filter fun i => x.getLsbD i).length

/-- The least number below n that satisfies p. -/
def firstBelow (n : Nat) (p : Nat → Bool) : Option Nat := (List.range n).find? p

end Sys2Proof.Machine
end

