-- ==== Sys2Proof/Machine/Aes.lean ====
section
/-!
DEFINITION. AES with 128-bit and 256-bit keys (FIPS 197), counter mode (SP 800-38A), CMAC (SP 800-38B) and GCM (SP 800-38D), which R4 names by
standard (notes/assumptions/4.md). The S-box is computed: inverse in GF(2^8), then the affine map.
-/
namespace Sys2Proof.Machine

/-! ### GF(2^8) -/

/-- Twice a field element, modulo x^8 + x^4 + x^3 + x + 1. -/
def gfDouble (a : Byte) : Byte := if bit a 7 then (a <<< 1) ^^^ 0x1B#8 else a <<< 1

/-- The product of two field elements. -/
def gfMul (a b : Byte) : Byte :=
  ((List.range 8).reverse).foldl (fun x i => if bit b i then gfDouble x ^^^ a else gfDouble x) 0

/-- a to the power n, by squaring over the bits of n from its highest of k. -/
def gfPow (a : Byte) (n : Nat) : Nat → Byte
  | 0 => 1
  | k + 1 => let x := gfPow a (n / 2) k; if n % 2 = 1 then gfMul (gfMul x x) a else gfMul x x

/-- The S-box. -/
def subByte (a : Byte) : Byte :=
  let b := gfPow a 254 8
  b ^^^ b.rotateLeft 1 ^^^ b.rotateLeft 2 ^^^ b.rotateLeft 3 ^^^ b.rotateLeft 4 ^^^ 0x63#8

/-! ### Cipher -/

/-- Two byte strings added bit by bit, as long as the shorter. -/
def xorBytes (a b : List Byte) : List Byte := List.zipWith (· ^^^ ·) a b

/-- The words of the key schedule, newest first: n more after those given, word i being the next. -/
def keyWords (nk : Nat) (rcon : Byte) : Nat → Nat → List (List Byte) → List (List Byte)
  | 0, _, l => l
  | n + 1, i, l =>
    let t := l.headD []
    let t' :=
      if i % nk = 0 then xorBytes ((t.rotateLeft 1).map subByte) [rcon, 0, 0, 0]
      else if 6 < nk ∧ i % nk = 4 then t.map subByte
      else t
    keyWords nk (if i % nk = 0 then gfDouble rcon else rcon) n (i + 1) (xorBytes (l.getD (nk - 1) []) t' :: l)

/-- The round keys of a key of 16 or 32 bytes, 16 bytes each. -/
def roundKeys (key : List Byte) : List (List Byte) :=
  let nk := key.length / 4
  let first := ((List.range nk).map fun i => bytesAt key (4 * i) 4).reverse
  let ws := (keyWords nk 1 (4 * (nk + 7) - nk) nk first).reverse
  (List.range (nk + 7)).map fun i => (bytesOfWords ws i)
where
  /-- Four words from word 4 × i on. -/
  bytesOfWords (ws : List (List Byte)) (i : Nat) : List Byte := ((ws.drop (4 * i)).take 4).flatMap id

/-- ShiftRows on a block of 16 bytes, column by column. -/
def shiftRows (b : List Byte) : List Byte := (List.range 16).map fun i => b.getD ((i + 4 * (i % 4)) % 16) 0

/-- MixColumns on one column. -/
def mixColumn (c : List Byte) : List Byte :=
  let x (i : Nat) : Byte := c.getD (i % 4) 0
  (List.range 4).map fun i => gfDouble (x i) ^^^ gfDouble (x (i + 1)) ^^^ x (i + 1) ^^^ x (i + 2) ^^^ x (i + 3)

/-- MixColumns on a block. -/
def mixColumns (b : List Byte) : List Byte := (List.range 4).flatMap fun i => mixColumn (bytesAt b (4 * i) 4)

/-- The rounds with the keys that are left; the last has no MixColumns. -/
def aesRounds : List (List Byte) → List Byte → List Byte
  | [], b => b
  | [k], b => xorBytes (shiftRows (b.map subByte)) k
  | k :: ks, b => aesRounds ks (xorBytes (mixColumns (shiftRows (b.map subByte))) k)

/-- One block under round keys. -/
def aesWith (ks : List (List Byte)) (b : List Byte) : List Byte := aesRounds (ks.drop 1) (xorBytes b (ks.headD []))

/-- One block of 16 bytes under a key of 16 or 32 bytes. -/
@[irreducible] def aesBlock (key block : List Byte) : List Byte := aesWith (roundKeys key) block

/-! ### Modes -/

/-- A byte string in blocks of 16, the last one shorter; the fuel bounds the blocks. -/
def blocks16 : Nat → List Byte → List (List Byte)
  | 0, _ => []
  | fuel + 1, l => if l.isEmpty then [] else l.take 16 :: blocks16 fuel (l.drop 16)

/-- The counter block after n increments of its last c bytes. -/
def addCounter (c n : Nat) (b : List Byte) : List Byte :=
  b.take (16 - c) ++ beBytes c ((beNat (b.drop (16 - c)) + n) % 256 ^ c)

/-- Data added to the key stream of counter blocks from iv on, counting in the last c bytes. -/
@[irreducible] def ctrWith (c : Nat) (key iv data : List Byte) : List Byte :=
  let ks := roundKeys key
  (blocks16 data.length data).zipIdx.flatMap fun x => xorBytes x.1 (aesWith ks (addCounter c x.2 iv))

/-- AES counter mode: a counter block of 16 bytes. -/
def aesCtr (key iv data : List Byte) : List Byte := ctrWith 16 key iv data

/-- Twice a CMAC subkey. -/
def doubleKey (l : List Byte) : List Byte :=
  let n := 2 * beNat l
  beBytes 16 (if n < 2 ^ 128 then n else (n - 2 ^ 128) ^^^ 0x87)

/-- AES-CMAC: 16 bytes. -/
@[irreducible] def cmac (key m : List Byte) : List Byte :=
  let ks := roundKeys key
  let k1 := doubleKey (aesWith ks (zeros 16))
  let n := max 1 ((m.length + 15) / 16)
  let last := m.drop (16 * (n - 1))
  let tail := if last.length = 16 then xorBytes last k1 else xorBytes (padTo 16 (last ++ [0x80#8])) (doubleKey k1)
  aesWith ks (xorBytes ((blocks16 m.length (m.take (16 * (n - 1)))).foldl (fun x b => aesWith ks (xorBytes x b)) (zeros 16)) tail)

/-- The product in GF(2^128) of GCM: bit 0 is the most significant, modulo x^128 + x^7 + x^2 + x + 1. -/
def ghMul (x y : BitVec 128) : BitVec 128 :=
  ((List.range 128).foldl
    (fun (a : BitVec 128 × BitVec 128) i =>
      (if bit x (127 - i) then a.1 ^^^ a.2 else a.1,
       if bit a.2 0 then (a.2 >>> 1) ^^^ (0xE1#128 <<< 120) else a.2 >>> 1))
    (0, y)).1

/-- GHASH of a byte string in whole blocks. -/
def ghash (h : BitVec 128) (m : List Byte) : BitVec 128 :=
  (blocks16 m.length m).foldl (fun x b => ghMul (x ^^^ BitVec.ofNat 128 (beNat b)) h) 0

/-- A byte string filled with zeros to whole blocks. -/
def pad16 (b : List Byte) : List Byte := b ++ zeros ((16 - b.length % 16) % 16)

/-- The hash key of a key, and the first counter block for an IV. -/
def gcmH (key : List Byte) : BitVec 128 := BitVec.ofNat 128 (beNat (aesBlock key (zeros 16)))
def gcmJ0 (key iv : List Byte) : List Byte :=
  if iv.length = 12 then iv ++ [0, 0, 0, 1]
  else beBytes 16 (ghash (gcmH key) (pad16 iv ++ zeros 8 ++ beBytes 8 (8 * iv.length))).toNat

/-- The tag over authenticated data and ciphertext. -/
@[irreducible] def gcmTag (key iv aad cipher : List Byte) : List Byte :=
  let x := ghash (gcmH key) (pad16 aad ++ pad16 cipher ++ beBytes 8 (8 * aad.length) ++ beBytes 8 (8 * cipher.length))
  xorBytes (beBytes 16 x.toNat) (aesBlock key (gcmJ0 key iv))

/-- GCM encryption: ciphertext and 16-byte tag. -/
def gcmSeal (key iv aad plain : List Byte) : List Byte × List Byte :=
  let c := ctrWith 4 key (addCounter 4 1 (gcmJ0 key iv)) plain
  (c, gcmTag key iv aad c)

/-- GCM decryption: the plaintext, or none where the tag is wrong. -/
def gcmOpen (key iv aad cipher tag : List Byte) : Option (List Byte) :=
  if gcmTag key iv aad cipher = tag then some (ctrWith 4 key (addCounter 4 1 (gcmJ0 key iv)) cipher) else none

end Sys2Proof.Machine
end

