-- ==== Sys2Proof/Config.lean ====
section
/-!
DEFINITION. What the model leaves uninterpreted. The opaque constants have no body that Lean can see: a free value stands for
what the spec leaves open (notes/assumptions/3.md), a standard function for an algorithm that the spec takes from a standard
by name without giving it and that Machine/ does not define (notes/assumptions/4.md).
-/
namespace Sys2Proof.Config

/-- The part's grade, SYS_ID.GRADE: 0 AK9648-CA, 1 AK9648-EA (R564, R588). Nothing fixes which part the model is. -/
opaque grade : Bool

/-- VERSION and STATE_FMT of Plifovan's factory steward firmware, which the spec does not give (R161, R165). -/
opaque factoryVersion : BitVec 16
opaque factoryStateFmt : BitVec 16

/-- Free value number i of w bits: what the spec leaves open at the i-th place where a step needs such a value. -/
opaque free : (w : Nat) → (i : Nat) → BitVec w

/-- Free bytes: what a place in memory holds where the spec leaves its contents open. -/
opaque freeBytes : (i : Nat) → List Byte

/-! ### Values written at manufacture -/

/-- Public value X ∥ Y of verification key 0, written at manufacture (R416): 96 bytes. -/
opaque plifovanKey : List Byte

/-! ### Hash functions that the spec leaves to the image or the part -/

/-- The two bucket hashes of a bridge or flow key (R306); the seeds are the image's. -/
opaque bucketHash : (flow second : Bool) → (key : List W32) → Nat

/-- The home bucket of a masked prefix of a length (R318). -/
opaque lpmHash : (v6 : Bool) → (len : Nat) → (pre : BitVec 128) → Nat

/-- Hash function k of the length filter (R319). -/
opaque filterHash : (v6 : Bool) → (k len : Nat) → (pre : BitVec 128) → Nat

/-- The depth of the cistern's request queue of a class, in lines beyond which no request is taken (R460). -/
opaque requestDepth : (cls : Nat) → Nat

/-- The set of the fragment table that a key selects (R293). -/
opaque fragSet : (v6 : Bool) → (src dst : BitVec 128) → (ident : W32) → (proto : Byte) → Nat

/-- Placement of field f in the classifier key of quadrant q under an image's opaque sections (R44, R282): [9:0] START, [10] placed. -/
opaque keyPlace : (opaques : List (List Byte)) → (q f : Nat) → BitVec 11

/-- Readback items that an image's opaque sections determine (R44, R55): stage allocation, hash seeds and table geometry. -/
opaque readback : (opaques : List (List Byte)) → (scope item : Nat) → W32

/-- XGEM port ID of the frames that lane n sends upstream from queue j: the spec names a frame's port ID (R188) and gives only
injected frames one (R487). -/
opaque upstreamPort : (n j : Nat) → BitVec 16

/-! ### Functions of G.9807.1, G.989.3 and G.707 -/

/-- Session key of a lane (R154): from the MSK, or from the registration ID where none is installed, with the serial number and
the PON-ID. -/
opaque tcSession : (msk : Option (List Byte)) → (regId : List Byte) → (serial : W64) → (ponId : BitVec 51) → List Byte

/-- PLOAM_IK (0), OMCI_IK (1) and KEK (2) of a session key (R154). -/
opaque tcDerived : (which : Nat) → (sk : List Byte) → List Byte

/-- Wrapping of a TC key with a KEK, and its unwrapping, which may fail its integrity check (R155, R157). -/
opaque tcWrap : (kek key : List Byte) → List Byte
opaque tcUnwrap : (kek wrapped : List Byte) → Option (List Byte)

/-- TC payload encryption in counter mode: key, superframe counter, position in the frame, bytes (R128, R188). -/
opaque tcCipher : (up : Bool) → (key : List Byte) → (sfc : BitVec 51) → (pos : Nat) → (data : List Byte) → List Byte

/-- MIC of an OMCI frame under an OMCI_IK (R158): 4 bytes. -/
opaque omciMic : (key msg : List Byte) → List Byte

/-- The downstream and the upstream channel that a PON-ID stands for (R115), which G.989.3 gives. -/
opaque ponChannels : BitVec 51 → BitVec 4 × BitVec 4

/-- The options field of the XGEM headers sent, of which R122 gives the width alone. -/
opaque xgemOptions : BitVec 18

/-- An idle XGEM frame of a length in G.9807.1's idle format (R186). -/
opaque idleXgem : (len : Nat) → List Byte

/-- The 48 bytes of an upstream PLOAM message in G.9807.1's and G.989.3's formats (R146): type and content, the idle message where there is
none; its MIC is under the key given. -/
opaque usPloam : (onuId : BitVec 10) → (msg : Option (Nat × List Byte)) → (key : List Byte) → List Byte

end Sys2Proof.Config
end

