-- ==== Sys2Proof/Machine/Ecdsa.lean ====
section
/-!
DEFINITION. ECDSA verification on P-384 (FIPS 186-5), which R4 names by standard (notes/assumptions/4.md). Points are in projective
coordinates, so that an inverse is taken once.
-/
namespace Sys2Proof.Machine

/-- The field's prime, the curve's coefficient b, its order and its generator. -/
def p384 : Nat := 2 ^ 384 - 2 ^ 128 - 2 ^ 96 + 2 ^ 32 - 1
def p384B : Nat :=
  0xB3312FA7E23EE7E4988E056BE3F82D19181D9C6EFE8141120314088F5013875AC656398D8A2ED19D2A85C8EDD3EC2AEF
def p384N : Nat :=
  0xFFFFFFFFFFFFFFFFFFFFFFFFFFFFFFFFFFFFFFFFFFFFFFFFC7634D81F4372DDF581A0DB248B0A77AECEC196ACCC52973
def p384Gx : Nat :=
  0xAA87CA22BE8B05378EB1C71EF320AD746E1D3B628BA79B9859F741E082542A385502F25DBF55296C3A545E3872760AB7
def p384Gy : Nat :=
  0x3617DE4A96262C6F5D9E98BF9292DC29F8F41DBD289A147CE9DA3113B5F0B8C00A60B1CE1D7E819D7A431D7C90EA0E5F

/-- A point X : Y : Z with x = X / Z^2 and y = Y / Z^3; Z = 0 is the point at infinity. -/
structure EcPoint where
  x : Nat
  y : Nat
  z : Nat

/-- The point doubled; the coefficient of x is −3. -/
def EcPoint.double (a : EcPoint) : EcPoint :=
  let p := p384
  if a.z = 0 ∨ a.y = 0 then ⟨1, 1, 0⟩
  else
    let yy := a.y * a.y % p
    let s := 4 * a.x * yy % p
    let zz := a.z * a.z % p
    let m := 3 * ((a.x + p - zz) * (a.x + zz) % p) % p
    let x := (m * m + 2 * (p - s)) % p
    ⟨x, (m * (s + p - x) + 8 * (p - yy * yy % p)) % p, 2 * a.y * a.z % p⟩

/-- The sum of two points. -/
def EcPoint.add (a b : EcPoint) : EcPoint :=
  let p := p384
  if a.z = 0 then b
  else if b.z = 0 then a
  else
    let za := a.z * a.z % p
    let zb := b.z * b.z % p
    let u := a.x * zb % p
    let s := a.y * zb % p * b.z % p
    let h := (b.x * za + p - u) % p
    let r := (b.y * za % p * a.z + p - s) % p
    if h = 0 then (if r = 0 then a.double else ⟨1, 1, 0⟩)
    else
      let hh := h * h % p
      let hhh := hh * h % p
      let v := u * hh % p
      let x := (r * r + (p - hhh) + 2 * (p - v)) % p
      ⟨x, (r * (v + p - x) + (p - s) * hhh) % p, h * a.z % p * b.z % p⟩

/-- k times a point, over the lowest n bits of k. -/
def EcPoint.times (a : EcPoint) (k : Nat) : Nat → EcPoint
  | 0 => ⟨1, 1, 0⟩
  | n + 1 => let q := (a.times (k / 2) n).double; if k % 2 = 1 then q.add a else q

/-- a to the power e modulo m, over the lowest n bits of e. -/
def powMod (m a e : Nat) : Nat → Nat
  | 0 => 1
  | n + 1 => let x := powMod m a (e / 2) n; if e % 2 = 1 then x * x % m * a % m else x * x % m

/-- Verification: public value X ∥ Y, digest of 48 bytes, signature r ∥ s. -/
@[irreducible] def ecdsaP384 (pub digest sig : List Byte) : Bool :=
  let n := p384N
  let q : EcPoint := ⟨beAt pub 0 48, beAt pub 48 48, 1⟩
  let r := beAt sig 0 48
  let s := beAt sig 48 48
  let onCurve := decide (q.x < p384 ∧ q.y < p384 ∧ q.y * q.y % p384 = (q.x * q.x * q.x + p384B + 3 * (p384 - q.x)) % p384)
  if pub.length ≠ 96 ∨ sig.length ≠ 96 ∨ !onCurve ∨ r = 0 ∨ n ≤ r ∨ s = 0 ∨ n ≤ s then false
  else
    let w := powMod n s (n - 2) 384
    let g : EcPoint := ⟨p384Gx, p384Gy, 1⟩
    let t := (g.times (beNat digest * w % n) 384).add (q.times (r * w % n) 384)
    t.z != 0 && t.x * powMod p384 (t.z * t.z % p384) (p384 - 2) 384 % p384 % n == r

end Sys2Proof.Machine
end

