-- ==== Sys2Proof/Machine/Sha.lean ====
section
/-!
DEFINITION. SHA-384 and SHA-256 (FIPS 180-4) and HMAC-SHA-256 (FIPS 198-1), which R4 names by standard and edition: the round constants and
initial values are the first bits of the fractional parts of roots of primes, and are computed so (notes/assumptions/4.md).
-/
namespace Sys2Proof.Machine

/-! ### Constants -/

/-- The first n primes from p on; the fuel bounds the numbers tried. -/
def primesFrom : Nat → Nat → Nat → List Nat
  | 0, _, _ => []
  | _, _, 0 => []
  | fuel + 1, p, n + 1 =>
    if (List.range (Nat.sqrt p + 1)).all fun d => decide (d < 2) || p % d != 0 then p :: primesFrom fuel (p + 1) n
    else primesFrom fuel (p + 1) (n + 1)

/-- The largest x below 2^bits with f x at most n, for a rising f. -/
def rootBelow (f : Nat → Nat) (n : Nat) : Nat → Nat
  | 0 => 0
  | b + 1 =>
    let hi := rootBelow (fun x => f (2 * x)) n b
    if f (2 * hi + 1) ≤ n then 2 * hi + 1 else 2 * hi

/-- The first w bits of the fractional part of the square root of p, and of its cube root. -/
def sqrtBits (w p : Nat) : Nat := rootBelow (fun x => x * x) (p * 2 ^ (2 * w)) (w + 8) % 2 ^ w
def cbrtBits (w p : Nat) : Nat := rootBelow (fun x => x * x * x) (p * 2 ^ (3 * w)) (w + 8) % 2 ^ w

/-! ### Compression, for words of w bits -/

/-- What SHA-256 and SHA-512 differ in: rounds, and the amounts of the six functions' rotations and shifts. -/
structure ShaPar where
  rounds : Nat
  big0 : Nat × Nat × Nat
  big1 : Nat × Nat × Nat
  small0 : Nat × Nat × Nat
  small1 : Nat × Nat × Nat

/-- The parameters for words of 32 and of 64 bits. -/
def sha256Par : ShaPar := ⟨64, (2, 13, 22), (6, 11, 25), (7, 18, 3), (17, 19, 10)⟩
def sha512Par : ShaPar := ⟨80, (28, 34, 39), (14, 18, 41), (1, 8, 7), (19, 61, 6)⟩

/-- Three rotations, and two rotations with a shift. -/
def rot3 {w : Nat} (x : BitVec w) (r : Nat × Nat × Nat) : BitVec w := x.rotateRight r.1 ^^^ x.rotateRight r.2.1 ^^^ x.rotateRight r.2.2
def rot2 {w : Nat} (x : BitVec w) (r : Nat × Nat × Nat) : BitVec w := x.rotateRight r.1 ^^^ x.rotateRight r.2.1 ^^^ (x >>> r.2.2)

/-- The message schedule, newest word first, from the sixteen words of a block. -/
def shaSchedule {w : Nat} (p : ShaPar) : Nat → List (BitVec w) → List (BitVec w)
  | 0, l => l
  | n + 1, l =>
    shaSchedule p n ((rot2 (l.getD 1 0) p.small1 + l.getD 6 0 + rot2 (l.getD 14 0) p.small0 + l.getD 15 0) :: l)

/-- One round on the eight working words. -/
def shaRound {w : Nat} (p : ShaPar) (v : List (BitVec w)) (kw : BitVec w) : List (BitVec w) :=
  match v with
  | [a, b, c, d, e, f, g, h] =>
    let t1 := h + rot3 e p.big1 + ((e &&& f) ^^^ (~~~e &&& g)) + kw
    let t2 := rot3 a p.big0 + ((a &&& b) ^^^ (a &&& c) ^^^ (b &&& c))
    [t1 + t2, a, b, c, d + t1, e, f, g]
  | _ => v

/-- The hash value after one block. -/
def shaBlock {w : Nat} (p : ShaPar) (ks : List (BitVec w)) (h block : List (BitVec w)) : List (BitVec w) :=
  let ws := (shaSchedule p (p.rounds - 16) block.reverse).reverse
  List.zipWith (· + ·) h ((List.zipWith (· + ·) ks ws).foldl (shaRound p) h)

/-- A list in pieces of n; the fuel bounds the pieces. -/
def pieces {α : Type} (n : Nat) : Nat → List α → List (List α)
  | 0, _ => []
  | fuel + 1, l => if l.isEmpty then [] else l.take n :: pieces n fuel (l.drop n)

/-- The message padded to whole blocks of b bytes: a 1 bit, zeros, and its length in bits. -/
def shaPad (b : Nat) (m : List Byte) : List Byte :=
  let body := m ++ [0x80#8]
  let tail := b / 8
  body ++ zeros ((b - (body.length + tail) % b) % b) ++ beBytes tail (8 * m.length)

/-- The hash of a message with words of w bits from an initial value, as bytes. -/
def shaWith (w : Nat) (p : ShaPar) (iv : List (BitVec w)) (m : List Byte) : List Byte :=
  let ks := (primesFrom 500 2 p.rounds).map fun q => BitVec.ofNat w (cbrtBits w q)
  let padded := shaPad (2 * w) m
  let blocks := (pieces (2 * w) (padded.length + 1) padded).map fun b =>
    (pieces (w / 8) 17 b).map fun x => BitVec.ofNat w (beNat x)
  (blocks.foldl (shaBlock p ks) iv).flatMap fun x => beBytes (w / 8) x.toNat

/-- SHA-384: 48 bytes. -/
@[irreducible] def sha384 (m : List Byte) : List Byte :=
  (shaWith 64 sha512Par (((primesFrom 100 2 16).drop 8).map fun p => BitVec.ofNat 64 (sqrtBits 64 p)) m).take 48

/-- SHA-256: 32 bytes. -/
@[irreducible] def sha256 (m : List Byte) : List Byte :=
  shaWith 32 sha256Par ((primesFrom 100 2 8).map fun p => BitVec.ofNat 32 (sqrtBits 32 p)) m

/-- HMAC-SHA-256: 32 bytes. -/
def hmacSha256 (key m : List Byte) : List Byte :=
  let k := padTo 64 (if 64 < key.length then sha256 key else key)
  sha256 (k.map (· ^^^ 0x5C#8) ++ sha256 (k.map (· ^^^ 0x36#8) ++ m))

end Sys2Proof.Machine
end

