-- ==== Sys2Proof/Machine/Parts/Evt.lean ====
section
/-!
DEFINITION. The state of the events island (0x03): its registers (R509 to R511) and what the referee keeps of each source
(R500 to R505).
-/
namespace Sys2Proof.Machine

/-- A location code, level by level (R8, R489): a level that the code does not reach is all ones. P is always 0. -/
structure Loc where
  d : Byte := 0xFF#8
  q : Byte := 0xFF#8
  s : Byte := 0xFF#8
  b : Byte := 0xFF#8
  w : BitVec 16 := 0xFFFF#16
  c : BitVec 16 := 0xFFFF#16
deriving DecidableEq, Repr

/-- A report of an event source, as the source makes it (R496, R498, R500). -/
structure Report where
  sev : BitVec 3 := 0
  cls : BitVec 4 := 0
  forced : Bool := false
  loc : Loc := {}
  detail : List Byte := []
deriving DecidableEq, Repr

/-- A raised report with the fields that are filled at its raise (R513); symp goes on gathering until the record is
written. -/
structure Raised where
  event : BitVec 16 := 0
  rep : Report := {}
  lasting : Bool := false
  direct : Bool := false
  ops : W32 := 0
  pwr : W32 := 0
  timeValid : Bool := false
  time : W64 := 0
  symp : W32 := 0
deriving DecidableEq, Repr

/-- What the referee keeps of one source (R500 to R505, R511). The default is the source in priming. -/
structure Src where
  /-- The condition holds (R497). -/
  active : Bool := false
  /-- Reports in their settle time, oldest first. -/
  settle : List Report := []
  /-- Sympathetic reports counted while this source's own report is still in its settle time. -/
  early : W32 := 0
  /-- Raised reports in their gather time, oldest first. -/
  gather : List Raised := []
  /-- The hold window is running (R501). -/
  hold : Bool := false
  /-- The last settled report was sympathetic, so that counts go on to the parent (R500 step 3). -/
  absorbed : Bool := false
  /-- Sympathetic reports that arrived after the record was written (R502). -/
  late : W32 := 0
  /-- Sequence number of the last record written for this source. -/
  lastSeq : W32 := 0
  lasting : Bool := false
  sev : BitVec 3 := 0
  /-- Class of the last report, for the sources whose class varies (R511). -/
  cls : BitVec 4 := 0
  /-- Times of the kept occurrences, newest first, on the referee's clock. -/
  occ : List Nat := []
  sympRx : W32 := 0
  sympTx : W32 := 0
  raises : W32 := 0
deriving DecidableEq, Repr

/-- The events island (R509 to R511). -/
structure Evt where
  status : Vector W32 32 := Vector.replicate 32 0
  mask : Vector W32 32 := Vector.replicate 32 0xFFFFFFFF#32
  /-- EVT_GRP_MAP: VEC [5:0], MSIX_EN [8], INTN_EN [9]. -/
  map : Vector W32 32 := Vector.replicate 32 0
  /-- EVT_CTL: SETTLE 4, GATHER 20, HOLD 50. -/
  ctl : W32 := 0x00321404#32
  /-- EVT_LAST_CTL: WINDOW 10, THRESH 3. -/
  lastCtl : W32 := 0x0000030A#32
  /-- EVT_RING_CTL: MIN_SEV 1. -/
  ringCtl : W32 := 1#32
  /-- EVT_SRC_SEL: SOURCE [9:0], WORD [11:10], AUTO_INC [12]. -/
  srcSel : W32 := 0
  /-- The sources that are not in priming. -/
  srcs : Tab Src := []
  /-- Raised reports with their record's SEQ on their way to the event ring, oldest first (R489). -/
  toRing : List (W32 × Raised) := []
  /-- The referee's clock in 0.1 ns; it stands still in Standby (R503). -/
  clk : Nat := 0
deriving DecidableEq, Repr

end Sys2Proof.Machine
end

