-- ==== Sys2Proof/Machine/Parts/Well.lean ====
section
/-!
DEFINITION. The state of the well island (0x04, R512 to R525) and of the tally island (0x05, R526 to R530).
-/
namespace Sys2Proof.Machine

/-- A well record (R512). CHECK is computed from the other fields when the record is read. -/
structure WellRec where
  seq : W32 := 0
  raised : Raised := {}
  /-- REPEAT (R515). -/
  rep : BitVec 16 := 0
  lastTime : W64 := 0
  lastOps : W32 := 0
deriving DecidableEq, Repr

/-- A record of the RAM buffer: flushed, and its REPEAT changed since (R516). -/
structure RamRec where
  body : WellRec := {}
  flushed : Bool := false
  dirty : Bool := false
deriving DecidableEq, Repr

/-- A flush in progress (R516, R518). -/
structure Flush where
  /-- The records still to write, in the order of the flush. -/
  todo : List W32 := []
  /-- Records from this SEQ on are new to the flush. -/
  upTo : W32 := 0
  /-- The power-fail sequence of R518. -/
  pfail : Bool := false
deriving DecidableEq, Repr

/-- A well command that has not yet completed. -/
inductive WellCmd where
  | read
  | challenge
  | clear
deriving DecidableEq, Repr

/-- The well island (R524). -/
structure Well where
  busy : Option WellCmd := none
  frozen : Bool := false
  freezeBroken : Bool := false
  found : Bool := false
  endSeen : Bool := false
  discardSeen : Bool := false
  scanned : Bool := false
  err : BitVec 4 := 0
  seqNext : W32 := 0
  discards : W32 := 0
  badCnt : W32 := 0
  rdSeq : W32 := 0
  frozenSeq : W32 := 0
  chal : Vector W32 8 := Vector.replicate 8 0
  token : Vector W32 8 := Vector.replicate 8 0
  recWin : Vector W32 32 := Vector.replicate 32 0
  /-- A challenge is valid (R522). -/
  chalValid : Bool := false
  /-- RAM buffer in SEQ order, oldest first; at most 4,096. -/
  ram : List RamRec := []
  /-- Side buffer in SEQ order; at most 256 (R520). -/
  side : List RamRec := []
  /-- Reports raised before the boot scan completed (R514), oldest first. -/
  preScan : List Raised := []
  flush : Option Flush := none
  /-- A flush trigger is kept until the thaw or the end of the power-fail sequence (R518, R520). -/
  kept : Bool := false
  /-- A record of severity 3 or 4 waits for its flush 1 ms after it (R516). -/
  sevDue : Bool := false
  /-- The last record written may still absorb (R515). -/
  openRec : Bool := false
  /-- Time counted towards the next operating minute, in 0.1 ns (R513). -/
  opsClk : Nat := 0
  /-- The power-fail sequence ran since RESET_N (R518). -/
  pfailSeen : Bool := false
deriving DecidableEq, Repr

/-- The tally island (R530). -/
structure Tally where
  freeze : Bool := false
  userEn : Bool := false
  userSnap : Bool := false
  wrap : BitVec 8 := 0
  tickWrap : Bool := false
  snapSeq : W32 := 0
  tick : W64 := 0
  cfg : Vector W32 8 := Vector.replicate 8 0
  cnt : Vector (BitVec 48) 8 := Vector.replicate 8 0
  snapTick : W64 := 0
  snap : Vector (BitVec 48) 8 := Vector.replicate 8 0
deriving DecidableEq, Repr

end Sys2Proof.Machine
end

