-- ==== Sys2Proof/Machine/Parts/Key.lean ====
section
/-!
DEFINITION. The state of the Lomisk vault (R390, R413 to R416) and of the key island (0x07): commands, root copies, key
cache, lookaside key table (R419 to R424) and the two context stores (R387 to R389).
-/
namespace Sys2Proof.Machine

/-! ### The vault -/

/-- STATE of a root-key slot (R390). -/
inductive SlotState where
  | empty
  | loaded
  | erasing
deriving DecidableEq, Repr

/-- KEY_SLOT_INFO.STATE. -/
def SlotState.code : SlotState → BitVec 2
  | .empty => 0
  | .loaded => 1
  | .erasing => 2

/-- A root-key slot of the vault (R390). -/
structure RootSlot where
  state : SlotState := .empty
  side : Bool := false
  purposes : BitVec 5 := 0
  gen : W32 := 0
  key : List Byte := List.replicate 32 0#8
deriving DecidableEq, Repr

/-- The commit word (R49): the slot (false A, true B), the serial and the first eight bytes of the signed digest. -/
structure CommitWord where
  slotB : Bool
  serial : W32
  digest : W64
deriving DecidableEq, Repr

/-- A stored steward firmware image (R161). -/
structure FwImage where
  bytes : List Byte
  version : BitVec 16
  stateFmt : BitVec 16
deriving DecidableEq, Repr

/-- The Lomisk vault: what survives reset and loss of power (R413). -/
structure Vault where
  slots : Vector RootSlot 16 := Vector.replicate 16 {}
  provOpen : Bool := true
  imageA : Option (List Byte) := none
  imageB : Option (List Byte) := none
  commit : Option CommitWord := none
  /-- Well region: the records held (R517), and the slots whose record fails its CHECK (R514). -/
  well : List WellRec := []
  wellBad : Nat := 0
  /-- Monotonic counters 0 to 7 (R415). -/
  floor : W32 := 0
  sealStart : BitVec 24 := 0
  powerCycles : W32 := 0
  operatingS : W32 := 0
  mono : Vector W32 4 := Vector.replicate 4 0
  tamperLatched : Bool := false
  tamperCauses : BitVec 5 := 0
  /-- Public values X ∥ Y of verification keys 1 to 3 (R416). -/
  vk : Vector (Option (List Byte)) 3 := Vector.replicate 3 none
  /-- The serial recorded for each of verification keys 1 to 3. -/
  vkSerial : Vector W32 3 := Vector.replicate 3 0
  /-- Committed steward firmware of each quadrant (R165). -/
  fw : Vector (Option FwImage) 4 := Vector.replicate 4 none
  /-- DISABLED, one bit for each lane (R141). -/
  disabled : BitVec 96 := 0
  /-- Factory values of LN_TS_CAL_n (R432). -/
  cal : Vector W32 96 := Vector.replicate 96 0
deriving DecidableEq, Repr

/-! ### Labels and the cache -/

/-- A context label with the generation fixed for the request (R397, R400): the 48 bytes are `labelBytes` of it. -/
structure KeyName where
  slot : BitVec 4
  purpose : BitVec 3
  direction : Bool
  service : W32
  epoch : W32
  site : W32
  bits256 : Bool
  gen : W32
deriving DecidableEq, Repr

/-- An entry of the key cache (R399), most recently used first in the list. -/
structure CacheEntry where
  name : KeyName
  key : List Byte
deriving DecidableEq, Repr

/-- The key island's copy of a root key, and the old generation kept while its jobs last (R391, R403). -/
structure RootCopy where
  key : Option (List Byte) := none
  gen : W32 := 0
  oldKey : Option (List Byte) := none
  oldGen : W32 := 0
deriving DecidableEq, Repr

/-- The key-island commands that stay BUSY until their completion command (R420, R421). -/
inductive KeyOp where
  | importSlot (slot : BitVec 4) (side : Bool) (purposes : BitVec 5) (key : List Byte)
  | erase (slot : BitVec 4)
  | closeProv
  | vkInstall
  | mskSet (lane : BitVec 7) (key : List Byte)
  | mskClear (lane : BitVec 7)
  | prefetch
  | tamperClear
  | monoIncr (c : BitVec 4)
deriving DecidableEq, Repr

/-! ### Context stores -/

/-- A secure association (R388): words 0 to 15, and the counters of words 16 to 27. -/
structure Assoc where
  w : Vector W32 16 := Vector.replicate 16 0
  cnt : Vector W64 6 := Vector.replicate 6 0
  /-- Events 992 and 993 are raised once for each association (R369). -/
  thSeen : Bool := false
  exhSeen : Bool := false
  /-- The packet number 2^64 − 1 of an XPN association has been used. -/
  spent : Bool := false
deriving DecidableEq, Repr

/-- A tributary entry (R389): words 0 to 4, COUNTER, START and the counters of words 8 to 15. -/
structure TribCtx where
  w : Vector W32 5 := Vector.replicate 5 0
  counter : W64 := 0
  start : BitVec 24 := 0
  /-- SEAL_START could not be raised: the entry seals nothing (R415). -/
  dead : Bool := false
  /-- Blocks of the context dropped before they had their number, since the last one that was not (R261). -/
  gap : Nat := 0
  /-- Event 994 was raised for the present START (R374). -/
  exhSeen : Bool := false
  cnt : Vector W64 4 := Vector.replicate 4 0
deriving DecidableEq, Repr

/-- A lookaside key entry (R424). -/
abbrev LaKey := Vector W32 4

/-- The state of a CTR_DRBG with AES-256 (R412): its key and its counter block. -/
structure Drbg where
  key : BitVec 256 := 0
  v : BitVec 128 := 0
deriving DecidableEq, Repr

/-- The key island (R419 to R424, R387). -/
structure KeyIsland where
  ready : Bool := false
  busy : Option KeyOp := none
  /-- ZEROISED holds at least until the steps of R407 are complete. -/
  zeroNLow : Bool := false
  trngFail : Bool := false
  err : BitVec 4 := 0
  /-- KEY_ZCFG. -/
  zcfg : W32 := 0x0000001E#32
  slotSel : BitVec 4 := 0
  monoSel : BitVec 3 := 0
  hostAddr : W64 := 0
  cntAddr : BitVec 4 := 0
  cnt : Vector W64 8 := Vector.replicate 8 0
  data : Vector W32 16 := Vector.replicate 16 0
  vkSel : W32 := 0
  /-- KEY_LA_ADDR: ITEM [9:0], AUTO_INC [10]. -/
  laAddr : W32 := 0
  la : Tab LaKey := []
  /-- KEY_CTX_ADDR: ITEM [17:0], AUTO_INC [18], TRB [19]. -/
  ctxAddr : W32 := 0
  ctxRefused : Bool := false
  ctxCause : BitVec 2 := 0
  assoc : Tab Assoc := []
  trib : Tab TribCtx := []
  copies : Vector RootCopy 16 := Vector.replicate 16 {}
  cache : List CacheEntry := []
  /-- Derivations that wait: demand misses, then prefetches (R398, R402). -/
  demand : List KeyName := []
  prefetch : List KeyName := []
  /-- MSKs of the line lanes (R417): key at the lane number. -/
  msk : Tab (List Byte) := []
  /-- Session keys that the line lanes have derived (R154): key at the lane number. -/
  tcSk : Tab (List Byte) := []
  /-- Generate requests since the master generator's last reseed (R412). -/
  drbgCount : Nat := 0
  drbg : Drbg := {}
  drbgReseeds : Nat := 0
deriving DecidableEq, Repr

end Sys2Proof.Machine
end

