-- ==== Sys2Proof/Machine/Parts/Time.lean ====
section
/-!
DEFINITION. The state of the time island (0x06, R425 to R450) and of a lane's timestamp point (R429 to R432, R451).
-/
namespace Sys2Proof.Machine

/-- The servo's states with their codes (R441). -/
inductive ServoState where
  | priming
  | acquire
  | locked
  | holdover
  | host
deriving DecidableEq, Repr

/-- TIM_STATUS.STATE (R449). -/
def ServoState.code : ServoState → BitVec 3
  | .priming => 0
  | .acquire => 1
  | .locked => 2
  | .holdover => 3
  | .host => 4

/-- A stamp of R431: nanoseconds, fraction of 2^−16 ns, and the time island's status as the replica had it. -/
structure Stamp where
  ns : W64 := 0
  frac : BitVec 16 := 0
  state : BitVec 3 := 0
  valid : Bool := false
  stale : Bool := false
deriving DecidableEq, Repr

/-- An entry of the transmit timestamp queue (R434). -/
structure TxStamp where
  tag : BitVec 16 := 0
  lane : BitVec 7 := 0
  stamp : Stamp := {}
deriving DecidableEq, Repr

/-- A comparator (R444, R445, R450). -/
structure Cmp where
  tgt : W64 := 0
  per : W32 := 0
  armed : Bool := false
  fired : Bool := false
  refused : Bool := false
  missed : BitVec 16 := 0
  target : BitVec 40 := 0
  /-- The target did not lie ahead when it was armed, or a step passed it: the comparator fires at the next tick. -/
  due : Bool := false
deriving DecidableEq, Repr

/-- The PSync stamp of a frame of REF_LANE that has not yet been taken as a sample: time in 2^−32 ns and superframe
counter (R430, R440). -/
structure PsyncStamp where
  time : Int
  sfc : BitVec 51
deriving DecidableEq, Repr

/-- The time island (R448 to R450). Times are in units of 2^−32 ns unless a field says otherwise. -/
structure Time where
  /-- The count with its fraction, 96 bits (R425). -/
  count : BitVec 96 := 0
  incr : BitVec 40 := 0x019999999A#40
  /-- TIM_INCR_LO as last written (R426). -/
  incrLo : W32 := 0x9999999A#32
  holdIncr : BitVec 40 := 0x019999999A#40
  /-- TIM_CTL: STEP_EN 1, KP 4, KI 10, LOCK_TH 1, STEP_TH 10. -/
  ctl : W32 := 0x0A1A4200#32
  state : ServoState := .priming
  /-- TIM_STATUS.PRIMING: no rate learned. -/
  noRate : Bool := true
  timeSet : Bool := false
  /-- The reference is present, for SRC = 2 (R441). -/
  ppsPresent : Bool := false
  todArmed : Bool := false
  stepped : Bool := false
  refLost : Bool := false
  err : BitVec 4 := 0
  /-- The last phase error (R448), in 2^−32 ns. -/
  lastE : Int := 0
  arg : W64 := 0
  /-- TIM_TOD_SFC. -/
  todSfc : BitVec 51 := 0
  /-- The armed latch's tod and N (R438). -/
  latchTod : W64 := 0
  latchN : BitVec 51 := 0
  dispD0 : W32 := 17000#32
  dispS0 : W32 := 5700#32
  dispL0 : W32 := 1550000#32
  kmDelay : BitVec 16 := 4897#16
  wlAddr : BitVec 5 := 0
  wl : Vector W32 32 := Vector.replicate 32 0
  /-- τ_ds, none while unknown (R436). -/
  tau : Option Int := none
  /-- TIM_TAU_DS. -/
  tau16 : W32 := 0xFFFFFFFF#32
  /-- TIM_PPS_CTL: WIDTH 100. -/
  ppsCtl : W32 := 0x00000190#32
  ppsOfs : W32 := 0
  ppsInOfs : W32 := 0
  /-- The last PPS_IN stamp: count and fraction. -/
  ppsStamp : Stamp := {}
  /-- The last PPS_IN edge and the last usable one, on the model's clock, and the sample that waits (R441, R446). -/
  ppsLastEdge : Option Nat := none
  ppsLastUsable : Option Nat := none
  ppsSample : Option Int := none
  /-- PPS_OUT is high, with the sixteenth of its tick at which it rose and its WIDTH in ms (R446). -/
  ppsOut : Bool := false
  ppsPhase : Nat := 0
  ppsWidth : Nat := 100
  /-- A whole second plus TIM_PPS_OFS that the count has reached by its ticks and that has given no pulse yet, as a sixteenth of a tick. -/
  ppsDue : Option Nat := none
  /-- TCLK_OUT is high. -/
  tclk : Bool := false
  txq : List TxStamp := []
  txqOvf : Bool := false
  txqDrops : W32 := 0
  cmp : Vector Cmp 8 := Vector.replicate 8 {}
  /-- The remainder of a SLEW and its rate in ppm (R428). -/
  slew : Int := 0
  slewPpm : Nat := 1
  /-- The learned frequency term f, in 2^−32 ns / (2^15 × 625,000,000). -/
  freq : Int := 0
  /-- Anchor: the departure time of frame N at the reference (R439 to R441). -/
  anchor : Option PsyncStamp := none
  psync : Option PsyncStamp := none
  /-- Samples since entry to ACQUIRE, and the runs of consecutive samples that R441 judges. -/
  samples : Nat := 0
  lowRun : Nat := 0
  highRun : Nat := 0
  wildRun : Nat := 0
  /-- Samples of HOLDOVER, newest first, no two further apart than STEP_TH. -/
  holdRun : List Int := []
  /-- Changes of the increment, newest first: model time and value (R441, HOLD_INCR). -/
  incrHist : List (Nat × BitVec 40) := []
deriving DecidableEq, Repr

/-- A lane's timestamp point (R451) and its replica of the count (R429). -/
structure LaneTs where
  calBusy : Bool := false
  /-- Tags of frames with a stamp request that have left and whose stamp has still to be taken (R430). -/
  tags : List (BitVec 16) := []
  calFail : Bool := false
  stale : Bool := false
  rxDelay : BitVec 16 := 0
  txDelay : BitVec 16 := 0
  asym : W32 := 0
  /-- The replica at its last update, the model time of that update, and the increment and status it received. -/
  repBase : BitVec 96 := 0
  repAt : Nat := 0
  repIncr : BitVec 40 := 0x019999999A#40
  repState : BitVec 3 := 0
  repValid : Bool := false
deriving DecidableEq, Repr

end Sys2Proof.Machine
end

