-- ==== Sys2Proof/Machine/Parts/Frame.lean ====
section
/-!
DEFINITION. A frame on its way through a quadrant pipeline (R276 to R300), the jobs of the cipher cluster (R361 to R378), the
queues, shapers and policers (R333 to R356), and the state of a quadrant island.
-/
namespace Sys2Proof.Machine

/-! ### Frames -/

/-- The action words 40 to 42 of a rule (R285) with the rule's index. -/
structure Act where
  w40 : W32 := 0
  w41 : W32 := 0
  w42 : W32 := 0
  rule : BitVec 12 := 0
deriving DecidableEq, Repr

/-- Fields of the action words (R285); CIPHER_OP 5 to 7 act as 0. -/
def Act.verdict (a : Act) : Nat := (a.w40.extractLsb' 1 2).toNat
def Act.rally (a : Act) : Bool := a.w40.getLsbD 3
def Act.ptpEvent (a : Act) : Bool := a.w40.getLsbD 4
def Act.tc (a : Act) : BitVec 3 := a.w40.extractLsb' 5 3
def Act.lkBridge (a : Act) : Bool := a.w40.getLsbD 8
def Act.lkFlow (a : Act) : Bool := a.w40.getLsbD 9
def Act.lkLpm (a : Act) : Bool := a.w40.getLsbD 10
def Act.spreadEn (a : Act) : Bool := a.w40.getLsbD 11
def Act.spread (a : Act) : Nat := (a.w40.extractLsb' 12 6).toNat
def Act.queueEn (a : Act) : Bool := a.w40.getLsbD 18
def Act.queue (a : Act) : BitVec 12 := a.w40.extractLsb' 20 12
def Act.policer (a : Act) : Option (BitVec 14) :=
  if a.w41.getLsbD 14 then some (a.w41.extractLsb' 0 14) else none
def Act.ctx (a : Act) : Nat := (a.w41.extractLsb' 16 13).toNat
def Act.cipherOp (a : Act) : Nat :=
  let o := (a.w41.extractLsb' 29 3).toNat
  if 4 < o then 0 else o
def Act.metaWord (a : Act) : BitVec 16 := a.w42.extractLsb' 0 16
def Act.puntReason (a : Act) : Byte := a.w42.extractLsb' 16 8

/-- Colours of R346. -/
inductive Colour where
  | green
  | yellow
  | red
deriving DecidableEq, Repr

/-- What the parser took from a frame (R276, R281): absent fields read as 0. -/
structure Hdr where
  deep : Bool := false
  dmac : BitVec 48 := 0
  smac : BitVec 48 := 0
  /-- TCIs of the outer tags, outermost first, and the EtherType after them. -/
  tags : List (BitVec 16) := []
  etype : BitVec 16 := 0
  secTag : Bool := false
  sci : W64 := 0
  tciAn : Byte := 0
  /-- Label, TC and S of each label, outermost first. -/
  mpls : List (BitVec 24) := []
  ipVer : BitVec 4 := 0
  ipSa : BitVec 128 := 0
  ipDa : BitVec 128 := 0
  proto : Byte := 0
  tos : Byte := 0
  flow : BitVec 20 := 0
  ttl : Byte := 0
  ipOpt : Bool := false
  ipExt : Bool := false
  /-- The innermost IP datagram is fragmented: its key, more-fragments, and whether the offset is 0 (R293). -/
  frag : Option FragKey := none
  fragMore : Bool := false
  fragFirst : Bool := false
  l4 : Bool := false
  l4Src : BitVec 16 := 0
  l4Dst : BitVec 16 := 0
  tcpFlags : Byte := 0
  vxlan : Bool := false
  vni : BitVec 24 := 0
  gre : Bool := false
  greKey : W32 := 0
  inner : Bool := false
  inDmac : BitVec 48 := 0
  inEtype : BitVec 16 := 0
  ptp : Bool := false
  ptpType : BitVec 4 := 0
  ptpDomain : Byte := 0
  trib : Bool := false
  bond : Bool := false
  icmp : BitVec 16 := 0
deriving DecidableEq, Repr

/-- Where a frame goes (R311, R313). -/
inductive Dest where
  | lane (n : Nat)
  | spread (d : Nat)
  | flood
deriving DecidableEq, Repr

/-- A later fragment's decision and the decision that a first fragment records (R294). -/
structure Decision where
  /-- 0 forward; 2 punt; 3 forward and copy. -/
  verdict : Nat
  /-- Reason and whether the terminal, and not a rule, punts. -/
  reason : Byte
  terminal : Bool
  dest : Option Dest
  queue : Option (BitVec 12)
  tc : BitVec 3
  policer : Option (BitVec 14)
  ptp : Bool
  hash : W32
deriving DecidableEq, Repr

/-- A frame in the pipeline: from the first destination-address byte through the FCS. -/
structure Frame where
  /-- The lane it entered on, whether it came from a line lane, and its XGEM port. -/
  lane : Nat := 0
  down : Bool := false
  xgemPort : BitVec 16 := 0
  bytes : List Byte := []
  stamp : Option Stamp := none
  /-- Bank taken on the first pass, and its epoch (R288); the epoch was retired while the frame was in a core (R289). -/
  bank : Bool := false
  epoch : BitVec 16 := 0
  retired : Bool := false
  /-- The first pass's action, and the frame's action: none where no rule gave it (R290, R291, R295). -/
  first : Option Act := none
  act : Option Act := none
  hdr : Hdr := {}
  ptp : Bool := false
  /-- The spread domain's lane byte, read when the frame is classified, and the spread hash (R211). -/
  spreadLane : Option Byte := none
  hash : W32 := 0
  /-- A later fragment took this decision (R295). -/
  later : Option Decision := none
  /-- As settled by R312. -/
  dest : Option Nat := none
  queue : Option (BitVec 12) := none
  tc : BitVec 3 := 0
  policer : Option (BitVec 14) := none
  /-- The result of its LPM lookup (R319). -/
  lpmRes : Option W32 := none
  /-- Metering is done, with its colour (R345); egress or seal is done. -/
  policed : Bool := false
  /-- A first fragment whose decision is in the fragment table (R294). -/
  recorded : Bool := false
  colour : Colour := .green
  ciphered : Bool := false
  /-- Tributary frame made by the lane's packetiser: its context. Opened block: whether it passed. -/
  sealCtx : Option W32 := none
  /-- Counter values that the block passes over (R261). -/
  sealGap : Nat := 0
  opened : Option Bool := none
  /-- An injected frame with a stamp request: its tag; an OMCI or other frame that is given its XGEM port (R487). -/
  txTag : Option (BitVec 16) := none
  omci : Bool := false
deriving DecidableEq, Repr

/-! ### Cipher jobs -/

/-- What a job does (R361). -/
inductive JobKind where
  | ingress
  | egress
  | seal
  | open_
deriving DecidableEq, Repr

/-- How a returned job ended. -/
inductive JobEnd where
  /-- The frame with its output bytes. -/
  | done (out : List Byte)
  | authFail
  /-- The block's epoch is not accepted, or no entry is open for its context (R375). -/
  | epochBad
  | noKey
  | erased
deriving DecidableEq, Repr

/-- A dispatched job (R362, R363): the values it took at dispatch, and its end once it has returned. -/
structure Job where
  kind : JobKind
  frame : Frame
  /-- Association index, or tributary-store entry. -/
  ctx : Nat
  tag : Nat
  name : KeyName
  assoc : Assoc := {}
  pn : W64 := 0
  epoch : W32 := 0
  counter : W64 := 0
  /-- The core whose slot runs it; on the fallback pipeline where the flag is set. -/
  core : Nat
  onFallback : Bool := false
  /-- AES blocks, and clocks on a core at the mean feint draw, in half clocks (R357, R358). -/
  blocks : Nat := 1
  cost : Nat := 0
  /-- Clocks that the job costs its core with the feint pairs drawn for its blocks and the load of its key (R357, R358, R360). -/
  clocks : Nat := 0
  /-- An open job whose block has no entry, or an epoch that is not accepted (R375). -/
  bad : Bool := false
  /-- Its quadrant has gone dark since: the frame goes to the sump when it returns (R364). -/
  lost : Bool := false
  /-- The key, once it is there (R360, R400). -/
  key : Option (List Byte) := none
  fin : Option JobEnd := none
deriving DecidableEq, Repr

/-- The dispatch port of a quadrant (R362, R385). -/
structure CipherPort where
  density : BitVec 3 := 2
  affinity : Bool := true
  cntAddr : BitVec 5 := 0
  queue : List Frame := []
  /-- Reorder buffer: dispatched jobs in order of dispatch. -/
  rob : List Job := []
  /-- Next sequence tag of each context: association s at key s, tributary entry t at key 8,192 + t. -/
  tags : Tab Nat := []
  cnt : Vector W64 12 := Vector.replicate 12 0
deriving DecidableEq, Repr

/-! ### Queues, shapers, policers -/

/-- A frame held in a queue: in the trough, or in the cistern. -/
structure Queued where
  frame : Frame
  inCistern : Bool := false
  /-- Bytes of its SDU already sent in earlier fragments (R185), and bytes chosen for bursts, sent ones included (R183). -/
  sent : Nat := 0
  chosen : Nat := 0
  /-- Queued before the lane's ONU-ID was last released (R189). -/
  old : Bool := false
  /-- Grants that the frame has missed while offside; 0 where it is not offside (R187). -/
  miss : Nat := 0
deriving DecidableEq, Repr

/-- A queue (R352). -/
structure Queue where
  w0 : W32 := 0x0001E000#32
  w1 : W32 := 0x00010000#32
  maxKb : BitVec 20 := 1024
  yelKb : BitVec 20 := 512
  troughKb : BitVec 20 := 256
  frames : List Queued := []
  deficit : Nat := 0
  cnt : Vector W64 4 := Vector.replicate 4 0
deriving DecidableEq, Repr

/-- A shaper (R353). Tokens are in 1/256 byte (R342), times in 0.1 ns. -/
structure Shaper where
  w : Vector W32 5 := #v[0x2#32, 0, 0, 0, 0]
  cTok : Int := 0
  pTok : Int := 0
  /-- What the last refill has left of a token, in 1/78,125: it keeps the rate exact (R342). -/
  cRem : Nat := 0
  pRem : Nat := 0
  /-- Model time of the last refill. -/
  at_ : Nat := 0
  /-- Calendar: the next eligible time in units of 1/(10 × RATE) of 0.1 ns is kept exactly as numerator over RATE. -/
  nextNum : Nat := 0
  eligible : Bool := true
  parked : Bool := false
  /-- The slot of the wheel in which the shaper's queues stand (R343). -/
  slot : Option (BitVec 16) := none
deriving DecidableEq, Repr

/-- A port of a quadrant (R354). -/
structure TmPort where
  w0 : W32 := 0
  tcMap : W32 := 0
  w2 : W32 := 0
  badOffset : W32 := 0
deriving DecidableEq, Repr

/-- A policer (R355). -/
structure Policer where
  w : Vector W32 5 := #v[0x20#32, 0, 0, 0, 0]
  cTok : Int := 0
  pTok : Int := 0
  cRem : Nat := 0
  pRem : Nat := 0
  at_ : Nat := 0
  cnt : Vector W64 3 := Vector.replicate 3 0
deriving DecidableEq, Repr

/-- One direction's traffic manager (R350 to R356). -/
structure TrafficMgr where
  addr : W32 := 0
  refused : Bool := false
  queues : Tab Queue := []
  shapers : Tab Shaper := []
  ports : Vector TmPort 24 := Vector.replicate 24 {}
  /-- DWRR pointers (R338): the queue at the pointer of priority p at key 8x + p, where x is 16,384 × slice + Alloc-ID for an
  upstream allocation and the slice for a downstream port. -/
  ptr : Tab Nat := []
deriving DecidableEq, Repr

/-! ### Parser, classifier, rally (R283 to R303) -/

/-- A rule: words 0 to 43, and its hits (R283). -/
structure Rule where
  w : Vector W32 44 := Vector.replicate 44 0
  hits : W32 := 0
deriving DecidableEq, Repr

/-- A bank command in progress (R287). -/
inductive ClsCmd where
  | swap
  | copy
  | clear
deriving DecidableEq, Repr

/-- A quadrant's parser, classifier, rally, policers and dispatch port, and the two traffic managers. -/
structure Quad where
  /-- QD_PRS_CTL: VXLAN_EN 1, VXLAN_PORT 4,789. -/
  prsCtl : W32 := 0x12B50004#32
  /-- QD_PRS_ETYPE: TRIB 0x88B5, BOND 0x88B6. -/
  etype : W32 := 0x88B688B5#32
  deepCnt : W32 := 0
  skipCnt : W32 := 0
  /-- QD_CLS_CTL: PTP_AUTO 1. -/
  clsCtl : W32 := 0x1#32
  active : Bool := false
  busy : Option ClsCmd := none
  draining : Bool := false
  clsErr : BitVec 2 := 0
  epoch : BitVec 16 := 0
  winAddr : W32 := 0
  bank0 : Tab Rule := []
  bank1 : Tab Rule := []
  rallyFull : BitVec 16 := 0
  /-- Frames that wait for their first pass, for their rally, and for their lookups, oldest first. -/
  parseQ : List Frame := []
  rallyQ : List Frame := []
  lookupQ : List Frame := []
  /-- Frames that wait for the LPM answer, and frames whose destination is settled. -/
  lpmQ : List Frame := []
  enqueueQ : List Frame := []
  /-- Learn requests (R314): key words 0 and 1 and the port learned. -/
  learnQ : List (W32 × W32 × Byte) := []
  cph : CipherPort := {}
  polAddr : W32 := 0
  pcpMap : W32 := 0
  dscpMap : Vector W32 4 := Vector.replicate 4 0
  policers : Tab Policer := []
  us : TrafficMgr := {}
  ds : TrafficMgr := {}
  /-- QD_FLOAT_MARKS: HIGH and LOW; the quadrant is in XOFF (R233). -/
  floatMarks : W32 := 0x00006078#32
  xoff : Bool := false
deriving DecidableEq, Repr

/-! ### Cipher cores and the fallback pipeline (R380 to R386) -/

/-- A core's states with their codes (R384). -/
inductive CoreState where
  | inService
  | quarantined
  | retesting
deriving DecidableEq, Repr

/-- A cipher core (R384). Whether it is idle follows from the running image (R366). -/
structure Core where
  quarForce : Bool := false
  afTh : Byte := 16
  state : CoreState := .quarantined
  fault : Bool := false
  cause : BitVec 3 := 0
  afOver : Bool := false
  jobs : W32 := 0
  af : W32 := 0
  /-- Authentication failures in the present 1 s window (R379). -/
  afWin : Nat := 0
  /-- Key copies, most recently used first, at most 8 (R360). -/
  keys : List CacheEntry := []
  /-- A known-answer test is overdue: no new job (R380). -/
  katWait : Bool := false
  /-- A test is due and waits for the core to be empty, with its outcome (R380). -/
  katDue : Option Bool := none
deriving DecidableEq, Repr

/-- A lookaside job that the fallback pipeline has fetched (R376). -/
structure LaJob where
  desc : LaDesc
  name : Option KeyName := none
  key : Option (List Byte) := none
  /-- The status it completes with, where it does not run (R377). -/
  status : Option (BitVec 3) := none
deriving DecidableEq, Repr

/-- The fallback pipeline (R386). -/
structure Fallback where
  laEn : Bool := true
  afTh : Byte := 16
  inService : Bool := false
  /-- Out of service after a fault (R497). -/
  failed : Bool := false
  fault : Bool := false
  afOver : Bool := false
  afWin : Nat := 0
  cntAddr : BitVec 4 := 0
  cnt : Vector W64 5 := Vector.replicate 5 0
  /-- Slots under substitution, and slots removed without a substitute, each in the order they became so (R366). -/
  subst : List Nat := []
  removed : List Nat := []
  la : List LaJob := []
deriving DecidableEq, Repr

end Sys2Proof.Machine
end

