-- ==== Sys2Proof/Machine/Parts/Line.lean ====
section
/-!
DEFINITION. The state of a line lane: the downstream framer (R108 to R137), activation (R138 to R160), the pump (R174 to R196)
and the lane's membership of a bond group (R201 to R209).
-/
namespace Sys2Proof.Machine

/-! ### The framer -/

/-- The framer's states (R110). -/
inductive SyncState where
  | hunt
  | presync
  | sync
deriving DecidableEq, Repr

/-- LN_DS_STATUS_n.SYNC_STATE. -/
def SyncState.code : SyncState → BitVec 2
  | .hunt => 0
  | .presync => 1
  | .sync => 2

/-- A reassembly in progress (R127): the port, the bytes so far, and the receive stamp of its first fragment. -/
structure Reasm where
  port : BitVec 16
  data : List Byte
  stamp : Stamp
deriving DecidableEq, Repr

/-- A structure of the BWmap on its way to the pump (R120): its place in the BWmap and the frame that carried it. -/
structure GrantIn where
  a : AllocStruct
  idx : Nat
  frame : Nat
  /-- The frame's superframe count. -/
  sfc : BitVec 51
deriving DecidableEq, Repr

/-- An SDU that waits for the skew engine: its superframe tag, port, bytes and stamp (R206). -/
structure Sdu where
  lane : Nat
  tag : BitVec 51
  port : BitVec 16
  bytes : List Byte
  stamp : Stamp
deriving DecidableEq, Repr

/-- The downstream side of a line lane. -/
structure LineDs where
  /-- LN_DS_CTL_n: ONU_ID [9:0], ONU_ID_VALID [10], PLOAM_BCAST [11]. -/
  ctl : W32 := 0x800#32
  /-- The ONU_ID in force: a write takes effect at the next frame boundary (R121). -/
  onuId : BitVec 10 := 0
  sync : SyncState := .hunt
  /-- Bit positions of the open candidates, oldest first. -/
  cands : List Nat := []
  misses : BitVec 2 := 0
  lofSeen : Bool := false
  corrOver : Bool := false
  uncOver : Bool := false
  fecSeen : Bool := false
  keyMiss : Bool := false
  ponidChg : Bool := false
  ploamOvf : Bool := false
  portRefused : Bool := false
  /-- LN_DS_FEC_TH_n: WIN 3. -/
  fecTh : W32 := 0xC0000000#32
  /-- Bytes corrected and codewords uncorrectable in the present window (R118). -/
  winCorr : Nat := 0
  winUnc : Nat := 0
  winAddr : W32 := 0
  /-- Port-table entries (R137). -/
  ports : Tab (BitVec 20) := []
  sfc : BitVec 51 := 0
  ponId : BitVec 51 := 0
  /-- A PON-ID has been latched since entry to SYNC (R115). -/
  ponLatched : Bool := false
  hlend : W32 := 0
  cnt : Vector W64 30 := Vector.replicate 30 0
  reasm : List Reasm := []
  /-- Ports whose SDU was abandoned: its later fragments are discarded up to the last (R127). -/
  poison : List (BitVec 16) := []
  /-- TC key slots: unicast 1 and 2, broadcast 1 and 2 (R128). -/
  keys : Vector (Option (List Byte)) 4 := Vector.replicate 4 none
  /-- PLOAM queue, oldest first, at most 16 (R121). -/
  ploamQ : List Ploam := []
  /-- The present frame's BWmap and PLOAM messages are located (R119), and its XGEM frames are delineated (R123); the byte of
  the TC frame at which the next XGEM header stands. -/
  located : Bool := false
  delineated : Bool := false
  pos : Nat := 0
  /-- Codewords of the present frame that have left the decoder, and the indices of those marked as uncorrectable (R116). -/
  words : Nat := 0
  badWords : List Nat := []
  /-- Frames since the framer first entered SYNC: the model's own count, by which serve times are told apart. -/
  frameNo : Nat := 0
  /-- SDUs of a bond group's member on their way to the skew engine (R21, R206), oldest first. -/
  sduQ : List Sdu := []
  /-- Bond-control messages for the steward (R124), oldest first. -/
  bondQ : List (List Byte) := []
deriving DecidableEq, Repr

/-! ### Activation -/

/-- The activation states (R141). -/
inductive ActState where
  | o11
  | o12
  | o23
  | o4
  | o51
  | o52
  | o6
  | o7
  | o8
  | o9
deriving DecidableEq, Repr

/-- ACT_STATE of item 0x00. -/
def ActState.code : ActState → BitVec 4
  | .o11 => 0
  | .o12 => 1
  | .o23 => 2
  | .o4 => 3
  | .o51 => 4
  | .o52 => 5
  | .o6 => 6
  | .o7 => 7
  | .o8 => 8
  | .o9 => 9

/-- A tuning request in progress (R151). -/
structure Tuning where
  ds : BitVec 4
  us : BitVec 4
  sched : BitVec 51
deriving DecidableEq, Repr

/-- Reason codes of a tuning NACK, by the names of R151. -/
inductive NackReason where
  | channelNotSupported
  | busy
  | insufficientTime
deriving DecidableEq, Repr

/-- An upstream PLOAM message (R141, R146, R151, R155); its bytes are G.9807.1's or G.989.3's. -/
inductive UsPloam where
  | serialNumber (vendor base : W32)
  | registration (id : List Byte)
  | tuneAck
  | tuneNack (r : NackReason)
  | completeU
  /-- Acknowledge with the completion code OK or parameter error. -/
  | acknowledge (paramError : Bool)
  /-- The Key_Report with the wrapped key of index k. -/
  | keyReport (k : BitVec 2) (wrapped : List Byte)
deriving DecidableEq, Repr

/-- A queued upstream PLOAM message and the burst that holds it (R146). -/
structure UsMsg where
  msg : UsPloam
  held : Option Nat := none
deriving DecidableEq, Repr

/-- A new TC key: its index, the key, and the key as its Key_Report carries it (R155). -/
structure NewKey where
  k : BitVec 2
  key : List Byte
  wrapped : List Byte
deriving DecidableEq, Repr

/-- Activation of a line lane, in the steward's state memory (R141 to R160, R171). -/
structure Act5 where
  state : ActState := .o11
  rogue : Bool := false
  lastExit : BitVec 3 := 0
  usKeyIdx : BitVec 2 := 0
  admin : Bool := false
  scan : Bool := false
  scanMask : BitVec 16 := 0xFFFF#16
  /-- EqD; it came from a Ranging_Time message (R149, R150). -/
  eqd : W32 := 0
  eqdHeld : Bool := false
  teqd : W32 := 0
  /-- Item 0x05. -/
  chDs : BitVec 4 := 0
  chUs : BitVec 4 := 0
  chKnown : Bool := false
  regId : Vector W32 9 := Vector.replicate 9 0
  /-- The registration ID taken at entry to O4, and the serial number at entry to O2-3 (R139, R140). -/
  regHeld : Vector W32 9 := Vector.replicate 9 0
  /-- O2-3 has been entered, so that a serial number has been read. -/
  snRead : Bool := false
  snVendor : W32 := 0
  snVssn : W32 := 0
  cnt : Vector W32 8 := Vector.replicate 8 0
  /-- Lengths in ms of the timers that run (R144). -/
  to1 : Option Nat := none
  to2 : Option Nat := none
  to4 : Option Nat := none
  to5 : Option Nat := none
  /-- PLOAMu queue, oldest first, at most 4 (R146). -/
  usQ : List UsMsg := []
  tuning : Option Tuning := none
  /-- The optics have been reported retuned in O8; the Channel_Profile of the target has come. -/
  tuned : Bool := false
  profileSeen : Bool := false
  /-- New TC keys that wait to be installed, in the order of their Key_Reports, and the indices of Key_Control messages that wait for the
  random source (R155, R411). -/
  newKeys : List NewKey := []
  keyWaits : List (BitVec 2) := []
  /-- Unicast slot k has decrypted a frame since it was last installed (R156). -/
  keyUsed : BitVec 2 := 0
  /-- A scan request is listed or its dwell is running; the channel of the last one (R153). -/
  scanning : Bool := false
  scanCh : Option (BitVec 4) := none
deriving DecidableEq, Repr

/-! ### The pump -/

/-- An entry of the allocation filter (R175, R195). -/
structure AllocEntry where
  alloc : BitVec 14
  dflt : Bool := false
  nofrag : Bool := false
deriving DecidableEq, Repr

/-- A burst profile (R177). -/
structure Profile where
  fec : Bool
  rep : Nat
  pre : List Byte
  delim : List Byte
deriving DecidableEq, Repr

/-- A grant of a burst (R174). -/
structure Grant where
  alloc : BitVec 14
  dbru : Bool
  size : Nat
deriving DecidableEq, Repr

/-- What a burst sends in a grant's payload (R185, R186). -/
inductive Piece where
  /-- len bytes from byte off on of the SDU of queue q that follows those chosen before it; last: LF = 1; used: the content of the key
  slot when the frame's header was encrypted, where that has been while the slot has changed since (R188). -/
  | frame (q : Nat) (off len : Nat) (last : Bool) (port : BitVec 16) (key : BitVec 2) (bytes : List Byte)
      (used : Option (Option (List Byte)))
  | idle (len : Nat)
deriving DecidableEq, Repr

/-- A grant as it is filled: the DBRu's BufOcc, and the pieces in order. -/
structure Filled where
  alloc : BitVec 14
  bufOcc : Option (BitVec 24)
  pieces : List Piece
  /-- The DBRu is the first report of its allocation (R189). -/
  first : Bool := false
deriving DecidableEq, Repr

/-- The states of a burst that a lane holds (R184). -/
inductive BurstState where
  | granted
  | assembling
  | serving
deriving DecidableEq, Repr

/-- A burst (R174, R180, R184). Times count from the PSync of frame number 0 in units of 1/800,000 UI, in which 1 ns is 7,962,624
and 1/16 UI is 50,000. -/
structure Burst where
  id : Nat
  state : BurstState := .granted
  serial : Bool := false
  grants : List Grant := []
  ploamu : Bool := false
  profile : BitVec 2 := 0
  start : Nat := 0
  frame : Nat := 0
  sfc : BitVec 51 := 0
  randCycles : Nat := 0
  serve : Int := 0
  stop : Int := 0
  /-- At ASSEMBLING: the profile read, the message taken, Ind, and the grants filled. -/
  prof : Option Profile := none
  msg : Option UsPloam := none
  ind : BitVec 9 := 0
  filled : List Filled := []
  /-- At the activation of TXEN_L_n: LN_TX_CFG_n, the activation time, and the injection that waited (R79, R89). -/
  cfg : W32 := 0
  txenAt : Int := 0
  inject : Option Nat := none
deriving DecidableEq, Repr

/-- The analog shape of a burst (R77, R78): LEAD in lane-transmit cycles, Tu and Td in ns, the swing in mV, the three weights in
1/64 of the swing, and inverted polarity. -/
structure BurstShape where
  lead : Nat
  tu : Nat
  td : Nat
  swing : Nat
  pre : Nat
  main : Nat
  post : Nat
  inverted : Bool
deriving DecidableEq, Repr

/-- The pump of a line lane (R192 to R196). -/
structure Pump where
  dgEn : Bool := true
  trim : BitVec 12 := 0
  grantErr : Bool := false
  cause : BitVec 3 := 0
  winAddr : W32 := 0
  filter : Vector (Option AllocEntry) 32 := Vector.replicate 32 none
  profiles : Vector (Option Profile) 4 := Vector.replicate 4 none
  cnt : Vector W64 23 := Vector.replicate 23 0
  /-- Structures that matched the filter, in BWmap order. -/
  grantQ : List GrantIn := []
  /-- Bursts held, in the order of their serve times; at most 64. -/
  bursts : List Burst := []
  nextId : Nat := 0
  /-- Allocations that have made their first report since the ONU-ID was last released (R189). -/
  reported : List (BitVec 14) := []
deriving DecidableEq, Repr

/-! ### What an SDH lane sends -/

/-- What an AU-4 of a sent frame carries (R257, R264 to R266): nothing, AU-AIS, or a VC-4, of a KIND 0 entry as it was received or of a
VC-4-Xv member with its path overhead: the pointer before a justification, the new-data flag, the bytes read in H3 (3) or stuffed after it
(−3), and the bytes from H3 on, to the end of row 3 of the next frame. -/
inductive AuTx where
  | unequipped
  | ais
  | vc4 (ptr : BitVec 10) (ndf : Bool) (just : Int) (bytes : List Byte)
deriving DecidableEq, Repr

/-! ### Membership of a bond group -/

/-- The member states (R203). -/
inductive MState where
  | idle
  | probe
  | joined
  | up
  | skewed
  | lost
  | indep
deriving DecidableEq, Repr

/-- MSTATE of item 0x100 + n. -/
def MState.code : MState → BitVec 3
  | .idle => 0
  | .probe => 1
  | .joined => 2
  | .up => 3
  | .skewed => 4
  | .lost => 5
  | .indep => 6

/-- A line lane as a member of a bond group (R203, R209). -/
structure Member where
  state : MState := .idle
  pos : Option (BitVec 6) := none
  /-- JOIN had DIR bit 0 clear: downstream bypasses the engine. -/
  bypass : Bool := false
  /-- CAPS sent and unanswered, and the number of the next message sent. -/
  caps : Nat := 0
  txn : Byte := 0
  /-- LAG in ns, and the frames it has kept to the skew less 125 µs (R203, R209). -/
  lag : Nat := 0
  calmRun : Nat := 0
  /-- Superframe count of the last PSync seen. -/
  seen : Option (BitVec 51) := none
  /-- The member has released or received since it entered UP; SDUs of earlier slots are dropped as rejoin (R208). -/
  rejoin : Bool := false
deriving DecidableEq, Repr

end Sys2Proof.Machine
end

