-- ==== Sys2Proof/Machine/Parts/Cst.lean ====
section
/-!
DEFINITION. The state of the cistern controller (0x09): its modes and registers (R452 to R469) and the skew-compensation
engine's groups (R197 to R223).
-/
namespace Sys2Proof.Machine

/-- The cistern's modes (R461). -/
inductive CstMode where
  | training
  | normal
  | draining
  | retraining
  | restoring
  | degraded
  | offline
deriving DecidableEq, Repr

/-- CST_STATUS.MODE. -/
def CstMode.code : CstMode → BitVec 3
  | .training => 0
  | .normal => 1
  | .draining => 2
  | .retraining => 3
  | .restoring => 4
  | .degraded => 5
  | .offline => 6

/-- The states of a group (R205, R217). -/
inductive GState where
  | down
  | forming
  | partial_
  | full
  | fail
deriving DecidableEq, Repr

/-- GSTATE of item 0x01. -/
def GState.code : GState → BitVec 3
  | .down => 0
  | .forming => 1
  | .partial_ => 2
  | .full => 3
  | .fail => 4

/-- A VC-4-Xv member (R216). -/
structure VcatMember where
  /-- Last MFI1 and MFI read, frames out of and in sequence in a row. -/
  mfi : Option (BitVec 12) := none
  lom : Bool := false
  lomRun : Nat := 0
  sqm : Bool := false
  sqmRun : Nat := 0
  loa : Bool := false
  loaRun : Nat := 0
  sqRx : Byte := 0
  delay : BitVec 16 := 0
  /-- Frames' payloads that wait for alignment, oldest first, with their MFI. -/
  buf : List (BitVec 12 × List Byte) := []
deriving DecidableEq, Repr

/-- A group slot (R197 to R223). -/
structure Group where
  /-- Item 0x00 without KIND: MAX_SKEW 16. -/
  w0 : W32 := 0x00000100#32
  w2 : W32 := 0
  w3 : W32 := 0
  members : BitVec 96 := 0
  seqs : Vector (BitVec 16) 64 := Vector.replicate 64 0
  gstate : GState := .down
  skew : W32 := 0
  token : W32 := 0
  /-- MAX_SKEW of the first accepted JOIN. -/
  joinSkew : Option Nat := none
  cnt : Vector W32 12 := Vector.replicate 12 0
  /-- PSync stamps: superframe count, lane, time in 2^−32 ns (R209), newest first. -/
  stamps : List (BitVec 51 × Nat × Int) := []
  lastReleased : Option (BitVec 51) := none
  buffer : List Sdu := []
  vm : Vector VcatMember 64 := Vector.replicate 64 {}
  /-- What the members carry in the frame that is being sent, by sequence position (R215, R266). -/
  txAu : List AuTx := []
  /-- The parities of each member's sent VC-4: of the frame in progress, and of the frame before, for B3 (R266). -/
  txB3 : List (Byte × Byte) := []
deriving DecidableEq, Repr

/-- A request of a class: lines to write or to read (R459). -/
structure LineReq where
  write : Bool
  lines : Nat
deriving DecidableEq, Repr

/-- The cistern controller. -/
structure Cistern where
  mode : CstMode := .training
  dev : BitVec 2 := 0
  /-- The devices that have been trained and are in service, and the device of a RETIRE in progress (R461, R591). -/
  trained : BitVec 4 := 0
  retiring : Bool := false
  /-- Re-entry to TRAINING of a controller that had a device out (R591). -/
  stayOut : Bool := false
  /-- The redirect copy of R455 has completed. -/
  copied : Bool := false
  scrubbing : Bool := false
  err : BitVec 4 := 0
  uncSeen : Bool := false
  /-- CST_CTL: DRAIN_MS 150, SCRUB_H 6. -/
  ctl : W32 := 0x00000696#32
  /-- CST_BW_W: 52, 14, 60, 1. -/
  bwW : W32 := 0x013C0E34#32
  errLoc : W32 := 0
  cntAddr : Byte := 0
  cnt : Tab W64 := []
  /-- Corrected-line events of the present second, by channel (R465): the model time of the last one. -/
  lastCorr : Vector (Option Nat) 8 := Vector.replicate 8 none
  /-- The request queues of the classes SKEW, LPM, US, DS and MAINT, the deficit of each in lines, the class whose turn it is, and the
  bandwidth not yet granted, in fifths of a line (R459, R460). -/
  reqs : Vector (List LineReq) 5 := Vector.replicate 5 []
  deficit : Vector Nat 5 := Vector.replicate 5 0
  turn : Nat := 0
  credit : Nat := 0
  /-- CST_SKW_STATUS.REFUSED and CAUSE. -/
  skwRefused : Bool := false
  skwCause : BitVec 3 := 0
  grpSel : W32 := 0
  groups : Vector Group 16 := Vector.replicate 16 {}
deriving DecidableEq, Repr

end Sys2Proof.Machine
end

