-- ==== Sys2Proof/Machine/Parts/Eth.lean ====
section
/-!
DEFINITION. The state of an Ethernet client port (R225 to R247).
-/
namespace Sys2Proof.Machine

/-- The link states (R226). -/
inductive LinkState where
  | down
  | an
  | lock
  | up
deriving DecidableEq, Repr

/-- LN_ETH_STATUS_n.LINK. -/
def LinkState.code : LinkState → BitVec 2
  | .down => 0
  | .an => 1
  | .lock => 2
  | .up => 3

/-- A wake pattern (R237, R247): mask words and the CHECK and VALID word. -/
structure WakePat where
  mask : BitVec 128 := 0
  w : BitVec 17 := 0
deriving DecidableEq, Repr

/-- A flow-control frame that waits for the next frame boundary (R235): XOFF or cancel, as PAUSE or PFC. -/
structure FlowMsg where
  xoff : Bool
  pfc : Bool
  /-- Classes of a cancel of a PFC frame: those of the XOFF in force. -/
  pri : Byte := 0
deriving DecidableEq, Repr

/-- An Ethernet client port. -/
structure EthPort where
  /-- LN_ETH_CTL_n without CNT_CLR: MAXFRM 1,518, RX_PAUSE_EN 1. -/
  ctl : W32 := 0x000105EE#32
  link : LinkState := .down
  blockLock : Bool := false
  hiBer : Bool := false
  lfRx : Bool := false
  rfRx : Bool := false
  xoff : Bool := false
  linkSeen : Bool := false
  wakeHit : Bool := false
  wakePat : BitVec 3 := 0
  fecOn : Bool := false
  anEn : Bool := false
  fecReq : Bool := false
  fecForce : Bool := false
  anDone : Bool := false
  lpKr : Bool := false
  lpF0 : Bool := false
  lpF1 : Bool := false
  /-- LN_ETH_PAUSE_n: PFC_PRI 0xFF, QUANTA 0xFFFF. -/
  pause : W32 := 0xFFFFFF00#32
  winAddr : W32 := 0
  sa : BitVec 48 := 0
  pats : Vector WakePat 8 := Vector.replicate 8 {}
  cnt : Vector W64 22 := Vector.replicate 22 0
  /-- The peer's PAUSE is in force, and the classes of its PFC in force, with their times in quanta (R236). -/
  peerPause : Option (BitVec 16) := none
  peerPfc : Vector (Option (BitVec 16)) 8 := Vector.replicate 8 none
  pendingFlow : Option FlowMsg := none
  /-- The XOFF in force was sent as PFC, with its classes. -/
  xoffPfc : Bool := false
  xoffPri : Byte := 0
  /-- Clause 49 and Clause 46 as 66-bit blocks arrive: valid sync headers in a row, and the blocks until hi_ber and a fault that is not
  received again end (R225). -/
  headers : Nat := 0
  berLeft : Nat := 0
  faultLeft : Nat := 0
  /-- Uncorrectable FEC blocks in the present window of 1 s (R228). -/
  fecUnc : Nat := 0
  /-- The deficit idle count (R225). -/
  deficit : Nat := 0
  /-- Remote fault or idles are sent in place of data (R226). -/
  sendRf : Bool := false
  sendIdle : Bool := false
deriving DecidableEq, Repr

end Sys2Proof.Machine
end

