-- ==== Sys2Proof/Machine/Parts/Hif.lean ====
section
/-!
DEFINITION. The state of the host interface island (0x08, R470 to R494), of the MSI-X structures, and what the terminal
puts on its outputs.
-/
namespace Sys2Proof.Machine

/-- One DMA ring (R479 to R483). -/
structure Ring where
  base : W64 := 0
  /-- HIF_RING_CTL: EN, LOG2SIZE 6, VEC, IRQ_EN, COAL_CNT 1, COAL_US. -/
  ctl : W32 := 0x0001000C#32
  stopped : Bool := true
  dmaErr : Bool := false
  ovf : Bool := false
  dbErr : Bool := false
  devIdx : W32 := 0
  hostIdx : W32 := 0
  drops : W32 := 0
  /-- Entries since the last interrupt (R481). -/
  unsig : Nat := 0
  /-- Ring 3: jobs fetched and not yet completed; ring 1: read position of the frame in progress. -/
  busy : Nat := 0
deriving DecidableEq, Repr

/-- One entry of the MSI-X table (R472): every word 0 and the mask set at reset. -/
structure MsixEntry where
  addr : W64 := 0
  data : W32 := 0
  masked : Bool := true
deriving DecidableEq, Repr

/-- A frame on its way to the punt ring (R300, R484). -/
structure Punt where
  kind : Byte
  reason : Byte
  lane : Nat
  down : Bool
  xgemPort : BitVec 16
  /-- RULE of R484. -/
  rule : BitVec 16
  bytes : List Byte
  stamp : Option Stamp := none
  /-- MIC_CHECKED and MIC_OK (R158). -/
  mic : Option Bool := none
  /-- The quadrant whose sump counts it where the ring is full. -/
  quad : Nat
deriving DecidableEq, Repr

/-- The host interface island (R476, R481). -/
structure Hif where
  /-- HIF_GATED_STATUS. -/
  gated : W32 := 0
  gatedCount : W32 := 0
  partialCnt : W32 := 0
  speed : BitVec 4 := 0
  width : BitVec 5 := 0
  changed : Bool := false
  twAddr : BitVec 7 := 0x4C#7
  pecReq : Bool := false
  twErrs : BitVec 8 := 0
  rings : Vector Ring 5 := Vector.replicate 5 {}
  msix : Vector MsixEntry 64 := Vector.replicate 64 {}
  pba : W64 := 0
  /-- Punted frames that wait for the punt ring, oldest first. -/
  puntQ : List Punt := []
deriving DecidableEq, Repr

end Sys2Proof.Machine
end

