-- ==== Sys2Proof/Machine/Parts/Lane.lean ====
section
/-!
DEFINITION. The state that every lane slice has in every role (R64 to R90, R96 to R104) and the host-bond link layer
(R91 to R94, R105).
-/
namespace Sys2Proof.Machine

/-- The receiver's states with their codes (R69). -/
inductive RxState where
  | off
  | seed
  | waitSig
  | cdrAcq
  | adaptFast
  | track
  | frozen
deriving DecidableEq, Repr

/-- LN_STATUS_n.RXSTATE. -/
def RxState.code : RxState → BitVec 3
  | .off => 0
  | .seed => 1
  | .waitSig => 2
  | .cdrAcq => 3
  | .adaptFast => 4
  | .track => 5
  | .frozen => 6

/-- An injection that waits for the next bit or the next burst (R89): its length in bits. -/
abbrev Injection := Option Nat

/-- The part of a lane slice that every role shares (R96 to R104). -/
structure LaneCommon where
  /-- LN_CTL_n without its write-only bit: MU_FAST 2, MU_TRACK 4. -/
  ctl : W32 := 0x00004200#32
  sigdet : Bool := false
  cdrLock : Bool := false
  rxState : RxState := .off
  /-- The state from which FROZEN came (R69). -/
  frozenFrom : RxState := .off
  priming : Bool := true
  noiseMode : Bool := true
  eqLimit : Bool := false
  /-- The receiver has locked since it last entered SEED (R76). -/
  lockedOnce : Bool := false
  txen : Bool := false
  /-- LN_SD_n: SD_ON 16, SD_OFF 12, WAKE_TH 25. -/
  sd : W32 := 0x00190C10#32
  tapSel : BitVec 5 := 0
  /-- The 24 equaliser items of R65, as signed numbers. -/
  items : Vector Int 24 := Vector.replicate 24 0
  /-- Consecutive updates for which an item has been held at a range end (R67). -/
  limitRun : Vector Nat 24 := Vector.replicate 24 0
  /-- LN_NOISE_n. -/
  noise : W32 := 0
  /-- LN_TX_CFG_n: SWING 40, POST 4, RAMP_UP 4, RAMP_DN 2, LEAD 16. -/
  txCfg : W32 := 0x10244028#32
  /-- The values of LN_TX_CFG_n in force for the burst whose TXEN_L_n is active (R77, R79). -/
  txHeld : W32 := 0x10244028#32
  /-- LN_PRBS_n without its write-only bits and CHK_LOCK: BURST_LEN 1. -/
  prbs : W32 := 0x00010000#32
  chkLock : Bool := false
  /-- The checker's register, bits taken into it since it was last seeded (up to the pattern's length), bits in a row that matched
  afterwards, and, while it is locked, which of the last 256 bits mismatched, newest first (R88). -/
  chkReg : BitVec 31 := 0
  chkFill : Nat := 0
  chkRun : Nat := 0
  chkWin : List Bool := []
  prbsErr : W32 := 0
  /-- No error has raised event 8n + 4 since LN_PRBS_ERR_n was last read (R90). -/
  errArmed : Bool := true
  inject : Injection := none
deriving DecidableEq, Repr

/-- The handshake's states with their codes (R94). -/
inductive HbState where
  | down
  | offer
  | agreed
  | commit
  | align
  | up
  | failed
deriving DecidableEq, Repr

/-- LN_HB_STATUS_n.STATE. -/
def HbState.code : HbState → BitVec 3
  | .down => 0
  | .offer => 1
  | .agreed => 2
  | .commit => 3
  | .align => 4
  | .up => 5
  | .failed => 6

/-- The peer's values, read from its logical lane 0 (R94): MAXL, byte 5 and byte 6 of the handshake block. -/
structure HbPeer where
  maxl : Nat
  caps : Byte
  rxok : Nat
deriving DecidableEq, Repr

/-- Host-bond state of one lane: what the lane itself keeps, and, in the lowest lane of a link, the link (R91 to R94,
R105). -/
structure HostBond where
  /-- Consecutive handshake blocks with every check right, up to 8, and the logical lane they carry. -/
  goodRun : Nat := 0
  laneNo : Option Nat := none
  blockLock : Bool := false
  /-- The peer's PHASE on this lane. -/
  phase : Nat := 0
  aligned : Bool := false
  /-- Block number of the last right marker, and consecutive expected markers missing or wrong. -/
  lastMarker : Option Nat := none
  missRun : Nat := 0
  arrival : Nat := 0
  /-- LN_HB_CFG_n.MAXL, none until the host writes it: the configured count (R105). -/
  maxl : Option (BitVec 5) := none
  fecReq : Bool := false
  state : HbState := .down
  fec : Bool := false
  sscPeer : Bool := false
  n : BitVec 5 := 0
  err : BitVec 3 := 0
  skew : BitVec 4 := 0
  peer : Option HbPeer := none
  /-- SEQ of the next marker sent. -/
  seq : Byte := 0
  /-- When data and markers last started, on the clock of `now` (R91, R94). -/
  since : Nat := 0
  /-- Own and peer values that the result was computed from (R94). -/
  used : List Nat := []
deriving DecidableEq, Repr

end Sys2Proof.Machine
end

