-- ==== Sys2Proof/Machine/Parts/Pins.lean ====
section
/-!
DEFINITION. The levels of the input pins that rules test, and the terminal's outputs: a list, newest first, of what the
terminal sent through its ports. The list is the model's own (notes/assumptions/5.md).
-/
namespace Sys2Proof.Machine

/-- Input pins and their consequences (R81, R573, R586). -/
structure Pins where
  /-- VDD_AON and VDD_CORE are up (R575). -/
  powered : Bool := true
  /-- RESET_N has risen since power-up: no island is held in reset (R575). -/
  released : Bool := true
  /-- TXINH_N is high. -/
  txinhHigh : Bool := true
  /-- A transmit inhibit by TXINH_N is in force (R81). -/
  inhibited : Bool := false
  /-- When TXINH_N last rose (R81). -/
  txinhRise : Option Nat := none
  /-- Emission is stopped by event 999 (R586). -/
  thermalStop : Bool := false
  /-- Event 998 may be raised again (R586). -/
  thermalArmed : Bool := true
  /-- PERST_N is high. -/
  perstHigh : Bool := true
deriving DecidableEq, Repr

/-- A 66-bit block of the 10GBASE-R PCS before scrambling: whether its sync header is 10 (control), and its 8 bytes. -/
structure PcsBlock where
  control : Bool
  bytes : List Byte
deriving DecidableEq, Repr

/-- What the terminal puts out. -/
inductive Out where
  /-- Data returned by a register read. -/
  | read (p : Port) (w : W32)
  /-- Data and status byte returned by a two-wire read (R492). -/
  | twRead (w : W32) (gated : Bool) (pec : Byte)
  /-- An MSI-X message (R507). -/
  | msix (addr : W64) (data : W32)
  /-- Bytes written by the terminal to an entry of ring r in host memory, at offset off of the entry of index idx. -/
  | ringWrite (r : RingId) (idx : W32) (off : Nat) (bytes : List Byte)
  /-- k consecutive bits of lane n inverted (R89). -/
  | inverted (n : LaneId) (k : Nat)
  /-- The generator of lane n starts a pattern with this register: the bits are prbsBits of it (R86, R87). -/
  | pattern (n : LaneId) (pat : BitVec 2) (reg : BitVec 31)
  /-- The drive of lane n's transmitter from now on: swing in mV, the weights in 1/64 of the swing, inverted polarity (R77, R97). -/
  | drive (n : LaneId) (swing pre main post : Nat) (inverted : Bool)
  /-- A handshake or marker block of a host-bond lane (R92). -/
  | hbBlock (n : LaneId) (bytes : List Byte)
  /-- A frame on a host-bond link: the lane, sync header and payload of each of its 66-bit blocks, in their order (R91). -/
  | hbFrame (n : LaneId) (bytes : List Byte) (blocks : List (LaneId × PcsBlock))
  /-- A burst as it left a line lane (R178): FS header ONU-ID and Ind, PLOAMu message (idle where none), and each grant with its
  BufOcc and its pieces; its analog shape, and its bytes in the order of R178. -/
  | burst (n : LaneId) (onuId : BitVec 10) (ind : BitVec 9) (ploamu : Option (Option UsPloam)) (grants : List Filled)
      (shape : BurstShape) (wire : List Byte)
  /-- A bond-control message (R201). -/
  | bondMsg (n : LaneId) (port : BitVec 16) (bytes : List Byte)
  /-- A frame sent by an Ethernet port: its bytes, its 66-bit blocks before scrambling, and the bytes of the gap that follows it (R225). -/
  | frame (n : LaneId) (bytes : List Byte) (blocks : List PcsBlock) (gap : Nat)
  /-- A PAUSE or PFC frame (R234): class-enable vector where it is PFC, time, and its bytes. -/
  | pause (n : LaneId) (pfc : Option Byte) (time : BitVec 16) (bytes : List Byte)
  /-- What an Ethernet port sends in place of frames from now on: remote fault, or idles (R226). -/
  | fault (n : LaneId) (remote : Bool)
  /-- Clause 73 starts: the port advertises 10GBASE-KR alone, with F0 and F1 (R227). -/
  | advertise (n : LaneId) (f0 f1 : Bool)
  /-- An STM-64 frame as it leaves (R249, R257): 155,520 bytes, scrambled. -/
  | stm (n : LaneId) (bytes : List Byte)
  /-- A transfer of a quadrant's optics master starts (R173): device and register address, direction, bytes to move, speed, and the bytes
  of a write. -/
  | optics (q : QuadId) (dev : BitVec 7) (reg : Byte) (rd : Bool) (len : Nat) (fast : Bool) (bytes : List Byte)
  /-- Bytes written to host memory. -/
  | hostWrite (addr : W64) (bytes : List Byte)
deriving DecidableEq, Repr

end Sys2Proof.Machine
end

