-- ==== Sys2Proof/Machine/Parts/Power.lean ====
section
/-!
DEFINITION. The state of the power island (0x02, R531 to R547).
-/
namespace Sys2Proof.Machine

/-- The five device states with their codes (R535). -/
inductive DevState where
  | run
  | doze
  | standby
  | entering
  | waking
deriving DecidableEq, Repr

/-- PWR_STATUS.STATE (R545). -/
def DevState.code : DevState → BitVec 3
  | .run => 0
  | .doze => 1
  | .standby => 2
  | .entering => 3
  | .waking => 4

/-- A bitmap over the power domains: domain d is bit d mod 32 of word d div 32 (R531). -/
abbrev Domains := BitVec 224

/-- The power island (R545 to R547). -/
structure Power where
  state : DevState := .run
  /-- The state that ENTERING leads to. -/
  target : DevState := .doze
  /-- The state from which the entry started. -/
  src : DevState := .run
  lastReq : BitVec 2 := 0
  cancelled : Bool := false
  err : BitVec 4 := 0
  /-- PWR_WAKE_EN. -/
  wakeEn : BitVec 5 := 0x06#5
  /-- PWR_WAKE_LAST. -/
  wakeLast : W32 := 0
  /-- Sources that fire in this cycle while the device is awake (R539); the model's own. -/
  firing : BitVec 5 := 0
  firingLane : BitVec 7 := 0
  /-- The RTC count of 1/32,768 s (R538). -/
  rtc : BitVec 48 := 0
  /-- The fraction of the next RTC tick, in 1/10^10 of it; the model's own. -/
  rtcFrac : Nat := 0
  /-- PWR_RTC_LO as written, until a write of PWR_RTC_HI loads both halves. -/
  rtcLo : W32 := 0
  /-- A load of the RTC that waits for the next RTC tick. -/
  rtcLoad : Option (BitVec 48) := none
  alm : BitVec 48 := 0
  almEn : Bool := false
  almFired : Bool := false
  voteHost : Domains := 3
  voteTest : Domains := 0
  /-- POLICY votes the boot set until an apply of the loader completes (R549). -/
  policyBoot : Bool := true
  /-- POLICY's run set, computed when an apply completes (R533). -/
  runSet : Domains := 0
  drop : Domains := 0
  on : Domains := 0
  ret : Domains := 0
  /-- Domains that missed power-good; one whose bit the host has not yet cleared is not tried again (R541). -/
  fault : Domains := 0
  step : BitVec 4 := 0
  /-- The copy of HIF_TW_CTL.ADDR and PEC_REQ (R491). -/
  twCopy : BitVec 8 := 0x4C#8
deriving DecidableEq, Repr

end Sys2Proof.Machine
end

