-- ==== Sys2Proof/Machine/Parts/Sdh.lean ====
section
/-!
DEFINITION. The state of an SDH client port: framer, defects, traces, tributary entries and performance bins (R249 to R274).
-/
namespace Sys2Proof.Machine

/-- The framer's states (R250). -/
inductive FrmState where
  | hunt
  | presync
  | inFrame
deriving DecidableEq, Repr

/-- LN_SDH_STATUS_n.FRM. -/
def FrmState.code : FrmState → BitVec 2
  | .hunt => 0
  | .presync => 1
  | .inFrame => 2

/-- A defect with the run of frames that may change it (R252). -/
structure Defect where
  on : Bool := false
  run : Nat := 0
deriving DecidableEq, Repr

/-- A received trace (R254, R255): the bytes collected, the last checked trace and how often it came in a row, the accepted
trace, and the run of differing or matching multiframes. -/
structure Trace where
  buf : List Byte := []
  last : List Byte := []
  sameRun : Nat := 0
  accepted : Vector W32 4 := Vector.replicate 4 0
  tim : Bool := false
  run : Nat := 0
  expected : Vector W32 4 := Vector.replicate 4 0
  tx : Vector W32 4 := Vector.replicate 4 0
deriving DecidableEq, Repr

/-- One AU-4 (R252, R273). -/
structure Au4 where
  ais : Defect := {}
  lop : Defect := {}
  /-- The run of equal valid pointers that a new active pointer comes from, and their value. -/
  goodRun : Nat := 0
  newPtr : BitVec 10 := 0
  ndfRun : Nat := 0
  /-- Frames since the last justification or new-data flag, at most 3. -/
  sinceJust : Nat := 3
  rdi : Defect := {}
  j1En : Bool := false
  /-- The active pointer. -/
  ptr : BitVec 10 := 0
  trace : Trace := {}
  /-- Bytes of the VC-4 received since J1, once one has been found, their parity, and the parity of the VC-4 frame before (B3). -/
  vcOff : Option Nat := none
  vcRun : Byte := 0
  vcPrev : Option Byte := none
  /-- B3 violations of the last frame, for REI (R266). -/
  b3Last : Nat := 0
deriving DecidableEq, Repr

/-- A run of bytes that wait for play-out, or of a signal-fail block (R264). -/
inductive Seg where
  | data (bytes : List Byte)
  | ais (n : Nat)
deriving DecidableEq, Repr

/-- A tributary entry (R258, R263 to R265, R273). -/
structure TribEntry where
  /-- Word 0x100 + 4t: TX_C2 1. -/
  w0 : W32 := 0x00010000#32
  txCtx : W32 := 0
  rxCtx : W32 := 0
  priming : Bool := true
  sfTx : Bool := false
  sfRx : Bool := false
  /-- Packetiser: bytes that wait, the offset of the first frame start among them, and the phase of the signal-fail run. -/
  waiting : List Byte := []
  /-- Offsets of frame starts among the waiting bytes, ascending. -/
  starts : List Nat := []
  sfPhase : Nat := 0
  /-- Play-out buffer, last block counter and FILL_LAST (R263). -/
  buf : List Seg := []
  last : Option W64 := none
  fillLast : Nat := 0
  /-- Frame bytes placed since the last frame start, modulo the frame, once a frame start has been seen (R264). -/
  played : Nat := 0
  synced : Bool := false
  /-- Frames since the last justification, the pointer sent, and the new-data flag of the next frame (R265). -/
  sinceJust : Nat := 4
  txPtr : BitVec 10 := 0
  ndf : Bool := false
  /-- KIND 1: MFI of the VC-4 frame that is being sent (R215). -/
  txMfi : BitVec 12 := 0
deriving DecidableEq, Repr

/-- A performance bin (R267, R268). -/
structure Bin where
  es : Nat := 0
  ses : Nat := 0
  bbe : Nat := 0
  uas : Nat := 0
  secs : Nat := 0
  incomplete : Bool := false
  valid : Bool := false
  start : BitVec 48 := 0
deriving DecidableEq, Repr

/-- A monitored point (R267, R268). -/
structure PmPoint where
  /-- Errored blocks and defect of the present second. -/
  errored : Nat := 0
  defect : Bool := false
  /-- The last seconds, oldest first, at most 10: errored blocks, defect, bins to add to (15-minute and day: 0 current, 1 the
  bin closed last). -/
  recent : List (Nat × Bool × Nat × Nat) := []
  unavailable : Bool := false
  cur15 : Bin := { incomplete := true, valid := true }
  cur24 : Bin := { incomplete := true, valid := true }
  /-- History bins, most recent first: at most 96 and 7. -/
  hist15 : List Bin := []
  hist24 : List Bin := []
deriving DecidableEq, Repr

/-- An SDH client port. -/
structure SdhPort where
  /-- LN_SDH_CTL_n without its write-only bits: TX_S1 0xF. -/
  ctl : W32 := 0x00000F00#32
  frm : FrmState := .hunt
  cands : List Nat := []
  misses : BitVec 2 := 0
  lof : Bool := false
  msAis : Defect := {}
  msRdi : Defect := {}
  sd : Bool := false
  txHold : Bool := false
  txFree : Bool := true
  defSeen : Bool := false
  zeroSeen : Bool := false
  slipSeen : Bool := false
  entryRefused : Bool := false
  pmSel : W32 := 0
  winAddr : W32 := 0
  /-- Items 0x000 to 0x005: TRIB_ETYPE 0x88B5. -/
  hdr : Vector W32 6 := #v[0, 0, 0, 0, 0, 0x88B5#32]
  j0 : Trace := {}
  au : Vector Au4 64 := Vector.replicate 64 {}
  trib : Vector TribEntry 64 := Vector.replicate 64 {}
  cnt : Vector W64 19 := Vector.replicate 19 0
  /-- B2 errored frames in the present 1 s window (R252). -/
  b2Frames : Nat := 0
  /-- B2 violations of the last frame, for M1 (R257). -/
  lastB2 : Nat := 0
  /-- Parities of the last frame received since the framer entered IN_FRAME: B1 over it as received, B2 over it descrambled. -/
  rxB1 : Option Byte := none
  rxB2 : Option (List Byte) := none
  /-- Candidates discarded since 8 were open (R250). -/
  candLost : Nat := 0
  /-- Position of the next J0 byte sent, modulo 16. -/
  tracePhase : BitVec 4 := 0
  /-- Parities of the last frame sent, for B1 and B2 of the next, and what it left for rows 1 to 3 of the AU-4s of the next. -/
  txB1 : Byte := 0
  txB2 : List Byte := []
  txCarry : List (List Byte) := []
  pm : Vector PmPoint 65 := Vector.replicate 65 {}
deriving DecidableEq, Repr

end Sys2Proof.Machine
end

