-- ==== Sys2Proof/Machine/Parts/Str.lean ====
section
/-!
DEFINITION. The state of the structure loader (0x01, R46 to R63) and the parts of the running image.
-/
namespace Sys2Proof.Machine

/-- The loader's states with their codes (R46, R60). -/
inductive LoaderState where
  | empty
  | staged
  | verified
  | applying
  | applied
  | committed
  | failed
deriving DecidableEq, Repr

/-- STR_STATUS.STATE. -/
def LoaderState.code : LoaderState → BitVec 3
  | .empty => 0
  | .staged => 1
  | .verified => 2
  | .applying => 3
  | .applied => 4
  | .committed => 5
  | .failed => 6

/-- Where the staged image came from (R49 step 1). -/
inductive ImgSrc where
  | slotA
  | slotB
  | host
deriving DecidableEq, Repr

/-- The command in progress (R47). -/
inductive LoaderOp where
  | load (src : ImgSrc)
  | verify
  | apply (mask : BitVec 4)
  | commit
  /-- ABANDON without a restage. -/
  | discard
  /-- The apply of an ABANDON that restages (R590). -/
  | reapply (mask : BitVec 4)
deriving DecidableEq, Repr

/-- Slots of the vault that the loader tries by itself: in the boot apply (R51) or in an ABANDON that restages (R590). -/
structure AutoRun where
  boot : Bool
  /-- The mask of the apply that follows. -/
  mask : BitVec 4
  /-- The slot being tried, and whether it is the second one. -/
  slotB : Bool
  second : Bool
deriving DecidableEq, Repr

/-- What runs in one quadrant: the parts of an image that belong to it (R46). Digests are those of the opaque sections. -/
structure RunQuad where
  roles : List Byte
  sizing : List Byte
  clkQuad : Byte
  clkCores : Byte
  opaques : List (List Byte)
deriving DecidableEq, Repr

/-- What runs in the die-common part (R48). -/
structure RunCommon where
  partition : List Byte
  regions : List Byte
  clkTables : Byte
  opaques : List (List Byte)
deriving DecidableEq, Repr

/-- The structure loader (R58 to R63). -/
structure Loader where
  state : LoaderState := .empty
  busy : Option LoaderOp := none
  err : Byte := 0
  appliedMask : BitVec 4 := 0
  dark : BitVec 4 := 0
  matchMask : BitVec 4 := 0
  hostAddr : W64 := 0
  hostLen : W32 := 0
  lastApplyUs : W32 := 0
  /-- STR_RB_SEL. -/
  rbSel : W32 := 0
  staging : Option (List Byte) := none
  stagedFrom : ImgSrc := .host
  /-- The slot that counts as committed while the vault holds no commit word (R51), and its serial. -/
  bootSlotB : Option Bool := none
  run : Vector (Option RunQuad) 4 := Vector.replicate 4 none
  common : Option RunCommon := none
  /-- Core-assignment bytes in force, once an image runs (R41). -/
  cores : Vector Byte 72 := Vector.replicate 72 0
  /-- Lane role bytes in force (R38): STR_ROLE_n shows their ROLE. -/
  roles : Vector Byte 96 := Vector.replicate 96 0
  /-- Readback digests of scopes 0 to 3 and 7 (R56). -/
  rbDigest : Vector (List Byte) 5 := Vector.replicate 5 []
  /-- The boot apply or a restage is running (R51, R590). -/
  auto : Option AutoRun := none
deriving DecidableEq, Repr

end Sys2Proof.Machine
end

