-- ==== Sys2Proof/Machine/Parts/Stw.lean ====
section
/-!
DEFINITION. The state of a quadrant's steward and optics master (R161 to R173).
-/
namespace Sys2Proof.Machine

/-- A tune or scan request (R152, R153, R172). -/
structure TuneReq where
  slice : BitVec 5
  ds : BitVec 4
  us : BitVec 4
  scan : Bool
  seq : Byte
deriving DecidableEq, Repr

/-- A steward command that has not yet completed (R162, R165, R157). -/
inductive StwCmd where
  | loadFw
  | commitFw
  | bcastKey (slice : BitVec 5) (k : BitVec 2)
deriving DecidableEq, Repr

/-- The stages of a firmware swap (R163). -/
inductive SwapStage where
  | none
  | pending (force : Bool)
  | checking
deriving DecidableEq, Repr

/-- A steward with its optics master. -/
structure Steward where
  /-- QD_STW_CTL: DWELL 50, EVT_O5 1. -/
  ctl : W32 := 0x00000232#32
  runBank : Bool := false
  busy : Option StwCmd := none
  altValid : Bool := false
  swap : SwapStage := .none
  err : Byte := 0
  data : Vector W32 4 := Vector.replicate 4 0
  fwAddr : W64 := 0
  fwLen : W32 := 0
  /-- QD_STW_TIMERS: 10 s, 100 ms, 1 s, 1 s. -/
  timers : W32 := 0x64640A64#32
  laneSel : W32 := 0
  /-- The images of the two banks; none in the running bank is Plifovan's factory firmware. -/
  bank : Vector (Option FwImage) 2 := Vector.replicate 2 none
  tuneReqs : List TuneReq := []
  nextSeq : Byte := 0
  optCtl : W32 := 0x00010000#32
  optWdata : W32 := 0
  optRdata : W32 := 0
  optBusy : Bool := false
  /-- Bytes that the transfer in progress reads; none for a write. -/
  optRun : Option Nat := none
  optDone : Bool := false
  optNack : Bool := false
  optTimeout : Bool := false
deriving DecidableEq, Repr

end Sys2Proof.Machine
end

