-- ==== Sys2Proof/Machine/Parts/Sys.lean ====
section
/-!
DEFINITION. The state of the system control island (0x00): its registers (R564, R565), the boot sequence (R548 to R552), the
feature set (R477), the reference monitors (R75), the seed-tap table (R107) and the sump counters (R301).
-/
namespace Sys2Proof.Machine

/-- A REFCLK_Q monitor (R75). -/
structure RefClk where
  present : Bool := false
  inTol : Bool := false
  fault : Bool := false
  /-- The window of the running gate takes spread into account (R75). -/
  ssc : Bool := false
deriving DecidableEq, Repr

/-- The system control island (R565). -/
structure SysCtl where
  scratch : W32 := 0
  /-- SYS_FEAT_ACCEPT[0..3], feature b in bit b. -/
  accept : BitVec 128 := 0
  lock : Bool := false
  reject : Bool := false
  src : BitVec 2 := 0
  done : Bool := false
  imageOk : Bool := false
  slotFallback : Bool := false
  hold : Bool := false
  /-- The stewards have started since the reset (R165, R551): FW_FACTORY shows which run factory firmware. -/
  fwStarted : Bool := false
  vaultFail : Bool := false
  bootTime : W32 := 0
  /-- The model time of the last reset; the model's own. -/
  resetAt : Nat := 0
  refclk : Vector RefClk 4 := Vector.replicate 4 {}
  /-- SYS_SEED_ADDR. -/
  seedAddr : W32 := 0
  /-- The seed-tap table: item i of entry e at key 24 e + i, where it differs from the neutral entry (R107). -/
  seed : Tab (BitVec 16) := []
  snVendor : W32 := 0
  snBase : W32 := 0
  /-- SYS_SUMP_ADDR. -/
  sumpAddr : W32 := 0
  /-- Sump counters: frames and bytes of quadrant q, cause c at key 32 q + c (R301). -/
  sump : Tab (W64 × W64) := []
deriving DecidableEq, Repr

end Sys2Proof.Machine
end

