-- ==== Sys2Proof/Machine/Parts/Tbl.lean ====
section
/-!
DEFINITION. The state of the tables island (0x0A): bridge, flow and LPM tables (R305 to R331), the fragment table (R293), and the
spread domains (R210 to R213, R224, R297).
-/
namespace Sys2Proof.Machine

/-- Ten key words (R307). -/
abbrev TblKey := Vector W32 10

/-- A bridge or flow entry (R307). -/
structure TblEntry where
  key : TblKey
  res0 : W32
  res1 : W32 := 0
  static : Bool := false
  ageEn : Bool := false
  age : BitVec 2 := 0
  /-- MOVING: the slot that the entry is being copied into (R309); its own slot while its row is copied to a spare row (R324). -/
  moving : Option Nat := none
  bad : Bool := false
  /-- The stored bits that stand wrong: 0 to 447 of data, 448 to 457 of check bits, 458 the key parity (R305, R323). -/
  flips : BitVec 459 := 0
deriving DecidableEq, Repr

/-- An LPM entry: prefix length, masked prefix and result (R307, R318). -/
structure LpmEntry where
  len : Nat
  pre : BitVec 128
  res : W32
deriving DecidableEq, Repr

/-- One copy of a family's LPM store with its length filter (R318, R319). -/
structure LpmCopy where
  /-- Entries by slot: bucket × entries per bucket + place. -/
  slots : Tab LpmEntry := []
  /-- Home buckets whose overflow bit is set. -/
  overflow : List Nat := []
  /-- What has been entered into the filter since it was cleared. -/
  filter : List (Nat × BitVec 128) := []
deriving DecidableEq, Repr

/-- One LPM family: its two copies, which is active, and whether a rebuild is on (R321, R329). -/
structure LpmFam where
  copy0 : LpmCopy := {}
  copy1 : LpmCopy := {}
  active : Bool := false
  rebuilding : Bool := false
deriving DecidableEq, Repr

/-- A command of the tables' engine with the words it was given (R325). -/
structure TblCmd where
  op : Nat
  table : Nat
  static : Bool
  port : Byte
  shadow : Bool
  byLoc : Bool
  key : TblKey
  res0 : W32
  res1 : W32
  ctl : W32
  loc : BitVec 19
deriving DecidableEq, Repr

/-- A port item (R330): words 0 and 1 but COUNT, which is the number of dynamic entries. -/
structure TblPort where
  w0 : W32 := 0x000BFFFF#32
  learnAs : Option Byte := none
  limitSeen : Bool := false
deriving DecidableEq, Repr

/-- A flood set (R330). -/
structure FloodSet where
  mask : BitVec 96 := BitVec.allOnes 96
  w3 : BitVec 7 := 0
deriving DecidableEq, Repr

/-- An entry of the fragment table (R293, R294). -/
structure FragEntry where
  key : FragKey
  dec : Decision
deriving DecidableEq, Repr

/-- A spread domain (R210, R224): its key, and its 256 entries, lane and VALID in bit 7. -/
structure Spread where
  key : Vector W32 11 := Vector.replicate 11 0
  entries : Vector Byte 256 := Vector.replicate 256 0
deriving DecidableEq, Repr

/-- A command of TBL_SPR_CMD in progress (R213). -/
inductive SpreadCmd where
  | remap (src dst : BitVec 7)
  | fill (dom : BitVec 6) (g : BitVec 4)
deriving DecidableEq, Repr

/-- The tables island. -/
structure Tables where
  busy : Option TblCmd := none
  found : Bool := false
  replaced : Bool := false
  moved : Bool := false
  endSeen : Bool := false
  err : BitVec 4 := 0
  loc : BitVec 19 := 0
  locBank : BitVec 5 := 0
  key : TblKey := Vector.replicate 10 0
  res0 : W32 := 0
  res1 : W32 := 0
  entCtl : W32 := 0
  /-- TBL_AGE_CTL: 300 s and 300 s. -/
  ageCtl : W32 := 0x012C012C#32
  portAddr : W32 := 0
  cntAddr : W32 := 0
  cnt : Vector W64 16 := Vector.replicate 16 0
  /-- Entries by slot: 4 × bucket + slot, then the overflow store (R328). -/
  bridge : Tab TblEntry := []
  flow : Tab TblEntry := []
  v4 : LpmFam := {}
  v6 : LpmFam := {}
  ports : Tab TblPort := []
  floods : Vector FloodSet 16 := Vector.replicate 16 {}
  /-- Rows mapped to spare rows, for each pool bank (R324). -/
  spares : Vector (List Nat) 32 := Vector.replicate 32 []
  /-- When event 984 was last raised (R323). -/
  lastCorr : Option Nat := none
  /-- Fragment table and its counters (R293 to R296, R302). -/
  frags : List FragEntry := []
  frgFull : W32 := 0
  frgEarly : W32 := 0
  frgTmo : W32 := 0
  /-- Spread domains and their registers (R224, R297). -/
  spread : Vector Spread 64 := Vector.replicate 64 {}
  fsel : Vector (BitVec 16) 64 := Vector.replicate 64 0
  sprAddr : W32 := 0
  sprBusy : Option SpreadCmd := none
  sprErr : BitVec 4 := 0
deriving DecidableEq, Repr

end Sys2Proof.Machine
end

