-- ==== Sys2Proof/Machine/State.lean ====
section
/-!
DEFINITION. The state of the whole terminal: one field for each island, lane, core and pin, the vault, the queue of waiting
commands, and the reset state. Every register is listed with its reset value in the structures of Machine/Parts.
-/
namespace Sys2Proof.Machine

/-- One lane slice (R64): what every role has, and the state of each role's framer. -/
structure Lane where
  com : LaneCommon := {}
  ts : LaneTs := {}
  hb : HostBond := {}
  ds : LineDs := {}
  act : Act5 := {}
  pump : Pump := {}
  bond : Member := {}
  eth : EthPort := {}
  sdh : SdhPort := {}
deriving DecidableEq, Repr

/-- The terminal. -/
structure State where
  sys : SysCtl := {}
  str : Loader := {}
  pwr : Power := {}
  evt : Evt := {}
  wel : Well := {}
  tal : Tally := {}
  tim : Time := {}
  key : KeyIsland := {}
  hif : Hif := {}
  vault : Vault := {}
  cst : Cistern := {}
  tbl : Tables := {}
  fbk : Fallback := {}
  stw : Vector Steward 4 := Vector.replicate 4 {}
  quads : Vector Quad 4 := Vector.replicate 4 {}
  cores : Vector Core 72 := Vector.replicate 72 {}
  lanes : Vector Lane 96 := Vector.replicate 96 {}
  pins : Pins := {}
  /-- Low-word latches of R562, one table for each port: the latched value at the BAR0 address of its register. -/
  latchPcie : Tab W32 := []
  latchTw : Tab W32 := []
  /-- Outputs, newest first (notes/assumptions/5.md). -/
  out : List Out := []
  /-- The number of free values taken so far; the model's own (notes/assumptions/3.md). -/
  freeIdx : Nat := 0
  /-- Time since the start of the run in 0.1 ns, advanced by the idle step; the model's own (notes/assumptions/1.md). -/
  now : Nat := 0
  /-- The commands that wait, first in, first out. -/
  pending : List Instr := []
deriving DecidableEq, Repr

/-- Why the model stops. Nothing in this block stops the machine: an access outside what exists is answered (R16, R473). -/
inductive Fault where
  /-- Raised by no command: every command of the table has an effect or none. Safe. -/
  | none
deriving DecidableEq, Repr

/-- Why a command has no meaning. -/
inductive Refusal where
  /-- Raised by an arm of exec whose command is not modelled. Safe: nothing is claimed of it. -/
  | notModelled (mnemonic : String)
deriving DecidableEq, Repr

/-- The terminal right after RESET_N has risen with the straps at 00 and before the boot sequence has taken its first step
(R549, R565): every register at its reset value, the vault as it leaves manufacture. -/
def State.reset : State := {}

end Sys2Proof.Machine
end

