-- ==== Sys2Proof/Machine/TcCoding.lean ====
section
/-!
DEFINITION. Codes of the transmission-convergence layer and of path traces that the spec takes from G.9807.1, G.707 and SP 800-90A by name: hybrid
error control, Reed-Solomon parity, scrambling, the report's CRC-8 and the trace's CRC-7. Their polynomials are the standards',
PRESUMED (notes/assumptions/4.md).
-/
namespace Sys2Proof.Machine

/-- The bits of a number of n bits, most significant first. -/
def natBits (n v : Nat) : List Bool := (List.range n).reverse.map fun i => v.testBit i

/-- The remainder of a bit string, most significant first, modulo a polynomial of degree d over GF(2). -/
def polyMod (d g : Nat) (bits : List Bool) : Nat :=
  bits.foldl (fun r b => let x := 2 * r + b.toNat; if x.testBit d then x ^^^ g else x) 0

/-- HEC over a field of n bits: 12 bits of a BCH code with generator x^12 + x^10 + x^8 + x^5 + x^4 + x^3 + 1, and even parity. -/
def hec {n : Nat} (v : BitVec n) : BitVec 13 :=
  let r := BitVec.ofNat 12 (polyMod 12 0x1539 (natBits n v.toNat ++ List.replicate 12 false))
  r ++ BitVec.ofBool ((popCount v + popCount r) % 2 == 1)

/-- CRC-8 of a DBRu over its BufOcc (R189). -/
def dbruCrc (v : BitVec 24) : Byte := crc8 (beBytes 3 v.toNat)

/-- CRC-7, x^7 + x^3 + 1, of a 16-byte trace whose byte 0 is given without it (R254). -/
def traceCrc (b : List Byte) : BitVec 7 :=
  BitVec.ofNat 7 (polyMod 7 0x89 ((b.flatMap fun x => natBits 8 x.toNat) ++ List.replicate 7 false))

/-! ### RS(248,216) (R116, R178) -/

/-- The product in GF(2^8) modulo x^8 + x^4 + x^3 + x^2 + 1. -/
def rsMul (a b : Byte) : Byte :=
  ((List.range 8).reverse).foldl
    (fun x i =>
      let y := if bit x 7 then (x <<< 1) ^^^ 0x1D#8 else x <<< 1
      if bit b i then y ^^^ a else y)
    0

/-- The generator's coefficients below its leading 1, highest first: the product of x + α^i for i from 0 to n − 1. -/
def rsGen (n : Nat) : List Byte :=
  let step (a : List Byte × Byte) (_ : Nat) : List Byte × Byte :=
    (List.zipWith (· ^^^ ·) (a.1 ++ [0]) ((0 :: a.1).map (rsMul a.2)), rsMul a.2 2)
  (((List.range n).foldl step ([1], 1)).1).drop 1

/-- The 32 parity bytes of a codeword of at most 216 data bytes. -/
@[irreducible] def rsParity (data : List Byte) : List Byte :=
  let g := rsGen 32
  data.foldl
    (fun r b =>
      let f := b ^^^ r.headD 0
      List.zipWith (· ^^^ ·) (r.drop 1 ++ [0]) (g.map (rsMul f)))
    (zeros 32)

/-! ### Scrambling (R178) -/

/-- The scrambler's bits from a register of 58 bits, x^58 + x^39 + 1; the oldest bit is bit 57. -/
def scrambleBits : BitVec 58 → List Bool → List Bool
  | _, [] => []
  | r, b :: t =>
    let o := bit r 57 != bit r 38
    (b != o) :: scrambleBits ((r <<< 1) ||| (BitVec.ofBool o).setWidth 58) t

/-- Bits as bytes, most significant first; the fuel bounds the bytes. -/
def bytesOfBits : Nat → List Bool → List Byte
  | 0, _ => []
  | n + 1, l => BitVec.ofNat 8 ((l.take 8).foldl (fun a b => 2 * a + b.toNat) 0) :: bytesOfBits n (l.drop 8)

/-- An upstream FS burst scrambled: the register is preloaded with the superframe count of the grant and seven ones. -/
@[irreducible] def fsScramble (sfc : BitVec 51) (data : List Byte) : List Byte :=
  bytesOfBits data.length (scrambleBits (sfc ++ BitVec.allOnes 7) (data.flatMap fun b => natBits 8 b.toNat))

end Sys2Proof.Machine
end

