-- ==== Sys2Proof/Machine/Ops.lean ====
section
/-!
DEFINITION. The named operations over the state that every island shares: free values, lanes, outputs, latches, power domains
and the islands that answer (R16, R475, R531), roles, features (R478), the count (R425) and the sump (R301).
The terminal has no exception entry: what a command raises is an event (Machine/Report.lean).
-/
namespace Sys2Proof.Machine

/-- What a meaning answers. -/
abbrev Res := Host.Outcome State Fault Refusal

/-! ### Free values -/

/-- The next free value of w bits (notes/assumptions/3.md). -/
def State.freeBits (s : State) (w : Nat) : BitVec w := Config.free w s.freeIdx

/-- The state after a free value has been taken. -/
def State.tookFree (s : State) : State := { s with freeIdx := s.freeIdx + 1 }

/-! ### Parts of the state by number -/

/-- Lane n. -/
def State.lane (s : State) (n : LaneId) : Lane := s.lanes[n.val]

/-- The state with lane n changed by f. -/
def State.modLane (s : State) (n : LaneId) (f : Lane → Lane) : State :=
  { s with lanes := s.lanes.set n.val (f s.lanes[n.val]) }

/-- The lane's shared part changed by f. -/
def State.modCom (s : State) (n : LaneId) (f : LaneCommon → LaneCommon) : State :=
  s.modLane n fun l => { l with com := f l.com }

/-- Quadrant q. -/
def State.quad (s : State) (q : QuadId) : Quad := s.quads[q.val]

/-- The state with quadrant q changed by f. -/
def State.modQuad (s : State) (q : QuadId) (f : Quad → Quad) : State :=
  { s with quads := s.quads.set q.val (f s.quads[q.val]) }

/-- Quadrant number q changed by f; unchanged where q is no quadrant. -/
def State.modQuadN (s : State) (q : Nat) (f : Quad → Quad) : State := { s with quads := vmod s.quads q f }

/-- Cipher core k, and the state with it changed by f. -/
def State.core (s : State) (k : CoreId) : Core := s.cores[k.val]
def State.modCore (s : State) (k : CoreId) (f : Core → Core) : State :=
  { s with cores := s.cores.set k.val (f s.cores[k.val]) }
def State.modCoreN (s : State) (k : Nat) (f : Core → Core) : State := { s with cores := vmod s.cores k f }

/-- The state with an output added. -/
def State.emit (s : State) (o : Out) : State := { s with out := o :: s.out }

/-! ### Latches of low-word reads (R562) -/

/-- The latch table of a port. -/
def State.latches (s : State) : Port → Tab W32
  | .pcie => s.latchPcie
  | .twoWire => s.latchTw

/-- The value a port's latch holds for the register at a BAR0 address. -/
def State.latched (s : State) (p : Port) (a : Nat) : W32 := Tab.get 0#32 (s.latches p) a

/-- The state with a port's latch for the register at a BAR0 address set. -/
def State.latch (s : State) (p : Port) (a : Nat) (w : W32) : State :=
  match p with
  | .pcie => { s with latchPcie := Tab.put 0#32 s.latchPcie a w }
  | .twoWire => { s with latchTw := Tab.put 0#32 s.latchTw a w }

/-- A read of a 64-bit value's low word through port p: the high word is latched for the register at address hi, and the low
word is the data. -/
def State.readLow (s : State) (p : Port) (hi : Nat) (v : W64) : W32 × State := (fld v 0 32, s.latch p hi (fld v 32 32))

/-! ### Domains (R531) -/

def dTim : Nat := 0
def dHif : Nat := 1
def dCst (d : Nat) : Nat := 2 + d
def dQuad (q : Nat) : Nat := 6 + q
def dCores (q : Nat) : Nat := 10 + q
def dFbk : Nat := 14
def dRx (n : Nat) : Nat := 16 + n
def dTx (n : Nat) : Nat := 112 + n

/-- Domain d is ON. -/
def State.isOn (s : State) (d : Nat) : Bool := bit s.pwr.on d

/-- Domain d is in RETAIN. -/
def State.isRetained (s : State) (d : Nat) : Bool := bit s.pwr.ret d

/-- The code of a lane direction's domain state in LN_STATUS_n (R98): 0 ON, 1 RETAIN, 2 OFF. -/
def State.pwrCode (s : State) (d : Nat) : BitVec 2 :=
  if s.isOn d then 0 else if s.isRetained d then 1 else 2

/-- The AON clocks of 500 MHz and faster run: every state but Standby (R16); no island runs while it is held in reset (R575). -/
def State.clocked (s : State) : Bool := s.pins.released && !(decide (s.pwr.state = .standby))

/-- The kinds of a lane register (R85). -/
inductive LaneKind where
  | common
  | rx
  | tx
deriving DecidableEq, Repr

/-- A lane register of a kind answers (R85). -/
def State.laneAnswers (s : State) (n : Nat) : LaneKind → Bool
  | .common => s.isOn (dRx n) || s.isOn (dTx n)
  | .rx => s.isOn (dRx n)
  | .tx => s.isOn (dTx n)

/-- An island other than a lane answers (R16, R475): its clock runs and its domain is ON. -/
def State.islandAnswers (s : State) (id : Nat) : Bool :=
  if id = 2 then s.pins.released
  else s.clocked &&
    (if id = 6 then s.isOn dTim
     else if id = 8 then s.isOn dHif
     else if id = 0x0B then s.isOn dFbk
     else if id < 0x0C then true
     else if 0x10 ≤ id ∧ id < 0x14 then s.isOn (dQuad (id - 0x10))
     else if 0x80 ≤ id ∧ id < 0xC8 then s.isOn (dCores ((id - 0x80) / 18))
     else false)

/-- An island ID is assigned (R16). -/
def assigned (id : Nat) : Bool :=
  decide (id < 0x0C ∨ (0x10 ≤ id ∧ id < 0x14) ∨ (0x20 ≤ id ∧ id < 0xC8))

/-- Accesses through the port arrive: PCIe ends in the host interface, whose domain must be ON; the two-wire target always
answers (R491) where the terminal is not held in reset. -/
def State.portUp (s : State) : Port → Bool
  | .pcie => s.isOn dHif && s.clocked
  | .twoWire => s.pins.released

/-! ### Roles and quadrants (R38) -/

/-- The role code of lane n that runs now. -/
def State.role (s : State) (n : Nat) : Nat := (fld (vget 0#8 s.str.roles n) 0 3).toNat

def State.isLine (s : State) (n : Nat) : Bool := s.role n == 1
def State.isEth (s : State) (n : Nat) : Bool := s.role n == 2
def State.isSdh (s : State) (n : Nat) : Bool := s.role n == 3
def State.isHostBond (s : State) (n : Nat) : Bool := s.role n == 4

/-- The host-bond link of lane n (R38). -/
def State.linkOf (s : State) (n : Nat) : Nat := (fld (vget 0#8 s.str.roles n) 3 3).toNat

/-- The FEC74 bit of lane n (R38), which acts as 0 while feature 14 is absent (R478). -/
def State.fec74Raw (s : State) (n : Nat) : Bool := bit (vget 0#8 s.str.roles n) 6

/-- The quadrant of lane n and its slice (R12). -/
def quadOf (n : Nat) : Nat := n / 24
def sliceOf (n : Nat) : Nat := n % 24

/-- Quadrant q is dark (R25, R60). -/
def State.isDark (s : State) (q : Nat) : Bool := bit s.str.dark q

/-- The sizing record of quadrant q, 32 bytes (R39); zeros where no image runs. -/
def State.sizing (s : State) (q : Nat) : List Byte :=
  match vget none s.str.run q with
  | some r => r.sizing
  | none => zeros 32

/-- REF of quadrant q (R39). -/
def State.ref (s : State) (q : Nat) : Byte := byteAt (s.sizing q) 0x0F

/-! ### Features (R478) -/

/-- The offered set of stepping B0. -/
def featOffer : BitVec 128 := 0xFFFF#128

/-- Feature f is in force: accepted and locked (R477, R478). -/
def State.feature (s : State) (f : Nat) : Bool := s.sys.lock && bit s.sys.accept f

/-! ### The count (R425, R442) -/

/-- The nanoseconds of the count. -/
def Time.ns (t : Time) : W64 := t.count.extractLsb' 32 64

/-- VALID (R442). -/
def Time.valid (t : Time) : Bool :=
  t.timeSet && (t.state == .locked || t.state == .holdover || t.state == .host)

/-- The cistern runs degraded: modes 2 to 5 (R461). -/
def Cistern.degradedMode (c : Cistern) : Bool :=
  c.mode == .draining || c.mode == .retraining || c.mode == .restoring || c.mode == .degraded

/-! ### The sump (R299, R301) -/

/-- n frames of together `bytes` bytes go to the sump of quadrant q with a cause. -/
def State.sumpN (s : State) (q cause n bytes : Nat) : State :=
  { s with sys := { s.sys with
      sump := Tab.mod (0#64, 0#64) s.sys.sump (32 * q + cause) fun x =>
        (x.1 + BitVec.ofNat 64 n, x.2 + BitVec.ofNat 64 bytes) } }

/-- A frame goes to the sump of quadrant q with a cause. -/
def State.toSump (s : State) (q cause bytes : Nat) : State := s.sumpN q cause 1 bytes

end Sys2Proof.Machine
end

