-- ==== Sys2Proof/Machine/Drbg.lean ====
section
/-!
DEFINITION. The SP 800-90A CTR_DRBG of R412: AES-256 with the derivation function, no additional input. Its entropy is the true random source's: a
free value (notes/assumptions/3.md).
-/
namespace Sys2Proof.Machine

/-- Blocks of output, each from the counter block after one more increment; and the counter block that is left. -/
def drbgBlocks (key : List Byte) : Nat → List Byte → List Byte × List Byte
  | 0, v => ([], v)
  | n + 1, v =>
    let v := addCounter 16 1 v
    let (t, w) := drbgBlocks key n v
    (aesBlock key v ++ t, w)

/-- The update function with 48 bytes of provided data. -/
def Drbg.update (d : Drbg) (data : List Byte) : Drbg :=
  let t := xorBytes (drbgBlocks (beBytes 32 d.key.toNat) 3 (beBytes 16 d.v.toNat)).1 data
  ⟨BitVec.ofNat 256 (beNat (t.take 32)), BitVec.ofNat 128 (beNat (t.drop 32))⟩

/-- BCC of the derivation function. -/
def drbgBcc (key data : List Byte) : List Byte := (blocks16 data.length data).foldl (fun x b => aesBlock key (xorBytes x b)) (zeros 16)

/-- The derivation function: 48 bytes from a seed. -/
def drbgDf (seed : List Byte) : List Byte :=
  let s := pad16 (beBytes 4 seed.length ++ beBytes 4 48 ++ seed ++ [0x80#8])
  let k := (List.range 32).map fun i => BitVec.ofNat 8 i
  let t := [0, 1, 2].flatMap fun i => drbgBcc k (beBytes 4 i ++ zeros 12 ++ s)
  let key := t.take 32
  let x1 := aesBlock key (t.drop 32)
  let x2 := aesBlock key x1
  x1 ++ x2 ++ aesBlock key x2

/-- Instantiated from entropy. -/
@[irreducible] def Drbg.instantiate (entropy : List Byte) : Drbg := Drbg.update {} (drbgDf entropy)

/-- Reseeded from entropy. -/
@[irreducible] def Drbg.reseed (d : Drbg) (entropy : List Byte) : Drbg := d.update (drbgDf entropy)

/-- A generate request of n bytes: the bytes, and the generator after it. -/
@[irreducible] def Drbg.generate (d : Drbg) (n : Nat) : List Byte × Drbg :=
  let (out, v) := drbgBlocks (beBytes 32 d.key.toNat) ((n + 15) / 16) (beBytes 16 d.v.toNat)
  (out.take n, Drbg.update { d with v := BitVec.ofNat 128 (beNat v) } (zeros 48))

/-! ### The master generator (R412) -/

/-- 384 conditioned bits. -/
def State.entropy (s : State) : List Byte := beBytes 48 (s.freeBits 384).toNat

/-- The master generator is instantiated (R391, R407, R412). -/
def State.drbgStart (s : State) : State :=
  { s.tookFree with key := { s.key with drbg := Drbg.instantiate s.entropy, drbgCount := 0 } }

/-- The master generator is reseeded, but not while TRNG_FAIL is 1. -/
def State.drbgReseed (s : State) : State :=
  if s.key.trngFail then s
  else { s.tookFree with key := { s.key with
    drbg := s.key.drbg.reseed s.entropy, drbgCount := 0, drbgReseeds := s.key.drbgReseeds + 1 } }

/-- One generate request of n bytes to the master generator, which is reseeded first where it has served 2^16 requests. -/
def State.draw (s : State) (n : Nat) : List Byte × State :=
  let s := if 65536 ≤ s.key.drbgCount then s.drbgReseed else s
  let (b, d) := s.key.drbg.generate n
  (b, { s with key := { s.key with drbg := d, drbgCount := s.key.drbgCount + 1 } })

/-- 32 bits of the master generator, which is reseeded first where it has served 2^16 requests. A generate request gives 4 bytes, the first in
bits 7 to 0 (notes/assumptions/108.md). -/
def State.drawWord (s : State) : W32 × State :=
  let x := s.draw 4
  (BitVec.ofNat 32 (leNat x.1), x.2)

/-! ### The true random source's tests (R410) -/

/-- n raw bits in a row are equal. -/
def equalRun (n : Nat) : List Bool → Bool
  | [] => false
  | b :: t => (decide (n ≤ (b :: t).length) && ((b :: t).take n).all (· == b)) || equalRun n t

/-- The source fails on raw bits that begin with an aligned window: 40 equal bits in a row, or a window of 1,024 with more than 640 equal. -/
def trngFails (raw : List Bool) : Bool :=
  equalRun 40 raw ||
  (List.range (raw.length / 1024)).any fun i =>
    let ones := (((raw.drop (1024 * i)).take 1024).filter id).length
    decide (640 < ones ∨ ones < 384)

end Sys2Proof.Machine
end

