-- ==== Sys2Proof/Machine/Report.lean ====
section
/-!
DEFINITION. Raising an event, shared by every island: locations, classes and parents of the sources (R27, R495 to R499), the
report (R500 step 1), the MSI-X message (R471, R507), the well record of a raised report (R512 to R520) and the count of
operating seconds (R513).
-/
namespace Sys2Proof.Machine

/-! ### Sources (R495 to R499) -/

/-- A location of the main die with the levels Q, S and B. -/
def locQSB (q s b : Nat) : Loc :=
  { d := 0, q := BitVec.ofNat 8 q, s := BitVec.ofNat 8 s, b := BitVec.ofNat 8 b }

/-- The location field, 8 bytes (R489). -/
def locBytes (l : Loc) : List Byte := [l.d, l.q, l.s, l.b] ++ leBytes 2 l.w.toNat ++ leBytes 2 l.c.toNat

/-- The location of die-common island S. -/
def locIsland (i : Nat) : Loc := locQSB 7 i 0

/-- The location of event source e (R495 and the chapters that raise it; notes/assumptions/12.md). -/
def evLoc (e : Nat) : Loc :=
  if e < 768 then locQSB (e / 8 / 24) (e / 8 % 24) 0
  else if e < 912 then locQSB ((e - 768) / 2 / 18) ((e - 768) / 2 % 18) 64
  else if e < 920 then locIsland 8
  else if e < 922 then locIsland 1
  else if 930 ≤ e ∧ e < 934 then { d := 0, q := BitVec.ofNat 8 (e - 930) }
  else if e = 940 then locIsland 0
  else if 941 ≤ e ∧ e < 949 then locQSB 7 (e - 941) 192
  else if e = 949 then { d := 0, q := 7, s := 9 }
  else if 950 ≤ e ∧ e < 958 then locQSB ((e - 950) % 4) 9 137
  else if 960 ≤ e ∧ e < 976 then locIsland 9
  else if 980 ≤ e ∧ e < 984 then locQSB (e - 980) 1 129
  else if 984 ≤ e ∧ e < 987 then locIsland 10
  else if e = 990 ∨ e = 991 ∨ e = 995 then locIsland 11
  else if 992 ≤ e ∧ e < 995 then locIsland 7
  else if e = 996 ∨ e = 997 then locIsland 2
  else if e = 998 ∨ e = 999 then locIsland 0
  else if 1000 ≤ e ∧ e < 1006 then locIsland 7
  else if e = 1006 ∨ (1021 ≤ e ∧ e < 1024) then locIsland 4
  else if e = 1008 then { d := 0, q := 7, s := 6 }
  else if 1009 ≤ e ∧ e < 1020 then locIsland 6
  else locIsland 3

/-- The class of event 8n + 7 by its cause code (R498, second table). -/
def laneCauseClass (c : Nat) : BitVec 4 :=
  if c = 1 then 1 else if c = 2 then 4 else if 3 ≤ c ∧ c ≤ 6 then 3 else 0

/-- The class of event 768 + 2k by the CAUSE of R384 (R498). -/
def coreCauseClass (c : Nat) : BitVec 4 :=
  if c = 1 ∨ c = 2 then 7 else if c = 3 then 6 else 0

/-- The source's class is set by each raise (R498). -/
def classVaries (e : Nat) : Bool := decide (e < 768 ∧ e % 8 = 7) || decide (768 ≤ e ∧ e < 912 ∧ e % 2 = 0)

/-- The class of a source whose class is fixed (R498, first table). -/
def fixedClass (e : Nat) : BitVec 4 :=
  if e < 768 then
    (if e % 8 = 0 ∨ e % 8 = 2 ∨ e % 8 = 5 then 1
     else if e % 8 = 1 then 2
     else if e % 8 = 3 ∨ e % 8 = 6 then 5 else 0)
  else if e < 912 then (if e % 2 = 1 then 7 else 0)
  else if e < 920 then 8
  else if 930 ≤ e ∧ e < 934 then 2
  else if 941 ≤ e ∧ e < 950 then 3
  else if 960 ≤ e ∧ e < 976 then 5
  else if e = 984 ∨ e = 985 then 3
  else if e = 990 ∨ e = 991 ∨ e = 995 then 7
  else if 1000 ≤ e ∧ e < 1004 then 6
  else if e = 1008 then 4
  else 0

/-- The class of a report of e with a detail. -/
def reportClass (e : Nat) (detail : List Byte) : BitVec 4 :=
  if e < 768 ∧ e % 8 = 7 then laneCauseClass (byteAt detail 0).toNat
  else if 768 ≤ e ∧ e < 912 ∧ e % 2 = 0 then coreCauseClass (byteAt detail 0).toNat
  else fixedClass e

/-- The condition sources (R497). -/
def isCondition (e : Nat) : Bool :=
  decide (e < 768 ∧ e % 8 < 2) || decide (768 ≤ e ∧ e < 912 ∧ e % 2 = 0) || decide (930 ≤ e ∧ e < 934) ||
  decide (e = 990 ∨ e = 1000 ∨ e = 1001 ∨ e = 1002 ∨ e = 1008)

/-- The parents of a report of e of class c: the cross-links of R27, else the nearest source whose location code is a proper
prefix (R27, R499). -/
def parentsOf (e : Nat) (c : BitVec 4) : List Nat :=
  if e < 768 ∧ e % 8 = 7 ∧ c = 4 then [1008]
  else if e < 768 ∧ e % 8 = 7 ∧ c = 3 then [941, 942, 943, 944, 945, 946, 947, 948]
  else if 768 ≤ e ∧ e < 912 ∧ e % 2 = 0 ∧ c = 6 then [1000, 1001, 1002, 1003]
  else if e < 768 then [930 + e / 8 / 24]
  else if e < 912 then [930 + (e - 768) / 2 / 18]
  else if 950 ≤ e ∧ e < 958 then [930 + (e - 950) % 4]
  else if 980 ≤ e ∧ e < 984 then [930 + (e - 980)]
  else if e = 947 then [1008]
  else if 960 ≤ e ∧ e < 976 then [949]
  else if 1009 ≤ e ∧ e < 1020 then [1008]
  else []

/-- The source is the parent of some other source, so that its raised reports gather (R500 step 4). -/
def isParent (e : Nat) : Bool :=
  decide (930 ≤ e ∧ e < 934) || decide (941 ≤ e ∧ e < 950) || decide (1000 ≤ e ∧ e < 1004) || decide (e = 1008)

/-! ### Reports (R500 step 1) -/

/-- What the referee keeps of source e. -/
def State.src (s : State) (e : Nat) : Src := Tab.get {} s.evt.srcs e

/-- The state with what the referee keeps of source e changed. -/
def State.modSrc (s : State) (e : Nat) (f : Src → Src) : State :=
  { s with evt := { s.evt with srcs := Tab.mod {} s.evt.srcs e f } }

/-- Source e makes a report: it is held for the settle time; a condition source becomes active and a pulse source starts its
hold window (R497, R500, R501). A forced report is a pulse (R510). -/
def State.reportWith (s : State) (e : Nat) (r : Report) : State :=
  s.modSrc e fun x =>
    { x with
      settle := x.settle ++ [r]
      sev := r.sev
      cls := r.cls
      active := x.active || (isCondition e && !r.forced)
      hold := x.hold || !(isCondition e && !r.forced) }

/-- Event e is raised with a severity and a detail at its own location. -/
def State.report (s : State) (e : Nat) (sev : BitVec 3) (detail : List Byte := []) : State :=
  s.reportWith e { sev := sev, cls := reportClass e detail, loc := evLoc e, detail := detail }

/-- Event e is raised where c holds. -/
def State.reportIf (s : State) (c : Bool) (e : Nat) (sev : BitVec 3) (detail : List Byte := []) : State :=
  if c then s.report e sev detail else s

/-- Event e is raised with a severity that the spec does not give: one of R496, free. -/
def State.reportFreeSev (s : State) (e : Nat) (detail : List Byte := []) : State :=
  let v := BitVec.ofNat 3 ((s.freeBits 3).toNat % 5)
  s.tookFree.report e v detail

/-- The condition of source e ends and its hold window starts (R497, R501). -/
def State.endCond (s : State) (e : Nat) : State :=
  s.modSrc e fun x => if x.active then { x with active := false, hold := true } else x

/-! ### MSI-X (R471, R507) -/

/-- A message on vector v: sent, or left pending while the vector is masked; none while the host interface is not ON. -/
def State.msixSend (s : State) (v : Nat) : State :=
  let e : MsixEntry := vget {} s.hif.msix v
  if !s.isOn dHif then s
  else if e.masked then { s with hif := { s.hif with pba := setBit s.hif.pba v true } }
  else s.emit (.msix e.addr e.data)

/-- The group bit of group g (R506). -/
def Evt.groupBit (x : Evt) (g : Nat) : Bool :=
  (vget 0#32 x.status g &&& ~~~(vget 0#32 x.mask g)) != 0#32

/-- MSIX_EN and VEC of group g (R510). -/
def Evt.msixEn (x : Evt) (g : Nat) : Bool := bit (vget 0#32 x.map g) 8
def Evt.vec (x : Evt) (g : Nat) : Nat := (fld (vget 0#32 x.map g) 0 6).toNat

/-- STATUS of source e is set; its group sends a message when its bit goes from 0 to 1 (R506, R507). -/
def State.setStatus (s : State) (e : Nat) : State :=
  let g := e / 32
  let t : State := { s with evt := { s.evt with status := vmod s.evt.status g fun w => setBit w (e % 32) true } }
  if !s.evt.groupBit g && t.evt.groupBit g && t.evt.msixEn g then t.msixSend (t.evt.vec g) else t

/-! ### Records (R512 to R520) -/

/-- OPS: operating seconds at this moment (R513). -/
def State.ops (s : State) : W32 := s.vault.operatingS + BitVec.ofNat 32 (s.wel.opsClk / 10 ^ 10)

/-- A report raised now, with the fields of its record filled (R513). -/
def State.raisedNow (s : State) (e : Nat) (r : Report) (lasting direct : Bool) (symp : W32) : Raised :=
  { event := BitVec.ofNat 16 e, rep := r, lasting := lasting, direct := direct, ops := s.ops, pwr := s.vault.powerCycles,
    timeValid := s.tim.valid, time := if s.tim.valid then s.tim.ns else 0, symp := symp }

/-- The unflushed records of the RAM buffer. -/
def Well.unflushed (w : Well) : Nat := (w.ram.filter fun r => !r.flushed).length

/-- The records that a flush copies, in SEQ order (R516). -/
def Well.toFlush (w : Well) : List W32 := (w.ram.filter fun r => !r.flushed || r.dirty).map fun r => r.body.seq

/-- A flush trigger: kept while frozen or during the power-fail sequence; extends a flush in progress to the new records;
starts one otherwise (R516, R518, R520). -/
def Well.trigger (w : Well) : Well :=
  match w.flush with
  | some f =>
    if f.pfail then { w with kept := true }
    else
      { w with flush := some { f with
          todo := f.todo ++ ((w.ram.filter fun r => !r.flushed && seqGe r.body.seq f.upTo).map fun r => r.body.seq)
          upTo := w.seqNext } }
  | none =>
    if w.frozen then { w with kept := true }
    else if w.toFlush = [] then w
    else { w with flush := some { todo := w.toFlush, upTo := w.seqNext } }

/-- The oldest flushed record gives way (R516). -/
def dropFlushed : List RamRec → List RamRec
  | [] => []
  | r :: t => if r.flushed then t else r :: dropFlushed t

/-- A record is put into the RAM buffer, or discarded where 4,096 unflushed records fill it (R516); the flag says that it was
discarded. -/
def Well.append (w : Well) (r : RamRec) : Well × Bool :=
  if w.ram.length < 4096 then ({ w with ram := w.ram ++ [r], openRec := true }, false)
  else if w.ram.any (·.flushed) then ({ w with ram := dropFlushed w.ram ++ [r], openRec := true }, false)
  else ({ w with discards := satAdd w.discards 1, openRec := false }, true)

/-- A discarded record sets DISCARD_SEEN, and event 1021 is raised when it goes from 0 to 1 (R519). -/
def State.wellDiscarded (s : State) : State :=
  let t : State := { s with wel := { s.wel with discardSeen := true } }
  t.reportIf (!s.wel.discardSeen) 1021 2

/-- A record of the RAM buffer that is newly written: triggers of R516 by severity and by count. -/
def State.wellAppend (s : State) (r : RamRec) : State :=
  let (w, lost) := s.wel.append r
  let w := if decide (3 ≤ r.body.raised.rep.sev.toNat) && !lost then { w with sevDue := true } else w
  let w := if w.unflushed ≥ 3584 ∧ !lost then w.trigger else w
  let t : State := { s with wel := w }
  if lost then t.wellDiscarded else t

/-- The side buffer is appended to the RAM buffer in SEQ order and the log thaws; the kept triggers act (R520). -/
def State.wellThaw (s : State) : State :=
  let side := s.wel.side
  let t : State := { s with wel := { s.wel with frozen := false, side := [] } }
  let t := side.foldl State.wellAppend t
  if t.wel.kept then { t with wel := { t.wel with kept := false }.trigger } else t

/-- The freeze is broken: FREEZE_BROKEN, event 1022, then as a THAW (R520). -/
def State.wellBreakFreeze (s : State) : State :=
  let t : State := { s with wel := { s.wel with freezeBroken := true } }
  (t.wellThaw).report 1022 1

/-- The last record of a buffer absorbs a raised report (R515). -/
def absorbs (r : WellRec) (x : Raised) : Bool :=
  r.raised.event == x.event && r.raised.rep.loc == x.rep.loc && r.raised.rep.sev == x.rep.sev &&
  r.raised.lasting == x.lasting && !x.rep.forced && decide (r.rep.toNat < 0xFFFF)

/-- The record with one more occurrence (R515). -/
def WellRec.absorb (r : WellRec) (x : Raised) : WellRec :=
  { r with rep := r.rep + 1, lastTime := x.time, lastOps := x.ops,
           raised := { r.raised with symp := r.raised.symp + x.symp } }

/-- The last element of a list changed. -/
def modLast {α : Type} (f : α → α) : List α → List α
  | [] => []
  | [x] => [f x]
  | x :: y :: t => x :: modLast f (y :: t)

/-- The buffer that takes new records: the side buffer while frozen. -/
def Well.buffer (w : Well) : List RamRec := if w.frozen then w.side else w.ram

/-- A raised report is written to the well: absorbed, put into the side buffer, or put into the RAM buffer (R515, R516, R520).
Every record that is not absorbed takes a SEQ, a discarded one too. -/
def State.wellWrite (s : State) (x : Raised) : State :=
  match s.wel.buffer.getLast? with
  | some r =>
    if s.wel.openRec && absorbs r.body x then
      let f : RamRec → RamRec := fun y => { y with body := y.body.absorb x, dirty := y.dirty || y.flushed }
      if s.wel.frozen then { s with wel := { s.wel with side := modLast f s.wel.side } }
      else { s with wel := { s.wel with ram := modLast f s.wel.ram } }
    else fresh s x
  | none => fresh s x
where
  /-- A new record takes the next SEQ. -/
  fresh (s : State) (x : Raised) : State :=
    let s := if s.wel.frozen && decide (256 ≤ s.wel.side.length) then s.wellBreakFreeze else s
    let r : RamRec := { body := { seq := s.wel.seqNext, raised := x } }
    let s : State := { s with wel := { s.wel with seqNext := s.wel.seqNext + 1 } }
    if s.wel.frozen then { s with wel := { s.wel with side := s.wel.side ++ [r], openRec := true } }
    else s.wellAppend r

/-- The SEQ that the ring entry of the report just written carries: that of the last record (R489, R515). -/
def Well.lastSeq (w : Well) : W32 :=
  match w.buffer.getLast? with
  | some r => if w.openRec then r.body.seq else w.seqNext - 1
  | none => w.seqNext - 1

/-- MIN_SEV of EVT_RING_CTL (R510). -/
def Evt.minSev (x : Evt) : Nat := (fld x.ringCtl 0 3).toNat

/-- A raised report whose gathering is over: its record is written and its ring entry posted (R500 step 4); before the boot
scan completes it waits (R514). -/
def State.raiseDone (s : State) (x : Raised) : State :=
  if !s.wel.scanned then { s with wel := { s.wel with preScan := s.wel.preScan ++ [x] } }
  else
    let t := s.wellWrite x
    let q := t.wel.lastSeq
    let t := t.modSrc x.event.toNat fun y => { y with lastSeq := q }
    if t.evt.minSev ≤ x.rep.sev.toNat ∧ t.evt.minSev < 5 then
      { t with evt := { t.evt with toRing := t.evt.toRing ++ [(q, x)] } }
    else t

end Sys2Proof.Machine
end

