-- ==== Sys2Proof/Machine/KeyOps.lean ====
section
/-!
DEFINITION. Labels, derivation and availability of keys (R392, R397, R398, R401, R408), shared by the key island, the cipher
cluster and the well.
-/
namespace Sys2Proof.Machine

/-- The 48 bytes of a context label (R397). -/
def labelBytes (k : KeyName) : List Byte :=
  [0x41#8, 0x4B#8, 0x4C#8, 0x31#8, k.slot.setWidth 8, k.purpose.setWidth 8, if k.direction then 1#8 else 0#8, 0#8] ++
  beBytes 4 k.service.toNat ++ beBytes 4 k.epoch.toNat ++ beBytes 4 k.site.toNat ++
  beBytes 4 (if k.bits256 then 256 else 128) ++ zeros 24

/-- One PRF call of the counter-mode KDF (R398). -/
def kdfBlock (root : List Byte) (k : KeyName) (i : Nat) : List Byte :=
  cmac root (beBytes 4 i ++ labelBytes k ++ beBytes 4 (if k.bits256 then 256 else 128))

/-- The working key of a label (R398): 16 or 32 bytes. -/
def kdf (root : List Byte) (k : KeyName) : List Byte :=
  if k.bits256 then kdfBlock root k 1 ++ kdfBlock root k 2 else kdfBlock root k 1

/-- ZEROISED (R408): while ZERO_N is low or a tamper is latched. The steps of R407 take no time in the model. -/
def State.zeroised (s : State) : Bool := s.key.zeroNLow || s.vault.tamperLatched

/-- Root slot i of the vault and the key island's copy of it. -/
def State.slot (s : State) (i : Nat) : RootSlot := vget {} s.vault.slots i
def State.copy (s : State) (i : Nat) : RootCopy := vget {} s.key.copies i

/-- Slot i is LOADED and allows purpose p (R392). -/
def State.slotAllows (s : State) (i p : Nat) : Bool :=
  decide ((s.slot i).state = .loaded) && bit (s.slot i).purposes (p - 1)

/-- The root key that a name's generation selects: the slot's copy, or the old one kept (R400, R403). -/
def State.rootOf (s : State) (k : KeyName) : Option (List Byte) :=
  let c := s.copy k.slot.toNat
  if c.gen = k.gen then c.key else if c.oldGen = k.gen then c.oldKey else none

/-- A key of a name can be derived now (R392, R401). -/
def State.keyAvailable (s : State) (k : KeyName) : Bool :=
  !s.zeroised && s.slotAllows k.slot.toNat k.purpose.toNat && (s.rootOf k).isSome

/-- The working key of a name, where it is available. -/
def State.deriveKey (s : State) (k : KeyName) : Option (List Byte) :=
  if s.keyAvailable k then (s.rootOf k).map fun r => kdf r k else none

/-- A name of slot i for a purpose: direction as given exclusive-or SIDE for purposes 1 to 3, and 0 for 4 and 5 (R397). -/
def State.keyName (s : State) (i p : Nat) (dir : Bool) (service epoch site : W32) (bits256 : Bool) : KeyName :=
  { slot := BitVec.ofNat 4 i, purpose := BitVec.ofNat 3 p,
    direction := if p < 4 then xor dir (s.slot i).side else false,
    service := service, epoch := epoch, site := site, bits256 := bits256, gen := (s.copy i).gen }

end Sys2Proof.Machine
end

