-- ==== Sys2Proof/Machine/Access.lean ====
section
/-!
DEFINITION. The register path (R473 to R475): an access reaches an island that answers, or gets the gated answer of R475.
-/
namespace Sys2Proof.Machine

/-- BAR0 base of a numbered island (R559): every island's window is 128 KiB. -/
def base (id : Nat) : Nat := id * 0x20000

/-- BAR0 base of lane n, quadrant q and core k. -/
def laneBase (n : Nat) : Nat := base (0x20 + n)
def quadBase (q : Nat) : Nat := base (0x10 + q)
def coreBase (k : Nat) : Nat := base (0x80 + k)

/-- HIF_GATED_STATUS with VALID for an access at BAR0 address a (R476). -/
def gatedWord (p : Port) (a : Nat) (write : Bool) : W32 :=
  atN 0 8 (a / 0x20000) ||| atN 8 4 (a % 0x20000 / 0x2000) ||| atN 12 11 (a % 0x2000 / 4) ||| atB 23 write |||
    atB 24 (p == .twoWire) ||| atB 31 true

/-- The record that a gated access leaves, and event 913 (R475). While the HIF domain is not ON nothing is recorded and the
event is still raised (R491). -/
def State.gatedRecord (s : State) (p : Port) (a : Nat) (write : Bool) : State :=
  if s.isOn dHif && s.clocked then
    let seen := bit s.hif.gated 31
    let h := { s.hif with
      gatedCount := satAdd s.hif.gatedCount 1
      gated := if seen then s.hif.gated else gatedWord p a write }
    State.reportIf { s with hif := h } (!seen) 913 1
  else s.report 913 1

/-- The data of a gated read: 0xE0E0_0000 plus the island ID (R475). -/
def gatedData (a : Nat) : W32 := 0xE0E00000#32 + BitVec.ofNat 32 (a / 0x20000)

/-- A write at BAR0 address a of a register that answers when ans: done by k, or gated. -/
def State.writeAt (s : State) (p : Port) (a : Nat) (ans : Bool) (k : State → State) : State :=
  if !s.portUp p then s else if ans then k s else s.gatedRecord p a true

/-- A read at BAR0 address a of a register that answers when ans: the data goes out through the port. -/
def State.readAt (s : State) (p : Port) (a : Nat) (ans : Bool) (k : State → W32 × State) : State :=
  if !s.portUp p then s
  else if ans then (k s).2.emit (.read p (k s).1)
  else (s.gatedRecord p a false).emit (.read p (gatedData a))

/-- A write to a register of a die-common island, a quadrant or a core. -/
def State.writeIsl (s : State) (p : Port) (a : Nat) (k : State → State) : State :=
  s.writeAt p a (s.islandAnswers (a / 0x20000)) k

/-- A read of a register of a die-common island, a quadrant or a core. -/
def State.readIsl (s : State) (p : Port) (a : Nat) (k : State → W32 × State) : State :=
  s.readAt p a (s.islandAnswers (a / 0x20000)) k

/-- A write to a register of lane n at island offset off, of a kind (R85). -/
def State.writeLane (s : State) (p : Port) (n : LaneId) (off : Nat) (kind : LaneKind) (k : State → State) : State :=
  s.writeAt p (laneBase n + off) (s.laneAnswers n kind && s.clocked) k

/-- A read of a register of lane n at island offset off, of a kind (R85). -/
def State.readLane (s : State) (p : Port) (n : LaneId) (off : Nat) (kind : LaneKind) (k : State → W32 × State) : State :=
  s.readAt p (laneBase n + off) (s.laneAnswers n kind && s.clocked) k

/-- The two words of a 64-bit counter at items 2c and 2c + 1 of a window: a read of an even item latches the next (R130). -/
def State.readPair (s : State) (p : Port) (key : Nat) (v : W64) (odd : Bool) : W32 × State :=
  if odd then (s.latched p key, s) else s.readLow p key v

end Sys2Proof.Machine
end

