-- ==== Sys2Proof/Machine/FloatOps.lean ====
section
/-!
DEFINITION. Occupancy of the trough's upstream share, the float marks and what a crossing makes the Ethernet ports send (R231,
R233 to R235, R248).
-/
namespace Sys2Proof.Machine

/-- Bytes of the upstream frames of a list. -/
def upBytes (fs : List Frame) : Nat := (fs.map fun f => if f.down then 0 else f.bytes.length).sum

/-- Bytes of a queue's frames in the trough, less what has left. -/
def Queue.troughBytes (x : Queue) : Nat := (x.frames.map fun e => if e.inCistern then 0 else e.frame.bytes.length - e.sent).sum

/-- Bytes of a queue's frames in trough and cistern together: its depth (R336). -/
def Queue.depth (x : Queue) : Nat := (x.frames.map fun e => e.frame.bytes.length - e.sent).sum

/-- Ingress occupancy of a quadrant (R233): upstream frames that wait for classification or on their way, and the trough part of
the upstream queues. -/
def Quad.occupancy (x : Quad) : Nat :=
  upBytes x.parseQ + upBytes x.rallyQ + upBytes x.lookupQ + upBytes x.lpmQ + upBytes x.enqueueQ + upBytes x.cph.queue +
  upBytes (x.cph.rob.map (·.frame)) + (x.us.queues.map fun e => e.2.troughBytes).sum

/-- TROUGH_US of quadrant q in MiB (R39). -/
def State.troughUs (s : State) (q : Nat) : Nat := (byteAt (s.sizing q) 0x0E).toNat

/-- HIGH and LOW as they act, in bytes (R233, R248). -/
def State.floatHigh (s : State) (q : Nat) : Nat :=
  let h := max 1 (fld (vget {} s.quads q).floatMarks 0 8).toNat
  min h (s.troughUs q * 16)
def State.floatLow (s : State) (q : Nat) : Nat := min (fld (vget {} s.quads q).floatMarks 8 8).toNat (s.floatHigh q - 1)

/-- MODE of LN_ETH_PAUSE_n: 3 acts as 0 (R246), and so does 2 without the feature PFC (R478). -/
def EthPort.mode (e : EthPort) (pfc : Bool) : Nat :=
  let m := (fld e.pause 0 2).toNat
  if m = 3 ∨ (m = 2 ∧ !pfc) then 0 else m

/-- A port in UP is told to send an XOFF in its MODE (R234). -/
def EthPort.flow (e : EthPort) (pfc : Bool) : EthPort :=
  if e.link = .up ∧ e.mode pfc ≠ 0 then { e with pendingFlow := some { xoff := true, pfc := e.mode pfc == 2 } } else e

/-- The cancel of a port that has sent an XOFF, in the form of that XOFF, or whose XOFF still waits, which it replaces (R234, R235). -/
def EthPort.unflow (e : EthPort) : EthPort :=
  if e.xoff then { e with pendingFlow := some { xoff := false, pfc := e.xoffPfc, pri := e.xoffPri } }
  else
    match e.pendingFlow with
    | some m => { e with pendingFlow := some { xoff := false, pfc := m.pfc, pri := fld e.pause 8 8 } }
    | none => e

/-- Every Ethernet port of quadrant q is told to send the frame of the state entered. -/
def State.flowAll (s : State) (q : Nat) (xoff : Bool) : State :=
  { s with lanes := Vector.ofFn fun n : Fin 96 =>
      let l := s.lanes[n.val]
      if n.val / 24 = q ∧ s.isEth n.val then { l with eth := if xoff then l.eth.flow (s.feature 15) else l.eth.unflow } else l }

/-- The float marks of quadrant q are judged (R233). -/
def State.floats (s : State) (q : Nat) : State :=
  let x : Quad := vget {} s.quads q
  if x.xoff then
    if x.occupancy ≤ s.floatLow q * 65536 then (s.modQuadN q fun x => { x with xoff := false }).flowAll q false else s
  else
    if s.floatHigh q * 65536 ≤ x.occupancy ∧ 0 < s.troughUs q then
      (s.modQuadN q fun x => { x with xoff := true }).flowAll q true
    else s

/-- The float marks of every quadrant are judged. -/
def State.floatsAll (s : State) : State := (((s.floats 0).floats 1).floats 2).floats 3

/-- Room in the upstream share of quadrant q (R231). -/
def State.troughRoom (s : State) (q : Nat) : Nat := s.troughUs q * 1048576 - (vget {} s.quads q).occupancy

/-- QD_FLOAT_STATUS_q (R248). -/
def Quad.floatStatus (x : Quad) : W32 := atN 0 24 (x.occupancy / 1024) ||| atB 24 x.xoff

/-- Block 8 of quadrant q. -/
def State.floatRead (s : State) (q off : Nat) : W32 :=
  let x : Quad := vget {} s.quads q
  if off = 0x10000 then x.floatMarks else if off = 0x10004 then x.floatStatus else 0

def State.floatWrite (s : State) (q off : Nat) (w : W32) : State :=
  if off = 0x10000 then (s.modQuadN q fun x => { x with floatMarks := rw 0xFFFF#32 w }).floats q else s

end Sys2Proof.Machine
end

