-- ==== Sys2Proof/Machine/Parser.lean ====
section
/-!
DEFINITION. The parser (R276 to R279) and the classification key (R281, R282). The parser is a machine that reads one header at a
time; the FCS is no part of what it reads.
-/
namespace Sys2Proof.Machine

/-- What comes next: a header that the last header names. -/
inductive Nx where
  | ether
  | etype (v : Nat)
  | label
  | ip4
  | ip6
  | proto (v : Nat)
  | vxlan
  | ptp
  | stop

/-- The parser's state: the headers so far, the next byte, headers parsed, tags of the present Ethernet header, labels, and
extension headers and payload end of the present IP header. -/
structure Ps where
  h : Hdr := {}
  pos : Nat := 0
  n : Nat := 0
  vlan : Nat := 0
  lab : Nat := 0
  ext : Nat := 0
  v6 : Bool := false
  fragSeen : Bool := false
  ipEnd : Nat := 0

/-- One step: the next state and header, a stop with PARSE_DEEP, or malformed. -/
inductive POut where
  | go (p : Ps) (nx : Nx)
  | deep (p : Ps)
  | bad

/-- The EtherTypes and the VXLAN port that the quadrant's registers give (R303). -/
structure PrsCfg where
  vxlanEn : Bool
  vxlanPort : Nat
  trib : Nat
  bond : Nat

def Quad.prsCfg (x : Quad) (vxlan : Bool) : PrsCfg :=
  { vxlanEn := vxlan && bit x.prsCtl 2, vxlanPort := (fld x.prsCtl 16 16).toNat, trib := (fld x.etype 0 16).toNat,
    bond := (fld x.etype 16 16).toNat }

/-- A header of len bytes from start: past the limits of R277 the parser stops; past the frame's end the frame is malformed
(R279); else k goes on with the header counted and the position at its end. -/
def Ps.take (p : Ps) (L start len : Nat) (k : Ps → POut) : POut :=
  if 10 ≤ p.n ∨ 256 < start + len then .deep p
  else if L < start + len then .bad
  else k { p with n := p.n + 1, pos := start + len }

/-- The EtherType after an Ethernet header or a tag, outer or inner. -/
def Ps.setEtype (p : Ps) (v : Nat) : Ps :=
  if p.h.inner then { p with h := { p.h with inEtype := BitVec.ofNat 16 v } }
  else { p with h := { p.h with etype := BitVec.ofNat 16 v } }

/-- A VLAN tag: its TCI at pos and the next EtherType after it. -/
def parseVlan (b : List Byte) (L : Nat) (p : Ps) : POut :=
  if p.vlan = 3 then .deep p
  else
    p.take L p.pos 4 fun r =>
      if L < r.pos + 4 then .bad
      else
        let tci := BitVec.ofNat 16 (beAt b p.pos 2)
        let v := beAt b (p.pos + 2) 2
        let r := if p.h.inner then r else { r with h := { r.h with tags := r.h.tags ++ [tci] } }
        .go ({ r with vlan := p.vlan + 1 }.setEtype v) (.etype v)

/-- A SecTAG, whose first two bytes are the EtherType: the rest is ciphertext. -/
def parseSecTag (b : List Byte) (L : Nat) (p : Ps) : POut :=
  let tci := byteAt b p.pos
  let sc := bit tci 5
  p.take L (p.pos - 2) (if sc then 16 else 8) fun r =>
    let left := L - r.pos
    let sl := (fld (byteAt b (p.pos + 1)) 0 6).toNat
    if left < 4 ∨ bit tci 7 ∨ (bit tci 6 ∧ sc) then .bad
    else if sl ≠ 0 ∧ ¬(left = sl + 16 ∨ (L = 60 ∧ sl + 16 ≤ left)) then .bad
    else
      .go { r with h := { r.h with
        secTag := true, tciAn := tci, sci := if sc then BitVec.ofNat 64 (beAt b (p.pos + 6) 8) else 0 } } .stop

/-- An MPLS label. -/
def parseLabel (b : List Byte) (L : Nat) (p : Ps) : POut :=
  if p.lab = 4 then .deep p
  else
    p.take L p.pos 4 fun r =>
      if L < r.pos + 4 then .bad
      else
        let w := BitVec.ofNat 24 (beAt b p.pos 3)
        let r : Ps := { r with lab := p.lab + 1, h := { r.h with mpls := r.h.mpls ++ [w] } }
        let nib := (byteAt b r.pos).toNat / 16
        .go r (if !bit w 0 then .label else if nib = 4 then .ip4 else if nib = 6 then .ip6 else .stop)

/-- An IPv4 header. -/
def parseIp4 (b : List Byte) (L : Nat) (p : Ps) : POut :=
  let ihl := (byteAt b p.pos).toNat % 16
  p.take L p.pos (4 * max 5 ihl) fun r =>
    let total := beAt b (p.pos + 2) 2
    if (byteAt b p.pos).toNat / 16 ≠ 4 ∨ ihl < 5 ∨ total < 4 * ihl ∨ L - p.pos < total then .bad
    else
      let fo := beAt b (p.pos + 6) 2
      let ofs := fo % 8192
      let more := decide (fo / 8192 % 2 = 1)
      let proto := byteAt b (p.pos + 9)
      let sa := BitVec.ofNat 128 (beAt b (p.pos + 12) 4)
      let da := BitVec.ofNat 128 (beAt b (p.pos + 16) 4)
      let isFrag := decide (ofs ≠ 0) || more
      let key : FragKey := { v6 := false, src := sa, dst := da, ident := BitVec.ofNat 32 (beAt b (p.pos + 4) 2), proto := proto }
      let h := { r.h with
        ipVer := 4, ipSa := sa, ipDa := da, proto := proto, tos := byteAt b (p.pos + 1), flow := 0,
        ttl := byteAt b (p.pos + 8), ipOpt := r.h.ipOpt || decide (5 < ihl)
        frag := if isFrag then some key else r.h.frag
        fragMore := if isFrag then more else r.h.fragMore
        fragFirst := if isFrag then decide (ofs = 0) else r.h.fragFirst }
      .go { r with h := h, v6 := false, ipEnd := p.pos + total } (if ofs ≠ 0 then .stop else .proto proto.toNat)

/-- An IPv6 header. -/
def parseIp6 (b : List Byte) (L : Nat) (p : Ps) : POut :=
  p.take L p.pos 40 fun r =>
    let plen := beAt b (p.pos + 4) 2
    let w := beAt b p.pos 4
    if w / 2 ^ 28 ≠ 6 ∨ L - p.pos < 40 + plen then .bad
    else
      let nh := byteAt b (p.pos + 6)
      let h := { r.h with
        ipVer := 6, ipSa := BitVec.ofNat 128 (beAt b (p.pos + 8) 16), ipDa := BitVec.ofNat 128 (beAt b (p.pos + 24) 16)
        proto := nh, tos := BitVec.ofNat 8 (w / 2 ^ 20), flow := BitVec.ofNat 20 w, ttl := byteAt b (p.pos + 7) }
      .go { r with h := h, v6 := true, ext := 0, fragSeen := false, ipEnd := p.pos + 40 + plen } (.proto nh.toNat)

/-- An IPv6 extension header of type v. -/
def parseExt (b : List Byte) (L : Nat) (p : Ps) (v : Nat) : POut :=
  if p.ext = 2 then .deep p
  else
    p.take L p.pos (if v = 44 then 8 else 8 * ((byteAt b (p.pos + 1)).toNat + 1)) fun r =>
      if p.ipEnd < r.pos ∨ p.fragSeen then .bad
      else
        let nh := byteAt b p.pos
        let fo := beAt b (p.pos + 2) 2
        let later := decide (v = 44 ∧ fo / 8 ≠ 0)
        let isFrag := decide (v = 44) && (later || decide (fo % 2 = 1))
        let key : FragKey :=
          { v6 := true, src := r.h.ipSa, dst := r.h.ipDa, ident := BitVec.ofNat 32 (beAt b (p.pos + 4) 4), proto := nh }
        let h := { r.h with
          ipExt := true, proto := nh
          frag := if isFrag then some key else r.h.frag
          fragMore := if isFrag then decide (fo % 2 = 1) else r.h.fragMore
          fragFirst := if isFrag then !later else r.h.fragFirst }
        .go { r with h := h, ext := p.ext + 1, fragSeen := decide (v = 44) } (if later then .stop else .proto nh.toNat)

/-- A UDP header. -/
def parseUdp (c : PrsCfg) (b : List Byte) (L : Nat) (p : Ps) : POut :=
  p.take L p.pos 8 fun r =>
    let len := beAt b (p.pos + 4) 2
    if len < 8 ∨ p.ipEnd - p.pos < len then .bad
    else
      let dst := beAt b (p.pos + 2) 2
      .go { r with h := { r.h with l4 := true, l4Src := BitVec.ofNat 16 (beAt b p.pos 2), l4Dst := BitVec.ofNat 16 dst } }
        (if c.vxlanEn ∧ dst = c.vxlanPort then .vxlan else if dst = 319 ∨ dst = 320 then .ptp else .stop)

/-- A TCP header. -/
def parseTcp (b : List Byte) (L : Nat) (p : Ps) : POut :=
  let off := (byteAt b (p.pos + 12)).toNat / 16
  p.take L p.pos (4 * max 5 off) fun r =>
    if off < 5 ∨ p.ipEnd < r.pos then .bad
    else
      .go { r with h := { r.h with
        l4 := true, l4Src := BitVec.ofNat 16 (beAt b p.pos 2), l4Dst := BitVec.ofNat 16 (beAt b (p.pos + 2) 2)
        tcpFlags := byteAt b (p.pos + 13) } } .stop

/-- A GRE header. -/
def parseGre (b : List Byte) (L : Nat) (p : Ps) : POut :=
  let w := BitVec.ofNat 16 (beAt b p.pos 2)
  let c := if bit w 15 then 4 else 0
  let k := if bit w 13 then 4 else 0
  p.take L p.pos (4 + c + k + if bit w 12 then 4 else 0) fun r =>
    if fld w 0 3 ≠ 0 ∨ w &&& 0x4FF8#16 ≠ 0 then .bad
    else
      let t := beAt b (p.pos + 2) 2
      .go { r with h := { r.h with
          gre := true, greKey := if k = 0 then r.h.greKey else BitVec.ofNat 32 (beAt b (p.pos + 4 + c) 4) } }
        (if t = 0x6558 then .ether else if t = 0x0800 then .ip4 else if t = 0x86DD then .ip6 else .stop)

/-- A VXLAN header. -/
def parseVxlan (b : List Byte) (L : Nat) (p : Ps) : POut :=
  p.take L p.pos 8 fun r =>
    if !bit (byteAt b p.pos) 3 then .bad
    else .go { r with h := { r.h with vxlan := true, vni := BitVec.ofNat 24 (beAt b (p.pos + 4) 3) } } .ether

/-- An inner Ethernet header. -/
def parseInner (b : List Byte) (L : Nat) (p : Ps) : POut :=
  p.take L p.pos 14 fun r =>
    let v := beAt b (p.pos + 12) 2
    .go { r with vlan := 0, h := { r.h with
      inner := true, inDmac := BitVec.ofNat 48 (beAt b p.pos 6), inEtype := BitVec.ofNat 16 v } } (.etype v)

/-- A PTP header. -/
def parsePtp (b : List Byte) (L : Nat) (p : Ps) : POut :=
  p.take L p.pos 34 fun r =>
    .go { r with h := { r.h with
      ptp := true, ptpType := fld (byteAt b p.pos) 0 4, ptpDomain := byteAt b (p.pos + 4) } } .stop

/-- The header that an EtherType names (R276). -/
def parseEtype (c : PrsCfg) (b : List Byte) (L : Nat) (p : Ps) (v : Nat) : POut :=
  if v = 0x8100 ∨ v = 0x88A8 then parseVlan b L p
  else if v = 0x88E5 then parseSecTag b L p
  else if v = 0x8847 ∨ v = 0x8848 then parseLabel b L p
  else if v = 0x0800 then parseIp4 b L p
  else if v = 0x86DD then parseIp6 b L p
  else if v = 0x88F7 then parsePtp b L p
  else if v = c.trib ∧ p.pos + 2 ≤ L ∧ beAt b p.pos 2 = 0x0100 then
    p.take L (p.pos - 2) 4 fun r => .go { r with h := { r.h with trib := true } } .stop
  else if v = c.bond then p.take L p.pos 48 fun r => .go { r with h := { r.h with bond := true } } .stop
  else .go p .stop

/-- The header that a protocol or next-header value names (R276), and the ICMP field of R281. -/
def parseProto (c : PrsCfg) (b : List Byte) (L : Nat) (p : Ps) (v : Nat) : POut :=
  if p.v6 ∧ (v = 0 ∨ v = 43 ∨ v = 44 ∨ v = 60) then parseExt b L p v
  else if v = 17 then parseUdp c b L p
  else if v = 6 then parseTcp b L p
  else if v = 47 then parseGre b L p
  else if v = (if p.v6 then 58 else 1) ∧ p.pos + 2 ≤ L then
    .go { p with h := { p.h with icmp := BitVec.ofNat 16 (beAt b p.pos 2) } } .stop
  else .go p .stop

/-- One header. -/
def parseStep (c : PrsCfg) (b : List Byte) (L : Nat) (p : Ps) : Nx → POut
  | .ether => parseInner b L p
  | .etype v => parseEtype c b L p v
  | .label => parseLabel b L p
  | .ip4 => parseIp4 b L p
  | .ip6 => parseIp6 b L p
  | .proto v => parseProto c b L p v
  | .vxlan => parseVxlan b L p
  | .ptp => parsePtp b L p
  | .stop => .go p .stop

/-- The parser from a header on: at most 10 headers are parsed (R277), so that the fuel suffices. -/
def parseLoop (c : PrsCfg) (b : List Byte) (L : Nat) : Nat → Ps → Nx → Option Hdr
  | 0, p, _ => some p.h
  | _ + 1, p, .stop => some p.h
  | f + 1, p, nx =>
    match parseStep c b L p nx with
    | .go p' nx' => parseLoop c b L f p' nx'
    | .deep p' => some { p'.h with deep := true }
    | .bad => none

/-- A frame with its FCS is parsed: none where it is malformed (R276 to R279). -/
def parseFrame (c : PrsCfg) (bytes : List Byte) : Option Hdr :=
  let b := bytes.take (bytes.length - 4)
  let L := b.length
  if L < 14 then none
  else
    let v := beAt b 12 2
    parseLoop c b L 12
      { n := 1, pos := 14, h := { dmac := BitVec.ofNat 48 (beAt b 0 6), smac := BitVec.ofNat 48 (beAt b 6 6), etype := BitVec.ofNat 16 v } }
      (.etype v)

/-! ### The key (R281) -/

/-- FLAGS. -/
def Hdr.flags (h : Hdr) : BitVec 16 :=
  let b (i : Nat) (x : Bool) : BitVec 16 := if x then 1#16 <<< i else 0
  b 0 h.deep ||| b 1 h.secTag ||| b 2 h.ptp ||| b 3 (h.ptp && decide (h.ptpType.toNat < 4)) ||| b 4 h.ipOpt ||| b 5 h.ipExt |||
  b 6 (h.frag.isSome && h.fragFirst) ||| b 7 (h.frag.isSome && !h.fragFirst) ||| b 8 h.vxlan ||| b 9 h.gre ||| b 10 h.trib |||
  b 11 h.bond ||| b 12 (!h.mpls.isEmpty) ||| b 13 (h.ipVer != 0) ||| b 14 h.l4 ||| b 15 h.inner

/-- The fields of the catalogue in order, each with its width (R281). -/
def keyFields (lane : Nat) (down rally : Bool) (metaWord xgem : BitVec 16) (h : Hdr) : List (Nat × Nat) :=
  let t (i : Nat) : Nat := ((h.tags)[i]?.getD 0).toNat
  let m (i : Nat) : Nat := ((h.mpls)[i]?.getD 0).toNat
  [(8, lane % 128 + if down then 128 else 0), (1, if rally then 1 else 0), (16, metaWord.toNat), (16, if down then xgem.toNat else 0),
   (16, h.flags.toNat), (48, h.dmac.toNat), (48, h.smac.toNat), (2, h.tags.length), (16, t 0), (16, t 1), (16, t 2),
   (16, h.etype.toNat), (64, h.sci.toNat), (8, h.tciAn.toNat), (24, m 0), (24, m 1), (4, h.ipVer.toNat),
   (128, h.ipSa.toNat), (128, h.ipDa.toNat), (8, h.proto.toNat), (8, h.tos.toNat), (20, h.flow.toNat), (8, h.ttl.toNat),
   (16, h.l4Src.toNat), (16, h.l4Dst.toNat), (8, h.tcpFlags.toNat), (24, h.vni.toNat), (32, h.greKey.toNat),
   (48, h.inDmac.toNat), (16, h.inEtype.toNat), (16, h.ptpType.toNat + 256 * h.ptpDomain.toNat), (16, h.icmp.toNat)]

/-- The width of field f. -/
def keyWidth (f : Nat) : Nat :=
  [8, 1, 16, 16, 16, 48, 48, 2, 16, 16, 16, 16, 64, 8, 24, 24, 4, 128, 128, 8, 8, 20, 8, 16, 16, 8, 24, 32, 48, 16, 16, 16].getD f 0

/-- The opaque sections that run in quadrant q. -/
def State.opaques (s : State) (q : Nat) : List (List Byte) :=
  match vget none s.str.run q with
  | some r => r.opaques
  | none => []

/-- The placement of field f in quadrant q: the image's, given by its opaque sections (R44, R282). -/
def State.keyPlace (s : State) (q f : Nat) : Option Nat :=
  let v := Config.keyPlace (s.opaques q) q f
  if bit v 10 then some (fld v 0 10).toNat else none

/-- The classifier key of 640 bits. -/
def State.classKey (s : State) (q : Nat) (fields : List (Nat × Nat)) : BitVec 640 :=
  (fields.foldl
    (fun (a : BitVec 640 × Nat) x =>
      (match s.keyPlace q a.2 with
       | some st => a.1 ||| (BitVec.ofNat 640 (x.2 % 2 ^ x.1) <<< st)
       | none => a.1, a.2 + 1))
    (0, 0)).1

end Sys2Proof.Machine
end

