-- ==== Sys2Proof/Machine/Classify.lean ====
section
/-!
DEFINITION. Classification (R280, R284 to R297, R301 to R304): first and second passes, fragments, the spread hash (R210), punts and
the sump's registers.
-/
namespace Sys2Proof.Machine

/-! ### Ends of a frame -/

/-- A first fragment that goes to the sump leaves no entry in the fragment table (R294). -/
def State.unrecord (s : State) (f : Frame) : State :=
  match f.hdr.frag with
  | some k => if f.recorded then { s with tbl := { s.tbl with frags := s.tbl.frags.filter fun e => e.key != k } } else s
  | none => s

/-- A frame goes to the sump of a quadrant. -/
def State.dropFrame (s : State) (q cause : Nat) (f : Frame) : State := (s.unrecord f).toSump q cause f.bytes.length

/-- Frames go to the sump of a quadrant. -/
def State.dropFrames (s : State) (q cause : Nat) (fs : List Frame) : State :=
  fs.foldl (fun s f => s.dropFrame q cause f) s

/-- RULE of a punt descriptor (R484). -/
def puntRule (q : Nat) (rule : Option (BitVec 12)) : BitVec 16 :=
  match rule with
  | some r => r.setWidth 16 ||| (BitVec.ofNat 16 q <<< 12)
  | none => 0x8000#16 ||| (BitVec.ofNat 16 q <<< 12)

/-- A frame is punted, or copied, to the host (R300, R484, R485); a PTP event frame with its receive stamp (R286, R430). -/
def State.punt (s : State) (q : Nat) (kind reason : Byte) (rule : Option (BitVec 12)) (f : Frame) : State :=
  { s with hif := { s.hif with puntQ := s.hif.puntQ ++
      [{ kind := kind, reason := reason, lane := f.lane, down := f.down, xgemPort := if f.down then f.xgemPort else 0,
         rule := puntRule q rule, bytes := f.bytes, stamp := if f.ptp then f.stamp else none, quad := q }] } }

/-- The rule of the frame's action. -/
def Frame.rule (f : Frame) : Option (BitVec 12) := f.act.map (·.rule)

/-! ### Spread hash (R210, R297) -/

/-- The bytes of the selected fields, in ascending bit order, cut at 40 (R297). -/
def spreadInput (sel : BitVec 16) (h : Hdr) : List Byte :=
  let swap := bit sel 15 && decide (h.ipDa.toNat < h.ipSa.toNat)
  let ip (a : BitVec 128) : List Byte :=
    if h.ipVer = 4 then beBytes 4 a.toNat else if h.ipVer = 6 then beBytes 16 a.toNat else []
  let sa := if swap then h.ipDa else h.ipSa
  let da := if swap then h.ipSa else h.ipDa
  let sp := if swap then h.l4Dst else h.l4Src
  let dp := if swap then h.l4Src else h.l4Dst
  let fields : List (List Byte) :=
    [ip sa, ip da, [h.proto], beBytes 2 sp.toNat, beBytes 2 dp.toNat, beBytes 3 h.flow.toNat, beBytes 6 h.dmac.toNat,
     beBytes 6 h.smac.toNat, beBytes 2 ((h.tags.headD 0).toNat % 4096), beBytes 2 h.etype.toNat,
     beBytes 3 ((h.mpls.headD 0).toNat / 16), beBytes 3 h.vni.toNat]
  ((fields.zipIdx.filter fun x => bit sel x.2).flatMap (·.1)).take 40

/-- The key of a domain: key bit 0 is bit 31 of word 0 (R210). -/
def Spread.bits (d : Spread) : BitVec 352 :=
  d.key.toList.foldl (fun a w => (a <<< 32) ||| w.setWidth 352) 0

/-- Key bits i to i + 31. -/
def keyWindow (k : BitVec 352) (i : Nat) : W32 := k.extractLsb' (320 - i) 32

/-- The bits of a byte string, most significant first. -/
def bitsOf (bs : List Byte) : List Bool := bs.flatMap fun b => (List.range 8).map fun i => b.getLsbD (7 - i)

/-- The spread hash of a byte string under a key (R210). -/
def spreadHash (k : BitVec 352) (bs : List Byte) : W32 :=
  ((bitsOf bs).zipIdx).foldl (fun h x => if x.1 then h ^^^ keyWindow k x.2 else h) 0

/-- The hash of headers in domain d. -/
def State.hashIn (s : State) (d : Nat) (h : Hdr) : W32 :=
  spreadHash (vget {} s.tbl.spread d).bits (spreadInput (vget 0 s.tbl.fsel d) h)

/-- The indirection entry of domain d that a hash names. -/
def State.spreadEntry (s : State) (d : Nat) (h : W32) : Byte := vget 0 (vget {} s.tbl.spread d).entries (fld h 0 8).toNat

/-! ### Rules (R284) -/

/-- A bank of a quadrant. -/
def Quad.bankOf (x : Quad) (b : Bool) : Tab Rule := if b then x.bank1 else x.bank0
def Quad.setBank (x : Quad) (b : Bool) (t : Tab Rule) : Quad := if b then { x with bank1 := t } else { x with bank0 := t }

/-- A rule matches a key. -/
def Rule.hit (r : Rule) (key : BitVec 640) : Bool :=
  bit (vget 0 r.w 40) 0 &&
  (List.range 20).all fun i => (fld key (32 * i) 32 &&& vget 0 r.w (20 + i)) == (vget 0 r.w i &&& vget 0 r.w (20 + i))

/-- The action of a rule. -/
def Rule.act (r : Rule) (i : Nat) : Act := { w40 := vget 0 r.w 40, w41 := vget 0 r.w 41, w42 := vget 0 r.w 42, rule := BitVec.ofNat 12 i }

/-- The matching rule with the lowest index: its index and action. -/
def Quad.lookup (x : Quad) (b : Bool) (key : BitVec 640) : Option (Nat × Act) :=
  ((x.bankOf b).find? fun e => e.2.hit key).map fun e => (e.1, e.2.act e.1)

/-- The hits of a rule rise (R283). -/
def Quad.countHit (x : Quad) (b : Bool) (i : Nat) : Quad :=
  x.setBank b (Tab.mod {} (x.bankOf b) i fun r => { r with hits := satAdd r.hits 1 })

/-! ### Fragments (R293 to R296) -/

/-- The set of a key. -/
def fragSetOf (k : FragKey) : Nat := Config.fragSet k.v6 k.src k.dst k.ident k.proto % 2048

/-- The table with a decision entered; the flag says that the set was full (R294). -/
def fragPut (t : List FragEntry) (e : FragEntry) : List FragEntry × Bool :=
  let r := t.filter fun x => x.key != e.key
  if r.length < t.length then (r ++ [e], false)
  else if 4 ≤ (t.filter fun x => fragSetOf x.key == fragSetOf e.key).length then (t, true)
  else (t ++ [e], false)

/-- The decision of a first fragment is recorded (R294). -/
def State.fragRecord (s : State) (f : Frame) (d : Decision) : State :=
  match f.hdr.frag with
  | some k =>
    if f.hdr.fragFirst && f.later.isNone then
      let (t, full) := fragPut s.tbl.frags { key := k, dec := d }
      { s with tbl := { s.tbl with frags := t, frgFull := if full then satAdd s.tbl.frgFull 1 else s.tbl.frgFull } }
    else s
  | none => s

/-! ### Passes -/

/-- A frame waits for the cipher cluster, or goes to the sump where the queue is full (R362). -/
def State.toCipher (s : State) (q : Nat) (f : Frame) : State :=
  let c := (vget {} s.quads q).cph
  if 2048 ≤ c.queue.length then
    (s.modQuadN q fun x => { x with cph := { x.cph with cnt := vmod x.cph.cnt 2 (· + 1) } }).dropFrame q 9 f
  else s.modQuadN q fun x => { x with cph := { x.cph with queue := x.cph.queue ++ [f] } }

/-- The feature that a cipher operation needs is in force: MACSEC for 1 and 2, TRIBUTARY for 3 and 4 (R478). -/
def State.cipherFeature (s : State) (op : Nat) : Bool :=
  if op = 1 ∨ op = 2 then s.feature 4 else if op = 3 ∨ op = 4 then s.feature 5 else true

/-- A frame waits for its lookups. -/
def State.toLookup (s : State) (q : Nat) (f : Frame) : State := s.modQuadN q fun x => { x with lookupQ := x.lookupQ ++ [f] }

/-- The decision of a frame that is punted. -/
def puntDecision (f : Frame) (reason : Byte) (terminal : Bool) : Decision :=
  { verdict := 2, reason := reason, terminal := terminal, dest := none, queue := none, tc := 0, policer := none, ptp := f.ptp,
    hash := f.hash }

/-- A PTP event message is marked without a rule (R286). -/
def State.ptpAuto (s : State) (q : Nat) (f : Frame) : Bool := bit (vget {} s.quads q).clsCtl 0 && bit f.hdr.flags 3

/-- The frame's action is carried out up to its lookups: sump, punt, cipher cluster or lookups (R285, R290, R300). -/
def State.actOn (s : State) (q : Nat) (f : Frame) (a : Act) : State :=
  let up := !f.down
  let h := if a.spreadEn && up then s.hashIn a.spread f.hdr else 0
  let f := { f with
    act := some a
    tc := a.tc
    hash := h
    ptp := a.ptpEvent || s.ptpAuto q f
    spreadLane := if a.spreadEn && up then some (s.spreadEntry a.spread h) else none }
  if a.verdict = 1 then s.dropFrame q 5 f
  else if a.verdict = 2 then (s.punt q 0 a.puntReason (some a.rule) f).fragRecord f (puntDecision f a.puntReason false)
  else if !s.cipherFeature a.cipherOp then s.dropFrame q 10 f
  else
    let s := if a.verdict = 3 then s.punt q 1 a.puntReason (some a.rule) f else s
    if a.cipherOp = 1 ∨ a.cipherOp = 4 then s.toCipher q f else s.toLookup q f

/-- A key that matches no rule (R284). -/
def State.missed (s : State) (q : Nat) (f : Frame) : State :=
  let f := { f with ptp := s.ptpAuto q f }
  if bit (vget {} s.quads q).clsCtl 1 then (s.punt q 2 1 none f).fragRecord f (puntDecision f 1 true) else s.dropFrame q 5 f

/-- The classifier: the key of a pass is matched in the frame's bank (R281, R284, R288, R291). -/
def State.classify (s : State) (q : Nat) (f : Frame) (rally : Bool) : State :=
  let m : BitVec 16 := match f.first with | some a => a.metaWord | none => 0
  let key := s.classKey q (keyFields f.lane f.down rally m f.xgemPort f.hdr)
  match (vget {} s.quads q).lookup f.bank key with
  | none => s.missed q f
  | some (i, a) =>
    let s := s.modQuadN q fun x => x.countHit f.bank i
    if rally then
      let w := if a.rally ∨ a.cipherOp = 1 then a.w41 &&& 0x1FFFFFFF#32 else a.w41
      s.actOn q f { a with w40 := a.w40 &&& 0xFFFFFFF7#32, w41 := w }
    else if a.rally ∧ a.cipherOp = 1 then
      if s.feature 4 then s.toCipher q { f with first := some a, act := none } else s.dropFrame q 10 f
    else s.actOn q f a

/-- A parsed frame: a later fragment looks for its decision, any other frame is classified (R295). -/
def State.afterParse (s : State) (q : Nat) (f : Frame) (rally : Bool) : State :=
  match f.hdr.frag with
  | some k =>
    if f.hdr.fragFirst then s.classify q f rally
    else
      match s.tbl.frags.find? fun e => e.key == k with
      | some e =>
        let s : State :=
          if f.hdr.fragMore then s else { s with tbl := { s.tbl with frags := s.tbl.frags.filter fun x => x.key != k } }
        s.toLookup q { f with later := some e.dec, act := none, ptp := e.dec.ptp, tc := e.dec.tc, hash := e.dec.hash }
      | none =>
        let s : State := { s with tbl := { s.tbl with frgEarly := satAdd s.tbl.frgEarly 1 } }
        if bit (vget {} s.quads q).prsCtl 1 then s.dropFrame q 8 f
        else s.classify q { f with hdr := { f.hdr with l4Src := 0, l4Dst := 0, tcpFlags := 0 } } rally
  | none => s.classify q f rally

/-- A pass of a frame: parsed, and punted or dropped where malformed (R280). -/
def State.pass (s : State) (q : Nat) (f : Frame) (rally : Bool) : State :=
  let x : Quad := vget {} s.quads q
  match parseFrame (x.prsCfg (s.feature 13)) f.bytes with
  | none => if bit x.prsCtl 0 then s.punt q 2 2 none f else s.dropFrame q 4 f
  | some h =>
    let s := s.modQuadN q fun x => if h.deep then { x with deepCnt := satAdd x.deepCnt 1 } else x
    s.afterParse q { f with hdr := h } rally

/-- CLASSIFY: the first pass of the oldest waiting frame, in the bank that is active now (R284, R288). -/
def execClassify (q : QuadId) (s : State) : Res :=
  .next (match (s.quad q).parseQ with
    | [] => s
    | f :: rest =>
      let x := s.quad q
      (s.modQuad q fun x => { x with parseQ := rest }).pass q.val
        { f with bank := x.active, epoch := x.epoch, first := none, act := none } false |>.floatsAll)

/-- RALLY_PASS: the second pass of the head of the rally queue, in the bank of its first pass (R290, R291). -/
def execRallyPass (q : QuadId) (s : State) : Res :=
  .next (match (s.quad q).rallyQ with
    | [] => s
    | f :: rest => (s.modQuad q fun x => { x with rallyQ := rest }).pass q.val f true |>.floatsAll)

/-! ### Fragment table and sump commands (R296, R301 to R304) -/

/-- FRAG_TIMEOUT (R296). -/
def execFragTimeout (k : FragKey) (s : State) : Res :=
  .next (if s.tbl.frags.any fun e => e.key == k then
      { s with tbl := { s.tbl with frags := s.tbl.frags.filter fun e => e.key != k, frgTmo := satAdd s.tbl.frgTmo 1 } }
    else s)

/-- FRAG_FLUSH: TBL_FRG_CTL.FLUSH (R304). -/
def State.fragFlush (s : State) : State := { s with tbl := { s.tbl with frags := [] } }
def execFragFlush (p : Port) (s : State) : Res := .next (s.writeIsl p (base 10 + 0xE000) State.fragFlush)

/-- The sump counters of the quadrants in a mask are cleared (R301). -/
def State.sumpClr (s : State) (mask : BitVec 4) : State :=
  { s with sys := { s.sys with sump := s.sys.sump.filter fun e => !bit mask (e.1 / 32) } }

/-- SUMP_CLR: SYS_SUMP_CTL.CLR (R301). -/
def execSumpClr (p : Port) (mask : BitVec 4) (s : State) : Res :=
  .next (s.writeIsl p 0xC008 fun s => s.sumpClr mask)

/-- A read of SYS_SUMP_DATA (R304). -/
def State.sumpRead (s : State) (p : Port) : W32 × State :=
  let item := (fld s.sys.sumpAddr 0 10).toNat
  let c := item % 256 / 4
  let v : W64 × W64 := if c < 22 then Tab.get (0, 0) s.sys.sump (32 * (item / 256) + c) else (0, 0)
  let (w, s) := s.readPair p 0xC004 (if item % 4 < 2 then v.1 else v.2) (item % 2 == 1)
  (w, if bit s.sys.sumpAddr 12 then
        { s with sys := { s.sys with sumpAddr := putFld s.sys.sumpAddr 0 (BitVec.ofNat 10 (item + 1)) } }
      else s)

/-- SUMP_DATA_READ (R301, R304). -/
def execSumpDataRead (p : Port) (s : State) : Res := .next (s.readIsl p 0xC004 fun s => s.sumpRead p)

/-- PRS_DEEP_CNT_READ (R302). -/
def State.deepRead (s : State) (q : Nat) : W32 × State :=
  ((vget {} s.quads q).deepCnt, s.modQuadN q fun x => { x with deepCnt := 0 })
def execPrsDeepCntRead (p : Port) (q : QuadId) (s : State) : Res :=
  .next (s.readIsl p (quadBase q + 0x008) fun s => s.deepRead q)

/-- PRS_SKIP_CNT_READ (R302). -/
def State.skipRead (s : State) (q : Nat) : W32 × State :=
  ((vget {} s.quads q).skipCnt, s.modQuadN q fun x => { x with skipCnt := 0 })
def execPrsSkipCntRead (p : Port) (q : QuadId) (s : State) : Res :=
  .next (s.readIsl p (quadBase q + 0x00C) fun s => s.skipRead q)

/-- RLY_STATUS_READ (R303). -/
def State.rallyRead (s : State) (q : Nat) : W32 × State :=
  let x : Quad := vget {} s.quads q
  (atN 0 11 x.rallyQ.length ||| at' 16 x.rallyFull, s.modQuadN q fun x => { x with rallyFull := 0 })
def execRlyStatusRead (p : Port) (q : QuadId) (s : State) : Res :=
  .next (s.readIsl p (quadBase q + 0x4000) fun s => s.rallyRead q)

/-- A read of TBL_FRG_FULL_CNT, TBL_FRG_EARLY_CNT or TBL_FRG_TMO_CNT (R302). -/
def State.frgRead (s : State) (i : Nat) : W32 × State :=
  if i = 0 then (s.tbl.frgFull, { s with tbl := { s.tbl with frgFull := 0 } })
  else if i = 1 then (s.tbl.frgEarly, { s with tbl := { s.tbl with frgEarly := 0 } })
  else (s.tbl.frgTmo, { s with tbl := { s.tbl with frgTmo := 0 } })

/-- FRG_CNT_READ (R302). -/
def execFrgCntRead (p : Port) (which : Fin 3) (s : State) : Res :=
  .next (s.readIsl p (base 10 + 0xE008 + 4 * which.val) fun s => s.frgRead which.val)

end Sys2Proof.Machine
end

