-- ==== Sys2Proof/Machine/RingOps.lean ====
section
/-!
DEFINITION. DMA rings (R479 to R483): sizes, phase bits, entries written to the host and the interrupts of a ring.
-/
namespace Sys2Proof.Machine

/-- Ring r. -/
def State.ring (s : State) (r : Nat) : Ring := vget {} s.hif.rings r

/-- The state with ring r changed by f. -/
def State.modRing (s : State) (r : Nat) (f : Ring → Ring) : State :=
  { s with hif := { s.hif with rings := vmod s.hif.rings r f } }

/-- 2^LOG2SIZE entries: below 6 acts as 6, above 16 as 16 (R481). -/
def Ring.size (x : Ring) : Nat := 2 ^ min 16 (max 6 (fld x.ctl 1 5).toNat)

/-- EN. -/
def Ring.en (x : Ring) : Bool := bit x.ctl 0

/-- The index of an entry within the ring. -/
def Ring.slot (x : Ring) (i : W32) : Nat := i.toNat % x.size

/-- PH of an entry written at the device index (R480). -/
def Ring.ph (x : Ring) : Bool := decide (x.devIdx.toNat / x.size % 2 = 0)

/-- Entries that the host has produced and the terminal has not used: rings 0, 1 and 3. -/
def Ring.posted (x : Ring) : Nat := (x.hostIdx - x.devIdx).toNat

/-- Entries that the terminal may write before the host consumes one: rings 2 and 4. -/
def Ring.room (x : Ring) : Nat := x.size - (x.devIdx - x.hostIdx).toNat

/-- COAL_CNT, 0 acting as 1. -/
def Ring.coalCnt (x : Ring) : Nat := max 1 (fld x.ctl 16 8).toNat

/-- The ring's interrupt (R481). -/
def State.ringInt (s : State) (r : Nat) : State :=
  let x := s.ring r
  let s := s.modRing r fun x => { x with unsig := 0 }
  if bit x.ctl 14 then s.msixSend (fld x.ctl 8 6).toNat else s

/-- n entries have been written, consumed, written back or fetched: the device index rises, and the interrupt is sent when
COAL_CNT entries have gone since the last one (R480, R481). -/
def State.ringAdvance (s : State) (r n : Nat) : State :=
  let s := s.modRing r fun x => { x with devIdx := x.devIdx + BitVec.ofNat 32 n, unsig := x.unsig + n }
  if (s.ring r).coalCnt ≤ (s.ring r).unsig then s.ringInt r else s

/-- Bytes are written at offset off of the entry of index i of ring r. -/
def State.ringPut (s : State) (r : RingId) (i : W32) (off : Nat) (bytes : List Byte) : State := s.emit (.ringWrite r i off bytes)

/-- An entry or a frame is lost on ring r (R481). -/
def State.ringDrop (s : State) (r : Nat) : State := s.modRing r fun x => { x with drops := satAdd x.drops 1 }

/-- A lookaside completion is written to ring 4 (R490). -/
def State.laComplete (s : State) (cookie : W32) (status : BitVec 3) : State :=
  let x := s.ring 4
  let ph : Byte := if x.ph then 1 else 0
  (s.ringPut 4 x.devIdx 0 (leBytes 4 cookie.toNat ++ [status.setWidth 8, ph] ++ zeros 10)).ringAdvance 4 1

end Sys2Proof.Machine
end

