-- ==== Sys2Proof/Machine/CipherOps.lean ====
section
/-!
DEFINITION. The cipher cluster's shared operations (R357 to R378, R399 to R405): associations, the two protected formats, key
requests, slots under substitution, and the release of jobs in context order.
-/
namespace Sys2Proof.Machine

/-! ### Associations and tributary entries (R388, R389) -/

def State.assoc (s : State) (i : Nat) : Assoc := Tab.get {} s.key.assoc i
def State.modAssoc (s : State) (i : Nat) (f : Assoc → Assoc) : State :=
  { s with key := { s.key with assoc := Tab.mod {} s.key.assoc i f } }
def State.tribCtx (s : State) (i : Nat) : TribCtx := Tab.get {} s.key.trib i
def State.modTrib (s : State) (i : Nat) (f : TribCtx → TribCtx) : State :=
  { s with key := { s.key with trib := Tab.mod {} s.key.trib i f } }

def Assoc.w0 (a : Assoc) : W32 := vget 0 a.w 0
def Assoc.valid (a : Assoc) : Bool := bit a.w0 0
def Assoc.egress (a : Assoc) : Bool := bit a.w0 1
def Assoc.xpn (a : Assoc) : Bool := bit a.w0 3
def Assoc.bits256 (a : Assoc) : Bool := bit a.w0 2
def Assoc.an (a : Assoc) : BitVec 2 := fld a.w0 4 2
def Assoc.offset (a : Assoc) : Nat :=
  let o := fld a.w0 6 2
  if o = 1 then 30 else if o = 2 then 50 else 0
def Assoc.sc (a : Assoc) : Bool := bit a.w0 8
def Assoc.es (a : Assoc) : Bool := bit a.w0 9
def Assoc.replay (a : Assoc) : Bool := bit a.w0 10
def Assoc.linkEn (a : Assoc) : Bool := bit a.w0 11
def Assoc.link (a : Assoc) : Nat := (fld a.w0 12 13).toNat
def Assoc.conf (a : Assoc) : Bool := bit a.w0 25
def Assoc.sci (a : Assoc) : W64 := vget 0 a.w 2 ++ vget 0 a.w 1
def Assoc.ssci (a : Assoc) : W32 := vget 0 a.w 3
def Assoc.salt (a : Assoc) : BitVec 96 := vget 0 a.w 6 ++ vget 0 a.w 5 ++ vget 0 a.w 4
def Assoc.pn (a : Assoc) : W64 := vget 0 a.w 12 ++ vget 0 a.w 11
def Assoc.pnTh (a : Assoc) : W64 := vget 0 a.w 15 ++ vget 0 a.w 14
def Assoc.setPn (a : Assoc) (v : W64) : Assoc := { a with w := (vset (vset a.w 11 (fld v 0 32)) 12 (fld v 32 32)) }
def Assoc.count (a : Assoc) (c n : Nat) : Assoc := { a with cnt := vmod a.cnt c (· + BitVec.ofNat 64 n) }

def TribCtx.w0 (t : TribCtx) : W32 := vget 0 t.w 0
def TribCtx.valid (t : TribCtx) : Bool := bit t.w0 0
def TribCtx.open_ (t : TribCtx) : Bool := bit t.w0 1
def TribCtx.ctxId (t : TribCtx) : W32 := vget 0 t.w 1
def TribCtx.epoch (t : TribCtx) : W32 := vget 0 t.w 3
def TribCtx.accepts (t : TribCtx) (e : W32) : Bool := e == t.epoch || (bit t.w0 6 && e == vget 0 t.w 4)
def TribCtx.count (t : TribCtx) (c : Nat) : TribCtx := { t with cnt := vmod t.cnt c (· + 1) }

/-- The association that an egress frame uses (R368). -/
def State.egressAssoc (s : State) (ctx : Nat) : Option Nat :=
  let i := if (s.assoc ctx).linkEn then (s.assoc ctx).link else ctx
  if (s.assoc i).valid && (s.assoc i).egress then some i else none

/-- The association that an ingress frame with a SecTAG of association number an uses (R368). -/
def State.ingressAssoc (s : State) (ctx : Nat) (an : BitVec 2) : Option Nat :=
  let a := s.assoc ctx
  if !(a.valid && !a.egress) then none
  else if a.an = an then some ctx
  else
    let b := s.assoc a.link
    if a.linkEn && b.an == an && b.valid && !b.egress then some a.link else none

/-- The VALID tributary entry of a context and direction (R373, R375). -/
def State.tribFind (s : State) (open_ : Bool) (ctx : W32) : Option (Nat × TribCtx) :=
  s.key.trib.find? fun e => e.2.valid && e.2.open_ == open_ && e.2.ctxId == ctx

/-- The bytes by which egress protection makes a frame longer (R369). -/
def Assoc.growth (a : Assoc) : Nat := if a.sc then 32 else 24

/-! ### Formats (R369, R370, R372; notes/assumptions/4.md) -/

/-- A frame without its FCS, and with an FCS computed. -/
def dropFcs (b : List Byte) : List Byte := b.take (b.length - 4)
def addFcs (b : List Byte) : List Byte := b ++ leBytes 4 (crc32 b).toNat

/-- The IV of a frame with a packet number. -/
def Assoc.iv (a : Assoc) (pn : W64) : List Byte :=
  if a.xpn then beBytes 12 (a.salt ^^^ ((a.ssci ++ pn : BitVec 96))).toNat
  else beBytes 8 a.sci.toNat ++ beBytes 4 (pn.toNat % 2 ^ 32)

/-- The SecTAG of an egress frame whose user data has n bytes. -/
def Assoc.secTag (a : Assoc) (pn : W64) (n : Nat) : List Byte :=
  let tci : Byte :=
    (if a.es then 0x40 else 0) ||| (if a.sc then 0x20 else 0) ||| (if a.conf then 0x0C else 0) ||| a.an.setWidth 8
  [0x88#8, 0xE5#8, tci, BitVec.ofNat 8 (if n < 48 then n else 0)] ++ beBytes 4 (pn.toNat % 2 ^ 32) ++
    (if a.sc then beBytes 8 a.sci.toNat else [])

/-- The protected frame (R369). -/
def macsecSeal (key : List Byte) (a : Assoc) (pn : W64) (bytes : List Byte) : List Byte :=
  let b := dropFcs bytes
  let user := b.drop 12
  let off := if a.conf then a.offset else user.length
  let clear := b.take 12 ++ a.secTag pn user.length ++ user.take off
  let (ct, tag) := gcmSeal key (a.iv pn) clear (user.drop off)
  addFcs (clear ++ ct ++ tag)

/-- Where the outer SecTAG of a frame stands. -/
def Hdr.secTagAt (h : Hdr) : Option Nat := if h.secTag ∧ h.etype = 0x88E5#16 then some (12 + 4 * h.tags.length) else none

/-- The length of the SecTAG of a frame. -/
def Hdr.secTagLen (h : Hdr) : Nat := if bit h.tciAn 5 then 16 else 8

/-- The protected part of a frame: user data before the ICV, by the short length where it is not 0. -/
def secData (b : List Byte) (at' len : Nat) : Nat :=
  let sl := (fld (byteAt b (at' + 3)) 0 6).toNat
  if sl = 0 then b.length - (at' + len) - 16 else sl

/-- The frame's full packet number, recovered from the association's lowest accepted one where it is extended. -/
def Assoc.recover (a : Assoc) (low : W32) : W64 :=
  if a.xpn then
    let hi := fld a.pn 32 32
    (if bit (fld a.pn 0 32 : W32) 31 && !bit low 31 then hi + 1 else hi) ++ low
  else low.setWidth 64

/-- The frame with SecTAG and ICV removed, where its ICV passes (R370). -/
def macsecOpen (key : List Byte) (a : Assoc) (pn : W64) (bytes : List Byte) (at' len : Nat) (encrypted : Bool) :
    Option (List Byte) :=
  let b := dropFcs bytes
  let n := secData b at' len
  let head := at' + len
  if b.length < head + 16 then none
  else
    let user := bytesAt b head n
    let off := if encrypted then a.offset else n
    match gcmOpen key (a.iv pn) (b.take head ++ user.take off) (user.drop off) (bytesAt b (head + n) 16) with
    | some plain => some (addFcs (b.take at' ++ user.take off ++ plain))
    | none => none

/-- Where the sealed block of a tributary frame stands (R261). -/
def Hdr.blockAt (h : Hdr) : Nat := 16 + 4 * h.tags.length

/-- A frame with its block replaced. -/
def setBlock (bytes : List Byte) (at' : Nat) (block : List Byte) : List Byte :=
  addFcs (bytes.take at' ++ block ++ (dropFcs bytes).drop (at' + 8224))

/-- The sealed block of a plaintext (R372). -/
def sealBlock (key : List Byte) (ctx epoch : W32) (counter : W64) (plain : List Byte) : List Byte :=
  let hdr := beBytes 4 ctx.toNat ++ beBytes 4 epoch.toNat ++ beBytes 8 counter.toNat
  let (ct, tag) := gcmSeal key (beBytes 4 epoch.toNat ++ beBytes 8 counter.toNat) hdr plain
  hdr ++ ct ++ tag

/-- The opened block, its plaintext in place of the ciphertext, where its tag passes (R372, R375). -/
def openBlock (key : List Byte) (block : List Byte) : Option (List Byte) :=
  match gcmOpen key (bytesAt block 4 12) (block.take 16) (bytesAt block 16 8192) (bytesAt block 8208 16) with
  | some plain => some (block.take 16 ++ plain ++ block.drop 8208)
  | none => none

/-! ### Costs (R357, R358) -/

/-- Blocks of a GCM job over n confidential bytes. -/
def gcmBlocks (n : Nat) : Nat := 1 + (n + 15) / 16

/-- The mean cost of a job on a core of density d, in half clocks. -/
def jobCost (bits256 : Bool) (d : BitVec 3) (blocks : Nat) : Nat := 4 + blocks * ((if bits256 then 14 else 10) + min 4 d.toNat)

/-- Fewest and most feint pairs of a block at a density; 5 to 7 act as 4 (R358). -/
def feintPairs (d : BitVec 3) : Nat × Nat :=
  match d.toNat with
  | 0 => (0, 0)
  | 1 => (0, 1)
  | 2 => (0, 2)
  | 3 => (1, 2)
  | _ => (2, 2)

/-- The clocks of a job on a core: 2, the rounds of its blocks, one for each feint pair drawn for them, and 40 where the core
loads the key (R357, R358, R360). The draws of all its blocks together are a free number in their range. -/
def State.jobClocks (s : State) (bits256 held : Bool) (d : BitVec 3) (blocks : Nat) : Nat :=
  let r := feintPairs d
  2 + blocks * ((if bits256 then 7 else 5) + r.1) + (s.freeBits 32).toNat % (blocks * (r.2 - r.1) + 1) + (if held then 0 else 40)

/-! ### Slots and substitution (R362, R366, R367) -/

/-- The quadrant that core k serves (R41). -/
def State.assignedTo (s : State) (k : Nat) : Nat := (vget 0 s.str.cores k).toNat % 4

/-- The core is lent (R30). -/
def State.isLent (s : State) (k : Nat) : Bool := s.assignedTo k != k / 18

/-- The core is idle: its quadrant has no lane of role 1 to 4 (R366). -/
def State.isIdle (s : State) (k : Nat) : Bool :=
  s.str.common.isSome && (List.range 24).all fun i => s.role (24 * s.assignedTo k + i) == 0 || 4 < s.role (24 * s.assignedTo k + i)

/-- A core by number. -/
def State.coreN (s : State) (k : Nat) : Core := vget {} s.cores k

/-- The core can run jobs. -/
def State.coreRuns (s : State) (k : Nat) : Bool := decide ((s.coreN k).state = .inService) && s.isOn (dCores (k / 18))

/-- The conditions of substitution hold for core k (R366). -/
def State.wantsSubst (s : State) (k : Nat) : Bool :=
  s.str.common.isSome && !s.isIdle k && (!s.coreRuns k || (s.isLent k && s.isDark (k / 18)))

/-- Jobs that a port holds for core k and that have not returned. -/
def Quad.jobsOf (x : Quad) (k : Nat) (onFallback : Bool) : List Job :=
  x.cph.rob.filter fun j => j.core == k && j.onFallback == onFallback && j.fin.isNone

/-- The fallback pipeline still holds jobs of slot k. -/
def State.fallbackHolds (s : State) (k : Nat) : Bool := s.quads.toList.any fun x => !(x.jobsOf k true).isEmpty

/-- The jobs of core k are reissued on the fallback pipeline (R367). -/
def State.reissue (s : State) (k : Nat) : State :=
  let n (x : Quad) : Nat := (x.jobsOf k false).length
  let total := (s.quads.toList.map n).foldl (· + ·) 0
  let g (x : Quad) : Quad :=
    { x with cph := { x.cph with
        rob := x.cph.rob.map fun j => if j.core == k && !j.onFallback && j.fin.isNone then { j with onFallback := true } else j
        cnt := vmod x.cph.cnt 7 (· + BitVec.ofNat 64 (n x)) } }
  { s with quads := s.quads.map g, fbk := { s.fbk with cnt := vmod s.fbk.cnt 1 (· + BitVec.ofNat 64 total) } }

/-- A slot becomes substituted, or is removed where the pipeline serves 8 already or is out of service, with event 995 (R366). -/
def State.substitute (s : State) (k : Nat) : State :=
  if s.fbk.inService && decide (s.fbk.subst.length < 8) then
    (({ s with fbk := { s.fbk with subst := s.fbk.subst ++ [k], removed := s.fbk.removed.filter (· != k) } } : State)).reissue k
  else if s.fbk.removed.contains k then s
  else ({ s with fbk := { s.fbk with removed := s.fbk.removed ++ [k] } } : State).report 995 3 (leBytes 2 k)

/-- Substitution is settled after a change: slots that no longer want it leave, removed slots take free places in order of removal,
and new slots follow (R366, R367). -/
def State.resubst (s : State) : State :=
  let keep := s.fbk.subst.filter fun k => s.wantsSubst k || s.fallbackHolds k
  let s : State := { s with fbk := { s.fbk with subst := keep, removed := s.fbk.removed.filter s.wantsSubst } }
  -- with the pipeline out of service every substituted slot is removed
  let lost := if s.fbk.inService then [] else s.fbk.subst
  let s : State := if s.fbk.inService then s else { s with fbk := { s.fbk with subst := [] } }
  let s := lost.foldl State.substitute s
  let s := s.fbk.removed.foldl (fun s k => if s.fbk.inService then s.substitute k else s) s
  let new := (List.range 72).filter fun k => s.wantsSubst k && !s.fbk.subst.contains k && !s.fbk.removed.contains k
  new.foldl State.substitute s

/-! ### Integrity faults and known-answer tests of a core (R380, R381) -/

/-- Core k is quarantined with a cause; an idle core raises no event (R366, R381). -/
def State.coreFault (s : State) (k : Nat) (cause : BitVec 3) : State :=
  let idle := s.isIdle k
  let s := s.modCoreN k fun c => { c with state := .quarantined, fault := true, cause := cause, katDue := none, katWait := false }
  (s.reportIf (!idle) (768 + 2 * k) 3 [cause.setWidth 8]).resubst

/-- A known-answer test runs on core k. -/
def State.katRun (s : State) (k : Nat) (pass : Bool) : State :=
  let s := s.modCoreN k fun c => { c with katDue := none, katWait := false }
  if pass then s else s.coreFault k 1

/-- A test that is due runs once core k of port q holds no job (R380). -/
def State.katIfEmpty (s : State) (q k : Nat) : State :=
  match (s.coreN k).katDue with
  | some pass => if ((vget {} s.quads q).jobsOf k false).isEmpty then s.katRun k pass else s
  | none => s

/-- A quarantined core returns to service; the condition of its event ends (R382). -/
def State.coreReturn (s : State) (k : Nat) : State :=
  ((s.modCoreN k fun c => { c with state := .inService, cause := 0 }).endCond (768 + 2 * k)).resubst

/-! ### Key requests (R399 to R402) -/

/-- Counter c of the key island raised by n (R423). -/
def State.keyCnt (s : State) (c n : Nat) : State :=
  { s with key := { s.key with cnt := vmod s.key.cnt c (· + BitVec.ofNat 64 n) } }

/-- A cache entry is used. -/
def State.cacheTouch (s : State) (e : CacheEntry) : State :=
  { s with key := { s.key with cache := e :: s.key.cache.filter fun x => x.name != e.name } }

/-- A dispatched or fetched job refers to a name: its cache entry is pinned (R400). -/
def State.pinned (s : State) (n : KeyName) : Bool :=
  (s.quads.toList.any fun x => x.cph.rob.any fun j => !j.bad && j.name == n) || s.fbk.la.any fun j => j.name == some n

/-- The least recently used entry that is not pinned gives way. -/
def dropUnpinned (p : KeyName → Bool) : List CacheEntry → Option (List CacheEntry)
  | [] => none
  | e :: t =>
    match dropUnpinned p t with
    | some t' => some (e :: t')
    | none => if p e.name then none else some t

/-- A derived key enters the cache; false where every entry is pinned (R400). -/
def State.cacheEnter (s : State) (e : CacheEntry) : State × Bool :=
  if s.key.cache.length < 16384 then (s.cacheTouch e, true)
  else
    match dropUnpinned s.pinned s.key.cache with
    | some l => ({ s with key := { s.key with cache := e :: l } }, true)
    | none => (s, false)

/-- What a request for a key is answered. -/
inductive KeyAnswer where
  | got (key : List Byte)
  | refused
  | waits

/-- A request for a key: from the cache, queued for derivation, or refused (R392, R400, R401). -/
def State.askKey (s : State) (n : KeyName) : KeyAnswer × State :=
  if s.zeroised then (.refused, s.keyCnt 3 1)
  else
    match s.key.cache.find? fun e => e.name == n with
    | some e => (.got e.key, (s.cacheTouch e).keyCnt 1 1)
    | none =>
      let s := s.keyCnt 2 1
      if s.keyAvailable n then
        (.waits, if s.key.demand.contains n then s
                 else { s with key := { s.key with demand := s.key.demand ++ [n], prefetch := s.key.prefetch.filter (· != n) } })
      else (.refused, (s.keyCnt 4 1).keyCnt 3 1)

/-- A core takes a copy of a key: counted by the port, with the least recently used of 8 giving way (R360). -/
def State.loadCopy (s : State) (q k : Nat) (e : CacheEntry) : State :=
  (s.modCoreN k fun c => { c with keys := (e :: c.keys.filter fun x => x.name != e.name).take 8 }).modQuadN q fun x =>
    { x with cph := { x.cph with cnt := vmod x.cph.cnt 8 (· + 1) } }

/-- A request for a key by a job on core k of port q, from the core's copies first. -/
def State.askFor (s : State) (q k : Nat) (onFallback : Bool) (n : KeyName) : KeyAnswer × State :=
  if onFallback then s.askKey n
  else
    match (s.coreN k).keys.find? fun e => e.name == n with
    | some e =>
      if s.zeroised then s.askKey n
      else (.got e.key, s.modCoreN k fun c => { c with keys := e :: c.keys.filter fun x => x.name != n })
    | none =>
      match s.askKey n with
      | (.got key, s) => (.got key, s.loadCopy q k { name := n, key := key })
      | r => r

/-! ### Release (R363, R364, R378) -/

/-- The context of a job within its port. -/
def Job.context (j : Job) : Nat :=
  match j.kind with
  | .ingress | .egress => j.ctx
  | .seal | .open_ => 8192 + j.ctx

/-- Jobs that may be released, in order, and those that stay: a job waits for every earlier job of its context (R363). -/
def splitRob : List Job → List Nat → List Job × List Job
  | [], _ => ([], [])
  | j :: t, blocked =>
    if j.fin.isSome && !blocked.contains j.context then
      let (a, b) := splitRob t blocked
      (j :: a, b)
    else
      let (a, b) := splitRob t (j.context :: blocked)
      (a, j :: b)

/-- Counter c of a dispatch port raised by 1 (R383). -/
def State.portCnt (s : State) (q c : Nat) : State :=
  s.modQuadN q fun x => { x with cph := { x.cph with cnt := vmod x.cph.cnt c (· + 1) } }

/-- A released frame of a MACsec ingress job enters the rally queue, or goes to its lookups (R290, R292). -/
def State.afterIngress (s : State) (q : Nat) (f : Frame) : State :=
  if f.first.isSome && f.act.isNone then
    let x : Quad := vget {} s.quads q
    if 1024 ≤ x.rallyQ.length then
      (s.modQuadN q fun x => { x with rallyFull := satAdd x.rallyFull 1 }).dropFrame q 6 f
    else s.modQuadN q fun x => { x with rallyQ := x.rallyQ ++ [f] }
  else s.toLookup q f

/-- A frame is ready for its queue. -/
def State.toEnqueue (s : State) (q : Nat) (f : Frame) : State := s.modQuadN q fun x => { x with enqueueQ := x.enqueueQ ++ [f] }

/-- An opened block: passed, or zeroed and marked failed (R378). -/
def State.deliverBlock (s : State) (q : Nat) (f : Frame) (ok : Bool) : State :=
  let a := f.hdr.blockAt
  let f := if ok then f
    else { f with bytes := setBlock f.bytes a (padTo 16 (bytesAt f.bytes a 16) ++ zeros 8192 ++ padTo 16 (bytesAt f.bytes (a + 8208) 16)) }
  s.toLookup q { f with opened := some ok }

/-- An ingress frame that passed its ICV: the replay test under the job's own copy of REPLAY and its window, and the association's
packet number, in release order (R370, R371). -/
def State.releaseIngress (s : State) (q : Nat) (j : Job) (out : List Byte) : State :=
  let a := s.assoc j.ctx
  if j.assoc.replay && decide (j.pn.toNat + (vget 0 j.assoc.w 13).toNat < a.pn.toNat) then
    ((s.modAssoc j.ctx (·.count 3 1)).portCnt q 5).dropFrame q 10 j.frame
  else
    let pn := if a.pn.toNat < j.pn.toNat + 1 then j.pn + 1 else a.pn
    (s.modAssoc j.ctx fun a => ((a.setPn pn).count 0 1).count 1 (out.length - 16)).afterIngress q { j.frame with bytes := out }

/-- A failure of an open job that has no output is counted by its unit (R378, R384, R386). -/
def State.unitFail (s : State) (j : Job) : State :=
  if j.onFallback then { s with fbk := { s.fbk with afWin := s.fbk.afWin + 1 } }
  else s.modCoreN j.core fun c => { c with af := satAdd c.af 1, afWin := c.afWin + 1 }

/-- A job is released (R363, R364, R370, R375, R378, R401). -/
def State.releaseJob (s : State) (q : Nat) (j : Job) : State :=
  if j.lost then s.dropFrame q 16 j.frame
  else if j.frame.retired then s.dropFrame q 7 j.frame
  else
    match j.kind, j.fin with
    | _, none => s
    | .ingress, some (.done out) => s.releaseIngress q j out
    | .ingress, some .authFail =>
      ((s.modAssoc j.ctx (·.count 2 1)).portCnt q 3).dropFrame q 10 j.frame
    | .ingress, some _ => s.dropFrame q 10 j.frame
    | .egress, some (.done out) =>
      (s.modAssoc j.ctx fun a => (a.count 0 1).count 1 (j.frame.bytes.length - 16)).toEnqueue q
        { j.frame with bytes := out, ciphered := true }
    | .egress, some _ => s.dropFrame q 10 j.frame
    | .seal, some (.done out) =>
      (s.modTrib j.ctx (·.count 0)).toEnqueue q { j.frame with bytes := out, ciphered := true }
    | .seal, some .noKey => (s.modTrib j.ctx (·.count 3)).portCnt q 11
    | .seal, some _ => s
    | .open_, some (.done out) =>
      (s.modTrib j.ctx fun t => { t.count 0 with counter := j.counter }).deliverBlock q { j.frame with bytes := out } true
    | .open_, some .epochBad =>
      ((s.modTrib j.ctx fun t => if j.ctx < 1024 then (t.count 1).count 2 else t).portCnt q 3).deliverBlock q j.frame false
    | .open_, some .authFail => ((s.modTrib j.ctx (·.count 1)).portCnt q 3).deliverBlock q j.frame false
    | .open_, some _ => (((s.unitFail j).modTrib j.ctx (·.count 1)).portCnt q 3).deliverBlock q j.frame false

/-- Every job of port q that may be released is released. -/
def State.release (s : State) (q : Nat) : State :=
  let (out, keep) := splitRob (vget {} s.quads q).cph.rob []
  let s := s.modQuadN q fun x => { x with cph := { x.cph with rob := keep } }
  (out.foldl (fun s j => s.releaseJob q j) s).floatsAll

/-- Every port releases what it may. -/
def State.releaseAll (s : State) : State := (List.range 4).foldl State.release s

/-! ### Abandonment (R378, R403 to R405, R407) -/

/-- Jobs whose key name satisfies p, not yet released, are abandoned: counted by their port and by the key island, and released
(R405). Copies, cache entries and waiting derivations of such names are wiped (R404). -/
def State.abandon (s : State) (p : KeyName → Bool) : State :=
  let uses (j : Job) : Bool := !j.bad && p j.name
  let n (x : Quad) : Nat := (x.cph.rob.filter uses).length
  let la (j : LaJob) : Bool := match j.name with | some k => p k | none => false
  let total := (s.quads.toList.map n).foldl (· + ·) 0 + (s.fbk.la.filter la).length
  let g (x : Quad) : Quad :=
    { x with cph := { x.cph with
        rob := x.cph.rob.map fun j => if uses j then { j with fin := if j.fin = some .authFail then j.fin else some .erased, key := none } else j
        cnt := vmod x.cph.cnt 9 (· + BitVec.ofNat 64 (n x)) } }
  let s : State := { s with
    quads := s.quads.map g
    cores := s.cores.map fun c => { c with keys := c.keys.filter fun e => !p e.name }
    fbk := { s.fbk with la := s.fbk.la.map fun j => if la j then { j with status := some 3, key := none } else j }
    key := { s.key with
      cache := s.key.cache.filter fun e => !p e.name
      demand := s.key.demand.filter fun k => !p k
      prefetch := s.key.prefetch.filter fun k => !p k } }
  (s.keyCnt 5 total).releaseAll

end Sys2Proof.Machine
end

