-- ==== Sys2Proof/Machine/Cipher.lean ====
section
/-!
DEFINITION. Dispatch and return of cipher jobs (R361 to R375) and lookaside jobs (R376, R377, R490).
-/
namespace Sys2Proof.Machine

/-! ### What a frame asks of the cluster -/

/-- CIPHER_OP of a frame in the cipher queue: the first pass's while its rally is to come (R291). -/
def Frame.cipherOp (f : Frame) : Nat :=
  match f.act with
  | some a => a.cipherOp
  | none => match f.first with | some a => a.cipherOp | none => 0

/-- CTX of the frame's action. -/
def Frame.ctx (f : Frame) : Nat :=
  match f.act with
  | some a => a.ctx
  | none => match f.first with | some a => a.ctx | none => 0

/-- The job of a frame, before it has a slot. -/
structure Plan where
  kind : JobKind
  ctx : Nat
  name : KeyName
  assoc : Assoc := {}
  pn : W64 := 0
  epoch : W32 := 0
  counter : W64 := 0
  blocks : Nat
  /-- The block has no entry, or an epoch that is not accepted: its authentication fails (R375). -/
  bad : Bool := false

/-- Why a frame makes no job. -/
inductive NoJob where
  /-- No usable association; the association named (R368). -/
  | noSa (ctx : Nat)
  /-- The association's packet numbers are exhausted (R369). -/
  | exhausted (ctx : Nat)
  /-- No VALID seal entry, or one that seals no further block (R373, R374). -/
  | notSealed (entry : Option Nat)

/-- The key name of an association (R371). -/
def State.assocName (s : State) (a : Assoc) : KeyName :=
  s.keyName (fld (vget 0 a.w 7) 0 4).toNat 1 a.egress (vget 0 a.w 8) (vget 0 a.w 9) (vget 0 a.w 10) a.bits256

/-- The key name of a tributary entry at an epoch (R372). -/
def State.tribName (s : State) (t : TribCtx) (epoch : W32) : KeyName :=
  s.keyName (fld t.w0 2 4).toNat 2 t.open_ t.ctxId epoch (vget 0 t.w 2) true

/-- The plan of an ingress frame. -/
def State.planIngress (s : State) (f : Frame) : Plan ⊕ NoJob :=
  match f.hdr.secTagAt with
  | none => .inr (.noSa f.ctx)
  | some at' =>
    match s.ingressAssoc f.ctx (fld f.hdr.tciAn 0 2) with
    | none => .inr (.noSa f.ctx)
    | some i =>
      let a := s.assoc i
      let b := dropFcs f.bytes
      let n := secData b at' f.hdr.secTagLen
      .inl { kind := .ingress, ctx := i, name := s.assocName a, assoc := a,
             pn := a.recover (BitVec.ofNat 32 (beAt b (at' + 4) 4)),
             blocks := if bit f.hdr.tciAn 3 then gcmBlocks (n - a.offset) else 1 }

/-- The plan of an egress frame. -/
def State.planEgress (s : State) (f : Frame) : Plan ⊕ NoJob :=
  match s.egressAssoc f.ctx with
  | none => .inr (.noSa f.ctx)
  | some i =>
    let a := s.assoc i
    if (if a.xpn then a.spent else decide (2 ^ 32 ≤ a.pn.toNat)) then .inr (.exhausted i)
    else
      .inl { kind := .egress, ctx := i, name := s.assocName a, assoc := a, pn := a.pn,
             blocks := if a.conf then gcmBlocks (f.bytes.length - 16 - a.offset) else 1 }

/-- The plan of a block to be sealed (R373, R374). -/
def State.planSeal (s : State) (f : Frame) : Plan ⊕ NoJob :=
  match f.sealCtx.bind (s.tribFind false) with
  | none => .inr (.notSealed none)
  | some (i, t) =>
    -- The values of blocks dropped before this one are passed over (R261).
    if t.dead ∨ 2 ^ 40 - 1 ≤ t.counter.toNat % 2 ^ 40 + f.sealGap then .inr (.notSealed (some i))
    else .inl { kind := .seal, ctx := i, name := s.tribName t t.epoch, epoch := t.epoch,
                counter := t.counter + BitVec.ofNat 64 f.sealGap, blocks := 513 }

/-- The plan of a block to be opened (R375). -/
def State.planOpen (s : State) (f : Frame) : Plan ⊕ NoJob :=
  let a := f.hdr.blockAt
  let ctx := BitVec.ofNat 32 (beAt f.bytes a 4)
  let epoch := BitVec.ofNat 32 (beAt f.bytes (a + 4) 4)
  let counter := BitVec.ofNat 64 (beAt f.bytes (a + 8) 8)
  match s.tribFind true ctx with
  | none => .inl { kind := .open_, ctx := 1024, name := s.tribName {} epoch, epoch := epoch, counter := counter, blocks := 513, bad := true }
  | some (i, t) =>
    .inl { kind := .open_, ctx := i, name := s.tribName t epoch, epoch := epoch, counter := counter, blocks := 513,
           bad := !t.accepts epoch }

/-- The plan of a frame. -/
def State.plan (s : State) (f : Frame) : Plan ⊕ NoJob :=
  match f.cipherOp with
  | 1 => s.planIngress f
  | 2 => s.planEgress f
  | 3 => s.planSeal f
  | _ => s.planOpen f

/-- A seal entry whose last values have been passed over has reached 2^40 − 1 (R261, R374): event 994, once. -/
def State.trimCounter (s : State) (i : Nat) : State :=
  let t := s.tribCtx i
  if t.dead || t.exhSeen then s
  else
    let last : W64 := BitVec.ofNat 64 (t.counter.toNat / 2 ^ 40 * 2 ^ 40 + (2 ^ 40 - 1))
    (s.modTrib i fun t => { t with counter := last, exhSeen := true }).report 994 2 (leBytes 2 i)

/-- A frame that makes no job (R368, R369, R373, R374). -/
def State.refuseJob (s : State) (q : Nat) (f : Frame) : NoJob → State
  | .noSa i => ((s.modAssoc i (·.count 4 1)).portCnt q 4).dropFrame q 10 f
  | .exhausted i =>
    let seen := (s.assoc i).exhSeen
    (((s.modAssoc i fun a => { a.count 5 1 with exhSeen := true }).portCnt q 6).reportIf (!seen) 993 2 (leBytes 2 i)).dropFrame q 10 f
  | .notSealed none => s.portCnt q 11
  | .notSealed (some i) => ((s.modTrib i (·.count 3)).portCnt q 11).trimCounter i

/-! ### Slots (R362) -/

/-- A slot with its queued work in eighths of half clocks. -/
structure Slot where
  core : Nat
  subst : Bool
  work : Nat

/-- Work queued on the fallback pipeline, in half clocks: one clock for each block. -/
def State.fallbackWork (s : State) : Nat :=
  (s.quads.toList.map fun x => ((x.cph.rob.filter fun j => j.onFallback && j.fin.isNone).map fun j => 2 * j.blocks).foldl (· + ·) 0).foldl (· + ·) 0

/-- The slots of port q that may take a job (R362, R366, R380). -/
def State.slots (s : State) (q : Nat) : List Slot :=
  (List.range 72).filterMap fun k =>
    if s.assignedTo k ≠ q ∨ s.isIdle k then none
    else if s.fbk.subst.contains k then
      if s.wantsSubst k then some { core := k, subst := true, work := s.fallbackWork } else none
    else
      let held := (vget {} s.quads q).jobsOf k false
      if s.coreRuns k ∧ !s.fbk.removed.contains k ∧ held.length < 4 ∧ !((s.coreN k).katWait && !held.isEmpty) then
        some { core := k, subst := false, work := 8 * (held.map (·.cost)).foldl (· + ·) 0 }
      else none

/-- The slot with the least work, the lowest core number on a tie. -/
def leastWork : List Slot → Option Slot
  | [] => none
  | x :: t =>
    match leastWork t with
    | none => some x
    | some y => if y.work < x.work then some y else some x

/-- The slot chosen for a job (R362). -/
def State.chooseSlot (s : State) (q : Nat) (n : KeyName) (cost : Nat) : Option Slot :=
  let elig := s.slots q
  match leastWork elig with
  | none => none
  | some m =>
    if (vget {} s.quads q).cph.affinity then
      let near := elig.filter fun x =>
        !x.subst && ((s.coreN x.core).keys.any fun e => e.name == n) && decide (x.work ≤ m.work + 16 * cost)
      match leastWork near with
      | some x => some x
      | none => some m
    else some m

/-! ### Dispatch (R362, R363, R368 to R375) -/

/-- What dispatch changes in the context store: the packet number or the counter taken, with events 992 and 994 (R369, R374). -/
def State.takeNumber (s : State) (p : Plan) : State :=
  match p.kind with
  | .egress =>
    let last := decide (p.pn = BitVec.allOnes 64)
    let s := s.modAssoc p.ctx fun a => { a.setPn (p.pn + 1) with spent := a.spent || (a.xpn && last) }
    let a := s.assoc p.ctx
    if a.pnTh ≠ 0 ∧ a.pnTh.toNat ≤ p.pn.toNat + 1 ∧ !a.thSeen then
      (s.modAssoc p.ctx fun a => { a with thSeen := true }).report 992 1 (leBytes 2 p.ctx)
    else s
  | .seal =>
    let s := s.modTrib p.ctx fun t => { t with counter := p.counter + 1 }
    if (p.counter.toNat + 1) % 2 ^ 40 = 2 ^ 40 - 1 ∧ !(s.tribCtx p.ctx).exhSeen then
      (s.modTrib p.ctx fun t => { t with exhSeen := true }).report 994 2 (leBytes 2 p.ctx)
    else s
  | _ => s

/-- The job of a plan on a slot. -/
def Plan.job (p : Plan) (f : Frame) (tag cost clocks : Nat) (x : Slot) : Job :=
  { kind := p.kind, frame := f, ctx := p.ctx, tag := tag, name := p.name, assoc := p.assoc, pn := p.pn, epoch := p.epoch,
    counter := p.counter, core := x.core, onFallback := x.subst, blocks := p.blocks, cost := cost, clocks := clocks, bad := p.bad }

/-- The head of the cipher queue is dispatched to a slot. -/
def State.dispatchTo (s : State) (q : Nat) (f : Frame) (p : Plan) (cost : Nat) (x : Slot) : State :=
  let s := s.takeNumber p
  let c := (vget {} s.quads q).cph
  let held := p.bad || (s.coreN x.core).keys.any fun e => e.name == p.name
  let clocks := if x.subst then 0 else s.jobClocks p.name.bits256 held c.density p.blocks
  let s := if x.subst then s else s.tookFree
  let (ans, s) : KeyAnswer × State := if p.bad then (.got [], s) else s.askFor q x.core x.subst p.name
  let key := match p.kind with | .ingress | .egress => p.ctx | .seal | .open_ => 8192 + p.ctx
  let tag : Nat := Tab.get 0 c.tags key
  let j := p.job f tag cost clocks x
  let j : Job :=
    match ans with
    | .got k => { j with key := some k }
    | .refused => { j with fin := some .noKey }
    | .waits => j
  let s := s.modQuadN q fun y => { y with cph := { y.cph with
    queue := y.cph.queue.drop 1, rob := y.cph.rob ++ [j], tags := Tab.put 0 y.cph.tags key (tag + 1) } }
  let s := s.portCnt q (if x.subst then 1 else 0)
  let s : State := if x.subst then { s with fbk := { s.fbk with cnt := vmod s.fbk.cnt 1 (· + 1) } } else s
  s.release q

/-- CIPHER_DISPATCH: the head of port q's cipher queue is dispatched, refused, or waits (R362). -/
def execCipherDispatch (q : QuadId) (s : State) : Res :=
  .next (match (s.quad q).cph.queue with
    | [] => s
    | f :: rest =>
      if 4096 ≤ (s.quad q).cph.rob.length then s
      else
        match s.plan f with
        | .inr e => (s.modQuad q fun x => { x with cph := { x.cph with queue := rest } }).refuseJob q.val f e
        | .inl p =>
          let cost := jobCost p.name.bits256 (s.quad q).cph.density p.blocks
          match s.chooseSlot q.val p.name cost with
          | none => s
          | some x => s.dispatchTo q.val f p cost x)

/-! ### Return (R364) -/

/-- The end of a job that has its key: its output bytes, or an authentication failure. -/
def Job.run (j : Job) (key : List Byte) : JobEnd :=
  match j.kind with
  | .ingress =>
    match macsecOpen key j.assoc j.pn j.frame.bytes ((j.frame.hdr.secTagAt).getD 12) j.frame.hdr.secTagLen (bit j.frame.hdr.tciAn 3) with
    | some out => .done out
    | none => .authFail
  | .egress => .done (macsecSeal key j.assoc j.pn j.frame.bytes)
  | .seal =>
    let a := j.frame.hdr.blockAt
    .done (setBlock j.frame.bytes a
      (sealBlock key (j.frame.sealCtx.getD 0) j.epoch j.counter (padTo 8192 (bytesAt j.frame.bytes (a + 16) 8192))))
  | .open_ =>
    let a := j.frame.hdr.blockAt
    if j.bad then .epochBad
    else match openBlock key (padTo 8224 (bytesAt j.frame.bytes a 8224)) with
    | some b => .done (setBlock j.frame.bytes a b)
    | none => .authFail

/-- The first job of a list that unit u can finish. -/
def runnable (k : Option Nat) (l : List Job) : Option Nat :=
  l.findIdx? fun j => j.fin.isNone && j.key.isSome &&
    (match k with | some c => j.core == c && !j.onFallback | none => j.onFallback)

/-- A job of port q at place i of the reorder buffer returns: counted by its unit (R364, R379, R384, R386). -/
def State.finish (s : State) (q i : Nat) : State :=
  match (vget {} s.quads q).cph.rob[i]? with
  | none => s
  | some j =>
    let e := j.run (j.key.getD [])
    let fail := decide (e = .authFail ∨ e = .epochBad)
    let s := s.modQuadN q fun x => { x with cph := { x.cph with rob := x.cph.rob.modify i fun j => { j with fin := some e } } }
    let s : State :=
      if j.onFallback then
        { s with fbk := { s.fbk with cnt := vmod s.fbk.cnt 0 (· + BitVec.ofNat 64 j.blocks), afWin := s.fbk.afWin + if fail then 1 else 0 } }
      else
        s.modCoreN j.core fun c => { c with
          af := if fail then satAdd c.af 1 else c.af, afWin := c.afWin + if fail then 1 else 0
          jobs := satAdd c.jobs 1 }
    ((if j.onFallback then s else s.katIfEmpty q j.core).release q).resubst

/-- CORE_JOB_DONE: the oldest job of a unit that has its key returns; on the fallback pipeline that of the first port that holds
one (R364). -/
def execCoreJobDone (u : CipherUnit) (s : State) : Res :=
  .next (match u with
    | .core k =>
      if !s.coreRuns k.val then s
      else
        match (List.range 4).findSome? fun q => (runnable (some k.val) (vget {} s.quads q).cph.rob).map fun i => (q, i) with
        | some (q, i) => s.finish q i
        | none => s
    | .fallback =>
      if !s.fbk.inService then s
      else
        match (List.range 4).findSome? fun q => (runnable none (vget {} s.quads q).cph.rob).map fun i => (q, i) with
        | some (q, i) => s.finish q i
        | none => s)

/-! ### Lookaside jobs (R376, R377, R424) -/

/-- Reserved bits and lengths of a descriptor (R376, R377). -/
def laBad (d : LaDesc) : Bool :=
  d.op == 0 || decide (5 < d.op.toNat) || d.flags &&& 0xFE#8 != 0 || (decide (d.op.toNat ≤ 2) && decide (65536 < d.aadLen.toNat)) ||
  decide (16777216 < d.len.toNat) || (decide (d.op.toNat ≤ 2) && (d.iv.toList.drop 12).any (· != 0))

/-- The key name of a KEY_REF, where its entry is VALID (R424). -/
def State.laName (s : State) (d : LaDesc) : Option KeyName :=
  if 256 ≤ d.keyRef.toNat then none
  else
    let e : LaKey := Tab.get (Vector.replicate 4 0) s.key.la d.keyRef.toNat
    if bit (vget 0 e 0) 0 then
      some (s.keyName (fld (vget 0 e 0) 2 4).toNat 3 (bit (vget 0 e 0) 1) (vget 0 e 1) (vget 0 e 2) (vget 0 e 3) (bit d.flags 0))
    else none

/-- A fetched job enters the fallback pipeline, or has its status already (R376, R377, R400). -/
def State.laEnter (s : State) (d : LaDesc) : State :=
  let put (s : State) (j : LaJob) : State := { s with fbk := { s.fbk with la := s.fbk.la ++ [j] } }
  if !(s.fbk.laEn && s.fbk.inService) then put s { desc := d, status := some 4 }
  else if laBad d then put s { desc := d, status := some 2 }
  else
    match s.laName d with
    | none => put s { desc := d, status := some 3 }
    | some n =>
      match s.askKey n with
      | (.got k, s) => put s { desc := d, name := some n, key := some k }
      | (.refused, s) => put s { desc := d, name := some n, status := some 3 }
      | (.waits, s) => put s { desc := d, name := some n }

/-- LOOKASIDE_FETCH: a job is fetched from ring 3 while ring 4 has room for its completion (R376, R490). -/
def execLookasideFetch (d : LaDesc) (s : State) : Res :=
  .next (
    let x := s.ring 3
    if s.isOn dHif ∧ x.en ∧ !x.stopped ∧ 0 < x.posted ∧ s.fbk.la.length < (s.ring 4).room ∧ (s.ring 4).en ∧ s.clocked then
      (s.ringAdvance 3 1).laEnter d
    else s)

/-- Outputs and status of a job that runs: bytes for DST and for TAG (R376, R377). -/
def laRun (d : LaDesc) (key input aad tag : List Byte) : BitVec 3 × List Byte × List Byte :=
  let iv := d.iv.toList
  match d.op.toNat with
  | 1 => let (c, t) := gcmSeal key (iv.take 12) aad input; (0, c, t)
  | 2 =>
    match gcmOpen key (iv.take 12) aad input tag with
    | some p => (0, p, [])
    | none => (1, zeros d.len.toNat, [])
  | 3 => (0, aesCtr key iv input, [])
  | 4 => (0, [], cmac key input)
  | _ => if cmac key input = tag then (0, [], []) else (1, [], [])

/-- Bytes written to host memory, where there are any. -/
def State.dmaWrite (s : State) (a : W64) (b : List Byte) : State := if b = [] then s else s.emit (.hostWrite a b)

/-- The oldest lookaside job completes with a status; zero-filled outputs are written first (R377, R490). -/
def State.laFinish (s : State) (d : LaDesc) (status : BitVec 3) : State :=
  let s : State := { s with fbk := { s.fbk with
    la := s.fbk.la.drop 1
    cnt := vmod (vmod s.fbk.cnt 2 (· + if status = 2 ∨ status = 4 then 0 else 1)) 4 (· + if status = 2 ∨ status = 4 then 1 else 0) } }
  let s := if status = 3 ∧ d.op.toNat ≤ 3 then s.dmaWrite d.dst (zeros d.len.toNat) else s
  let s := if status = 3 ∧ d.op = 1 then s.dmaWrite d.tag (zeros 16) else s
  s.laComplete d.cookie status

/-- LOOKASIDE_COMPLETE: the oldest fetched job completes, with the data that it read from the host (R376, R377). -/
def execLookasideComplete (input aad tag : List Byte) (s : State) : Res :=
  .next (match s.fbk.la with
    | [] => s
    | j :: _ =>
      match j.status with
      | some st => s.laFinish j.desc st
      | none =>
        match j.key with
        | none => s
        | some k =>
          let (st, out, t) := laRun j.desc k (padTo j.desc.len.toNat input) (padTo j.desc.aadLen.toNat aad) (padTo 16 tag)
          let s := (s.dmaWrite j.desc.dst out).dmaWrite j.desc.tag t
          let s : State :=
            if st = 1 then
              { s with fbk := { s.fbk with cnt := vmod s.fbk.cnt 3 (· + 1), afWin := s.fbk.afWin + 1 } }
            else s
          let blocks := if j.desc.op.toNat ≤ 2 then gcmBlocks j.desc.len.toNat else (j.desc.len.toNat + 15) / 16
          ({ s with fbk := { s.fbk with cnt := vmod s.fbk.cnt 0 (· + BitVec.ofNat 64 blocks) } } : State).laFinish j.desc st)

end Sys2Proof.Machine
end

