-- ==== Sys2Proof/Machine/CipherTest.lean ====
section
/-!
DEFINITION. Known-answer tests, quarantine and return to service of cores and of the fallback pipeline (R379 to R382, R550), and
the cluster's registers (R384 to R386).
-/
namespace Sys2Proof.Machine

/-! ### The fallback pipeline's faults -/

/-- The pipeline goes out of service: its lookaside jobs complete with STATUS 4, its substituted slots are removed, and their jobs
go back to the slots (R366, R381). -/
def State.fbkDown (s : State) : State :=
  let jobs := s.fbk.la
  let s := jobs.foldl (fun s j => s.laFinish j.desc 4) s
  let g (x : Quad) : Quad := { x with cph := { x.cph with rob := x.cph.rob.map fun j => if j.fin.isNone then { j with onFallback := false } else j } }
  ({ s with fbk := { s.fbk with inService := false }, quads := s.quads.map g } : State).resubst

/-- An integrity fault of the fallback pipeline (R381). -/
def State.fbkFault (s : State) (cause : BitVec 3) : State :=
  (({ s with fbk := { s.fbk with fault := true, failed := true } } : State).fbkDown).report 990 3 [cause.setWidth 8]

/-- The pipeline comes into service. -/
def State.fbkUp (s : State) : State :=
  (({ s with fbk := { s.fbk with inService := true, failed := false } } : State).endCond 990).resubst

/-! ### Tests -/

/-- KAT_DUE (R380). -/
def execKatDue (u : CipherUnit) (pass : Bool) (s : State) : Res :=
  .next (match u with
    | .core k =>
      if !s.coreRuns k.val then s
      else if ((vget {} s.quads (s.assignedTo k.val)).jobsOf k.val false).isEmpty then s.katRun k.val pass
      else s.modCore k fun c => { c with katDue := some pass }
    | .fallback => if !s.fbk.inService || pass then s else s.fbkFault 1)

/-- KAT_OVERDUE (R380). -/
def execKatOverdue (k : CoreId) (s : State) : Res :=
  .next (if (s.core k).katDue.isSome then
      (s.modCore k fun c => { c with katWait := true }).portCnt (s.assignedTo k.val) 10
    else s)

/-- FIRST_KAT: the first test after a unit's domain came ON (R382, R550). -/
def execFirstKat (u : CipherUnit) (pass : Bool) (s : State) : Res :=
  .next (match u with
    | .core k =>
      if s.isOn (dCores (k.val / 18)) && decide ((s.core k).state = .quarantined) && (s.core k).cause == 0 then
        if pass then s.coreReturn k.val else s.coreFault k.val 1
      else s
    | .fallback =>
      if s.isOn dFbk && !s.fbk.inService && !s.fbk.failed then (if pass then s.fbkUp else s.fbkFault 1) else s)

/-- KAT_NOW: CPH_CTL.KAT_NOW (R380). -/
def execKatNow (p : Port) (k : CoreId) (pass : Bool) (s : State) : Res :=
  .next (s.writeIsl p (coreBase k) fun s => if pass then s else s.coreFault k.val 1)

/-- INTEGRITY_FAULT (R381). -/
def execIntegrityFault (u : CipherUnit) (cause : UnitFault) (s : State) : Res :=
  .next (match u with
    | .core k => if s.isOn (dCores (k.val / 18)) then s.coreFault k.val cause.code else s
    | .fallback => if s.isOn dFbk then s.fbkFault cause.code else s)

/-- CPH_CTL.QUAR_FORCE is written (R381, R384). -/
def State.quarForce (s : State) (k : Nat) (on : Bool) : State :=
  let was := (s.coreN k).quarForce
  let s := s.modCoreN k fun c => { c with quarForce := on }
  if on && !was then s.coreFault k 4 else s

/-- QUAR_FORCE (R381). -/
def execQuarForce (p : Port) (k : CoreId) (on : Bool) (s : State) : Res :=
  .next (s.writeIsl p (coreBase k) fun s => s.quarForce k.val on)

/-- A retest of core k with its outcome (R382). -/
def State.coreRetest (s : State) (k : Nat) (pass : Bool) : State :=
  let c := s.coreN k
  if c.quarForce || !decide (c.state = .quarantined) then s
  else if pass then s.coreReturn k
  else s.modCoreN k fun c => { c with cause := 1 }

/-- A retest of the fallback pipeline with its outcome (R382). -/
def State.fbkRetest (s : State) (pass : Bool) : State := if s.fbk.inService || !pass then s else s.fbkUp

/-- RETEST (R382). -/
def execRetest (p : Port) (u : CipherUnit) (pass : Bool) (s : State) : Res :=
  .next (match u with
    | .core k => s.writeIsl p (coreBase k) fun s => s.coreRetest k.val pass
    | .fallback => s.writeIsl p (base 11) fun s => s.fbkRetest pass)

/-- AF_WINDOW: the failures of a 1 s window are judged and a new window starts (R379). -/
def execAfWindow (u : CipherUnit) (s : State) : Res :=
  .next (match u with
    | .core k =>
      let c := s.core k
      let past := c.afTh != 0 && decide (c.afTh.toNat ≤ c.afWin)
      (s.modCore k fun c => { c with afWin := 0, afOver := c.afOver || past }).reportIf
        (past && !c.afOver && !s.isIdle k.val) (769 + 2 * k.val) 2
    | .fallback =>
      let past := s.fbk.afTh != 0 && decide (s.fbk.afTh.toNat ≤ s.fbk.afWin)
      State.reportIf { s with fbk := { s.fbk with afWin := 0, afOver := s.fbk.afOver || past } } (past && !s.fbk.afOver) 991 2)

/-! ### Registers (R384 to R386) -/

/-- STATE of CPH_STATUS (R366, R384). -/
def State.coreStateCode (s : State) (k : Nat) : BitVec 2 :=
  if s.isIdle k then 3
  else match (s.coreN k).state with | .inService => 0 | .quarantined => 1 | .retesting => 2

/-- CPH_STATUS (R384). -/
def State.cphStatus (s : State) (k : Nat) : W32 :=
  let c := s.coreN k
  at' 0 (s.coreStateCode k) ||| atB 2 (s.fbk.subst.contains k) ||| atB 3 (s.isLent k) ||| atN 4 2 (s.assignedTo k) |||
    atB 6 c.fault ||| at' 7 c.cause ||| atB 10 c.afOver ||| atN 11 4 c.keys.length

/-- Reads of CPH_JOBS and CPH_AF (R384). -/
def State.jobsRead (s : State) (k : Nat) : W32 × State := ((s.coreN k).jobs, s.modCoreN k fun c => { c with jobs := 0 })
def State.afRead (s : State) (k : Nat) : W32 × State := ((s.coreN k).af, s.modCoreN k fun c => { c with af := 0 })

/-- CPH_JOBS_READ (R384). -/
def execCphJobsRead (p : Port) (k : CoreId) (s : State) : Res := .next (s.readIsl p (coreBase k + 8) fun s => s.jobsRead k.val)

/-- CPH_AF_READ (R384). -/
def execCphAfRead (p : Port) (k : CoreId) (s : State) : Res := .next (s.readIsl p (coreBase k + 12) fun s => s.afRead k.val)

/-- A read of a core island. -/
def State.coreRead (s : State) (k off : Nat) : W32 × State :=
  let c := s.coreN k
  if off = 0 then (atB 0 c.quarForce ||| at' 8 c.afTh, s)
  else if off = 4 then (s.cphStatus k, s)
  else if off = 8 then s.jobsRead k
  else if off = 12 then s.afRead k
  else (0, s)

/-- A write of a core island; the outcome of a test that it starts is a free bit. -/
def State.coreWrite (s : State) (k off : Nat) (w : W32) : State :=
  if off = 0 then
    let s := (s.modCoreN k fun c => { c with afTh := fld w 8 8 }).quarForce k (bit w 0)
    let s := if bit w 1 then s.tookFree.coreRetest k (s.freeBits 1 == 1) else s
    if bit w 2 && s.freeBits 1 == 0 then s.tookFree.coreFault k 1 else if bit w 2 then s.tookFree else s
  else if off = 4 then s.modCoreN k fun c => { c with fault := w1cB c.fault w 6, afOver := w1cB c.afOver w 10 }
  else s

/-- A counter window: item 2c the low word of counter c, item 2c + 1 its high word (R383). -/
def State.cntItem {n : Nat} (s : State) (p : Port) (key item : Nat) (v : Vector W64 n) : W32 × State :=
  if n ≤ item / 2 then (0, s) else s.readPair p key (vget 0 v (item / 2)) (item % 2 == 1)

/-- A read of QD_CPH_CNT_DATA, and of FBK_CNT_DATA. -/
def State.cphCntRead (s : State) (p : Port) (q : Nat) : W32 × State :=
  let c := (vget {} s.quads q).cph
  s.cntItem p (quadBase q + 0x401C) c.cntAddr.toNat c.cnt
def State.fbkCntRead (s : State) (p : Port) : W32 × State := s.cntItem p (base 11 + 0x18) s.fbk.cntAddr.toNat s.fbk.cnt

/-- CPH_CNT_READ: of a dispatch port, or of the fallback pipeline (R383, R385, R386). -/
def execCphCntRead (p : Port) (q : Option QuadId) (s : State) : Res :=
  .next (match q with
    | some q => s.readIsl p (quadBase q + 0x401C) fun s => s.cphCntRead p q.val
    | none => s.readIsl p (base 11 + 0x18) fun s => s.fbkCntRead p)

/-- Slots of port q in service or substituted (R385). -/
def State.slotCount (s : State) (q : Nat) : Nat :=
  ((List.range 72).filter fun k =>
    s.assignedTo k == q && !s.isIdle k && (s.fbk.subst.contains k || (s.coreRuns k && !s.fbk.removed.contains k))).length

/-- A read of a dispatch port's registers in block 2 of a quadrant island. -/
def State.cphRead (s : State) (p : Port) (q off : Nat) : W32 × State :=
  let c := (vget {} s.quads q).cph
  if off = 0x4010 then (at' 0 c.density ||| atB 3 c.affinity, s)
  else if off = 0x4014 then (atN 0 12 c.queue.length ||| atN 12 13 c.rob.length ||| atN 25 7 (s.slotCount q), s)
  else if off = 0x4018 then (at' 0 c.cntAddr, s)
  else if off = 0x401C then s.cphCntRead p q
  else (0, s)

/-- A write of a dispatch port's registers. -/
def State.cphWrite (s : State) (q off : Nat) (w : W32) : State :=
  if off = 0x4010 then s.modQuadN q fun x => { x with cph := { x.cph with density := fld w 0 3, affinity := bit w 3 } }
  else if off = 0x4018 then s.modQuadN q fun x => { x with cph := { x.cph with cntAddr := fld w 0 5 } }
  else s

/-- A bitmap word of the substituted cores (R386). -/
def substWord (l : List Nat) (i : Nat) : W32 := (l.filter fun k => k / 32 == i).foldl (fun w k => setBit w (k % 32) true) 0

/-- A read of the fallback island. -/
def State.fbkRead (s : State) (p : Port) (off : Nat) : W32 × State :=
  let f := s.fbk
  if off = 0x00 then (atB 1 f.laEn ||| at' 8 f.afTh, s)
  else if off = 0x04 then
    (atB 0 f.inService ||| atB 1 f.fault ||| atB 2 f.afOver ||| atN 3 4 f.subst.length ||| atN 7 7 f.removed.length, s)
  else if off = 0x08 ∨ off = 0x0C ∨ off = 0x10 then (substWord f.subst ((off - 8) / 4), s)
  else if off = 0x14 then (at' 0 f.cntAddr, s)
  else if off = 0x18 then s.fbkCntRead p
  else (0, s)

/-- A write of the fallback island; the outcome of a retest that it starts is a free bit. -/
def State.fbkWrite (s : State) (off : Nat) (w : W32) : State :=
  if off = 0x00 then
    let s : State := { s with fbk := { s.fbk with laEn := bit w 1, afTh := fld w 8 8 } }
    if bit w 0 then s.tookFree.fbkRetest (s.freeBits 1 == 1) else s
  else if off = 0x04 then { s with fbk := { s.fbk with fault := w1cB s.fbk.fault w 1, afOver := w1cB s.fbk.afOver w 2 } }
  else if off = 0x14 then { s with fbk := { s.fbk with cntAddr := fld w 0 4 } }
  else s

end Sys2Proof.Machine
end

