-- ==== Sys2Proof/Machine/CstArb.lean ====
section
/-!
DEFINITION. The cistern's striping, request queues and arbiter (R453, R454, R459, R460): DWRR over five classes, line by line. A request takes
its effect at its command; what waits here is the bandwidth. Which channel a line lies on follows from where in its region a user puts
its data, which the spec does not give: a free value for each line (notes/assumptions/103.md).
-/
namespace Sys2Proof.Machine

def State.modCst (s : State) (f : Cistern → Cistern) : State := { s with cst := f s.cst }

/-- The counter at item i of R466 rises by k. -/
def State.cstCnt (s : State) (i : Nat) (k : Nat := 1) : State :=
  s.modCst fun c => { c with cnt := Tab.mod 0 c.cnt i (· + BitVec.ofNat 64 k) }

/-- Devices that take writes. -/
def Cistern.inService (c : Cistern) : BitVec 4 :=
  match c.mode with
  | .training => 0
  | .offline => 0
  | .normal => 0xF
  | _ => setBit 0xF#4 c.dev.toNat false

/-! ### Striping (R453, R454) -/

/-- The location code of line L of the striped space: channel L mod 8, SGRAM bank, row, and the first bit of the line in its row. -/
def lineLoc (line : Nat) : Loc :=
  let x := line / 8
  { d := 0, q := 7, s := BitVec.ofNat 8 (line % 8), b := BitVec.ofNat 8 (208 + x / 32 % 16), w := BitVec.ofNat 16 (x / 512)
    c := BitVec.ofNat 16 (512 * (x % 32)) }

/-- The lines that some bytes take. -/
def linesOf (bytes : Nat) : Nat := (bytes + 63) / 64

/-- The usable bytes of a region: three quarters while a device is out or being drained (R454). -/
def Cistern.usable (c : Cistern) (bytes : Nat) : Nat := if c.degradedMode then bytes * 3 / 4 else bytes

/-- The size in bytes of the region of a KIND and INDEX (R42); none exists while the cistern is offline (R461). -/
def State.regionBytes (s : State) (kind index : Nat) : Option Nat :=
  if s.cst.mode = .offline then none
  else
    match s.str.common with
    | none => none
    | some c =>
      ((List.range 16).find? fun i => (byteAt c.regions (16 * i)).toNat == kind && (byteAt c.regions (16 * i + 1)).toNat == index).map
        fun i => leAt c.regions (16 * i + 8) 4 * 1048576

/-! ### Classes (R459) -/

/-- The classes by number: 0 SKEW, 1 LPM, 2 US, 3 DS, 4 MAINT. A weight of 0 acts as 1, and MAINT has weight 1. -/
def Cistern.weight (c : Cistern) (k : Nat) : Nat := if k = 4 then 1 else max 1 (fld c.bwW (8 * k) 7).toNat

/-- The sum of the weights. -/
def Cistern.weights (c : Cistern) : Nat := ((List.range 5).map c.weight).sum

/-- The bandwidth of the devices in service, in Mbit/s: 512 Gbit/s each (R452). -/
def Cistern.bandwidth (c : Cistern) : Nat := 512000 * popCount c.inService

/-- The guaranteed share of a class, in Mbit/s. -/
def Cistern.share (c : Cistern) (k : Nat) : Nat := c.bandwidth * c.weight k / c.weights

/-! ### Request queues (R460) -/

/-- Lines that wait in a class's queue. -/
def Cistern.waiting (c : Cistern) (k : Nat) : Nat := ((vget [] c.reqs k).map LineReq.lines).sum

/-- The queue of a class has room. Its depth is the implementation's. -/
def State.cstRoom (s : State) (k : Nat) : Bool := decide (s.cst.waiting k ≤ Config.requestDepth k)

/-- A class asks for lines. -/
def State.request (s : State) (k : Nat) (write : Bool) (lines : Nat) : State :=
  if lines = 0 then s else s.modCst fun c => { c with reqs := vmod c.reqs k fun l => l ++ [⟨write, lines⟩] }

/-- The channels of the devices in service. -/
def Cistern.channels (c : Cistern) : List Nat := (List.range 8).filter fun ch => bit c.inService (ch / 2)

/-- One line of a class is served on a channel. -/
def State.lineServed (s : State) (k : Nat) (write : Bool) : State :=
  let chs := s.cst.channels
  let ch := chs.getD ((s.freeBits 8).toNat % max 1 chs.length) 0
  (s.tookFree.cstCnt (0x80 + 2 * k)).cstCnt (16 * ch + if write then 2 else 0)

/-- A queue without its first line, and whether that line is a write. -/
def popLine : List LineReq → Option (Bool × List LineReq)
  | [] => none
  | r :: t => some (r.write, if r.lines ≤ 1 then t else { r with lines := r.lines - 1 } :: t)

/-- The class served next by DWRR, with the deficits that lead to it: the class whose turn it is while its deficit lasts, else the next one
in order that has a request, whose deficit gains its weight. -/
def Cistern.nextClass (c : Cistern) : Option (Nat × Vector Nat 5) :=
  if !(vget [] c.reqs c.turn).isEmpty ∧ 0 < vget 0 c.deficit c.turn then some (c.turn, c.deficit)
  else
    ([1, 2, 3, 4, 5].map fun i => (c.turn + i) % 5).find? (fun k => !(vget [] c.reqs k).isEmpty) |>.map fun k =>
      (k, vset (vset c.deficit c.turn 0) k (c.weight k))

/-- One line is granted. -/
def State.grantLine (s : State) : State :=
  match s.cst.nextClass with
  | none => s
  | some (k, d) =>
    match popLine (vget [] s.cst.reqs k) with
    | none => s
    | some (write, rest) =>
      (s.modCst fun c => { c with reqs := vset c.reqs k rest, deficit := vset d k (vget 0 d k - 1), turn := k }).lineServed k write

/-- Some lines are granted. -/
def State.grantLines (s : State) : Nat → State
  | 0 => s
  | n + 1 => s.grantLine.grantLines n

/-- 1.6 ns pass: a channel carries 0.8 line, so a device in service adds 8 fifths of a line (R452). -/
def State.cstTick (s : State) : State :=
  if s.cst.nextClass.isNone then s
  else
    let credit := s.cst.credit + 8 * popCount s.cst.inService
    (s.modCst fun c => { c with credit := credit % 5 }).grantLines (credit / 5)

/-! ### Maintenance -/

/-- What MAINT still waits for has been served by the end of its work: lines of every channel, free in number. -/
def State.maintServed (s : State) : State :=
  let n := s.cst.waiting 4
  if n = 0 then s
  else
    let s := (List.range 8).foldl (fun s ch =>
      ((s.cstCnt (16 * ch) (s.freeBits 24).toNat).cstCnt (16 * ch + 2) ((s.tookFree).freeBits 24).toNat).tookFree.tookFree) s
    (s.cstCnt 0x88 n).modCst fun c => { c with reqs := vset c.reqs 4 [] }

/-- The lines of a device (R452): 2 GiB. -/
def deviceLines : Nat := 33554432

end Sys2Proof.Machine
end

