-- ==== Sys2Proof/Machine/TrafficOps.lean ====
section
/-!
DEFINITION. Queues, shapers, policers and schedulers (R333 to R349). Tokens are in 1/256 byte; a rate of 1 kbit/s adds 4/78,125 of one in
each 1.6 ns tick. A shaper's and a policer's tokens are brought up to the present when they are used (notes/assumptions/54.md).
-/
namespace Sys2Proof.Machine

/-- One byte in units of tokens. -/
def tokByte : Int := 256

/-- What a rate in kbit/s adds in some ticks, with what is left of a token. -/
def tokFill (rate ticks left : Nat) : Int × Nat :=
  let n := 4 * rate * ticks + left
  ((n / 78125 : Nat), n % 78125)

/-- A 16-bit size of the sizing record (R39). -/
def State.size16 (s : State) (q off : Nat) : Nat := leAt (s.sizing q) off 2

def State.usQueues (s : State) (q : Nat) : Nat := s.size16 q 0
def State.dsQueues (s : State) (q : Nat) : Nat := s.size16 q 2
def State.usShapers (s : State) (q : Nat) : Nat := s.size16 q 4
def State.dsShapers (s : State) (q : Nat) : Nat := s.size16 q 6
def State.policers (s : State) (q : Nat) : Nat := s.size16 q 8
def State.allocIds (s : State) (q : Nat) : Nat := s.size16 q 10
def State.xgemPorts (s : State) (q : Nat) : Nat := s.size16 q 12

def State.queueCount (s : State) (q : Nat) (down : Bool) : Nat := if down then s.dsQueues q else s.usQueues q
def State.shaperCount (s : State) (q : Nat) (down : Bool) : Nat := if down then s.dsShapers q else s.usShapers q

/-- A direction's traffic manager. -/
def Quad.tm (x : Quad) (down : Bool) : TrafficMgr := if down then x.ds else x.us
def Quad.setTm (x : Quad) (down : Bool) (t : TrafficMgr) : Quad := if down then { x with ds := t } else { x with us := t }
def State.tm (s : State) (q : Nat) (down : Bool) : TrafficMgr := (vget {} s.quads q).tm down
def State.modTm (s : State) (q : Nat) (down : Bool) (f : TrafficMgr → TrafficMgr) : State :=
  s.modQuadN q fun x => x.setTm down (f (x.tm down))

def TrafficMgr.queue (t : TrafficMgr) (j : Nat) : Queue := Tab.get {} t.queues j
def TrafficMgr.modQueue (t : TrafficMgr) (j : Nat) (f : Queue → Queue) : TrafficMgr := { t with queues := Tab.mod {} t.queues j f }
def TrafficMgr.shaper (t : TrafficMgr) (i : Nat) : Shaper := Tab.get {} t.shapers i
def TrafficMgr.modShaper (t : TrafficMgr) (i : Nat) (f : Shaper → Shaper) : TrafficMgr :=
  { t with shapers := Tab.mod {} t.shapers i f }

/-! ### Shapers (R341 to R344) -/

/-- Fields of a shaper's words (R353); a PIR below CIR acts as CIR (R342). -/
def Shaper.calendar (x : Shaper) : Bool := bit (vget 0 x.w 0) 0
def Shaper.resetTo (x : Shaper) : Bool := bit (vget 0 x.w 0) 1
def Shaper.ovh (x : Shaper) : Int := (fld (vget 0 x.w 0) 8 8).toInt
def Shaper.cir (x : Shaper) : Nat := (fld (vget 0 x.w 1) 0 24).toNat
def Shaper.cbs (x : Shaper) : Int := ((fld (vget 0 x.w 2) 0 24).toNat : Int) * tokByte
def Shaper.rate (x : Shaper) : Nat := (fld (vget 0 x.w 3) 0 24).toNat
def Shaper.pir (x : Shaper) : Nat := max x.cir x.rate
def Shaper.pbs (x : Shaper) : Int := ((fld (vget 0 x.w 4) 0 24).toNat : Int) * tokByte

/-- The buckets brought up to the present (R342). -/
def Shaper.refill (x : Shaper) (now : Nat) : Shaper :=
  let ticks := (now - x.at_) / 16
  let (c, cr) := tokFill x.cir ticks x.cRem
  let (p, pr) := tokFill x.pir ticks x.pRem
  { x with cTok := min x.cbs (x.cTok + c), pTok := min x.pbs (x.pTok + p), cRem := cr, pRem := pr, at_ := x.at_ + ticks * 16 }

/-- The shaper is eligible (R342, R343). -/
def Shaper.eligibleAt (x : Shaper) (now : Nat) : Bool :=
  if x.calendar then x.eligible else decide (0 ≤ (x.refill now).pTok)

/-- The committed bucket is positive (R337). A CIR of 0 leaves the queue in the excess round only (R342). -/
def Shaper.committed (x : Shaper) (now : Nat) : Bool := x.calendar || (x.cir != 0 && decide (0 < (x.refill now).cTok))

/-- Horizon of the wheel: 524,288 ns in 0.1 ns (R343). -/
def horizon : Nat := 5242880

/-- The wait to the next eligible time reaches the horizon: it is parked, as is one without a rate (R343). -/
def Shaper.far (x : Shaper) (now : Nat) : Bool := x.rate == 0 || decide (horizon * x.rate ≤ x.nextNum - now * x.rate)

/-- The next eligible time in slots of 8 ns, rounded up (R343). -/
def Shaper.slotTime (x : Shaper) : Nat := (x.nextNum + 80 * x.rate - 1) / (80 * x.rate)

/-- The queues of a calendar shaper are placed on the wheel, or parked (R343). -/
def Shaper.place (x : Shaper) (now : Nat) : Shaper :=
  if x.far now then { x with parked := true, slot := none }
  else { x with parked := false, slot := some (BitVec.ofNat 16 x.slotTime) }

/-- The start of the shaper's slot has come (R343). -/
def Shaper.slotStarts (x : Shaper) (now : Nat) : Bool := x.slot.isSome && decide (80 * x.slotTime ≤ now)

/-- A calendar shaper waits for n bytes' time at its rate from now (R343). -/
def Shaper.wait (x : Shaper) (now n : Nat) : Shaper :=
  ({ x with eligible := false, nextNum := now * x.rate + n * 80000000 } : Shaper).place now

/-- A bucket after a charge of n tokens: negative by at most one frame (R342). -/
def charged (tok n : Int) : Int := max (tok - n) (min tok (-n))

/-- len bytes of a frame are charged, with OVH where they are its first (R341 to R343). -/
def Shaper.charge (x : Shaper) (now len : Nat) (first : Bool := true) : Shaper :=
  let c := (max 1 ((len : Int) + if first then x.ovh else 0)).toNat
  if x.calendar then x.wait now c
  else
    let y := x.refill now
    let y := { y with cTok := charged y.cTok (c * tokByte), pTok := charged y.pTok (c * tokByte) }
    { y with eligible := decide (0 ≤ y.pTok) }

/-- The reset of R344. -/
def Shaper.reset (x : Shaper) (now : Nat) : Shaper :=
  let x := { x with at_ := now / 16 * 16, parked := false, slot := none, cRem := 0, pRem := 0 }
  if x.calendar then
    if x.resetTo then { x with eligible := true, nextNum := 0 } else x.wait now 2048
  else if x.resetTo then { x with cTok := x.cbs, pTok := x.pbs, eligible := true }
  else { x with cTok := 0, pTok := 0, eligible := true }

/-- The shaper that a queue or a port names, where it counts (R341). -/
def State.namedShaper (s : State) (q : Nat) (down : Bool) (en : Bool) (i : Nat) : Option Nat :=
  if en ∧ i < s.shaperCount q down then some i else none

/-- The shapers of queue j and of its port of slice k, each once. Those of an SDH lane act as none (R340). -/
def State.shapersOf (s : State) (q : Nat) (down : Bool) (k j : Nat) : List Nat :=
  if down && s.isSdh (24 * q + k) then []
  else
    let w := ((s.tm q down).queue j).w0
    let p := (vget {} (s.tm q down).ports k).w2
    ((s.namedShaper q down (bit w 12) (fld w 0 12).toNat).toList ++
      (s.namedShaper q down (bit p 12) (fld p 0 12).toNat).toList).eraseDups

/-! ### Ports (R334, R335) -/

def TmPort.qbase (p : TmPort) : Nat := (fld p.w0 0 12).toNat
def TmPort.qcount (p : TmPort) : Nat := (fld p.w0 16 13).toNat
def TmPort.owns (p : TmPort) (j : Nat) : Bool := decide (p.qbase ≤ j ∧ j < p.qbase + p.qcount)

/-- The slice of the port that owns queue j. -/
def TrafficMgr.owner (t : TrafficMgr) (j : Nat) : Option Nat := firstBelow 24 fun k => (vget {} t.ports k).owns j

/-- The offset of a frame's queue: the QUEUE settled, else the port's TC_MAP (R335). -/
def TmPort.offset (p : TmPort) (queue : Option (BitVec 12)) (tc : BitVec 3) : Nat :=
  match queue with
  | some o => o.toNat
  | none => (fld p.tcMap (4 * tc.toNat) 4).toNat

/-! ### Admission (R336) -/

/-- Bytes of a manager's frames that the cistern holds, in whole lines. -/
def TrafficMgr.spilledBytes (t : TrafficMgr) : Nat :=
  (t.queues.map fun e => (e.2.frames.map fun f => if f.inCistern then 64 * linesOf (f.frame.bytes.length - f.sent) else 0).sum).sum

/-- The region of the cistern that a direction's spill of quadrant q goes to has room for len bytes: KIND 1 upstream, KIND 2 downstream,
INDEX the quadrant (R336, R454). A region that is full acts as none (notes/assumptions/92.md). -/
def State.spillRegion (s : State) (q : Nat) (down : Bool) (len : Nat) : Bool :=
  match s.regionBytes (if down then 2 else 1) q with
  | some size => decide ((s.tm q down).spilledBytes + 64 * linesOf len ≤ s.cst.usable size)
  | none => false

def Queue.prio (x : Queue) : Nat := (fld x.w0 13 3).toNat
def Queue.weight (x : Queue) : Nat := max 1 (fld x.w0 16 8).toNat
def Queue.cls (x : Queue) : Nat := (fld x.w0 24 3).toNat
def Queue.alloc (x : Queue) : BitVec 14 := fld x.w1 0 14
def Queue.spillEn (x : Queue) : Bool := bit x.w1 16
def Queue.spilled (x : Queue) : Bool := x.frames.any (·.inCistern)

/-- Where a frame of a queue goes: none where it is dropped; in the cistern where the flag is set. -/
def Queue.place (x : Queue) (region : Bool) (f : Frame) : Option Bool :=
  let len := f.bytes.length
  if x.maxKb.toNat * 1024 < x.depth + len then none
  else if f.colour ≠ .green ∧ x.yelKb.toNat * 1024 < x.depth + len then none
  else if x.spilled then (if region then some true else none)
  else if x.troughBytes + len ≤ x.troughKb.toNat * 1024 then some false
  else if x.spillEn ∧ region then some true
  else none

/-- Where a frame for queue j goes: a spill write that finds its request queue full is not made (R336, R460). -/
def State.admission (s : State) (q : Nat) (down : Bool) (j : Nat) (f : Frame) : Option Bool :=
  match ((s.tm q down).queue j).place (s.spillRegion q down f.bytes.length) f with
  | some true => if s.cstRoom (if down then 3 else 2) then some true else none
  | x => x

/-- A queue counts n frames of len bytes on counters c and c + 1. -/
def Queue.count (x : Queue) (c len : Nat) : Queue :=
  { x with cnt := vmod (vmod x.cnt c (· + 1)) (c + 1) (· + BitVec.ofNat 64 len) }

/-- A frame is admitted to queue j of quadrant q, or goes to the sump with cause 15 (R336). What becomes of a frame written to the downstream
share of a trough bank, or moved to the bank of the quadrant that owns its queue, while that bank is full, R24 leaves open: the model holds it,
DESIGN CHOICE (notes/assumptions/92.md). -/
def State.intoQueue (s : State) (q : Nat) (down : Bool) (j : Nat) (f : Frame) : State :=
  let len := f.bytes.length
  match s.admission q down j f with
  | none => (s.modTm q down fun t => t.modQueue j fun x => x.count 2 len).dropFrame q 15 f
  | some c => (s.request (if down then 3 else 2) true (if c then linesOf len else 0)).modTm q down fun t => t.modQueue j fun x =>
      { x.count 0 f.bytes.length with frames := x.frames ++ [{ frame := f, inCistern := c }] }

/-- A frame whose destination is lane n is placed in its queue (R333 to R336). Downstream queues belong to the lanes that are not
line lanes. -/
def State.enqueueAt (s : State) (n : Nat) (f : Frame) : State :=
  let q := quadOf n
  let down := !s.isLine n
  let p : TmPort := vget {} (s.tm q down).ports (sliceOf n)
  let o := p.offset f.queue f.tc
  if p.qcount ≤ o then
    (s.modTm q down fun t => { t with ports := vmod t.ports (sliceOf n) fun p => { p with badOffset := satAdd p.badOffset 1 } }).dropFrame
      q 15 f
  else s.intoQueue q down (p.qbase + o) f

/-! ### Order of service (R337, R338) -/

/-- A queue of a scheduler as it takes part: its number and the length of its head. -/
structure Cand where
  j : Nat
  len : Nat
deriving DecidableEq, Repr

/-- The first frame of a queue that is not yet chosen, with the bytes of it that are. -/
def Queue.head (x : Queue) : Option Queued := x.frames.find? fun e => decide (e.chosen < e.frame.bytes.length)

/-- The queue with other frames: one that has nothing left to choose has its deficit set to 0 (R338). -/
def Queue.withFrames (x : Queue) (fs : List Queued) : Queue :=
  let y := { x with frames := fs }
  { y with deficit := if y.head.isSome then x.deficit else 0 }

/-- The queue takes part in a round (R337). -/
def State.takesPart (s : State) (q : Nat) (down : Bool) (k j : Nat) (committed : Bool) : Bool :=
  let w := ((s.tm q down).queue j).w0
  ((s.shapersOf q down k j).all fun i => ((s.tm q down).shaper i).eligibleAt s.now) &&
  match (if down && s.isSdh (24 * q + k) then none else s.namedShaper q down (bit w 12) (fld w 0 12).toNat) with
  | none => true
  | some i =>
    let x := (s.tm q down).shaper i
    if committed then x.committed s.now else !x.calendar

/-- The next candidate after a queue number, in cyclic order. -/
def nextCand (c : List Cand) (j : Nat) : Option Cand :=
  match c.find? fun x => decide (j < x.j) with
  | some x => some x
  | none => c.head?

/-- DWRR from the pointer on: the queue that sends, with the deficits and the pointer it leaves (R338). The fuel bounds the rounds;
each of them adds at least 128 bytes to the deficit of every candidate. -/
def dwrr (c : List Cand) : Nat → TrafficMgr → Nat → TrafficMgr × Option Nat
  | 0, t, _ => (t, none)
  | fuel + 1, t, ptr =>
    let go (t : TrafficMgr) (ptr : Nat) : TrafficMgr × Option Nat :=
      match nextCand c ptr with
      | none => (t, none)
      | some x => dwrr c fuel (t.modQueue x.j fun y => { y with deficit := y.deficit + y.weight * 128 }) x.j
    match c.find? fun x => decide (x.j = ptr) with
    | some x => if x.len ≤ (t.queue ptr).deficit then (t, some ptr) else go t ptr
    | none => go t ptr

/-- The scheduler's procedure over the queues of a scheduler: the queue that sends next (R337). -/
def State.pick (s : State) (q : Nat) (down : Bool) (k key : Nat) (cands : List Cand) : State × Option Nat :=
  let rounds := [true, false].flatMap fun c => (List.range 8).map fun p => (c, p)
  let live := rounds.findSome? fun r =>
    let cs := cands.filter fun x => decide (((s.tm q down).queue x.j).prio = r.2) && s.takesPart q down k x.j r.1
    if cs.isEmpty then none else some (r.2, cs)
  match live with
  | none => (s, none)
  | some (p, cs) =>
    let t := s.tm q down
    let (t, j) := dwrr cs (cs.length * 160 + 1) t (Tab.get 0 t.ptr (8 * key + p))
    match j with
    | none => (s, none)
    | some j => (s.modTm q down fun _ => { t with ptr := Tab.put 0 t.ptr (8 * key + p) j }, some j)

/-- len bytes of queue j have been chosen, the first of their frame or not: its deficit and its shapers are charged (R338, R339, R341). -/
def State.charge (s : State) (q : Nat) (down : Bool) (k j len : Nat) (first : Bool := true) : State :=
  let sh := s.shapersOf q down k j
  s.modTm q down fun t =>
    sh.foldl (fun t i => t.modShaper i fun x => x.charge s.now len first)
      (t.modQueue j fun y => { y with deficit := if y.head.isSome then y.deficit - len else 0 })

/-! ### Policers (R345 to R348) -/

def Policer.cir (x : Policer) : Nat := (fld (vget 0 x.w 1) 0 24).toNat
def Policer.cbs (x : Policer) : Int := ((fld (vget 0 x.w 2) 0 24).toNat : Int) * tokByte
def Policer.pir (x : Policer) : Nat := max x.cir (fld (vget 0 x.w 3) 0 24).toNat
def Policer.pbs (x : Policer) : Int := ((fld (vget 0 x.w 4) 0 24).toNat : Int) * tokByte
def Policer.srtcm (x : Policer) : Bool := bit (vget 0 x.w 0) 0

/-- The buckets brought up to the present: in srTCM the excess bucket takes what the committed one has no room for (RFC 2697). -/
def Policer.refill (x : Policer) (now : Nat) : Policer :=
  let ticks := (now - x.at_) / 16
  let (c, cr) := tokFill x.cir ticks x.cRem
  let (p, pr) := tokFill x.pir ticks x.pRem
  let y := { x with at_ := x.at_ + ticks * 16, cRem := cr, pRem := pr }
  if x.srtcm then { y with cTok := min x.cbs (x.cTok + c), pTok := min x.pbs (x.pTok + max 0 (x.cTok + c - x.cbs)) }
  else { y with cTok := min x.cbs (x.cTok + c), pTok := min x.pbs (x.pTok + p) }

/-- Both buckets full (R348). -/
def Policer.full (x : Policer) (now : Nat) : Policer := { x with cTok := x.cbs, pTok := x.pbs, cRem := 0, pRem := 0, at_ := now / 16 * 16 }

/-- The colour of a frame of n tokens with a pre-colour (RFC 2697, RFC 2698), and the policer after it. -/
def Policer.meter (x : Policer) (n : Int) (pre : Colour) : Policer × Colour :=
  if x.srtcm then
    if pre = .green ∧ n ≤ x.cTok then ({ x with cTok := x.cTok - n }, .green)
    else if pre ≠ .red ∧ n ≤ x.pTok then ({ x with pTok := x.pTok - n }, .yellow)
    else (x, .red)
  else
    if pre = .red ∨ x.pTok < n then (x, .red)
    else if pre = .yellow ∨ x.cTok < n then ({ x with pTok := x.pTok - n }, .yellow)
    else ({ x with cTok := x.cTok - n, pTok := x.pTok - n }, .green)

/-- A 2-bit colour code of a map: 3 acts as 2 (R346). -/
def colourOf (c : Nat) : Colour := if c = 0 then .green else if c = 1 then .yellow else .red

/-- The pre-colour of a frame (R346). -/
def Quad.preColour (x : Quad) (p : Policer) (h : Hdr) : Colour :=
  let w := vget 0 p.w 0
  if !bit w 1 then .green
  else
    let src := (fld w 2 2).toNat
    if src = 1 then
      match h.tags with
      | [] => .green
      | t :: _ => colourOf (fld x.pcpMap (2 * (fld t 13 3).toNat) 2).toNat
    else if src = 2 then
      if h.ipVer = 0 then .green
      else
        let d := (fld h.tos 2 6).toNat
        colourOf (fld (vget 0 x.dscpMap (d / 16)) (2 * (d % 16)) 2).toNat
    else
      match h.tags with
      | [] => .green
      | t :: _ => if bit t 12 then .yellow else .green

/-- Counter of a colour: words 8 and on (R355). -/
def Colour.index : Colour → Nat
  | .green => 0
  | .yellow => 1
  | .red => 2

/-- A frame is policed once, by the policer in force (R345, R347): the colour, and whether it is dropped. -/
def State.police (s : State) (q : Nat) (f : Frame) (len : Nat) : State × Colour × Bool :=
  match f.policer with
  | none => (s, .green, false)
  | some i =>
    if s.policers q ≤ i.toNat then (s, .green, false)
    else
      let x : Quad := vget {} s.quads q
      let p := (Tab.get {} x.policers i.toNat).refill s.now
      let (p, c) := p.meter (len * tokByte) (x.preColour p f.hdr)
      let p := { p with cnt := vmod p.cnt c.index (· + 1) }
      let w := vget 0 p.w 0
      (s.modQuadN q fun x => { x with policers := Tab.put {} x.policers i.toNat p }, c,
        (c == .red && bit w 5) || (c == .yellow && bit w 4))

end Sys2Proof.Machine
end

