-- ==== Sys2Proof/Machine/Traffic.lean ====
section
/-!
DEFINITION. The traffic commands: a frame reaches its queue (R211, R335, R336), and shapers become eligible (R342, R343).
-/
namespace Sys2Proof.Machine

/-- Lane n is a member of the mask of an enabled wavelength bond group (R203). -/
def State.groupOf (s : State) (n : Nat) : Option Nat :=
  firstBelow 8 fun g => bit (vget {} s.cst.groups g).w0 0 && bit (vget {} s.cst.groups g).members n

/-- The line lane that a spread entry names can take the frame (R211). -/
def State.spreadUsable (s : State) (b : Byte) : Bool :=
  let n := (fld b 0 7).toNat
  if h : n < 96 then
    let l := s.lanes[n]
    bit b 7 && s.isLine n && (l.act.state == .o51 || l.act.state == .o52) &&
    ((s.groupOf n).isNone || l.bond.state == .up || l.bond.state == .indep)
  else false

/-- A frame whose destination is settled reaches the quadrant that owns it (R24, R25, R87, R211, R335). -/
def State.arrive (s : State) (q : Nat) (f : Frame) : State :=
  match f.dest with
  | none => s.dropFrame q 12 f
  | some n =>
    if s.isDark (quadOf n) || !s.isOn (dQuad (quadOf n)) then s.dropFrame (quadOf n) 16 f
    else if bit (vget {} s.lanes n).com.prbs 2 then s.dropFrame (quadOf n) 20 f
    else
      match f.spreadLane with
      | some b => if s.spreadUsable b then s.enqueueAt n f else s.dropFrame q 13 f
      | none => s.enqueueAt n f

/-- ENQUEUE: the oldest frame of quadrant q whose destination is settled (R335, R336). -/
def execEnqueue (q : QuadId) (s : State) : Res :=
  .next (match (s.quad q).enqueueQ with
    | [] => s
    | f :: rest => ((s.modQuad q fun x => { x with enqueueQ := rest }).arrive q.val f).floatsAll)

/-- CALENDAR_SLOT: the wheel slot of a calendar shaper is reached (R343). -/
def execCalendarSlot (q : QuadId) (down : Bool) (sh : Nat) (s : State) : Res :=
  .next (if sh < s.shaperCount q.val down then
      s.modTm q.val down fun t => t.modShaper sh fun x =>
        if x.calendar && x.slotStarts s.now then { x with eligible := true, slot := none } else x
    else s)

/-- WHEEL_REVOLUTION: parked shapers less than the horizon away are placed on the wheel (R343). -/
def execWheelRevolution (q : QuadId) (down : Bool) (s : State) : Res :=
  .next (s.modTm q.val down fun t =>
    { t with shapers := Tab.mapAll {} t.shapers fun _ x => if x.parked then x.place s.now else x })

/-- SHAPER_ELIGIBLE: a dual-bucket shaper's buckets have refilled (R342). -/
def execShaperEligible (q : QuadId) (down : Bool) (sh : Nat) (s : State) : Res :=
  .next (if sh < s.shaperCount q.val down then
      s.modTm q.val down fun t => t.modShaper sh fun x =>
        if x.calendar then x
        else
          let y := x.refill s.now
          { y with eligible := decide (0 ≤ y.pTok) }
    else s)

end Sys2Proof.Machine
end

