-- ==== Sys2Proof/Machine/LineOps.lean ====
section
/-!
DEFINITION. What the framer, the steward, the pump and the bond state machine of a line lane do to one another (R110, R112, R127,
R141, R146, R183, R184, R188, R203, R205): every transition of a line lane that several commands share stands here once.
-/
namespace Sys2Proof.Machine

/-! ### Parts of a line lane -/

def State.modDs (s : State) (n : LaneId) (f : LineDs → LineDs) : State := s.modLane n fun l => { l with ds := f l.ds }
def State.modAct (s : State) (n : LaneId) (f : Act5 → Act5) : State := s.modLane n fun l => { l with act := f l.act }
def State.modPump (s : State) (n : LaneId) (f : Pump → Pump) : State := s.modLane n fun l => { l with pump := f l.pump }
def State.modBond (s : State) (n : LaneId) (f : Member → Member) : State := s.modLane n fun l => { l with bond := f l.bond }

/-- Counter c of R130 rises by k. -/
def State.dsCnt (s : State) (n : LaneId) (c : Nat) (k : Nat := 1) : State :=
  s.modDs n fun d => { d with cnt := vmod d.cnt c (· + BitVec.ofNat 64 k) }

/-- Counter 0x20 + c of R171 rises. -/
def State.actCnt (s : State) (n : LaneId) (c : Nat) : State := s.modAct n fun a => { a with cnt := vmod a.cnt c (· + 1) }

/-- Counter c of R196 rises by k. -/
def State.usCnt (s : State) (n : LaneId) (c : Nat) (k : Nat := 1) : State :=
  s.modPump n fun p => { p with cnt := vmod p.cnt c (· + BitVec.ofNat 64 k) }

/-- Event 8n + k. -/
def laneEv (n : LaneId) (k : Nat) : Nat := 8 * n.val + k

/-- The quadrant of a lane as a number of a quadrant. -/
def quadFin (n : LaneId) : QuadId := ⟨n.val / 24, by omega⟩

/-- The lane of slice k of quadrant q. -/
def laneOf (q : QuadId) (k : Nat) : Option LaneId := if h : k < 24 then some ⟨24 * q.val + k, by omega⟩ else none

/-- The steward of a lane's quadrant. -/
def State.steward (s : State) (q : QuadId) : Steward := s.stw[q.val]
def State.modStw (s : State) (q : QuadId) (f : Steward → Steward) : State :=
  { s with stw := s.stw.set q.val (f s.stw[q.val]) }

/-- ONU_ID_VALID. -/
def LineDs.onuValid (d : LineDs) : Bool := bit d.ctl 10

/-- DISABLED of a lane, in the vault (R141). -/
def State.disabled (s : State) (n : LaneId) : Bool := bit s.vault.disabled n.val

/-! ### Ports and keys of a lane -/

/-- Fields of a port-table entry (R137). -/
def portId (e : BitVec 20) : BitVec 16 := fld e 0 16
def entryValid (e : BitVec 20) : Bool := bit e 16
def portKind (e : BitVec 20) : Nat := (fld e 17 2).toNat
def portEnc (e : BitVec 20) : Bool := bit e 19

/-- The valid entry with the lowest index that holds a port ID (R124). -/
def LineDs.portEntry (d : LineDs) (port : BitVec 16) : Option (BitVec 20) :=
  (d.ports.find? fun e => entryValid e.2 && portId e.2 == port).map (·.2)

/-- The keys of a lane (R154): from its session key once derived, else from the default derivation. -/
def State.tcKey (s : State) (n : LaneId) (which : Nat) : List Byte :=
  let l := s.lane n
  let reg := (l.act.regHeld.toList.flatMap fun w => leBytes 4 w.toNat)
  let sn : W64 := (l.act.snVendor ++ l.act.snVssn).cast (by decide)
  Config.tcDerived which ((Tab.find s.key.tcSk n.val).getD (Config.tcSession none reg sn l.ds.ponId))

/-! ### Bond-control messages (R201, R202) -/

/-- The port of KIND 3 of lane n: the valid entry with the lowest index. -/
def State.bondPortId (s : State) (n : LaneId) : Option (BitVec 16) :=
  ((s.lane n).ds.ports.find? fun e => entryValid e.2 && portKind e.2 == 3).map fun e => portId e.2

/-- Lane n has a valid port entry of KIND 3. -/
def State.bondPort (s : State) (n : LaneId) : Bool := (s.bondPortId n).isSome

/-- A message of R201 without its MIC: 40 bytes. -/
def bondBytes (type : Byte) (token : W32) (pos txn : Byte) (body : List Byte) : List Byte :=
  [1#8, type, 0, 0] ++ beBytes 4 token.toNat ++ [pos, txn, 0, 0] ++ padTo 28 body

/-- The MIC of the 40 bytes of a message (R201): 8 bytes. -/
def bondMic (key m : List Byte) : List Byte := padTo 8 (cmac key m)

/-- A bond-control message leaves on lane n, under a transaction number of its own or an echoed one (R201). A lane without a KIND 3
port sends none; of several, the one with the lowest index is taken. -/
def State.sendBond (s : State) (n : LaneId) (type : Byte) (token : W32) (pos : Option (BitVec 6)) (echo : Option Byte) (body : List Byte) :
    State :=
  match s.bondPortId n with
  | none => s
  | some port =>
    let txn := (s.lane n).bond.txn
    let m := bondBytes type token ((pos.map (·.setWidth 8)).getD 0xFF#8) (echo.getD txn) body
    (s.modBond n fun b => { b with txn := b.txn + 1 }).emit (.bondMsg n port (m ++ bondMic (s.tcKey n 0) m))

/-- CAPS (R202): sent and not yet answered. -/
def State.sendCaps (s : State) (n : LaneId) : State :=
  (s.sendBond n 1 0 none none
    ([48, 16, 3, BitVec.ofNat 8 n.val] ++ beBytes 4 s.sys.snBase.toNat ++ beBytes 4 s.sys.snVendor.toNat)).modBond n
      fun b => { b with caps := b.caps + 1 }

/-! ### Bond groups (R203, R205) -/

def State.group (s : State) (g : Nat) : Group := vget {} s.cst.groups g
def State.modGroup (s : State) (g : Nat) (f : Group → Group) : State :=
  { s with cst := { s.cst with groups := vmod s.cst.groups g f } }

/-- Counter c of R220 rises by k. -/
def State.grpCnt (s : State) (g c : Nat) (k : Nat := 1) : State :=
  s.modGroup g fun x => { x with cnt := vmod x.cnt c (· + BitVec.ofNat 32 k) }

/-- The lanes of a mask, ascending. -/
def maskLanes (m : BitVec 96) : List LaneId := (List.finRange 96).filter fun n => bit m n.val

/-- The members of wavelength group g. -/
def State.memberLanes (s : State) (g : Nat) : List LaneId := maskLanes (s.group g).members

def State.mstate (s : State) (n : LaneId) : MState := (s.lane n).bond.state

/-- What R205 makes of a group's state after a member changed; `left` says that the member has left UP, without which FULL stays. -/
def State.groupNext (s : State) (g : Nat) (left : Bool) : GState :=
  let ms := s.memberLanes g
  let up := ms.any fun n => s.mstate n == .up
  let full := up && ms.all fun n => s.mstate n == .up || s.mstate n == .indep
  match (s.group g).gstate with
  | .down => .down
  | .full => if !left then .full else if up then .partial_ else .forming
  | _ => if full then .full else if up then .partial_ else .forming

/-- A group changes its state: event 960 + g with the old and the new state and the lane that caused it (R205, R217, R219). -/
def State.setGState (s : State) (g : Nat) (st : GState) (sev : BitVec 3) (lane : Option Nat) : State :=
  let old := (s.group g).gstate
  (s.modGroup g fun x => { x with gstate := st }).report (960 + g) sev
    ([old.code.setWidth 8, st.code.setWidth 8] ++ (lane.map fun n => BitVec.ofNat 8 n).toList)

/-- A wavelength group's state is judged after a member has changed (R205). The severity of FORMING to PARTIAL is not given: free. -/
def State.judgeGroup (s : State) (g : Nat) (left : Bool) (lane : Option Nat) : State :=
  let st := s.groupNext g left
  if st = (s.group g).gstate then s
  else if (s.group g).gstate = .forming ∧ st = .partial_ then
    let sev := BitVec.ofNat 3 ((s.freeBits 3).toNat % 5)
    s.tookFree.setGState g st sev lane
  else s.setGState g st (if st = .full then 1 else 2) lane

/-- The token returns to 0 when no member is left outside IDLE and INDEP (R203). -/
def State.judgeToken (s : State) (g : Nat) : State :=
  if (s.memberLanes g).all fun n => s.mstate n == .idle || s.mstate n == .indep then
    s.modGroup g fun x => { x with token := 0, joinSkew := none }
  else s

/-- Lane n's member state becomes st, and its group is judged. -/
def State.setMember (s : State) (n : LaneId) (st : MState) : State :=
  let left := s.mstate n == .up && st != .up
  let s := s.modBond n fun m => { m with state := st }
  match s.groupOf n.val with
  | some g => (s.judgeGroup g left (some n.val)).judgeToken g
  | none => s

/-- The first row of R203: a member in IDLE whose lane is in O5.1 with a KIND 3 port enters PROBE and sends CAPS. -/
def State.probe (s : State) (n : LaneId) : State :=
  if s.isLine n.val && (s.groupOf n.val).isSome && s.mstate n == .idle && (s.lane n).act.state == .o51 && s.bondPort n then
    ((s.modBond n fun b => { b with caps := 0 }).setMember n .probe).sendCaps n
  else s

/-- The member releases its POS (R203). -/
def State.freePos (s : State) (n : LaneId) : State := s.modBond n fun m => { m with pos := none, bypass := false }

/-- A member in UP or SKEWED is lost (R203). -/
def State.memberLost (s : State) (n : LaneId) : State :=
  match s.groupOf n.val with
  | some g => if s.mstate n = .up ∨ s.mstate n = .skewed then (s.grpCnt g 5).setMember n .lost else s
  | none => s

/-- A member falls to IDLE where its ONU-ID is released (R203). -/
def State.memberIdle (s : State) (n : LaneId) : State := if s.mstate n = .idle then s else (s.freePos n).setMember n .idle

/-! ### Bursts that end early (R146, R183, R184, R188) -/

/-- The queues of a burst's pieces. -/
def Burst.queues (b : Burst) : List Nat :=
  (b.filled.flatMap (·.pieces)).filterMap fun p => match p with | .frame q .. => some q | .idle _ => none

/-- Bytes of a length padded to a multiple of 4 (R122). -/
def pad4 (n : Nat) : Nat := (n + 3) / 4 * 4

/-- Bytes of queue j that a burst holds. -/
def Burst.heldOf (b : Burst) (j : Nat) : Nat :=
  ((b.filled.flatMap (·.pieces)).map fun p => match p with | .frame q _ len .. => if q = j then len else 0 | .idle _ => 0).sum

/-- Adjoining idle space is one idle frame (R186). -/
def mergeIdle : List Piece → List Piece
  | [] => []
  | .idle a :: t =>
    match mergeIdle t with
    | .idle b :: r => .idle (a + b) :: r
    | r => .idle a :: r
  | p :: t => p :: mergeIdle t

/-- A burst with its pieces of the given queues replaced by idle frames (R183, R186). -/
def Burst.giveUp (b : Burst) (qs : List Nat) : Burst :=
  { b with filled := b.filled.map fun f => { f with pieces := mergeIdle (f.pieces.map fun p =>
      match p with
      | .frame q _ len .. => if qs.contains q then .idle (8 + pad4 len) else p
      | .idle _ => p) } }

/-- The frames of a queue with the first held bytes after those sent marked as chosen. -/
def rechoose : List Queued → Nat → List Queued
  | [], _ => []
  | e :: t, held =>
    let k := min (e.frame.bytes.length - e.sent) held
    { e with chosen := e.sent + k } :: rechoose t (held - k)

/-- The bursts that stay when those with the ids `gone` end, in the order of their serve times: each gives up the queues qs of the
bursts that ended before it, and, where one of those held a message, its own. -/
def dropGone (gone : List Nat) : List Nat → Bool → List Burst → List Burst
  | _, _, [] => []
  | qs, msg, b :: t =>
    if gone.contains b.id then dropGone gone (b.queues ++ qs) (msg || (b.msg.isSome && !b.serial)) t
    else
      let c := b.giveUp qs
      (if msg && !b.serial then { c with msg := none } else c) :: dropGone gone qs msg t

/-- Bursts of lane n that end without having sent their frames: the frames stay at the head of their queues, later bursts give up
what they hold of the same queues, messages held stay queued, and later bursts send the idle message (R146, R183); a first report
that they held has not been made (R189). `gone` are the ids of the bursts that end. -/
def State.dropBursts (s : State) (n : LaneId) (gone : List Nat) : State :=
  let bs := (s.lane n).pump.bursts
  let ended := bs.filter fun b => gone.contains b.id
  let qs := (ended.flatMap (·.queues)).eraseDups
  let firsts := ((ended.flatMap (·.filled)).filter (·.first)).map (·.alloc)
  let keep := dropGone gone [] false bs
  let s := s.modPump n fun p => { p with bursts := keep, reported := p.reported.filter fun a => !firsts.contains a }
  let s := s.modTm (quadOf n.val) false fun t => qs.foldl (fun t j => t.modQueue j fun x =>
    { x with frames := rechoose x.frames ((keep.map fun b => b.heldOf j).sum) }) t
  s.modAct n fun a => { a with usQ := a.usQ.map fun m =>
    match m.held with
    | some i => if keep.any fun b => b.id == i && b.msg.isSome then m else { m with held := none }
    | none => m }

/-- Bursts of lane n in GRANTED and ASSEMBLING are discarded: no transmit (R184, counter 9). -/
def State.discardBursts (s : State) (n : LaneId) : State :=
  let gone := (((s.lane n).pump.bursts).filter fun b => b.state != .serving).map (·.id)
  (s.dropBursts n gone).usCnt n 9 gone.length

/-- A frame held in the trough, and one of which no burst holds anything. -/
def Queued.inTrough (f : Queued) : Bool := !f.inCistern
def Queued.idleInTrough (f : Queued) : Bool := !f.inCistern && decide (f.chosen ≤ f.sent)

/-- Frames of a traffic manager's queues that meet p: the bytes of each that have not left. -/
def TrafficMgr.held (t : TrafficMgr) (p : Queued → Bool) : List Nat :=
  t.queues.flatMap fun e => (e.2.frames.filter p).map fun f => f.frame.bytes.length - f.sent

/-- A queue without the frames that meet p; one that empties loses its deficit (R338). -/
def Queue.without (x : Queue) (p : Queued → Bool) : Queue :=
  x.withFrames (x.frames.filter fun f => !p f)

/-- The same manager without them. -/
def TrafficMgr.dropHeld (t : TrafficMgr) (p : Queued → Bool) : TrafficMgr :=
  { t with queues := t.queues.map fun e => (e.1, e.2.without p) }

/-- In the dark window, what a burst that has ended leaves in the upstream queues of its quadrant is discarded (R53). -/
def State.darkLeft (s : State) (q : Nat) : State :=
  if s.isDark q then
    let fs := (s.tm q false).held Queued.idleInTrough
    ((s.sumpN q 16 fs.length fs.sum).modTm q false fun t => t.dropHeld Queued.idleInTrough).floats q
  else s

/-- The head of queue j loses len bytes that have left; a frame whose last byte has left is gone. -/
def Queue.leave (x : Queue) (len : Nat) : Queue :=
  match x.frames with
  | [] => x
  | e :: t =>
    if e.frame.bytes.length ≤ e.sent + len then { x with frames := t }
    else { x with frames := { e with sent := e.sent + len, chosen := max e.chosen (e.sent + len) } :: t }

/-- k bits of lane n are inverted as they leave (R89). -/
def State.sendInverted (s : State) (n : LaneId) (k : Option Nat) : State :=
  match k with
  | some k => s.emit (.inverted n k)
  | none => s

/-- A frame of a cut burst that has begun to leave is lost, and the rest of its SDU with it (R188, counter 21, sump cause 17); idle
space that has begun to leave is counted. -/
def State.losePiece (s : State) (n : LaneId) (p : Piece) : State :=
  match p with
  | .idle k => s.usCnt n 13 k
  | .frame j off len .. =>
    let q := quadOf n.val
    match ((s.tm q false).queue j).frames with
    | [] => s
    | e :: t =>
      -- A later fragment of an SDU that is lost already is part of the rest that was counted with it.
      if e.sent ≠ off then s else
      let rest := e.frame.bytes.length - (e.sent + len)
      let s := (s.usCnt n 21).toSump q 17 len
      let s := s.modTm q false fun tm => tm.modQueue j fun x => x.withFrames t
      if 0 < rest then (s.usCnt n 21).toSump q 17 rest else s

/-- The message that burst id holds has left (R146, counter 18). -/
def State.msgLeft (s : State) (n : LaneId) (id : Nat) : State :=
  (s.modAct n fun a => { a with usQ := a.usQ.filter fun m => decide (m.held ≠ some id) }).usCnt n 18

/-- A PLOAMu field has left: its message leaves the queue, or the idle message is counted; a serial-number response is counted too
(R146, R179, R190). -/
def State.ploamuLeft (s : State) (n : LaneId) (b : Burst) : State :=
  let s := if b.serial then s.usCnt n 22 else s
  if !b.ploamu then s
  else if b.msg.isSome then s.msgLeft n b.id
  else s.usCnt n 19

/-- Of the fields of filled grants in their order (a DBRu where there is one, then the pieces), the first k: their pieces, how many
DBRus are among them, and the grants with the first reports among them marked as made. -/
def begunFields : List Filled → Nat → List Piece × Nat × List Filled
  | [], _ => ([], 0, [])
  | f :: t, k =>
    let d := if f.bufOcc.isSome ∧ 0 < k then 1 else 0
    let ps := f.pieces.take (k - d)
    let (qs, n, fs) := begunFields t (k - d - ps.length)
    (ps ++ qs, d + n, { f with first := f.first && d == 0 } :: fs)

/-- Fields of a burst after its FS header: PLOAMu, DBRus and pieces. -/
def Burst.fields (b : Burst) : Nat :=
  (if b.ploamu then 1 else 0) + (b.filled.map fun f => (if f.bufOcc.isSome then 1 else 0) + f.pieces.length).sum

/-- Burst b in SERVING is cut after k of its fields have begun to leave (R184, R188): these count as sent, but for the frames, which are
lost. -/
def State.cutAfter (s : State) (n : LaneId) (b : Burst) (k : Nat) : State :=
  let u := if b.ploamu then 1 else 0
  let s := s.usCnt n 3
  let s := if 0 < k ∧ b.ploamu then s.ploamuLeft n b else s
  let s := if 0 < k then s.sendInverted n b.inject else s
  let (ps, d, fs) := begunFields b.filled (k - u)
  let s := (ps.foldl (fun s p => s.losePiece n p) s).usCnt n 17 d
  let s := s.modPump n fun p => { p with bursts := p.bursts.map fun x =>
    if x.id = b.id then { x with filled := fs, msg := if 0 < k then none else x.msg } else x }
  s.dropBursts n [b.id]

/-- The bursts in SERVING on lane n are cut (R184). How many fields of the first have begun to leave is a free value, since the model
gives commands no time (notes/assumptions/1.md); a second one has only its TXEN_L_n active (R79). -/
def State.cutBurst (s : State) (n : LaneId) : State :=
  match (s.lane n).pump.bursts.filter fun b => b.state == .serving with
  | [] => s
  | b :: later =>
    let k := (s.freeBits 16).toNat % (b.fields + 1)
    let s := s.tookFree.cutAfter n b k
    let s := later.foldl (fun s c => s.cutAfter n c 0) s
    (s.modCom n fun c => { c with txen := false }).darkLeft (quadOf n.val)

/-- No burst of lane n may be served any more: those waiting are discarded, the one in progress is cut (R76, R81, R159). -/
def State.stopBursts (s : State) (n : LaneId) : State := (s.discardBursts n).cutBurst n

/-! ### Key slots (R128, R156) -/

/-- The first k pieces of filled grants have been encrypted with what the key slots hold. -/
def encryptFields (keys : Vector (Option (List Byte)) 4) : List Filled → Nat → List Filled
  | [], _ => []
  | f :: t, k =>
    let sealed (p : Piece) : Piece :=
      match p with
      | .frame q off len last port key bytes none =>
        .frame q off len last port key bytes (if key = 0 then none else some (vget none keys (key.toNat - 1)))
      | p => p
    { f with pieces := (f.pieces.take k).map sealed ++ f.pieces.drop k } :: encryptFields keys t (k - f.pieces.length)

/-- Before a key slot of lane n changes: a free number of the pieces of the burst in progress have had their headers encrypted with the
slots' present content (R188). -/
def State.encryptBegun (s : State) (n : LaneId) : State :=
  match (s.lane n).pump.bursts.find? fun b => b.state == .serving with
  | none => s
  | some b =>
    let k := (s.freeBits 16).toNat % ((b.filled.map (·.pieces.length)).sum + 1)
    s.tookFree.modPump n fun p => { p with bursts := p.bursts.map fun x =>
      if x.id = b.id then { x with filled := encryptFields (s.lane n).ds.keys x.filled k } else x }

/-- US_KEY_IDX becomes 0 when the slot that it names is emptied (R156). -/
def State.emptyKey (s : State) (n : LaneId) (i : Nat) : State :=
  let s := (s.encryptBegun n).modDs n fun d => { d with keys := vset d.keys i none }
  if (s.lane n).act.usKeyIdx.toNat = i + 1 then s.modAct n fun a => { a with usKeyIdx := 0 } else s

/-- A key is installed into slot i (R155, R157). -/
def State.installKey (s : State) (n : LaneId) (i : Nat) (key : List Byte) : State :=
  let s := (s.encryptBegun n).modDs n fun d => { d with keys := vset d.keys i (some key) }
  s.modAct n fun a => { a with keyUsed := setBit a.keyUsed i false }

/-! ### Activation (R141) -/

/-- Upstream PLOAM message queued (R146). -/
def State.queuePloam (s : State) (n : LaneId) (m : UsPloam) : State :=
  let lostKey (k : UsPloam) (a : Act5) : Act5 :=
    match k with
    | .keyReport k w => { a with newKeys := a.newKeys.eraseP fun x => x.k == k && x.wrapped == w }
    | _ => a
  let a := (s.lane n).act
  if a.usQ.length < 4 then s.modAct n fun a => { a with usQ := a.usQ ++ [{ msg := m }] }
  else
    match a.usQ.find? fun x => x.held.isNone with
    | some old =>
      (s.modAct n fun a => lostKey old.msg { a with usQ :=
        (a.usQ.eraseIdx (a.usQ.findIdx fun x => x.held.isNone)) ++ [{ msg := m }] }).actCnt n 2
    | none => (s.modAct n fun a => lostKey m a).actCnt n 2

/-- The tune request of a lane that leaves O8 unanswered is withdrawn (R152). -/
def State.withdrawTune (s : State) (n : LaneId) : State :=
  s.modStw (quadFin n) fun x => { x with tuneReqs := x.tuneReqs.filter fun r => r.scan || r.slice.toNat != n.val % 24 }

/-- The steward's state changes, with the events of R166. -/
def State.setAct (s : State) (n : LaneId) (st : ActState) : State :=
  let old := (s.lane n).act.state
  let s := if old == .o8 && st != .o8 then s.withdrawTune n else s
  let c := (s.steward (quadFin n)).ctl
  let s := s.modAct n fun a => { a with state := st, to1 := none, to2 := none, to4 := none, to5 := none }
  let s := s.reportIf (old != st && (bit c 8 || (bit c 9 && (old == .o51 || st == .o51)))) (laneEv n 6) 1 [2]
  if st = .o51 then s.probe n else s

/-- A timer field in units of ms: 0 acts as 1 (R144). -/
def Steward.timer (x : Steward) (lo unit : Nat) : Nat := max 1 (fld x.timers lo 8).toNat * unit

/-- The frames now in the queues of lane n are no backlog for the first report of an allocation, and none is offside (R187, R189). -/
def State.ageQueues (s : State) (n : LaneId) : State :=
  let q := quadOf n.val
  let p : TmPort := vget {} (s.tm q false).ports (sliceOf n.val)
  s.modTm q false fun t => { t with queues := t.queues.map fun e =>
    (e.1, if p.owns e.1 then { e.2 with frames := e.2.frames.map fun f => { f with old := true, miss := 0 } } else e.2) }

/-- The watchdog trips (R159): the burst is cut as under TX_SQUELCH, ROGUE is set and the lane enters O7. -/
def State.rogueTrip (s : State) (n : LaneId) : State :=
  let s := (s.cutBurst n).modCom n fun c => { c with txen := false }
  let s := s.modAct n fun a => { a with rogue := true, lastExit := 6, tuning := none }
  ((s.setAct n .o7).actCnt n 7).report (laneEv n 3) 3

/-- Queues of lane n that feed an allocation (R339). -/
def State.allocQueues (s : State) (n : LaneId) (alloc : BitVec 14) : List Nat :=
  let q := quadOf n.val
  let p : TmPort := vget {} (s.tm q false).ports (sliceOf n.val)
  (List.range p.qcount).filterMap fun i =>
    let j := p.qbase + i
    if j < s.usQueues q ∧ ((s.tm q false).queue j).alloc = alloc then some j else none

/-- An allocation ID leaves the filter: the count of its offside frame is cleared (R187). -/
def State.clearMiss (s : State) (n : LaneId) (alloc : BitVec 14) : State :=
  s.modTm (quadOf n.val) false fun t => (s.allocQueues n alloc).foldl (fun t j =>
    t.modQueue j fun x => { x with frames := x.frames.map fun f => { f with miss := 0 } }) t

/-- Releasing the ONU-ID (R141, R149, R187, R195, R203). -/
def State.releaseOnu (s : State) (n : LaneId) : State :=
  let s := (s.encryptBegun n).modDs n fun d => { d with ctl := setBit d.ctl 10 false, keys := Vector.replicate 4 none }
  let s := s.modPump n fun p => { p with filter := Vector.replicate 32 none, profiles := Vector.replicate 4 none, reported := [] }
  let s := s.ageQueues n
  let s := s.modAct n fun a => { a with usKeyIdx := 0, eqd := 0, eqdHeld := false }
  s.memberIdle n

/-- The rows of O1.1 (R141): O7 where DISABLED, O1.2 where the framer is in SYNC with ADMIN and without ROGUE. -/
def State.fromO11 (s : State) (n : LaneId) : State :=
  let l := s.lane n
  if l.act.state != .o11 then s
  else if s.disabled n then s.setAct n .o7
  else if l.ds.sync == .sync && l.act.admin && !l.act.rogue && s.isLine n.val then
    (s.setAct n .o12).modPump n fun p => { p with profiles := Vector.replicate 4 none }
  else s

/-- Entry to O1.1 (R141, R149): EqD is 0 there; a listed tune request of the lane stands until it is acknowledged (R152). -/
def State.toO11 (s : State) (n : LaneId) : State :=
  ((s.setAct n .o11).modAct n fun a => { a with eqd := 0, eqdHeld := false, tuning := none }).fromO11 n

/-- Entry to O1.1 with the ONU-ID released and a LAST_EXIT. -/
def State.exitTo11 (s : State) (n : LaneId) (why : BitVec 3) : State :=
  ((s.releaseOnu n).modAct n fun a => { a with lastExit := why }).toO11 n

/-- Entry to O6 (R141): bursts stop, a pending tuning request is dropped, TO2 starts. -/
def State.toO6 (s : State) (n : LaneId) : State :=
  ((s.setAct n .o6).modAct n fun a =>
    { a with tuning := none, to2 := some ((s.steward (quadFin n)).timer 8 10) }).memberLost n

/-- The row of O8 that leads to O9 (R141). -/
def State.fromO8 (s : State) (n : LaneId) : State :=
  let l := s.lane n
  if l.act.state == .o8 && l.act.tuned && l.act.profileSeen && l.ds.sync == .sync then
    (s.setAct n .o9).modAct n fun a => { a with to5 := some ((s.steward (quadFin n)).timer 24 10) }
  else s

/-- NOISE_MODE follows signal detect and PARK (R73). -/
def LaneCommon.judgeMode (c : LaneCommon) : LaneCommon := { c with noiseMode := !c.sigdet || bit c.ctl 2 }

/-- The framer has entered SYNC (R110, R141, R153). -/
def State.syncGained (s : State) (n : LaneId) : State :=
  let s := if (s.lane n).act.scanning then
      (s.modAct n fun a => { a with scanning := false }).modCom n fun c => ({ c with ctl := setBit c.ctl 2 false } : LaneCommon).judgeMode
    else s
  match (s.lane n).act.state with
  | .o11 => s.fromO11 n
  | .o6 => s.setAct n .o51
  | .o8 => s.fromO8 n
  | _ => s

/-- The framer has left SYNC: reassemblies are abandoned (R127), the steward and the bond member follow (R141, R203). -/
def State.syncLost (s : State) (n : LaneId) : State :=
  let rs := (s.lane n).ds.reasm
  let s := (rs.foldl (fun s r => s.toSump (quadOf n.val) 2 r.data.length) s).dsCnt n 24 rs.length
  let s := s.modDs n fun d => { d with reasm := [], located := false, delineated := false, ponLatched := false, winCorr := 0, winUnc := 0 }
  let s := s.memberLost n
  match (s.lane n).act.state with
  | .o12 => s.toO11 n
  | .o23 => s.toO11 n
  | .o4 => s.exitTo11 n 1
  | .o51 => s.toO6 n
  | .o52 => s.toO6 n
  | _ => s

/-- The framer goes to HUNT (R110, last row, and R112). LOF_SEEN is set for every cause, HUNT_RESTART and one that comes while LOF is 1 already
among them: DESIGN CHOICE (notes/assumptions/91.md). -/
def State.huntLine (s : State) (n : LaneId) : State :=
  let was := (s.lane n).ds.sync
  let s := s.modDs n fun d => { d with sync := .hunt, cands := [], misses := 0, lofSeen := true }
  if was = .sync then s.syncLost n else s

/-! ### Item 0x04 (R150) -/

/-- The fibre round trip in sixteenths of a nanosecond. -/
def Act5.roundTrip (a : Act5) : W32 :=
  if a.teqd = 0 ∨ !a.eqdHeld then 0xFFFFFFFF#32
  else
    let bits : Int := (a.teqd.toNat : Int) - a.eqd.toNat
    -- bits / 9.95328 − 35,000 in units of 1/995,328 ns
    let t := bits * 100000 - 35000 * 995328
    if t < 0 then 0xFFFFFFFF#32 else BitVec.ofInt 32 ((2 * t * 16 + 995328) / (2 * 995328))

end Sys2Proof.Machine
end

