-- ==== Sys2Proof/Machine/ClientOps.lean ====
section
/-!
DEFINITION. What changes of a lane's signal do to the client framers: Ethernet links (R226), SDH framers (R250) and VC-4-Xv groups
(R216, R217).
-/
namespace Sys2Proof.Machine

def State.modEth (s : State) (n : LaneId) (f : EthPort → EthPort) : State := s.modLane n fun l => { l with eth := f l.eth }
def State.modSdh (s : State) (n : LaneId) (f : SdhPort → SdhPort) : State := s.modLane n fun l => { l with sdh := f l.sdh }

/-- FEC74 of lane n as it acts (R38, R478). -/
def State.fec74 (s : State) (n : Nat) : Bool := s.fec74Raw n && s.feature 14

/-! ### Electrical idle (R53, R75, R81) -/

def State.refclk (s : State) (q : Nat) : RefClk := vget {} s.sys.refclk q

/-- The fault lasts while PRESENT or IN_TOL is 0. -/
def RefClk.bad (r : RefClk) : Bool := !r.present || !r.inTol

/-- The transmitter of a client or host-bond lane is in electrical idle without regard to its reference: its quadrant is dark, or
TX_SQUELCH is set (R53, R81). -/
def State.squelched (s : State) (n : LaneId) : Bool := s.isDark (quadOf n.val) || bit (s.lane n).com.ctl 3

def State.modHb (s : State) (n : LaneId) (f : HostBond → HostBond) : State := s.modLane n fun l => { l with hb := f l.hb }

/-- The lanes of the link of lane n, ascending: the host-bond lanes of its quadrant with its LINK (R38, R91). -/
def State.linkLanes (s : State) (n : LaneId) : List LaneId :=
  (List.finRange 96).filter fun m =>
    s.isHostBond m.val && decide (m.val / 24 = n.val / 24) && decide (s.linkOf m.val = s.linkOf n.val)

/-- The lowest lane of the link, which holds the link's state. -/
def State.linkHead (s : State) (n : LaneId) : LaneId := (s.linkLanes n).headD n

/-- The link of lane n. -/
def State.link (s : State) (n : LaneId) : HostBond := (s.lane (s.linkHead n)).hb
def State.modLink (s : State) (n : LaneId) (f : HostBond → HostBond) : State := s.modHb (s.linkHead n) f

/-- Data and markers are on the link. -/
def HostBond.dataOn (h : HostBond) : Bool := h.state == .align || h.state == .up

/-- Lane n is a configured lane of a host-bond link beyond the N that were agreed on (R91). -/
def State.beyondN (s : State) (n : LaneId) : Bool :=
  s.isHostBond n.val && (s.link n).dataOn && decide ((s.link n).n.toNat ≤ (s.linkLanes n).idxOf n)

/-- The transmitter of an Ethernet or host-bond lane is in electrical idle: for its reference's fault too (R75), beyond the N
lanes of a link (R91), and while its delays are measured (R432). -/
def State.txIdle (s : State) (n : LaneId) : Bool := s.squelched n || (s.lane n).ts.calBusy || (s.refclk (quadOf n.val)).bad || s.beyondN n

/-- LN_PRBS_n.GEN_EN. -/
def LaneCommon.genEn (c : LaneCommon) : Bool := bit c.prbs 2

/-- The transmitter of lane n sends at this moment without a command: on a line lane the generator's pattern alone, elsewhere unless it
is in electrical idle (R75, R78, R81, R87). -/
def State.sendsNow (s : State) (n : LaneId) : Bool :=
  s.isOn (dTx n.val) &&
  (if s.isLine n.val then (s.lane n).com.genEn && !s.squelched n && !(s.lane n).ts.calBusy
   else if s.isSdh n.val then !s.squelched n && !(s.lane n).ts.calBusy
   else s.role n.val != 0 && !s.txIdle n)

/-- An injection that waits acts on the next bit sent, where lane n's transmitter sends (R89). -/
def State.flushInject (s : State) (n : LaneId) : State :=
  match (s.lane n).com.inject with
  | some k => if s.sendsNow n then (s.modCom n fun c => { c with inject := none }).emit (.inverted n k) else s
  | none => s

/-- Bits of a pattern's register, and its second tap: x^len + x^tap + 1 (R86). -/
def prbsLen (pat : BitVec 2) : Nat := [7, 15, 23, 31].getD pat.toNat 31
def prbsTap (pat : BitVec 2) : Nat := [6, 14, 18, 28].getD pat.toNat 28

/-- The bit that the recurrence of a pattern gives after the bits of the register, the newest of which is bit 0. -/
def prbsNext (pat : BitVec 2) (r : BitVec 31) : Bool := xor (bit r (prbsLen pat - 1)) (bit r (prbsTap pat - 1))

/-- The register takes a bit in. -/
def prbsPush (r : BitVec 31) (b : Bool) : BitVec 31 := (r <<< 1) ||| (if b then 1 else 0)

/-- The first k bits that a generator sends from register r: each is the register's output bit, the oldest (R86). -/
def prbsBits (pat : BitVec 2) : Nat → BitVec 31 → List Bool
  | 0, _ => []
  | k + 1, r => bit r (prbsLen pat - 1) :: prbsBits pat k (prbsPush r (prbsNext pat r))

/-- The generator of lane n starts its pattern, where the transmitter sends: from a register that the spec leaves open, a free value other
than 0; a waiting injection acts on its first bits (R86, R87, R89). -/
def State.startPattern (s : State) (n : LaneId) : State :=
  let c := (s.lane n).com
  if c.genEn && s.sendsNow n then
    let pat := fld c.prbs 0 2
    let r := BitVec.ofNat 31 ((s.freeBits 31).toNat % (2 ^ prbsLen pat - 1) + 1)
    (s.tookFree.emit (.pattern n pat r)).flushInject n
  else s

/-- The drive of the transmitter of lane n changes: at once but on a line lane, whose bursts have a shape of their own (R77). -/
def State.driveNow (s : State) (n : LaneId) : State :=
  if s.sendsNow n then
    let c := (s.lane n).com
    let pre := (fld c.txCfg 8 4).toNat
    let post := (fld c.txCfg 12 4).toNat
    s.emit (.drive n (20 * (fld c.txCfg 0 6).toNat) pre (64 - pre - post) post (bit c.ctl 5))
  else s

/-- What begins when a transmitter begins to send again: its drive, the pattern of its generator, a waiting injection. -/
def State.txBegins (s : State) (n : LaneId) : State := ((s.driveNow n).startPattern n).flushInject n

/-! ### Ethernet links (R226) -/

/-- What a port drops when its link is not UP any more: the flow-control frame that waits, its own XOFF, and the FEC window (R228, R234,
R235). -/
def EthPort.leaveUp (e : EthPort) : EthPort := { e with xoff := false, pendingFlow := none, fecUnc := 0 }

/-- The link goes DOWN: nothing is locked or received. -/
def State.ethDown (s : State) (n : LaneId) : State :=
  s.modEth n fun e => { e.leaveUp with
    link := .down, fecOn := false, sendRf := false, sendIdle := false, blockLock := false, hiBer := false, lfRx := false, rfRx := false
    headers := 0 }

/-- Clause 73 starts on lane n: what the port advertises leaves where its transmitter sends (R227). -/
def State.anBegin (s : State) (n : LaneId) : State :=
  let s := s.modEth n fun e => { e with link := .an, anDone := false }
  if s.sendsNow n then s.emit (.advertise n (s.fec74 n.val) (s.lane n).eth.fecReq) else s

/-- The rows of DOWN: Clause 73 starts, or the link waits for block lock. -/
def State.ethStart (s : State) (n : LaneId) : State :=
  let l := s.lane n
  if !s.isEth n.val || l.eth.link != .down then s
  else if l.eth.anEn then
    if l.com.sigdet then s.anBegin n else s
  else if l.com.cdrLock then s.modEth n fun e => { e with link := .lock, fecOn := l.eth.fecForce && s.fec74 n.val }
  else s

/-! ### SDH framers and VC-4-Xv groups -/

/-- The framer goes to HUNT (R250): candidates are closed, and no frame is received whose violations M1 could carry. -/
def State.sdhHunt (s : State) (n : LaneId) : State :=
  s.modSdh n fun x => { x with frm := .hunt, cands := [], misses := 0, lastB2 := 0, rxB1 := none, rxB2 := none }

/-- Path defects read 0 while the lane has LOS, LOF or MS-AIS, and are judged afresh afterwards (R252). -/
def Au4.afresh (a : Au4) : Au4 :=
  { a with ais := {}, lop := {}, goodRun := 0, ndfRun := 0, rdi := {}, vcOff := none, vcPrev := none, b3Last := 0, trace := { a.trace with tim := false, run := 0, buf := [] } }
def State.pathsAfresh (s : State) (n : LaneId) : State := s.modSdh n fun x => { x with au := x.au.map Au4.afresh }

/-- A defect of the multiplex section falls into the present second (R267). -/
def State.pmDefect (s : State) (n : LaneId) : State := s.modSdh n fun x => { x with pm := vmod x.pm 0 fun y => { y with defect := true } }

/-- The seconds value of the count (R425). -/
def Time.secs (t : Time) : BitVec 48 := BitVec.ofNat 48 (t.ns.toNat / 10 ^ 9)

/-- All bins of a point are emptied, and incomplete ones start at a seconds value (R268). -/
def PmPoint.startBins (p : PmPoint) (start : BitVec 48) : PmPoint :=
  let b : Bin := { incomplete := true, valid := true, start := start }
  { p with recent := [], hist15 := [], hist24 := [], cur15 := b, cur24 := b }

/-- The bins of lane n start, empty and incomplete (R268). -/
def State.pmStart (s : State) (n : LaneId) : State := s.modSdh n fun x => { x with pm := x.pm.map fun p => p.startBins s.tim.secs }

/-- X of a VC-4-Xv group, and the member at sequence position i: lane and AU-4 index. -/
def Group.x (g : Group) : Nat := (fld g.w0 24 7).toNat
def Group.en (g : Group) : Bool := bit g.w0 0
def Group.seqLane (g : Group) (i : Nat) : Nat := (fld (vget 0 g.seqs i) 0 7).toNat
def Group.seqAu (g : Group) (i : Nat) : Nat := (fld (vget 0 g.seqs i) 8 6).toNat
def Group.seqValid (g : Group) (i : Nat) : Bool := bit (vget 0 g.seqs i) 15

/-- The sequence positions in use. -/
def Group.positions (g : Group) : List Nat := (List.range 64).filter g.seqValid

/-- A path defect of an AU-4 (R253): TIM1 counts where TIM_ACT is set. -/
def SdhPort.pathDefect (x : SdhPort) (a : Nat) : Bool :=
  let u : Au4 := vget {} x.au a
  u.ais.on || u.lop.on || (u.trace.tim && bit x.ctl 4)

/-- Member at position i of a VC-4-Xv group is failed (R216, R253). A member whose lane is no SDH lane counts as in LOF (R200). -/
def State.vcatFailed (s : State) (g : Group) (i : Nat) : Bool :=
  let m : VcatMember := vget {} g.vm i
  let n := g.seqLane i
  if h : n < 96 then
    let l := s.lanes[n]
    !s.isSdh n || !l.com.sigdet || l.sdh.lof || l.sdh.pathDefect (g.seqAu i) || m.lom || m.sqm || m.loa
  else true

/-- A member of the group is failed. -/
def State.anyFailed (s : State) (g : Group) : Bool := g.positions.any fun i => s.vcatFailed g i

/-- VC-4-Xv group g is judged after a member may have changed (R217). Recovery from FAIL is VCAT_RECOVER. -/
def State.judgeVcat (s : State) (g : Nat) (lane : Option Nat) : State :=
  let x := s.group g
  match x.gstate with
  | .forming => if s.anyFailed x then s else s.setGState g .full 1 lane
  | .full => if s.anyFailed x then (s.grpCnt g 11).setGState g .fail 3 lane else s
  | _ => s

/-- Lane n holds a member of the group. -/
def Group.hasLane (x : Group) (n : Nat) : Bool := x.positions.any fun i => x.seqLane i == n

/-- Every enabled VC-4-Xv group with a member on lane n is judged after lane n changed. -/
def State.judgeVcats (s : State) (n : LaneId) : State :=
  [8, 9, 10, 11, 12, 13, 14, 15].foldl (fun s g =>
    if (s.group g).en && (s.group g).hasLane n.val then s.judgeVcat g (some n.val) else s) s

/-! ### Line-timed transmit (R256) -/

/-- TIMING_LANE of quadrant q (R39). -/
def State.timingLane (s : State) (q : Nat) : Nat := (byteAt (s.sizing q) 0x10).toNat

/-- Every SDH lane of quadrant q changed by f. -/
def State.modSdhQuad (s : State) (q : Nat) (f : SdhPort → SdhPort) : State :=
  { s with lanes := Vector.ofFn fun n : Fin 96 =>
      let l := s.lanes[n.val]
      if n.val / 24 = q ∧ s.isSdh n.val then { l with sdh := f l.sdh } else l }

/-- An SDH transmitter whose TIMING_LANE has lock, or has none: before the first lock it stays in priming (R256). -/
def SdhPort.timed (x : SdhPort) (locked : Bool) : SdhPort :=
  if locked then { x with txHold := false, txFree := false } else { x with txHold := !x.txFree }

/-- The lock of lane n is that of the SDH transmitters of every quadrant whose TIMING_LANE it is (R39, R256). -/
def State.sdhTiming (s : State) (n : LaneId) (locked : Bool) : State :=
  [0, 1, 2, 3].foldl (fun s q =>
    if s.timingLane q = n.val then
      s.modSdhQuad q (·.timed locked)
    else s) s

/-! ### Lock loss as a condition (R497) -/

/-- Event 8n + 1 ends: CDR_LOCK is 1, and LOF 0 on line and SDH lanes or the link not in LOCK on an Ethernet port. -/
def State.judgeLock (s : State) (n : LaneId) : State :=
  let l := s.lane n
  let ok := l.com.cdrLock &&
    (if s.isLine n.val then l.ds.sync == .sync
     else if s.isSdh n.val then !l.sdh.lof
     else if s.isEth n.val then l.eth.link != .lock
     else true)
  if ok then s.endCond (laneEv n 1) else s

end Sys2Proof.Machine
end

