-- ==== Sys2Proof/Machine/HostBond.lean ====
section
/-!
DEFINITION. Host-bond links (R91 to R95, R105): the handshake, the alignment of the lanes and the link's registers.
-/
namespace Sys2Proof.Machine

/-! ### Values of the handshake (R94) -/

/-- MAXL as it acts (R105). -/
def State.maxlOwn (s : State) (n : LaneId) : Nat :=
  let c := (s.linkLanes n).length
  match (s.link n).maxl with
  | none => c
  | some m => min (max 1 m.toNat) c

/-- Physical lane m carries logical lane i at present: by the handshake blocks that it receives without a break. -/
def State.hbCarries (s : State) (m : LaneId) (i : Nat) : Bool :=
  (s.lane m).hb.laneNo == some i && decide (0 < (s.lane m).hb.goodRun)

/-- A physical lane is good for logical lane i: block lock, 8 handshake blocks, and the only one of the link that carries i. -/
def State.goodFor (s : State) (n : LaneId) (i : Nat) : Bool :=
  let ls := s.linkLanes n
  ((ls.filter fun m => s.hbCarries m i).length == 1) &&
  ls.any fun m =>
    let h := (s.lane m).hb
    h.laneNo == some i && h.blockLock && decide (8 ≤ h.goodRun)

/-- RXOK: the largest k for which logical lanes 0 to k − 1 are good. -/
def State.rxok (s : State) (n : LaneId) : Nat :=
  match firstBelow 16 fun i => !s.goodFor n i with
  | some k => k
  | none => 16

/-- SSC_TX: REF bit 1 of the quadrant. -/
def State.sscTx (s : State) (n : LaneId) : Bool := bit (s.ref (quadOf n.val)) 1

/-- Byte 5 of a handshake block: FEC_CAP, FEC_REQ, SSC_TOL 1, SSC_TX. -/
def State.capsByte (s : State) (n : LaneId) : Byte :=
  setBit (setBit (setBit (setBit 0#8 0 (s.fec74 n.val)) 1 (s.link n).fecReq) 2 true) 3 (s.sscTx n)

/-- n, fec and ssc_ok of R94. -/
def State.hbN (s : State) (n : LaneId) (p : HbPeer) : Nat := min (min (s.maxlOwn n) p.maxl) (min (s.rxok n) p.rxok)
def State.hbFec (s : State) (n : LaneId) (p : HbPeer) : Bool :=
  s.fec74 n.val && bit p.caps 0 && ((s.link n).fecReq || bit p.caps 1)
def State.sscOk (s : State) (n : LaneId) (p : HbPeer) : Bool := !(s.sscTx n && !bit p.caps 2)

/-- Every value, own and peer's, that the result depends on. -/
def State.hbValues (s : State) (n : LaneId) (p : HbPeer) : List Nat :=
  [s.maxlOwn n, s.rxok n, (s.capsByte n).toNat, p.maxl, p.rxok, p.caps.toNat]

/-! ### States -/

/-- The link goes to OFFER, with ERR where one is given; what was agreed is void. Without the feature HOST_BOND it stays in DOWN
(R478). -/
def State.hbOffer (s : State) (n : LaneId) (err : Option (BitVec 3)) : State :=
  s.modLink n fun h => { h with
    state := if s.feature 8 then .offer else .down, n := 0, fec := false, used := [], err := err.getD h.err }

/-- Event 8n + 7 on the lowest lane of the link, with detail cause 1 (R94). -/
def State.hbEvent (s : State) (n : LaneId) : State := s.report (laneEv (s.linkHead n) 7) 2 [1]

/-- The link fails. -/
def State.hbFail (s : State) (n : LaneId) (err : BitVec 3) : State :=
  (s.modLink n fun h => { h with state := .failed, err := err, n := 0, fec := false, used := [] }).hbEvent n

/-- The link leaves ALIGN or UP with ERR 4. -/
def State.hbBreak (s : State) (n : LaneId) : State := (s.hbOffer n (some 4)).hbEvent n

/-- The lanes that carry logical lanes 0 to N − 1. -/
def State.agreedLanes (s : State) (n : LaneId) : List LaneId :=
  (s.linkLanes n).filter fun m =>
    match (s.lane m).hb.laneNo with
    | some i => decide (i < (s.link n).n.toNat)
    | none => false

/-- The peer sends PHASE ≥ 1 on logical lanes 0 to N − 1. -/
def State.peerAgrees (s : State) (n : LaneId) : Bool :=
  decide ((s.agreedLanes n).length = (s.link n).n.toNat) && (s.agreedLanes n).all fun m => decide (1 ≤ (s.lane m).hb.phase)

/-- The handshake's rows for values received (R94). -/
def State.hbJudge (s : State) (n : LaneId) : State :=
  let h := s.link n
  match h.peer with
  | none => s
  | some p =>
    match h.state with
    | .offer =>
      if !s.sscOk n p then s.hbFail n 2
      else if 1 ≤ s.hbN n p then
        s.modLink n fun h => { h with state := .agreed, n := BitVec.ofNat 5 (s.hbN n p), fec := s.hbFec n p, used := s.hbValues n p }
      else s
    | .agreed =>
      if s.hbValues n p ≠ h.used then s.hbOffer n none
      else if s.peerAgrees n then s.modLink n fun h => { h with state := .commit }
      else s
    | _ => s

/-- The lane keeps neither block lock nor alignment (R93, R94). -/
def State.hbLaneLost (s : State) (n : LaneId) : State :=
  let s := s.modHb n fun h => { h with blockLock := false, goodRun := 0, aligned := false, lastMarker := none, missRun := 0 }
  if (s.link n).state = .up ∧ (s.agreedLanes n).contains n then s.hbBreak n else s.hbJudge n

/-- The receive direction of a host-bond lane goes OFF: what it received, and LN_HB_STATUS_n of its link where it is the lowest lane, are
at their reset values (R85, R105). -/
def HostBond.rxReset (h : HostBond) : HostBond := { maxl := h.maxl, fecReq := h.fecReq }

/-- HB_HANDSHAKE_RX: the bytes of a handshake block and whether the lane has block lock (R92, R94). -/
def execHbHandshakeRx (n : LaneId) (blockLock : Bool) (b : Vector Byte 8) (s : State) : Res :=
  .next (
    if !s.isHostBond n.val then s
    else
      let bs := b.toList
      let lane := (byteAt bs 2).toNat
      let ok := byteAt bs 0 == 0xA5#8 && byteAt bs 1 == 0xC3#8 && crc8 (bytesAt bs 1 6) == byteAt bs 7 &&
        decide ((byteAt bs 3).toNat = s.linkOf n.val)
      let s := s.modHb n fun h => { h with blockLock := blockLock }
      if !ok then (s.modHb n fun h => { h with goodRun := 0 }).hbJudge n
      else
        let dup := (s.linkLanes n).any fun m => m != n && s.hbCarries m lane
        let st := (s.link n).state
        let s := if lane < 16 then
            s.modHb n fun h => { h with
              goodRun := min 8 (h.goodRun + 1), laneNo := some lane, phase := (fld (byteAt bs 6) 5 3).toNat }
          else s.modHb n fun h => { h with goodRun := 0 }
        let s := if lane = 0 then
            s.modLink n fun h => { h with
              peer := some { maxl := (byteAt bs 4).toNat, caps := byteAt bs 5, rxok := (fld (byteAt bs 6) 0 5).toNat }
              sscPeer := bit (byteAt bs 5) 3 }
          else s
        if (dup || decide (16 ≤ lane)) && (st == .offer || st == .agreed) then s.hbOffer n (some 5) else s.hbJudge n)

/-- PHASE that the link sends (R94). -/
def HostBond.ownPhase (h : HostBond) : Nat :=
  match h.state with
  | .agreed => 1
  | .commit => 2
  | _ => 0

/-- HB_HANDSHAKE_TX: a handshake block leaves on lane n (R92, R94). -/
def execHbHandshakeTx (n : LaneId) (s : State) : Res :=
  .next (
    let st := (s.link n).state
    if s.isHostBond n.val && (st == .offer || st == .agreed || st == .commit) && s.isOn (dTx n.val) && !(s.lane n).com.genEn &&
        !s.txIdle n then
      let body : List Byte :=
        [0xC3#8, BitVec.ofNat 8 ((s.linkLanes n).idxOf n), BitVec.ofNat 8 (s.linkOf n.val), BitVec.ofNat 8 (s.maxlOwn n),
         s.capsByte n, BitVec.ofNat 8 (s.rxok n + 32 * (s.link n).ownPhase)]
      (s.flushInject n).emit (.hbBlock n (0xA5#8 :: body ++ [crc8 body]))
    else s)

/-- HB_COMMIT_DONE: 16 periods of PHASE 2 have been sent (R94). -/
def execHbCommitDone (n : LaneId) (s : State) : Res :=
  .next (if s.isHostBond n.val ∧ (s.link n).state = .commit then
      let s := (s.agreedLanes n).foldl (fun s m => s.modHb m fun h => { h with aligned := false, lastMarker := none, missRun := 0 }) s
      let t := s.now
      s.modLink n fun h => { h with state := .align, since := t }
    else s)

/-! ### Data and markers (R91, R92) -/

/-- Physical lanes that send logical lanes 0 to N − 1. -/
def State.dataLanes (s : State) (n : LaneId) : List LaneId := (s.linkLanes n).take (s.link n).n.toNat

/-- The marker of lane m with the link's SEQ. -/
def State.hbMarker (s : State) (m : LaneId) : List Byte :=
  let seq := (s.link m).seq
  let lane : Byte := BitVec.ofNat 8 ((s.linkLanes m).idxOf m)
  let link : Byte := BitVec.ofNat 8 (s.linkOf m.val)
  [0xA5#8, 0x5A#8, lane, link, seq, ~~~seq, ~~~lane, ~~~link]

/-- Block periods from one marker to the next, in ticks of 1.6 ns: 16,384 periods of 6.4 ns. -/
def markerTicks : Nat := 65536

/-- A 1.6 ns tick of the link whose lowest lane is n: every 16,384th block period each lane sends a marker, and SEQ rises by 1. -/
def State.hbTick (s : State) (n : LaneId) : State :=
  let h := (s.lane n).hb
  let t := (s.now - h.since) / 16
  if h.dataOn ∧ s.linkHead n = n ∧ s.isHostBond n.val ∧ 0 < t ∧ t % markerTicks = 0 then
    let s := (s.dataLanes n).foldl (fun s m =>
      if s.isOn (dTx m.val) && !(s.lane m).com.genEn && !s.txIdle m then s.emit (.hbBlock m (s.hbMarker m)) else s) s
    s.modHb n fun h => { h with seq := h.seq + 1 }
  else s

/-- The blocks of a frame's octets after those of the start block: data blocks of 8, then a terminate block with what is left. -/
def pcsTail (b : List Byte) : Nat → List PcsBlock
  | 0 => []
  | f + 1 =>
    if 8 ≤ b.length then { control := false, bytes := b.take 8 } :: pcsTail (b.drop 8) f
    else [{ control := true, bytes := padTo 8 ([0x87#8, 0x99#8, 0xAA#8, 0xB4#8, 0xCC#8, 0xD2#8, 0xE1#8, 0xFF#8].getD b.length 0 :: b) }]

/-- The 66-bit blocks of a frame: a start block with the preamble, data blocks and a terminate block. -/
def pcsBlocks (b : List Byte) : List PcsBlock :=
  { control := true, bytes := 0x78#8 :: List.replicate 6 0x55#8 ++ [0xD5#8] } :: pcsTail b (b.length / 8 + 1)

/-- A frame leaves on a host-bond link: its blocks go round-robin over the lanes. The idle blocks between frames go round-robin too, and
time is not given to commands, so the lane of the first block is a free value. -/
def State.hbSend (s : State) (n : LaneId) (bytes : List Byte) : State :=
  let ls := s.dataLanes n
  let first := (s.freeBits 4).toNat
  (s.tookFree.flushInject n).emit
    (.hbFrame n bytes ((pcsBlocks bytes).mapIdx fun i b => (ls.getD ((first + i) % max 1 ls.length) n, b)))

/-- HB_TIMEOUT: 10 ms in OFFER with n = 0, or 10 ms in OFFER and AGREED without COMMIT; the first takes precedence (R94). -/
def execHbTimeout (n : LaneId) (zeroN : Bool) (s : State) : Res :=
  .next (
    let h := s.link n
    if !s.isHostBond n.val then s
    else if zeroN && h.state == .offer && (match h.peer with | some p => s.hbN n p == 0 | none => false) then s.hbFail n 3
    else if h.state = .offer ∨ h.state = .agreed then
      (s.modLink n fun h => { h with state := .down, err := 1, n := 0, fec := false, used := [] }).hbEvent n
    else s)

/-- HB_DOWN_HOLD_EXPIRE: 1 ms after a timeout the link returns to OFFER (R94). -/
def execHbDownHoldExpire (n : LaneId) (s : State) : Res :=
  .next (if s.isHostBond n.val ∧ (s.link n).state = .down then s.hbOffer n none else s)

/-- HB_ALIGN_TIMEOUT: not aligned within 1 ms in ALIGN (R94). -/
def execHbAlignTimeout (n : LaneId) (s : State) : Res :=
  .next (if s.isHostBond n.val ∧ (s.link n).state = .align then s.hbBreak n else s)

/-! ### Alignment (R93) -/

/-- The skew over the agreed lanes, once each has a marker of the present period: latest less earliest arrival. -/
def State.hbSkew (s : State) (n : LaneId) : Option Nat :=
  let ls := s.agreedLanes n
  let a := ls.map fun m => (s.lane m).hb.arrival
  let hi := a.foldl max 0
  let lo := a.foldl min hi
  if ls.length = (s.link n).n.toNat ∧ (ls.all fun m => (s.lane m).hb.lastMarker.isSome) ∧ hi - lo < 8192 then some (hi - lo) else none

/-- ALIGN and UP judged after a marker (R94). -/
def State.hbAligned (s : State) (n : LaneId) : State :=
  match s.hbSkew n with
  | none => s
  | some k =>
    let s := s.modLink n fun h => { h with skew := BitVec.ofNat 4 (min 15 k) }
    match (s.link n).state with
    | .align =>
      if 10 < k then s.hbBreak n
      else if (s.agreedLanes n).all fun m => (s.lane m).hb.aligned then s.modLink n fun h => { h with state := .up }
      else s
    | .up => if 10 < k then s.hbBreak n else s
    | _ => s

/-- An expected marker of an aligned lane is missing or wrong: the fourth in a row loses the alignment. The next is expected 16,384 blocks
later. A lane that is not aligned expects none. -/
def State.hbMiss (s : State) (n : LaneId) : State :=
  let k := (s.lane n).hb.missRun + 1
  if !(s.lane n).hb.aligned then s
  else
  let s := s.modHb n fun h => { h with missRun := k, lastMarker := h.lastMarker.map (· + 16384) }
  if k < 4 then s
  else
    let s := s.modHb n fun h => { h with aligned := false, lastMarker := none }
    if (s.link n).state = .up ∧ (s.agreedLanes n).contains n then s.hbBreak n else s

/-- HB_MARKER_RX: a block of the form of a marker arrives in block period blk (R92, R93). An aligned lane judges what stands at the expected
position only. -/
def execHbMarkerRx (n : LaneId) (blk : Nat) (b : Vector Byte 8) (s : State) : Res :=
  .next (
    if !s.isHostBond n.val then s
    else
      let bs := b.toList
      let ok := byteAt bs 0 == 0xA5#8 && byteAt bs 1 == 0x5A#8 && decide ((byteAt bs 2).toNat < 16) &&
        decide ((byteAt bs 3).toNat = s.linkOf n.val) && byteAt bs 5 == ~~~(byteAt bs 4) && byteAt bs 6 == ~~~(byteAt bs 2) &&
        byteAt bs 7 == ~~~(byteAt bs 3)
      let h := (s.lane n).hb
      let due := h.lastMarker == some (blk - 16384) && decide (16384 ≤ blk)
      if h.aligned && !due then s
      else if !ok then s.hbMiss n
      else
        let s := s.modHb n fun h => { h with
          aligned := due, lastMarker := some blk, arrival := blk, missRun := 0, laneNo := some (byteAt bs 2).toNat }
        s.hbAligned n)

/-- HB_MARKER_MISSING: no right marker at an expected position (R93). -/
def execHbMarkerMissing (n : LaneId) (s : State) : Res :=
  .next (if s.isHostBond n.val then s.hbMiss n else s)

/-! ### Registers (R105) -/

/-- LN_HB_CFG_n and LN_HB_STATUS_n act in the lowest lane of a link only. -/
def State.isHead (s : State) (n : LaneId) : Bool := s.isHostBond n.val && s.linkHead n == n

def State.hbCfgRead (s : State) (n : LaneId) : W32 :=
  if !s.isHead n then 0
  else
    let h := (s.lane n).hb
    at' 0 (h.maxl.getD (BitVec.ofNat 5 (s.linkLanes n).length)) ||| atB 5 h.fecReq ||| atB 7 (s.sscTx n)

def State.hbStatus (s : State) (n : LaneId) : W32 :=
  if !s.isHead n then 0
  else
    let h := (s.lane n).hb
    at' 0 h.state.code ||| atB 3 h.fec ||| atB 4 h.sscPeer ||| at' 8 h.n ||| at' 13 h.err ||| at' 16 h.skew

/-- RESTART: the handshake starts again at OFFER with ERR 0 (R94, R105). -/
def State.hbRestart (s : State) (n : LaneId) : State := if s.isHead n then s.hbOffer n (some 0) else s

/-- A write of LN_HB_CFG_n. -/
def State.hbCfgWrite (s : State) (n : LaneId) (w : W32) : State :=
  if !s.isHead n then s
  else
    let s := s.modHb n fun h => { h with maxl := some (fld w 0 5), fecReq := bit w 5 }
    if bit w 6 then s.hbRestart n else s.hbJudge n

/-- HB_RESTART: LN_HB_CFG_n.RESTART. -/
def execHbRestart (p : Port) (n : LaneId) (s : State) : Res :=
  .next (s.writeLane p n 0x020 .common fun s => s.hbRestart n)

end Sys2Proof.Machine
end

