-- ==== Sys2Proof/Machine/LaneSlice.lean ====
section
/-!
DEFINITION. The receiver of a lane slice: equaliser, seed table, signal detect, CDR, noise report and the reference monitors (R64 to
R76, R95 to R101, R106, R107).
-/
namespace Sys2Proof.Machine

/-! ### Equaliser items (R65) -/

/-- The range of item i. -/
def itemLo (i : Nat) : Int := if i < 16 then -512 else if i < 22 then -128 else 0
def itemHi (i : Nat) : Int := if i < 16 then 511 else if i < 22 then 127 else if i = 22 then 255 else 15

/-- The item that a 10-bit VALUE gives (R65, R100). -/
def itemOf (i : Nat) (v : BitVec 10) : Int :=
  if i < 16 then v.toInt
  else if i < 22 then (fld v 0 8).toInt
  else if i = 22 then (fld v 0 8).toNat
  else (fld v 0 4).toNat

/-- CURSOR (R65). -/
def LaneCommon.cursor (c : LaneCommon) : Nat := (vget 0 c.items 23).toNat

/-- The seed-tap item i of entry e: the neutral entry where nothing else is kept (R107). -/
def neutralItem (i : Nat) : BitVec 16 := if i = 3 then 256 else if i = 22 then 96 else if i = 23 then 3 else 0
def SysCtl.seedItem (x : SysCtl) (e i : Nat) : BitVec 16 := (Tab.find x.seed (24 * e + i)).getD (neutralItem i)

/-! ### Adaptation (R66, R67) -/

/-- The quotient of a step by a power of two; what is lost in the rounding, which the spec leaves open, is given back by a bit. -/
def stepDiv (v : Int) (sh : Nat) (up : Bool) : Int :=
  let q := v / 2 ^ sh
  if v % 2 ^ sh = 0 then q else if up then q + 1 else q

/-- An item after a step, held in its range, and whether it was held at a range end (R67). -/
def clampItem (i : Nat) (v : Int) : Int × Bool :=
  if v < itemLo i then (itemLo i, true) else if itemHi i < v then (itemHi i, true) else (v, false)

/-- ±1 of a slicer decision. -/
def sgn (b : Bool) : Int := if b then 1 else -1

/-- y of R66 in 1/256 code: FFE over the samples x[k + CURSOR − i], DFE over the decisions â[k − j]. -/
def LaneCommon.eqOut (c : LaneCommon) (x : Vector (BitVec 6) 16) (prev : Vector Bool 6) : Int :=
  ((List.range 16).map fun i => vget 0 c.items i * (vget 0#6 x i).toInt).sum -
  ((List.range 6).map fun j => 64 * vget 0 c.items (16 + j) * sgn (vget false prev j)).sum

/-- The update of R66 for one symbol; ups are the rounding bits. DESIGN CHOICE (notes/assumptions/84.md): sign(0) is +1; an item that stands at
a range end without having been held there by this update starts its count again (R67). -/
def LaneCommon.adapt (c : LaneCommon) (x : Vector (BitVec 6) 16) (prev : Vector Bool 6) (ups : BitVec 24) : LaneCommon :=
  let mu := if c.rxState = .adaptFast then (fld c.ctl 8 3).toNat else (fld c.ctl 12 3).toNat
  let y := c.eqOut x prev
  let a := decide (0 ≤ y)
  let e := y - 64 * vget 0 c.items 22 * sgn a
  let step (i : Nat) : Int :=
    if i < 16 then (if i = c.cursor then 0 else stepDiv (-(e * (vget 0#6 x i).toInt)) (12 + mu) (bit ups i))
    else if i < 22 then stepDiv (e * sgn (vget false prev (i - 16))) (18 + mu) (bit ups i)
    else if i = 22 then stepDiv (e * sgn a) (18 + mu) (bit ups i)
    else 0
  let res (i : Nat) : Int × Bool := clampItem i (vget 0 c.items i + step i)
  { c with
    items := Vector.ofFn fun i : Fin 24 => (res i.val).1
    limitRun := Vector.ofFn fun i : Fin 24 => if (res i.val).2 then min 65536 (c.limitRun[i.val] + 1) else 0 }

/-- EQ_UPDATE: an update symbol in ADAPT_FAST or TRACK (R66, R67); the items are held while a calibration runs (R555). -/
def execEqUpdate (n : LaneId) (x : Vector (BitVec 6) 16) (prev : Vector Bool 6) (s : State) : Res :=
  .next (
    let st := (s.lane n).com.rxState
    if (st = .adaptFast ∨ st = .track) ∧ !(s.lane n).ts.calBusy then
      let ups := s.freeBits 24
      s.tookFree.modCom n fun c => c.adapt x prev ups
    else s)

/-- EQ_LIMIT: an item has been held at a range end for 65,536 consecutive updates (R67). -/
def execEqLimit (n : LaneId) (s : State) : Res :=
  .next (
    let c := (s.lane n).com
    if c.limitRun.any fun k => decide (65536 ≤ k) then
      (s.modCom n fun c => { c with eqLimit := true }).reportIf (!c.eqLimit) (laneEv n 5) 2
    else s)

/-! ### The receiver's states (R68, R69) -/

/-- The receiver enters a state other than OFF; while FREEZE is set it is in FROZEN, from that state (R69, R97). -/
def LaneCommon.enter (c : LaneCommon) (st : RxState) : LaneCommon :=
  if bit c.ctl 1 then { c with rxState := .frozen, frozenFrom := st } else { c with rxState := st }

/-- The state that FROZEN returns to: the one it was entered from, moved on by the rows of R69 that hold by now. -/
def LaneCommon.thawed (c : LaneCommon) : RxState :=
  match c.frozenFrom with
  | .off => .off
  | .frozen => .off
  | .seed => .seed
  | st =>
    if !c.sigdet then .waitSig
    else if !c.cdrLock then .cdrAcq
    else if st = .adaptFast ∨ st = .track then st
    else if c.priming then .adaptFast else .track

/-- The receiver leaves WAIT_SIG where signal detect is set. -/
def State.rxWait (s : State) (n : LaneId) : State :=
  s.modCom n fun c => c.enter (if c.sigdet then .cdrAcq else .waitSig)

/-- SEED_LOADED (R68): the 24 items of the lane's entry. -/
def execSeedLoaded (n : LaneId) (s : State) : Res :=
  .next (
    let c := (s.lane n).com
    if s.isOn (dRx n.val) ∧ c.rxState = .seed then
      let e := (fld c.ctl 16 6).toNat
      (s.modCom n fun c => { c with
        items := Vector.ofFn fun i : Fin 24 => itemOf i.val ((s.sys.seedItem e i.val).setWidth 10)
        limitRun := Vector.replicate 24 0 }).rxWait n
    else s)

/-- What CDR lock loss does beyond the receiver: framers to HUNT, bursts ended, SDH transmitters hold (R76, R110, R184, R250,
R256). -/
def State.cdrGone (s : State) (n : LaneId) : State :=
  let s := s.modCom n fun c => { c with cdrLock := false }
  let s := if s.isLine n.val then (s.huntLine n).stopBursts n
    else if s.isSdh n.val then s.sdhHunt n
    else if s.isHostBond n.val then s.hbLaneLost n
    else s
  s.sdhTiming n false

/-- The receiver enters SEED (R68, R69). -/
def State.rxSeed (s : State) (n : LaneId) : State :=
  let had := (s.lane n).com.cdrLock
  let s := s.modCom n fun c => ({ c with priming := true, lockedOnce := false } : LaneCommon).enter .seed
  if had then s.cdrGone n else s

/-- RX_RESTART: LN_CTL_n.RX_RESTART, in any state (R69). -/
def State.rxRestart (s : State) (n : LaneId) : State := s.rxSeed n
def execRxRestart (p : Port) (n : LaneId) (s : State) : Res :=
  .next (s.writeLane p n 0x000 .common fun s => s.rxRestart n)

/-- LN_CTL_n.FREEZE written (R69). -/
def State.eqFreeze (s : State) (n : LaneId) (on : Bool) : State :=
  s.modCom n fun c =>
    let c := { c with ctl := setBit c.ctl 1 on }
    if on then (if c.rxState = .off ∨ c.rxState = .frozen then c else c.enter c.rxState)
    else if c.rxState = .frozen then { c with rxState := c.thawed } else c

/-- EQ_FREEZE. -/
def execEqFreeze (p : Port) (n : LaneId) (on : Bool) (s : State) : Res :=
  .next (s.writeLane p n 0x000 .common fun s => s.eqFreeze n on)

/-- A write of LN_TAP_n (R71, R100). -/
def LaneCommon.tapWrite (c : LaneCommon) (w : W32) : LaneCommon :=
  let sel := fld w 0 5
  let c := { c with tapSel := sel }
  if bit c.ctl 1 then { c with items := vset c.items sel.toNat (itemOf sel.toNat (fld w 16 10)) } else c

/-- LN_TAP_n as read. -/
def LaneCommon.tapRead (c : LaneCommon) : W32 :=
  at' 0 c.tapSel ||| at' 16 (BitVec.ofInt 10 (vget 0 c.items c.tapSel.toNat))

/-- TAP_WRITE. -/
def execTapWrite (p : Port) (n : LaneId) (w : W32) (s : State) : Res :=
  .next (s.writeLane p n 0x00C .rx fun s => s.modCom n fun c => c.tapWrite w)

/-! ### Signal detect (R72) and CDR lock (R69) -/

/-- SD_ON and SD_OFF as they act, in 1/1,024 code. -/
def LaneCommon.sdOn (c : LaneCommon) : Nat := (fld c.sd 0 8).toNat * 256
def LaneCommon.sdOff (c : LaneCommon) : Nat := min (fld c.sd 8 8).toNat (fld c.sd 0 8).toNat * 256

/-- SIGNAL_DETECT_SET: a window ends whose RMS, in 1/1,024 code, exceeds SD_ON (R72). -/
def execSignalDetectSet (n : LaneId) (rms : Nat) (s : State) : Res :=
  .next (
    let c := (s.lane n).com
    if s.isOn (dRx n.val) ∧ c.rxState ≠ .off ∧ !c.sigdet ∧ c.sdOn < rms then
      let s := s.modCom n fun c =>
        ({ c with sigdet := true, rxState := if c.rxState = .waitSig then .cdrAcq else c.rxState } : LaneCommon).judgeMode
      (s.endCond (laneEv n 0)).ethStart n
    else s)

/-- Signal detect is gone (R69, R72, R112, R226, R250). -/
def State.signalGone (s : State) (n : LaneId) : State :=
  let s := s.modCom n fun c =>
    ({ c with
      sigdet := false
      rxState := if c.rxState = .cdrAcq ∨ c.rxState = .adaptFast ∨ c.rxState = .track then .waitSig else c.rxState } :
      LaneCommon).judgeMode
  let s := s.cdrGone n
  let s := if s.isEth n.val then s.ethDown n else if s.isSdh n.val then (s.pathsAfresh n).pmDefect n else s
  s.judgeVcats n

/-- SIGNAL_DETECT_CLEAR: four consecutive windows below SD_OFF (R72); event 8n + 0. -/
def execSignalDetectClear (n : LaneId) (rms : Vector Nat 4) (s : State) : Res :=
  .next (
    let c := (s.lane n).com
    if s.isOn (dRx n.val) ∧ c.sigdet ∧ (rms.all fun r => decide (r < c.sdOff)) then
      (s.report (laneEv n 0) 2).signalGone n
    else s)

/-- The CDR of a receiver runs: it acquires lock in CDR_ACQ, and, since it keeps running, in FROZEN (R69). -/
def LaneCommon.acquires (c : LaneCommon) : Bool :=
  c.sigdet && !c.cdrLock && (c.rxState == .cdrAcq || (c.rxState == .frozen && c.frozenFrom != .seed && c.frozenFrom != .off))

/-- The receiver of lane n has no reference to lock to: its role takes REFCLK_Q_q, and the fault of R75 lasts (R74). -/
def State.noReference (s : State) (n : LaneId) : Bool :=
  (s.isEth n.val || s.isSdh n.val || s.isHostBond n.val) && (s.refclk (quadOf n.val)).bad

/-- CDR_LOCK (R69). -/
def execCdrLock (n : LaneId) (s : State) : Res :=
  .next (
    if (s.lane n).com.acquires ∧ s.noReference n = false then
      let s := s.modCom n fun c =>
        { c with
          cdrLock := true, lockedOnce := true
          rxState := if c.rxState = .frozen then .frozen else if c.priming then .adaptFast else .track }
      (((s.sdhTiming n true).ethStart n).judgeLock n)
    else s)

/-- The CDR loses lock while signal detect is set: event 8n + 1 (R69). -/
def State.cdrLost (s : State) (n : LaneId) : State :=
  ((s.modCom n fun c => { c with rxState := if c.rxState = .frozen then .frozen else .cdrAcq }).report (laneEv n 1) 2).cdrGone n

/-- CDR_LOCK_LOST (R69, R76). -/
def execCdrLockLost (n : LaneId) (s : State) : Res :=
  .next (if (s.lane n).com.sigdet ∧ (s.lane n).com.cdrLock then s.cdrLost n else s)

/-- ADAPT_FAST_DONE (R69). -/
def execAdaptFastDone (n : LaneId) (s : State) : Res :=
  .next (if (s.lane n).com.rxState = .adaptFast then s.modCom n fun c => { c with rxState := .track, priming := false } else s)

/-! ### The noise report (R73) -/

/-- The integer nearest to 160 · log10(num / den), for num and den above 0: the least b from lo on with
(num / den)^320 < 10^(2b + 1). -/
def sixteenthsDb (num den : Nat) (lo : Int) (steps : Nat) : Int :=
  let a := num ^ 320
  let d := den ^ 320
  let below (b : Int) : Bool :=
    if 0 ≤ 2 * b + 1 then decide (a < d * 10 ^ (2 * b + 1).toNat) else decide (a * 10 ^ (-(2 * b + 1)).toNat < d)
  match firstBelow steps fun k => below (lo + k) with
  | some k => lo + k
  | none => lo + steps

/-- The square root of n rounded down. -/
def sqrtFuel : Nat → Nat → Nat
  | 0, _ => 0
  | f + 1, n => if n = 0 then 0 else
    let r := 2 * sqrtFuel f (n / 4)
    if (r + 1) * (r + 1) ≤ n then r + 1 else r

/-- Fields of a noise report: the sum of the squared samples over the window (R73). The last bit of A is left open. -/
def noiseFields (sumSq : Nat) (up : Bool) : W32 :=
  let r := sqrtFuel 24 (sumSq / 16)
  let a := if r * r * 16 = sumSq then r else if up then r + 1 else r
  let b : BitVec 16 := if sumSq = 0 then 0x8000#16 else BitVec.ofInt 16 (sixteenthsDb sumSq (2 ^ 30) (-1450) 1460)
  atN 0 16 a ||| at' 16 b

/-- Fields of an MSE report: the sum of the squared errors in (1/256 code)². A or B that has no value in its format is the free
value given: an A of 65,536 or more, and a B that rounds below 0. An MSE of 0 saturates B. -/
def mseFields (sumSq h0 : Nat) (up : Bool) (free : W32) : W32 :=
  let q := sumSq / 2 ^ 28
  let a := if sumSq % 2 ^ 28 = 0 then q else if up then q + 1 else q
  let aw : BitVec 16 := if a < 65536 then BitVec.ofNat 16 a else fld free 0 16
  let b : BitVec 16 :=
    if sumSq = 0 then 0xFFFF#16
    else
      let v := sixteenthsDb (h0 * h0 * 2 ^ 32) sumSq (-1) 2401
      if v < 0 then fld free 16 16 else BitVec.ofInt 16 v
  at' 0 aw ||| at' 16 b

/-- NOISE_REPORT: a window of 2^20 samples ends; the sum of the squared samples, or of the squared errors, over it (R73). -/
def execNoiseReport (n : LaneId) (sumSq : Nat) (s : State) : Res :=
  .next (
    if !s.isOn (dRx n.val) then s
    else
      let up := bit (s.freeBits 1) 0
      let s := s.tookFree
      let free := s.freeBits 32
      let s := s.tookFree
      s.modCom n fun c => { c with
        noise := if c.noiseMode then noiseFields sumSq up else mseFields sumSq (vget 0 c.items 22).toNat up free })

/-! ### Reference monitors (R75) -/

def State.modRef (s : State) (q : Nat) (f : RefClk → RefClk) : State :=
  { s with sys := { s.sys with refclk := vmod s.sys.refclk q f } }

/-- The receivers of quadrant q that take its reference lose lock (R27, R75). -/
def State.refLocksLost (s : State) (q : Nat) : State :=
  (List.finRange 96).foldl (fun s n =>
    if n.val / 24 = q ∧ s.noReference n ∧ (s.lane n).com.cdrLock then s.cdrLost n else s) s

/-- A fault is found: FAULT, event 930 + q unless its condition holds already, and the receivers lose lock. -/
def State.refFault (s : State) (q : Nat) : State :=
  ((s.modRef q fun r => { r with fault := true }).reportIf (!(s.src (930 + q)).active) (930 + q) 3).refLocksLost q

/-- The condition of event 930 + q ends with the fault. -/
def State.refJudge (s : State) (q : Nat) : State := if (s.refclk q).bad then s else s.endCond (930 + q)

/-- REFCLK_LOSS: no edge for 1 µs. -/
def execRefclkLoss (q : QuadId) (s : State) : Res :=
  .next (if (s.refclk q).present then (s.modRef q fun r => { r with present := false }).refFault q else s)

/-- REFCLK_RETURN: the first edge after a loss. -/
def execRefclkReturn (q : QuadId) (s : State) : Res := .next ((s.modRef q fun r => { r with present := true }).refJudge q)

/-- REFCLK_GATE: a gate ends; the reference's offset from nominal in 10^−9. The window is the one in force when the gate
started. -/
def execRefclkGate (q : QuadId) (ppm : Int) (s : State) : Res :=
  .next (
    let lo : Int := if (s.refclk q).ssc then -5200000 else -200000
    let s := s.modRef q fun r => { r with ssc := bit (s.ref q) 1 }
    if lo ≤ ppm ∧ ppm ≤ 200000 then (s.modRef q fun r => { r with inTol := true }).refJudge q
    else (s.modRef q fun r => { r with inTol := false }).refFault q)

/-! ### The registers of block 4 of the system control island (R106) -/

/-- SYS_REFCLK_STATUS. -/
def State.refclkStatus (s : State) : W32 :=
  (List.range 4).foldl (fun w q =>
    let r := s.refclk q
    w ||| atB q r.present ||| atB (4 + q) r.inTol ||| atB (8 + q) r.fault) 0

def State.refclkClear (s : State) (w : W32) : State :=
  { s with sys := { s.sys with refclk := Vector.ofFn fun q : Fin 4 =>
      { s.sys.refclk[q.val] with fault := w1cB s.sys.refclk[q.val].fault w (8 + q.val) } } }

/-- The item that SYS_SEED_ADDR selects, where it exists. -/
def SysCtl.seedSel (x : SysCtl) : Nat × Nat := ((fld x.seedAddr 8 6).toNat, (fld x.seedAddr 0 5).toNat)

/-- SYS_SEED_DATA. DESIGN CHOICE (notes/assumptions/84.md): with ITEM 24 to 31 it reads 0 and ignores writes. -/
def SysCtl.seedRead (x : SysCtl) : W32 :=
  if x.seedSel.2 < 24 then (x.seedItem x.seedSel.1 x.seedSel.2 &&& 0x3FF#16).setWidth 32 else 0
def SysCtl.seedWrite (x : SysCtl) (w : W32) : SysCtl :=
  let (e, i) := x.seedSel
  if 24 ≤ i then x
  else
    let v : BitVec 16 := BitVec.ofInt 16 (itemOf i (fld w 0 10))
    { x with seed := if v = neutralItem i then Tab.del x.seed (24 * e + i) else Tab.ins x.seed (24 * e + i) v }

/-- SEED_DATA_WRITE. -/
def execSeedDataWrite (p : Port) (w : W32) (s : State) : Res :=
  .next (s.writeIsl p 0x8008 fun s => { s with sys := s.sys.seedWrite w })

end Sys2Proof.Machine
end

