-- ==== Sys2Proof/Machine/LaneTx.lean ====
section
/-!
DEFINITION. The transmitter's side signals, the pattern generator and checker (R77 to R90), and the registers of block 0 of a lane
(R96 to R105).
-/
namespace Sys2Proof.Machine

/-! ### Inhibit and squelch (R81) -/

/-- The line lanes. -/
def State.lineLanes (s : State) : List LaneId := (List.finRange 96).filter fun n => s.isLine n.val

/-- TXINH_FALL: TXINH_N falls and stays low for lowPs picoseconds or longer. It commits once it has been low for a detection width
between 300 and 1,000 ps that the spec leaves open: a free value. -/
def execTxinhFall (lowPs : Nat) (s : State) : Res :=
  .next (
    let tDet := 300 + (s.freeBits 10).toNat % 701
    let s := s.tookFree
    let s : State := { s with pins := { s.pins with txinhHigh := false } }
    if tDet ≤ lowPs then
      let s := s.lineLanes.foldl (fun s n => (s.cutBurst n).modCom n fun c => { c with txen := false }) s
      State.report { s with pins := { s.pins with inhibited := true } } 940 3
    else s)

/-- TXINH_RISE. The 100 ns of R81 run from the end of a committed inhibit; a pulse that committed none has no effect. -/
def execTxinhRise (s : State) : Res :=
  .next { s with pins := { s.pins with
    txinhHigh := true, inhibited := false, txinhRise := if s.pins.inhibited then some s.now else s.pins.txinhRise } }

/-- LN_CTL_n.TX_SQUELCH written. -/
def State.txSquelch (s : State) (n : LaneId) (on : Bool) : State :=
  let s := s.modCom n fun c => { c with ctl := setBit c.ctl 3 on }
  if !on then s.txBegins n
  else if s.isLine n.val then (s.cutBurst n).modCom n fun c => { c with txen := false }
  else s

/-- TX_SQUELCH. -/
def execTxSquelch (p : Port) (n : LaneId) (on : Bool) (s : State) : Res :=
  .next (s.writeLane p n 0x000 .common fun s => s.txSquelch n on)

/-! ### Pattern generator and checker (R86 to R90) -/

/-- The frames that wait in the upstream queues of line lane n go to the sump: the generator replaces all its transmit data (R87). -/
def State.sumpQueued (s : State) (n : LaneId) : State :=
  let q := quadOf n.val
  let p : TmPort := vget {} (s.tm q false).ports (sliceOf n.val)
  let fs := ((s.tm q false).queues.filter fun e => p.owns e.1).flatMap fun e => e.2.frames
  let lens := fs.map fun f => f.frame.bytes.length - f.sent
  ((s.sumpN q 20 lens.length lens.sum).modTm q false fun t => { t with queues := t.queues.map fun e =>
    (e.1, if p.owns e.1 then e.2.without fun _ => true else e.2) }).floats q

/-- GEN_EN written. On a line lane no burst is served any more, and the frames that wait go to the sump; the pattern starts (R86, R87,
R184). -/
def State.genEn (s : State) (n : LaneId) (on : Bool) : State :=
  let s := s.modCom n fun c => { c with prbs := setBit c.prbs 2 on }
  if !on then s
  else
    let s := if s.isLine n.val then ((s.stopBursts n).modCom n fun c => { c with txen := false }).sumpQueued n else s
    s.txBegins n

/-- GEN_EN. -/
def execGenEn (p : Port) (n : LaneId) (on : Bool) (s : State) : Res :=
  .next (s.writeLane p n 0x018 .common fun s => s.genEn n on)

/-- k mismatching bits are counted; the first since the last read raises event 8n + 4 (R88, R90). -/
def State.prbsErrors (s : State) (n : LaneId) (k : Nat) : State :=
  if k = 0 then s
  else
    let armed := (s.lane n).com.errArmed
    (s.modCom n fun c => { c with prbsErr := satAdd c.prbsErr k, errArmed := false }).reportIf armed (laneEv n 4) 1

/-- The checker is to seed itself afresh. -/
def LaneCommon.reseed (c : LaneCommon) : LaneCommon := { c with chkLock := false, chkFill := 0, chkRun := 0, chkWin := [] }

/-- CHK_PAT. -/
def LaneCommon.chkPat (c : LaneCommon) : BitVec 2 := fld c.prbs 4 2

/-- The checker takes one received bit: what it becomes, and whether an error is counted (R88). It fills its register with the pattern's
length of bits, locks after the next 128 match, and while locked runs on by the pattern; before it is locked a mismatch seeds it afresh. -/
def LaneCommon.checkBit (c : LaneCommon) (b : Bool) : LaneCommon × Bool :=
  if c.chkFill < prbsLen c.chkPat then ({ c with chkReg := prbsPush c.chkReg b, chkFill := c.chkFill + 1 }, false)
  else
    let want := prbsNext c.chkPat c.chkReg
    let miss := b != want
    let c := { c with chkReg := prbsPush c.chkReg want }
    if c.chkLock then
      let c := { c with chkWin := (miss :: c.chkWin).take 256 }
      (if 64 ≤ c.chkWin.count true then c.reseed else c, miss)
    else if miss then (c.reseed, false)
    else if c.chkRun + 1 < 128 then ({ c with chkRun := c.chkRun + 1 }, false)
    else ({ c with chkLock := true, chkRun := 0, chkWin := [] }, false)

/-- One bit that lane n receives reaches its checker: the errors and the events of R88 and R90. -/
def State.checkBit (s : State) (n : LaneId) (b : Bool) : State :=
  let was := (s.lane n).com
  let (c, err) := was.checkBit b
  let s := (s.modCom n fun _ => c).prbsErrors n (if err then 1 else 0)
  s.reportIf (was.chkLock && !c.chkLock) (laneEv n 4) 1

/-- Bits that lane n has received reach its checker, in their order, with the polarity of RX_INV (R88, R97). -/
def State.checkBits (s : State) (n : LaneId) (bits : List Bool) : State :=
  if s.isOn (dRx n.val) && bit (s.lane n).com.prbs 6 then
    let inv := bit (s.lane n).com.ctl 4
    bits.foldl (fun s b => s.checkBit n (xor b inv)) s
  else s

/-- CHECKER_LOCK: bits received up to the one with which the checker locks, or any others (R88). -/
def execCheckerLock (n : LaneId) (bits : List Bool) (s : State) : Res := .next (s.checkBits n bits)

/-- CHECKER_LOCK_LOSS: bits received up to the one with which it loses lock, or any others (R88, R90). -/
def execCheckerLockLoss (n : LaneId) (bits : List Bool) (s : State) : Res := .next (s.checkBits n bits)

/-- LN_PRBS_ERR_n is read and cleared; the event is armed again (R90, R104). -/
def State.prbsErrRead (s : State) (n : LaneId) : W32 × State :=
  ((s.lane n).com.prbsErr, s.modCom n fun c => { c with prbsErr := 0, errArmed := true })

/-- PRBS_ERR_READ: the bits received before it since the last were given, then the read. -/
def execPrbsErrRead (p : Port) (n : LaneId) (bits : List Bool) (s : State) : Res :=
  .next ((s.checkBits n bits).readLane p n 0x01C .rx fun s => s.prbsErrRead n)

/-- k bits are to be inverted: with the next bit sent, or on a line lane that carries traffic after the delimiter of the next burst
served. It replaces an injection that waits (R89). -/
def State.injectBits (s : State) (n : LaneId) (k : Nat) : State :=
  (s.modCom n fun c => { c with inject := some k }).flushInject n

/-- BURST_LEN, 0 acting as 1. -/
def LaneCommon.burstLen (c : LaneCommon) : Nat := max 1 (fld c.prbs 16 8).toNat

/-- INJ_SINGLE. -/
def execInjSingle (p : Port) (n : LaneId) (s : State) : Res :=
  .next (s.writeLane p n 0x018 .common fun s => s.injectBits n 1)

/-- INJ_BURST. -/
def execInjBurst (p : Port) (n : LaneId) (s : State) : Res :=
  .next (s.writeLane p n 0x018 .common fun s => s.injectBits n (s.lane n).com.burstLen)

/-! ### Registers of block 0 -/

/-- LN_STATUS_n (R98). -/
def State.laneStatus (s : State) (n : LaneId) : W32 :=
  let c := (s.lane n).com
  atN 0 3 (s.role n.val) ||| at' 3 (s.pwrCode (dRx n.val)) ||| at' 5 (s.pwrCode (dTx n.val)) ||| atB 7 c.sigdet |||
    atB 8 c.cdrLock ||| at' 9 c.rxState.code ||| atB 12 c.priming ||| atB 13 c.noiseMode ||| atB 14 c.eqLimit |||
    atB 15 (c.txen && s.isLine n.val) ||| atB 16 (!s.pins.txinhHigh)

/-- A write of LN_CTL_n, field by field (R97). -/
def State.laneCtlWrite (s : State) (n : LaneId) (w : W32) : State :=
  let old := (s.lane n).com.ctl
  let s := s.modCom n fun c =>
    ({ c with ctl := (rw 0x003F7734#32 w) ||| (c.ctl &&& 0xA#32) } : LaneCommon).judgeMode
  let s := if bit w 1 == bit old 1 then s else s.eqFreeze n (bit w 1)
  let s := if bit w 3 == bit old 3 then s else s.txSquelch n (bit w 3)
  let s := if bit w 5 == bit old 5 then s else s.driveNow n
  if bit w 0 then s.rxRestart n else s

/-- A write of LN_PRBS_n, field by field (R103). A change of CHK_PAT reseeds the checker, and so does switching it off; a change of GEN_PAT
starts the new pattern. -/
def State.lanePrbsWrite (s : State) (n : LaneId) (w : W32) : State :=
  let old := (s.lane n).com.prbs
  let s := s.modCom n fun c =>
    let c := { c with prbs := (rw 0x00FF0073#32 w) ||| (c.prbs &&& 0x4#32) }
    if fld w 4 2 = fld old 4 2 ∧ bit w 6 then c else c.reseed
  let s := if bit w 2 == bit old 2 then (if fld w 0 2 = fld old 0 2 then s else s.startPattern n) else s.genEn n (bit w 2)
  let s := if bit w 8 then s.injectBits n 1 else s
  if bit w 9 then s.injectBits n (s.lane n).com.burstLen else s

/-- A write of LN_TX_CFG_n: it is held while a burst is in progress (R77, R79). -/
def State.txCfgWrite (s : State) (n : LaneId) (w : W32) : State :=
  (s.modCom n fun c => { c with
    txCfg := rw 0xFFFFFF3F#32 w
    txHeld := if c.txen then c.txHeld else rw 0xFFFFFF3F#32 w }).driveNow n

/-- The kind of each register of block 0 (R96). -/
def laneKind (off : Nat) : LaneKind :=
  if off = 0x008 ∨ off = 0x00C ∨ off = 0x010 ∨ off = 0x01C ∨ off = 0x024 then .rx else if off = 0x014 then .tx else .common

def State.laneRead (s : State) (n : LaneId) (off : Nat) : W32 × State :=
  let c := (s.lane n).com
  if off = 0x000 then (c.ctl, s)
  else if off = 0x004 then (s.laneStatus n, s)
  else if off = 0x008 then (c.sd, s)
  else if off = 0x00C then (c.tapRead, s)
  else if off = 0x010 then (c.noise, s)
  else if off = 0x014 then (c.txCfg, s)
  else if off = 0x018 then (c.prbs ||| atB 7 c.chkLock, s)
  else if off = 0x01C then s.prbsErrRead n
  else if off = 0x020 then (s.hbCfgRead n, s)
  else if off = 0x024 then (s.hbStatus n, s)
  else (0, s)

def State.laneWrite (s : State) (n : LaneId) (off : Nat) (w : W32) : State :=
  if off = 0x000 then s.laneCtlWrite n w
  else if off = 0x004 then s.modCom n fun c => { c with eqLimit := w1cB c.eqLimit w 14 }
  else if off = 0x008 then s.modCom n fun c => { c with sd := rw 0x00FFFFFF#32 w }
  else if off = 0x00C then s.modCom n fun c => c.tapWrite w
  else if off = 0x014 then s.txCfgWrite n w
  else if off = 0x018 then s.lanePrbsWrite n w
  else if off = 0x020 then s.hbCfgWrite n w
  else s

end Sys2Proof.Machine
end

