-- ==== Sys2Proof/Machine/TimeOps.lean ====
section
/-!
DEFINITION. The count and what acts on it (R425, R429, R431, R436, R440 to R445): the tick, steps of the count, stamps of a lane's
replica, the downstream delay and the servo's reference losses. Phase errors and times are integers in units of 2^−32 ns.
-/
namespace Sys2Proof.Machine

/-- Division rounded to the nearest integer, halves upwards. -/
def roundDiv (n d : Int) : Int := (2 * n + d) / (2 * d)

/-- One nanosecond in units of 2^−32 ns. -/
def nsUnit : Int := 4294967296

/-- The nominal increment and the ends of the range of R426. -/
def incrNominal : Nat := 0x0001_9999_999A
def incrMin : Nat := 6865075726
def incrMax : Nat := 6878819622

/-- The increment is set, and the change is kept for HOLD_INCR. -/
def State.setIncr (s : State) (v : BitVec 40) : State :=
  { s with tim := { s.tim with incr := v, incrHist := (s.now, v) :: s.tim.incrHist } }

/-! ### Fields of TIM_CTL (R449) -/

def Time.srcField (t : Time) : Nat :=
  let v := (fld t.ctl 0 2).toNat
  if v = 3 then 0 else v
def Time.refLane (t : Time) : Nat := (fld t.ctl 2 7).toNat
def Time.stepEn (t : Time) : Bool := bit t.ctl 9
def Time.dispEn (t : Time) : Bool := bit t.ctl 10
def Time.holdBit (t : Time) : Bool := bit t.ctl 11
def Time.kp (t : Time) : Nat := (fld t.ctl 12 4).toNat
def Time.ki (t : Time) : Nat := (fld t.ctl 16 4).toNat
/-- LOCK_TH in units of 2^−32 ns; 0 acts as 1. -/
def Time.lockTh (t : Time) : Int := (max 1 (fld t.ctl 20 4).toNat : Nat) * nsUnit
/-- STEP_TH in units of 2^−32 ns; 0 acts as 1. -/
def Time.stepTh (t : Time) : Int := ((max 1 (fld t.ctl 24 8).toNat * 100 : Nat) : Int) * nsUnit

/-! ### Steps of the count (R428, R441, R445) -/

/-- A comparator after the count has been stepped by delta ns from before: a target left more than 2^39 − 1 ns ahead disarms it
and sets REFUSED; a target stepped past fires (R445). -/
def Cmp.stepped (c : Cmp) (before : W64) (delta : Int) : Cmp :=
  if !c.armed then c
  else
    let d := (c.target - before.setWidth 40).toInt - delta
    if d > 2 ^ 39 - 1 then { c with armed := false, refused := true, due := false }
    else { c with due := c.due || decide (d ≤ 0) }

/-- The count becomes v: STEPPED, event 1009, and the comparators are judged (R428, R445). -/
def State.putCount (s : State) (v : BitVec 96) : State :=
  let before := s.tim.ns
  let delta : Int := ((v.extractLsb' 32 64 : W64).toNat : Int) - (before.toNat : Int)
  let t := { s.tim with count := v, stepped := true, cmp := s.tim.cmp.map fun c => c.stepped before delta }
  State.report { s with tim := t } 1009 1

/-- The count is stepped by d units of 2^−32 ns. -/
def State.stepCount (s : State) (d : Int) : State := s.putCount (s.tim.count + BitVec.ofInt 96 d)

/-! ### The tick (R425, R428) -/

/-- The part of a SLEW that one tick adds: at most SLEW_PPM ppm of 1.6 ns. -/
def Time.slewTick (t : Time) : Int :=
  let m : Int := (t.slewPpm * 6871947673600 / 1000000000 : Nat)
  max (-m) (min m t.slew)

/-- The whole second of the count less TIM_PPS_OFS, for a count in units of 2^−32 ns. -/
def Time.ppsSecond (t : Time) (v : Nat) : Int := ((v : Int) - t.ppsOfs.toInt * nsUnit) / (1000000000 * nsUnit)

/-- Where a tick from count a to count b reaches a whole second plus TIM_PPS_OFS: the sixteenth of the tick, the nearest (R446). -/
def Time.ppsReach (t : Time) (a b : Nat) : Option Nat :=
  if t.ppsSecond a < t.ppsSecond b then
    some (roundDiv ((t.ppsSecond b * (1000000000 * nsUnit) + t.ppsOfs.toInt * nsUnit - a) * 16) ((b : Int) - a)).toNat
  else none

/-- The level of TCLK_OUT at a count in nanoseconds: it rises at the multiples of its period, and is high for half of it (R446). -/
def Time.tclkAt (t : Time) (ns : Nat) : Bool :=
  match (fld t.ppsCtl 10 2).toNat with
  | 0 => false
  | 1 => decide (ns % 100 < 50)
  | 2 => decide (ns % 40 < 20)
  | _ => decide (ns % 8 < 4)

/-- One tick of the time island's clock. -/
def Time.tick (t : Time) : Time :=
  let d := t.slewTick
  let v := t.count + t.incr.setWidth 96 + BitVec.ofInt 96 d
  let due := match t.ppsReach t.count.toNat v.toNat with | some k => some k | none => t.ppsDue
  { t with count := v, slew := t.slew - d, ppsDue := due, tclk := t.tclkAt (v.toNat / 2 ^ 32) }

/-! ### Replicas and stamps (R429 to R432) -/

/-- The replica of lane n at this moment, in units of 2^−32 ns. -/
def State.replica (s : State) (n : LaneId) : Nat :=
  let t := (s.lane n).ts
  (t.repBase.toNat + (s.now - t.repAt) / 16 * t.repIncr.toNat) % 2 ^ 96

/-- A delay of d sixteenths of a unit interval in units of 2^−32 ns, rounded to nearest: 9.95328 Gbit/s on line and SDH lanes,
10.3125 GBd on the others (R431, R432). -/
def uiDelay (line : Bool) (d : Nat) : Int :=
  if line then roundDiv (d * 2 ^ 32 * 100000) (16 * 995328) else roundDiv (d * 2 ^ 32 * 10000) (16 * 103125)

/-- A moment in units of 2^−32 ns as a stamp with the status that the replica last received (R431): the fraction is rounded to
nearest. -/
def LaneTs.stampOf (t : LaneTs) (v : Int) : Stamp :=
  let q := roundDiv v 65536
  { ns := BitVec.ofInt 64 (q / 65536), frac := BitVec.ofInt 16 (q % 65536), state := t.repState, valid := t.repValid,
    stale := t.stale }

/-- A frame with a stamp request has left lane n: its stamp may be taken (R430). -/
def State.noteTag (s : State) (n : LaneId) (tag : Option (BitVec 16)) : State :=
  match tag with
  | some t => s.modLane n fun l => { l with ts := { l.ts with tags := l.ts.tags ++ [t] } }
  | none => s

/-- The moment of a receive stamp of lane n: the replica less RX_DELAY (R432). -/
def State.rxMoment (s : State) (n : LaneId) : Int :=
  (s.replica n : Int) - uiDelay (s.isLine n || s.isSdh n) (s.lane n).ts.rxDelay.toNat

/-- A receive stamp of lane n (R430 to R432). -/
def State.rxStamp (s : State) (n : LaneId) : Stamp := (s.lane n).ts.stampOf (s.rxMoment n)

/-- A transmit stamp of lane n: the replica plus TX_DELAY (R432). -/
def State.txStamp (s : State) (n : LaneId) : Stamp :=
  (s.lane n).ts.stampOf ((s.replica n : Int) + uiDelay (s.isLine n || s.isSdh n) (s.lane n).ts.txDelay.toNat)

/-! ### The servo's reference (R441) -/

/-- HOLD_INCR: the mean increment over the second that ends 100 ms before now (R441), as a sum over the changes kept, with the
remainder that rounding leaves open. -/
def meanIncr (now : Nat) : List (Nat × BitVec 40) → Nat → Nat
  | [], _ => 0
  | [(t, v)], hi =>
    -- the nominal increment before the first change
    let lo := now - 11 * 10 ^ 9
    let t' := min hi (max t lo)
    v.toNat * (hi - t') + incrNominal * (t' - lo)
  | (t, v) :: rest, hi =>
    let lo := now - 11 * 10 ^ 9
    let t' := max t lo
    if t' < hi then v.toNat * (hi - t') + meanIncr now rest t' else meanIncr now rest hi

/-- The mean in increments, rounded down or up by a free bit: the spec gives no rounding. -/
def State.holdMean (s : State) : BitVec 40 :=
  match s.tim.incrHist with
  | [] => s.tim.incr
  | h =>
    let lo := s.now - 11 * 10 ^ 9
    let hi := s.now - 10 ^ 9
    if hi ≤ lo then s.tim.incr
    else
      let n := meanIncr s.now h hi
      let d := hi - lo
      BitVec.ofNat 40 (n / d + if n % d = 0 then 0 else (s.freeBits 1).toNat)

/-- The runs of samples are emptied. -/
def Time.noRuns (t : Time) : Time := { t with samples := 0, lowRun := 0, highRun := 0, wildRun := 0, holdRun := [] }

/-- The reference is lost or changed: HOLDOVER with HOLD_INCR once a rate has been learned, else PRIMING with the nominal
increment; event 1008 (R441). -/
def State.refLoss (s : State) : State :=
  let m := s.holdMean
  let s := s.tookFree
  let s : State :=
    if s.tim.noRate then
      ({ s with tim := { s.tim.noRuns with state := .priming } } : State).setIncr (BitVec.ofNat 40 incrNominal)
    else
      ({ s with tim := { s.tim.noRuns with state := .holdover, holdIncr := m } } : State).setIncr m
  ({ s with tim := { s.tim with refLost := true } } : State).report 1008 2

/-- An armed latch is removed (R428, R438). -/
def State.disarmTod (s : State) : State := { s with tim := { s.tim with todArmed := false } }

/-! ### The downstream delay (R436) -/

/-- The inputs of τ_ds that the reference lane gives: item 0x04 in sixteenths of a nanosecond, and its channels where known. -/
structure RangingInputs where
  roundTrip : W32
  channels : Option (BitVec 4 × BitVec 4)

/-- τ_ds as a fraction of nanoseconds, numerator and denominator (R436). dt is 0 where the dispersion inputs are missing. -/
def tauFraction (t : Time) (asym : Int) (r : RangingInputs) : Int × Int :=
  let km : Int := (max 1 t.kmDelay.toNat : Nat)
  let b : Int :=
    match (if t.dispEn then r.channels else none) with
    | none => 0
    | some (ds, us) =>
      let wu := (vget 0#32 t.wl (16 + us.toNat)).toNat
      let wd := (vget 0#32 t.wl ds.toNat).toNat
      if wu = 0 ∨ wd = 0 then 0
      else
        let xu : Int := (wu : Int) - t.dispL0.toNat
        let xd : Int := (wd : Int) - t.dispL0.toNat
        200000 * t.dispD0.toInt * (xu - xd) + t.dispS0.toInt * (xu * xu - xd * xd)
  let it : Int := r.roundTrip.toNat
  -- (it / 16 − it · b / (32 · km · 2 · 10^14)) / 2 + asym / 65,536
  let d : Int := 65536 * 200000000000000 * km
  (it * 2048 * 200000000000000 * km - it * b * 1024 + asym * 200000000000000 * km, d)

/-- τ_ds in units of 2^−32 ns and in sixteenths of a nanosecond, none while the round trip is unknown. -/
def tauOf (t : Time) (asym : Int) (r : RangingInputs) : Option (Int × W32) :=
  if r.roundTrip = 0xFFFFFFFF#32 then none
  else
    let (n, d) := tauFraction t asym r
    some (roundDiv (n * nsUnit) d, BitVec.ofInt 32 (roundDiv (n * 16) d))

end Sys2Proof.Machine
end

