-- ==== Sys2Proof/Machine/Downstream.lean ====
section
/-!
DEFINITION. The downstream framer of a line lane (R108 to R137): hunt, frames, FEC windows, BWmap and PLOAM filters, XGEM delineation,
TC decryption, reassembly and its registers.
-/
namespace Sys2Proof.Machine

/-- Lane n receives as a line lane. -/
def State.dsOn (s : State) (n : LaneId) : Bool := s.isLine n.val && s.isOn (dRx n.val)

/-- Lane n is in SYNC. -/
def State.inSync (s : State) (n : LaneId) : Bool := s.dsOn n && (s.lane n).ds.sync == .sync

/-! ### Hunt (R110, R111) -/

/-- PSYNC_CANDIDATE: the 64 bits at position pos equal PSync. -/
def execPsyncCandidate (n : LaneId) (pos : Nat) (s : State) : Res :=
  .next (
    let d := (s.lane n).ds
    if !s.dsOn n || d.sync == .sync then s
    else if d.cands.length < 8 then s.modDs n fun d => { d with sync := .presync, cands := d.cands ++ [pos] }
    else s.dsCnt n 26)

/-- A reassembly is abandoned: its bytes are counted in the sump, and the SDU's later fragments are discarded (R127). -/
def State.abandonSdu (s : State) (n : LaneId) (port : BitVec 16) (more : Bool) : State :=
  let d := (s.lane n).ds
  match d.reasm.find? fun r => r.port == port with
  | some r =>
    let s := ((s.toSump (quadOf n.val) 2 r.data.length).dsCnt n 24)
    s.modDs n fun d => { d with
      reasm := d.reasm.filter fun r => r.port != port
      poison := if more && !d.poison.contains port then port :: d.poison else d.poison }
  | none =>
    if more && !d.poison.contains port then (s.dsCnt n 24).modDs n fun d => { d with poison := port :: d.poison } else s

/-- Every reassembly is abandoned (R119). -/
def State.abandonAll (s : State) (n : LaneId) : State :=
  ((s.lane n).ds.reasm.map (·.port)).foldl (fun s p => s.abandonSdu n p true) s

/-- The word of an HLend field as item 0x304 holds it, in the order sent: length, count, HEC. -/
def hlendWord (h : HlEnd) : W32 :=
  let v : BitVec 19 := (h.bwLen ++ h.ploams).cast (by decide)
  at' 13 v ||| at' 0 (hec v)

/-- PON-ID of a frame (R115). The first PON-ID latched in this SYNC neither sets PONID_CHG nor raises the event, be it the lane's first frame in
SYNC or one after frames whose PON-ID was uncorrectable: the spec says so of the event and leaves the bit open, DESIGN CHOICE
(notes/assumptions/91.md). -/
def State.ponIdRx (s : State) (n : LaneId) (ponId : Hec (BitVec 51)) : State :=
  match ponId.val with
  | none => s.dsCnt n 5
  | some v =>
    let d := (s.lane n).ds
    let chg := d.ponLatched && d.ponId != v
    let s := s.modDs n fun d => { d with ponId := v, ponLatched := true, ponidChg := d.ponidChg || chg }
    -- The steward identifies the channel by the PON-ID where none is known, and anew where it changes (R115, R171).
    let s := s.modAct n fun a =>
      if a.chKnown && !chg then a
      else { a with chDs := (Config.ponChannels v).1, chUs := (Config.ponChannels v).2, chKnown := true }
    s.reportIf chg (laneEv n 6) 1

/-- HLend of a frame: where it fails, no later part of the frame is located (R119). -/
def State.hlendRx (s : State) (n : LaneId) (hlend : Hec HlEnd) : State :=
  match hlend.val with
  | none => ((s.dsCnt n 10).modDs n fun d => { d with located := false, delineated := false }).abandonAll n
  | some h => s.modDs n fun d => { d with
      hlend := hlendWord h, located := true, delineated := true, pos := 4 + 8 * h.bwLen.toNat + 48 * h.ploams.toNat }

/-- A frame received in SYNC from its PON-ID on; its PSync stamp goes to the time island where the lane is REF_LANE (R114). -/
def State.frameRx (s : State) (n : LaneId) (ponId : Hec (BitVec 51)) (hlend : Hec HlEnd) : State :=
  let s := (s.dsCnt n 0).modDs n fun d => { d with
    onuId := fld d.ctl 0 10, frameNo := d.frameNo + 1, words := 0, badWords := [] }
  let s : State := if s.tim.refLane = n.val then
      { s with tim := { s.tim with psync := some { time := s.rxMoment n, sfc := (s.lane n).ds.sfc } } }
    else s
  (s.ponIdRx n ponId).hlendRx n hlend

/-- CANDIDATE_CHECK_POINT: one frame after the candidate at pos, PSync shows bitErrs errors and the SFC follows; in SYNC the frame is
processed from there (R110, R111). -/
def execCandidateCheckPoint (n : LaneId) (pos bitErrs : Nat) (sfc ponId : Hec (BitVec 51)) (hlend : Hec HlEnd) (s : State) : Res :=
  .next (
    let d := (s.lane n).ds
    if !s.dsOn n || d.sync != .presync || !d.cands.contains pos then s
    else
      match (if bitErrs = 0 then sfc.val else none) with
      | some v =>
        let s := s.modDs n fun d => { d with sync := .sync, cands := [], misses := 0, sfc := v, winCorr := 0, winUnc := 0 }
        let s := if sfc.isCorrected then s.dsCnt n 2 else s
        ((s.syncGained n).judgeLock n).frameRx n ponId hlend
      | none =>
        let rest := d.cands.erase pos
        s.modDs n fun d => { d with cands := rest, sync := if rest = [] then .hunt else .presync })

/-- The superframe counter of a frame in SYNC (R114). -/
def State.sfcRx (s : State) (n : LaneId) (sfc : Hec (BitVec 51)) : State :=
  let want := (s.lane n).ds.sfc + 1
  let s := s.modDs n fun d => { d with sfc := sfc.val.getD want }
  match sfc with
  | .bad => s.dsCnt n 3
  | .valid v => if v = want then s else s.dsCnt n 4
  | .corrected v => if v = want then s.dsCnt n 2 else (s.dsCnt n 2).dsCnt n 4

/-- The framer loses the frame at the fourth PSync miss in a row: LOF, event 8n + 1 (R110). -/
def State.lofEntry (s : State) (n : LaneId) : State := ((s.dsCnt n 27).huntLine n).report (laneEv n 1) 2

/-- DS_FRAME: the expected PSync position of a frame in SYNC (R110, R114, R115, R119). -/
def execDsFrame (n : LaneId) (bitErrs : Nat) (sfc ponId : Hec (BitVec 51)) (hlend : Hec HlEnd) (s : State) : Res :=
  .next (
    if !s.inSync n then s
    else if 3 ≤ bitErrs ∧ (s.lane n).ds.misses = 3 then s.lofEntry n
    else
      let s := if 3 ≤ bitErrs then (s.dsCnt n 1).modDs n fun d => { d with misses := d.misses + 1 }
        else s.modDs n fun d => { d with misses := 0 }
      (s.sfcRx n sfc).frameRx n ponId hlend)

/-- HUNT_RESTART (R110, R112). -/
def State.huntRestart (s : State) (n : LaneId) : State := if s.isLine n.val then s.huntLine n else s
def execHuntRestart (p : Port) (n : LaneId) (s : State) : Res :=
  .next (s.writeLane p n 0x2000 .rx fun s => s.huntRestart n)

/-! ### Forward error correction (R116, R118) -/

/-- Data bytes of a codeword (R108). -/
def wordBytes : Nat := 216

/-- Some of the bytes lo to hi − 1 of the present TC frame lie in a codeword marked as uncorrectable (R116, R117). -/
def LineDs.marked (d : LineDs) (lo hi : Nat) : Bool :=
  d.badWords.any fun w => decide (lo < (w + 1) * wordBytes ∧ w * wordBytes < hi)

/-- FEC_CODEWORD: the next codeword of the frame, with byteErrs byte errors, leaves the decoder. -/
def execFecCodeword (n : LaneId) (byteErrs : Nat) (s : State) : Res :=
  .next (
    if !s.inSync n then s
    else
      let s := (s.dsCnt n 6).modDs n fun d => { d with
        words := d.words + 1, badWords := if 16 < byteErrs then d.words :: d.badWords else d.badWords }
      if byteErrs = 0 then s
      else if byteErrs ≤ 16 then
        ((s.dsCnt n 7).dsCnt n 8 byteErrs).modDs n fun d => { d with winCorr := d.winCorr + byteErrs }
      else (s.dsCnt n 9).modDs n fun d => { d with winUnc := d.winUnc + 1 })

/-- FEC_WINDOW_END: a window of 8 × 10^WIN frames ends (R118). -/
def execFecWindowEnd (n : LaneId) (s : State) : Res :=
  .next (
    if !s.inSync n then s
    else
      let d := (s.lane n).ds
      let ct := (fld d.fecTh 0 20).toNat
      let ut := (fld d.fecTh 20 10).toNat
      let co := decide (ct ≠ 0 ∧ ct ≤ d.winCorr)
      let uo := decide (ut ≠ 0 ∧ ut ≤ d.winUnc)
      let rose := (co && !d.corrOver) || (uo && !d.uncOver)
      let s := s.modDs n fun d => { d with
        corrOver := co, uncOver := uo, winCorr := 0, winUnc := 0, fecSeen := d.fecSeen || rose }
      s.reportIf rose (laneEv n 2) 1)

/-- A write of LN_DS_FEC_TH_n ends the window unjudged (R118). -/
def State.fecThWrite (s : State) (n : LaneId) (w : W32) : State :=
  s.modDs n fun d => { d with fecTh := w, winCorr := 0, winUnc := 0 }
def execFecThWrite (p : Port) (n : LaneId) (w : W32) (s : State) : Res :=
  .next (s.writeLane p n 0x2008 .rx fun s => s.fecThWrite n w)

/-! ### BWmap and PLOAM messages (R120, R121, R175) -/

/-- The lane's filter matches an allocation structure in the present activation state (R175). -/
def Lane.matchesAlloc (l : Lane) (a : AllocStruct) : Bool :=
  match l.act.state with
  | .o23 => a.alloc == 0x3FF#14 && a.ploamu
  | .o4 => l.pump.filter.any fun e => match e with | some e => e.dflt && e.alloc == a.alloc | none => false
  | .o9 => l.pump.filter.any fun e => match e with | some e => e.dflt && e.alloc == a.alloc | none => false
  | _ => l.pump.filter.any fun e => match e with | some e => e.alloc == a.alloc | none => false

/-- ALLOC_STRUCTURE: structure idx of the present frame's BWmap. -/
def execAllocStructure (n : LaneId) (idx : Nat) (a : Hec AllocStruct) (s : State) : Res :=
  .next (
    if !s.inSync n || !(s.lane n).ds.located then s
    else
      match a.val with
      | none => s.dsCnt n 11
      | some v =>
        if (s.lane n).matchesAlloc v then
          (s.dsCnt n 12).modPump n fun p =>
            { p with grantQ := p.grantQ ++ [{ a := v, idx := idx, frame := (s.lane n).ds.frameNo, sfc := (s.lane n).ds.sfc }] }
        else s)

/-- DS_PLOAM: a message is kept, dropped on overflow, or left to others (R121). -/
def execDsPloam (n : LaneId) (m : Ploam) (s : State) : Res :=
  .next (
    let d := (s.lane n).ds
    let mine := (m.onuId == d.onuId && d.onuValid) || (m.onuId == 0x3FF#10 && bit d.ctl 11)
    if !s.inSync n || !d.located || !mine then s
    else if d.ploamQ.length < 16 then (s.dsCnt n 13).modDs n fun d => { d with ploamQ := d.ploamQ ++ [m] }
    else ((s.dsCnt n 14).modDs n fun d => { d with ploamOvf := true }).report (laneEv n 6) 1)

/-! ### XGEM frames (R122 to R128) -/

/-- An XGEM frame is dropped on counter c, and its SDU with it where its port is the lane's (R117, R127, R128). -/
def State.dropXgem (s : State) (n : LaneId) (c : Nat) (h : XgemHdr) : State :=
  let s := (s.dsCnt n c).toSump (quadOf n.val) 2 h.pli.toNat
  if ((s.lane n).ds.portEntry h.port).isNone then s
  else
  let opened := (s.lane n).ds.reasm.any fun r => r.port == h.port
  let s := if opened || !h.lf then s.abandonSdu n h.port (!h.lf) else s
  if h.lf then s.modDs n fun d => { d with poison := d.poison.filter fun p => p != h.port } else s

/-- A frame enters the parser of a quadrant, or goes to the sump where the quadrant is dark or not ON (R25, R532). -/
def State.toParser (s : State) (q : Nat) (f : Frame) : State :=
  if s.isDark q || !s.isOn (dQuad q) then s.toSump q 16 f.bytes.length else s.modQuadN q fun x => { x with parseQ := x.parseQ ++ [f] }

/-- An SDU goes to its destination by its port's KIND (R21, R124, R158, R204). -/
def State.deliverSdu (s : State) (n : LaneId) (e : BitVec 20) (port : BitVec 16) (bytes : List Byte) (stamp : Stamp) : State :=
  if portKind e = 2 then
    let msg := bytes.take (bytes.length - 4)
    let ok := Config.omciMic (s.tcKey n 1) msg == bytes.drop (bytes.length - 4)
    let s := s.dsCnt n 28
    { s with hif := { s.hif with puntQ := s.hif.puntQ ++
        [{ kind := 3, reason := 0, lane := n.val, down := true, xgemPort := port, rule := puntRule (quadOf n.val) none,
           bytes := bytes, stamp := none, mic := some ok, quad := quadOf n.val }] } }
  else if portKind e = 3 then (s.dsCnt n 29).modDs n fun d => { d with bondQ := d.bondQ ++ [bytes] }
  else if (s.groupOf n.val).isSome && s.mstate n != .indep && !(s.lane n).bond.bypass then
    s.modDs n fun d => { d with sduQ := d.sduQ ++ [{ lane := n.val, tag := d.sfc, port := port, bytes := bytes, stamp := stamp }] }
  else s.toParser (quadOf n.val) { lane := n.val, down := true, xgemPort := port, bytes := bytes, stamp := some stamp }

/-- A decrypted XGEM frame joins its SDU (R127). -/
def State.reassemble (s : State) (n : LaneId) (e : BitVec 20) (h : XgemHdr) (data : List Byte) : State :=
  let d := (s.lane n).ds
  if d.poison.contains h.port then
    if h.lf then s.modDs n fun d => { d with poison := d.poison.filter fun p => p != h.port } else s
  else
    match d.reasm.find? fun r => r.port == h.port with
    | some r =>
      let all := r.data ++ data
      if 16000 < all.length then
        (s.modDs n fun d => { d with reasm := d.reasm.map fun x => if x.port == h.port then { x with data := all } else x }).dsCnt n 25
          |>.abandonSdu n h.port (!h.lf)
      else if h.lf then
        (s.modDs n fun d => { d with reasm := d.reasm.filter fun x => x.port != h.port }).deliverSdu n e h.port all r.stamp
      else s.modDs n fun d => { d with reasm := d.reasm.map fun x => if x.port == h.port then { x with data := all } else x }
    | none =>
      if h.lf then
        if 16000 < data.length then ((s.dsCnt n 25).dsCnt n 24).toSump (quadOf n.val) 2 data.length
        else s.deliverSdu n e h.port data (s.rxStamp n)
      else if 16 ≤ d.reasm.length then (s.toSump (quadOf n.val) 2 data.length).abandonSdu n h.port true
      else s.modDs n fun d => { d with reasm := d.reasm ++ [{ port := h.port, data := data, stamp := s.rxStamp n }] }

/-- A frame of a port of the lane: its key, its decryption and its SDU (R128). DESIGN CHOICE (notes/assumptions/31.md): a fragment of an SDU that
has been abandoned counts as accepted, and its discard on no counter. -/
def State.portFrame (s : State) (n : LaneId) (e : BitVec 20) (h : XgemHdr) (at_ : Nat) (payload : List Byte) : State :=
  let d := (s.lane n).ds
  let k := h.key.toNat
  let slot := (if portKind e = 1 then 2 else 0) + (k - 1)
  let accept (s : State) (data : List Byte) : State :=
    ((s.dsCnt n 17).dsCnt n 18 h.pli.toNat).reassemble n e h data
  if k = 0 then if portEnc e then s.dropXgem n 23 h else accept s payload
  else
    match (if k = 3 then none else vget none d.keys slot) with
    | none =>
      let s := (s.modDs n fun d => { d with keyMiss := true }).reportIf (!d.keyMiss) (laneEv n 6) 1
      s.dropXgem n 22 h
    | some key =>
      -- The first unicast frame decrypted with a newly installed key makes its index that of the upstream frames (R156).
      let s := if portKind e ≠ 1 ∧ !bit (s.lane n).act.keyUsed (k - 1) then
          s.modAct n fun a => { a with keyUsed := setBit a.keyUsed (k - 1) true, usKeyIdx := h.key }
        else s
      accept s (Config.tcCipher false key d.sfc at_ payload)

/-- XGEM_FRAME_RX: the next XGEM frame of the TC frame; idle says that it has the idle format. Of an idle frame, too, any marked byte
makes an FEC drop (R117, R122 to R128). -/
def execXgemFrameRx (n : LaneId) (h : Hec XgemHdr) (idle : Bool) (payload : List Byte) (s : State) : Res :=
  .next (
    let d := (s.lane n).ds
    let lose (s : State) : State := (s.dsCnt n 16).modDs n fun d => { d with delineated := false }
    if !s.inSync n || !d.delineated then s
    else
      match h.val with
      | none => lose s
      | some v =>
        let s := if h.isCorrected then s.dsCnt n 15 else s
        let next := d.pos + 8 + pad4 v.pli.toNat
        if 135432 < next then lose s
        else
          let s := s.modDs n fun d => { d with pos := next }
          let bytes := padTo v.pli.toNat payload
          if d.marked d.pos (d.pos + 8 + v.pli.toNat) then
            if idle then (s.dsCnt n 21).toSump (quadOf n.val) 2 v.pli.toNat else s.dropXgem n 21 v
          else if idle then s.dsCnt n 20
          else
            match d.portEntry v.port with
            | none => s.dsCnt n 19
            | some e => s.portFrame n e v (d.pos + 8) bytes)

/-- REASSEMBLY_TIMEOUT: no further fragment within 8 frames (R127). -/
def execReassemblyTimeout (n : LaneId) (port : BitVec 16) (s : State) : Res :=
  .next (if (s.lane n).ds.reasm.any fun r => r.port == port then s.abandonSdu n port true else s)

/-! ### Registers (R132 to R137) -/

/-- Valid port-table entries of the quadrant's line lanes (R125). -/
def State.portsUsed (s : State) (q : Nat) : Nat :=
  ((List.finRange 96).map fun n =>
    if n.val / 24 = q ∧ s.isLine n.val then ((s.lane n).ds.ports.filter fun e => entryValid e.2).length else 0).sum

/-- A write of port-table entry i (R125). -/
def State.portWriteDs (s : State) (n : LaneId) (i : Nat) (w : W32) : State :=
  let v : BitVec 20 := fld w 0 20
  let old := Tab.get 0#20 (s.lane n).ds.ports i
  if entryValid v && !entryValid old && decide (s.xgemPorts (quadOf n.val) ≤ s.portsUsed (quadOf n.val)) then
    s.modDs n fun d => { d with portRefused := true }
  else (s.modDs n fun d => { d with ports := Tab.put 0#20 d.ports i v }).probe n

/-- ITEM + 1 after an access to a lane's window data where AUTO_INC is set (R136). -/
def laneWinStep (a : W32) : W32 := if bit a 12 then putFld a 0 (fld a 0 12 + 1#12) else a
def laneItem (a : W32) : Nat := (fld a 0 12).toNat

/-- A read of an item of the window (R137). -/
def State.dsItem (s : State) (p : Port) (n : LaneId) (i : Nat) : W32 × State :=
  let d := (s.lane n).ds
  let key := laneBase n.val + 0x2010
  if i < 0x100 then ((Tab.get 0#20 d.ports i).setWidth 32, s)
  else if 0x200 ≤ i ∧ i < 0x23C then s.readPair p key (vget 0 d.cnt ((i - 0x200) / 2)) (i % 2 == 1)
  else if 0x300 ≤ i ∧ i < 0x302 then s.readPair p key (d.sfc.setWidth 64) (i % 2 == 1)
  else if 0x302 ≤ i ∧ i < 0x304 then s.readPair p key (d.ponId.setWidth 64) (i % 2 == 1)
  else if i = 0x304 then (d.hlend, s)
  else (0, s)

def State.dsWinRead (s : State) (p : Port) (n : LaneId) : W32 × State :=
  let (v, s) := s.dsItem p n (laneItem (s.lane n).ds.winAddr)
  (v, s.modDs n fun d => { d with winAddr := laneWinStep d.winAddr })

def State.dsWinWrite (s : State) (n : LaneId) (w : W32) : State :=
  let i := laneItem (s.lane n).ds.winAddr
  let s := if i < 0x100 then s.portWriteDs n i w else s
  s.modDs n fun d => { d with winAddr := laneWinStep d.winAddr }

/-- LN_DS_STATUS_n (R134). -/
def Lane.dsStatus (l : Lane) : W32 :=
  let d := l.ds
  at' 0 d.sync.code ||| atN 2 4 d.cands.length ||| at' 6 d.misses ||| atB 8 (!l.com.sigdet) ||| atB 9 (d.sync != .sync) |||
    atB 10 d.lofSeen ||| atB 11 d.corrOver ||| atB 12 d.uncOver ||| atB 13 d.fecSeen |||
    atB 14 (vget none d.keys 0).isSome ||| atB 15 (vget none d.keys 1).isSome ||| atB 16 (vget none d.keys 2).isSome |||
    atB 17 (vget none d.keys 3).isSome ||| atB 18 d.keyMiss ||| atB 19 d.ponidChg ||| atB 20 d.ploamOvf |||
    atB 21 d.portRefused ||| atN 22 5 d.ploamQ.length

def LineDs.statusClear (d : LineDs) (w : W32) : LineDs :=
  { d with
    lofSeen := w1cB d.lofSeen w 10, fecSeen := w1cB d.fecSeen w 13, keyMiss := w1cB d.keyMiss w 18
    ponidChg := w1cB d.ponidChg w 19, ploamOvf := w1cB d.ploamOvf w 20, portRefused := w1cB d.portRefused w 21 }

/-- CNT_CLR (R130). -/
def State.dsCntClr (s : State) (n : LaneId) : State := s.modDs n fun d => { d with cnt := Vector.replicate 30 0 }

/-- A write of LN_DS_CTL_n (R133). -/
def State.dsCtlWrite (s : State) (n : LaneId) (w : W32) : State :=
  let s := s.modDs n fun d => { d with ctl := rw 0xFFF#32 w }
  let s := if bit w 12 then s.huntRestart n else s
  if bit w 13 then s.dsCntClr n else s

/-- Block 1 of a line lane, by offset from 0x2000. -/
def State.dsRead (s : State) (p : Port) (n : LaneId) (off : Nat) : W32 × State :=
  let d := (s.lane n).ds
  if off = 0 then (d.ctl, s)
  else if off = 4 then ((s.lane n).dsStatus, s)
  else if off = 8 then (d.fecTh, s)
  else if off = 0xC then (d.winAddr, s)
  else if off = 0x10 then s.dsWinRead p n
  else (0, s)

def State.dsWrite (s : State) (n : LaneId) (off : Nat) (w : W32) : State :=
  if off = 0 then s.dsCtlWrite n w
  else if off = 4 then s.modDs n fun d => d.statusClear w
  else if off = 8 then s.fecThWrite n w
  else if off = 0xC then s.modDs n fun d => { d with winAddr := rw 0x1FFF#32 w }
  else if off = 0x10 then s.dsWinWrite n w
  else s

/-- PORT_TABLE_WRITE: a write of the window data while the window names a port-table entry (R125). -/
def execPortTableWrite (p : Port) (n : LaneId) (w : W32) (s : State) : Res :=
  .next (if s.isLine n.val ∧ laneItem (s.lane n).ds.winAddr < 0x100 then
      s.writeLane p n 0x2010 .rx fun s => s.dsWinWrite n w
    else s)

/-- DS_CNT_CLR: LN_DS_CTL_n.CNT_CLR. -/
def execDsCntClr (p : Port) (n : LaneId) (s : State) : Res :=
  .next (if s.isLine n.val then s.writeLane p n 0x2000 .rx fun s => s.dsCntClr n else s)

/-- DS_WIN_ACCESS: a read or write of LN_DS_WIN_DATA_n. -/
def execDsWinAccess (p : Port) (n : LaneId) (acc : Option W32) (s : State) : Res :=
  .next (if s.isLine n.val then
      match acc with
      | some w => s.writeLane p n 0x2010 .rx fun s => s.dsWinWrite n w
      | none => s.readLane p n 0x2010 .rx fun s => s.dsWinRead p n
    else s)

end Sys2Proof.Machine
end

