-- ==== Sys2Proof/Machine/QuadOps.lean ====
section
/-!
DEFINITION. What becomes of a quadrant whose island goes dark or loses its power (R53, R54, R532): its frames go to the sump, its
registers return to their reset values, and its line lanes restart activation.
-/
namespace Sys2Proof.Machine

/-- The lanes of quadrant q. -/
def quadLanes (q : Nat) : List LaneId := (List.finRange 96).filter fun n => n.val / 24 == q

/-- The line lanes of quadrant q. -/
def State.quadLines (s : State) (q : Nat) : List LaneId := (quadLanes q).filter fun n => s.isLine n.val

/-- The bytes of each frame that a quadrant holds in its trough bank: in its pipeline, at its dispatch port and in its queues, but those
whose jobs have still to return (R364). -/
def Quad.troughFrames (x : Quad) : List Nat :=
  ((x.parseQ ++ x.rallyQ ++ x.lookupQ ++ x.lpmQ ++ x.enqueueQ ++ x.cph.queue ++ (x.cph.rob.filter (·.fin.isSome)).map (·.frame)).map fun f => f.bytes.length) ++
  x.us.held Queued.idleInTrough ++ x.ds.held Queued.inTrough

/-- The SDUs in reassembly on line lane n are lost with the trough bank that holds their fragments (R53, R127, R532). -/
def State.fragmentsLost (s : State) (n : LaneId) : State :=
  let rs := (s.lane n).ds.reasm
  ((s.sumpN (quadOf n.val) 16 rs.length (rs.map (·.data.length)).sum).dsCnt n 24 rs.length).modDs n fun d =>
    { d with reasm := [], poison := (rs.map (·.port)).filter (!d.poison.contains ·) ++ d.poison }

/-- Frames of quadrant q's trough bank, and the fragments in it, go to the sump with cause 16, but those of jobs still in a core or the
fallback pipeline, which go there when they return (R364), and those of bursts in SERVING, which their
ends release (R53, R127, R364, R532). -/
def State.quadDiscard (s : State) (q : Nat) : State :=
  let s := (s.quadLines q).foldl State.fragmentsLost s
  let fs := (vget {} s.quads q).troughFrames
  ((s.sumpN q 16 fs.length fs.sum).modQuadN q fun x => { x with
    parseQ := [], rallyQ := [], lookupQ := [], lpmQ := [], enqueueQ := [], learnQ := []
    cph := { x.cph with queue := [], rob := (x.cph.rob.filter (·.fin.isNone)).map fun j => { j with lost := true } }
    us := x.us.dropHeld Queued.idleInTrough
    ds := x.ds.dropHeld Queued.inTrough }).resubst.floats q

/-- Frames of quadrant q's queues that lie in the cistern go to the sump with a cause. -/
def State.quadSpilled (s : State) (q cause : Nat) : State :=
  let x : Quad := vget {} s.quads q
  let fs := x.us.held (·.inCistern) ++ x.ds.held (·.inCistern)
  (s.sumpN q cause fs.length fs.sum).modQuadN q fun x =>
    { x with us := x.us.dropHeld (·.inCistern), ds := x.ds.dropHeld (·.inCistern) }

/-- Public value of image-verification key i (R416). -/
def Vault.publicKey (v : Vault) (i : Nat) : Option (List Byte) :=
  if i = 0 then some Config.plifovanKey else if i < 4 then vget none v.vk (i - 1) else none

/-- The header of a firmware image is right (R161). -/
def fwHeaderOk (b : List Byte) : Bool :=
  let n := leAt b 8 4
  bytesAt b 0 4 == [0x53#8, 0x54#8, 0x57#8, 0x46#8] && decide (n ≤ 262144) && n % 64 == 0 && decide (b.length = 192 + n) &&
    decide ((byteAt b 0x0C).toNat < 4) && bytesAt b 0x0D 51 == zeros 51

/-- Its signature is right: r and s over the digest of header and code, then 32 zero bytes. -/
def fwSigned (v : Vault) (b : List Byte) : Bool :=
  match v.publicKey (byteAt b 0x0C).toNat with
  | some k => ecdsaP384 k (sha384 (b.take 64 ++ b.drop 192)) (bytesAt b 64 96) && bytesAt b 160 32 == zeros 32
  | none => false

/-- The committed firmware of quadrant q where it passes its check (R161, R165). -/
def State.committedFw (s : State) (q : Nat) : Option FwImage :=
  (vget none s.vault.fw q).filter fun i => fwHeaderOk i.bytes && fwSigned s.vault i.bytes

/-- A steward that starts on the committed firmware, or on the factory's where it fails its check or the boot source is recovery (R165,
R548). -/
def State.freshSteward (s : State) (q : Nat) : Steward := { bank := #v[if s.sys.src = 2 then none else s.committedFw q, none] }

/-- The lane restarts in O1.1, or O7 where DISABLED, with LAST_EXIT 7 (R141, R532). -/
def State.restartLine (s : State) (n : LaneId) : State := s.exitTo11 n 7

/-- Activation of a lane at its reset values: it starts in O1.1, or in O7 where DISABLED (R143). -/
def State.freshAct (s : State) (n : LaneId) (why : BitVec 3) : State :=
  (s.modAct n fun _ => { lastExit := why }).fromO11 n

/-- The registers and memories of quadrant island q return to their reset values, its steward starts afresh and its line lanes
restart (R54, R532). -/
def State.quadReset (s : State) (q : Nat) : State :=
  let s := (s.quadLines q).foldl (fun s n => (s.restartLine n).freshAct n 7) s
  let s := (s.quadDiscard q).quadSpilled q 16
  -- jobs that have not returned by then
  let s := s.dropFrames q 16 ((vget {} s.quads q).cph.rob.map (·.frame))
  { s with quads := vset s.quads q {}, stw := vset s.stw q (s.freshSteward q) }

/-! ### Lane registers by kind (R85, R96) -/

/-- The receive registers of the shared part of a lane at their reset values. -/
def LaneCommon.rxReset (c : LaneCommon) : LaneCommon :=
  let d : LaneCommon := {}
  { c with sd := d.sd, tapSel := d.tapSel, items := d.items, limitRun := d.limitRun, noise := d.noise, prbsErr := d.prbsErr,
           errArmed := d.errArmed, priming := true, noiseMode := true }

/-- The receive registers of a lane at their reset values: block 0's, a line lane's block 1, an Ethernet port's status and receive
items, and an SDH lane's block 1 but for LN_SDH_CTL_n. -/
def Lane.rxReset (l : Lane) : Lane :=
  let e : EthPort := {}
  { l with
    com := l.com.rxReset
    hb := l.hb.rxReset
    ds := {}
    eth := { l.eth with
      blockLock := false, hiBer := false, lfRx := false, rfRx := false, linkSeen := false, wakeHit := false, wakePat := 0
      peerPause := none, peerPfc := e.peerPfc
      cnt := Vector.ofFn fun i : Fin 22 => if 12 ≤ i.val ∧ i.val ≤ 20 then l.eth.cnt[i.val] else 0 }
    sdh := { ctl := l.sdh.ctl, txHold := l.sdh.txHold, txFree := l.sdh.txFree, tracePhase := l.sdh.tracePhase, txB1 := l.sdh.txB1,
             txB2 := l.sdh.txB2, txCarry := l.sdh.txCarry } }

/-- The transmit registers of a lane at their reset values: LN_TX_CFG_n, and an Ethernet port's transmit counters. -/
def Lane.txReset (l : Lane) : Lane :=
  let d : LaneCommon := {}
  { l with
    com := { l.com with txCfg := d.txCfg, txHeld := d.txHeld }
    eth := { l.eth with cnt := Vector.ofFn fun i : Fin 22 => if 12 ≤ i.val ∧ i.val ≤ 20 then 0 else l.eth.cnt[i.val] } }

/-- The source address and the wake patterns of an Ethernet port are lost when both directions are OFF (R247). -/
def Lane.itemsReset (l : Lane) : Lane := { l with eth := { l.eth with sa := 0, pats := Vector.replicate 8 {} } }

end Sys2Proof.Machine
end

