-- ==== Sys2Proof/Machine/TableOps.lean ====
section
/-!
DEFINITION. The bridge, flow and LPM tables as data (R305 to R324): lookups, placement, removal, aging, LPM stores and filters. An
entry lives in one of its two buckets or in the overflow store, so a lookup is a search by key (R306).
-/
namespace Sys2Proof.Machine

/-! ### Geometry (R40, R305) -/

/-- BRIDGE_BUCKETS, LPM_V4 and LPM_V6 of the running partition; 0 while no image runs. -/
def State.partWord (s : State) (i : Nat) : Nat :=
  match s.str.common with
  | some c => leAt c.partition (4 * i) 4
  | none => 0

/-- The buckets of a table. -/
def State.buckets (s : State) (flow : Bool) : Nat :=
  if flow then (if s.partWord 0 = 0 then 0 else 131072 - s.partWord 0) else s.partWord 0

/-- The pool bank of slot i of a table (R305, R328); overflow entries lie in no pool bank. -/
def State.poolBank (s : State) (flow : Bool) (i : Nat) : Option Nat :=
  if i / 4 < s.buckets flow then some ((i / 4 + if flow then s.partWord 0 else 0) / 4096) else none

/-- The row of slot i within its pool bank. -/
def State.poolRow (s : State) (flow : Bool) (i : Nat) : Nat := (i / 4 + if flow then s.partWord 0 else 0) % 4096

/-! ### Bridge and flow tables -/

/-- A table of the island. -/
def Tables.hash (t : Tables) (flow : Bool) : Tab TblEntry := if flow then t.flow else t.bridge

/-- The island with a table replaced. -/
def Tables.setHash (t : Tables) (flow : Bool) (x : Tab TblEntry) : Tables :=
  if flow then { t with flow := x } else { t with bridge := x }

/-- A key with the bits that its format does not use made 0 (R307). -/
def maskKey (flow : Bool) (k : TblKey) : TblKey :=
  if flow then
    let w9 := vget 0 k 9 &&& 0xFFF#32
    if fld w9 8 4 = 4 then #v[vget 0 k 0, 0, 0, 0, vget 0 k 4, 0, 0, 0, vget 0 k 8, w9]
    else vset k 9 w9
  else #v[vget 0 k 0, vget 0 k 1 &&& 0x0FFFFFFF#32, 0, 0, 0, 0, 0, 0, 0, 0]

/-- The candidate buckets of a key (R306). -/
def candidates (flow : Bool) (nb : Nat) (k : TblKey) : List Nat :=
  if nb = 0 then [] else [Config.bucketHash flow false k.toList % nb, Config.bucketHash flow true k.toList % nb]

/-- A lookup of key k reads slot i: of h1, of h2, or of the overflow store (R306). -/
def readsSlot (flow : Bool) (nb : Nat) (k : TblKey) (i : Nat) : Bool := decide (4 * nb ≤ i) || (candidates flow nb k).contains (i / 4)

/-- The entry as its stored bits read: KEY, RES and ENT_CTL in this order from bit 0 (R305, R307). -/
def TblEntry.stored (e : TblEntry) : TblEntry :=
  if e.flips = 0 then e
  else { e with
    key := Vector.ofFn (fun i : Fin 10 => e.key[i.val] ^^^ fld e.flips (32 * i.val) 32)
    res0 := e.res0 ^^^ fld e.flips 320 32, res1 := e.res1 ^^^ fld e.flips 352 32
    static := e.static != bit e.flips 384, ageEn := e.ageEn != bit e.flips 385, age := e.age ^^^ fld e.flips 386 2 }

/-- The entry in slot i is the source of a move, whose destination holds the other copy (R309). -/
def TblEntry.away (e : TblEntry) (i : Nat) : Bool :=
  match e.moving with
  | some j => j != i
  | none => false

/-- Slot i answers a lookup of key k; a BAD entry is a miss (R323). An entry without an error stands in a slot that its key reads. -/
def TblEntry.answers (e : TblEntry) (flow : Bool) (nb : Nat) (k : TblKey) (i : Nat) : Bool :=
  e.stored.key == k && !e.bad && (e.flips == 0 || readsSlot flow nb k i)

/-- The slot and entry that a lookup of a key takes, as its bits read: of two copies, the destination of the move (R309). -/
def findKey (flow : Bool) (nb : Nat) (x : Tab TblEntry) (k : TblKey) : Option (Nat × TblEntry) :=
  ((x.find? fun p => p.2.answers flow nb k p.1 && !p.2.away p.1).or (x.find? fun p => p.2.answers flow nb k p.1)).map
    fun p => (p.1, p.2.stored)

/-- The lookup of a key in a table of the island. -/
def State.tblFind (s : State) (flow : Bool) (k : TblKey) : Option (Nat × TblEntry) :=
  findKey flow (s.buckets flow) (s.tbl.hash flow) k

/-- Every copy of a key's entry changed (R309). -/
def State.onCopies (s : State) (flow : Bool) (k : TblKey) (f : TblEntry → TblEntry) : State :=
  let x := (s.tbl.hash flow).map fun p => if p.2.answers flow (s.buckets flow) k p.1 then (p.1, f p.2) else p
  { s with tbl := s.tbl.setHash flow x }

/-- The first free slot of a bucket. -/
def freeSlot (x : Tab TblEntry) (b : Nat) : Option Nat := [4 * b, 4 * b + 1, 4 * b + 2, 4 * b + 3].find? fun i => (Tab.find x i).isNone

/-- The first free slot of a list of buckets. -/
def freeIn (x : Tab TblEntry) (bs : List Nat) : Option Nat := bs.findSome? (freeSlot x)

/-- A move that makes room: a slot of the candidate buckets whose entry has a free slot in its own other bucket, and that free
slot (R308). -/
def movable (flow : Bool) (nb : Nat) (x : Tab TblEntry) (bs : List Nat) : Option (Nat × Nat) :=
  (bs.flatMap fun b => [4 * b, 4 * b + 1, 4 * b + 2, 4 * b + 3]).findSome? fun i =>
    match Tab.find x i with
    | some e =>
      if e.bad then none
      else (freeIn x ((candidates flow nb e.key).filter fun b => b != i / 4)).map fun j => (i, j)
    | none => none

/-- The first free entry of the overflow store, as a slot number. -/
def freeOverflow (nb : Nat) (x : Tab TblEntry) : Option Nat :=
  ((List.range 4096).map fun i => 4 * nb + i).find? fun i => (Tab.find x i).isNone

/-- A move starts: MOVING is set in the source, and the complete entry is written into the destination (R309). -/
def startMove (x : Tab TblEntry) (i j : Nat) : Tab TblEntry :=
  match Tab.find x i with
  | some e => Tab.ins (Tab.ins x j e) i { e with moving := some j }
  | none => x

/-- The moves in progress end: the sources are invalidated, and a row's copy has become the row (R309, R324). -/
def endMoves (x : Tab TblEntry) : Tab TblEntry :=
  x.filterMap fun p => if p.2.away p.1 then none else some (p.1, { p.2 with moving := none })

/-- The table with an entry moved from slot i to slot j (R309). -/
def moveEntry (x : Tab TblEntry) (i j : Nat) : Tab TblEntry := Tab.del (startMove x i j) i

/-- The result of a placement: the table and whether an entry was moved, or none where no room is left (R308). -/
def placeEntry (flow : Bool) (nb : Nat) (x : Tab TblEntry) (e : TblEntry) : Option (Tab TblEntry × Bool) :=
  let bs := candidates flow nb e.key
  match freeIn x bs with
  | some i => some (Tab.ins x i e, false)
  | none =>
    match movable flow nb x bs with
    | some (i, j) => some (Tab.ins (moveEntry x i j) i e, true)
    | none => (freeOverflow nb x).map fun i => (Tab.ins x i e, false)

/-- COUNT of a port: the dynamic bridge entries whose PORT it is (R315); an entry that moves counts once. -/
def Tables.count (t : Tables) (port : Byte) : Nat :=
  (t.bridge.filter fun e => fld e.2.res0 0 8 == port && !e.2.static && !e.2.bad && !e.2.away e.1).length

/-- Counter c of the island raised by n (R331). -/
def Tables.cntAdd (t : Tables) (c n : Nat) : Tables := { t with cnt := vmod t.cnt c (· + BitVec.ofNat 64 n) }

/-- The entry ages (R316). -/
def TblEntry.ages (e : TblEntry) (flow : Bool) : Bool := !e.bad && (if flow then e.ageEn else !e.static)

/-- One aging step of an entry: none where it leaves (R316). A hit in the same cycle wins (R317). -/
def ageEntry (flow hit : Bool) (e : TblEntry) : Option TblEntry :=
  if !e.ages flow then some e
  else if hit then some { e with age := 0 }
  else if e.age = 2 then none
  else some { e with age := e.age + 1 }

/-- The table after an aging pass in which lookups hit some slots in their scan cycles. -/
def ageAll (flow : Bool) (hits : List Nat) (x : Tab TblEntry) : Tab TblEntry :=
  x.filterMap fun p => (ageEntry flow (hits.contains p.1) p.2).map fun e => (p.1, e)

/-- The scanner moves overflow entries back where a bucket of theirs has room (R308); the number moved. -/
def moveBack (flow : Bool) (nb : Nat) (x : Tab TblEntry) : Tab TblEntry × Nat :=
  (x.filter fun p => decide (4 * nb ≤ p.1) && !p.2.bad).foldl
    (fun a p =>
      match freeIn a.1 (candidates flow nb p.2.key) with
      | some j => (moveEntry a.1 p.1 j, a.2 + 1)
      | none => a)
    (x, 0)

/-- Entries with PORT in a set are removed from a table: dynamic ones, and static ones where asked (R325). A BAD entry is removed
too (R323). -/
def flushPorts (x : Tab TblEntry) (p : Byte → Bool) (static : Bool) : Tab TblEntry :=
  x.filter fun e => !(p (fld e.2.res0 0 8) && (!e.2.static || static || e.2.bad))

/-- PORT lies in the encoding of R311. -/
def portValid (p : Byte) : Bool := decide (p.toNat < 96) || decide (128 ≤ p.toNat ∧ p.toNat < 192) || p == 255

/-! ### LPM stores (R318 to R322) -/

/-- Entries in a bucket, buckets in a copy, and the longest length of a family. -/
def lpmWays (v6 : Bool) : Nat := if v6 then 2 else 4
def State.lpmBuckets (s : State) (v6 : Bool) : Nat := if v6 then s.partWord 2 else s.partWord 1 / 2
def lpmMax (v6 : Bool) : Nat := if v6 then 128 else 32

/-- An address masked to a length: IPv4 addresses sit in the low 32 bits. -/
def maskPrefix (v6 : Bool) (len : Nat) (a : BitVec 128) : BitVec 128 :=
  a &&& (BitVec.allOnes 128 <<< (lpmMax v6 - len))

/-- A family of the island, and the island with it changed. -/
def Tables.fam (t : Tables) (v6 : Bool) : LpmFam := if v6 then t.v6 else t.v4
def Tables.modFam (t : Tables) (v6 : Bool) (f : LpmFam → LpmFam) : Tables :=
  if v6 then { t with v6 := f t.v6 } else { t with v4 := f t.v4 }

/-- The active and the shadow copy. -/
def LpmFam.act (f : LpmFam) : LpmCopy := if f.active then f.copy1 else f.copy0
def LpmFam.shadow (f : LpmFam) : LpmCopy := if f.active then f.copy0 else f.copy1
def LpmFam.setAct (f : LpmFam) (c : LpmCopy) : LpmFam := if f.active then { f with copy1 := c } else { f with copy0 := c }
def LpmFam.setShadow (f : LpmFam) (c : LpmCopy) : LpmFam := if f.active then { f with copy0 := c } else { f with copy1 := c }

/-- The slots of a bucket. -/
def lpmSlots (v6 : Bool) (b : Nat) : List Nat := (List.range (lpmWays v6)).map fun i => lpmWays v6 * b + i

/-- The slot of a prefix in a copy. -/
def LpmCopy.find (c : LpmCopy) (len : Nat) (pre : BitVec 128) : Option (Nat × LpmEntry) :=
  c.slots.find? fun e => e.2.len == len && e.2.pre == pre

/-- An entry is put into its home bucket, or into the next with the home's overflow bit set; none where both are full. A prefix
already present has its result replaced; the flag says so (R318). -/
def LpmCopy.insert (c : LpmCopy) (v6 : Bool) (nb : Nat) (e : LpmEntry) : Option (LpmCopy × Bool) :=
  match c.find e.len e.pre with
  | some (i, _) => some ({ c with slots := Tab.ins c.slots i e }, true)
  | none =>
    if nb = 0 then none
    else
      let b := Config.lpmHash v6 e.len e.pre % nb
      let free (b : Nat) : Option Nat := (lpmSlots v6 b).find? fun i => (Tab.find c.slots i).isNone
      let filter := (e.len, e.pre) :: c.filter
      match free b with
      | some i => some ({ c with slots := Tab.ins c.slots i e, filter := filter }, false)
      | none =>
        match free ((b + 1) % nb) with
        | some i => some ({ c with slots := Tab.ins c.slots i e, filter := filter, overflow := b :: c.overflow }, false)
        | none => none

/-- A copy without a prefix. -/
def LpmCopy.delete (c : LpmCopy) (len : Nat) (pre : BitVec 128) : LpmCopy :=
  { c with slots := c.slots.filter fun e => !(e.2.len == len && e.2.pre == pre) }

/-- The bit of a filter that hash k selects. -/
def filterBit (v6 : Bool) (k len : Nat) (pre : BitVec 128) : Nat :=
  Config.filterHash v6 k len pre % (if v6 then 1048576 else 3145728)

/-- All four filter bits of a masked prefix are set (R319). -/
def LpmCopy.passes (c : LpmCopy) (v6 : Bool) (len : Nat) (pre : BitVec 128) : Bool :=
  [0, 1, 2, 3].all fun k =>
    c.filter.any fun x => [0, 1, 2, 3].any fun j => filterBit v6 j x.1 x.2 == filterBit v6 k len pre

/-- One bucket holds a prefix. -/
def LpmCopy.inBucket (c : LpmCopy) (v6 : Bool) (b len : Nat) (pre : BitVec 128) : Option W32 :=
  (lpmSlots v6 b).findSome? fun i =>
    match Tab.find c.slots i with
    | some e => if e.len = len ∧ e.pre = pre then some e.res else none
    | none => none

/-- The outcome of a lookup: result, probes made, and whether the cap of 16 probes ended it (R319, R320). -/
structure LpmAnswer where
  res : Option W32
  probes : Nat
  capped : Bool

/-- The lookup over the candidate lengths, longest first (R319). -/
def LpmCopy.probe (c : LpmCopy) (v6 : Bool) (nb : Nat) (da : BitVec 128) : List Nat → Nat → LpmAnswer
  | [], n => ⟨none, n, false⟩
  | len :: rest, n =>
    if 16 ≤ n then ⟨none, n, true⟩
    else
      let pre := maskPrefix v6 len da
      let b := Config.lpmHash v6 len pre % nb
      match c.inBucket v6 b len pre with
      | some r => ⟨some r, n + 1, false⟩
      | none =>
        if c.overflow.contains b then
          if 16 ≤ n + 1 then ⟨none, n + 1, true⟩
          else
            match c.inBucket v6 ((b + 1) % nb) len pre with
            | some r => ⟨some r, n + 2, false⟩
            | none => c.probe v6 nb da rest (n + 2)
        else c.probe v6 nb da rest (n + 1)

/-- An LPM lookup of an address in the active copy (R319). -/
def State.lpmFind (s : State) (v6 : Bool) (da : BitVec 128) : LpmAnswer :=
  let c := (s.tbl.fam v6).act
  let nb := s.lpmBuckets v6
  if nb = 0 then ⟨none, 0, false⟩
  else
    let cand := ((List.range (lpmMax v6 + 1)).reverse).filter fun l => c.passes v6 l (maskPrefix v6 l da)
    c.probe v6 nb da cand 0

/-- The cistern runs degraded (R322). -/
def State.cstDegraded (s : State) : Bool := s.cst.degradedMode

end Sys2Proof.Machine
end

