-- ==== Sys2Proof/Machine/CstOps.lean ====
section
/-!
DEFINITION. Live data of a cistern device (R462): the model gives no frame and no SDU a cistern address, so which of them has a line on
a device is a free value for each.
-/
namespace Sys2Proof.Machine

/-- Splits a list by free bits: what has a line on the device, and what has none. -/
def State.partFree {α : Type} (s : State) (p : α → Bool) : List α → List α × List α × State
  | [] => ([], [], s)
  | x :: t =>
    if p x then
      let hit := bit (s.freeBits 1) 0
      let (a, b, s') := s.tookFree.partFree p t
      if hit then (x :: a, b, s') else (a, x :: b, s')
    else
      let (a, b, s') := s.partFree p t
      (a, x :: b, s')

/-- Frames of one queue that have a line on the device go to the sump of quadrant q with cause 15. -/
def State.queueLoseLines (s : State) (q : Nat) (down : Bool) (j : Nat) : State :=
  let (lost, keep, s) := s.partFree (·.inCistern) (((s.tm q down).queue j).frames)
  if lost.isEmpty then s
  else
    (s.sumpN q 15 lost.length ((lost.map fun f => f.frame.bytes.length - f.sent).sum)).modTm q down fun t =>
      t.modQueue j fun x => x.withFrames keep

/-- Keys of a traffic manager's listed queues. -/
def State.queueKeys (s : State) (q : Nat) (down : Bool) : List Nat := (s.tm q down).queues.map (·.1)

/-- The live data on one device is discarded (R462, R591, R592): queued spilled frames, SDUs not yet released. -/
def State.loseLines (s : State) : State :=
  let s := [0, 1, 2, 3].foldl (fun s q =>
    let s := (s.queueKeys q false).foldl (fun s j => s.queueLoseLines q false j) s
    (s.queueKeys q true).foldl (fun s j => s.queueLoseLines q true j) s) s
  [0, 1, 2, 3, 4, 5, 6, 7].foldl (fun s g =>
    let (lost, keep, s) := s.partFree (fun _ => true) (s.group g).buffer
    let s := lost.foldl (fun s u => s.toSump (quadOf u.lane) 3 u.bytes.length) s
    (s.modGroup g fun x => { x with buffer := keep }).grpCnt g 4 lost.length) s

/-- The device of a bucket in a copy of an LPM region of nb buckets (R455); a region starts at a multiple of 8 lines (R42). -/
def lpmDevice (copy1 : Bool) (nb b : Nat) : Nat := (if copy1 then nb + (b + 2) % nb else b) % 8 / 2

/-- A copy without its buckets on device d. -/
def LpmCopy.loseDevice (c : LpmCopy) (v6 copy1 : Bool) (nb d : Nat) : LpmCopy :=
  { c with slots := c.slots.filter fun e => lpmDevice copy1 nb (e.1 / lpmWays v6) != d }

/-- The LPM buckets on device d are lost (R591). -/
def State.loseBuckets (s : State) (d : Nat) : State :=
  let f (v6 : Bool) (x : LpmFam) : LpmFam :=
    let nb := s.lpmBuckets v6
    { x with copy0 := x.copy0.loseDevice v6 false nb d, copy1 := x.copy1.loseDevice v6 true nb d }
  { s with tbl := (s.tbl.modFam false (f false)).modFam true (f true) }

/-! ### Modes (R461, R465) -/

/-- The controller enters a mode: event 949 where it changes. -/
def State.cstEnter (s : State) (m : CstMode) : State :=
  let old := s.cst.mode
  let s : State := { s with cst := { s.cst with mode := m } }
  if old = m then s
  else
    s.report 949 (if m = .draining ∨ m = .degraded ∨ m = .offline then 2 else 1)
      [old.code.setWidth 8, m.code.setWidth 8, s.cst.dev.setWidth 8]

/-- Each LPM region keeps its active copy only: a rebuild is abandoned and the shadow's contents are lost (R322, R455). -/
def State.loseShadows (s : State) : State :=
  let f (x : LpmFam) : LpmFam :=
    if x.active then { x with rebuilding := false, copy0 := {} } else { x with rebuilding := false, copy1 := {} }
  { s with tbl := (s.tbl.modFam false f).modFam true f }

end Sys2Proof.Machine
end

