-- ==== Sys2Proof/Machine/PowerOps.lean ====
section
/-!
DEFINITION. The power island's sequencer (R531 to R541, R549, R592): who votes for a domain, what a domain's change of state does, the
order of restores, and waking.
-/
namespace Sys2Proof.Machine

/-! ### Votes and holds (R533, R534) -/

/-- Domain d exists (R531). -/
def domExists (d : Nat) : Bool := decide (d < 208 ∧ d ≠ 15)

/-- The bits of a bitmap that exist. -/
def domMask : Domains := BitVec.ofNat 224 (2 ^ 208 - 1 - 2 ^ 15)

/-- The lane of a lane domain. -/
def domLane (d : Nat) : Option LaneId :=
  if 16 ≤ d ∧ d < 208 then some ⟨(d - 16) % 96, Nat.mod_lt _ (by decide)⟩ else none

/-- STEWARD's votes: both directions of every line lane with ADMIN = 1. -/
def State.voteSteward (s : State) : Domains :=
  (List.finRange 96).foldl (fun v n =>
    if s.isLine n.val && (s.lane n).act.admin then setBit (setBit v (dRx n.val) true) (dTx n.val) true else v) 0

/-- The boot set, under the hold of boot source 11 only TIM and HIF (R548, R549). -/
def State.bootSet (s : State) : Domains := if s.sys.hold then 3 else 0x7FFF

/-- POLICY's votes. -/
def State.votePolicy (s : State) : Domains := if s.pwr.policyBoot then s.bootSet else s.pwr.runSet

/-- A quadrant has a lane with role 1 to 4. -/
def State.quadUsed (s : State) (q : Nat) : Bool := (quadLanes q).any fun n => decide (1 ≤ s.role n.val ∧ s.role n.val ≤ 4)

/-- The run set of the running image (R533). -/
def State.computeRunSet (s : State) : Domains :=
  let quads := [0, 1, 2, 3].foldl (fun v q => setBit v (dQuad q) (s.quadUsed q)) (0x403F : Domains)
  [0, 1, 2, 3].foldl (fun v q =>
    setBit v (dCores q) ((List.range 18).any fun i => s.quadUsed (s.assignedTo (18 * q + i)))) quads

/-- A burst of lane n is SERVING. -/
def Lane.serving (l : Lane) : Bool := l.pump.bursts.any fun b => b.state == .serving

/-- The device enters or is in Standby. -/
def Power.toStandby (x : Power) : Bool := x.state == .standby || (x.state == .entering && x.target == .standby)

/-- The burst hold. -/
def State.burstHold (s : State) (d : Nat) : Bool :=
  decide (112 ≤ d) && (match domLane d with
    | some n => s.isLine n.val && (s.lane n).serving
    | none => false)

/-- The apply hold: QD_q during an APPLY in progress, q dark. -/
def State.applyHold (s : State) (d : Nat) : Bool :=
  decide (6 ≤ d ∧ d < 10) && s.isDark (d - 6) &&
    (match s.str.busy with
      | some (.apply _) => true
      | some (.reapply _) => true
      | _ => false)

/-- The cistern's hold, and its vote for a device that is being retrained (R463). -/
def State.cstHold (s : State) (d : Nat) : Bool :=
  decide (2 ≤ d ∧ d < 6) &&
    (s.cst.mode == .normal || s.cst.mode == .draining || s.cst.mode == .restoring ||
      (s.cst.mode == .retraining && decide (s.cst.dev.toNat = d - 2)))

/-- A lane domain whose lane has role 0 is OFF whatever the votes and holds. -/
def State.roleOff (s : State) (d : Nat) : Bool :=
  match domLane d with
  | some n => s.role n.val == 0
  | none => false

/-- A vote counted in the present state holds domain d. -/
def State.voted (s : State) (d : Nat) : Bool :=
  !s.pwr.toStandby &&
    (bit s.pwr.voteHost d || bit s.pwr.voteTest d ||
      ((s.pwr.state == .run || s.pwr.state == .waking) && (bit s.voteSteward d || bit s.votePolicy d)))

/-- Domain d is wanted but for the burst hold. -/
def State.wantedNoBurst (s : State) (d : Nat) : Bool :=
  domExists d && !s.roleOff d && (s.voted d || (!s.pwr.toStandby && (s.applyHold d || s.cstHold d)))

/-- Domain d is wanted (R534, R592). -/
def State.wanted (s : State) (d : Nat) : Bool := s.wantedNoBurst d || (domExists d && !s.roleOff d && s.burstHold d)

/-- LN_TX_n has been requested to leave ON: no burst starts (R84). -/
def State.txLeaving (s : State) (n : LaneId) : Bool := s.isOn (dTx n.val) && !s.wantedNoBurst (dTx n.val)

/-! ### Leaving ON (R83, R532) -/

/-- The receive direction of lane n leaves ON (R69, R83). -/
def State.rxOff (s : State) (n : LaneId) (retain : Bool) : State :=
  let s := (s.signalGone n).modCom n fun c => ({ c with rxState := .off } : LaneCommon).reseed
  if retain then s else s.modLane n Lane.rxReset

/-- The transmit direction of lane n leaves ON. -/
def State.txOff (s : State) (n : LaneId) (retain : Bool) : State :=
  let s := if s.isLine n.val then (s.discardBursts n).cutBurst n else s
  let s := s.modCom n fun c => { c with txen := false }
  if retain then s else s.modLane n Lane.txReset

/-- The cores of quadrant q: key copies are wiped, and each core waits for its first test after the return. In RETAIN a quarantined
core keeps its CAUSE: it returns to service only by RETEST (R382, R531). -/
def State.coresOff (s : State) (q : Nat) (retain : Bool) : State :=
  let f (c : Core) : Core :=
    if retain then { c with keys := [], state := .quarantined, cause := if c.state = .inService then 0 else c.cause, katDue := none, katWait := false, afWin := 0 }
    else {}
  ({ s with cores := Vector.ofFn fun k : Fin 72 => if k.val / 18 = q then f s.cores[k.val] else s.cores[k.val] } : State).resubst

/-- The fallback pipeline leaves ON: it is out of service until its first test after the return, or, where it failed and keeps its
registers in RETAIN, until a RETEST (R382, R531). -/
def State.fbkOff (s : State) (retain : Bool) : State :=
  let s := s.fbkDown
  if retain then s
  else { s with fbk := { subst := s.fbk.subst, removed := s.fbk.removed } }

/-- The host interface leaves ON: the rings stop, the link goes down and its registers are lost; frames that wait for the punt ring
find no ring, and lookaside jobs have nowhere to complete (R300, R476, R532). -/
def State.hifOff (s : State) : State :=
  let s := s.hif.puntQ.foldl (fun s p => s.toSump p.quad 21 p.bytes.length) s
  { s with hif := {}, fbk := { s.fbk with la := [] } }

/-- The time island leaves ON: its queue of stamps empties (R435), and in OFF its registers are lost (R448). -/
def State.timOff (s : State) (retain : Bool) : State :=
  if retain then { s with tim := { s.tim with txq := [] } } else { s with tim := {} }

/-- A cistern domain drops: a drain, retrain or restore in progress is abandoned and its device is out of service (R592). -/
def State.cstOff (s : State) (d : Nat) : State :=
  let c := s.cst
  let busy := c.mode == .draining || c.mode == .retraining || c.mode == .restoring
  let out := c.mode == .degraded || busy
  let s := if busy then s.cstEnter .degraded else s
  let s : State := { s with cst := { s.cst with
    stayOut := c.stayOut || out
    copied := false, retiring := false
    trained := setBit c.trained d false } }
  if busy then s.loseLines else s

/-- The boot sequence has ended: SYS_BOOT_STATUS.DONE and SYS_BOOT_TIME, in microseconds (R552, R558). -/
def State.bootDone (s : State) : State :=
  let us := (s.now - s.sys.resetAt) / 10000
  { s with sys := { s.sys with done := true, bootTime := BitVec.ofNat 32 (min us (2 ^ 32 - 1)) } }

/-- A loader command ends in failure after it was accepted (R46, R57); a boot apply that fails ends the boot (R552). -/
def State.loaderFail (s : State) (err : Byte) : State :=
  let s := if s.str.auto.any (·.boot) then s.bootDone else s
  State.report { s with str := { s.str with state := .failed, busy := none, err := err, auto := none } } 921 3 [err]

/-- An APPLY whose QD_q domain leaves ON or misses power-good before it completes fails with ERR 0x0F (R48). -/
def State.applyBroken (s : State) (q : Nat) : State :=
  match s.str.busy with
  | some (.apply m) => if bit m q then s.loaderFail 0x0F else s
  | some (.reapply m) => if bit m q then s.loaderFail 0x0F else s
  | _ => s

/-- QD_q leaves ON. -/
def State.quadOff (s : State) (q : Nat) (retain : Bool) : State :=
  let s := (s.quadDiscard q).applyBroken q
  if retain then s else s.quadReset q

/-- Domain d leaves ON for RETAIN or OFF: what its islands lose (R532). -/
def State.leaveOn (s : State) (d : Nat) (retain : Bool) : State :=
  if d = 0 then s.timOff retain
  else if d = 1 then s.hifOff
  else if d < 6 then s.cstOff (d - 2)
  else if d < 10 then s.quadOff (d - 6) retain
  else if d < 14 then s.coresOff (d - 10) retain
  else if d = 14 then s.fbkOff retain
  else
    match domLane d with
    | some n =>
      let s := if d < 112 then s.rxOff n retain else s.txOff n retain
      if s.isOn (dRx n.val) || s.isOn (dTx n.val) || s.isRetained (dRx n.val) || s.isRetained (dTx n.val) then s
      else s.modLane n Lane.itemsReset
    | none => s

/-- The drop level of domain d: HIF has no RETAIN, Standby keeps only that of TIM and CST_d, and a lane with role 0 is OFF (R531,
R534, R535). -/
def State.dropsToRetain (s : State) (d : Nat) : Bool :=
  bit s.pwr.drop d && decide (d ≠ 1) && !s.roleOff d && (!s.pwr.toStandby || decide (d = 0 ∨ (2 ≤ d ∧ d < 6)))

/-- Domain d is marked as it is now. -/
def State.markDom (s : State) (d : Nat) (on ret : Bool) : State :=
  { s with pwr := { s.pwr with on := setBit s.pwr.on d on, ret := setBit s.pwr.ret d ret } }

/-- Domain d drops. -/
def State.dropDom (s : State) (d : Nat) : State :=
  let r := s.dropsToRetain d
  (s.markDom d false r).leaveOn d r

/-- Domain d in RETAIN goes OFF: its registers are lost (R531, R532). -/
def State.retainOff (s : State) (d : Nat) : State :=
  let s := s.markDom d false false
  if 6 ≤ d ∧ d < 10 then s.quadReset (d - 6)
  else if 10 ≤ d ∧ d < 14 then s.coresOff (d - 10) false
  else if d = 14 then s.fbkOff false
  else
    match domLane d with
    | some n =>
      let s := s.modLane n (if d < 112 then Lane.rxReset else Lane.txReset)
      if s.isOn (dRx n.val) || s.isOn (dTx n.val) || s.isRetained (dRx n.val) || s.isRetained (dTx n.val) then s
      else s.modLane n Lane.itemsReset
    | none => s

/-- A domain in RETAIN goes OFF: a lane direction whose lane has role 0, and on the way to Standby every domain but TIM and CST_d
(R534, R535). -/
def State.losesRetain (s : State) (d : Nat) : Bool :=
  s.roleOff d || (s.pwr.toStandby && decide (d ≠ 0 ∧ ¬ (2 ≤ d ∧ d < 6)))

/-- The domains of a bitmap, in descending order: drops run in the reverse order of restores (R540). -/
def domsDown (m : Domains) : List Nat := (List.range 208).reverse.filter fun d => bit m d

/-- The domains that are wanted. -/
def State.wantSet (s : State) : Domains := (List.range 208).foldl (fun m d => if s.wanted d then setBit m d true else m) 0

/-- Domains that are not wanted drop; a line transmitter that only a burst holds serves no further burst (R84, R534). -/
def State.drops (s : State) : State :=
  let w := s.wantSet
  let s := (domsDown (s.pwr.on &&& ~~~w)).foldl State.dropDom s
  let s := (domsDown s.pwr.ret).foldl (fun s d => if s.losesRetain d then s.retainOff d else s) s
  (List.finRange 96).foldl (fun s n => if s.isLine n.val && s.txLeaving n then s.discardBursts n else s) s

/-! ### Restores (R540) -/

/-- The step of domain d. -/
def domStep (d : Nat) : Nat :=
  if d = 0 then 2 else if d = 1 then 3 else if d < 6 then 4 else if d < 10 then 5 else if d < 14 then 6 else if d = 14 then 7 else 8

/-- The wanted domains not yet ON that the sequencer tries, ascending: none while the device enters a state or is in Standby. -/
def State.toRestore (s : State) : List Nat :=
  if s.pwr.state = .entering ∨ s.pwr.state = .standby then []
  else (List.range 208).filter fun d => bit (s.wantSet &&& ~~~s.pwr.on &&& ~~~s.pwr.fault) d

/-- The step in progress: the present one while it has a wanted domain, else the lowest that has one; 0 none. -/
def State.seqStep (s : State) : Nat :=
  let l := s.toRestore
  if l.any fun d => domStep d == s.pwr.step.toNat then s.pwr.step.toNat
  else (l.head?.map domStep).getD 0

/-- Domain d is being switched on: the lowest of its step, and in step 8 one of the first eight. -/
def State.switching (s : State) (d : Nat) : Bool :=
  let l := s.toRestore.filter fun e => domStep e == s.seqStep
  (l.take (if s.seqStep = 8 then 8 else 1)).contains d

/-- Event 996 with PWR_WAKE_LAST (R543). -/
def State.wakeEvent (s : State) : State := s.report 996 1 (leBytes 4 s.pwr.wakeLast.toNat)

/-- The domains follow the votes, the holds and the device state; a wake with every wanted domain ON is complete (R534, R535). What
a drop changes may make a further domain unwanted. -/
def State.powerSettle (s : State) : State :=
  let s := s.drops.drops
  let s : State := { s with pwr := { s.pwr with step := BitVec.ofNat 4 s.seqStep } }
  if s.pwr.state = .waking ∧ s.toRestore.isEmpty then
    let s : State := { s with pwr := { s.pwr with state := .run } }
    s.wakeEvent
  else s

/-! ### Coming ON -/

/-- The time island returns from RETAIN (R442). -/
def Time.fromRetain (t : Time) : Time :=
  { t.noRuns with timeSet := false, state := if t.noRate then .priming else .holdover }

/-- A cistern device's domain is ON again: TRAINING, with contents kept from RETAIN and lost from OFF (R591). -/
def State.cstOn (s : State) (d : Nat) (kept : Bool) : State :=
  let s := if kept then s else (s.loseLines.loseBuckets d).request 4 true deviceLines
  s.cstEnter .training

/-- The receive direction of lane n is ON (R68, R69): with the items kept in RETAIN, else in SEED; an apply or RX_RESTART while it was not
ON has put the receiver into SEED already. The handshake of a link whose lowest lane was OFF starts (R94), and the bins of an SDH
lane that was OFF run from here (R268). -/
def State.rxOn (s : State) (n : LaneId) (kept : Bool) : State :=
  let s := if !kept && s.isHead n then s.hbOffer n none else s
  let s := if !kept && s.isSdh n.val then s.pmStart n else s
  if (s.lane n).com.rxState ≠ .off then s else if kept then s.rxWait n else s.rxSeed n

/-- Domain d is ON; kept: it comes from RETAIN. -/
def State.enterOn (s : State) (d : Nat) (kept : Bool) : State :=
  if d = 0 then (if kept then { s with tim := s.tim.fromRetain } else s)
  else if d = 1 then { s with hif := { s.hif with twAddr := fld s.pwr.twCopy 0 7, pecReq := bit s.pwr.twCopy 7 } }
  else if d < 6 then s.cstOn (d - 2) kept
  else if d < 10 then (if kept then (s.quadLines (d - 6)).foldl State.restartLine s else s)
  else if d < 15 then s
  else if d < 112 then
    match domLane d with
    | some n => s.rxOn n kept
    | none => s
  else
    match domLane d with
    | some n => s.txBegins n
    | none => s

/-- Domain d reaches power-good. -/
def State.domGood (s : State) (d : Nat) : State :=
  let kept := s.isRetained d
  let st := s.seqStep
  let s := (s.markDom d true false).enterOn d kept
  State.powerSettle { s with pwr := { s.pwr with step := BitVec.ofNat 4 st } }

/-! ### Waking (R535, R537, R539) -/

/-- FROM of PWR_WAKE_LAST. -/
def Power.from (x : Power) : BitVec 2 :=
  let st := if x.state == .entering then x.src else x.state
  if st == .doze then 1 else if st == .standby then 2 else 0

/-- PWR_WAKE_LAST: lowest source of a set (bit s − 1 for source s; none for the command), preempt, from and lane. -/
def wakeWord (srcs : BitVec 5) (preempt : Bool) (from_ : BitVec 2) (lane : BitVec 7) : W32 :=
  let code := match firstBelow 5 fun i => bit srcs i with
    | some i => i + 1
    | none => 6
  atN 0 3 code ||| atB 3 preempt ||| at' 4 from_ ||| at' 8 (if code = 4 ∨ code = 5 then lane else 0) ||| at' 16 srcs

/-- The set of one source. -/
def srcBit (code : Nat) : BitVec 5 := if code = 6 then 0 else setBit 0 (code - 1) true

/-- The device wakes. -/
def State.wake (s : State) (code : Nat) (lane : BitVec 7) : State :=
  State.powerSettle { s with pwr := { s.pwr with
    state := .waking
    wakeLast := wakeWord (srcBit code) (s.pwr.state == .entering) s.pwr.from lane
    firing := srcBit code
    firingLane := lane } }

/-- The states in which a source wakes the device (R537). -/
def Power.wakes (x : Power) (code : Nat) : Bool :=
  x.state == .doze || ((x.state == .entering || x.state == .standby) && code != 4 && code != 5)

/-- Source code fires, on a lane for sources 4 and 5. In the cycle of a wake it joins that wake's sources; while the device is awake
it is kept for that cycle (R537, R539). A cycle is the time between two idle steps. -/
def State.fire (s : State) (code : Nat) (lane : BitVec 7) : State :=
  let x := s.pwr
  if code != 6 && !bit x.wakeEn (code - 1) then s
  else if x.wakes code then s.wake code lane
  else if x.state = .waking ∧ x.firing ≠ 0 then
    let srcs := x.firing ||| srcBit code
    { s with pwr := { x with
        firing := srcs
        firingLane := if (code = 4 ∧ bit x.firing 3 = false) ∨ (code = 5 ∧ fld x.firing 3 2 = 0) then lane else x.firingLane
        wakeLast := wakeWord srcs (bit x.wakeLast 3) (fld x.wakeLast 4 2)
          (if (code = 4 ∧ bit x.firing 3 = false) ∨ (code = 5 ∧ fld x.firing 3 2 = 0) then lane else x.firingLane) } }
  else if x.state = .run ∧ code ≤ 3 then { s with pwr := { x with firing := x.firing ||| srcBit code } }
  else s

end Sys2Proof.Machine
end

