-- ==== Sys2Proof/Machine/Power.lean ====
section
/-!
DEFINITION. The power island's commands and registers (R531 to R547, R591, R592).
-/
namespace Sys2Proof.Machine

def State.modPwr (s : State) (f : Power → Power) : State := { s with pwr := f s.pwr }

/-! ### PWR_CMD (R535, R539) -/

/-- A request to sleep that a wake overtakes: an enabled source fires in the same cycle. -/
def State.sleepCancelled (s : State) (op : BitVec 2) : State :=
  let s := s.modPwr fun x => { x with
    lastReq := op, cancelled := true, err := 0
    wakeLast := wakeWord x.firing true x.from x.firingLane }
  s.wakeEvent

/-- An accepted DOZE or STANDBY. -/
def State.sleepTo (s : State) (op : BitVec 2) (dest : DevState) : State :=
  if (s.pwr.firing &&& s.pwr.wakeEn) ≠ 0 then s.sleepCancelled op
  else
    (s.modPwr fun x => { x with state := .entering, target := dest, src := x.state, lastReq := op, err := 0 }).powerSettle

/-- A refused command. -/
def State.pwrErr (s : State) (e : BitVec 4) : State := s.modPwr fun x => { x with err := e }

/-- PWR_CMD DOZE. -/
def State.doze (s : State) : State :=
  match s.pwr.state with
  | .run => s.sleepTo 2 .doze
  | .entering => s.pwrErr 3
  | .waking => s.pwrErr 3
  | _ => s.pwrErr 1

/-- PWR_CMD STANDBY. -/
def State.standby (s : State) : State :=
  match s.pwr.state with
  | .run => s.sleepTo 3 .standby
  | .doze => s.sleepTo 3 .standby
  | .standby => s.pwrErr 1
  | _ => s.pwrErr 3

/-- PWR_CMD RUN: wake source 6. -/
def State.runCmd (s : State) : State :=
  match s.pwr.state with
  | .run => s.pwrErr 1
  | .waking => s.pwrErr 1
  | _ => (s.pwrErr 0).fire 6 0

/-- A write of PWR_CMD. -/
def State.pwrCmd (s : State) (w : W32) : State :=
  let op := fld w 0 2
  if op = 1 then s.runCmd else if op = 2 then s.doze else if op = 3 then s.standby else s.pwrErr 2

/-- RUN. -/
def execRun (p : Port) (s : State) : Res := .next (s.writeIsl p 0x40000 State.runCmd)

/-- DOZE. -/
def execDoze (p : Port) (s : State) : Res := .next (s.writeIsl p 0x40000 State.doze)

/-- STANDBY. -/
def execStandby (p : Port) (s : State) : Res := .next (s.writeIsl p 0x40000 State.standby)

/-- ENTER_DONE: every drop is done (R535). -/
def execEnterDone (s : State) : Res :=
  .next (if s.pwr.state = .entering ∧ (s.pwr.on &&& ~~~s.wantSet) = 0 then
      s.modPwr fun x => { x with state := x.target }
    else s)

/-! ### Wake sources (R537, R538) -/

/-- RTC_ALARM: the count is at or above ALM; it fires in every state and wakes where R537 lets it. -/
def execRtcAlarm (s : State) : Res :=
  .next (if s.pwr.almEn ∧ s.pwr.alm.toNat ≤ s.pwr.rtc.toNat then
      (s.modPwr fun x => { x with almEn := false, almFired := true }).fire 1 0
    else s)

/-- WAKE_N_LOW: low at two consecutive RTC ticks. -/
def execWakeNLow (s : State) : Res := .next (s.fire 2 0)

/-- PCIE_WAKE: PERST_N rises, or the PCIe receive lanes leave electrical idle, while HIF is not ON. -/
def execPcieWake (perstRise : Bool) (s : State) : Res :=
  .next (
    let s : State := if perstRise then { s with pins := { s.pins with perstHigh := true } } else s
    if s.isOn dHif then s else s.fire 3 0)

/-- WAKE_TH (R99), in 2 mV. -/
def LaneCommon.wakeTh (c : LaneCommon) : Nat := (fld c.sd 16 8).toNat

/-- ENERGY_DETECT: 10 µs above a level, in 2 mV peak-to-peak, on a retained line receiver (R83). -/
def execEnergyDetect (n : LaneId) (level : Nat) (s : State) : Res :=
  .next (if s.isLine n.val ∧ s.isRetained (dRx n.val) ∧ (s.lane n).com.wakeTh < level then
      s.fire 5 (BitVec.ofNat 7 n.val)
    else s)

/-! ### The sequencer (R540, R541) -/

/-- DOMAIN_POWER_GOOD. -/
def execDomainPowerGood (d : DomainId) (s : State) : Res := .next (if s.switching d.val then s.domGood d.val else s)

/-- DOMAIN_PG_TIMEOUT: the domain stays OFF and is not tried again until its bit is cleared; event 997 with d. -/
def execDomainPgTimeout (d : DomainId) (s : State) : Res :=
  .next (if s.switching d.val then
      let st := s.seqStep
      let s := s.modPwr fun x => { x with fault := setBit x.fault d.val true, step := BitVec.ofNat 4 st }
      let s := s.report 997 3 [BitVec.ofNat 8 d.val]
      let s := if 6 ≤ d.val ∧ d.val < 10 then s.applyBroken (d.val - 6) else s
      s.powerSettle
    else s)

/-! ### Bitmaps (R547) -/

/-- Word i of a bitmap, and a bitmap with word i replaced; bits of domains that do not exist stay 0. -/
def domWord (m : Domains) (i : Nat) : W32 := fld m (32 * i) 32
def putWord (m : Domains) (i : Nat) (w : W32) : Domains := putFld m (32 * i) w &&& domMask

def State.voteHostWrite (s : State) (i : Nat) (w : W32) : State :=
  (s.modPwr fun x => { x with voteHost := putWord x.voteHost i w }).powerSettle
def State.voteTestWrite (s : State) (i : Nat) (w : W32) : State :=
  (s.modPwr fun x => { x with voteTest := putWord x.voteTest i w }).powerSettle
def State.domFaultClear (s : State) (i : Nat) (w : W32) : State :=
  (s.modPwr fun x => { x with fault := putWord x.fault i (domWord x.fault i &&& ~~~w) }).powerSettle

/-- VOTE_HOST_WRITE. -/
def execVoteHostWrite (p : Port) (i : Fin 7) (w : W32) (s : State) : Res :=
  .next (s.writeIsl p (0x40040 + 4 * i.val) fun s => s.voteHostWrite i.val w)

/-- VOTE_TEST_WRITE. -/
def execVoteTestWrite (p : Port) (i : Fin 7) (w : W32) (s : State) : Res :=
  .next (s.writeIsl p (0x400A0 + 4 * i.val) fun s => s.voteTestWrite i.val w)

/-- DOM_FAULT_CLEAR. -/
def execDomFaultClear (p : Port) (i : Fin 7) (w : W32) (s : State) : Res :=
  .next (s.writeIsl p (0x40120 + 4 * i.val) fun s => s.domFaultClear i.val w)

/-! ### The RTC (R538, R546) -/

/-- A write of PWR_RTC_HI loads both halves at the next RTC tick. -/
def State.rtcWrite (s : State) (w : W32) : State := s.modPwr fun x => { x with rtcLoad := some (fld w 0 16 ++ x.rtcLo) }

/-- RTC_WRITE. -/
def execRtcWrite (p : Port) (w : W32) (s : State) : Res := .next (s.writeIsl p 0x40024 fun s => s.rtcWrite w)

/-! ### Registers (R544 to R547) -/

/-- PWR_STATUS. -/
def State.pwrStatus (s : State) : W32 :=
  let x := s.pwr
  at' 0 x.state.code ||| atB 3 (x.state == .entering || s.seqStep != 0) ||| at' 4 x.lastReq ||| atB 6 x.cancelled |||
    at' 8 x.err ||| atN 12 4 s.seqStep

/-- A read of the power island. -/
def State.pwrRead (s : State) (p : Port) (off : Nat) : W32 × State :=
  let x := s.pwr
  let hi := base 2 + 0x24
  let i := off % 0x20 / 4
  if off = 0x04 then (s.pwrStatus, s)
  else if off = 0x08 then (at' 0 x.wakeEn, s)
  else if off = 0x0C then (x.wakeLast, s)
  else if off = 0x20 then s.readLow p hi (x.rtc.setWidth 64)
  else if off = 0x24 then (s.latched p hi, s)
  else if off = 0x28 then (fld x.alm 0 32, s)
  else if off = 0x2C then (at' 0 (fld x.alm 32 16) ||| atB 16 x.almEn ||| atB 17 x.almFired, s)
  else if 7 ≤ i ∨ off < 0x40 ∨ 0x140 ≤ off then (0, s)
  else
    let m : Domains :=
      match off / 0x20 with
      | 2 => x.voteHost
      | 3 => s.voteSteward
      | 4 => s.votePolicy
      | 5 => x.voteTest
      | 6 => x.drop
      | 7 => x.on
      | 8 => x.ret
      | _ => x.fault
    (domWord m i, s)

/-- A write of the power island. -/
def State.pwrWrite (s : State) (off : Nat) (w : W32) : State :=
  let i := off % 0x20 / 4
  if off = 0x00 then s.pwrCmd w
  else if off = 0x04 then s.modPwr fun x => { x with cancelled := w1cB x.cancelled w 6 }
  else if off = 0x08 then s.modPwr fun x => { x with wakeEn := fld w 0 5 }
  else if off = 0x20 then s.modPwr fun x => { x with rtcLo := w }
  else if off = 0x24 then s.rtcWrite w
  else if off = 0x28 then s.modPwr fun x => { x with alm := fld x.alm 32 16 ++ w }
  else if off = 0x2C then s.modPwr fun x =>
    { x with alm := fld w 0 16 ++ fld x.alm 0 32, almEn := bit w 16, almFired := w1cB x.almFired w 17 }
  else if 7 ≤ i then s
  else if 0x40 ≤ off ∧ off < 0x60 then s.voteHostWrite i w
  else if 0xA0 ≤ off ∧ off < 0xC0 then s.voteTestWrite i w
  else if 0xC0 ≤ off ∧ off < 0xE0 then s.modPwr fun x => { x with drop := putWord x.drop i w }
  else if 0x120 ≤ off ∧ off < 0x140 then s.domFaultClear i w
  else s

end Sys2Proof.Machine
end

