-- ==== Sys2Proof/Machine/Activation.lean ====
section
/-!
DEFINITION. Activation of a line lane by its quadrant's steward (R138 to R160): the message commands, the timers, tuning and TC keys.
-/
namespace Sys2Proof.Machine

/-! ### Identity and keys (R138 to R140, R154) -/

/-- The serial number of lane n: as read at its last entry to O2-3, or as the registers give it before the first (R138, R139). -/
def State.serialNow (s : State) (n : LaneId) : W32 × W32 := (s.sys.snVendor, s.sys.snBase + BitVec.ofNat 32 n.val)
def State.serial (s : State) (n : LaneId) : W64 :=
  let a := (s.lane n).act
  if a.snRead then a.snVendor ++ a.snVssn else (s.serialNow n).1 ++ (s.serialNow n).2

/-- The registration ID in use: 36 bytes (R140). -/
def Act5.regBytes (a : Act5) : List Byte := a.regHeld.toList.flatMap fun w => leBytes 4 w.toNat

/-- The lane's session key is derived (R154). -/
def State.deriveTc (s : State) (n : LaneId) : State :=
  let l := s.lane n
  let sk := Config.tcSession (Tab.find s.key.msk n.val) l.act.regBytes (s.serial n) l.ds.ponId
  { s with key := { s.key with tcSk := Tab.ins s.key.tcSk n.val sk } }

/-- A derived key of the lane: PLOAM_IK 0, OMCI_IK 1, KEK 2; none before the first derivation. -/
def State.tcKeyOf (s : State) (n : LaneId) (which : Nat) : Option (List Byte) := (Tab.find s.key.tcSk n.val).map (Config.tcDerived which)

/-! ### Messages (R141, R145, R147) -/

/-- The broadcast ONU-ID. -/
def bcastId : BitVec 10 := 0x3FF

/-- R141 lists a message in the present state of its lane. -/
def Act5.lists (a : Act5) (onuValid : Bool) (m : Ploam) : Bool :=
  let st := a.state
  match m.body with
  | .burstProfile .. => st != .o11 && st != .o7
  | .assignOnuId .. => st == .o23
  | .rangingAbs _ => st == .o4 || st == .o9
  | .rangingRel _ => st == .o51 || st == .o9
  | .deactivate => st != .o7
  | .disableSn _ enable _ => if enable then st == .o7 && !a.rogue else true
  | .assignAllocId .. => onuValid && st != .o7
  | .keyControl _ k _ => onuValid && st != .o7 && (k == 1 || k == 2)
  | .tuningControl complete .. => !complete && (st == .o51 || st == .o52)
  | .channelProfile .. => st == .o8
  | .sleepAllow => false
  | .adjustTxWavelength => false
  | .other => false

/-- A message acknowledges the COMPLETE_u of a lane in O9: a unicast one, but those of the rows marked Any, which take precedence, and those
that are always ignored (R141, R145). -/
def Act5.acked (a : Act5) (m : Ploam) : Bool :=
  a.state == .o9 && m.acksComplete && m.onuId != bcastId &&
  (match m.body with
   | .deactivate => false
   | .disableSn .. => false
   | .sleepAllow => false
   | .adjustTxWavelength => false
   | _ => true)

/-- The integrity check passes: with the lane's PLOAM_IK once it is derived, else with the default one. -/
def State.micOk (s : State) (n : LaneId) (m : Ploam) : Bool :=
  if (Tab.find s.key.tcSk n.val).isSome then m.micShared else m.micDefault

/-- The message at the head of the lane's queue leaves it. -/
def State.popPloam (s : State) (n : LaneId) : State := s.modDs n fun d => { d with ploamQ := d.ploamQ.tail }

/-- A failed check is counted; every 16th raises event 8n + 6 (R147). -/
def State.micFail (s : State) (n : LaneId) : State :=
  let s := s.actCnt n 1
  s.reportIf ((vget 0 (s.lane n).act.cnt 1).toNat % 16 == 0) (laneEv n 6) 1 [3]

/-- The steward of lane n runs. -/
def State.stewardOn (s : State) (n : LaneId) : Bool := s.isLine n.val && s.isOn (dQuad (quadOf n.val)) && s.clocked

/-- O5.1 is entered from O9 (R141). -/
def State.tunedIn (s : State) (n : LaneId) : State := (s.setAct n .o51).modAct n fun a => { a with tuning := none }

/-! ### What each message does (R139, R141, R146, R149, R151, R155) -/

/-- Burst_Profile: the profile is stored; in O1.2 the lane moves to O2-3 and reads its serial number (R139, R177). -/
def State.onBurstProfile (s : State) (n : LaneId) (i : BitVec 2) (p : Profile) : State :=
  let s := s.modPump n fun x => { x with profiles := vset x.profiles i.toNat (some p) }
  if (s.lane n).act.state = .o12 then
    (s.setAct n .o23).modAct n fun a => { a with snRead := true, snVendor := s.sys.snVendor, snVssn := (s.serialNow n).2 }
  else s

/-- Assign_ONU-ID (R141). -/
def State.onAssignOnuId (s : State) (n : LaneId) (sn : W64) (id : BitVec 10) : State :=
  if sn ≠ s.serial n then s
  else
    let s := s.modDs n fun d => { d with ctl := setBit (putFld d.ctl 0 id) 10 true }
    let s := s.modPump n fun x => { x with filter := vset x.filter 0 (some { alloc := id.setWidth 14, dflt := true }) }
    (s.setAct n .o4).modAct n fun a =>
      { a with regHeld := a.regId, to1 := some ((s.steward (quadFin n)).timer 0 100) }

/-- Ranging_Time, absolute: it replaces the EqD; O4 and O9 move to O5.1 (R149). -/
def State.onRangingAbs (s : State) (n : LaneId) (e : W32) : State :=
  let st := (s.lane n).act.state
  let s := s.modAct n fun a => { a with eqd := e, eqdHeld := true }
  if st = .o4 then (s.deriveTc n).setAct n .o51 else s.tunedIn n

/-- Ranging_Time, relative: it adds to the EqD within 0 to 2^32 − 1; O9 moves to O5.1 (R149). -/
def State.onRangingRel (s : State) (n : LaneId) (d : Int) : State :=
  let v : Int := ((s.lane n).act.eqd.toNat : Int) + d
  if v < 0 ∨ 2 ^ 32 ≤ v then s.actCnt n 0
  else
    let s := s.modAct n fun a => { a with eqd := BitVec.ofInt 32 v }
    if (s.lane n).act.state = .o9 then s.tunedIn n else s

/-- The scheduled count lies at least 8 frames ahead of the present frame's, counted modulo 2^51. -/
def farEnough (sched now : BitVec 51) : Bool := decide (8 ≤ (sched - now).toNat) && decide ((sched - now).toNat < 2 ^ 50)

/-- Why a tuning request is refused (R151). -/
def Lane.tuneRefusal (l : Lane) (ds : BitVec 4) (sched : BitVec 51) : Option NackReason :=
  if l.act.state == .o52 || l.act.tuning.isSome then some .busy
  else if !bit l.act.scanMask ds.toNat then some .channelNotSupported
  else if !farEnough sched l.ds.sfc then some .insufficientTime
  else none

/-- Tuning_Control (R151). -/
def State.onTuningControl (s : State) (n : LaneId) (ds us : BitVec 4) (sched : BitVec 51) : State :=
  match (s.lane n).tuneRefusal ds sched with
  | some r => (s.actCnt n 5).queuePloam n (.tuneNack r)
  | none =>
    ((s.setAct n .o52).modAct n fun a => { a with tuning := some { ds := ds, us := us, sched := sched } }).queuePloam n .tuneAck

/-- Channel_Profile: of the target downstream channel, marked as this channel (R141). -/
def State.onChannelProfile (s : State) (n : LaneId) (ds : BitVec 4) (this : Bool) : State :=
  if this && (match (s.lane n).act.tuning with | some t => t.ds == ds | none => false) then
    (s.modAct n fun a => { a with profileSeen := true }).fromO8 n
  else s

/-- DISABLED of lane n in the vault. -/
def State.setDisabled (s : State) (n : LaneId) (on : Bool) : State :=
  { s with vault := { s.vault with disabled := setBit s.vault.disabled n.val on } }

/-- Disable_Serial_Number (R141, R160): a disable that finds the lane in O7 sets DISABLED and nothing else. -/
def State.onDisableSn (s : State) (n : LaneId) (all enable : Bool) (sn : W64) : State :=
  if !all && sn != s.serial n then s
  else if enable then (s.setDisabled n false).toO11 n
  else
    let was := (s.lane n).act.state
    let s := s.setDisabled n true
    if was = .o7 then s else (s.modAct n fun a => { a with lastExit := 4, tuning := none }).setAct n .o7

/-- Allocation IDs of a pump's filter. -/
def Pump.allocs (x : Pump) : Nat := (x.filter.toList.filter Option.isSome).length

/-- Allocation IDs of a quadrant's line lanes. -/
def State.quadAllocs (s : State) (q : Nat) : Nat := ((s.quadLines q).map fun n => (s.lane n).pump.allocs).sum

/-- Assign_Alloc-ID (R146). -/
def State.onAssignAllocId (s : State) (n : LaneId) (alloc : BitVec 14) (add : Bool) : State :=
  let x := (s.lane n).pump
  let has (e : Option AllocEntry) : Bool := match e with | some e => e.alloc == alloc | none => false
  if !add then
    let kept := x.filter.any fun e => match e with | some e => e.alloc == alloc && e.dflt | none => false
    (if kept then s else s.clearMiss n alloc).modPump n fun x => { x with
      filter := x.filter.map fun e => match e with
        | some e => if e.alloc = alloc ∧ !e.dflt then none else some e
        | none => none }
  else if x.filter.any has then s
  else if 32 ≤ x.allocs ∨ s.allocIds (quadOf n.val) ≤ s.quadAllocs (quadOf n.val) then (s.actCnt n 3).queuePloam n (.acknowledge true)
  else
    match firstBelow 32 fun i => (vget none x.filter i).isNone with
    | some i => s.modPump n fun x => { x with filter := vset x.filter i (some { alloc := alloc }) }
    | none => s

/-- A new TC key of index k is drawn, wrapped and reported (R155). The key is a free value: it comes from the true random source. -/
def State.drawKey (s : State) (n : LaneId) (k : BitVec 2) : State :=
  let key := beBytes 16 (s.freeBits 128).toNat
  let wrapped := Config.tcWrap ((s.tcKeyOf n 2).getD []) key
  (s.tookFree.modAct n fun a => { a with newKeys := a.newKeys ++ [{ k := k, key := key, wrapped := wrapped }] }).queuePloam n
    (.keyReport k wrapped)

/-- Key_Control: a new key, which waits while TRNG_FAIL is 1, or a slot emptied (R155, R411). -/
def State.onKeyControl (s : State) (n : LaneId) (newKey : Bool) (k : BitVec 2) : State :=
  if !newKey then s.emptyKey n (k.toNat - 1)
  else if s.key.trngFail then s.modAct n fun a => { a with keyWaits := a.keyWaits ++ [k] }
  else s.drawKey n k

/-- The Key_Control messages of lane n that waited for the random source are answered (R411). -/
def State.answerKeys (s : State) (n : LaneId) : State :=
  let ks := (s.lane n).act.keyWaits
  ks.foldl (fun s k => s.drawKey n k) (s.modAct n fun a => { a with keyWaits := [] })

/-- What a listed message does. -/
def State.onPloam (s : State) (n : LaneId) (m : Ploam) : State :=
  match m.body with
  | .burstProfile i fec rep pre d8 delim =>
    s.onBurstProfile n i { fec := fec, rep := max 1 rep.toNat, pre := pre.toList, delim := if d8 then delim.toList else delim.toList.take 4 }
  | .assignOnuId sn id => s.onAssignOnuId n sn id
  | .rangingAbs e => s.onRangingAbs n e
  | .rangingRel d => s.onRangingRel n d
  | .deactivate => s.exitTo11 n 3
  | .disableSn all enable sn => s.onDisableSn n all enable sn
  | .assignAllocId alloc add => s.onAssignAllocId n alloc add
  | .keyControl newKey k _ => s.onKeyControl n newKey k
  | .tuningControl _ ds us sched => s.onTuningControl n ds us sched
  | .channelProfile ds _ this => s.onChannelProfile n ds this
  | .sleepAllow => s
  | .adjustTxWavelength => s
  | .other => s

/-! ### The queue (R141, R145, R147) -/

/-- Message m, which has left the queue and passed its checks, is handled: it acts where it is listed, and where it acknowledges the
COMPLETE_u the lane moves from O9 to O5.1; one that does neither is unexpected. -/
def State.ploamActs (s : State) (n : LaneId) (m : Ploam) : State :=
  let ack := (s.lane n).act.acked m
  if (s.lane n).act.lists (s.lane n).ds.onuValid m then
    let s := s.onPloam n m
    if ack && (s.lane n).act.state == .o9 then s.tunedIn n else s
  else if ack then s.tunedIn n
  else s.actCnt n 0

/-- The head of the PLOAM queue is handled where it is of the command's kind. -/
def State.handle (s : State) (n : LaneId) (kind : Ploam → Bool) : State :=
  if !s.stewardOn n then s
  else
    match (s.lane n).ds.ploamQ with
    | [] => s
    | m :: _ =>
      if !kind m then s
      else if s.micOk n m && m.seqOk then (s.popPloam n).ploamActs n m
      else (s.popPloam n).micFail n

/-- BURST_PROFILE_MSG. -/
def execBurstProfileMsg (n : LaneId) (s : State) : Res :=
  .next (s.handle n fun m => match m.body with | .burstProfile .. => true | _ => false)

/-- ASSIGN_ONU_ID. -/
def execAssignOnuId (n : LaneId) (s : State) : Res :=
  .next (s.handle n fun m => match m.body with | .assignOnuId .. => true | _ => false)

/-- RANGING_TIME. -/
def execRangingTime (n : LaneId) (s : State) : Res :=
  .next (s.handle n fun m => match m.body with | .rangingAbs _ => true | .rangingRel _ => true | _ => false)

/-- TUNING_CONTROL. -/
def execTuningControl (n : LaneId) (s : State) : Res :=
  .next (s.handle n fun m => match m.body with | .tuningControl .. => true | _ => false)

/-- CHANNEL_PROFILE. -/
def execChannelProfile (n : LaneId) (s : State) : Res :=
  .next (s.handle n fun m => match m.body with | .channelProfile .. => true | _ => false)

/-- DEACTIVATE_ONU_ID. -/
def execDeactivateOnuId (n : LaneId) (s : State) : Res :=
  .next (s.handle n fun m => match m.body with | .deactivate => true | _ => false)

/-- DISABLE_SERIAL_NUMBER. -/
def execDisableSerialNumber (n : LaneId) (s : State) : Res :=
  .next (s.handle n fun m => match m.body with | .disableSn .. => true | _ => false)

/-- ASSIGN_ALLOC_ID. -/
def execAssignAllocId (n : LaneId) (s : State) : Res :=
  .next (s.handle n fun m => match m.body with | .assignAllocId .. => true | _ => false)

/-- KEY_CONTROL. -/
def execKeyControl (n : LaneId) (s : State) : Res :=
  .next (s.handle n fun m => match m.body with | .keyControl .. => true | _ => false)

/-- PLOAM_UNEXPECTED: the head of the queue is listed in no row, or fails its checks (R145, R147). -/
def execPloamUnexpected (n : LaneId) (s : State) : Res :=
  .next (
    let a := (s.lane n).act
    s.handle n fun m => !(s.micOk n m && m.seqOk) || !(a.lists (s.lane n).ds.onuValid m || a.acked m))

/-- COMPLETE_U_ACKNOWLEDGED: the head of the queue acknowledges the COMPLETE_u. -/
def execCompleteUAcknowledged (n : LaneId) (s : State) : Res := .next (s.handle n fun m => (s.lane n).act.acked m)

/-- The Key_Report of a new key waits in the lane's queue for a burst. -/
def Act5.reportWaits (a : Act5) (x : NewKey) : Bool := a.usQ.any fun m => m.held.isNone && m.msg == .keyReport x.k x.wrapped

/-- KEY_REPORT_HANDOFF: the last fragment of a report is handed to the pump and its key is installed (R155). -/
def execKeyReportHandoff (n : LaneId) (s : State) : Res :=
  .next (
    let a := (s.lane n).act
    match (if s.stewardOn n then a.newKeys.find? fun x => !a.reportWaits x else none) with
    | some x => ((s.installKey n (x.k.toNat - 1) x.key).modAct n fun a => { a with newKeys := a.newKeys.erase x }).actCnt n 4
    | none => s)

/-! ### Timers (R141, R144) -/

/-- TO1_EXPIRE. -/
def execTo1Expire (n : LaneId) (s : State) : Res :=
  .next (if s.stewardOn n ∧ (s.lane n).act.state = .o4 ∧ (s.lane n).act.to1.isSome then s.exitTo11 n 2 else s)

/-- TO2_EXPIRE. -/
def execTo2Expire (n : LaneId) (s : State) : Res :=
  .next (if s.stewardOn n ∧ (s.lane n).act.state = .o6 ∧ (s.lane n).act.to2.isSome then s.exitTo11 n 1 else s)

/-- TO4_EXPIRE. -/
def execTo4Expire (n : LaneId) (s : State) : Res :=
  .next (if s.stewardOn n ∧ (s.lane n).act.state = .o8 ∧ (s.lane n).act.to4.isSome then s.exitTo11 n 5 else s)

/-- TO5_EXPIRE. -/
def execTo5Expire (n : LaneId) (s : State) : Res :=
  .next (if s.stewardOn n ∧ (s.lane n).act.state = .o9 ∧ (s.lane n).act.to5.isSome then s.exitTo11 n 5 else s)

/-! ### Tuning and scanning (R152, R153, R172) -/

/-- A request is listed, with event 8n + 6, detail cause 1; the list holds 24. -/
def State.postTune (s : State) (n : LaneId) (ds us : BitVec 4) (scan : Bool) : State :=
  let q := quadFin n
  let x := s.steward q
  if 24 ≤ x.tuneReqs.length then s
  else
    (s.modStw q fun x => { x with
      tuneReqs := x.tuneReqs ++ [{ slice := BitVec.ofNat 5 (n.val % 24), ds := ds, us := us, scan := scan, seq := x.nextSeq }]
      nextSeq := x.nextSeq + 1 }).report (laneEv n 6) 1 [1]

/-- TUNE_SCHEDULED_COUNT: the superframe counter is at or past the request's count (R141, R152). -/
def execTuneScheduledCount (n : LaneId) (s : State) : Res :=
  .next (
    let l := s.lane n
    match l.act.tuning with
    | some t =>
      if s.stewardOn n ∧ l.act.state = .o52 ∧ (l.ds.sfc - t.sched).toNat < 2 ^ 50 then
        let s := (s.setAct n .o8).modAct n fun a =>
          { a with tuned := false, profileSeen := false, to4 := some ((s.steward (quadFin n)).timer 16 10) }
        s.postTune n t.ds t.us false
      else s
    | none => s)

/-- An acknowledgement of a listed request. -/
def State.tuneAcked (s : State) (n : LaneId) (r : TuneReq) (ok : Bool) : State :=
  let s := s.modStw (quadFin n) fun x => { x with tuneReqs := x.tuneReqs.filter (· != r) }
  let s := if ok then
      (s.modAct n fun a =>
        { a with chDs := r.ds, chUs := r.us, chKnown := true, scanCh := none, tuned := a.tuned || !r.scan }).huntLine n
    else s
  if r.scan || (s.lane n).act.state != .o8 then s
  else if ok then s.fromO8 n
  else s.exitTo11 n 5

/-- A write of QD_STW_TUNE_ACK_q (R152, R172). -/
def State.tuneAck (s : State) (q : QuadId) (w : W32) : State :=
  let res := fld w 16 2
  if res ≠ 1 ∧ res ≠ 2 then s
  else
    match laneOf q (fld w 0 5).toNat with
    | none => s
    | some n =>
      if !s.isLine n.val then s
      else
        match (s.steward q).tuneReqs.find? fun r => r.slice == fld w 0 5 && r.seq == fld w 8 8 with
        | some r => s.tuneAcked n r (res == 1)
        | none => s.actCnt n 6

/-- TUNE_ACK. -/
def execTuneAck (p : Port) (q : QuadId) (w : W32) (s : State) : Res :=
  .next (s.writeIsl p (quadBase q.val + 0x1203C) fun s => s.tuneAck q w)

/-- The next channel of a mask after a channel, ascending, wrapping round (R153). -/
def nextChannel (mask : BitVec 16) (cur : Option (BitVec 4)) : Option (BitVec 4) :=
  let from_ := match cur with
    | some c => c.toNat + 1
    | none => 0
  (firstBelow 16 fun i => bit mask ((from_ + i) % 16)).map fun i => BitVec.ofNat 4 ((from_ + i) % 16)

/-- The channel from which a scan goes on: the one the lane is on, or the last one asked for where no acknowledgement has come for it or it
could not be tuned to (R153). -/
def Act5.scanFrom (a : Act5) : Option (BitVec 4) :=
  match a.scanCh with
  | some c => some c
  | none => if a.chKnown then some a.chDs else none

/-- SCAN_DWELL (R153): the lane parks while it scans. The upstream channel of a scan request is a free value. -/
def execScanDwell (n : LaneId) (s : State) : Res :=
  .next (
    let l := s.lane n
    let listed := (s.steward (quadFin n)).tuneReqs.any fun r => r.slice.toNat == n.val % 24
    if s.stewardOn n && l.act.state == .o11 && l.act.scan && l.ds.sync != .sync && !listed then
      match nextChannel l.act.scanMask l.act.scanFrom with
      | some c =>
        let us := s.freeBits 4
        let s := s.tookFree.modAct n fun a => { a with scanning := true, scanCh := some c }
        (s.modCom n fun x => ({ x with ctl := setBit x.ctl 2 true } : LaneCommon).judgeMode).postTune n c us true
      | none => s
    else s)

/-! ### Rogue transmitters (R159) -/

/-- ROGUE_TRIP. -/
def execRogueTrip (n : LaneId) (s : State) : Res :=
  .next (
    if !s.isLine n.val then s
    else
      s.rogueTrip n)

/-! ### The lane window (R170, R171) -/

/-- ADMIN as written: clearing it restarts the lane but in O7; setting it may start it; the STEWARD vote follows (R141, R533). -/
def State.setAdmin (s : State) (n : LaneId) (on : Bool) : State :=
  let was := (s.lane n).act.admin
  let s := s.modAct n fun a => { a with admin := on }
  let s := if was && !on && (s.lane n).act.state != .o7 then s.exitTo11 n 7 else if on then s.fromO11 n else s
  if was == on then s else s.powerSettle

/-- A lane window item as read. -/
def State.actItem (s : State) (n : LaneId) (i : Nat) : W32 :=
  let l := s.lane n
  let a := l.act
  if i = 0 then
    at' 0 a.state.code ||| at' 4 (fld l.ds.ctl 0 10) ||| atB 14 l.ds.onuValid ||| atB 15 a.rogue ||| atB 16 (s.disabled n) |||
      at' 17 a.lastExit ||| atB 20 (vget none l.pump.profiles 0).isSome ||| atB 21 (vget none l.pump.profiles 1).isSome |||
      atB 22 (vget none l.pump.profiles 2).isSome ||| atB 23 (vget none l.pump.profiles 3).isSome ||| at' 24 a.usKeyIdx
  else if i = 1 then atB 0 a.admin ||| atB 1 a.scan ||| at' 16 a.scanMask
  else if i = 2 then a.eqd
  else if i = 3 then a.teqd
  else if i = 4 then a.roundTrip
  else if i = 5 then at' 0 a.chDs ||| at' 4 a.chUs ||| atB 8 a.chKnown
  else if 0x10 ≤ i ∧ i < 0x19 then vget 0 a.regId (i - 0x10)
  else if 0x20 ≤ i ∧ i < 0x28 then vget 0 a.cnt (i - 0x20)
  else 0

/-- A lane window item as written. -/
def State.actItemWrite (s : State) (n : LaneId) (i : Nat) (w : W32) : State :=
  if i = 1 then (s.modAct n fun a => { a with scan := bit w 1, scanMask := fld w 16 16 }).setAdmin n (bit w 0)
  else if i = 3 then s.modAct n fun a => { a with teqd := w }
  else if 0x10 ≤ i ∧ i < 0x19 then s.modAct n fun a => { a with regId := vset a.regId (i - 0x10) w }
  else s

/-- The line lane and the item that QD_STW_LANE_SEL_q selects. -/
def State.stwSel (s : State) (q : QuadId) : Option LaneId :=
  match laneOf q (fld (s.steward q).laneSel 0 5).toNat with
  | some n => if s.isLine n.val then some n else none
  | none => none
def State.stwItem (s : State) (q : QuadId) : Nat := (fld (s.steward q).laneSel 8 8).toNat

/-- AUTO_INC. -/
def State.stwSelStep (s : State) (q : QuadId) : State :=
  s.modStw q fun x => if bit x.laneSel 16 then { x with laneSel := putFld x.laneSel 8 (fld x.laneSel 8 8 + 1#8) } else x

def State.stwLaneRead (s : State) (q : QuadId) : W32 × State :=
  ((match s.stwSel q with | some n => s.actItem n (s.stwItem q) | none => 0), s.stwSelStep q)
def State.stwLaneWrite (s : State) (q : QuadId) (w : W32) : State :=
  (match s.stwSel q with | some n => s.actItemWrite n (s.stwItem q) w | none => s).stwSelStep q

/-- STW_LANE_DATA: a read where no word is given. -/
def execStwLaneData (p : Port) (q : QuadId) (acc : Option W32) (s : State) : Res :=
  .next (match acc with
    | none => s.readIsl p (quadBase q.val + 0x12034) fun s => s.stwLaneRead q
    | some w => s.writeIsl p (quadBase q.val + 0x12034) fun s => s.stwLaneWrite q w)

end Sys2Proof.Machine
end

