-- ==== Sys2Proof/Machine/PumpOps.lean ====
section
/-!
DEFINITION. What the pump of a line lane computes and chooses (R174 to R190): serve times, the tests of R176, the filling of grants and
the buffer-occupancy reports.
-/
namespace Sys2Proof.Machine

/-! ### Times, in units of 1/800,000 UI (R180, R181) -/

def uUi : Int := 800000
def uNs : Int := 7962624
def uFrame : Int := 1244160 * 800000

/-- Bytes of the PSBu (R177, R178). -/
def Profile.psbu (p : Profile) : Nat := 8 * p.rep + p.delim.length

/-- Bytes of the FS burst: header, PLOAMu, grants, trailer (R178). -/
def Burst.fsBytes (b : Burst) : Nat := 4 + (if b.ploamu then 48 else 0) + 4 * (b.grants.map (·.size)).sum + 4

/-- Bits of a burst with a profile (R178). -/
def Burst.bits (b : Burst) (p : Profile) : Nat :=
  8 * (p.psbu + b.fsBytes + (if p.fec then 32 * ((b.fsBytes + 215) / 216) else 0))

/-- Length of a ramp in ns by its code: 15 acts as 14 (R78). -/
def rampNs (code : BitVec 4) : Nat := 8 + 4 * min 14 code.toNat

/-- Tu, Td and LEAD that a value of LN_TX_CFG_n gives (R78, R102). -/
def cfgTu (w : W32) : Nat := rampNs (fld w 16 4)
def cfgTd (w : W32) : Nat := rampNs (fld w 20 4)
def cfgLead (w : W32) : Nat := (fld w 24 8).toNat

/-- One lane-transmit cycle: 64 UI (R78). -/
def uCycle : Int := 64 * uUi

/-- The burst with its serve time and its grant end computed with the EqD and TRIM of the lane now (R180, R181). -/
def Burst.timed (b : Burst) (l : Lane) (p : Profile) : Burst :=
  let eqd : Int := if b.serial then 0 else (l.act.eqd.toNat : Int)
  let bits : Int := 32 * (b.start : Int) - 8 * (p.psbu : Int) + eqd + 64 * (b.randCycles : Int)
  let serve := (b.frame : Int) * uFrame + 35000 * uNs + bits * uUi + l.pump.trim.toInt * 50000
  { b with serve := serve, stop := serve + (b.bits p : Int) * uUi + (cfgTd l.com.txCfg : Int) * uNs }

/-- The burst at the activation of its TXEN_L_n: LEAD and the ramps are those of LN_TX_CFG_n now, and the grant end with them; a
waiting injection is the burst's (R79, R89, R181). -/
def Burst.activated (b : Burst) (c : LaneCommon) (ind : BitVec 9) : Burst :=
  let bits := match b.prof with
    | some p => b.bits p
    | none => 0
  { b with
    state := .serving, ind := ind, cfg := c.txCfg, inject := c.inject
    txenAt := b.serve - (cfgLead c.txCfg : Int) * uCycle
    stop := b.serve + (bits : Int) * uUi + (cfgTd c.txCfg : Int) * uNs }

/-- The shape of a burst: its timing as fixed at the activation of TXEN_L_n, and the swing and weights in force while it leaves
(R77 to R79). -/
def Burst.shape (b : Burst) (c : LaneCommon) : BurstShape :=
  let pre := (fld c.txHeld 8 4).toNat
  let post := (fld c.txHeld 12 4).toNat
  { lead := cfgLead b.cfg, tu := cfgTu b.cfg, td := cfgTd b.cfg, swing := 20 * (fld c.txHeld 0 6).toNat
    pre := pre, main := 64 - pre - post, post := post, inverted := bit c.ctl 5 }

/-- Two burst windows overlap (R181). -/
def Burst.overlaps (a b : Burst) : Bool := decide (a.serve < b.stop ∧ b.serve < a.stop)

/-! ### Lane state and filter (R142, R175) -/

/-- The lane state allows a burst, and every allocation of it is in the filter. -/
def State.burstAllowed (s : State) (n : LaneId) (b : Burst) : Bool :=
  let l := s.lane n
  let inFilter (dflt : Bool) (g : Grant) : Bool :=
    l.pump.filter.any fun e => match e with | some e => e.alloc == g.alloc && (e.dflt || !dflt) | none => false
  s.isOn (dQuad (quadOf n.val)) &&
  match l.act.state with
  | .o23 => b.serial && b.ploamu && b.grants.all fun g => g.alloc == 0x3FF#14
  | .o4 => !b.serial && b.grants.all (inFilter true)
  | .o9 => !b.serial && b.grants.all (inFilter true)
  | .o51 => !b.serial && b.grants.all (inFilter false)
  | .o52 => !b.serial && b.grants.all (inFilter false)
  | _ => false

/-- No burst of the lane may be served: dark window, LN_TX_n not ON or leaving, generator on, no lock, a calibration (R53, R76, R84, R87,
R432). -/
def State.noTx (s : State) (n : LaneId) : Bool :=
  !s.isOn (dTx n.val) || s.txLeaving n || (s.lane n).com.genEn || (s.lane n).ts.calBusy || !(s.lane n).com.cdrLock || s.isDark (quadOf n.val)

/-! ### Taking grants (R174, R176) -/

/-- The structures that continue the one before, back to back in the same BWmap (R174). -/
def contGrants : GrantIn → List GrantIn → List GrantIn
  | _, [] => []
  | g, h :: t => if h.frame = g.frame ∧ h.idx = g.idx + 1 ∧ h.a.start = 0xFFFF#16 then h :: contGrants h t else []

/-- The grant that a structure is. -/
def GrantIn.grant (g : GrantIn) : Grant := { alloc := g.a.alloc, dbru := g.a.dbru, size := g.a.size.toNat }

/-- The fields of a burst are refused (R176, first three rows). -/
def badFields (g : GrantIn) (rest : List GrantIn) : Bool :=
  decide (38880 ≤ g.a.start.toNat) || (decide (g.a.size = 0) && !g.a.ploamu) ||
  (g :: rest).any fun h => decide (h.a.size = 0) && h.a.dbru

/-- Why a burst is refused: counter and CAUSE (R176). ns is the time from the frame's PSync to the arrival of the grant. -/
def State.refuseBurst (s : State) (n : LaneId) (g : GrantIn) (rest : List GrantIn) (b : Burst) (ns : Nat) : Option (Nat × BitVec 3) :=
  let p := (s.lane n).pump
  if badFields g rest || decide (64 ≤ p.bursts.length) then some (7, 3)
  else
    match vget none p.profiles b.profile.toNat with
    | none => some (8, 4)
    | some pr =>
      let b := b.timed (s.lane n) pr
      if b.serve < (b.frame : Int) * uFrame + ((ns : Int) + 12000) * uNs then some (5, 1)
      else if p.bursts.any b.overlaps then some (6, 2)
      else none

/-- Grants discarded under R176: counted, GRANT_ERR set with the cause, event 8n + 3 when it rises. -/
def State.grantError (s : State) (n : LaneId) (c k : Nat) (cause : BitVec 3) : State :=
  let was := (s.lane n).pump.grantErr
  ((s.usCnt n c k).modPump n fun p => { p with grantErr := true, cause := cause }).reportIf (!was) (laneEv n 3) 1

/-- Bursts in the order of their serve times. -/
def insertBurst (b : Burst) : List Burst → List Burst
  | [] => [b]
  | x :: t => if b.serve < x.serve then b :: x :: t else x :: insertBurst b t

/-- One burst is discarded and counted once on counter c (R184). -/
def State.discardBurst (s : State) (n : LaneId) (id c : Nat) : State := (s.dropBursts n [id]).usCnt n c

/-! ### Filling a grant (R185 to R188, R339) -/

/-- The XGEM port of a frame of queue j (R188, R487). -/
def framePort (n : LaneId) (j : Nat) (f : Frame) : BitVec 16 := if f.omci then f.xgemPort else Config.upstreamPort n.val j

/-- The first frame of queue j of the lane's quadrant that is not wholly chosen. -/
def State.queueHead (s : State) (n : LaneId) (j : Nat) : Option Queued := ((s.tm (quadOf n.val) false).queue j).head

/-- A frame of a port that requires encryption waits while US_KEY_IDX is 0 (R156). -/
def State.keyWaits (s : State) (n : LaneId) (port : BitVec 16) : Bool :=
  (s.lane n).act.usKeyIdx == 0 &&
  match (s.lane n).ds.portEntry port with
  | some e => portEnc e
  | none => false

/-- The queue whose head goes next: the rest of a partly sent SDU, an offside frame, or what the scheduler picks (R185, R187, R339). -/
def State.nextQueue (s : State) (n : LaneId) (alloc : BitVec 14) : State × Option Nat :=
  let q := quadOf n.val
  let heads := (s.allocQueues n alloc).filterMap fun j => (s.queueHead n j).map fun e => (j, e)
  let ready (x : Nat × Queued) : Bool := !s.keyWaits n (framePort n x.1 x.2.frame)
  match heads.find? fun x => decide (0 < x.2.chosen) with
  | some x => (s, if ready x then some x.1 else none)
  | none =>
    match heads.find? fun x => decide (0 < x.2.miss) with
    | some x => (s, some x.1)
    | none => s.pick q false (sliceOf n.val) (16384 * sliceOf n.val + alloc.toNat)
        ((heads.filter ready).map fun x => { j := x.1, len := x.2.frame.bytes.length - x.2.chosen })

/-- The first frame of a queue that is not wholly chosen is gone. -/
def dropHeadFrame : List Queued → List Queued
  | [] => []
  | e :: t => if e.chosen < e.frame.bytes.length then t else e :: dropHeadFrame t

/-- The first frame of a queue that is not wholly chosen has len more bytes chosen. -/
def chooseHead (len : Nat) : List Queued → List Queued
  | [] => []
  | e :: t => if e.chosen < e.frame.bytes.length then { e with chosen := e.chosen + len, miss := 0 } :: t else e :: chooseHead len t

/-- The head frame of queue j goes to the sump with cause 17 and counts on counter c. -/
def State.dropHead (s : State) (n : LaneId) (j c : Nat) (e : Queued) : State :=
  let q := quadOf n.val
  ((s.usCnt n c).toSump q 17 (e.frame.bytes.length - e.chosen)).modTm q false fun t =>
    t.modQueue j fun x => x.withFrames (dropHeadFrame x.frames)

/-- The first frame of a queue that is not wholly chosen is offside with k grants missed. -/
def missHead (k : Nat) : List Queued → List Queued
  | [] => []
  | e :: t => if e.chosen < e.frame.bytes.length then { e with miss := k } :: t else e :: missHead k t

/-- The head of queue j is deferred: k grants missed, counter 14 (R187). -/
def State.defer (s : State) (n : LaneId) (j k : Nat) : State :=
  (s.usCnt n 14).modTm (quadOf n.val) false fun t => t.modQueue j fun x => { x with frames := missHead k x.frames }

/-- len bytes of the head of queue j are chosen for the grant. -/
def State.takePiece (s : State) (n : LaneId) (j len : Nat) (e : Queued) (enc : Bool) : State × Piece :=
  let q := quadOf n.val
  let s' := s.modTm q false fun t => t.modQueue j fun x => { x with frames := chooseHead len x.frames }
  (s'.charge q false (sliceOf n.val) j len (e.chosen == 0),
   .frame j e.chosen len (decide (e.chosen + len = e.frame.bytes.length)) (framePort n j e.frame)
     (if enc then (s.lane n).act.usKeyIdx else 0) (bytesAt e.frame.bytes e.chosen len) none)

/-- The frames of a grant's payload: the state, the pieces in reverse and the space that is left. `full` is the whole payload. The
fuel bounds the frames looked at; each of them is chosen, dropped, or ends the grant. -/
def State.fillFrames (n : LaneId) (alloc : BitVec 14) (nofrag : Bool) (full : Nat) :
    Nat → State → Nat → List Piece → State × List Piece × Nat
  | 0, s, space, ps => (s, ps, space)
  | fuel + 1, s, space, ps =>
    let (s, pick) := s.nextQueue n alloc
    match pick.bind fun j => (s.queueHead n j).map fun e => (j, e) with
    | none => (s, ps, space)
    | some (j, e) =>
      match (s.lane n).ds.portEntry (framePort n j e.frame) with
      | none => State.fillFrames n alloc nofrag full fuel (s.dropHead n j 20 e) space ps
      | some entry =>
        let need := 8 + pad4 (e.frame.bytes.length - e.chosen)
        let waits := s.keyWaits n (framePort n j e.frame)
        if need ≤ space ∧ !waits then
          let (s, p) := s.takePiece n j (e.frame.bytes.length - e.chosen) e (portEnc entry)
          State.fillFrames n alloc nofrag full fuel s (space - need) (p :: ps)
        else if nofrag || e.frame.ptp then
          if e.miss = 0 then (s.defer n j 1, ps, space)
          else if need ≤ full then (s, ps, space)
          else if 16 ≤ e.miss + 1 then State.fillFrames n alloc nofrag full fuel ((s.usCnt n 14).dropHead n j 15 e) space ps
          else (s.defer n j (e.miss + 1), ps, space)
        else if waits then (s, ps, space)
        else if 24 ≤ space then
          let (s, p) := s.takePiece n j (space - 8) e (portEnc entry)
          (s, p :: ps, 0)
        else (s, ps, space)

/-! ### Buffer-occupancy reports (R189) -/

/-- Backlog of a queue's frames: `early` bytes of them are chosen by earlier bursts; in a first report frames queued before the last
release do not count. -/
def backlog (first : Bool) : List Queued → Nat → Nat
  | [], _ => 0
  | e :: t, early =>
    let c := e.chosen - e.sent
    let mine := c - min c early
    let rem := e.frame.bytes.length - e.sent - mine
    let v :=
      if rem = 0 ∨ (first ∧ e.old) then 0
      else if e.sent = 0 ∧ mine = 0 then 8 + pad4 e.frame.bytes.length
      else rem + 8
    v + backlog first t (early - min c early)

/-- BufOcc of an allocation after the frames of a burst's pieces have been chosen. -/
def State.bufOcc (s : State) (n : LaneId) (alloc : BitVec 14) (mine : Burst) : BitVec 24 :=
  let first := !(s.lane n).pump.reported.contains alloc
  let bytes := ((s.allocQueues n alloc).map fun j =>
    let fs := ((s.tm (quadOf n.val) false).queue j).frames
    backlog first fs ((fs.map fun e => e.chosen - e.sent).sum - mine.heldOf j)).sum
  BitVec.ofNat 24 (min ((bytes + 3) / 4) 0xFFFFFE)

/-- Frames listed in the lane's queues: a bound for the frames that one grant looks at. -/
def State.frameBound (s : State) (n : LaneId) (alloc : BitVec 14) : Nat :=
  ((s.allocQueues n alloc).map fun j => ((s.tm (quadOf n.val) false).queue j).frames.length).sum + 1

/-- NOFRAG of an allocation. -/
def Pump.nofrag (p : Pump) (alloc : BitVec 14) : Bool :=
  p.filter.any fun e => match e with | some e => e.alloc == alloc && e.nofrag | none => false

/-- One grant of burst b is filled; `data` says that it may carry data frames. -/
def State.fillGrant (s : State) (n : LaneId) (data : Bool) (b : Burst) (g : Grant) : State × Burst :=
  let full := 4 * g.size - (if g.dbru then 4 else 0)
  let (s, ps, space) :=
    if data then State.fillFrames n g.alloc ((s.lane n).pump.nofrag g.alloc) full (s.frameBound n g.alloc) s full []
    else (s, [], full)
  let pieces := ps.reverse ++ (if space = 0 then [] else [.idle space])
  let b := { b with filled := b.filled ++ [{ alloc := g.alloc, bufOcc := none, pieces := pieces }] }
  if g.dbru then
    let occ := s.bufOcc n g.alloc b
    (s.modPump n fun p => { p with reported := if p.reported.contains g.alloc then p.reported else g.alloc :: p.reported },
     { b with filled := modLast (fun f => { f with bufOcc := some occ, first := !(s.lane n).pump.reported.contains g.alloc }) b.filled })
  else (s, b)

/-- The grants of burst b are filled, in their order. -/
def State.fillBurst (n : LaneId) (data : Bool) : List Grant → State → Burst → State × Burst
  | [], s, b => (s, b)
  | g :: t, s, b =>
    let (s, b) := s.fillGrant n data b g
    State.fillBurst n data t s b

end Sys2Proof.Machine
end

