-- ==== Sys2Proof/Machine/Bond.lean ====
section
/-!
DEFINITION. The bond-control exchange of the line lanes of a wavelength bond group (R201 to R205, R209). A message acts when it is at the
head of what the lane has delivered; the MIC is checked with the lane's PLOAM_IK.
-/
namespace Sys2Proof.Machine

/-! ### Messages -/

/-- A received message (R201). -/
structure BondMsg where
  type : Byte
  token : W32
  pos : Byte
  txn : Byte
  body : List Byte
deriving DecidableEq, Repr

/-- The message that 48 bytes carry, where VER, TYPE and MIC are right: only a head end's TYPEs are known (R202). -/
def parseBond (key bytes : List Byte) : Option BondMsg :=
  let t := byteAt bytes 1
  if bytes.length = 48 ∧ byteAt bytes 0 = 1 ∧ (t = 2 ∨ t = 4 ∨ t = 5 ∨ t = 6) ∧
      bondMic key (bytes.take 40) = bytes.drop 40 then
    some { type := t, token := BitVec.ofNat 32 (beAt bytes 4 4), pos := byteAt bytes 8, txn := byteAt bytes 9, body := bytesAt bytes 12 28 }
  else none

/-- The steward of lane n takes the message at the head where it is of the type; k acts on it. -/
def State.onBond (s : State) (n : LaneId) (type : Byte) (k : State → BondMsg → State) : State :=
  match (s.lane n).ds.bondQ with
  | [] => s
  | b :: rest =>
    if !s.isLine n.val || !s.isOn (dQuad (quadOf n.val)) then s
    else
      match parseBond (s.tcKey n 0) b with
      | some m => if m.type = type then k (s.modDs n fun d => { d with bondQ := rest }) m else s
      | none => s

/-- BOND_MESSAGE_DROP: the message at the head is none that the steward knows (R202). -/
def execBondMessageDrop (n : LaneId) (s : State) : Res :=
  .next (
    match (s.lane n).ds.bondQ with
    | [] => s
    | b :: rest =>
      if !s.isLine n.val || !s.isOn (dQuad (quadOf n.val)) || (parseBond (s.tcKey n 0) b).isSome then s
      else
        let s := s.modDs n fun d => { d with bondQ := rest }
        match s.groupOf n.val with
        | some g => s.grpCnt g 7
        | none => s)

/-! ### The member state machine (R203) -/

/-- The lane that holds position pos of group g. -/
def State.posHolder (s : State) (g : Nat) (pos : Nat) : Option LaneId :=
  (s.memberLanes g).find? fun n => (s.lane n).bond.pos == some (BitVec.ofNat 6 pos) && decide (pos < 64)

/-- RESULT of a JOIN at a lane in PROBE (R202). -/
def State.joinResult (s : State) (n : LaneId) (m : BondMsg) : Byte :=
  match s.groupOf n.val with
  | none => 1
  | some g =>
    let t := (s.group g).token
    if t ≠ 0 ∧ t ≠ m.token then 2
    else if 47 < m.pos.toNat ∨ (s.posHolder g m.pos.toNat).isSome then 3
    else 0

/-- BOND_JOIN (R203). A lane of no enabled group answers with RESULT 1 (R202). -/
def execBondJoin (n : LaneId) (s : State) : Res :=
  .next (s.onBond n 2 fun s m =>
    let r := s.joinResult n m
    let ack (s : State) : State := s.sendBond n 3 m.token (if r = 0 then some (m.pos.setWidth 6) else none) (some m.txn) [r]
    match s.groupOf n.val with
    | none => ack s
    | some g =>
      if s.mstate n ≠ .probe then s
      else if r ≠ 0 then (ack s).modBond n fun b => { b with caps := 0 }
      else
        let s := s.modGroup g fun x => { x with token := m.token, joinSkew := some (x.joinSkew.getD (byteAt m.body 1).toNat) }
        let s := s.modBond n fun b => { b with pos := some (m.pos.setWidth 6), bypass := !bit (byteAt m.body 2) 0, caps := 0 }
        ack (s.setMember n .joined))

/-- A member enters UP: it joins release at the first slot after the last released one; where none was released, the slot of the
present frame is the first (R206, R208). -/
def State.memberUp (s : State) (n : LaneId) (g : Nat) : State :=
  let first := (s.lane n).ds.sfc - 1
  let s := s.modGroup g fun x => { x with lastReleased := some (x.lastReleased.getD first) }
  (s.modBond n fun b => { b with rejoin := true, calmRun := 0 }).setMember n .up

/-- BOND_HELLO (R203). -/
def execBondHello (n : LaneId) (s : State) : Res :=
  .next (s.onBond n 4 fun s _ =>
    match s.groupOf n.val with
    | none => s
    | some g =>
      if s.mstate n = .joined ∨ (s.mstate n = .lost ∧ (s.lane n).act.state = .o51 ∧ s.inSync n) then s.memberUp n g else s)

/-- BOND_LEAVE (R203). -/
def execBondLeave (n : LaneId) (s : State) : Res :=
  .next (s.onBond n 5 fun s _ =>
    if s.mstate n = .idle ∨ (s.groupOf n.val).isNone then s
    else ((s.freePos n).modBond n fun b => { b with caps := 0 }).setMember n .probe)

/-- BOND_INDEP (R203). -/
def execBondIndep (n : LaneId) (s : State) : Res :=
  .next (s.onBond n 6 fun s _ => if s.mstate n = .probe then s.setMember n .indep else s)

/-- BOND_CAPS_TIMER: 1 s in PROBE since the last CAPS (R203). -/
def execBondCapsTimer (n : LaneId) (s : State) : Res :=
  .next (
    if s.mstate n ≠ .probe ∨ !s.isOn (dQuad (quadOf n.val)) then s
    else if 5 ≤ (s.lane n).bond.caps then s.setMember n .indep
    else s.sendCaps n)

/-- BOND_HELLO_TX: 100 ms since the last HELLO sent (R203). -/
def execBondHelloTx (n : LaneId) (s : State) : Res :=
  .next (
    let b := (s.lane n).bond
    if (b.state = .joined ∨ b.state = .up ∨ b.state = .skewed) ∧ s.isOn (dQuad (quadOf n.val)) then
      match s.groupOf n.val with
      | some g => s.sendBond n 4 (s.group g).token b.pos none (beBytes 4 b.lag)
      | none => s
    else s)

/-- BOND_HELLO_TIMEOUT: 1 s in JOINED, 300 ms in UP or SKEWED, without HELLO (R203). -/
def execBondHelloTimeout (n : LaneId) (s : State) : Res :=
  .next (
    if !s.isOn (dQuad (quadOf n.val)) then s
    else if s.mstate n = .joined then
      (((s.freePos n).modBond n fun b => { b with caps := 0 }).setMember n .probe).sendCaps n
    else s.memberLost n)

/-- BOND_PROBE_TIMEOUT: 1 s in O5.1 with no KIND 3 port (R203). -/
def execBondProbeTimeout (n : LaneId) (s : State) : Res :=
  .next (
    if s.isLine n.val ∧ (s.groupOf n.val).isSome ∧ s.mstate n = .idle ∧ (s.lane n).act.state = .o51 ∧ !s.bondPort n ∧
        s.isOn (dQuad (quadOf n.val)) then
      s.setMember n .indep
    else s)

/-! ### Effective skew and LAG (R203, R209, R218) -/

/-- Codes of MAX_SKEW as they act (R223). -/
def Group.maxSkew (x : Group) (vcat : Bool) : Nat := min (if vcat then 128 else 16) (max 1 (fld x.w0 4 8).toNat)

/-- BUF items (R223). -/
def Group.offsetMib (x : Group) : Nat := (fld x.w2 0 13).toNat
def Group.region (x : Group) : Nat := (fld x.w2 16 4).toNat
def Group.sizeMib (x : Group) : Nat := (fld x.w3 0 13).toNat
def Group.dsDomain (x : Group) : Nat := (fld x.w0 16 6).toNat

/-- Bytes that a frame of 125 µs of a group takes (R198). -/
def Group.perFrame (x : Group) (vcat : Bool) : Nat := if vcat then x.x * 2349 else popCount x.members * 135432

/-- Frames that three quarters of the buffer hold (R218). -/
def Group.framesFit (x : Group) (vcat : Bool) : Nat :=
  if x.perFrame vcat = 0 then 0 else x.sizeMib * 1048576 * 3 / 4 / x.perFrame vcat - 2

/-- The effective skew of group g, in frames or ms (R203, R218). -/
def State.effSkew (s : State) (g : Nat) : Nat :=
  let x := s.group g
  let vcat := decide (8 ≤ g)
  let m := min (x.maxSkew vcat) (match x.joinSkew with | some j => min 16 (max 1 j) | none => 128)
  if s.cst.degradedMode then min m (if vcat then x.framesFit vcat / 8 else x.framesFit vcat) else m

/-- The group's skew is limited by R218. -/
def State.skewLimited (s : State) (g : Nat) : Bool :=
  let x := s.group g
  let vcat := decide (8 ≤ g)
  x.en && s.cst.degradedMode &&
    decide ((if vcat then x.framesFit vcat / 8 else x.framesFit vcat) <
      min (x.maxSkew vcat) (match x.joinSkew with | some j => min 16 (max 1 j) | none => 128))

/-- 125 µs in units of 2^−32 ns. -/
def frameTime : Int := 125000 * 4294967296

/-- Lane n is in UP or SKEWED. -/
def State.carries (s : State) (n : LaneId) : Bool := s.mstate n == .up || s.mstate n == .skewed

/-- A member's LAG for frame f (R209): its stamp less the earliest among the members in UP and SKEWED. -/
def State.lagOf (s : State) (g : Nat) (f : BitVec 51) (t : Int) : Int :=
  ((s.group g).stamps.filter fun x => x.1 == f && (s.memberLanes g).any fun n => decide (n.val = x.2.1) && s.carries n).foldl
    (fun m x => max m (t - x.2.2)) 0

/-- A group's SKEW: the largest LAG. -/
def State.groupSkew (s : State) (g : Nat) : State :=
  let l := ((s.memberLanes g).filter s.carries).foldl (fun m n => max m (s.lane n).bond.lag) 0
  s.modGroup g fun x => { x with skew := BitVec.ofNat 32 l }

/-- A member in UP or SKEWED is judged by its LAG. -/
def State.judgeLag (s : State) (n : LaneId) (g : Nat) (lag : Int) : State :=
  let eff : Int := (s.effSkew g : Int) * frameTime
  if s.mstate n = .up then
    if eff < lag then (((s.grpCnt g 6).modBond n fun b => { b with calmRun := 0 }).setMember n .skewed).reportFreeSev (laneEv n 7) [3]
    else s
  else if lag ≤ eff - frameTime then
    if (s.lane n).bond.calmRun + 1 < 16 then s.modBond n fun b => { b with calmRun := b.calmRun + 1 }
    else (s.modBond n fun b => { b with calmRun := 0 }).setMember n .up
  else s.modBond n fun b => { b with calmRun := 0 }

/-- Frames whose stamps are kept beside frame f: those within 64 of it on either side, four times the largest skew of 16 frames (R202). -/
def nearFrame (f a : BitVec 51) : Bool := decide ((f - a).toNat ≤ 64) || decide ((a - f).toNat ≤ 64)

/-- BOND_PSYNC_STAMP: the first PSync bit of the lane's present frame is stamped (R206, R209). -/
def execBondPsyncStamp (n : LaneId) (s : State) : Res :=
  .next (
    match s.groupOf n.val with
    | none => s
    | some g =>
      if !s.inSync n then s
      else
        let f := (s.lane n).ds.sfc
        let t : Int := (s.tim.count.toNat : Int)
        let s := s.modBond n fun b => { b with seen := some f }
        let s := s.modGroup g fun x => { x with
          stamps := (f, n.val, t) :: (x.stamps.filter fun y => nearFrame f y.1 && decide (y.2.1 ≠ n.val ∨ y.1 ≠ f)) }
        if s.carries n then
          let lag := s.lagOf g f t
          let s := s.modBond n fun b => { b with lag := (lag / 4294967296).toNat }
          (s.judgeLag n g lag).groupSkew g
        else s.modBond n fun b => { b with lag := 0 })

end Sys2Proof.Machine
end

