-- ==== Sys2Proof/Machine/Skew.lean ====
section
/-!
DEFINITION. The skew-compensation engine for wavelength bond groups and the group registers (R197 to R200, R206 to R208, R212, R221 to
R223).
-/
namespace Sys2Proof.Machine

/-! ### Buffers (R206 to R208) -/

/-- An SDU of the engine goes to the sump of its lane's quadrant (R207). -/
def State.skewDrop (s : State) (u : Sdu) : State := s.toSump (quadOf u.lane) 3 u.bytes.length

/-- Tag a lies after b, modulo 2^51 within half the range. -/
def tagAfter (a b : BitVec 51) : Bool := decide (a ≠ b ∧ (a - b).toNat < 2 ^ 50)

/-- Bytes that member lane n holds in a group's buffer, and the size of a member's part: SIZE_MIB divided by M (R207), three
quarters of it while a device of the cistern is out (R454). -/
def Group.buffered (x : Group) (n : Nat) : Nat := ((x.buffer.filter fun u => u.lane == n).map fun u => u.bytes.length).sum
def State.skewPart (s : State) (g : Nat) : Nat := s.cst.usable ((s.group g).sizeMib * 1048576) / popCount (s.group g).members

/-- The SDU u of member n of group g is written to the buffer, or dropped (R206 to R208). While the cistern is offline every SDU is
dropped (R461), and one that finds the request queue of its class full (R460). -/
def State.skewWrite (s : State) (n : LaneId) (g : Nat) (u : Sdu) : State :=
  let full := decide (s.skewPart g < (s.group g).buffered n.val + u.bytes.length) || !s.cstRoom 0
  let late := match (s.group g).lastReleased with
    | some r => !tagAfter u.tag r
    | none => false
  if s.cst.mode = .offline then (s.grpCnt g 4).skewDrop u
  else if late then (s.grpCnt g (if (s.lane n).bond.rejoin then 3 else 2)).skewDrop u
  else
    let s := s.modBond n fun b => { b with rejoin := false }
    if full then (s.grpCnt g 4).skewDrop u 
    else (s.request 0 true (linesOf u.bytes.length)).modGroup g fun x => { x with buffer := x.buffer ++ [u] }

/-- SKEW_SDU_WRITE: the oldest SDU that lane n has delivered to the engine. A member that is not in UP or SKEWED delivers none to the
buffer. -/
def execSkewSduWrite (n : LaneId) (s : State) : Res :=
  .next (
    match (s.lane n).ds.sduQ with
    | [] => s
    | u :: rest =>
      let s := s.modDs n fun d => { d with sduQ := rest }
      match s.groupOf n.val with
      | none => s.skewDrop u
      | some g => if s.carries n then s.skewWrite n g u else s.skewDrop u)

/-! ### Release (R206, R212, R298) -/

/-- The quadrants that hold a configured member, ascending. -/
def State.groupQuads (s : State) (g : Nat) : List Nat := (List.range 4).filter fun q => (s.memberLanes g).any fun n => n.val / 24 == q

/-- A released SDU goes to the parser of the quadrant that its hash selects. It is parsed with the settings of the lowest eligible
quadrant. -/
def State.releaseSdu (s : State) (g : Nat) (u : Sdu) : State :=
  let s := s.request 0 false (linesOf u.bytes.length)
  let all := s.groupQuads g
  let el := all.filter fun q => !s.isDark q
  match el with
  | [] => s.toSump (all.headD 0) 16 u.bytes.length
  | q0 :: _ =>
    let q := match parseFrame ((vget {} s.quads q0).prsCfg (s.feature 13)) u.bytes with
      | none => q0
      | some h => el.getD ((s.hashIn (s.group g).dsDomain h).toNat % el.length) q0
    s.toParser q { lane := u.lane, down := true, xgemPort := u.port, bytes := u.bytes, stamp := some u.stamp }

/-- The SDUs of slot f in order: members in ascending POS, each member's in the order of arrival. -/
def State.slotSdus (s : State) (g : Nat) (f : BitVec 51) : List Sdu :=
  let here := (s.group g).buffer.filter fun u => u.tag == f
  let byPos := (List.range 48).flatMap fun p => here.filter fun u =>
    (s.memberLanes g).any fun n => decide (n.val = u.lane) && (s.lane n).bond.pos == some (BitVec.ofNat 6 p)
  -- SDUs of members that have released their POS since come last.
  byPos ++ here.filter fun u => !byPos.contains u

/-- Every member in UP has seen the PSync of frame f or of a later one. -/
def State.allSeen (s : State) (g : Nat) (f : BitVec 51) : Bool :=
  (s.memberLanes g).all fun n => s.mstate n != .up ||
    (match (s.lane n).bond.seen with
      | some x => x == f || tagAfter x f
      | none => false)

/-- The time limit of slot f of group g: now less the first arrival of frame f on any member is at least the effective skew (R206). -/
def State.slotLate (s : State) (g : Nat) (f : BitVec 51) : Bool :=
  match (((s.group g).stamps.filter fun y => y.1 == f).map (·.2.2)).min? with
  | none => false
  | some first => decide ((s.effSkew g : Int) * frameTime ≤ (s.tim.count.toNat : Int) - first)

/-- SKEW_SLOT_RELEASE: the slot after the last released one is released: every member in UP has seen the next frame, or the time limit
has passed since the first arrival of its frame (R206). -/
def execSkewSlotRelease (g : GroupId) (s : State) : Res :=
  .next (
    let x := s.group g.val
    match x.lastReleased with
    | none => s
    | some r =>
      let f := r + 1
      let seen := s.allSeen g.val (f + 1) && (s.memberLanes g.val).any fun n => s.mstate n == .up
      if !x.en || 8 ≤ g.val || !(seen || s.slotLate g.val f) then s
      else
        let sdus := s.slotSdus g.val f
        let s := if s.allSeen g.val (f + 1) then s else s.grpCnt g.val 1
        let s := sdus.foldl (fun s u => s.releaseSdu g.val u) s
        ((s.modGroup g.val fun x => { x with lastReleased := some f, buffer := x.buffer.filter fun u => u.tag != f }).grpCnt g.val 0
          sdus.length))

/-! ### Enabling a group (R198, R199) -/

/-- Base and size in MiB of the KIND 3 region with an INDEX. -/
def State.skewRegion (s : State) (index : Nat) : Option Nat :=
  match s.str.common with
  | none => none
  | some c =>
    ((List.range 16).find? fun i => byteAt c.regions (16 * i) == 3 && (byteAt c.regions (16 * i + 1)).toNat == index).map fun i =>
      leAt c.regions (16 * i + 8) 4

/-- Buffers of two groups overlap. -/
def Group.overlaps (a b : Group) : Bool :=
  a.region == b.region && decide (a.offsetMib < b.offsetMib + b.sizeMib ∧ b.offsetMib < a.offsetMib + a.sizeMib)

/-- Need of a group in bytes (R198). -/
def Group.need (x : Group) (vcat : Bool) : Nat :=
  if vcat then x.x * 2349 * (8 * x.maxSkew true + 2) else popCount x.members * (x.maxSkew false + 2) * 135432

/-- The other enabled groups of the same kind. -/
def State.otherGroups (s : State) (g : Nat) : List Group :=
  ((List.range 16).filter fun i => decide (i ≠ g)).map s.group |>.filter Group.en

/-- A member is invalid (R199, cause 4). A wavelength group has 1 to 48 lanes (R197). -/
def State.badMember (s : State) (g : Nat) (x : Group) : Bool :=
  if g < 8 then
    let n := popCount x.members
    n == 0 || decide (48 < n) || (maskLanes x.members).any fun l => !s.isLine l.val ||
      (List.range 8).any fun i => decide (i ≠ g) && (s.group i).en && bit (s.group i).members l.val
  else
    let ms := x.positions.map fun i => (x.seqLane i, x.seqAu i)
    let others := ((List.range 16).filter fun i => decide (8 ≤ i ∧ i ≠ g) && (s.group i).en).flatMap fun i =>
      (s.group i).positions.map fun p => ((s.group i).seqLane p, (s.group i).seqAu p)
    ms.any fun m => decide (96 ≤ m.1) || !s.isSdh m.1 || decide (1 < ms.count m) || others.contains m

/-- Why EN = 1 of a group with these items is refused (R199). -/
def State.refuseGroup (s : State) (g : Nat) (x : Group) : Option (BitVec 3) :=
  let vcat := decide (8 ≤ g)
  let outside := match s.skewRegion x.region with
    | none => true
    | some size => decide (size < x.offsetMib + x.sizeMib)
  if outside || (s.otherGroups g).any x.overlaps then some 2
  else if x.sizeMib < (x.need vcat + 4194303) / 4194304 * 4 then some 3
  else if s.badMember g x then some 4
  else if vcat ∧ (x.positions.length ≠ x.x ∨ x.x = 0) then some 5
  else none

/-- A write is refused (R199, R222). -/
def State.skewRefuse (s : State) (cause : BitVec 3) : State := { s with cst := { s.cst with skwRefused := true, skwCause := cause } }

/-- EN goes from 0 to 1 (R199, R205, R217, R220): a wavelength group's lanes may enter PROBE at once, and a group without a failed
member is FULL at once. -/
def State.groupUp (s : State) (g : Nat) : State :=
  let s := s.modGroup g fun x => { x with
    w0 := setBit x.w0 0 true, gstate := .forming, cnt := Vector.replicate 12 0, token := 0, joinSkew := none, skew := 0
    stamps := [], lastReleased := none, buffer := [], vm := Vector.replicate 64 {}, txAu := [], txB3 := [] }
  if g < 8 then (s.memberLanes g).foldl State.probe s else s.judgeVcat g none

/-- A member of a group that is disabled goes to IDLE, with LEAVE where its lane is in O5.1 (R203). -/
def State.memberLeave (s : State) (n : LaneId) (token : W32) : State :=
  let b := (s.lane n).bond
  let s := if (s.lane n).act.state = .o51 then s.sendBond n 5 token b.pos none [2] else s
  s.modBond n fun b => { b with state := .idle, pos := none, bypass := false }

/-- The traffic that a group's buffer holds, as the lane it came from and its bytes: SDUs, or frames of the members of a VC-4-Xv group. -/
def Group.traffic (x : Group) : List (Nat × Nat) :=
  (x.buffer.map fun u => (u.lane, u.bytes.length)) ++
    x.positions.flatMap fun i => (vget {} x.vm i).buf.map fun f => (x.seqLane i, f.2.length)

/-- EN is cleared: the buffered traffic is discarded and counted (R199, R203, R205, R207, R217). -/
def State.groupDown (s : State) (g : Nat) : State :=
  let x := s.group g
  let s := if g < 8 then (s.memberLanes g).foldl (fun s n => s.memberLeave n x.token) s else s
  let s := x.traffic.foldl (fun s u => s.toSump (quadOf u.1) 3 u.2) s
  (s.grpCnt g 4 x.traffic.length).modGroup g fun x => { x with
    w0 := setBit x.w0 0 false, gstate := .down, buffer := [], stamps := [], lastReleased := none, token := 0, joinSkew := none
    vm := Vector.replicate 64 {}, txAu := [], txB3 := [] }

/-! ### Members in tributary entries (R258) -/

def TribEntry.valid (e : TribEntry) : Bool := bit e.w0 0
def TribEntry.vcat (e : TribEntry) : Bool := bit e.w0 1
def TribEntry.au (e : TribEntry) : Nat := (fld e.w0 2 6).toNat
def TribEntry.grp (e : TribEntry) : Nat := 8 + (fld e.w0 8 4).toNat

/-- The AU-4s of an entry of lane n, as (lane, AU-4 index). -/
def State.tribAus (s : State) (n : Nat) (w : W32) : List (Nat × Nat) :=
  if bit w 1 then
    let x := s.group (8 + (fld w 8 4).toNat)
    x.positions.map fun i => (x.seqLane i, x.seqAu i)
  else [(n, (fld w 2 6).toNat)]

/-- The AU-4s of every valid entry but entry t of lane n. -/
def State.usedAus (s : State) (n : LaneId) (t : Nat) : List (Nat × Nat) :=
  (List.finRange 96).flatMap fun m =>
    if s.isSdh m.val then
      (List.range 64).flatMap fun u =>
        let e : TribEntry := vget {} (s.lane m).sdh.trib u
        if e.valid && !(m == n && u == t) then s.tribAus m.val e.w0 else []
    else []

/-- A valid KIND 1 entry of group g on lane m: the group's position 0 is not on its lane, or an AU-4 of the group belongs to another
valid entry (R258). -/
def State.memberClash (s : State) (g : Nat) (m : LaneId) : Bool :=
  (List.finRange 64).any fun t =>
    let e := (s.lane m).sdh.trib[t.val]
    e.valid && e.vcat && e.grp == g &&
      (!((s.group g).seqValid 0 && (s.group g).seqLane 0 == m.val) ||
        (let used := s.usedAus m t.val
         (s.tribAus m.val e.w0).any fun a => used.contains a))

/-- A write of a sequence item that would break R258 for a valid entry is ignored and sets ENTRY_REFUSED on that entry's lane. -/
def State.seqWrite (s : State) (g i : Nat) (w : BitVec 16) : State :=
  let s' := s.modGroup g fun x => { x with seqs := vset x.seqs i w }
  match (List.finRange 96).filter fun m => s.isSdh m.val && s'.memberClash g m with
  | [] => s'
  | ms => ms.foldl (fun s m => s.modSdh m fun x => { x with entryRefused := true }) s

/-! ### Group items (R223) -/

/-- Writable bits of item 0. -/
def groupMask : W32 := 0x7F3F0FF1#32

/-- A write of item 0: EN, MAX_SKEW, DS_DOMAIN and X; while EN = 1 a KIND other than the slot's is refused with MAX_SKEW and X (R199). -/
def State.groupCtl (s : State) (g : Nat) (w : W32) : State :=
  let x := s.group g
  let kind := bit w 1
  let w := rw groupMask w
  if x.en then
    if bit w 0 then
      if kind ≠ decide (8 ≤ g) ∨ fld w 4 8 ≠ fld x.w0 4 8 ∨ fld w 24 7 ≠ fld x.w0 24 7 then s.skewRefuse 1 else s.modGroup g fun x => { x with w0 := w }
    else (s.groupDown g).modGroup g fun x => { x with w0 := w }
  else
    let s := s.modGroup g fun x => { x with w0 := setBit w 0 false }
    if bit w 0 then
      match s.refuseGroup g (s.group g) with
      | some c => s.skewRefuse c
      | none => s.groupUp g
    else s

/-- The feature that a group needs: BOND for slots 0 to 7, VCAT for 8 to 15 (R478). -/
def groupFeature (g : Nat) : Nat := if g < 8 then 6 else 7

/-- A write of a group item. Without its feature a write of EN = 1 is ignored (R478). -/
def State.groupWrite (s : State) (g i : Nat) (w : W32) : State :=
  let en := (s.group g).en
  let put (f : Group → Group) : State := if en then s.skewRefuse 1 else s.modGroup g f
  if i = 0 then (if bit w 0 && !s.feature (groupFeature g) then s else s.groupCtl g w)
  else if i = 2 then put fun x => { x with w2 := rw 0xF1FFF#32 w }
  else if i = 3 then put fun x => { x with w3 := rw 0x1FFF#32 w }
  else if 4 ≤ i ∧ i < 7 ∧ g < 8 then put fun x => { x with members := putFld x.members (32 * (i - 4)) w }
  else if 0x10 ≤ i ∧ i < 0x50 ∧ 8 ≤ g then
    if en then s.skewRefuse 1 else s.seqWrite g (i - 0x10) (fld (rw 0xBF7F#32 w) 0 16)
  else s

/-- Members in UP, or free of failure. -/
def State.upCount (s : State) (g : Nat) : Nat :=
  if g < 8 then ((s.memberLanes g).filter fun n => s.mstate n == .up).length
  else ((s.group g).positions.filter fun i => !s.vcatFailed (s.group g) i).length

/-- AU-AIS of the member at position i. -/
def State.memberAis (s : State) (x : Group) (i : Nat) : Bool :=
  if h : x.seqLane i < 96 then (vget {} s.lanes[x.seqLane i].sdh.au (x.seqAu i)).ais.on else false

/-- H4 of the member at position i can be read: its lane has neither LOS nor LOF, its AU-4 neither AU-AIS nor LOP (R216). -/
def State.memberReads (s : State) (x : Group) (i : Nat) : Bool :=
  if h : x.seqLane i < 96 then
    let l := s.lanes[x.seqLane i]
    let a : Au4 := vget {} l.sdh.au (x.seqAu i)
    s.isSdh (x.seqLane i) && l.com.sigdet && !l.sdh.lof && !a.ais.on && !a.lop.on
  else false

/-- The spread of the members' delays behind the earliest, in frames: the largest of those that are read and in step (R223). -/
def State.vcatSpread (s : State) (x : Group) : Nat :=
  (((x.positions.filter fun i => s.memberReads x i).map fun i => (vget {} x.vm i : VcatMember)).filter fun m => !m.lom).foldl
    (fun d m => max d m.delay.toNat) 0

/-- A read of a group item. -/
def State.groupRead (s : State) (g i : Nat) : W32 :=
  let x := s.group g
  let wave := decide (g < 8)
  if i = 0 then x.w0 ||| atB 1 (!wave)
  else if i = 1 then at' 0 x.gstate.code ||| (if x.en then atN 8 7 (s.upCount g) ||| atN 16 8 (s.effSkew g) else 0)
  else if i = 2 then x.w2
  else if i = 3 then x.w3
  else if 4 ≤ i ∧ i < 7 then if wave then fld x.members (32 * (i - 4)) 32 else 0
  else if i = 8 then if wave then x.skew else BitVec.ofNat 32 (s.vcatSpread x * 125000)
  else if i = 9 then x.token
  else if 0x10 ≤ i ∧ i < 0x50 then
    if wave then
      match (if i < 0x40 then s.posHolder g (i - 0x10) else none) with
      | some n => atN 0 7 n.val ||| atB 7 true
      | none => 0
    else (vget 0 x.seqs (i - 0x10)).setWidth 32
  else if 0x50 ≤ i ∧ i < 0x90 then
    if wave || !x.seqValid (i - 0x50) then 0
    else
      let m : VcatMember := vget {} x.vm (i - 0x50)
      atB 0 m.lom ||| atB 1 m.sqm ||| atB 2 m.loa ||| atB 3 (s.memberAis x (i - 0x50)) ||| at' 8 m.sqRx ||| at' 16 m.delay
  else if 0xC0 ≤ i ∧ i < 0xCC then vget 0 x.cnt (i - 0xC0)
  else if h : 0x100 ≤ i ∧ i < 0x160 then
    let n : LaneId := ⟨i - 0x100, by omega⟩
    let b := (s.lane n).bond
    if wave && bit x.members n.val then at' 0 b.state.code ||| at' 3 (b.pos.getD 0) ||| atN 16 16 (b.lag / 64) else 0
  else 0

/-! ### Registers (R221, R222) -/

def Cistern.grp (c : Cistern) : Nat := (fld c.grpSel 0 4).toNat
def Cistern.grpItem (c : Cistern) : Nat := (fld c.grpSel 8 9).toNat

/-- ITEM steps after an access where AUTO_INC is set. -/
def Cistern.grpStep (c : Cistern) : Cistern :=
  if bit c.grpSel 17 then { c with grpSel := putFld c.grpSel 8 (fld c.grpSel 8 9 + 1#9) } else c

def State.grpDataRead (s : State) : W32 × State := (s.groupRead s.cst.grp s.cst.grpItem, { s with cst := s.cst.grpStep })
def State.grpDataWrite (s : State) (w : W32) : State :=
  let s := s.groupWrite s.cst.grp s.cst.grpItem w
  { s with cst := s.cst.grpStep }

/-- CST_SKW_STATUS. -/
def State.skwStatus (s : State) : W32 :=
  (List.range 16).foldl (fun w g => w ||| atB g (s.group g).en) 0 ||| atB 16 s.cst.skwRefused ||| at' 17 s.cst.skwCause |||
    atB 20 ((List.range 16).any s.skewLimited)

/-- RESTART of CST_SKW_CMD (R203). -/
def State.skwCmd (s : State) (w : W32) : State :=
  if h : (fld w 0 7).toNat < 96 then
    let n : LaneId := ⟨(fld w 0 7).toNat, h⟩
    if bit w 7 ∧ s.mstate n = .indep then (s.setMember n .idle).probe n else s
  else s

/-- Block 4 of the cistern island, by offset from its base. -/
def State.skwRead (s : State) (off : Nat) : W32 × State :=
  if off = 0x8000 then (s.skwStatus, s)
  else if off = 0x8008 then (s.cst.grpSel, s)
  else if off = 0x800C then s.grpDataRead
  else (0, s)

def State.skwWrite (s : State) (off : Nat) (w : W32) : State :=
  if off = 0x8000 then { s with cst := { s.cst with skwRefused := w1cB s.cst.skwRefused w 16 } }
  else if off = 0x8004 then s.skwCmd w
  else if off = 0x8008 then { s with cst := { s.cst with grpSel := rw 0x3FF0F#32 w } }
  else if off = 0x800C then s.grpDataWrite w
  else s

/-- The window stands at item 0 of group g. -/
def State.grpAt0 (s : State) (g : GroupId) : Bool := s.cst.grp == g.val && s.cst.grpItem == 0

/-- GROUP_ENABLE: a write of item 0 of group g with EN = 1 through CST_GRP_DATA. -/
def execGroupEnable (p : Port) (g : GroupId) (w : W32) (s : State) : Res :=
  .next (if s.grpAt0 g ∧ bit w 0 then s.writeIsl p (base 9 + 0x800C) fun s => s.grpDataWrite w else s)

/-- GROUP_DISABLE: a write of item 0 of group g with EN = 0 through CST_GRP_DATA. -/
def execGroupDisable (p : Port) (g : GroupId) (w : W32) (s : State) : Res :=
  .next (if s.grpAt0 g ∧ !bit w 0 then s.writeIsl p (base 9 + 0x800C) fun s => s.grpDataWrite w else s)

/-- GRP_DATA_ACCESS: a read or write of CST_GRP_DATA. -/
def execGrpDataAccess (p : Port) (acc : Option W32) (s : State) : Res :=
  .next (match acc with
    | some w => s.writeIsl p (base 9 + 0x800C) fun s => s.grpDataWrite w
    | none => s.readIsl p (base 9 + 0x800C) State.grpDataRead)

/-- SKW_RESTART: a write of CST_SKW_CMD. -/
def execSkwRestart (p : Port) (w : W32) (s : State) : Res := .next (s.writeIsl p (base 9 + 0x8004) fun s => s.skwCmd w)

end Sys2Proof.Machine
end

