-- ==== Sys2Proof/Machine/Cistern.lean ====
section
/-!
DEFINITION. The cistern controller's commands, modes, line errors and registers (R456 to R469, R591). Requests and their lines stand in
Machine/CstArb.lean.
-/
namespace Sys2Proof.Machine

/-! ### Commands (R461, R464, R468) -/

def State.cstErr (s : State) (e : BitVec 4) : State := s.modCst fun c => { c with err := e }

/-- A command or a scrub pass is running. -/
def Cistern.busy (c : Cistern) : Bool :=
  c.scrubbing || c.mode == .draining || c.mode == .retraining || c.mode == .restoring

/-- The LPM lines that lie on one device: a quarter of the active copies' buckets (R455). -/
def State.redirectLines (s : State) : Nat := (s.lpmBuckets false + s.lpmBuckets true) / 4

/-- RETRAIN or RETIRE in NORMAL: device d drains, and the redirect copy starts. -/
def State.cstDrain (s : State) (d : BitVec 2) (retire : Bool) : State :=
  let s := (s.request 4 false s.redirectLines).request 4 true s.redirectLines
  let s := s.modCst fun c => { c with err := 0, dev := d, retiring := retire, copied := false }
  ((s.cstEnter .draining).loseShadows).powerSettle

/-- RETRAIN. -/
def State.cstRetrain (s : State) (d : BitVec 2) : State :=
  match s.cst.mode with
  | .normal => s.cstDrain d false
  | .degraded => if s.cst.dev ≠ d then s.cstErr 3 else (((s.cstErr 0).request 4 true deviceLines).cstEnter .retraining).powerSettle
  | _ => s.cstErr 1

/-- RETIRE. -/
def State.cstRetire (s : State) (d : BitVec 2) : State := if s.cst.mode = .normal then s.cstDrain d true else s.cstErr 1

/-- SCRUB_NOW. -/
def State.cstScrub (s : State) : State :=
  if s.cst.busy then s.cstErr 1
  else (s.request 4 false (deviceLines * popCount s.cst.inService)).modCst fun c => { c with err := 0, scrubbing := true }

/-- A write of CST_CMD. -/
def State.cstCmd (s : State) (op : Nat) (d : BitVec 2) : State :=
  match op with
  | 1 => s.cstRetrain d
  | 2 => s.cstRetire d
  | 3 => s.cstScrub
  | _ => s.cstErr 2

def execRetrain (p : Port) (d : Fin 4) (s : State) : Res := .next (s.writeIsl p (base 9) fun s => s.cstCmd 1 (BitVec.ofFin d))
def execRetire (p : Port) (d : Fin 4) (s : State) : Res := .next (s.writeIsl p (base 9) fun s => s.cstCmd 2 (BitVec.ofFin d))
def execScrubNow (p : Port) (s : State) : Res := .next (s.writeIsl p (base 9) fun s => s.cstCmd 3 0)

/-! ### Modes (R461 to R463, R591) -/

/-- Event 941 + 2d: device d has failed training. -/
def State.trainFailed (s : State) (d : Nat) : State := s.report (941 + 2 * d) 3

/-- A device that fails holds nothing any more. -/
def State.deviceLost (s : State) (d : Nat) : State := (s.loseLines).loseBuckets d

/-- The buffers of every group are dropped while the cistern is offline. -/
def State.buffersLost (s : State) : State :=
  [0, 1, 2, 3, 4, 5, 6, 7].foldl (fun s g =>
    let b := (s.group g).buffer
    (b.foldl State.skewDrop (s.modGroup g fun x => { x with buffer := [] })).grpCnt g 4 b.length) s

/-- Training ends in TRAINING: the devices that failed, but the one that stays out. -/
def State.trained (s : State) (failed : BitVec 4) : State :=
  let out := s.cst.stayOut
  let bad := (List.range 4).filter fun d => bit failed d && !(out && d == s.cst.dev.toNat)
  let s := bad.foldl (fun s d => (s.trainFailed d).deviceLost d) s
  let ok := [0, 1, 2, 3].foldl (fun (w : BitVec 4) d => setBit w d (!bad.contains d && !(out && d == s.cst.dev.toNat))) 0
  let s := s.modCst fun c => { c with trained := ok, stayOut := false }
  match bad, out with
  | [], false => s.cstEnter .normal
  | [], true => (s.cstEnter .degraded).loseShadows
  | [d], false => ((s.modCst fun c => { c with dev := BitVec.ofNat 2 d }).cstEnter .degraded).loseShadows
  | _, _ => (s.cstEnter .offline).buffersLost

/-- The domains of every device that trains are ON, or have missed power-good (R541, R552). -/
def State.cstUp (s : State) : Bool :=
  (List.range 4).all fun d => s.isOn (dCst d) || bit s.pwr.fault (dCst d) || (s.cst.stayOut && d == s.cst.dev.toNat)

/-- The devices that fail training: those named, and those whose domain is not ON. -/
def State.cstFailed (s : State) (failed : BitVec 4) : BitVec 4 :=
  [0, 1, 2, 3].foldl (fun w d => if s.isOn (dCst d) then w else setBit w d true) failed

/-- CST_TRAIN_DONE: the devices that have failed training. -/
def execCstTrainDone (failed : BitVec 4) (s : State) : Res :=
  .next (
    match s.cst.mode with
    | .training => if s.cstUp then (s.maintServed.trained (s.cstFailed failed)).powerSettle else s
    | .retraining =>
      let d := s.cst.dev.toNat
      let s := s.maintServed
      if !s.isOn (dCst d) then s
      else if bit failed d then ((s.trainFailed d).cstEnter .degraded).powerSettle
      else (((s.modCst fun c => { c with trained := setBit c.trained d true }).request 4 true s.redirectLines).cstEnter .restoring).powerSettle
    | _ => s)

/-- REDIRECT_COPY_DONE. -/
def execRedirectCopyDone (s : State) : Res :=
  .next (if s.cst.mode = .draining then s.maintServed.modCst fun c => { c with copied := true } else s)

/-- Spilled frames and SDUs that the cistern holds. -/
def State.cisternHeld (s : State) : Nat :=
  ((List.range 4).map fun q =>
    ([false, true].map fun down =>
      ((s.tm q down).queues.map fun e => (e.2.frames.filter (·.inCistern)).length).sum).sum).sum +
  ((List.range 8).map fun g => (s.group g).buffer.length).sum

/-- DRAIN_DONE: no live data is left on DEV, or DRAIN_MS has passed; not before the redirect copy has completed (R462). -/
def execDrainDone (timeout : Bool) (s : State) : Res :=
  .next (
    if s.cst.mode ≠ .draining ∨ !s.cst.copied then s
    else
      let before := s.cisternHeld
      let s := if timeout then s.loseLines else s
      let s := s.cstCnt 0x8E (before - s.cisternHeld)
      let s := s.modCst fun c => { c with trained := setBit c.trained c.dev.toNat false }
      let s := if s.cst.retiring then s else s.request 4 true deviceLines
      (s.cstEnter (if s.cst.retiring then .degraded else .retraining)).powerSettle)

/-- RESTORE_DONE. -/
def execRestoreDone (s : State) : Res :=
  .next (if s.cst.mode = .restoring then ((s.maintServed.cstCnt 0x8C).cstEnter .normal).powerSettle else s)

/-! ### Scrub and line errors (R456 to R458, R465) -/

/-- Event 941 + ch for a corrected line: at most once per second. -/
def State.correctedEvent (s : State) (ch : Nat) : State :=
  let due := match vget none s.cst.lastCorr ch with
    | some t => decide (10000000000 ≤ s.now - t)
    | none => true
  if due then (s.modCst fun c => { c with lastCorr := vset c.lastCorr ch (some s.now) }).report (941 + ch) 1 else s

/-- k lines of a channel have been corrected. -/
def State.linesCorrected (s : State) (ch k : Nat) : State :=
  if k = 0 then s else (s.cstCnt (16 * ch + 4) k).correctedEvent ch

/-- SCRUB_PASS: a pass ends, with the lines that it has corrected on each channel. SCRUB_H of 0 stops the patrol. -/
def execScrubPass (corrected : Vector Nat 8) (s : State) : Res :=
  .next (
    if !s.cst.scrubbing ∧ fld s.cst.ctl 8 8 = 0#8 then s
    else
      let s := (List.range 8).foldl (fun s ch => s.linesCorrected ch (vget 0 corrected ch)) s
      let s := if s.cst.scrubbing then s else s.request 4 false (deviceLines * popCount s.cst.inService)
      (s.maintServed.modCst fun c => { c with scrubbing := false }).cstCnt 0x8A)

/-- A spilled frame whose line is uncorrectable goes to the sump: the oldest one of a queue that a free value picks (R457). -/
def State.loseSpilled (s : State) : State :=
  let hit (e : Queued) : Bool := e.inCistern && e.chosen == 0
  let qs := (List.range 4).flatMap fun q => [false, true].flatMap fun down =>
    (s.queueKeys q down).filterMap fun j => if ((s.tm q down).queue j).frames.any hit then some (q, down, j) else none
  match qs[(s.freeBits 16).toNat % max 1 qs.length]? with
  | none => s
  | some (q, down, j) =>
    let fs := ((s.tm q down).queue j).frames
    match fs.find? hit with
    | none => s
    | some e =>
      let len := e.frame.bytes.length
      (s.tookFree.toSump q 15 len).modTm q down fun t =>
        t.modQueue j fun x => (x.count 2 len).withFrames (x.frames.eraseIdx (x.frames.findIdx hit))

/-- An SDU whose line is uncorrectable is dropped: the oldest one of a group that a free value picks. -/
def State.loseSdu (s : State) : State :=
  let gs := (List.range 8).filter fun g => !(s.group g).buffer.isEmpty
  match gs[(s.freeBits 16).toNat % max 1 gs.length]? with
  | none => s
  | some g =>
    match (s.group g).buffer with
    | [] => s
    | u :: rest => ((s.tookFree.modGroup g fun x => { x with buffer := rest }).grpCnt g 4).skewDrop u

/-- An uncorrectable line: recorded, with event 941 + ch and the effect on its user. An LPM lookup ends as a miss at its own command. -/
def State.lineLost (s : State) (ch : Nat) (line : BitVec 24) (user : CstUser) : State :=
  let s := (s.cstCnt (16 * ch + 6)).modCst fun c => { c with errLoc := atN 0 3 ch ||| at' 3 line, uncSeen := true }
  let s := s.report (941 + ch) 3
  match user with
  | .spill => s.loseSpilled
  | .skew => s.loseSdu
  | .lpm => s
  | .scrub => s

/-- CST_LINE_ERROR. A transfer whose retries are exhausted has been retried 3 times. -/
def execCstLineError (ch : Fin 8) (line : BitVec 24) (e : LineError) (user : CstUser) (s : State) : Res :=
  .next (
    match e with
    | .corrected => s.linesCorrected ch.val 1
    | .retried k => s.cstCnt (16 * ch.val + 8) (k.val + 1)
    | .uncorrectable => s.lineLost ch.val line user
    | .retries => ((s.cstCnt (16 * ch.val + 8) 3).cstCnt (16 * ch.val + 10)).lineLost ch.val line user)

/-! ### Registers (R467 to R469) -/

/-- CST_STATUS. -/
def Cistern.status (c : Cistern) : W32 :=
  at' 0 c.mode.code ||| atB 3 c.busy ||| at' 4 c.dev ||| at' 6 c.inService ||| at' 10 c.err ||| atB 14 c.uncSeen

/-- A read of CST_CNT_DATA. -/
def State.cstCntRead (s : State) (p : Port) : W32 × State :=
  let i := s.cst.cntAddr.toNat
  s.readPair p (base 9 + 0x18) (Tab.get 0 s.cst.cnt (i / 2 * 2)) (i % 2 == 1)

/-- CST_CNT_READ. -/
def execCstCntRead (p : Port) (s : State) : Res := .next (s.readIsl p (base 9 + 0x18) fun s => s.cstCntRead p)

/-- Block 0 of the cistern island, by offset from its base. -/
def State.cstRead (s : State) (p : Port) (off : Nat) : W32 × State :=
  match off with
  | 0x04 => (s.cst.status, s)
  | 0x08 => (s.cst.ctl, s)
  | 0x0C => (s.cst.bwW, s)
  | 0x10 => (s.cst.errLoc, s)
  | 0x14 => (s.cst.cntAddr.setWidth 32, s)
  | 0x18 => s.cstCntRead p
  | _ => (0, s)

def State.cstWrite (s : State) (off : Nat) (w : W32) : State :=
  match off with
  | 0x00 => s.cstCmd (fld w 0 3).toNat (fld w 4 2)
  | 0x04 => s.modCst fun c => { c with uncSeen := w1cB c.uncSeen w 14 }
  | 0x08 => s.modCst fun c => { c with ctl := rw 0xFFFF#32 w }
  | 0x0C => s.modCst fun c => { c with bwW := rw 0x7F7F7F7F#32 w }
  | 0x14 => s.modCst fun c => { c with cntAddr := fld w 0 8 }
  | _ => s

end Sys2Proof.Machine
end

