-- ==== Sys2Proof/Machine/Image.lean ====
section
/-!
DEFINITION. A Nesko image as bytes: its fields and sections (R32 to R43), the stages of VERIFY (R45, R589), and its parts by quadrant
(R46, R48). Bytes beyond the end of an image read as 0.
-/
namespace Sys2Proof.Machine

/-! ### The container (R33, R34) -/

def imgCount (b : List Byte) : Nat := leAt b 0x0C 2
def imgKey (b : List Byte) : Nat := (byteAt b 0x0E).toNat
def imgLevel (b : List Byte) : W32 := BitVec.ofNat 32 (leAt b 0x14 4)
def imgSerial (b : List Byte) : W32 := BitVec.ofNat 32 (leAt b 0x18 4)

/-- An entry of the section table. -/
structure ImgEntry where
  type : Nat
  flags : Byte
  scope : Byte
  offset : Nat
  length : Nat
  spare : List Byte
  digest : List Byte
deriving DecidableEq, Repr

/-- Entry i of the section table. -/
def imgEntry (b : List Byte) (i : Nat) : ImgEntry :=
  let e := 64 + 64 * i
  { type := leAt b e 2, flags := byteAt b (e + 2), scope := byteAt b (e + 3), offset := leAt b (e + 4) 4, length := leAt b (e + 8) 4
    spare := bytesAt b (e + 12) 4, digest := bytesAt b (e + 16) 48 }

def imgEntries (b : List Byte) : List ImgEntry := (List.range (imgCount b)).map (imgEntry b)

/-- Offset of the signature block, and the digest that is signed (R35). -/
def imgSig (b : List Byte) : Nat := 64 + 64 * imgCount b
def imgDigest (b : List Byte) : List Byte := sha384 (b.take (imgSig b))

/-- The bytes of a section, and of the first section of a type. -/
def ImgEntry.bytes (e : ImgEntry) (b : List Byte) : List Byte := bytesAt b e.offset e.length
def imgSection (b : List Byte) (t : Nat) : List Byte :=
  match (imgEntries b).find? fun e => e.type == t with
  | some e => e.bytes b
  | none => []

/-- The section is of the opaque range of types. -/
def ImgEntry.isOpaque (e : ImgEntry) : Bool := decide (0x0100 ≤ e.type ∧ e.type ≤ 0x01FF)

/-- Sections follow one another from `at_` on: aligned, in order, without overlap and within the image (R34). -/
def laidOut (len : Nat) : Nat → List ImgEntry → Bool
  | _, [] => true
  | at_, e :: t => e.offset % 64 == 0 && decide (at_ ≤ e.offset ∧ e.offset + e.length ≤ len) && laidOut len (e.offset + e.length) t

/-- Types rise. -/
def typesRise : List ImgEntry → Bool
  | [] => true
  | [_] => true
  | e :: f :: t => decide (e.type ≤ f.type) && typesRise (f :: t)

/-- Stage 4: the container's layout. -/
def imgLayout (b : List Byte) : Bool :=
  let es := imgEntries b
  decide (leAt b 8 4 ≤ 4194304 ∧ leAt b 8 4 = b.length ∧ 6 ≤ imgCount b ∧ imgCount b ≤ 64 ∧ imgKey b ≤ 3) &&
    byteAt b 0x0F == 0 && (es.all fun e => e.spare == zeros 4 && fld e.flags 1 7 == 0 && fld e.scope 5 3 == 0) &&
    typesRise es && laidOut b.length (imgSig b + 128) es && bytesAt b (imgSig b + 96) 32 == zeros 32

/-- Stage 5: the signature, under a valid verification key (R35, R416). -/
def imgSigned (v : Vault) (b : List Byte) : Bool :=
  match v.publicKey (imgKey b) with
  | some k => ecdsaP384 k (imgDigest b) (bytesAt b (imgSig b) 96)
  | none => false

/-! ### Sections (R37 to R43) -/

def imgRoles (b : List Byte) : List Byte := imgSection b 1
def imgSizing (b : List Byte) (q : Nat) : List Byte := bytesAt (imgSection b 2) (32 * q) 32
def imgPartition (b : List Byte) : List Byte := imgSection b 3
def imgCores (b : List Byte) : List Byte := imgSection b 4
def imgRegions (b : List Byte) : List Byte := imgSection b 5
def imgClocks (b : List Byte) : List Byte := imgSection b 6

/-- ROLE, LINK and FEC74 of lane n (R38). -/
def imgRole (b : List Byte) (n : Nat) : Nat := (fld (byteAt (imgRoles b) n) 0 3).toNat
def imgLink (b : List Byte) (n : Nat) : Nat := (fld (byteAt (imgRoles b) n) 3 3).toNat
def imgFec (b : List Byte) (n : Nat) : Bool := bit (byteAt (imgRoles b) n) 6

/-- A field of the sizing record of quadrant q (R39). -/
def imgField (b : List Byte) (q off n : Nat) : Nat := leAt (imgSizing b q) off n
def imgRef (b : List Byte) (q : Nat) : Byte := byteAt (imgSizing b q) 0x0F
def imgTiming (b : List Byte) (q : Nat) : Nat := imgField b q 0x10 1

/-- SCOPE and LENGTH of a documented type (R37). -/
def docShape (t : Nat) : Option (Byte × Nat) :=
  if t = 1 then some (0x0F, 96) else if t = 2 then some (0x0F, 128) else if t = 3 then some (0x10, 16)
  else if t = 4 then some (0x1F, 72) else if t = 5 then some (0x10, 256) else if t = 6 then some (0x1F, 16) else none

/-- Stage 8: every documented type once, and no other type but the opaque ones. -/
def imgTypes (b : List Byte) : Bool :=
  let es := imgEntries b
  (es.all fun e => (docShape e.type).isSome || e.isOpaque) &&
    [1, 2, 3, 4, 5, 6].all fun t => (es.filter fun e => e.type == t).length == 1

/-- A region record: KIND, INDEX, BASE_MIB, SIZE_MIB and its reserved bytes (R42). -/
def imgRegion (b : List Byte) (i : Nat) : Nat × Nat × Nat × Nat :=
  let r := bytesAt (imgRegions b) (16 * i) 16
  (leAt r 0 1, leAt r 1 1, leAt r 4 4, leAt r 8 4)

/-- A region record is well formed: reserved bytes 0, KIND at most 5, an unused record all 0. -/
def regionFormat (b : List Byte) (i : Nat) : Bool :=
  let r := bytesAt (imgRegions b) (16 * i) 16
  bytesAt r 2 2 == zeros 2 && bytesAt r 12 4 == zeros 4 && decide (leAt r 0 1 ≤ 5) && (leAt r 0 1 != 0 || r == zeros 16)

/-- Stage 9: the format of the sections. -/
def imgFormat (b : List Byte) : Bool :=
  ((imgEntries b).all fun e =>
    match docShape e.type with
    | some (scope, len) => e.scope == scope && e.length == len && !bit e.flags 0
    | none => bit e.flags 0 && e.scope != 0) &&
  ((List.range 4).all fun q => fld (imgRef b q) 2 6 == 0 && bytesAt (imgSizing b q) 0x11 15 == zeros 15) &&
  bytesAt (imgPartition b) 12 4 == zeros 4 && (List.range 16).all (regionFormat b) && bytesAt (imgClocks b) 9 7 == zeros 7

/-! ### Constraints (R45, stages 10 and 11) -/

/-- The lanes of quadrant q. -/
def quadRange (q : Nat) : List Nat := (List.range 24).map (24 * q + ·)

/-- A lane's role byte is one that R38 allows. -/
def roleByteOk (b : List Byte) (n : Nat) : Bool :=
  let r := imgRole b n
  decide (r ≤ 4) && (r == 4 || imgLink b n == 0) && decide (imgLink b n ≤ 5) && (!imgFec b n || r == 2 || r == 4) &&
    !bit (byteAt (imgRoles b) n) 7

/-- The lanes of host-bond link l. -/
def linkRange (b : List Byte) (l : Nat) : List Nat := (List.range 96).filter fun n => imgRole b n == 4 && imgLink b n == l

/-- A link has at most 16 lanes, all in one quadrant. -/
def linkOk (b : List Byte) (l : Nat) : Bool :=
  let ls := linkRange b l
  decide (ls.length ≤ 16) && (ls.all fun n => n / 24 == ls.headD 0 / 24)

/-- The roles of quadrant q agree with its REF, its TIMING_LANE and the cores that serve it. -/
def quadRoles (b : List Byte) (q : Nat) : Bool :=
  let rs := (quadRange q).map (imgRole b)
  let client := rs.any fun r => r == 2 || r == 4
  let sdh := rs.contains 3
  let t := imgTiming b q
  !(client && sdh) && !(client && bit (imgRef b q) 0) && (!sdh || bit (imgRef b q) 0) &&
    (!bit (imgRef b q) 1 || rs.all fun r => r == 0 || r == 1 || r == 4) &&
    (!sdh || (decide (t < 96) && imgRole b t == 1)) && decide (t < 96 ∨ t = 0xFF) &&
    (rs.all (· == 0) || (imgCores b).any fun c => c.toNat == q)

/-- Stage 10. -/
def imgRolesOk (b : List Byte) : Bool :=
  (List.range 96).all (roleByteOk b) && (imgCores b).all (fun c => decide (c.toNat ≤ 3)) &&
    decide (((List.range 96).filter fun n => imgRole b n == 1).length ≤ 48) && (List.range 6).all (linkOk b) &&
    (List.range 4).all (quadRoles b)

/-- The total of a sizing field over the quadrants. -/
def imgTotal (b : List Byte) (off : Nat) : Nat := ((List.range 4).map fun q => imgField b q off 2).sum

/-- The line lanes of quadrant q. -/
def imgLines (b : List Byte) (q : Nat) : Nat := ((quadRange q).filter fun n => imgRole b n == 1).length

/-- Sizes within the totals and ranges (R39, R45). -/
def imgSizes (b : List Byte) : Bool :=
  decide (imgTotal b 0 ≤ 4096 ∧ imgTotal b 2 ≤ 4096 ∧ imgTotal b 4 ≤ 4096 ∧ imgTotal b 6 ≤ 4096 ∧ imgTotal b 8 ≤ 16384 ∧
    imgTotal b 10 ≤ 1024 ∧ imgTotal b 12 ≤ 8192) &&
  (List.range 4).all fun q =>
    decide (imgField b q 10 2 ≤ 32 * imgLines b q ∧ imgField b q 12 2 ≤ 256 * imgLines b q ∧
      1 ≤ imgField b q 14 1 ∧ imgField b q 14 1 ≤ 15)

/-- The table partition (R40). -/
def imgPartOk (b : List Byte) : Bool :=
  let w (i : Nat) := leAt (imgPartition b) (4 * i) 4
  decide (w 0 % 8192 = 0 ∧ 8192 ≤ w 0 ∧ w 0 ≤ 122880 ∧ w 1 % 4096 = 0 ∧ w 1 ≤ 524288 ∧ w 2 % 1024 = 0 ∧ w 2 ≤ 131072)

/-- MiB of the region of a KIND with INDEX 0. -/
def imgRegionMib (b : List Byte) (kind : Nat) : Nat :=
  match (List.range 16).find? fun i => (imgRegion b i).1 == kind && (imgRegion b i).2.1 == 0 with
  | some i => (imgRegion b i).2.2.2
  | none => 0

/-- Two used region records neither overlap nor share KIND and INDEX. -/
def regionsApart (x y : Nat × Nat × Nat × Nat) : Bool :=
  x.1 == 0 || y.1 == 0 ||
    (!(x.1 == y.1 && x.2.1 == y.2.1) &&
      decide (x.2.2.1 + x.2.2.2 ≤ y.2.2.1 ∨ y.2.2.1 + y.2.2.2 ≤ x.2.2.1 ∨ x.2.2.2 = 0 ∨ y.2.2.2 = 0))

/-- The cistern's regions (R42), and the LPM regions (R318). -/
def imgRegionsOk (b : List Byte) : Bool :=
  let rs := (List.range 16).map (imgRegion b)
  let mib (p : Nat → Bool) : Nat := ((rs.filter fun r => p r.1).map fun r => r.2.2.2).sum
  (rs.all fun r => decide (r.2.2.2 % 4 = 0 ∧ r.2.2.1 + r.2.2.2 ≤ 8192)) &&
    decide (mib (fun k => k != 0) ≤ 8192 ∧ mib (fun k => k == 3) ≤ 4096) &&
    ((List.range 16).all fun i => (List.range 16).all fun j => i == j || regionsApart (imgRegion b i) (imgRegion b j)) &&
    decide (64 * leAt (imgPartition b) 4 4 ≤ imgRegionMib b 4 * 2 ^ 20 ∧ 128 * leAt (imgPartition b) 8 4 ≤ imgRegionMib b 5 * 2 ^ 20)

/-- Stage 11. -/
def imgLimits (b : List Byte) : Bool :=
  imgSizes b && imgPartOk b && imgRegionsOk b && (List.range 9).all fun i => decide ((byteAt (imgClocks b) i).toNat ≤ 3)

/-! ### VERIFY (R589) -/

/-- The code of the first stage that an image fails; none where it passes. -/
def judgeImage (v : Vault) (b : List Byte) : Option Byte :=
  if bytesAt b 0 4 ≠ [0x4E#8, 0x53#8, 0x4B#8, 0x4F#8] then some 0x01
  else if leAt b 6 2 ≠ 1 then some 0x02
  else if leAt b 0x10 2 ≠ 0x9648 ∨ leAt b 0x12 2 / 2 % 2 = 0 then some 0x03
  else if !imgLayout b then some 0x04
  else if !imgSigned v b then some 0x05
  else if (imgEntries b).any fun e => sha384 (e.bytes b) != e.digest then some 0x06
  else if (imgLevel b).toNat < v.floor.toNat then some 0x07
  else if !imgTypes b then some 0x12
  else if !imgFormat b then some 0x04
  else if !imgRolesOk b then some 0x08
  else if !imgLimits b then some 0x09
  else none

/-! ### Parts (R46, R48) -/

/-- Digests of the opaque sections whose SCOPE has bit i. -/
def imgOpaques (b : List Byte) (i : Nat) : List (List Byte) :=
  ((imgEntries b).filter fun e => e.isOpaque && bit e.scope i).map (·.digest)

/-- The parts of quadrant q, but for its set of cores. -/
def imgQuad (b : List Byte) (q : Nat) : RunQuad :=
  { roles := bytesAt (imgRoles b) (24 * q) 24, sizing := imgSizing b q, clkQuad := byteAt (imgClocks b) q
    clkCores := byteAt (imgClocks b) (4 + q), opaques := imgOpaques b q }

/-- The die-common parts. -/
def imgCommon (b : List Byte) : RunCommon :=
  { partition := imgPartition b, regions := imgRegions b, clkTables := byteAt (imgClocks b) 8, opaques := imgOpaques b 4 }

/-- The core-assignment bytes. -/
def imgCoreVec (b : List Byte) : Vector Byte 72 := Vector.ofFn fun k : Fin 72 => byteAt (imgCores b) k.val

/-- The same core numbers carry the value q in both. -/
def sameCores (x y : Vector Byte 72) (q : Nat) : Bool :=
  (List.range 72).all fun k => ((vget 0#8 x k).toNat == q) == ((vget 0#8 y k).toNat == q)

end Sys2Proof.Machine
end

