-- ==== Sys2Proof/Machine/Keys.lean ====
section
/-!
DEFINITION. The key island's commands, derivations and registers (R390 to R404, R408, R415 to R423).
-/
namespace Sys2Proof.Machine

/-! ### Helpers -/

def State.modKey (s : State) (f : KeyIsland → KeyIsland) : State := { s with key := f s.key }
def State.modVault (s : State) (f : Vault → Vault) : State := { s with vault := f s.vault }
def State.modSlot (s : State) (i : Nat) (f : RootSlot → RootSlot) : State := s.modVault fun v => { v with slots := vmod v.slots i f }
def State.modCopy (s : State) (i : Nat) (f : RootCopy → RootCopy) : State := s.modKey fun k => { k with copies := vmod k.copies i f }

/-- The first n words of KEY_DATA as bytes: byte 0 in [7:0] of KEY_DATA[0] (R393). -/
def KeyIsland.dataBytes (k : KeyIsland) (n : Nat) : List Byte := (k.data.toList.take n).flatMap fun w => leBytes 4 w.toNat

/-- A command ends: KEY_DATA is set to 0, and BUSY clears; e = 0 is a success, which leaves the ERR of a command refused meanwhile
(R395, R421). -/
def State.keyEnd (s : State) (e : BitVec 4) : State := s.modKey fun k => { k with busy := none, err := if e = 0 then k.err else e, data := Vector.replicate 16 0 }

/-- A command is refused with ERR e before it starts; KEY_DATA is set to 0 (R395). -/
def State.keyRefuse (s : State) (e : BitVec 4) : State := s.keyEnd e

/-- A command is accepted. -/
def State.keyStart (s : State) (o : KeyOp) : State := s.modKey fun k => { k with busy := some o, err := 0 }

/-- A vault write fails: event 1003 (R414). -/
def State.vaultFail (s : State) : State := s.report 1003 3

/-- The detail of event 1004: slot and GEN (R418). -/
def State.slotEvent (s : State) (i : Nat) : State := s.report 1004 1 (BitVec.ofNat 8 i :: leBytes 4 (s.slot i).gen.toNat)

/-! ### Imports (R393 to R395, R403) -/

/-- IMPORT_CLEAR. -/
def State.importClear (s : State) (c : KeyCmdWord) : State :=
  if s.zeroised then s.keyRefuse 10
  else if !s.vault.provOpen then s.keyRefuse 4
  else s.keyStart (.importSlot c.slot c.side c.purposes (s.key.dataBytes 8))

/-- The AAD of a wrapped key for generation gen (R394). -/
def wrapAad (c : KeyCmdWord) (gen : W32) : List Byte :=
  [1#8, c.slot.setWidth 8, (c.purposes ++ (if c.side then 1#1 else 0#1) : BitVec 6).setWidth 8, 0#8] ++ beBytes 4 gen.toNat

/-- IMPORT_WRAPPED: the blob is 12 bytes of IV, 32 of ciphertext and 16 of tag. -/
def State.importWrapped (s : State) (c : KeyCmdWord) : State :=
  if s.zeroised then s.keyRefuse 10
  else
    let gen := (s.slot c.slot.toNat).gen + 1
    match s.deriveKey (s.keyName c.wrapSlot.toNat 4 false (c.slot.setWidth 32) gen 0 true) with
    | none => s.keyRefuse 6
    | some key =>
      let b := s.key.dataBytes 15
      let s := s.keyCnt 0 1
      match gcmOpen key (b.take 12) (wrapAad c gen) (bytesAt b 12 32) (bytesAt b 44 16) with
      | none => s.keyRefuse 5
      | some k => s.keyStart (.importSlot c.slot c.side c.purposes k)

/-- A job that has not returned, or a derivation that it waits for, uses generation gen of slot i (R403). -/
def State.genInUse (s : State) (i : Nat) (gen : W32) : Bool :=
  let p (n : KeyName) : Bool := n.slot.toNat == i && n.gen == gen
  (s.quads.toList.any fun x => x.cph.rob.any fun j => !j.bad && p j.name && j.fin.isNone) ||
    s.fbk.la.any fun j => (match j.name with | some n => p n | none => false) && j.status.isNone

/-- The old generation of slot i is wiped: its root copy and every cache entry (R403). -/
def State.wipeOld (s : State) (i : Nat) : State :=
  let g := (s.copy i).oldGen
  let p (n : KeyName) : Bool := n.slot.toNat == i && n.gen == g
  (s.modCopy i fun c => { c with oldKey := none }).modKey fun k => { k with
    cache := k.cache.filter fun e => !p e.name
    demand := k.demand.filter fun n => !p n
    prefetch := k.prefetch.filter fun n => !p n }

/-- OLD_GEN_WIPE: the last job of an old generation has returned. -/
def execOldGenWipe (slot : Fin 16) (s : State) : Res :=
  .next (
    let c := s.copy slot.val
    if c.oldKey.isSome ∧ !s.genInUse slot.val c.oldGen then s.wipeOld slot.val else s)

/-- An import's vault write completes: the new generation applies, and the old one is kept while its jobs last. -/
def State.importTake (s : State) (i : Nat) (side : Bool) (purposes : BitVec 5) (key : List Byte) : State :=
  let old := s.slot i
  let s := s.modSlot i fun x => { state := .loaded, side := side, purposes := purposes, gen := x.gen + 1, key := key }
  let s := s.modCopy i fun c =>
    { key := some key, gen := old.gen + 1, oldKey := if old.state = .loaded then c.key else none, oldGen := c.gen }
  let s := if s.genInUse i (s.copy i).oldGen then s else s.wipeOld i
  s.slotEvent i

/-- IMPORT_DONE: it waits while an old generation of the slot is kept (R403). -/
def execImportDone (ok : Bool) (s : State) : Res :=
  .next (
    match s.key.busy with
    | some (.importSlot i side purposes key) =>
      if (s.copy i.toNat).oldKey.isSome then s
      else if ok then (s.importTake i.toNat side purposes key).keyEnd 0
      else s.vaultFail.keyEnd 7
    | _ => s)

/-! ### Erase (R404, R405) -/

/-- t = 0 of an erase of slot i. -/
def State.eraseSlot (s : State) (i : Nat) : State :=
  let s := s.modSlot i fun x => { x with state := .erasing }
  let s := s.modCopy i fun c => { c with key := none, oldKey := none }
  s.abandon fun n => n.slot.toNat == i

/-- ERASE. -/
def State.eraseCmd (s : State) (c : KeyCmdWord) : State := (s.keyStart (.erase c.slot)).eraseSlot c.slot.toNat

/-- A vault slot has been overwritten with zeros. -/
def State.slotErased (s : State) (i : Nat) : State :=
  if (s.slot i).state = .erasing then (s.modSlot i fun x => { gen := x.gen }).slotEvent i else s

/-- ERASE_DONE: every slot that is being erased is overwritten. -/
def execEraseDone (ok : Bool) (s : State) : Res :=
  .next (
    let erasing := (List.range 16).any fun i => (s.slot i).state == .erasing
    let isErase := match s.key.busy with | some (.erase _) => true | _ => false
    if !erasing && !isErase then s
    else
      let s := if ok then (List.range 16).foldl State.slotErased s else s.vaultFail
      if isErase then s.keyEnd (if ok then 0 else 7) else if ok then s else s.modKey fun k => { k with err := 7 })

/-! ### Verification keys (R416) -/

/-- The public value of verification key v. -/
def State.vkey (s : State) (v : Nat) : Option (List Byte) := if v = 0 then some Config.plifovanKey else vget none s.vault.vk (v - 1)

/-- A verification-key record: all rules of R416. -/
def State.vkValid (s : State) (r : List Byte) : Bool :=
  let i := (byteAt r 4).toNat
  let signer := (byteAt r 5).toNat
  let op := (byteAt r 6).toNat
  r.length == 256 && r.take 4 == [0x56#8, 0x4B#8, 0x45#8, 0x59#8] && decide (1 ≤ i ∧ i ≤ 3) && (signer == 0 || signer == i) &&
    (op == 1 || op == 2) && byteAt r 7 == 0 && decide ((vget 0 s.vault.vkSerial (i - 1)).toNat < beAt r 8 4) &&
    bytesAt r 12 52 == zeros 52 && (op == 1 || bytesAt r 64 96 == zeros 96) &&
    (match s.vkey signer with
      | some pub => ecdsaP384 pub (sha384 (r.take 160)) (bytesAt r 160 96)
      | none => false)

/-- An accepted record. -/
def State.vkTake (s : State) (r : List Byte) : State :=
  let i := (byteAt r 4).toNat - 1
  s.modVault fun v => { v with
    vk := vset v.vk i (if byteAt r 6 = 1 then some (bytesAt r 64 96) else none)
    vkSerial := vset v.vkSerial i (BitVec.ofNat 32 (beAt r 8 4)) }

/-! ### MSKs (R417) -/

/-- Lane v of a command, where it is a line lane. -/
def State.lineLane (s : State) (v : BitVec 7) : Option LaneId :=
  if h : v.toNat < 96 then (if s.isLine v.toNat then some ⟨v.toNat, h⟩ else none) else none

/-- MSK_SET and MSK_CLEAR. -/
def State.mskSet (s : State) (c : KeyCmdWord) : State :=
  if s.zeroised then s.keyRefuse 10
  else if (s.lineLane c.lane).isNone then s.keyRefuse 3
  else s.keyStart (.mskSet c.lane (s.key.dataBytes 4))
def State.mskClear (s : State) (c : KeyCmdWord) : State :=
  if (s.lineLane c.lane).isNone then s.keyRefuse 3 else s.keyStart (.mskClear c.lane)

/-- The MSK of a lane changes. The lane derives its keys from a new one at once, and from the default derivation where one is removed after
it had derived keys (R154, R417). -/
def State.mskPut (s : State) (lane : BitVec 7) (key : Option (List Byte)) : State :=
  let s := s.modKey fun k => { k with msk := match key with
    | some b => Tab.ins k.msk lane.toNat b
    | none => Tab.del k.msk lane.toNat }
  match s.lineLane lane with
  | some n => if key.isSome || (Tab.find s.key.tcSk n.val).isSome then s.deriveTc n else s
  | none => s

/-! ### Prefetch (R402) -/

/-- The names of every VALID context: associations, tributary entries at the epochs they use, lookaside entries. -/
def State.allNames (s : State) : List KeyName :=
  let ass := s.key.assoc.filterMap fun e =>
    if e.2.valid then
      some (s.keyName (fld (vget 0 e.2.w 7) 0 4).toNat 1 e.2.egress (vget 0 e.2.w 8) (vget 0 e.2.w 9) (vget 0 e.2.w 10) e.2.bits256)
    else none
  let trib := s.key.trib.filterMap fun e =>
    if e.2.valid then
      some (s.keyName (fld e.2.w0 2 4).toNat 2 e.2.open_ e.2.ctxId e.2.epoch (vget 0 e.2.w 2) true)
    else none
  let la := s.key.la.flatMap fun e =>
    let w : LaKey := e.2
    if bit (vget 0 w 0) 0 then
      [false, true].map fun k => s.keyName (fld (vget 0 w 0) 2 4).toNat 3 (bit (vget 0 w 0) 1) (vget 0 w 1) (vget 0 w 2) (vget 0 w 3) k
    else []
  ass ++ trib ++ la

/-- PREFETCH: what is neither cached nor waiting, and may be derived, waits behind all demand misses. -/
def State.prefetchAll (s : State) : State :=
  let add (l : List KeyName) (n : KeyName) : List KeyName :=
    if l.contains n || s.key.demand.contains n || (s.key.cache.any fun e => e.name == n) || !s.keyAvailable n then l else l ++ [n]
  s.modKey fun k => { k with prefetch := s.allNames.foldl add k.prefetch }

/-! ### Monotonic counters (R415) -/

/-- MONO_INCR names a host counter. -/
def State.monoIncr (s : State) (c : KeyCmdWord) : State :=
  if c.slot.toNat < 4 ∨ 7 < c.slot.toNat then s.keyRefuse 9
  else if vget 0 s.vault.mono (c.slot.toNat - 4) = BitVec.allOnes 32 then
    (s.report 1005 2 [c.slot.setWidth 8]).keyRefuse 9
  else s.keyStart (.monoIncr c.slot)

/-- A counter as KEY_MONO_DATA shows it. -/
def Vault.monoRead (v : Vault) (i : Nat) : W32 :=
  if i = 0 then v.floor
  else if i = 1 then v.sealStart.setWidth 32
  else if i = 2 then v.powerCycles
  else if i = 3 then v.operatingS
  else vget 0 v.mono (i - 4)

/-! ### KEY_CMD (R420, R421) -/

/-- TAMPER_CLEAR: a cause is still present, or not (R408). -/
def State.tamperClear (s : State) (present : Bool) : State := if present then s.keyRefuse 3 else s.keyStart .tamperClear

/-- Command op with its fields; `present` tells TAMPER_CLEAR of a cause that is still present. -/
def State.keyCmd (s : State) (op : Nat) (c : KeyCmdWord) (present : Bool) : State :=
  if s.key.busy.isSome then s.modKey fun k => { k with err := 2 }
  else
    match op with
    | 1 => s.importClear c
    | 2 => s.importWrapped c
    | 3 => s.eraseCmd c
    | 4 => s.keyStart .closeProv
    | 5 => s.keyStart .vkInstall
    | 6 => s.mskSet c
    | 7 => s.mskClear c
    | 8 => (s.keyStart .prefetch).prefetchAll
    | 9 => s.tamperClear present
    | 10 => s.monoIncr c
    | _ => s.keyRefuse 1

/-- The fields of a written KEY_CMD. -/
def keyCmdWord (w : W32) : KeyCmdWord :=
  { slot := fld w 4 4, wrapSlot := fld w 8 4, lane := fld w 12 7, side := bit w 19, purposes := fld w 20 5 }

/-- KEY_CMD as written: whether a tamper cause is still present is an input that the write does not carry, a free bit. -/
def State.keyCmdWrite (s : State) (w : W32) : State :=
  let present := bit (s.freeBits 1) 0
  s.tookFree.keyCmd (fld w 0 4).toNat (keyCmdWord w) present

/-- A command of the table is a write of KEY_CMD. -/
def State.keyCmdAt (s : State) (p : Port) (op : Nat) (c : KeyCmdWord) (present : Bool := false) : State :=
  s.writeIsl p (base 7) fun s => s.keyCmd op c present

def noFields : KeyCmdWord := { slot := 0, wrapSlot := 0, lane := 0, side := false, purposes := 0 }

def execImportClear (p : Port) (c : KeyCmdWord) (s : State) : Res := .next (s.keyCmdAt p 1 c)
def execImportWrapped (p : Port) (c : KeyCmdWord) (s : State) : Res := .next (s.keyCmdAt p 2 c)
def execErase (p : Port) (c : KeyCmdWord) (s : State) : Res := .next (s.keyCmdAt p 3 c)
def execCloseProv (p : Port) (s : State) : Res := .next (s.keyCmdAt p 4 noFields)
def execVkInstall (p : Port) (s : State) : Res := .next (s.keyCmdAt p 5 noFields)
def execMskSet (p : Port) (c : KeyCmdWord) (s : State) : Res := .next (s.keyCmdAt p 6 c)
def execMskClear (p : Port) (c : KeyCmdWord) (s : State) : Res := .next (s.keyCmdAt p 7 c)
def execPrefetch (p : Port) (s : State) : Res := .next (s.keyCmdAt p 8 noFields)
def execTamperClear (p : Port) (present : Bool) (s : State) : Res := .next (s.keyCmdAt p 9 noFields present)
def execMonoIncr (p : Port) (c : KeyCmdWord) (s : State) : Res := .next (s.keyCmdAt p 10 c)

/-- A vault write of a command ends: its effect, or ERR 7 with event 1003. -/
def State.keyWritten (s : State) (ok : Bool) (f : Vault → Vault) : State :=
  if ok then (s.modVault f).keyEnd 0 else s.vaultFail.keyEnd 7

/-- KEY_CMD_DONE: a command other than an import or an erase completes; `bytes` is the record that VK_INSTALL has read from the host. -/
def execKeyCmdDone (bytes : List Byte) (ok : Bool) (s : State) : Res :=
  .next (
    match s.key.busy with
    | some .closeProv => s.keyWritten ok fun v => { v with provOpen := false }
    | some .vkInstall =>
      if !s.vkValid bytes then s.keyEnd 8 else if ok then (s.vkTake bytes).keyEnd 0 else s.vaultFail.keyEnd 7
    | some (.mskSet lane key) => (s.mskPut lane (some key)).keyEnd 0
    | some (.mskClear lane) => (s.mskPut lane none).keyEnd 0
    | some .prefetch => s.keyEnd 0
    | some .tamperClear =>
      if ok then ((s.modVault fun v => { v with tamperLatched := false, tamperCauses := 0 }).keyEnd 0).endCond 1001
      else s.vaultFail.keyEnd 7
    | some (.monoIncr c) => s.keyWritten ok fun v => { v with mono := vmod v.mono (c.toNat - 4) (· + 1) }
    | _ => s)

/-! ### Derivations (R398 to R402) -/

/-- A job of port q waits for the key of a name. -/
def Job.awaits (j : Job) (n : KeyName) : Bool := j.name == n && j.key.isNone && j.fin.isNone

/-- The key reaches every job that waits for it; a core takes a copy (R360). -/
def State.keyArrives (s : State) (e : CacheEntry) : State :=
  let cores (q : Nat) : List Nat :=
    (((vget {} s.quads q).cph.rob.filter fun j => j.awaits e.name && !j.onFallback).map Job.core).eraseDups
  let s := (List.range 4).foldl (fun s q => (cores q).foldl (fun s k => s.loadCopy q k e) s) s
  let give (j : Job) : Job := if j.awaits e.name then { j with key := some e.key } else j
  let giveLa (j : LaJob) : LaJob := if j.name = some e.name ∧ j.key.isNone ∧ j.status.isNone then { j with key := some e.key } else j
  { s with
    quads := s.quads.map fun x => { x with cph := { x.cph with rob := x.cph.rob.map give } }
    fbk := { s.fbk with la := s.fbk.la.map giveLa } }

/-- A derivation leaves the queue. -/
def KeyIsland.derived (k : KeyIsland) (n : KeyName) : KeyIsland :=
  { k with demand := k.demand.filter (· != n), prefetch := k.prefetch.filter (· != n) }

/-- KEY_DERIVE: the oldest derivation that waits completes; demand misses come first. It stays where every cache entry is pinned. -/
def execKeyDerive (s : State) : Res :=
  .next (
    match s.key.demand ++ s.key.prefetch with
    | [] => s
    | n :: _ =>
      match s.rootOf n with
      | none => s.modKey fun k => k.derived n
      | some root =>
        let e : CacheEntry := { name := n, key := kdf root n }
        match s.cacheEnter e with
        | (_, false) => s
        | (s, true) => ((s.modKey fun k => k.derived n).keyCnt 0 1).keyArrives e)

/-- A MACsec or tributary job of port q, at place i, gets "key not available" (R401). -/
def State.noKeyJob (s : State) (q i : Nat) : State :=
  ((s.modQuadN q fun x => { x with cph := { x.cph with rob := x.cph.rob.modify i fun j => { j with fin := some .noKey } } }).keyCnt 3 1).release q

/-- The first job of a reorder buffer that waits for a key at a unit. -/
def waiting (k : Option Nat) (l : List Job) : Option Nat :=
  l.findIdx? fun j => j.fin.isNone && j.key.isNone &&
    (match k with | some c => j.core == c && !j.onFallback | none => j.onFallback)

/-- KEY_REQUEST_TIMEOUT: the oldest request of a unit has waited 50 µs. -/
def execKeyRequestTimeout (u : CipherUnit) (s : State) : Res :=
  .next (
    let k := match u with | .core k => some k.val | .fallback => none
    match (List.range 4).findSome? fun q => (waiting k (vget {} s.quads q).cph.rob).map fun i => (q, i) with
    | some (q, i) => s.noKeyJob q i
    | none =>
      match u, s.fbk.la.findIdx? fun j => j.key.isNone && j.status.isNone with
      | .fallback, some i =>
        ({ s with fbk := { s.fbk with la := s.fbk.la.modify i fun j => { j with status := some 3 } } } : State).keyCnt 3 1
      | _, _ => s)

/-! ### Registers (R419 to R423) -/

/-- KEY_STATUS. -/
def State.keyStatus (s : State) : W32 :=
  atB 0 s.key.ready ||| atB 1 s.key.busy.isSome ||| atB 2 s.vault.provOpen ||| atB 3 s.zeroised ||| atB 4 s.key.trngFail |||
    at' 8 s.key.err ||| (List.range 16).foldl (fun w i => w ||| atB (16 + i) ((s.slot i).state == .loaded)) 0

/-- KEY_ZCFG as written: LOCK freezes bits [4:0] until the next reset (R422). -/
def zcfgWrite (cur w : W32) : W32 :=
  if bit cur 13 then (rw 0x1F00#32 w) ||| (cur &&& 0x201F#32) else rw 0x3F1F#32 w

/-- KEY_TAMPER_STATUS. -/
def State.tamperStatus (s : State) : W32 := atB 0 s.vault.tamperLatched ||| at' 1 s.vault.tamperCauses ||| atB 6 s.key.zeroNLow

/-- KEY_RNG: 32 new bits of the master generator (R412); 0 while READY is 0. -/
def State.keyRng (s : State) : W32 × State :=
  if s.key.ready then s.drawWord else (0, s)

/-- KEY_SLOT_INFO and KEY_CACHE_STATUS. -/
def State.slotInfo (s : State) : W32 :=
  let x := s.slot s.key.slotSel.toNat
  at' 0 x.state.code ||| atB 2 x.side ||| at' 3 x.purposes ||| atB 8 (s.copy s.key.slotSel.toNat).oldKey.isSome
def State.cacheStatus (s : State) : W32 :=
  atN 0 15 s.key.cache.length ||| atN 16 15 (s.key.cache.filter fun e => s.pinned e.name).length

/-- KEY_VK_STATUS and KEY_VK_DATA. -/
def State.vkStatus (s : State) : W32 := (List.range 4).foldl (fun w v => w ||| atB v (s.vkey v).isSome) 0
def State.vkData (s : State) : W32 :=
  let w := (fld s.key.vkSel 8 5).toNat
  if 24 ≤ w then 0 else BitVec.ofNat 32 (leAt ((s.vkey (fld s.key.vkSel 0 2).toNat).getD []) (4 * w) 4)

/-- KEY_CNT_DATA. -/
def State.keyCntRead (s : State) (p : Port) : W32 × State :=
  s.readPair p (base 7 + 0x3C) (vget 0 s.key.cnt (s.key.cntAddr.toNat / 2)) (s.key.cntAddr.toNat % 2 == 1)

/-- Blocks 0 and 1 of the key island, by offset from its base. -/
def State.keyRead (s : State) (p : Port) (off : Nat) : W32 × State :=
  let k := s.key
  match off with
  | 0x04 => (s.keyStatus, s)
  | 0x08 => (k.zcfg, s)
  | 0x0C => (s.tamperStatus, s)
  | 0x10 => s.keyRng
  | 0x14 => (s.cacheStatus, s)
  | 0x18 => (k.slotSel.setWidth 32, s)
  | 0x1C => (s.slotInfo, s)
  | 0x20 => ((s.slot k.slotSel.toNat).gen, s)
  | 0x24 => (k.monoSel.setWidth 32, s)
  | 0x28 => (s.vault.monoRead k.monoSel.toNat, s)
  | 0x2C => (s.vkStatus, s)
  | 0x30 => (fld k.hostAddr 0 32, s)
  | 0x34 => (fld k.hostAddr 32 32, s)
  | 0x38 => (k.cntAddr.setWidth 32, s)
  | 0x3C => s.keyCntRead p
  | 0x80 => (k.vkSel, s)
  | 0x84 => (s.vkData, s)
  | _ => (0, s)

def State.keyWrite (s : State) (off : Nat) (w : W32) : State :=
  match off with
  | 0x00 => s.keyCmdWrite w
  | 0x08 => s.modKey fun k => { k with zcfg := zcfgWrite k.zcfg w }
  | 0x18 => s.modKey fun k => { k with slotSel := fld w 0 4 }
  | 0x24 => s.modKey fun k => { k with monoSel := fld w 0 3 }
  | 0x30 => s.modKey fun k => { k with hostAddr := putFld k.hostAddr 0 (rw 0xFFFFFFC0#32 w) }
  | 0x34 => s.modKey fun k => { k with hostAddr := putFld k.hostAddr 32 w }
  | 0x38 => s.modKey fun k => { k with cntAddr := fld w 0 4 }
  | 0x80 => s.modKey fun k => { k with vkSel := rw 0x1F03#32 w }
  | _ => if 0x40 ≤ off ∧ off < 0x80 then s.modKey fun k => { k with data := vset k.data ((off - 0x40) / 4) w } else s

/-- KEY_RNG_READ and KEY_CNT_READ. -/
def execKeyRngRead (p : Port) (s : State) : Res := .next (s.readIsl p (base 7 + 0x10) State.keyRng)
def execKeyCntRead (p : Port) (s : State) : Res := .next (s.readIsl p (base 7 + 0x3C) fun s => s.keyCntRead p)

end Sys2Proof.Machine
end

