-- ==== Sys2Proof/Machine/Stm.lean ====
section
/-!
DEFINITION. The STM-64 frame of R249 in bytes: 9 rows of 17,280 bytes, the frame-synchronous scrambler, the parities B1, B2 and B3, the AU-4
pointers, and the VC-4s with their path overhead (R249, R252, R257, R265, R266). Where in the frame G.707 puts a byte that the spec
names stands here once, PRESUMED (notes/assumptions/101.md).
-/
namespace Sys2Proof.Machine

/-! ### The frame (R249) -/

/-- Bytes of a row, of its section overhead, and of a frame. -/
def stmRow : Nat := 17280
def stmSoh : Nat := 576
def stmLen : Nat := 155520

/-- The framing pattern: the last three A1 bytes and the first three A2 bytes. -/
def framingPattern : BitVec 48 := 0xF6F6F6282828#48

/-- The bits of a byte, most significant first, and back. -/
def byteBits (b : Byte) : List Bool := (List.range 8).map fun i => bit b (7 - i)
def bitsByte (l : List Bool) : Byte := l.foldl (fun b x => (b <<< 1) ||| (if x then 1 else 0)) 0

/-- k bytes of the scrambler's sequence x^7 + x^6 + 1, which starts from all ones after the first row of section overhead (R249). -/
def scrambleMask (k : Nat) : List Byte :=
  (List.range k).foldl (fun (x : List Byte × BitVec 31) _ =>
    let bits := prbsBits 0 8 x.2
    (bitsByte bits :: x.1, (List.range 8).foldl (fun r _ => prbsPush r (prbsNext 0 r)) x.2)) ([], 127#31) |>.1.reverse

/-- A frame scrambled, or descrambled: its first row of section overhead stays as it is. -/
def scrambleStm (f : List Byte) : List Byte :=
  f.take stmSoh ++ List.zipWith (fun a b => a ^^^ b) (f.drop stmSoh) (scrambleMask (stmLen - stmSoh))

/-- Bit-interleaved parity over k columns of bytes: column i is the parity of bytes i, i + k, … -/
def bipCols (k : Nat) (f : List Byte) : List Byte :=
  let a := f.toArray
  (List.range k).map fun i => (List.range (a.size / k)).foldl (fun x r => x ^^^ a.getD (k * r + i) 0) 0

/-- BIP-8. -/
def bip8 (f : List Byte) : Byte := f.foldl (fun a b => a ^^^ b) 0

/-- A frame without the section overhead of its first three rows, over which B2 is not computed. -/
def withoutRsoh (f : List Byte) : List Byte :=
  ((List.range 3).flatMap fun r => bytesAt f (stmRow * r + stmSoh) (stmRow - stmSoh)) ++ f.drop (3 * stmRow)

/-- Bits in which two parities differ. -/
def parityErrors (a b : List Byte) : Nat := (List.zipWith (fun x y => popCount (x ^^^ y)) a b).sum

/-! ### Pointers (R252) -/

/-- Bits I and D of the ten pointer bits. -/
def ptrI : BitVec 10 := 0x2AA#10
def ptrD : BitVec 10 := 0x155#10

/-- H1 and H2: new-data flag, SS = 10, and the pointer with its I bits inverted at a positive and its D bits at a negative
justification. -/
def ptrWord (ptr : BitVec 10) (ndf : Bool) (just : Int) : BitVec 16 :=
  let p := if just < 0 then ptr ^^^ ptrI else if just > 0 then ptr ^^^ ptrD else ptr
  (if ndf then 0x9800#16 else 0x6800#16) ||| p.setWidth 16

/-- The pointer after a justification of so many bytes: 3 read in H3, or −3 stuffed after it. -/
def stepPtr (p : BitVec 10) (just : Int) : BitVec 10 :=
  if just = 0 then p
  else if just > 0 then (if p = 0 then 782 else p - 1) else (if p = 782 then 0 else p + 1)

/-- What H1 and H2 say to the pointer interpreter of G.783 whose active pointer is p. -/
inductive PtrInd where
  | allOnes
  /-- The active pointer, without a new-data flag. -/
  | norm
  /-- New-data flag with a pointer in range. -/
  | newData (p : BitVec 10)
  /-- The I, or the D bits, of the active pointer inverted by majority. -/
  | incr
  | decr
  /-- Another pointer in range, without a new-data flag. -/
  | other (p : BitVec 10)
  | invalid
deriving DecidableEq, Repr

/-- The new-data flag is enabled (1001), or disabled (0110), with at most one bit wrong. -/
def ndfOn (h : BitVec 16) : Bool := decide (popCount (fld h 12 4 ^^^ 9#4) ≤ 1)
def ndfOff (h : BitVec 16) : Bool := decide (popCount (fld h 12 4 ^^^ 6#4) ≤ 1)

/-- H1 and H2 read against the active pointer; a concatenation indication, whose pointer is out of range, is invalid (R252). `may` says that
a justification may come: none has come, and no new-data flag, in the three frames before. -/
def readPtr (active : BitVec 10) (may : Bool) (h : BitVec 16) : PtrInd :=
  let p := fld h 0 10
  let inv := p ^^^ active
  let i := popCount (inv &&& ptrI)
  let d := popCount (inv &&& ptrD)
  let range := decide (p.toNat ≤ 782)
  if h = 0xFFFF#16 then .allOnes
  else if ndfOn h && range then .newData p
  else if !ndfOff h then .invalid
  else if p = active then .norm
  else if may && decide (3 ≤ i ∧ d < 3) then .incr
  else if may && decide (3 ≤ d ∧ i < 3) then .decr
  else if range then .other p
  else .invalid

/-! ### Received frames (R249, R252) -/

/-- One AU-4 of a received frame: H1 and H2, the H3 bytes, and its payload bytes row by row. -/
structure AuRx where
  h : BitVec 16
  h3 : List Byte
  rows : List Byte
deriving DecidableEq, Repr

/-- A received frame, descrambled: whether the framing pattern is right, J0, K2 bits 6 to 8, the received B1 and B2, M1, and the AU-4s in the
order of G.707. -/
structure SdhFrame where
  ok : Bool
  j0 : Byte
  k2 : BitVec 3
  b1 : Byte
  b2 : List Byte
  m1 : Byte
  aus : Vector AuRx 64
deriving DecidableEq, Repr

/-- The framing pattern stands where it is expected. -/
def patternOk (f : List Byte) : Bool := BitVec.ofNat 48 (beAt f 189 6) == framingPattern

/-- Payload bytes of AU-4 a in the rows given. -/
def auRows (f : Array Byte) (a : Nat) (rows : List Nat) : List Byte :=
  rows.flatMap fun r => (List.range 261).map fun j => f.getD (stmRow * r + stmSoh + 64 * j + a) 0

/-- A frame read from its bytes as they were received. -/
def readStm (bytes : List Byte) : SdhFrame :=
  let l := scrambleStm bytes
  let f := l.toArray
  let cell (r c : Nat) : Byte := f.getD (stmRow * r + c) 0
  { ok := patternOk bytes, j0 := cell 0 384, k2 := fld (cell 4 384) 0 3, b1 := cell 1 0, b2 := bytesAt l (4 * stmRow) 192, m1 := cell 8 322,
    aus := Vector.ofFn fun a : Fin 64 =>
      { h := cell 3 a.val ++ cell 3 (192 + a.val),
        h3 := [cell 3 (384 + a.val), cell 3 (448 + a.val), cell 3 (512 + a.val)],
        rows := auRows f a.val (List.range 9) } }

/-- The bytes of a VC-4 in a frame, each with whether it is J1: rows 1 to 3 under the pointer of the frame before, then, under this frame's
pointer after its justification, what H3 holds and rows 4 to 9. -/
def auBytes (u : AuRx) (before ptr : BitVec 10) (just : Int) : List (Byte × Bool) :=
  let rows (p : BitVec 10) (first : Nat) (b : List Byte) : List (Byte × Bool) :=
    b.zipIdx.map fun x => (x.1, decide (x.2 = 3 * (p.toNat - first) ∧ first ≤ p.toNat))
  let a := rows before 522 (u.rows.take 783)
  let late := u.rows.drop 783
  let b := rows ptr 0 late
  let h3 := if just > 0 then u.h3.zipIdx.map fun x => (x.1, decide (before = 0 ∧ x.2 = 0)) else []
  a ++ h3 ++ (if just < 0 then b.drop 3 else b)

/-- A walk along a VC-4: the offset of the next byte since J1 and the parity so far, the parity of the VC-4 frame before, and what was
read. -/
structure VcWalk where
  off : Option Nat := none
  run : Byte := 0
  prev : Option Byte := none
  j1 : List Byte := []
  g1 : List Byte := []
  b3 : Nat := 0
deriving DecidableEq, Repr

/-- One byte of a VC-4 (R252, R267): J1 at offset 0, B3 at 261, G1 at 783. -/
def VcWalk.byte (w : VcWalk) (x : Byte × Bool) : VcWalk :=
  let w := if x.2 then { w with off := some 0, run := 0, prev := if w.off = some 2349 then some w.run else none } else w
  match w.off with
  | none => w
  | some o =>
    let w := { w with off := some (o + 1), run := w.run ^^^ x.1 }
    if o = 0 then { w with j1 := w.j1 ++ [x.1] }
    else if o = 261 then { w with b3 := w.b3 + match w.prev with | some p => popCount (p ^^^ x.1) | none => 0 }
    else if o = 783 then { w with g1 := w.g1 ++ [x.1] }
    else w

/-! ### Transmitted frames (R257, R265, R266) -/

/-- An AU-4 as it stands in a frame: H1, the two bytes Y, H2, the two bytes after it, H3, and the payload rows. -/
structure AuWire where
  h1 : Byte
  y : Byte
  h2 : Byte
  one : Byte
  h3 : List Byte
  rows : List Byte
deriving DecidableEq, Repr

/-- An AU-4 laid out; `carry` are the bytes that the frame before left for rows 1 to 3. An AU-4 that nothing drives has pointer 0 and an
all-zero VC-4 (R257); AU-AIS is all ones. -/
def AuTx.wire (carry : List Byte) : AuTx → AuWire
  | .unequipped => { h1 := 0x68, y := 0x9B, h2 := 0, one := 0xFF, h3 := zeros 3, rows := zeros 2349 }
  | .ais => { h1 := 0xFF, y := 0xFF, h2 := 0xFF, one := 0xFF, h3 := List.replicate 3 0xFF, rows := List.replicate 2349 0xFF }
  | .vc4 ptr ndf just b =>
    let h := ptrWord ptr ndf just
    let late := if just > 0 then b.drop 3 else if just < 0 then zeros 3 ++ b else b
    { h1 := fld h 8 8, y := 0x9B, h2 := fld h 0 8, one := 0xFF, h3 := if just > 0 then b.take 3 else zeros 3,
      rows := padTo 783 carry ++ padTo 1566 late }

/-- What a frame leaves for rows 1 to 3 of the next: the bytes after those of rows 4 to 9. -/
def AuTx.carry : AuTx → List Byte
  | .vc4 _ _ just b => b.drop (if just > 0 then 1569 else if just < 0 then 1563 else 1566)
  | _ => []

/-- What a port sends in a frame: J0, S1, K2, M1, B1, B2 and the AU-4s. -/
structure StmTx where
  j0 : Byte
  s1 : Byte
  k2 : Byte
  m1 : Byte
  b1 : Byte
  b2 : List Byte
  aus : List AuWire
deriving DecidableEq, Repr

/-- A frame before scrambling (R249, R257): every overhead byte that is not named is 0. -/
def StmTx.bytes (t : StmTx) : List Byte :=
  let soh : List (List Byte) := [
    List.replicate 192 0xF6 ++ List.replicate 192 0x28 ++ [t.j0],
    [t.b1],
    [],
    t.aus.map (·.h1) ++ t.aus.map (·.y) ++ t.aus.map (·.y) ++ t.aus.map (·.h2) ++ t.aus.map (·.one) ++ t.aus.map (·.one) ++
      (List.range 3).flatMap fun i => t.aus.map fun a => byteAt a.h3 i,
    padTo 192 t.b2 ++ zeros 192 ++ [t.k2],
    [], [], [],
    [t.s1] ++ zeros 321 ++ [t.m1]]
  let rows := t.aus.map fun a => a.rows.toArray
  soh.zipIdx.flatMap fun x =>
    padTo stmSoh x.1 ++ (List.range 261).flatMap fun j => rows.map fun a => a.getD (261 * x.2 + j) 0

/-! ### A member's VC-4 (R266) -/

/-- The offset in the VC-4 of the first byte after H3 with a pointer, which is also that of the byte that H3 holds. -/
def vcOffset (ptr : BitVec 10) : Nat := (2349 - 3 * ptr.toNat) % 2349

/-- Path overhead bytes among len bytes of a VC-4 from an offset on. -/
def pohIn (off len : Nat) : Nat := (off + len + 260) / 261 - (off + 260) / 261

/-- Path overhead as a member sends it: TX_C2, G1, and J1 by the frame's place in the trace. -/
structure PohTx where
  c2 : Byte
  g1 : Byte
  j1 : Nat → Byte

/-- H4 of the frame with an MFI: MFI1 in bits 5 to 8, and in bits 1 to 4 MFI2 and SQ by their halves (R215). -/
def h4Byte (mfi : BitVec 12) (sq : Nat) : Byte :=
  let m := fld mfi 0 4
  let hi : BitVec 4 :=
    if m = 0 then fld mfi 8 4 else if m = 1 then fld mfi 4 4
    else if m = 14 then BitVec.ofNat 4 (sq / 16) else if m = 15 then BitVec.ofNat 4 sq else 0
  hi ++ m

/-- A member's VC-4 as it is built: MFI and parity of its present frame, the parity of the frame before, payload that waits, and the bytes
built, last first. -/
structure VcBuild where
  mfi : BitVec 12
  run : Byte
  prev : Byte
  payload : List Byte
  out : List Byte := []

/-- The byte at offset o. -/
def VcBuild.byte (p : PohTx) (sq : Nat) (w : VcBuild) (o : Nat) : VcBuild :=
  let w := if o = 0 then { w with mfi := w.mfi + 1, prev := w.run, run := 0 } else w
  let (b, rest) :=
    if o % 261 ≠ 0 then (w.payload.headD 0, w.payload.drop 1)
    else (match o / 261 with
      | 0 => p.j1 (w.mfi.toNat % 16)
      | 1 => w.prev
      | 2 => p.c2
      | 3 => p.g1
      | 5 => h4Byte w.mfi sq
      | _ => 0, w.payload)
  { w with run := w.run ^^^ b, payload := rest, out := b :: w.out }

/-- len bytes of a member's VC-4 from offset off on. -/
def buildVc (p : PohTx) (sq : Nat) (off len : Nat) (w : VcBuild) : VcBuild :=
  (List.range len).foldl (fun w i => w.byte p sq ((off + i) % 2349)) w

end Sys2Proof.Machine
end

