-- ==== Sys2Proof/Machine/Sdh.lean ====
section
/-!
DEFINITION. SDH client ports: framer, section and path defects, traces and performance bins (R249 to R258, R267, R268).
-/
namespace Sys2Proof.Machine

/-- Counter c of R274 rises by k. -/
def State.sdhCnt (s : State) (n : LaneId) (c : Nat) (k : Nat := 1) : State :=
  s.modSdh n fun x => { x with cnt := vmod x.cnt c (· + BitVec.ofNat 64 k) }

/-- Lane n is an SDH lane with its receive direction ON. -/
def State.sdhOn (s : State) (n : LaneId) : Bool := s.isSdh n.val && s.isOn (dRx n.val)

/-! ### The framer (R250, R251) -/

/-- SDH_CANDIDATE: the 48 bits received at a position. Without lock or signal the framer stays in HUNT; with 8 candidates open a further
one is discarded and counted, in a count that no register shows. -/
def execSdhCandidate (n : LaneId) (pos : Nat) (pattern : BitVec 48) (s : State) : Res :=
  .next (
    let l := s.lane n
    if pattern = framingPattern ∧ s.sdhOn n ∧ l.com.sigdet ∧ l.com.cdrLock ∧ l.sdh.frm ≠ .inFrame then
      if l.sdh.cands.length < 8 then s.modSdh n fun x => { x with frm := .presync, cands := x.cands ++ [pos] }
      else s.modSdh n fun x => { x with candLost := x.candLost + 1 }
    else s)

/-- SDH_CHECK_POINT: the 48 bits received at the check point of the candidate at pos; the pattern is errored where any of them differs
(R249). -/
def execSdhCheckPoint (n : LaneId) (pos : Nat) (pattern : BitVec 48) (s : State) : Res :=
  .next (
    let x := (s.lane n).sdh
    if s.sdhOn n && x.frm == .presync && x.cands.contains pos then
      if pattern = framingPattern then (s.modSdh n fun x => { x with frm := .inFrame, cands := [], misses := 0 }).judgeLock n
      else
        s.modSdh n fun x =>
          let rest := x.cands.filter fun c => c != pos
          { x with cands := rest, frm := if rest.isEmpty then .hunt else .presync }
    else s)

/-- SDH_HUNT_RESTART. -/
def State.sdhRestart (s : State) (n : LaneId) : State := if s.sdhOn n then s.sdhHunt n else s
def execSdhHuntRestart (p : Port) (n : LaneId) (s : State) : Res :=
  .next (if s.isSdh n.val then s.writeLane p n 0x2000 .common fun s => s.sdhRestart n else s)

/-- SDH_LOF_TIMER: OOF, or IN_FRAME, has lasted 3 ms. The timers stop in LOS. -/
def execSdhLofTimer (n : LaneId) (s : State) : Res :=
  .next (
    let l := s.lane n
    if !s.sdhOn n || !l.com.sigdet then s
    else if l.sdh.frm ≠ .inFrame ∧ !l.sdh.lof then
      let s := ((s.modSdh n fun x => { x with lof := true }).sdhCnt n 2).report (laneEv n 1) 2
      ((s.pathsAfresh n).pmDefect n).judgeVcats n
    else if l.sdh.frm = .inFrame ∧ l.sdh.lof then
      ((s.modSdh n fun x => { x with lof := false }).judgeLock n).judgeVcats n
    else s)

/-! ### Defects (R252, R253) -/

/-- One frame's judgement: `on` changes after `entry` frames in a row that show it, or `exit` that do not. -/
def Defect.judge (d : Defect) (hit : Bool) (entry exit : Nat) : Defect :=
  if hit = d.on then { d with run := 0 }
  else if d.run + 1 < (if d.on then exit else entry) then { d with run := d.run + 1 }
  else { on := !d.on, run := 0 }

/-- A lane defect (R253). -/
def Lane.sdhDefect (l : Lane) : Bool := !l.com.sigdet || l.sdh.lof || l.sdh.msAis.on || (l.sdh.j0.tim && bit l.sdh.ctl 4)

/-- Entry to a defect: DEF_SEEN, with the event where it was clear (R253). -/
def State.defectSeen (s : State) (n : LaneId) (entered : Bool) (ev : Nat) : State :=
  if entered then
    let seen := (s.lane n).sdh.defSeen
    (s.modSdh n fun x => { x with defSeen := true }).reportIf (!seen) (laneEv n ev) 1
  else s

/-- SDH_SD_WINDOW: a 1 s window ends. -/
def execSdhSdWindow (n : LaneId) (s : State) : Res :=
  .next (
    if !s.sdhOn n then s
    else
      let x := (s.lane n).sdh
      let th := (fld x.ctl 16 16).toNat
      let sd := decide (th ≠ 0 ∧ th ≤ x.b2Frames)
      (s.modSdh n fun x => { x with sd := sd, b2Frames := 0 }).defectSeen n (sd && !x.sd) 2)

/-! ### Traces (R254, R255) -/

/-- Sixteen bytes as four words, the first byte in [7:0], and back. -/
def traceWords (b : List Byte) : Vector W32 4 := Vector.ofFn fun i => BitVec.ofNat 32 (leAt b (4 * i.val) 4)
def traceBytes (v : Vector W32 4) : List Byte := v.toList.flatMap fun w => leBytes 4 w.toNat

/-- The trace b has come with its CRC-7 right, while the trace is judged or not. -/
def Trace.checked (t : Trace) (b : List Byte) (en : Bool) : Trace :=
  let same := if t.last = b then t.sameRun + 1 else 1
  let same := min 8 same
  let t := { t with last := b, sameRun := same, accepted := if 3 ≤ same then traceWords b else t.accepted }
  if !en || t.expected.all (· == 0) then t
  else
    let differs := (b.drop 1 != (traceBytes t.expected).drop 1)
    let d := ({ on := t.tim, run := t.run } : Defect).judge differs 5 5
    { t with tim := d.on, run := d.run }

/-- A trace byte: byte 0 is the one with bit 7 set. A trace whose CRC-7 fails is ignored. -/
def Trace.rx (t : Trace) (x : Byte) (en : Bool) : Trace :=
  if bit x 7 then { t with buf := [x] }
  else if t.buf.isEmpty then t
  else
    let b := t.buf ++ [x]
    if b.length < 16 then { t with buf := b }
    else
      let t := { t with buf := [] }
      if fld (byteAt b 0) 0 7 = traceCrc (0x80#8 :: b.drop 1) then t.checked b en else t

/-- The enable bit of a trace as written: clearing it clears TIM at once. -/
def Trace.enable (t : Trace) (en : Bool) : Trace := if en then t else { t with tim := false, run := 0 }

/-- Byte i of a trace as sent. -/
def Trace.txByte (t : Trace) (i : Nat) : Byte :=
  let b := (traceBytes t.tx).map fun x => setBit x 7 false
  if i = 0 then setBit ((traceCrc (0x80#8 :: b.drop 1)).setWidth 8) 7 true else byteAt b i

/-! ### Pointers and paths (R252) -/

/-- The active pointer after an indication, and the bytes read in H3 (3) or stuffed after it (−3). -/
def PtrInd.move (p : BitVec 10) : PtrInd → BitVec 10 × Int
  | .newData q => (q, 0)
  | .incr => (stepPtr p (-3), -3)
  | .decr => (stepPtr p 3, 3)
  | _ => (p, 0)

/-- The indication counts as an invalid pointer: none in range, or one that differs from the active pointer. -/
def PtrInd.bad : PtrInd → Bool
  | .invalid => true
  | .other _ => true
  | _ => false

/-- The pointer interpreter of G.783 (R252): three equal valid pointers in a row become the active one and end AU-AIS and LOP, which exclude
each other; meanwhile justifications and new-data flags move it. -/
def Au4.interpret (a : Au4) (x : PtrInd) : Au4 × Int :=
  let ones := if x = .allOnes then min 8 (a.ais.run + 1) else 0
  let bad := if x.bad then min 8 (a.lop.run + 1) else 0
  let nd := match x with | .newData _ => min 8 (a.ndfRun + 1) | _ => 0
  -- The pointers that may make three equal ones.
  let cand : Option (BitVec 10) := match x with | .norm => some a.ptr | .other p => some p | _ => none
  let good := match cand with
    | some p => if a.goodRun = 0 ∨ a.newPtr ≠ p then 1 else min 8 (a.goodRun + 1)
    | none => 0
  let next : Bool × Bool :=
    if 3 ≤ ones then (true, false)
    else if 3 ≤ good then (false, false)
    else if 8 ≤ bad ∨ 8 ≤ nd then (false, true)
    else (a.ais.on, a.lop.on)
  let (ptr, just) := if 3 ≤ good then (cand.getD a.ptr, 0) else if a.ais.on || a.lop.on then (a.ptr, 0) else x.move a.ptr
  let moved := just != 0 || (match x with | .newData _ => true | _ => false)
  ({ a with
      ais := { on := next.1, run := ones }, lop := { on := next.2, run := bad }, ndfRun := nd, goodRun := good
      newPtr := cand.getD a.newPtr, ptr := ptr, sinceJust := if moved then 0 else min 3 (a.sinceJust + 1) }, just)

/-- One AU-4 of a frame: the interpreter, then its VC-4's bytes with the offsets of J1 among them. In AU-AIS or LOP nothing is read. -/
def Au4.rx (a : Au4) (f : AuRx) : Au4 × List Byte × List Nat :=
  let before := a.ptr
  let (a, just) := a.interpret (readPtr a.ptr (3 ≤ a.sinceJust) f.h)
  if a.ais.on || a.lop.on then ({ a with vcOff := none, vcPrev := none, b3Last := 0 }, [], [])
  else
    let bs := auBytes f before a.ptr just
    let w := bs.foldl VcWalk.byte { off := a.vcOff, run := a.vcRun, prev := a.vcPrev }
    let a := { a with
      vcOff := w.off, vcRun := w.run, vcPrev := w.prev, b3Last := w.b3
      rdi := w.g1.foldl (fun d g => d.judge (bit g 3) 5 5) a.rdi
      trace := w.j1.foldl (fun t x => t.rx x a.j1En) a.trace }
    (a, bs.map (·.1), (bs.zipIdx.filter fun x => x.1.2).map (·.2))

/-- A path defect has been entered (R253): TIM1 is one where TIM_ACT is set. -/
def Au4.entered (a b : Au4) (act : Bool) : Bool :=
  (b.ais.on && !a.ais.on) || (b.lop.on && !a.lop.on) || (b.rdi.on && !a.rdi.on) || (act && b.trace.tim && !a.trace.tim)

/-! ### A frame (R249 to R254, R258 to R260) -/

/-- Tributary t of lane n has a lane or path defect, or its group is not FULL (R260). -/
def State.tribFails (s : State) (n : LaneId) (e : TribEntry) : Bool :=
  let l := s.lane n
  l.sdhDefect ||
    (if bit e.w0 1 then (s.group (8 + (fld e.w0 8 4).toNat)).gstate != .full else l.sdh.pathDefect (fld e.w0 2 6).toNat)

/-- Received bytes wait in an entry; `at'` are the offsets of frame starts among them. -/
def TribEntry.wait (e : TribEntry) (bytes : List Byte) (at' : List Nat) : TribEntry :=
  { e with waiting := e.waiting ++ bytes, starts := e.starts ++ at'.map (· + e.waiting.length) }

/-- The VC-4s of a frame, by AU-4, go to the valid KIND 0 entries that carry them, but where a signal-fail run is on. -/
def State.vcsIn (s : State) (n : LaneId) (vcs : Vector (List Byte × List Nat) 64) : State :=
  let put (e : TribEntry) : TribEntry :=
    if bit e.w0 0 && !(bit e.w0 1) && !(s.tribFails n e) then
      let v := vcs[(fld e.w0 2 6).toFin]
      e.wait v.1 v.2
    else e
  s.modSdh n fun x => { x with trib := x.trib.map put }

/-- The present second's errored blocks and defects at each monitored point (R267). -/
def SdhPort.pmFrame (x : SdhPort) (b2 : Nat) (paths : Bool) : SdhPort :=
  let point (i : Fin 65) : PmPoint :=
    let p := x.pm[i.val]
    if i.val = 0 then
      { p with errored := p.errored + (if b2 = 0 then 0 else 1), defect := p.defect || x.lof || x.msAis.on }
    else if paths then
      let a : Au4 := vget {} x.au (i.val - 1)
      { p with errored := p.errored + (if a.b3Last = 0 then 0 else 1), defect := p.defect || a.ais.on || a.lop.on }
    else p
  { x with pm := Vector.ofFn point }

/-- Violations of B1 and of B2 that a frame shows against the parities of the frame before, and its own parities. -/
def SdhPort.parity (x : SdhPort) (bytes : List Byte) (f : SdhFrame) : Nat × Nat × SdhPort :=
  (match x.rxB1 with | some p => popCount (p ^^^ f.b1) | none => 0,
   match x.rxB2 with | some p => parityErrors p f.b2 | none => 0,
   { x with rxB1 := some (bip8 bytes), rxB2 := some (bipCols 192 (withoutRsoh (scrambleStm bytes))) })

/-- The section overhead of a frame with so many B2 violations. -/
def SdhPort.overhead (x : SdhPort) (f : SdhFrame) (b2 : Nat) : SdhPort :=
  { x with
    misses := if f.ok then 0 else x.misses + 1
    b2Frames := x.b2Frames + (if b2 = 0 then 0 else 1)
    lastB2 := b2
    msAis := x.msAis.judge (f.k2 == 7#3) 3 3
    msRdi := x.msRdi.judge (f.k2 == 6#3) 5 5
    j0 := x.j0.rx f.j0 (bit x.ctl 3) }

/-- A frame in frame. -/
def State.sdhFrameIn (s : State) (n : LaneId) (bytes : List Byte) : State :=
  let f := readStm bytes
  let x0 := (s.lane n).sdh
  let (b1, b2, x1) := x0.parity bytes f
  let s := s.modSdh n fun _ => x1.overhead f b2
  let s := (((s.sdhCnt n 0).sdhCnt n 3 b1).sdhCnt n 4 b2).sdhCnt n 5 f.m1.toNat
  let x := (s.lane n).sdh
  let paths := (s.lane n).com.sigdet && !x.lof && !x.msAis.on
  let rx : Vector (Au4 × List Byte × List Nat) 64 := Vector.ofFn fun a => x.au[a].rx f.aus[a]
  let s := if paths then s.modSdh n fun x => { x with au := rx.map (·.1) } else s.pathsAfresh n
  let y := (s.lane n).sdh
  let s := s.modSdh n fun x => x.pmFrame b2 paths
  let pathIn := (List.finRange 64).any fun a => x0.au[a].entered y.au[a] (bit x0.ctl 4)
  let s := s.defectSeen n
    ((y.msAis.on && !x0.msAis.on) || (y.msRdi.on && !x0.msRdi.on) || (y.j0.tim && !x0.j0.tim) || pathIn) 6
  (if paths then s.vcsIn n (rx.map (·.2)) else s).judgeVcats n

/-- SDH_FRAME: the bytes of a frame's time, at the position where the framer expects one. The fourth errored pattern in a row sends the
framer to HUNT. -/
def execSdhFrame (n : LaneId) (bytes : List Byte) (s : State) : Res :=
  .next (
    let x := (s.lane n).sdh
    if !s.sdhOn n || x.frm != .inFrame then s
    else if !patternOk bytes ∧ x.misses = 3 then (s.sdhHunt n).sdhCnt n 1
    else s.sdhFrameIn n bytes)

/-! ### Performance bins (R267, R268) -/

/-- An SES: 2,400 errored blocks, or a defect. -/
def isSes (x : Nat × Bool × Nat × Nat) : Bool := x.2.1 || decide (2400 ≤ x.1)

/-- The counts of a second whose availability is known. -/
def Bin.add (b : Bin) (x : Nat × Bool × Nat × Nat) (unavail : Bool) : Bin :=
  let b := { b with secs := b.secs + 1 }
  if unavail then { b with uas := b.uas + 1 }
  else if isSes x then { b with es := b.es + 1, ses := b.ses + 1 }
  else { b with es := b.es + (if x.1 = 0 then 0 else 1), bbe := b.bbe + x.1 }

/-- Entry i of a list changed by f. -/
def lmod {α : Type} (l : List α) (i : Nat) (f : α → α) : List α :=
  match l, i with
  | [], _ => []
  | a :: l, 0 => f a :: l
  | a :: l, i + 1 => a :: lmod l i f

/-- The oldest second is classified with the nine after it, and added to the bins in which it began. -/
def PmPoint.settle (p : PmPoint) : PmPoint :=
  match p.recent with
  | [] => p
  | x :: rest =>
    let ten := x :: rest.take 9
    let un := if p.unavailable then !ten.all (fun y => !isSes y) else ten.all isSes
    let p := { p with recent := rest, unavailable := un }
    let p := if x.2.2.1 = 0 then { p with cur15 := p.cur15.add x un }
      else { p with hist15 := lmod p.hist15 (x.2.2.1 - 1) (·.add x un) }
    if x.2.2.2 = 0 then { p with cur24 := p.cur24.add x un }
    else { p with hist24 := lmod p.hist24 (x.2.2.2 - 1) (·.add x un) }

/-- The current bins are marked INCOMPLETE. -/
def PmPoint.spoil (p : PmPoint) : PmPoint :=
  { p with cur15 := { p.cur15 with incomplete := true }, cur24 := { p.cur24 with incomplete := true } }

/-- The present second ends; `extra` is a defect that stands at its end. -/
def PmPoint.second (p : PmPoint) (extra : Bool) : PmPoint :=
  let p := { p with recent := p.recent ++ [(p.errored, p.defect || extra, 0, 0)], errored := 0, defect := false }
  if p.recent.length ≤ 10 then p else p.settle

/-- PM_SECOND: a second of a point ends, and the second that ended 10 s ago is added to its bins. A second in which the receive direction
is not ON is not monitored. -/
def execPmSecond (n : LaneId) (point : Fin 65) (s : State) : Res :=
  .next (
    if !s.isSdh n.val then s
    else if !s.isOn (dRx n.val) then s.modSdh n fun x => { x with pm := x.pm.set point.val x.pm[point.val].spoil }
    else
      let l := s.lane n
      let extra := point.val == 0 && (!l.com.sigdet || l.sdh.lof || l.sdh.msAis.on)
      s.modSdh n fun x => { x with pm := x.pm.set point.val (x.pm[point.val].second extra) })

/-- The bins of a period close: 96 and 7 history bins are kept. -/
def PmPoint.close (p : PmPoint) (day : Bool) (start : BitVec 48) : PmPoint :=
  let fresh : Bin := { valid := true, start := start }
  if day then
    { p with hist24 := (p.cur24 :: p.hist24).take 7, cur24 := fresh, recent := p.recent.map fun x => (x.1, x.2.1, x.2.2.1, x.2.2.2 + 1) }
  else
    { p with hist15 := (p.cur15 :: p.hist15).take 96, cur15 := fresh, recent := p.recent.map fun x => (x.1, x.2.1, x.2.2.1 + 1, x.2.2.2) }

/-- PM_BIN_CLOSE: a boundary of 900 s or 86,400 s, at the seconds value secondNow. -/
def execPmBinClose (n : LaneId) (day : Bool) (secondNow : BitVec 48) (s : State) : Res :=
  .next (if s.isSdh n.val then s.modSdh n fun x => { x with pm := x.pm.map fun p => p.close day secondNow } else s)

/-- The time is set for the first time, or stepped: every current bin is incomplete (R268). -/
def State.pmIncomplete (s : State) : State :=
  { s with lanes := s.lanes.map fun l => { l with sdh := { l.sdh with pm := l.sdh.pm.map PmPoint.spoil } } }

/-- PM_CLR: all bins are emptied and incomplete ones start. -/
def State.pmClr (s : State) (n : LaneId) : State := s.pmStart n
def execPmClr (p : Port) (n : LaneId) (s : State) : Res :=
  .next (if s.isSdh n.val then s.writeLane p n 0x2000 .common fun s => s.pmClr n else s)

/-- SDH_CNT_CLR. -/
def State.sdhCntClr (s : State) (n : LaneId) : State := s.modSdh n fun x => { x with cnt := Vector.replicate 19 0 }
def execSdhCntClr (p : Port) (n : LaneId) (s : State) : Res :=
  .next (if s.isSdh n.val then s.writeLane p n 0x2000 .common fun s => s.sdhCntClr n else s)

end Sys2Proof.Machine
end

