-- ==== Sys2Proof/Machine/Steward.lean ====
section
/-!
DEFINITION. The stewards' commands, their firmware, the optics masters and the registers of block 9 of a quadrant island (R157 to R173).
-/
namespace Sys2Proof.Machine

/-! ### Commands (R157, R159, R160, R169) -/

/-- A command is refused. -/
def State.stwErr (s : State) (q : QuadId) (e : Byte) : State := s.modStw q fun x => { x with err := e }

/-- BUSY: a command or a swap is in progress. -/
def Steward.isBusy (x : Steward) : Bool := x.busy.isSome || x.swap != .none

/-- A command is accepted unless one is in progress (ERR 5); an accepted one clears ERR. -/
def State.stwCmd (s : State) (q : QuadId) (k : State → State) : State := if (s.steward q).isBusy then s.stwErr q 5 else k (s.stwErr q 0)

/-- A command that names a line lane by its slice; another slice is ERR 6. -/
def State.stwLaneCmd (s : State) (q : QuadId) (slice : BitVec 5) (k : State → LaneId → State) : State :=
  s.stwCmd q fun s =>
    match laneOf q slice.toNat with
    | some n => if s.isLine n.val then k s n else s.stwErr q 6
    | none => s.stwErr q 6

/-- BCAST_KEY accepted: a key index other than 1 and 2 is not allowed. -/
def State.bcastKey (s : State) (q : QuadId) (slice : BitVec 5) (k : BitVec 2) : State :=
  s.stwLaneCmd q slice fun s _ =>
    if k = 1 ∨ k = 2 then s.modStw q fun x => { x with busy := some (.bcastKey slice k) } else s.stwErr q 4

/-- CLEAR_ROGUE: the lane enters O1.1 where DISABLED = 0. -/
def State.clearRogue (s : State) (q : QuadId) (slice : BitVec 5) : State :=
  s.stwLaneCmd q slice fun s n =>
    let s := s.modAct n fun a => { a with rogue := false }
    if (s.lane n).act.state = .o7 ∧ !s.disabled n then s.toO11 n else s.fromO11 n

/-- The well record of a CLEAR_DISABLE: severity 2, located at the lane. Its EVENT is a free value: the spec gives the record no event
number. -/
def State.clearDisableRecord (s : State) (n : LaneId) : State :=
  let e := (s.freeBits 16).toNat
  let s := s.tookFree
  let rep : Report := { sev := 2, cls := 0, loc := locQSB (quadOf n.val) (sliceOf n.val) 0, detail := [] }
  s.wellWrite (s.raisedNow e rep false true 0)

/-- CLEAR_DISABLE (R160). -/
def State.clearDisable (s : State) (q : QuadId) (slice : BitVec 5) : State :=
  s.stwLaneCmd q slice fun s n =>
    if !s.disabled n then s
    else
      let s := (s.setDisabled n false).clearDisableRecord n
      if (s.lane n).act.state = .o7 ∧ !(s.lane n).act.rogue then s.toO11 n else s

/-- RESTART_LANE (R141). -/
def State.restartLane (s : State) (q : QuadId) (slice : BitVec 5) : State :=
  s.stwLaneCmd q slice fun s n => if (s.lane n).act.state = .o7 then s else s.exitTo11 n 7

/-- BCAST_KEY. -/
def execBcastKey (p : Port) (q : QuadId) (slice : BitVec 5) (k : BitVec 2) (s : State) : Res :=
  .next (s.writeIsl p (quadBase q.val + 0x12008) fun s => s.bcastKey q slice k)

/-- CLEAR_ROGUE. -/
def execClearRogue (p : Port) (q : QuadId) (slice : BitVec 5) (s : State) : Res :=
  .next (s.writeIsl p (quadBase q.val + 0x12008) fun s => s.clearRogue q slice)

/-- CLEAR_DISABLE. -/
def execClearDisable (p : Port) (q : QuadId) (slice : BitVec 5) (s : State) : Res :=
  .next (s.writeIsl p (quadBase q.val + 0x12008) fun s => s.clearDisable q slice)

/-- RESTART_LANE. -/
def execRestartLane (p : Port) (q : QuadId) (slice : BitVec 5) (s : State) : Res :=
  .next (s.writeIsl p (quadBase q.val + 0x12008) fun s => s.restartLane q slice)

/-! ### Firmware (R161 to R165) -/

/-- The image of a bank, VERSION and STATE_FMT: the factory firmware where none is stored. -/
def Steward.image (x : Steward) (b : Bool) : Option FwImage := vget none x.bank (if b then 1 else 0)
def fwVersion (i : Option FwImage) : BitVec 16 := (i.map (·.version)).getD Config.factoryVersion
def fwFormat (i : Option FwImage) : BitVec 16 := (i.map (·.stateFmt)).getD Config.factoryStateFmt

/-- VERSION of the running bank; of the other bank where it holds an image. -/
def Steward.runVersion (x : Steward) : BitVec 16 := fwVersion (x.image x.runBank)
def Steward.altVersion (x : Steward) : BitVec 16 := if x.altValid then fwVersion (x.image !x.runBank) else 0

/-- Detail of events 950 + q and 954 + q: the VERSION of the bank that runs, and that of the other (R166). -/
def Steward.versions (x : Steward) : List Byte := leBytes 2 x.runVersion.toNat ++ leBytes 2 x.altVersion.toNat

/-- A checked image. -/
def fwImage (b : List Byte) : FwImage :=
  { bytes := b, version := BitVec.ofNat 16 (leAt b 4 2), stateFmt := BitVec.ofNat 16 (leAt b 6 2) }

/-- LOAD_FW accepted. -/
def State.loadFw (s : State) (q : QuadId) : State := s.stwCmd q fun s => s.modStw q fun x => { x with busy := some .loadFw }

/-- LOAD_FW. -/
def execLoadFw (p : Port) (q : QuadId) (s : State) : Res := .next (s.writeIsl p (quadBase q.val + 0x12008) fun s => s.loadFw q)

/-- SWAP_FW (R163). -/
def State.swapFw (s : State) (q : QuadId) (force : Bool) : State :=
  s.stwCmd q fun s =>
    let x := s.steward q
    if !x.altValid then s.stwErr q 4
    else if fwFormat (x.image x.runBank) ≠ fwFormat (x.image !x.runBank) ∧ !force then s.stwErr q 3
    else s.modStw q fun x => { x with swap := .pending force }

/-- SWAP_FW. -/
def execSwapFw (p : Port) (q : QuadId) (force : Bool) (s : State) : Res :=
  .next (s.writeIsl p (quadBase q.val + 0x12008) fun s => s.swapFw q force)

/-- Every line lane of the quadrant restarts in O1.1 with LAST_EXIT 7 (R163, R164). A lane that is DISABLED goes on to O7 at once, and one with
ROGUE stays silent in O1.1 until CLEAR_ROGUE (R141, R159). -/
def State.restartLines (s : State) (q : QuadId) : State := (s.quadLines q.val).foldl State.restartLine s

/-- SWAP_FW_HALT: fetch moves to the other bank. -/
def execSwapFwHalt (q : QuadId) (s : State) : Res :=
  .next (
    let x := s.steward q
    match x.swap with
    | .pending force =>
      let differ := fwFormat (x.image x.runBank) != fwFormat (x.image !x.runBank)
      let s := s.modStw q fun x => { x with runBank := !x.runBank, swap := .checking }
      if force && differ then s.restartLines q else s
    | _ => s)

/-- SWAP_FW_CHECK: the new code's self-check (R163, R166). -/
def execSwapFwCheck (q : QuadId) (pass : Bool) (s : State) : Res :=
  .next (
    if (s.steward q).swap ≠ .checking then s
    else
      let s := s.modStw q fun x => { x with swap := .none, runBank := if pass then x.runBank else !x.runBank }
      if pass then s.report (950 + q.val) 1 (s.steward q).versions else s.report (954 + q.val) 3 (s.steward q).versions)

/-- COMMIT_FW accepted. -/
def State.commitFw (s : State) (q : QuadId) : State := s.stwCmd q fun s => s.modStw q fun x => { x with busy := some .commitFw }

/-- COMMIT_FW. -/
def execCommitFw (p : Port) (q : QuadId) (s : State) : Res := .next (s.writeIsl p (quadBase q.val + 0x12008) fun s => s.commitFw q)

/-- STEWARD_HEARTBEAT_MISS (R164). -/
def execStewardHeartbeatMiss (q : QuadId) (s : State) : Res :=
  .next (
    if !s.isOn (dQuad q.val) || !s.clocked then s
    else
      let s := s.modStw q fun x => { x with runBank := if x.altValid then !x.runBank else x.runBank, swap := .none }
      (s.restartLines q).report (954 + q.val) 3 (s.steward q).versions)

/-- A command in progress ends with an error code, 0 for none. -/
def State.stwEnd (s : State) (q : QuadId) (err : Byte) : State := s.modStw q fun x => { x with busy := none, err := err }

/-- LOAD_FW completes with the bytes of the host buffer: they are checked and kept in the bank that does not run (R162). -/
def State.loadFwDone (s : State) (q : QuadId) (bytes : List Byte) (ok : Bool) : State :=
  let x := s.steward q
  let e : Byte := if !ok || bytes.length != x.fwLen.toNat || !fwHeaderOk bytes then 1 else if !fwSigned s.vault bytes then 2 else 0
  let s := s.stwEnd q e
  if e = 0 then
    s.modStw q fun x => { x with altValid := true, bank := vset x.bank (if x.runBank then 0 else 1) (some (fwImage bytes)) }
  else s.modStw q fun x => { x with altValid := false }

/-- BCAST_KEY completes: the wrapped key is unwrapped with the lane's KEK and installed (R157). -/
def State.bcastKeyDone (s : State) (q : QuadId) (slice : BitVec 5) (k : BitVec 2) : State :=
  match laneOf q slice.toNat with
  | none => s.stwEnd q 6
  | some n =>
    match (s.tcKeyOf n 2).bind fun kek => Config.tcUnwrap kek ((s.steward q).data.toList.flatMap fun w => leBytes 4 w.toNat) with
    | some key => (s.stwEnd q 0).installKey n (k.toNat + 1) key
    | none => s.stwEnd q 7

/-- STW_CMD_DONE: the steward's command completes. For LOAD_FW, bytes are those of the host buffer and ok says that they could be read;
for COMMIT_FW, ok says that the vault took the write. -/
def execStwCmdDone (q : QuadId) (bytes : List Byte) (ok : Bool) (s : State) : Res :=
  .next (
    if !s.isOn (dQuad q.val) then s
    else
      match (s.steward q).busy with
      | none => s
      | some .loadFw => s.loadFwDone q bytes ok
      | some .commitFw =>
        if ok then
          let x := s.steward q
          let s : State := { s with vault := { s.vault with fw := vset s.vault.fw q.val (x.image x.runBank) } }
          s.stwEnd q 0
        else s.stwEnd q 8
      | some (.bcastKey slice k) => s.bcastKeyDone q slice k)

/-! ### The optics master (R173) -/

/-- LEN as it acts (R173). -/
def optLen (w : W32) : Nat := min 4 (max 1 (fld w 16 3).toNat)

/-- A write of QD_OPT_CTL_q: GO starts a transfer, and is ignored while BUSY. -/
def State.optWrite (s : State) (q : QuadId) (w : W32) : State :=
  let go := bit w 20 && !(s.steward q).optBusy
  let s := s.modStw q fun x => { x with optCtl := rw 0x002FFF7F#32 w, optBusy := x.optBusy || go }
  if go then
    let n := optLen w
    let rd := bit w 19
    let s := s.modStw q fun x => { x with optRun := if rd then some n else none }
    s.emit (.optics q (fld w 0 7) (fld w 8 8) rd n (bit w 21) (if rd then [] else leBytes n (s.steward q).optWdata.toNat))
  else s

/-- OPT_GO. -/
def execOptGo (p : Port) (q : QuadId) (w : W32) (s : State) : Res :=
  .next (s.writeIsl p (quadBase q.val + 0x12040) fun s => s.optWrite q w)

/-- OPT_DONE: the transfer that GO started completes, with the bytes that a read returned, first in [7:0], or the device did not
acknowledge. Bytes of QD_OPT_RDATA_q beyond LEN are free values. -/
def execOptDone (q : QuadId) (nack : Bool) (rdata : W32) (s : State) : Res :=
  .next (
    let x := s.steward q
    if !x.optBusy then s
    else if nack then s.modStw q fun x => { x with optBusy := false, optNack := true }
    else
      match x.optRun with
      | some n =>
        let v := BitVec.ofNat 32 (leAt (leBytes n rdata.toNat ++ leBytes (4 - n) (s.freeBits 32).toNat) 0 4)
        s.tookFree.modStw q fun x => { x with optBusy := false, optDone := true, optRdata := v }
      | none => s.modStw q fun x => { x with optBusy := false, optDone := true })

/-- OPT_TIMEOUT. -/
def execOptTimeout (q : QuadId) (s : State) : Res :=
  .next (if (s.steward q).optBusy then s.modStw q fun x => { x with optBusy := false, optTimeout := true } else s)

/-! ### Registers (R168 to R173) -/

/-- A write of QD_STW_CMD_q. -/
def State.stwCmdWrite (s : State) (q : QuadId) (w : W32) : State :=
  let slice := fld w 4 5
  match (fld w 0 4).toNat with
  | 1 => s.loadFw q
  | 2 => s.swapFw q (bit w 11)
  | 3 => s.commitFw q
  | 4 => s.bcastKey q slice (fld w 9 2)
  | 5 => s.clearRogue q slice
  | 6 => s.clearDisable q slice
  | 7 => s.restartLane q slice
  | _ => s.stwErr q (if (s.steward q).isBusy then 5 else 4)

/-- QD_STW_TUNE_REQ_q. -/
def Steward.tuneReq (x : Steward) : W32 :=
  match x.tuneReqs with
  | [] => 0
  | r :: _ => at' 0 r.slice ||| atB 5 true ||| at' 8 r.ds ||| at' 12 r.us ||| atB 16 r.scan ||| at' 24 r.seq

/-- A read of block 9 of quadrant q, at an offset from 0x12000. -/
def State.stwRead (s : State) (q : QuadId) (off : Nat) : W32 × State :=
  let x := s.steward q
  if off = 0x34 then s.stwLaneRead q
  else
    (if off = 0x00 then x.ctl
     else if off = 0x04 then atB 0 x.runBank ||| atB 1 x.isBusy ||| atB 2 x.altValid ||| atB 3 (x.swap != .none) ||| at' 4 x.err
     else if off = 0x0C then at' 0 x.runVersion ||| at' 16 x.altVersion
     else if 0x10 ≤ off ∧ off < 0x20 then vget 0 x.data ((off - 0x10) / 4)
     else if off = 0x20 then fld x.fwAddr 0 32
     else if off = 0x24 then fld x.fwAddr 32 32
     else if off = 0x28 then x.fwLen
     else if off = 0x2C then x.timers
     else if off = 0x30 then x.laneSel
     else if off = 0x38 then x.tuneReq
     else if off = 0x40 then x.optCtl
     else if off = 0x44 then x.optWdata
     else if off = 0x48 then x.optRdata
     else if off = 0x4C then atB 0 x.optBusy ||| atB 1 x.optDone ||| atB 2 x.optNack ||| atB 3 x.optTimeout
     else 0, s)

/-- A write of block 9 of quadrant q. -/
def State.stwWrite (s : State) (q : QuadId) (off : Nat) (w : W32) : State :=
  if off = 0x00 then s.modStw q fun x => { x with ctl := rw 0x3FF#32 w }
  else if off = 0x08 then s.stwCmdWrite q w
  else if 0x10 ≤ off ∧ off < 0x20 then s.modStw q fun x => { x with data := vset x.data ((off - 0x10) / 4) w }
  else if off = 0x20 then s.modStw q fun x => { x with fwAddr := putFld x.fwAddr 0 (rw 0xFFFFFFC0#32 w) }
  else if off = 0x24 then s.modStw q fun x => { x with fwAddr := putFld x.fwAddr 32 w }
  else if off = 0x28 then s.modStw q fun x => { x with fwLen := w }
  else if off = 0x2C then s.modStw q fun x => { x with timers := w }
  else if off = 0x30 then s.modStw q fun x => { x with laneSel := rw 0x1FF1F#32 w }
  else if off = 0x34 then s.stwLaneWrite q w
  else if off = 0x3C then s.tuneAck q w
  else if off = 0x40 then s.optWrite q w
  else if off = 0x44 then s.modStw q fun x => { x with optWdata := w }
  else if off = 0x4C then s.modStw q fun x =>
    { x with optDone := w1cB x.optDone w 1, optNack := w1cB x.optNack w 2, optTimeout := w1cB x.optTimeout w 3 }
  else s

end Sys2Proof.Machine
end

