-- ==== Sys2Proof/Machine/TableCheck.lean ====
section
/-!
DEFINITION. Entry protection and the aging pass of the bridge and flow tables (R305, R316, R317, R323): upsets of stored bits, the key
parity of the lookup fast path, and the full SECDED check of a parity failure, of the scanner and of a command read. Which stored bits
stand wrong is state, so a check is a count of them (notes/assumptions/102.md).
-/
namespace Sys2Proof.Machine

/-! ### Location codes (R305) -/

/-- B and W of slot i of a table: a pool bank and row, or an overflow store and entry. -/
def State.slotBank (s : State) (flow : Bool) (i : Nat) : Nat × Nat :=
  match s.poolBank flow i with
  | some b => (16 + b, s.poolRow flow i)
  | none => (if flow then 49 else 48, i - 4 * s.buckets flow)

/-- The location code of a bit of slot i: 0.7.10.B.W.C with C = 512 × slot + bit; slot 0 in an overflow store. -/
def State.slotLoc (s : State) (flow : Bool) (i bitNo : Nat) : Loc :=
  let (b, w) := s.slotBank flow i
  { d := 0, q := 7, s := 10, b := BitVec.ofNat 8 b, w := BitVec.ofNat 16 w
    c := BitVec.ofNat 16 (512 * (if b < 48 then i % 4 else 0) + bitNo) }

/-- The location code of filter word f of the LPM length filters. -/
def filterLoc (f : Nat) : Loc := { d := 0, q := 7, s := 10, b := BitVec.ofNat 8 (50 + f / 32768), w := BitVec.ofNat 16 (f % 32768) }

/-! ### Checks (R323) -/

/-- The numbers of the stored bits that stand wrong. -/
def TblEntry.errors (e : TblEntry) : List Nat := if e.flips = 0 then [] else (List.range 459).filter fun i => bit e.flips i

/-- The parity of the key words fails: an odd number of the 320 key bits and the parity bit stand wrong. -/
def TblEntry.parityFails (e : TblEntry) : Bool := (e.errors.filter fun i => decide (i < 320) || i == 458).length % 2 == 1

/-- Event 984: at most once per second. -/
def State.entryCorrected (s : State) (l : Loc) : State :=
  let due := match s.tbl.lastCorr with
    | some t => decide (10000000000 ≤ s.now - t)
    | none => true
  let s : State := { s with tbl := s.tbl.cntAdd 13 1 }
  if due then State.report { s with tbl := { s.tbl with lastCorr := some s.now } } 984 1 (locBytes l) else s

/-- The full SECDED check of slot i: one wrong bit is corrected and written back, more make the entry BAD. -/
def State.checkSlot (s : State) (flow : Bool) (i : Nat) : State :=
  match Tab.find (s.tbl.hash flow) i with
  | none => s
  | some e =>
    match e.errors with
    | [] => s
    | [c] =>
      State.entryCorrected { s with tbl := s.tbl.setHash flow (Tab.ins (s.tbl.hash flow) i { e with flips := 0 }) } (s.slotLoc flow i c)
    | _ =>
      State.report { s with tbl := (s.tbl.setHash flow (Tab.ins (s.tbl.hash flow) i { e with bad := true })).cntAdd 14 1 } 985 3
        (locBytes (s.slotLoc flow i 0))

/-- The full check of the slots that p names; entries without a wrong bit pass, and BAD ones are known. -/
def State.checkSlots (s : State) (flow : Bool) (p : Nat → TblEntry → Bool) : State :=
  ((s.tbl.hash flow).filter fun x => x.2.flips != 0 && !x.2.bad && p x.1 x.2).foldl (fun s x => s.checkSlot flow x.1) s

/-- The fast path of a lookup checks the parity of every entry that it reads. -/
def State.lookupCheck (s : State) (flow : Bool) (k : TblKey) : State :=
  s.checkSlots flow fun i e => readsSlot flow (s.buckets flow) k i && e.parityFails

/-- Bits of the tables' memories flip. -/
def State.upsets (s : State) (us : List Upset) : State :=
  us.foldl (fun s u => { s with tbl := s.tbl.setHash u.flow ((s.tbl.hash u.flow).map fun p =>
    if p.1 = u.slot then (p.1, { p.2 with flips := p.2.flips ^^^ (1#459 <<< u.place.val) }) else p) }) s

/-! ### Aging pass (R316, R317) -/

/-- An aging pass of a table: the check of every entry, aging, and the moves of R308. Lookups hit some slots in their scan cycles. -/
def State.agePass (s : State) (flow : Bool) (hits : List Nat) : State :=
  let s := s.checkSlots flow fun _ _ => true
  let x := endMoves (s.tbl.hash flow)
  let y := ageAll flow hits x
  let (z, moved) := moveBack flow (s.buckets flow) y
  let kept := (x.filter fun p => p.2.ages flow && hits.contains p.1).length
  { s with tbl := ((((s.tbl.setHash flow z).cntAdd 5 (x.length - y.length)).cntAdd 6 kept).cntAdd 15 moved) }

end Sys2Proof.Machine
end

