-- ==== Sys2Proof/Machine/Tables.lean ====
section
/-!
DEFINITION. The commands of the tables' engine, learning, aging and the tables' registers (R308, R314 to R332). A command is
accepted at its write and acts when it completes (TBL_CMD_DONE).
-/
namespace Sys2Proof.Machine

/-- A command is refused with a code. -/
def State.tblErr (s : State) (e : BitVec 4) : State := { s with tbl := { s.tbl with err := e } }

/-- The command that TBL_CMD and the key, result and control words name (R325, R328). -/
def Tables.cmd (t : Tables) (op table : Nat) (static : Bool) (port : Byte) (shadow byLoc : Bool) : TblCmd :=
  { op := op, table := table, static := static, port := port, shadow := shadow, byLoc := byLoc,
    key := t.key, res0 := t.res0, res1 := t.res1, ctl := t.entCtl, loc := t.loc }

/-- The prefix, length and family of an LPM command's key words (R307). -/
def TblCmd.v6 (c : TblCmd) : Bool := c.table == 3
def TblCmd.len (c : TblCmd) : Nat := (fld (vget 0#32 c.key 9) 0 8).toNat
def TblCmd.pre (c : TblCmd) : BitVec 128 :=
  (vget 0#32 c.key 3 ++ vget 0#32 c.key 2 ++ vget 0#32 c.key 1 ++ vget 0#32 c.key 0 : BitVec 128)

/-- An LPM key is wrong: LENGTH too long, or a 1 bit beyond LENGTH (R318). -/
def TblCmd.badPrefix (c : TblCmd) : Bool :=
  decide (lpmMax c.v6 < c.len) || maskPrefix c.v6 c.len c.pre != c.pre || (!c.v6 && decide (2 ^ 32 ≤ c.pre.toNat))

/-- The code with which a command is refused at its write, 0 where it is accepted (R311, R318, R321, R322, R324, R325). The model's choices
(notes/assumptions/51.md): a REPAIR whose INDEX names no row of the pool has no spare row, ERR 8, and SWAP, REBUILD and REPAIR of a table
that has no such part are a bad TABLE, ERR 2. -/
def State.tblCheck (s : State) (c : TblCmd) : BitVec 4 :=
  let lpm := decide (2 ≤ c.table)
  let fam := s.tbl.fam c.v6
  if c.op = 0 ∨ 9 < c.op ∨ 3 < c.table then 2
  else if c.op = 3 && !portValid (fld c.res0 0 8) then 5
  else if c.op = 3 && lpm && c.badPrefix then 7
  else if (c.op = 3 || c.op = 4) && lpm && c.shadow && !fam.rebuilding then 6
  else if c.op = 7 then (if !lpm then 2 else if fam.rebuilding then 0 else 6)
  else if c.op = 8 then (if !lpm then 2 else if s.cstDegraded then 6 else 0)
  else if c.op = 9 then
    (if lpm then 2
     else match s.poolBank (c.table == 1) c.loc.toNat with
       | none => 8
       | some b => if (vget [] s.tbl.spares b).length < 2 then 0 else 8)
  else 0

/-- A key with the bits that its format does not use made 0 (R307). -/
def TblCmd.maskedKey (c : TblCmd) : TblKey := maskKey (c.table == 1) c.key

/-- What an accepted command starts: the move that an INSERT needs, or the copy of the row that REPAIR maps (R308, R309, R324). -/
def State.tblStart (s : State) (c : TblCmd) : State :=
  let flow := c.table == 1
  let nb := s.buckets flow
  let x := s.tbl.hash flow
  let k := c.maskedKey
  if c.op = 3 ∧ c.table < 2 ∧ (s.tblFind flow k).isNone ∧ (freeIn x (candidates flow nb k)).isNone then
    match movable flow nb x (candidates flow nb k) with
    | some (i, j) => { s with tbl := s.tbl.setHash flow (startMove x i j) }
    | none => s
  else if c.op = 9 then
    { s with tbl := s.tbl.setHash flow (x.map fun p => if p.1 / 4 = c.loc.toNat / 4 then (p.1, { p.2 with moving := some p.1 }) else p) }
  else s

/-- A command is written: refused with ERR 1 while one runs, refused by its own rules, or accepted. -/
def State.tblCmdWrite (s : State) (c : TblCmd) : State :=
  if s.tbl.busy.isSome then s.tblErr 1
  else
    let e := s.tblCheck c
    if e = 0 then
      State.tblStart { s with tbl := { s.tbl with
          busy := some c, err := 0, found := false, replaced := false, moved := false, endSeen := false } } c
    else s.tblErr e

/-! ### What a command does when it completes (R325) -/

/-- A bridge or flow entry is returned through the window. -/
def State.showEntry (s : State) (flow : Bool) (i : Nat) (e : TblEntry) : State :=
  { s with tbl := { s.tbl with
      found := true, key := e.key, res0 := e.res0, res1 := e.res1,
      entCtl := atB 0 e.static ||| atB 1 e.ageEn ||| at' 2 e.age ||| atB 4 e.moving.isSome ||| atB 5 e.bad,
      locBank := BitVec.ofNat 5 ((s.poolBank flow i).getD 0) } }

/-- An LPM entry is returned through the window. -/
def State.showLpm (s : State) (v6 : Bool) (e : LpmEntry) : State :=
  let k : TblKey := #v[fld e.pre 0 32, fld e.pre 32 32, fld e.pre 64 32, fld e.pre 96 32, 0, 0, 0, 0, 0,
    atN 0 8 e.len ||| atN 8 4 (if v6 then 6 else 4)]
  { s with tbl := { s.tbl with found := true, key := k, res0 := e.res, res1 := 0, entCtl := 0, locBank := 0 } }

/-- SEARCH. -/
def State.doSearch (s : State) (c : TblCmd) : State :=
  if 2 ≤ c.table then
    match ((s.tbl.fam c.v6).act).find c.len c.pre with
    | some (_, e) => s.showLpm c.v6 e
    | none => s.tblErr 3
  else
    match s.tblFind (c.table == 1) c.maskedKey with
    | some (i, e) => s.showEntry (c.table == 1) i e
    | none => s.tblErr 3

/-- NEXT: the first valid or BAD entry at or above INDEX. -/
def State.doNext (s : State) (c : TblCmd) : State :=
  let step (s : State) (i : Nat) : State := { s with tbl := { s.tbl with loc := BitVec.ofNat 19 (i + 1) } }
  let stop : State := { s with tbl := { s.tbl with endSeen := true } }
  if 2 ≤ c.table then
    match ((s.tbl.fam c.v6).act).slots.find? fun e => decide (c.loc.toNat ≤ e.1) with
    | some (i, e) => step (s.showLpm c.v6 e) i
    | none => stop
  else
    match (s.tbl.hash (c.table == 1)).find? fun e => decide (c.loc.toNat ≤ e.1) with
    | some (i, e) => step (s.showEntry (c.table == 1) i e.stored) i
    | none => stop

/-- INSERT into the bridge or flow table (R308). -/
def State.insertHash (s : State) (flow : Bool) (e : TblEntry) : State :=
  let x := endMoves (s.tbl.hash flow)
  match findKey flow (s.buckets flow) x e.key with
  | some (i, old) =>
    let y := Tab.ins x i { old with res0 := e.res0, res1 := e.res1, static := e.static, ageEn := e.ageEn, flips := 0 }
    { s with tbl := { s.tbl.setHash flow y with replaced := true } }
  | none =>
    let started := decide (x.length < (s.tbl.hash flow).length)
    match placeEntry flow (s.buckets flow) x e with
    | some (y, moved) =>
      let moved := moved || started
      { s with tbl := ({ s.tbl.setHash flow y with moved := moved } : Tables).cntAdd 15 (if moved then 1 else 0) }
    | none => s.tblErr 4

/-- INSERT into an LPM family: into both copies while rebuilding, into the shadow alone with SHADOW, else into the active copy
(R318, R321). -/
def State.insertLpm (s : State) (c : TblCmd) : State :=
  let f := s.tbl.fam c.v6
  let nb := s.lpmBuckets c.v6
  let e : LpmEntry := { len := c.len, pre := c.pre, res := c.res0 }
  let toAct := !(c.shadow && f.rebuilding)
  let a := if toAct then f.act.insert c.v6 nb e else some (f.act, false)
  let b := if f.rebuilding then f.shadow.insert c.v6 nb e else some (f.shadow, false)
  match a, b with
  | some (x, r), some (y, r') =>
    let s : State := { s with tbl := { s.tbl.modFam c.v6 fun f => (f.setAct x).setShadow y with replaced := r || r' } }
    s.request 1 true ((if toAct then 1 else 0) + if f.rebuilding then 1 else 0)
  | _, _ => s.tblErr 4

/-- DELETE, of the entry with the key or of the one that stands at TBL_LOC (R325); in an LPM family the location is one of the copy that the
host sees, and the entry's prefix leaves every copy that the command writes (R321). -/
def State.doDelete (s : State) (c : TblCmd) : State :=
  if 2 ≤ c.table then
    let f := s.tbl.fam c.v6
    let toAct := !(c.shadow && f.rebuilding)
    let (len, pre) :=
      match (if c.byLoc then Tab.find (if toAct then f.act else f.shadow).slots c.loc.toNat else none) with
      | some e => (e.len, e.pre)
      | none => (c.len, c.pre)
    let held := if c.byLoc then (Tab.find (if toAct then f.act else f.shadow).slots c.loc.toNat).isSome
      else (toAct && (f.act.find len pre).isSome) || (f.rebuilding && (f.shadow.find len pre).isSome)
    if held then
      let g (f : LpmFam) : LpmFam :=
        let f := if toAct then f.setAct (f.act.delete len pre) else f
        if f.rebuilding then f.setShadow (f.shadow.delete len pre) else f
      State.request { s with tbl := (s.tbl.modFam c.v6 g).cntAdd 12 1 } 1 true
        ((if toAct then 1 else 0) + if f.rebuilding then 1 else 0)
    else s.tblErr 3
  else
    let flow := c.table == 1
    let x := s.tbl.hash flow
    let at' : Option Nat :=
      if c.byLoc then (Tab.find x c.loc.toNat).map fun _ => c.loc.toNat else (s.tblFind flow c.maskedKey).map (·.1)
    match at' with
    | some i => { s with tbl := s.tbl.setHash flow (Tab.del x i) }
    | none => s.tblErr 3

/-- REBUILD: the shadow copy is emptied and its filter cleared (R321). -/
def State.doRebuild (s : State) (c : TblCmd) : State :=
  { s with tbl := s.tbl.modFam c.v6 fun f => { f.setShadow {} with rebuilding := true } }

/-- SWAP: the copies change places (R321). -/
def State.doSwap (s : State) (c : TblCmd) : State :=
  let t := s.tbl.modFam c.v6 fun f => { f with active := !f.active, rebuilding := false }
  { s with tbl := { t with cnt := vset t.cnt 12 0 } }

/-- REPAIR: the row is mapped to a spare row of its bank (R324). -/
def State.doRepair (s : State) (c : TblCmd) : State :=
  let flow := c.table == 1
  match s.poolBank flow c.loc.toNat with
  | some b =>
    { s with tbl := ({ s.tbl.setHash flow (endMoves (s.tbl.hash flow)) with
        spares := vmod s.tbl.spares b fun l => l ++ [s.poolRow flow c.loc.toNat] } : Tables).cntAdd 15 1 }
  | none => s

/-- FLUSH_PORT of an LPM family: its entries are all dynamic, and leave the copies that a DELETE would be written to (R321, R325). -/
def State.flushLpm (s : State) (c : TblCmd) : State :=
  let g (x : LpmCopy) : LpmCopy := { x with slots := x.slots.filter fun e => fld e.2.res 0 8 != c.port }
  { s with tbl := s.tbl.modFam c.v6 fun f =>
      let f := f.setAct (g f.act)
      if f.rebuilding then f.setShadow (g f.shadow) else f }

/-- A command that the cistern's degradation has overtaken is abandoned with ERR 6 (R321, R322). -/
def State.tblOvertaken (s : State) (c : TblCmd) : Bool :=
  (c.op == 8 && s.cstDegraded) ||
  ((c.op == 7 || ((c.op == 3 || c.op == 4) && decide (2 ≤ c.table) && c.shadow)) && !(s.tbl.fam c.v6).rebuilding)

/-- The entries that a command reads: their check bits are checked (R323). -/
def State.tblReads (s : State) (c : TblCmd) (i : Nat) : Bool :=
  let flow := c.table == 1
  if c.op = 5 then true
  else if c.op = 2 then
    (((s.tbl.hash flow).find? fun e => decide (c.loc.toNat ≤ e.1)).map (·.1)) == some i
  else if c.op = 4 ∧ c.byLoc then i == c.loc.toNat
  else (c.op == 1 || c.op == 3 || c.op == 4) && readsSlot flow (s.buckets flow) c.maskedKey i

/-- The command that ran completes (R325). -/
def State.tblDone (s : State) (hits : List Nat) : State :=
  match s.tbl.busy with
  | none => s
  | some c =>
    let s : State := { s with tbl := { s.tbl with busy := none } }
    let flow := c.table == 1
    let s := if c.table < 2 then s.checkSlots flow fun i _ => s.tblReads c i else s
    if s.tblOvertaken c then s.tblErr 6
    else match c.op with
    | 1 => s.doSearch c
    | 2 => s.doNext c
    | 3 =>
      if 2 ≤ c.table then s.insertLpm c
      else s.insertHash flow { key := c.maskedKey, res0 := c.res0, res1 := c.res1, static := bit c.ctl 0, ageEn := bit c.ctl 1 }
    | 4 => s.doDelete c
    | 5 =>
      if 2 ≤ c.table then s.flushLpm c
      else { s with tbl := s.tbl.setHash flow (flushPorts (s.tbl.hash flow) (· == c.port) c.static) }
    | 6 => if 2 ≤ c.table then s else s.agePass flow hits
    | 7 => s.doSwap c
    | 8 => s.doRebuild c
    | 9 => s.doRepair c
    | _ => s

/-! ### Learning (R314) -/

/-- The key of a bridge entry. -/
def bridgeKey (k0 k1 : W32) : TblKey := #v[k0, k1, 0, 0, 0, 0, 0, 0, 0, 0]

/-- A learn request of quadrant q is inserted: a key already present is only refreshed. -/
def State.learnInsert (s : State) (q : QuadId) : State :=
  match (s.quad q).learnQ with
  | [] => s
  | (k0, k1, port) :: rest =>
    let s := s.modQuad q fun x => { x with learnQ := rest }
    let key := bridgeKey k0 k1
    match s.tblFind false key with
    | some _ => s.onCopies false key fun e => { e with age := 0 }
    | none =>
      match placeEntry false (s.buckets false) s.tbl.bridge { key := key, res0 := port.setWidth 32 } with
      | some (x, moved) =>
        { s with tbl := (({ s.tbl with bridge := x } : Tables).cntAdd 0 1).cntAdd 15 (if moved then 1 else 0) }
      | none => s

/-! ### Port window (R330) -/

/-- The port number of the window names a lane, or a lane or a spread port. -/
def isLanePort (p : Nat) : Bool := decide (p < 96)
def isTblPort (p : Nat) : Bool := isLanePort p || decide (128 ≤ p ∧ p < 192)

/-- Port item p. -/
def Tables.port (t : Tables) (p : Nat) : TblPort := Tab.get {} t.ports p

/-- The bits of word 0 that exist for port p. -/
def portMask (p : Nat) : W32 := if isLanePort p then 0x0F3FFFFF#32 else 0x0007FFFF#32

/-- LEARN_AS of a lane: its own number until written. -/
def Tables.learnAs (t : Tables) (p : Nat) : Byte := (t.port p).learnAs.getD (BitVec.ofNat 8 p)

/-- A read of TBL_PORT_DATA. -/
def Tables.portRead (t : Tables) : W32 :=
  let p := (fld t.portAddr 0 8).toNat
  let w := (fld t.portAddr 8 2).toNat
  if bit t.portAddr 10 then
    if p < 16 then
      let f : FloodSet := vget {} t.floods p
      if w < 3 then fld f.mask (32 * w) 32 else f.w3.setWidth 32
    else 0
  else if !isTblPort p then 0
  else if w = 0 then (t.port p).w0 &&& portMask p
  else if w = 1 then
    (if isLanePort p then at' 0 (t.learnAs p) else 0) ||| atN 8 18 (t.count (BitVec.ofNat 8 p)) |||
      atB 31 (t.port p).limitSeen
  else 0

/-- A write of TBL_PORT_DATA. -/
def Tables.portWrite (t : Tables) (v : W32) : Tables :=
  let p := (fld t.portAddr 0 8).toNat
  let w := (fld t.portAddr 8 2).toNat
  if bit t.portAddr 10 then
    if p < 16 then
      { t with floods := vmod t.floods p fun f =>
          if w < 3 then { f with mask := putFld f.mask (32 * w) v } else { f with w3 := fld v 0 7 } }
    else t
  else if !isTblPort p then t
  else if w = 0 then
    { t with ports := Tab.mod {} t.ports p fun x =>
        { x with w0 := (x.w0 &&& ~~~(portMask p)) ||| (v &&& portMask p) } }
  else if w = 1 then
    { t with ports := Tab.mod {} t.ports p fun x =>
        { x with
          learnAs := if isLanePort p then some (fld v 0 8) else x.learnAs
          limitSeen := w1cB x.limitSeen v 31 } }
  else t

/-! ### Registers (R327 to R331) -/

/-- TBL_STATUS. -/
def Tables.statusWord (t : Tables) : W32 :=
  atB 0 t.busy.isSome ||| atB 1 t.found ||| atB 2 t.replaced ||| atB 3 t.moved ||| atB 4 t.endSeen ||| at' 8 t.err

/-- A read of TBL_CNT_DATA through port p: a read of a low word latches the high word (R331). -/
def State.tblCntRead (s : State) (p : Port) : W32 × State :=
  let c := (fld s.tbl.cntAddr 0 5).toNat
  let key := base 10 + 0x4008
  if 16 ≤ c then (0, s) else s.readPair p key (vget 0 s.tbl.cnt c) (bit s.tbl.cntAddr 5)

/-- A read of blocks 0 to 2 of the tables island. -/
def State.tblRead (s : State) (p : Port) (off : Nat) : W32 × State :=
  let t := s.tbl
  if off = 0x0004 then (t.statusWord, s)
  else if off = 0x0008 then (at' 0 t.loc ||| at' 20 t.locBank, s)
  else if 0x0010 ≤ off ∧ off < 0x0038 then (vget 0 t.key ((off - 0x10) / 4), s)
  else if off = 0x0038 then (t.res0, s)
  else if off = 0x003C then (t.res1, s)
  else if off = 0x0040 then (t.entCtl, s)
  else if off = 0x2000 then (t.ageCtl, s)
  else if off = 0x2004 then (t.portAddr, s)
  else if off = 0x2008 then (t.portRead, s)
  else if off = 0x4000 then (atB 0 t.v4.rebuilding ||| atB 1 t.v6.rebuilding ||| atB 2 t.v4.active ||| atB 3 t.v6.active, s)
  else if off = 0x4004 then (t.cntAddr, s)
  else if off = 0x4008 then s.tblCntRead p
  else (0, s)

/-- A write of TBL_CMD. -/
def State.tblCmdReg (s : State) (w : W32) : State :=
  s.tblCmdWrite (s.tbl.cmd (fld w 0 4).toNat (fld w 4 3).toNat (bit w 7) (fld w 8 8) (bit w 16) (bit w 17))

/-- A write of blocks 0 to 2 of the tables island. -/
def State.tblWrite (s : State) (off : Nat) (w : W32) : State :=
  let t := s.tbl
  if off = 0x0000 then s.tblCmdReg w
  else if off = 0x0008 then { s with tbl := { t with loc := fld w 0 19 } }
  else if 0x0010 ≤ off ∧ off < 0x0038 then { s with tbl := { t with key := vset t.key ((off - 0x10) / 4) w } }
  else if off = 0x0038 then { s with tbl := { t with res0 := w } }
  else if off = 0x003C then { s with tbl := { t with res1 := w } }
  else if off = 0x0040 then { s with tbl := { t with entCtl := (t.entCtl &&& 0x3C#32) ||| (w &&& 0x3#32) } }
  else if off = 0x2000 then { s with tbl := { t with ageCtl := w } }
  else if off = 0x2004 then { s with tbl := { t with portAddr := rw 0x7FF#32 w } }
  else if off = 0x2008 then { s with tbl := t.portWrite w }
  else if off = 0x4004 then { s with tbl := { t with cntAddr := rw 0x3F#32 w } }
  else s

/-! ### Commands -/

/-- LEARN_INSERT (R314). -/
def execLearnInsert (q : QuadId) (s : State) : Res := .next (s.learnInsert q)

/-- AGE_PASS (R316): some bits have flipped since the last pass, and lookups hit some slots in their scan cycles. -/
def execAgePass (flow : Bool) (hits : List Nat) (upsets : List Upset) (s : State) : Res := .next ((s.upsets upsets).agePass flow hits)

/-- A write of TBL_CMD with an operation. -/
def State.tblOp (s : State) (p : Port) (op : Nat) (tbl : BitVec 3) (static : Bool) (port : Byte) (shadow byLoc : Bool) : State :=
  s.writeIsl p (base 10) fun s => s.tblCmdWrite (s.tbl.cmd op tbl.toNat static port shadow byLoc)

/-- SEARCH (R325). -/
def execSearch (p : Port) (tbl : BitVec 3) (s : State) : Res := .next (s.tblOp p 1 tbl false 0 false false)

/-- NEXT (R325). -/
def execNext (p : Port) (tbl : BitVec 3) (s : State) : Res := .next (s.tblOp p 2 tbl false 0 false false)

/-- INSERT (R308, R318, R325). -/
def execInsert (p : Port) (tbl : BitVec 3) (shadow : Bool) (s : State) : Res :=
  .next (s.tblOp p 3 tbl false 0 shadow false)

/-- DELETE (R325). -/
def execDelete (p : Port) (tbl : BitVec 3) (shadow byLoc : Bool) (s : State) : Res :=
  .next (s.tblOp p 4 tbl false 0 shadow byLoc)

/-- FLUSH_PORT (R325). -/
def execFlushPort (p : Port) (tbl : BitVec 3) (port : BitVec 8) (static : Bool) (s : State) : Res :=
  .next (s.tblOp p 5 tbl static port false false)

/-- AGE_NOW (R316, R325). -/
def execAgeNow (p : Port) (tbl : BitVec 3) (s : State) : Res := .next (s.tblOp p 6 tbl false 0 false false)

/-- LPM_SWAP: TBL_CMD SWAP (R321). -/
def execLpmSwap (p : Port) (tbl : BitVec 3) (s : State) : Res := .next (s.tblOp p 7 tbl false 0 false false)

/-- REBUILD (R321). -/
def execRebuild (p : Port) (tbl : BitVec 3) (s : State) : Res := .next (s.tblOp p 8 tbl false 0 false false)

/-- REPAIR (R324). -/
def execRepair (p : Port) (tbl : BitVec 3) (s : State) : Res := .next (s.tblOp p 9 tbl false 0 false false)

/-- TBL_CMD_DONE (R325): bits may have flipped before the command read them, and lookups may have hit slots in the scan cycles of an
AGE_NOW. -/
def execTblCmdDone (hits : List Nat) (upsets : List Upset) (s : State) : Res := .next ((s.upsets upsets).tblDone hits)

/-- TBL_PORT_ACCESS: a read or a write of TBL_PORT_DATA (R330). -/
def execTblPortAccess (p : Port) (acc : Option W32) (s : State) : Res :=
  .next (match acc with
    | none => s.readIsl p (base 10 + 0x2008) fun s => (s.tbl.portRead, s)
    | some w => s.writeIsl p (base 10 + 0x2008) fun s => { s with tbl := s.tbl.portWrite w })

/-- TBL_CNT_READ (R331). -/
def execTblCntRead (p : Port) (s : State) : Res := .next (s.readIsl p (base 10 + 0x4008) fun s => s.tblCntRead p)

end Sys2Proof.Machine
end

