-- ==== Sys2Proof/Machine/Loader.lean ====
section
/-!
DEFINITION. The structure loader (R46 to R63, R590): its commands, the dark window, what an apply does, the readback and the
registers of block 0 of island 0x01.
-/
namespace Sys2Proof.Machine

/-- The loader changed by f. -/
def State.modStr (s : State) (f : Loader → Loader) : State := { s with str := f s.str }

/-- A command is refused: ERR alone changes (R46, R47, R48). -/
def State.strErr (s : State) (e : Byte) : State := s.modStr fun x => { x with err := e }

/-- BUSY: a command, the boot apply or a restage is in progress (R47, R51, R590). -/
def Loader.isBusy (x : Loader) : Bool := x.busy.isSome || x.auto.isSome

/-- A command reaches the loader while it is not busy (R47). -/
def State.strCmd (s : State) (k : State → State) : State := if s.str.isBusy then s.strErr 0x0D else k s

/-- A command completes: event 920 (R57). -/
def State.strDone (s : State) (f : Loader → Loader) : State := (s.modStr fun x => { f x with busy := none }).report 920 1

/-- A command that leaves the state where it was fails after it was accepted: ERR and event 921 (R46, R49, R57). -/
def State.strFail (s : State) (e : Byte) : State := (s.modStr fun x => { x with busy := none, err := e }).report 921 3 [e]

/-- The staging memory empty. -/
def Loader.unstage (x : Loader) : Loader := { x with staging := none, stagedFrom := .host }

/-! ### Slots and the committed image (R49, R51) -/

/-- The image in a slot of the vault. -/
def Vault.imageIn (v : Vault) (slotB : Bool) : Option (List Byte) := if slotB then v.imageB else v.imageA
def Vault.putImage (v : Vault) (slotB : Bool) (x : Option (List Byte)) : Vault :=
  if slotB then { v with imageB := x } else { v with imageA := x }

/-- The slot of the committed image: the commit word's, or the one that counts as committed (R51). -/
def State.commitSlot (s : State) : Option Bool :=
  match s.vault.commit with
  | some c => some c.slotB
  | none => s.str.bootSlotB

/-- IMAGE_SERIAL of the committed image. -/
def State.commitSerial (s : State) : W32 :=
  match s.vault.commit with
  | some c => c.serial
  | none => match s.str.bootSlotB with
    | some b => ((s.vault.imageIn b).map imgSerial).getD 0
    | none => 0

/-- The slot as a source. -/
def slotSrc (slotB : Bool) : ImgSrc := if slotB then .slotB else .slotA

/-! ### LOAD (R46, R59) -/

/-- LOAD is listed for the state. -/
def Loader.loadable (x : Loader) : Bool := x.state == .empty || x.state == .committed || (x.state == .failed && x.dark == 0)

/-- LOAD of a source. A host buffer of a length outside 1 to 4,194,304 fails at once. -/
def State.load (s : State) (src : BitVec 2) : State :=
  s.strCmd fun s =>
    if !s.str.loadable || src == 3 then s.strErr 0x0C
    else
      let from_ : ImgSrc := if src = 0 then .slotA else if src = 1 then .slotB else .host
      let s := s.modStr fun x => { x with err := 0, matchMask := 0, appliedMask := 0, busy := some (.load from_) }
      if from_ = .host ∧ (s.str.hostLen = 0 ∨ 4194304 < s.str.hostLen.toNat) then (s.modStr Loader.unstage).strFail 0x04 else s

/-- LOAD. -/
def execLoad (p : Port) (src : BitVec 2) (s : State) : Res := .next (s.writeIsl p (base 1) fun s => s.load src)

/-! ### Slots that the loader tries by itself (R51, R590) -/

/-- The LOAD of a slot begins. -/
def State.autoLoad (s : State) (r : AutoRun) : State :=
  s.modStr fun x => { x with auto := some r, err := 0, matchMask := 0, appliedMask := 0, busy := some (.load (slotSrc r.slotB)) }

/-- The slot tried fails with a code: the other slot is next, and after it the run ends with that code. -/
def State.autoNext (s : State) (r : AutoRun) (e : Byte) : State :=
  if r.second then (s.loaderFail e).powerSettle else s.autoLoad { r with slotB := !r.slotB, second := true }

/-- What a LOAD reads: nothing from a slot that is empty, cannot be read, or lies behind a vault link that does not answer (R552);
bytes are those of the host buffer. -/
def State.loadSource (s : State) (ok : Bool) (bytes : List Byte) : ImgSrc → Option (List Byte)
  | .slotA => if ok && !s.sys.vaultFail then s.vault.imageA else none
  | .slotB => if ok && !s.sys.vaultFail then s.vault.imageB else none
  | .host => if ok then some (padTo s.str.hostLen.toNat bytes) else none

/-- LOAD_DONE: the copy ends (R46). A host copy takes STR_HOST_LEN as it stands now: when it is sampled R59 leaves open, DESIGN CHOICE
(notes/assumptions/106.md). In a run of the loader's own VERIFY follows at once, and a failure leads to the next slot. -/
def execLoadDone (ok : Bool) (bytes : List Byte) (s : State) : Res :=
  .next (
    match s.str.busy with
    | some (.load from_) =>
      match s.loadSource ok bytes from_, s.str.auto with
      | some b, none => s.strDone fun x => { x with state := .staged, staging := some b, stagedFrom := from_ }
      | none, none => (s.modStr Loader.unstage).strFail 0x0E
      | some b, some r => s.modStr fun x =>
          { x with state := if r.boot then .staged else x.state, staging := some b, stagedFrom := from_, busy := some .verify }
      | none, some r => (s.modStr Loader.unstage).autoNext r 0x0E
    | _ => s)

/-! ### VERIFY (R46, R589) -/

/-- MATCH of an image (R46). -/
def State.matchOf (s : State) (b : List Byte) : BitVec 4 :=
  [0, 1, 2, 3].foldl (fun m q =>
    match vget none s.str.run q with
    | some r => setBit m q (r == imgQuad b q && sameCores s.str.cores (imgCoreVec b) q)
    | none => m) 0

/-- VERIFY. -/
def State.verify (s : State) : State :=
  s.strCmd fun s => if s.str.state = .staged then s.modStr fun x => { x with err := 0, busy := some .verify } else s.strErr 0x0C
def execVerify (p : Port) (s : State) : Res := .next (s.writeIsl p (base 1) State.verify)

/-! ### APPLY: acceptance (R48) -/

/-- The die-common parts, and the clock bytes of the quadrants outside the mask, equal the running ones. -/
def State.commonSame (s : State) (b : List Byte) (mask : BitVec 4) : Bool :=
  s.str.common == some (imgCommon b) &&
    [0, 1, 2, 3].all fun q => bit mask q ||
      match vget none s.str.run q with
      | some r => r.clkQuad == (imgQuad b q).clkQuad && r.clkCores == (imgQuad b q).clkCores
      | none => false

/-- A core's assignment is the running one, or its own quadrant and both assigned quadrants lie in the mask. -/
def State.coreMoves (s : State) (b : List Byte) (mask : BitVec 4) (k : Nat) : Bool :=
  let old := (vget 0#8 s.str.cores k).toNat
  let new := (vget 0#8 (imgCoreVec b) k).toNat
  old == new || (bit mask (k / 18) && bit mask old && bit mask new)

/-- The role of lane n after the apply. -/
def State.roleAfter (s : State) (b : List Byte) (mask : BitVec 4) (n : Nat) : Nat := if bit mask (n / 24) then imgRole b n else s.role n

/-- The core would count in the limit of R30: quarantined, or lent and sitting in a quadrant of the mask. An idle core counts in no
limit (R366), and a core that waits for its first test is out of service, not quarantined (R382). -/
def State.countsSubst (s : State) (b : List Byte) (mask : BitVec 4) (k : Nat) : Bool :=
  let q := (vget 0#8 (imgCoreVec b) k).toNat
  let c := s.coreN k
  let idle := (quadRange q).all fun n => s.roleAfter b mask n == 0 || decide (4 < s.roleAfter b mask n)
  !idle && ((c.state != .inService && c.cause != 0) || (q != k / 18 && bit mask (k / 18)))

/-- The code with which APPLY(mask) of an image is refused. -/
def State.applyRefused (s : State) (b : List Byte) (mask : BitVec 4) : Option Byte :=
  if mask = 0 then some 0x0C
  else if mask ≠ 0xF ∧ !s.commonSame b mask then some 0x0A
  else if mask ≠ 0xF ∧ !(List.range 72).all (s.coreMoves b mask) then some 0x11
  else if !([0, 1, 2, 3].all fun q => !bit mask q || s.isOn (dQuad q)) then some 0x0F
  else if 8 < ((List.range 72).filter (s.countsSubst b mask)).length then some 0x0B
  else none

/-! ### The dark window (R53, R557) -/

/-- A pending swap of quadrant q is cancelled (R557). -/
def State.cancelSwap (s : State) (q : Nat) : State :=
  { s with stw := vmod s.stw q fun x => if x.swap = .none then x else { x with swap := .none, err := 4 } }

/-- Quadrant q goes dark: no new burst on its line lanes, the frames of its trough bank that no burst in progress holds are discarded,
and its line lanes time no SDH transmitter (R53, R184, R256). -/
def State.darken (s : State) (q : Nat) : State :=
  let s := (s.quadLines q).foldl (fun s n => (s.discardBursts n).sdhTiming n false) s
  (s.quadDiscard q).cancelSwap q

/-- The quadrants of a mask. -/
def maskQuads (mask : BitVec 4) : List Nat := [0, 1, 2, 3].filter fun q => bit mask q

/-- The dark window of a mask begins. -/
def State.darkWindow (s : State) (mask : BitVec 4) : State :=
  let s := s.modStr fun x => { x with dark := mask }
  ((maskQuads mask).foldl State.darken s).powerSettle

/-- A slot of a restage has passed VERIFY: its apply begins unless R48 refuses it (R590). -/
def State.autoApply (s : State) (b : List Byte) (mask : BitVec 4) : State :=
  match s.applyRefused b mask with
  | some e => (s.loaderFail e).powerSettle
  | none => (s.modStr fun x => { x with busy := some (.reapply mask) }).darkWindow mask

/-- A slot that the loader tries by itself has passed VERIFY. The boot apply waits in VERIFIED for its APPLY (R551). -/
def State.autoPassed (s : State) (r : AutoRun) (b : List Byte) : State :=
  let s := s.modStr fun x => { x with matchMask := s.matchOf b }
  if r.boot then
    let s := s.modStr fun x => { x with state := .verified, busy := none }
    { s with sys := { s.sys with slotFallback := r.second } }
  else s.autoApply b r.mask

/-- VERIFY_DONE. -/
def execVerifyDone (s : State) : Res :=
  .next (
    match s.str.busy with
    | some .verify =>
      let b := s.str.staging.getD []
      match judgeImage s.vault b, s.str.auto with
      | none, none => s.strDone fun x => { x with state := .verified, matchMask := s.matchOf b }
      | some e, none => s.loaderFail e
      | none, some r => s.autoPassed r b
      | some e, some r => (s.modStr fun x => { x with state := if r.boot then .failed else x.state }).autoNext r e
    | _ => s)

/-- APPLY. -/
def State.apply (s : State) (mask : BitVec 4) : State :=
  s.strCmd fun s =>
    if s.str.state ≠ .verified ∧ s.str.state ≠ .applied then s.strErr 0x0C
    else
      match s.applyRefused (s.str.staging.getD []) mask with
      | some e => s.strErr e
      | none => (s.modStr fun x => { x with state := .applying, err := 0, busy := some (.apply mask) }).darkWindow mask
def execApply (p : Port) (mask : BitVec 4) (s : State) : Res := .next (s.writeIsl p (base 1) fun s => s.apply mask)

/-! ### The readback (R55, R282) -/

/-- Roles of 8 lanes in the format of STR_ROLE_n (R62). -/
def roleWord (r : Nat → Nat) : W32 := (List.range 8).foldl (fun (w : W32) k => w ||| atN (4 * k) 4 (r k)) 0

/-- Four bytes as an item. -/
def itemAt (bs : List Byte) (i : Nat) : W32 := BitVec.ofNat 32 (leAt bs (4 * i) 4)

/-- Item 0x020 + f: the placement of key field f (R282). -/
def placeItem (ops : List (List Byte)) (q f : Nat) : W32 :=
  let v := Config.keyPlace ops q f
  at' 0 (fld v 0 10) ||| atN 16 8 (if bit v 10 then keyWidth f else 0)

/-- An item of quadrant scope q. -/
def RunQuad.item (r : RunQuad) (q i : Nat) : W32 :=
  if i < 3 then roleWord fun k => (fld (byteAt r.roles (8 * i + k)) 0 3).toNat
  else if 0x10 ≤ i ∧ i < 0x18 then itemAt r.sizing (i - 0x10)
  else if 0x20 ≤ i ∧ i < 0x40 then placeItem r.opaques q (i - 0x20)
  else if 0x40 ≤ i ∧ i < 0x200 then Config.readback r.opaques q i
  else 0

/-- The running image gives the item of the die-common scope. R55 gives no bit order for the clock codes and the core assignment: the lowest
index lies in bits 7 to 0, one byte each, DESIGN CHOICE (notes/assumptions/105.md). -/
def State.commonItem (s : State) (c : RunCommon) (i : Nat) : W32 :=
  let clk (k : Nat) : Byte :=
    match vget none s.str.run (k % 4) with
    | some r => if k < 4 then r.clkQuad else if k < 8 then r.clkCores else if k = 8 then c.clkTables else 0
    | none => 0
  if i < 4 then itemAt c.partition i
  else if 0x10 ≤ i ∧ i < 0x50 then
    let r := bytesAt c.regions (16 * ((i - 0x10) / 4)) 16
    let f := (i - 0x10) % 4
    BitVec.ofNat 32 (if f = 0 then leAt r 0 1 else if f = 1 then leAt r 1 1 else if f = 2 then leAt r 4 4 else leAt r 8 4)
  else if 0x50 ≤ i ∧ i < 0x53 then itemAt ((List.range 12).map fun k => if k < 9 then clk k else 0) (i - 0x50)
  else if 0x60 ≤ i ∧ i < 0x72 then itemAt s.str.cores.toList (i - 0x60)
  else 0

/-- Readback item i of a scope. -/
def State.rbItem (s : State) (scope i : Nat) : W32 :=
  if scope < 4 then
    match vget none s.str.run scope with
    | some r => r.item scope i
    | none => 0
  else if scope = 7 then
    match s.str.common with
    | some c => s.commonItem c i
    | none => 0
  else 0

/-- The digest of a scope (R56). -/
def State.rbDigestOf (s : State) (scope : Nat) : List Byte :=
  sha384 ((List.range 1024).flatMap fun i => leBytes 4 (s.rbItem scope i).toNat)

/-! ### What an apply leaves (R54) -/

/-- The registers of lane n whose role has changed return to their reset values; conditions of its sources end (R54). -/
def State.laneAfresh (s : State) (n : LaneId) : State :=
  let s := (List.range 8).foldl (fun s k => s.endCond (laneEv n k)) s
  s.modLane n fun l =>
    let cal : W32 := vget 0 s.vault.cal n.val
    { ts := { rxDelay := fld cal 0 16, txDelay := fld cal 16 16
              repBase := l.ts.repBase, repAt := l.ts.repAt, repIncr := l.ts.repIncr, repState := l.ts.repState, repValid := l.ts.repValid } }

/-- Lane n starts from priming; a line lane that has just become one starts its activation (R54, R68, R143). -/
def State.laneRestart (s : State) (changed : Bool) (n : LaneId) : State :=
  let s := if changed then s.laneAfresh n else s
  let s := if s.isOn (dRx n.val) || s.isRetained (dRx n.val) then s.rxSeed n else s
  let s := if s.isEth n.val then s.ethDown n else s
  let s := if s.isHostBond n.val && s.linkHead n == n then s.hbOffer n none else s
  let s := if !s.isSdh n.val then s else if changed then s.pmStart n else s.modSdh n fun x => { x with pm := x.pm.map PmPoint.spoil }
  if s.isLine n.val && changed then s.freshAct n 0 else s

/-- HOST votes of the lanes of an applied quadrant (R533). -/
def State.loaderVotes (s : State) (q : Nat) : State :=
  { s with pwr := { s.pwr with voteHost := (quadLanes q).foldl (fun v n =>
      let on := decide (2 ≤ s.role n.val ∧ s.role n.val ≤ 4)
      setBit (setBit v (dRx n.val) on) (dTx n.val) on) s.pwr.voteHost } }

/-- Bridge and flow entries whose port lies in a quadrant of the mask are removed (R54, R325). -/
def State.flushQuads (s : State) (mask : BitVec 4) : State :=
  let p (b : Byte) : Bool := decide (b.toNat < 96) && bit mask (b.toNat / 24)
  { s with tbl := (s.tbl.setHash false (flushPorts s.tbl.bridge p true)).setHash true (flushPorts s.tbl.flow p true) }

/-- A bridge and flow split other than the last one gives every entry that stays its place anew; one that finds no room, or whose key a BAD
entry does not tell, is lost (R306, notes/assumptions/102.md). -/
def State.replaceEntries (s : State) (old : Nat) : State :=
  if s.partWord 0 = old then s
  else
    let again (s : State) (flow : Bool) : State :=
      let x := (endMoves (s.tbl.hash flow)).foldl
        (fun a p => if p.2.bad then a else ((placeEntry flow (s.buckets flow) a p.2).map (·.1)).getD a) []
      { s with tbl := s.tbl.setHash flow x }
    again (again s false) true

/-- A mask of 0xF discards the contents of every region; a device in maintenance is left out of service (R461). -/
def State.regionsLost (s : State) : State :=
  let s := s.buffersLost
  let wipe (x : LpmFam) : LpmFam := { x with copy0 := {}, copy1 := {} }
  let s : State := { s with tbl := (s.tbl.modFam false wipe).modFam true wipe }
  let m := s.cst.mode
  if m = .draining ∨ m = .retraining ∨ m = .restoring then
    (s.modCst fun c => { c with copied := false, retiring := false, trained := setBit c.trained c.dev.toNat false }).cstEnter .degraded
  else s

/-- Quadrant q returns to reset values, its steward on the bank that was running (R54, R557). -/
def State.quadApply (s : State) (q : Nat) : State :=
  let x : Steward := vget {} s.stw q
  let s := s.quadReset q
  { s with stw := vset s.stw q { runBank := x.runBank, altValid := x.altValid, bank := x.bank } }

/-- The image's parts take effect in the quadrants of a mask. -/
def State.install (s : State) (b : List Byte) (mask : BitVec 4) : State :=
  s.modStr fun x => { x with
    run := Vector.ofFn fun q : Fin 4 => if bit mask q.val then some (imgQuad b q.val) else x.run[q.val]
    common := some (imgCommon b)
    cores := imgCoreVec b
    roles := Vector.ofFn fun n : Fin 96 => if bit mask (n.val / 24) then byteAt (imgRoles b) n.val else x.roles[n.val] }

/-- The readback digests of the scopes that an apply covers (R56). The spec does not say whether a partial mask covers scope 7: every apply
installs the die-common sections, so its digest is always updated, DESIGN CHOICE (notes/assumptions/107.md). -/
def State.digests (s : State) (mask : BitVec 4) : State :=
  s.modStr fun x => { x with rbDigest := Vector.ofFn fun i : Fin 5 =>
    if i.val = 4 then s.rbDigestOf 7 else if bit mask i.val then s.rbDigestOf i.val else x.rbDigest[i.val] }

/-- SDH transmitters follow the TIMING_LANE that the image names: its lock, or, once one has been followed, its loss (R256). -/
def State.timeSdh (s : State) (mask : BitVec 4) : State :=
  (maskQuads mask).foldl (fun s q =>
    let t := s.timingLane q
    let locked := if h : t < 96 then (s.lane ⟨t, h⟩).com.cdrLock else false
    s.modSdhQuad q (·.timed locked)) s

/-- The lanes of a mask, each with whether its role has changed. -/
def State.applyLanes (s : State) (b : List Byte) (mask : BitVec 4) : List (LaneId × Bool) :=
  ((List.finRange 96).filter fun n => bit mask (n.val / 24)).map fun n => (n, s.role n.val != imgRole b n.val)

/-- An apply completes (R53, R54, R533, R549). -/
def State.applied (s : State) (b : List Byte) (mask : BitVec 4) (us : W32) : State :=
  let lanes := s.applyLanes b mask
  let split := s.partWord 0
  let s := (maskQuads mask).foldl State.quadApply s
  let s := if mask = 0xF then s.regionsLost else s
  let s := (s.install b mask).modStr fun x => { x with dark := 0, lastApplyUs := us, busy := none }
  let s := lanes.foldl (fun s x => s.laneRestart x.2 x.1) s
  -- a host table command in progress completes before the flush (R557)
  let s := (((s.timeSdh mask).tblDone []).flushQuads mask).replaceEntries split
  let s := (maskQuads mask).foldl State.loaderVotes s
  let s := lanes.foldl (fun s x => s.judgeVcats x.1) (s.digests mask)
  let s : State := { s with pwr := { s.pwr with policyBoot := false, runSet := s.computeRunSet } }
  s.resubst.powerSettle

/-- The loader is COMMITTED without a COMMIT: by the boot apply, or by an ABANDON that restages (R46, R51). -/
def Loader.committed (x : Loader) : Loader := { x with state := .committed, appliedMask := 0, matchMask := 0xF, auto := none }

/-- The floor is raised to the level of the applied image where that image is the committed one (R50). -/
def State.raiseFloor (s : State) (b : List Byte) : State :=
  if s.commitSlot.map slotSrc = some s.str.stagedFrom ∧ s.vault.floor.toNat < (imgLevel b).toNat then
    s.modVault fun v => { v with floor := imgLevel b }
  else s

/-- The boot apply has completed (R50, R51, R558). -/
def State.bootApplied (s : State) (b : List Byte) : State :=
  let s := s.modStr fun x =>
    { x.committed with bootSlotB := if s.vault.commit.isNone then some (x.stagedFrom == .slotB) else x.bootSlotB }
  let s := s.raiseFloor b
  State.bootDone { s with sys := { s.sys with imageOk := true } }

/-- APPLY_DONE: the apply has taken us microseconds. -/
def execApplyDone (us : W32) (s : State) : Res :=
  .next (
    match s.str.busy with
    | some (.apply mask) =>
      let b := s.str.staging.getD []
      let boot := s.str.auto.isSome
      let s := s.applied b mask us
      (if boot then s.bootApplied b
       else s.modStr fun x => { x with state := .applied, appliedMask := x.appliedMask ||| mask }).report 920 1
    | _ => s)

/-- APPLY_FAIL: domain QD_q has left ON or failed power-good; an apply that does not cover q goes on. -/
def execApplyFail (q : QuadId) (s : State) : Res := .next (s.applyBroken q.val).powerSettle

/-! ### COMMIT (R49) -/

/-- COMMIT. -/
def State.commit (s : State) : State :=
  s.strCmd fun s =>
    let x := s.str
    if x.state = .applied then
      if x.appliedMask ||| x.matchMask = 0xF then s.modStr fun x => { x with err := 0, busy := some .commit } else s.strErr 0x13
    else if x.state = .verified ∧ x.matchMask = 0xF then s.modStr fun x => { x with err := 0, busy := some .commit }
    else s.strErr 0x0C
def execCommit (p : Port) (s : State) : Res := .next (s.writeIsl p (base 1) State.commit)

/-- The staged image is already held in the slot from which it came, or to which an earlier COMMIT copied it. -/
def State.heldSlot (s : State) : Option Bool :=
  match s.str.stagedFrom with
  | .slotA => if s.vault.imageA = s.str.staging then some false else none
  | .slotB => if s.vault.imageB = s.str.staging then some true else none
  | .host => none

/-- The slot that takes a copy: the one that does not hold the committed image, A where there is none. -/
def State.copySlot (s : State) : Bool :=
  match s.commitSlot with
  | some b => !b
  | none => false

/-- A vault write of COMMIT fails: ERR 0x10, the state as it was. -/
def State.commitFails (s : State) : State := s.vaultFail.strFail 0x10

/-- Step 1 done: the image stands in a slot. -/
def State.copied (s : State) (slot : Bool) : State :=
  (s.modVault fun v => v.putImage slot s.str.staging).modStr fun x => { x with stagedFrom := slotSrc slot }

/-- Steps 2 and 3. -/
def State.commitWord (s : State) (slot : Bool) (res : CommitResult) : State :=
  if res = .wordFails then s.commitFails
  else
    let b := s.str.staging.getD []
    let s := s.modVault fun v => { v with commit := some { slotB := slot, serial := imgSerial b, digest := BitVec.ofNat 64 (beAt (imgDigest b) 0 8) } }
    let raise := decide (s.vault.floor.toNat < (imgLevel b).toNat)
    if raise && res == .floorFails then s.commitFails
    else
      let s := if raise then s.modVault fun v => { v with floor := imgLevel b } else s
      s.strDone fun x => { x with state := .committed, appliedMask := 0, matchMask := 0xF }

/-- COMMIT_DONE: which step failed, if one did. A copy that fails leaves its slot with contents that nothing states. -/
def execCommitDone (res : CommitResult) (s : State) : Res :=
  .next (
    match s.str.busy with
    | some .commit =>
      match s.heldSlot with
      | some slot => s.commitWord slot res
      | none =>
        let slot := s.copySlot
        if res = .copyFails then
          (s.modVault fun v => v.putImage slot (some (Config.freeBytes s.freeIdx))).tookFree.commitFails
        else (s.copied slot).commitWord slot res
    | _ => s)

/-! ### ABANDON (R46, R590) -/

/-- An image runs. -/
def Loader.runs (x : Loader) : Bool := x.run.toList.any (·.isSome)

/-- ABANDON: with a restage the slots are tried in the order of the boot apply. -/
def State.abandonCmd (s : State) : State :=
  s.strCmd fun s =>
    let x := s.str
    if x.state = .applied ∨ (x.state = .failed ∧ x.dark ≠ 0) then
      (s.modStr fun x => { x with state := .applying }).autoLoad
        { boot := false, mask := x.appliedMask ||| x.dark, slotB := s.commitSlot.getD false, second := false }
    else if x.state = .staged ∨ x.state = .verified ∨ x.state = .failed then
      s.modStr fun x => { x with err := 0, busy := some .discard }
    else s.strErr 0x0C
def execAbandon (p : Port) (s : State) : Res := .next (s.writeIsl p (base 1) State.abandonCmd)

/-- ABANDON_DONE: the staging memory is empty, or the apply of a restage completes or fails. -/
def execAbandonDone (applyOk : Bool) (us : W32) (s : State) : Res :=
  .next (
    match s.str.busy with
    | some .discard => s.strDone fun x => { x.unstage with state := if x.runs then .committed else .empty }
    | some (.reapply mask) =>
      if applyOk then ((s.applied (s.str.staging.getD []) mask us).modStr Loader.committed).report 920 1
      else (s.loaderFail 0x0F).powerSettle
    | _ => s)

/-! ### Registers (R58 to R63) -/

/-- STR_CMD. -/
def State.strCmdWrite (s : State) (w : W32) : State :=
  let op := (fld w 0 4).toNat
  if op = 1 then s.load (fld w 4 2)
  else if op = 2 then s.verify
  else if op = 3 then s.apply (fld w 8 4)
  else if op = 4 then s.commit
  else if op = 5 then s.abandonCmd
  else s.strCmd fun s => s.strErr 0x0C

/-- STR_STATUS. Its reset value stands until the key island has read the vault (R60, R391). -/
def State.strStatus (s : State) : W32 :=
  let x := s.str
  at' 0 x.state.code ||| atB 3 x.isBusy ||| at' 8 x.err ||| at' 16 x.appliedMask ||| at' 20 x.dark |||
    at' 24 x.matchMask ||| atB 28 (s.key.ready && s.commitSlot.getD false)

/-- A read of the loader's block. STR_RB_DIGEST of a scope that no apply has covered reads 0: R58 gives it no reset value, DESIGN CHOICE
(notes/assumptions/6.md). -/
def State.strRead (s : State) (off : Nat) : W32 × State :=
  let x := s.str
  let scope := (fld x.rbSel 12 3).toNat
  (if off = 0x04 then s.strStatus
   else if off = 0x08 then fld x.hostAddr 0 32
   else if off = 0x0C then fld x.hostAddr 32 32
   else if off = 0x10 then x.hostLen
   else if off = 0x14 then (x.staging.map imgSerial).getD 0
   else if off = 0x18 then (if s.key.ready then s.commitSerial else 0)
   else if off = 0x1C then s.vault.floor
   else if off = 0x20 then x.lastApplyUs
   else if off = 0x24 then x.rbSel
   else if off = 0x28 then s.rbItem scope (fld x.rbSel 0 10).toNat
   else if 0x30 ≤ off ∧ off < 0x60 then
     (if scope < 4 then itemAt (vget [] x.rbDigest scope) ((off - 0x30) / 4)
      else if scope = 7 then itemAt (vget [] x.rbDigest 4) ((off - 0x30) / 4) else 0)
   else if 0x60 ≤ off ∧ off < 0x90 then roleWord fun k => s.role (8 * ((off - 0x60) / 4) + k)
   else 0, s)

/-- A write of the loader's block. -/
def State.strWrite (s : State) (off : Nat) (w : W32) : State :=
  if off = 0x00 then s.strCmdWrite w
  else if off = 0x08 then s.modStr fun x => { x with hostAddr := putFld x.hostAddr 0 (rw 0xFFFFFFC0 w) }
  else if off = 0x0C then s.modStr fun x => { x with hostAddr := putFld x.hostAddr 32 w }
  else if off = 0x10 then s.modStr fun x => { x with hostLen := w }
  else if off = 0x24 then s.modStr fun x => { x with rbSel := rw 0x73FF w }
  else s

end Sys2Proof.Machine
end

