-- ==== Sys2Proof/Machine/Boot.lean ====
section
/-!
DEFINITION. Power-up, reset and the boot sequence (R50, R391, R548 to R552, R558, R565, R575).
-/
namespace Sys2Proof.Machine

/-- The stewards start on the committed firmware, or on the factory's (R165, R548). -/
def State.startStewards (s : State) : State :=
  { s with stw := Vector.ofFn fun q : Fin 4 => s.freshSteward q.val, sys := { s.sys with fwStarted := true } }

/-- SYS_BOOT_STATUS.FW_FACTORY: the stewards that run factory firmware. -/
def State.fwFactory (s : State) : BitVec 4 :=
  [0, 1, 2, 3].foldl (fun w q =>
    let x : Steward := vget {} s.stw q
    setBit w q (s.sys.fwStarted && (x.image x.runBank).isNone)) 0

/-- The lanes at their reset values, with the factory delays of the vault (R432). -/
def Vault.lanes (v : Vault) : Vector Lane 96 :=
  Vector.ofFn fun n : Fin 96 =>
    let c : W32 := vget 0 v.cal n.val
    { ts := { rxDelay := fld c 0 16, txDelay := fld c 16 16 } }

/-- The whole terminal at its reset values. The vault, the levels of the pins, the RTC, and the mappings of spare rows stay (R50, R324,
R408, R413, R538), and with them what is the model's own: outputs, free values taken, model time and the waiting commands. -/
def State.toReset (s : State) : State :=
  let d : State := State.reset
  { d with
    vault := s.vault
    pins := s.pins
    pwr := { d.pwr with rtc := s.pwr.rtc, rtcFrac := s.pwr.rtcFrac, rtcLoad := s.pwr.rtcLoad }
    tbl := { d.tbl with spares := s.tbl.spares }
    key := { d.key with zeroNLow := s.key.zeroNLow }
    lanes := s.vault.lanes
    sys := { d.sys with resetAt := s.now }
    out := s.out, freeIdx := s.freeIdx, now := s.now, pending := s.pending }

/-- A monotonic counter of the vault is raised: past its largest value the raise is refused with event 1005 (R415). -/
def State.raisePowerCycles (s : State) : State :=
  if s.vault.powerCycles = BitVec.allOnes 32 then s.report 1005 2 [2#8]
  else s.modVault fun v => { v with powerCycles := v.powerCycles + 1 }

/-- POWER_UP: the rails have risen in order; the terminal waits in reset for RESET_N (R538, R575). -/
def execPowerUp (s : State) : Res :=
  .next (
    if s.pins.powered then s
    else
      let s := s.toReset
      let s : State := { s with
        pins := { s.pins with powered := true, released := false }
        pwr := { s.pwr with rtc := 0, rtcFrac := 0, rtcLoad := none }
        tbl := {} }
      s.raisePowerCycles)

/-- RAIL_UNDERVOLT: every island is held in reset (R575). -/
def execRailUndervolt (s : State) : Res :=
  .next (
    let s := s.toReset
    { s with pins := { s.pins with powered := false, released := false } })

/-- RESET: RESET_N rises and the straps are sampled (R50, R548). Under source 01 no boot apply follows. -/
def execReset (straps : BitVec 2) (s : State) : Res :=
  .next (
    if !s.pins.powered then s
    else
      let s := s.toReset
      let s : State := { s with pins := { s.pins with released := true }, sys := { s.sys with src := straps, hold := straps == 3 } }
      if straps = 1 then s.startStewards.bootDone else s)

/-- SYS_BOOT_CTL written: GO ends the hold of source 11 (R548). -/
def State.bootCtl (s : State) (w : W32) : State :=
  if bit w 0 && s.sys.hold then State.powerSettle { s with sys := { s.sys with hold := false } } else s

/-- BOOT_GO. -/
def execBootGo (p : Port) (s : State) : Res := .next (s.writeIsl p 0x4004 fun s => s.bootCtl 1)

/-- KEY_READY: every LOADED slot has been read and the master generator is instantiated (R391). -/
def execKeyReady (s : State) : Res :=
  .next (
    if s.key.ready ∨ s.sys.vaultFail ∨ !s.pins.released then s
    else s.drbgStart.modKey fun k => { k with
      ready := true
      copies := Vector.ofFn fun i : Fin 16 =>
        let x := s.vault.slots[i.val]
        if x.state = .loaded then { key := some x.key, gen := x.gen } else {} })

/-- A boot apply is due and has not begun: boot source 00 or 10, or 11 after GO. -/
def State.bootDue (s : State) : Bool :=
  s.pins.released && s.sys.src != 1 && !s.sys.hold && !s.sys.done && !s.str.isBusy

/-- The boot sequence ends without an image: the loader is FAILED with the code of the last failure (R51, R552). -/
def State.bootFails (s : State) (e : Byte) : State :=
  (s.modStr fun x => { x with state := .failed, err := e }).bootDone.report 921 3 [e]

/-- VAULT_LINK_TIMEOUT (R552). -/
def execVaultLinkTimeout (s : State) : Res :=
  .next (
    if s.key.ready ∨ s.sys.vaultFail ∨ !s.pins.released then s
    else
      let s := State.vaultFail { s with sys := { s.sys with vaultFail := true } }
      if s.bootDue then s.startStewards.bootFails 0x0E else s)

/-- What the APPLY of the boot waits for: the end of the cistern's training, and each QD_q to be ON or to have missed power-good
(R551, R552). -/
def State.bootReady (s : State) : Bool :=
  s.cst.mode != .training && (List.range 4).all fun q => s.isOn (dQuad q) || bit s.pwr.fault (dQuad q)

/-- The APPLY of the boot, once a slot has passed VERIFY: refused under R48 it leaves the loader VERIFIED, and the boot ends. -/
def State.bootApply (s : State) : State :=
  match s.applyRefused (s.str.staging.getD []) 0xF with
  | some e => (s.modStr fun x => { x with err := e, auto := none }).bootDone
  | none => (s.modStr fun x => { x with state := .applying, err := 0, busy := some (.apply 0xF) }).darkWindow 0xF

/-- BOOT_APPLY: the boot apply begins with the LOAD of its first slot once the keys are there or the vault link has failed; after a
VERIFY that passes, its APPLY with mask 0xF begins. -/
def execBootApply (s : State) : Res :=
  .next (
    if s.bootDue then
      if s.key.ready || s.sys.vaultFail then
        s.startStewards.autoLoad { boot := true, mask := 0xF, slotB := s.commitSlot.getD false, second := false }
      else s
    else if s.str.auto.any (·.boot) && s.str.state == .verified && s.bootReady then s.bootApply
    else s)

end Sys2Proof.Machine
end

