-- ==== Sys2Proof/Machine/Clock.lean ====
section
/-!
DEFINITION. Commands of the count, replicas, calibration of a timestamp point, the transmit timestamp queue, comparators and PPS_OUT
(R426 to R435, R444 to R446).
-/
namespace Sys2Proof.Machine

def State.modTim (s : State) (f : Time → Time) : State := { s with tim := f s.tim }
def State.modTs (s : State) (n : LaneId) (f : LaneTs → LaneTs) : State := s.modLane n fun l => { l with ts := f l.ts }

/-! ### Steps (R428, R268) -/

/-- The count is set or stepped to v; current performance bins become incomplete. -/
def State.stepTo (s : State) (v : BitVec 96) : State := (s.putCount v).pmIncomplete
def State.stepBy (s : State) (d : Int) : State := (s.stepCount d).pmIncomplete

/-! ### TIM_CMD (R428, R438) -/

def State.timErr (s : State) (e : BitVec 4) : State := s.modTim fun t => { t with err := e }

/-- REF_LANE where it is a line lane. -/
def State.refLaneId (s : State) : Option LaneId :=
  if h : s.tim.refLane < 96 then (if s.isLine s.tim.refLane then some ⟨s.tim.refLane, h⟩ else none) else none

/-- SET. -/
def State.timSet (s : State) : State :=
  ((s.timErr 0).stepTo (s.tim.arg ++ 0#32)).modTim fun t => { t with timeSet := true }

/-- STEP: the signed argument in nanoseconds. -/
def State.timStep (s : State) : State :=
  if s.tim.srcField ≠ 0 then s.timErr 5 else (s.timErr 0).stepBy (s.tim.arg.toInt * nsUnit)

/-- SLEW: a new one replaces what is left of the last. -/
def State.timSlew (s : State) (ppm : BitVec 8) : State :=
  if s.tim.srcField ≠ 0 then s.timErr 5
  else (s.timErr 0).modTim fun t => { t with slew := t.arg.toInt * nsUnit, slewPpm := max 1 ppm.toNat }

/-- TOD. -/
def State.timTod (s : State) : State :=
  if s.tim.srcField ≠ 1 then s.timErr 5
  else
    match s.refLaneId with
    | none => s.timErr 3
    | some n =>
      let ahead := (s.tim.todSfc - (s.lane n).ds.sfc).toNat
      if !s.inSync n || ahead == 0 || decide (2 ^ 20 < ahead) then s.timErr 3
      else (s.timErr 0).modTim fun t => { t with todArmed := true, latchTod := t.arg, latchN := t.todSfc }

/-- A command of TIM_CMD. -/
def State.timCmd (s : State) (op : Nat) (ppm : BitVec 8) : State :=
  match op with
  | 1 => s.timSet
  | 2 => s.timStep
  | 3 => s.timSlew ppm
  | 4 => s.timTod
  | 5 => (s.timErr 0).disarmTod
  | _ => s.timErr 6

def State.timCmdAt (s : State) (p : Port) (op : Nat) (ppm : BitVec 8 := 0) : State := s.writeIsl p (base 6 + 8) fun s => s.timCmd op ppm

def execSet (p : Port) (s : State) : Res := .next (s.timCmdAt p 1)
def execStep (p : Port) (s : State) : Res := .next (s.timCmdAt p 2)
def execSlew (p : Port) (ppm : BitVec 8) (s : State) : Res := .next (s.timCmdAt p 3 ppm)
def execTod (p : Port) (s : State) : Res := .next (s.timCmdAt p 4)
def execTodCancel (p : Port) (s : State) : Res := .next (s.timCmdAt p 5)

/-! ### The increment and the count (R426, R427) -/

/-- A write of TIM_INCR_HI. In PRIMING with SRC 0 it leads to HOST (R441). -/
def State.incrWrite (s : State) (w : W32) : State :=
  let v : BitVec 40 := fld w 0 8 ++ s.tim.incrLo
  if s.tim.srcField ≠ 0 then s.timErr 5
  else if v.toNat < incrMin ∨ incrMax < v.toNat then s.timErr 2
  else (s.setIncr v).modTim fun t => if t.state = .priming then { t with state := .host, noRate := false } else t

/-- TIM_INCR_WRITE. -/
def execTimIncrWrite (p : Port) (w : W32) (s : State) : Res := .next (s.writeIsl p (base 6 + 0x14) fun s => s.incrWrite w)

/-- A read of TIM_NOW_LO. -/
def State.nowRead (s : State) (p : Port) : W32 × State :=
  let c := s.tim.count
  (fld c 32 32, (s.latch p (base 6 + 0x24) (fld c 64 32)).latch p (base 6 + 0x28) (fld c 0 32))
def execTimNowRead (p : Port) (s : State) : Res := .next (s.readIsl p (base 6 + 0x20) fun s => s.nowRead p)

/-! ### Replicas (R429) -/

/-- The update of a replica. -/
def Time.replicate (t : Time) (now : Nat) (x : LaneTs) : LaneTs :=
  { x with stale := false, repBase := t.count, repAt := now, repIncr := t.incr, repState := t.state.code, repValid := t.valid }

/-- REPLICA_UPDATE: 64 ticks have passed. A stale replica is so no more, and the condition of its event ends (R429, R497). -/
def execReplicaUpdate (s : State) : Res :=
  .next (if s.isOn dTim && s.clocked then
      let stale := (List.finRange 96).filter fun n => (s.lane n).ts.stale && s.isLine n.val
      stale.foldl (fun s n => s.endCond (laneEv n 7)) { s with lanes := s.lanes.map fun l => { l with ts := s.tim.replicate s.now l.ts } }
    else s)

/-- REPLICA_STALE: the replica of lane n has missed 16 updates in a row. -/
def execReplicaStale (n : LaneId) (s : State) : Res :=
  .next (
    let was := (s.lane n).ts.stale
    (s.modTs n fun x => { x with stale := true }).reportIf (!was && s.isLine n.val) (laneEv n 7) 2 [2#8])

/-! ### Calibration (R432, R451) -/

/-- CAL. -/
def State.tsCal (s : State) (n : LaneId) : State :=
  let ok := (s.role n.val == 0 || (s.lane n).com.genEn) && s.isOn (dRx n.val) && s.isOn (dTx n.val)
  s.modTs n fun x => if ok then { x with calBusy := true } else { x with calFail := true }
def execTsCal (p : Port) (n : LaneId) (s : State) : Res := .next (s.writeLane p n 0x6000 .common fun s => s.tsCal n)

/-- A result lies within 2 UI of the factory value. -/
def near (a b : BitVec 16) : Bool := decide (a.toNat ≤ b.toNat + 32 ∧ b.toNat ≤ a.toNat + 32)

/-- TS_CAL_DONE: the delays measured. The transmitter sends again what it sent before (R432). -/
def execTsCalDone (n : LaneId) (rx tx : BitVec 16) (s : State) : Res :=
  .next (
    if (s.lane n).ts.calBusy then
      let f := s.vault.cal[n.val]
      (s.modTs n fun x =>
        if near rx (fld f 0 16) && near tx (fld f 16 16) then { x with calBusy := false, rxDelay := rx, txDelay := tx }
        else { x with calBusy := false, calFail := true }).txBegins n
    else s)

/-- The kind of a role's LN_TS_ASYM_n: line lanes only (R437). -/
def State.tsRead (s : State) (n : LaneId) (off : Nat) : W32 :=
  let x := (s.lane n).ts
  if off = 0x6004 then atB 0 x.calBusy ||| atB 1 x.calFail ||| atB 2 x.stale
  else if off = 0x6008 then at' 0 x.rxDelay ||| at' 16 x.txDelay
  else if off = 0x600C then (if s.isLine n.val then x.asym else 0)
  else 0

def State.tsWrite (s : State) (n : LaneId) (off : Nat) (w : W32) : State :=
  if off = 0x6000 then (if bit w 0 then s.tsCal n else s)
  else if off = 0x6004 then s.modTs n fun x => { x with calFail := w1cB x.calFail w 1 }
  else if off = 0x6008 then s.modTs n fun x => { x with rxDelay := fld w 0 16, txDelay := fld w 16 16 }
  else if off = 0x600C then (if s.isLine n.val then s.modTs n fun x => { x with asym := w } else s)
  else s

/-! ### The transmit timestamp queue (R434, R435) -/

/-- A transmit stamp enters the queue, or is discarded. -/
def State.txqPush (s : State) (e : TxStamp) : State :=
  if s.tim.txq.length < 64 then s.modTim fun t => { t with txq := t.txq ++ [e] }
  else
    let was := s.tim.txqOvf
    (s.modTim fun t => { t with txqOvf := true, txqDrops := satAdd t.txqDrops 1 }).reportIf (!was) 1010 1

/-- The queue of lane n in which a frame with a stamp request of this tag begins to leave in a burst in SERVING. -/
def State.leaving (s : State) (n : LaneId) (tag : BitVec 16) : Option Nat :=
  ((s.lane n).pump.bursts.filter fun b => b.state == .serving).findSome? fun b => b.filled.findSome? fun f => f.pieces.findSome? fun p =>
    match p with
    | .frame j off .. =>
      if off = 0 ∧ (((s.tm (quadOf n.val) false).queue j).frames.any fun e => e.frame.txTag == some tag && decide (e.sent = 0 ∧ 0 < e.chosen)) then
        some j
      else none
    | .idle _ => none

/-- The stamp request of a tag is taken from the frames of lane n that have left, or from the one that is leaving; none where no such
frame asks for a stamp (R430). -/
def State.takeTag (s : State) (n : LaneId) (tag : BitVec 16) : Option State :=
  if (s.lane n).ts.tags.contains tag then some (s.modTs n fun x => { x with tags := x.tags.erase tag })
  else
    (s.leaving n tag).map fun j => s.modTm (quadOf n.val) false fun t => t.modQueue j fun x => { x with
      frames := x.frames.map fun e => if e.frame.txTag == some tag then { e with frame := { e.frame with txTag := none } } else e }

/-- TX_STAMP: a frame injected with a stamp request and this tag has passed the stamp point of lane n (R430). The queue takes no stamp while
the time island is not ON (R435). -/
def execTxStamp (n : LaneId) (tag : BitVec 16) (s : State) : Res :=
  .next (
    match (if s.isLine n.val || s.isEth n.val then s.takeTag n tag else none) with
    | some t => if s.isOn dTim then t.txqPush { tag := tag, lane := BitVec.ofNat 7 n.val, stamp := s.txStamp n } else t
    | none => s)

/-- The first word of an entry. -/
def TxStamp.word0 (e : TxStamp) : W32 :=
  at' 0 e.tag ||| at' 16 e.lane ||| atB 23 true ||| at' 24 e.stamp.state ||| atB 27 e.stamp.valid ||| atB 28 e.stamp.stale

/-- A read of TIM_TXQ_0. -/
def State.txqRead (s : State) (p : Port) : W32 × State :=
  let put (s : State) (ns : W64) (frac : W32) : State :=
    ((s.latch p (base 6 + 0x84) (fld ns 0 32)).latch p (base 6 + 0x88) (fld ns 32 32)).latch p (base 6 + 0x8C) frac
  match s.tim.txq with
  | [] => (0, put s 0 0)
  | e :: rest => (e.word0, put (s.modTim fun t => { t with txq := rest }) e.stamp.ns (e.stamp.frac.setWidth 32))
def execTxqRead (p : Port) (s : State) : Res := .next (s.readIsl p (base 6 + 0x80) fun s => s.txqRead p)

/-- A read of TIM_TXQ_DROPS clears it. -/
def State.txqDropsRead (s : State) : W32 × State := (s.tim.txqDrops, s.modTim fun t => { t with txqDrops := 0 })
def execTxqDropsRead (p : Port) (s : State) : Res := .next (s.readIsl p (base 6 + 0x94) State.txqDropsRead)

/-! ### Comparators (R444, R445) -/

def State.modCmp (s : State) (c : Nat) (f : Cmp → Cmp) : State := s.modTim fun t => { t with cmp := vmod t.cmp c f }

/-- ARM is written 1 at the count ns. -/
def Cmp.arm (c : Cmp) (ns : W64) : Cmp :=
  let d := (c.tgt - ns).toInt
  let c := { c with missed := 0, due := false }
  if d > 2 ^ 39 - 1 then { c with armed := false, refused := true }
  else { c with armed := true, target := fld c.tgt 0 40, due := decide (d ≤ 0) }
def execCmpArm (p : Port) (c : Fin 8) (s : State) : Res :=
  .next (s.writeIsl p (base 6 + 0x100 + 16 * c.val) fun s => s.modCmp c.val fun x => x.arm s.tim.ns)

/-- The count lies at or past the target. -/
def Cmp.reached (c : Cmp) (ns : W64) : Bool := c.due || decide (0 ≤ (fld ns 0 40 - c.target).toInt)

/-- Firing: the target advances past the count, or the comparator disarms. -/
def Cmp.fire (c : Cmp) (ns : W64) : Cmp :=
  if c.per = 0 then { c with fired := true, armed := false, due := false }
  else
    let k := (fld ns 0 40 - c.target).toNat / c.per.toNat + 1
    { c with fired := true, due := false, target := c.target + BitVec.ofNat 40 (k * c.per.toNat), missed := satAdd c.missed (k - 1) }

/-- CMP_FIRE. -/
def execCmpFire (c : Fin 8) (s : State) : Res :=
  .next (
    let x := s.tim.cmp[c.val]
    if s.isOn dTim ∧ x.armed ∧ x.reached s.tim.ns then (s.modCmp c.val fun x => x.fire s.tim.ns).report (1012 + c.val) 1 else s)

/-! ### PPS_OUT (R446) -/

/-- PPS_OUT_PULSE: the count has reached, by its ticks, a whole second plus TIM_PPS_OFS; a pulse that begins takes its WIDTH, 0 as 1. -/
def execPpsOutPulse (s : State) : Res :=
  .next (
    match (if s.isOn dTim then s.tim.ppsDue else none) with
    | some k =>
      let on := bit s.tim.ppsCtl 0 && (s.tim.valid || bit s.tim.ppsCtl 1)
      s.modTim fun t => { t with
        ppsDue := none, ppsOut := t.ppsOut || on
        ppsPhase := if on then k else t.ppsPhase, ppsWidth := if on then max 1 (fld t.ppsCtl 2 8).toNat else t.ppsWidth }
    | none => s)

/-- PPS_OUT_END. -/
def execPpsOutEnd (s : State) : Res := .next (s.modTim fun t => { t with ppsOut := false })

end Sys2Proof.Machine
end

