-- ==== Sys2Proof/Machine/Forward.lean ====
section
/-!
DEFINITION. Forwarding (R309 to R323): the lookups of a classified frame, learning, the frame's destination, flooding, and policing on the
way to the cipher cluster or the queues.
-/
namespace Sys2Proof.Machine

/-! ### Ends of a lookup -/

/-- The growth that egress protection will add to a frame (R345, R369). -/
def State.growthOf (s : State) (f : Frame) : Nat :=
  match f.act with
  | some a =>
    if a.cipherOp = 2 then
      match s.egressAssoc a.ctx with
      | some i => (s.assoc i).growth
      | none => 0
    else 0
  | none => 0

/-- A frame is policed, once (R345, R347): the frame with its colour, or none where it goes to the sump. -/
def State.policeFrame (s : State) (q : Nat) (f : Frame) : State × Option Frame :=
  if f.policed then (s, some f)
  else
    let (s, c, drop) := s.police q f (f.bytes.length + s.growthOf f)
    if drop then (s.dropFrame q 14 f, none) else (s, some { f with policed := true, colour := c })

/-- A frame leaves for the cipher cluster, where its action says so, or for its queue (R22, R361). -/
def State.sendOn (s : State) (q : Nat) (f : Frame) : State :=
  match f.act with
  | some a => if (a.cipherOp = 2 ∨ a.cipherOp = 3) ∧ !f.ciphered then s.toCipher q f else s.toEnqueue q f
  | none => s.toEnqueue q f

/-- Where a frame may not go: its ingress lane, a line lane or a spread domain downstream, a lane that is no line lane upstream, an SDH
lane, and a higher lane of a host-bond link (R311, R333). -/
def State.badLane (s : State) (f : Frame) (n : Nat) : Bool :=
  n == f.lane || (f.down == s.isLine n) || s.isSdh n ||
  (if h : n < 96 then s.isHostBond n && s.linkHead ⟨n, h⟩ != ⟨n, h⟩ else true)

/-- The hash of a flood that goes through the spread domain of its port's flood set (R313); another flood keeps the frame's. -/
def State.floodHash (s : State) (f : Frame) : W32 :=
  let fs : FloodSet := vget {} s.tbl.floods (fld (s.tbl.port f.lane).w0 24 4).toNat
  if !f.down && bit fs.w3 6 then s.hashIn (fld fs.w3 0 6).toNat f.hdr else f.hash

/-- What a frame's destination resolves to: the frames to send, or none where it goes to the sump with cause 11. Spread entries are read by
the hash given: the frame's own, or that of the decision that a later fragment takes (R295). -/
def State.resolve (s : State) (f : Frame) (hash : W32) : Dest → Option (List Frame)
  | .lane n => if s.badLane f n then none else some [{ f with dest := some n, spreadLane := none }]
  | .spread d =>
    if f.down then none
    else
      let b := s.spreadEntry d hash
      some [{ f with dest := some (fld b 0 7).toNat, spreadLane := some b, hash := hash }]
  | .flood =>
    let p := s.tbl.port f.lane
    let fs : FloodSet := vget {} s.tbl.floods (fld p.w0 24 4).toNat
    let g := { f with queue := none, spreadLane := none }
    if f.down then
      some ((maskLanes fs.mask).filterMap fun n =>
        if (s.isEth n.val || s.isHostBond n.val) && n.val != f.lane then some { g with dest := some n.val } else none)
    else if bit fs.w3 6 then
      let b := s.spreadEntry (fld fs.w3 0 6).toNat hash
      some [{ g with dest := some (fld b 0 7).toNat, spreadLane := some b, hash := hash }]
    else some ((maskLanes fs.mask).filterMap fun n => if s.isLine n.val then some { g with dest := some n.val } else none)

/-- A replica for a higher lane of a host-bond link goes to the sump (R333). -/
def State.sendReplica (s : State) (q : Nat) (f : Frame) : State :=
  match f.dest with
  | some n =>
    if f.spreadLane.isNone && s.badLane f n then s.dropFrame q 11 f else s.sendOn q f
  | none => s

/-- A frame whose destination is settled: checked, policed and sent on; a first fragment's decision is recorded unless the frame goes
to the sump (R294, R311, R313, R345). -/
def State.deliver (s : State) (q : Nat) (f : Frame) (d : Dest) (hash : W32) (dec : Option Decision) : State :=
  match s.resolve f hash d with
  | none => s.dropFrame q 11 f
  | some [] => s.dropFrame q 11 f
  | some fs =>
    match s.policeFrame q f with
    | (s, none) => s
    | (s, some g) =>
      let s := match dec with
        | some x => s.fragRecord f x
        | none => s
      let s : State := if d = .flood then { s with tbl := s.tbl.cntAdd 7 fs.length } else s
      fs.foldl (fun s r =>
        let r := { r with policed := true, colour := g.colour, recorded := dec.isSome && fs.length == 1 }
        if d = .flood then s.sendReplica q r else s.sendOn q r) s

/-- The terminal punts a frame (R300, R311, R313). -/
def State.puntHere (s : State) (q : Nat) (reason : Byte) (f : Frame) : State :=
  (s.punt q 2 reason f.rule f).fragRecord f (puntDecision f reason true)

/-! ### Opened tributary blocks (R262) -/

/-- The SDH lane whose valid entry has a receive context. -/
def State.rxLane (s : State) (ctx : W32) : Option LaneId :=
  (List.finRange 96).find? fun n => s.isSdh n.val &&
    (s.lane n).sdh.trib.toList.any fun e => bit e.w0 0 && e.rxCtx == ctx

/-- The SDH lane whose counter 12 counts a block that names no entry: the lowest of the quadrant that received it, else of the device.
The spec names no lane: DESIGN CHOICE (notes/assumptions/53.md). -/
def State.strayLane (s : State) (q : Nat) : Option LaneId :=
  let all := (List.finRange 96).filter fun n => s.isSdh n.val
  match all.find? fun n => n.val / 24 = q with
  | some n => some n
  | none => all.head?

/-- A block that names no entry: SDH counter 12, and cause 18 in that lane's quadrant (R262, R274, R299). -/
def State.dropStray (s : State) (q : Nat) (f : Frame) : State :=
  match s.strayLane q with
  | some n => (s.sdhCnt n 12).dropFrame (quadOf n.val) 18 f
  | none => s.dropFrame q 18 f

/-- An opened block goes to its SDH lane; one that names no entry is dropped. -/
def State.deliverOpened (s : State) (q : Nat) (f : Frame) : State :=
  let ctx := BitVec.ofNat 32 (beAt f.bytes f.hdr.blockAt 4)
  match (if f.down then s.rxLane ctx else none) with
  | none => s.dropStray q f
  | some n =>
    match f.act with
    | some a => match s.policeFrame q { f with
          policer := a.policer, tc := a.tc, queue := if a.queueEn then some a.queue else none, dest := some n.val, spreadLane := none } with
      | (s, some f) => s.toEnqueue q f
      | (s, none) => s
    | none => s.toEnqueue q { f with dest := some n.val, spreadLane := none }

/-! ### Later fragments (R295) -/

/-- A later fragment takes the decision of its first. -/
def State.takeDecision (s : State) (q : Nat) (f : Frame) (d : Decision) : State :=
  let punt (kind : Byte) (s : State) : State := s.punt q (if d.terminal then 2 else kind) d.reason none f
  if d.verdict = 2 then punt 0 s
  else
    let s := if d.verdict = 3 then punt 1 s else s
    match d.dest with
    | none => s.dropFrame q 12 f
    | some x => s.deliver q { f with queue := d.queue, tc := d.tc, policer := d.policer, ptp := d.ptp } x d.hash none

/-! ### Learning (R314, R315) -/

/-- What learning makes of the frame: nothing, a sump, or a flood. -/
inductive Excess where
  | none
  | sump
  | flood
deriving DecidableEq, Repr

/-- The first two key words of a bridge lookup (R307). -/
def macKey (mac : BitVec 48) (h : Hdr) : W32 × W32 :=
  (fld mac 0 32, at' 0 (fld mac 32 16) ||| at' 16 (fld (h.tags.headD 0) 0 12))

/-- A learn that finds the port at its LIMIT is refused (R315). -/
def State.learnRefused (s : State) (port : Byte) : State × Excess :=
  let p := s.tbl.port port.toNat
  let s : State := { s with tbl := ({ s.tbl with
    ports := Tab.mod {} s.tbl.ports port.toNat fun x => { x with limitSeen := true } } : Tables).cntAdd 2 1 }
  (s.reportIf (!p.limitSeen) 986 1 [port], if bit p.w0 18 then .flood else .sump)

/-- The source lookup of a frame and what follows from it. -/
def State.learn (s : State) (q : Nat) (f : Frame) : State × Excess :=
  let lane := s.tbl.port f.lane
  if !bit lane.w0 19 || bit f.hdr.smac 40 then (s, .none)
  else
    let port := s.tbl.learnAs f.lane
    let (k0, k1) := macKey f.hdr.smac f.hdr
    match s.tblFind false (bridgeKey k0 k1) with
    | some (_, e) =>
      let old : Byte := fld e.res0 0 8
      if old = port then (s.onCopies false (bridgeKey k0 k1) fun e => { e with age := 0 }, .none)
      else if e.static then ({ s with tbl := s.tbl.cntAdd 4 1 }, .none)
      else
        let s := s.onCopies false (bridgeKey k0 k1) fun e => { e with res0 := putFld e.res0 0 port, age := 0 }
        ({ s with tbl := s.tbl.cntAdd 3 1 }, .none)
    | none =>
      if (fld (s.tbl.port port.toNat).w0 0 18).toNat ≤ s.tbl.count port then s.learnRefused port
      else if 1024 ≤ (vget {} s.quads q).learnQ.length then ({ s with tbl := s.tbl.cntAdd 1 1 }, .none)
      else (s.modQuadN q fun x => { x with learnQ := x.learnQ ++ [(k0, k1, port)] }, .none)

/-! ### The decision (R312) -/

/-- The key of a flow lookup (R307). -/
def flowKey (h : Hdr) : TblKey :=
  #v[fld h.ipSa 0 32, fld h.ipSa 32 32, fld h.ipSa 64 32, fld h.ipSa 96 32, fld h.ipDa 0 32, fld h.ipDa 32 32, fld h.ipDa 64 32,
     fld h.ipDa 96 32, at' 0 h.l4Src ||| at' 16 h.l4Dst, at' 0 h.proto ||| at' 8 h.ipVer]

/-- The flow lookup; a hit resets AGE (R316). None where the action asks for none or the key lies in an unparsed header (R278). -/
def State.flowLookup (s : State) (a : Act) (h : Hdr) : State × Option TblEntry :=
  if a.lkFlow && !(h.deep && !h.l4) then
    let s := s.lookupCheck true (flowKey h)
    match s.tblFind true (flowKey h) with
    | some (_, e) => (s.onCopies true (flowKey h) fun e => { e with age := 0 }, some e)
    | none => (s, none)
  else (s, none)

/-- Verdict and PORT of a result word. -/
def resVerdict (w : W32) : Nat := (fld w 21 2).toNat
def resPort (w : W32) : Nat := (fld w 0 8).toNat

/-- The decision that a frame's decision leaves to its later fragments. -/
def Frame.decision (f : Frame) (a : Act) (d : Dest) : Decision :=
  { verdict := if a.verdict = 3 then 3 else 0, reason := a.puntReason, terminal := false, dest := some d, queue := f.queue, tc := f.tc,
    policer := f.policer, ptp := f.ptp, hash := f.hash }

/-- A hit decides: its word, and for a flow hit the policer that replaces the action's. -/
def State.byHit (s : State) (q : Nat) (f : Frame) (a : Act) (w : W32) (pol : Option (BitVec 14)) : State :=
  let f := { f with
    queue := if bit w 20 then some (fld w 8 12) else if a.queueEn then some a.queue else none
    tc := if bit w 26 then fld w 23 3 else a.tc
    policer := match pol with | some p => some p | none => a.policer }
  if resVerdict w = 2 ∨ resPort w = 255 then s.puntHere q 3 f
  else
    let d : Dest := if resPort w < 96 then .lane (resPort w) else .spread (resPort w - 128)
    let h := match d with | .spread x => s.hashIn x f.hdr | _ => f.hash
    let f := { f with hash := h }
    s.deliver q f d h (some (f.decision a d))

/-- A flood (R313, R315). -/
def State.byFlood (s : State) (q : Nat) (f : Frame) (a : Act) : State :=
  let f := { f with queue := none, tc := a.tc, policer := a.policer, hash := s.floodHash f }
  s.deliver q f .flood f.hash (some (f.decision a .flood))

/-- A bridge miss on the destination address (R313). -/
def State.byMiss (s : State) (q : Nat) (f : Frame) (a : Act) : State :=
  let u := (fld (s.tbl.port f.lane).w0 20 2).toNat
  if u = 0 then s.byFlood q f a
  else if u = 2 then s.puntHere q 4 f
  else s.dropFrame q 11 f

/-- The action's own destination: its spread domain, whose entry was read when the frame was classified (R211), or an absolute queue of
the quadrant (R285). -/
def State.byAction (s : State) (q : Nat) (f : Frame) (a : Act) : State :=
  let f := { f with tc := a.tc, policer := a.policer }
  match (if a.spreadEn && !f.down then f.spreadLane else none) with
  | some b =>
    let f := { f with queue := if a.queueEn then some a.queue else none, dest := some (fld b 0 7).toNat }
    match s.policeFrame q f with
    | (s, none) => s
    | (s, some g) => (s.fragRecord f (f.decision a (.spread a.spread))).sendOn q { g with recorded := true }
  | none =>
    match (s.tm q f.down).owner a.queue.toNat with
    | none => s.dropFrame q 12 f
    | some k =>
      let base := (vget {} (s.tm q f.down).ports k).qbase
      let f := { f with queue := some (BitVec.ofNat 12 (a.queue.toNat - base)) }
      s.deliver q f (.lane (24 * q + k)) f.hash (some (f.decision a (.lane (24 * q + k))))

/-- The order of R312. A hit with VERDICT 1 sends the frame to the sump whatever the other lookups find. -/
def State.settleDest (s : State) (q : Nat) (f : Frame) (a : Act) (flow : Option TblEntry) (lpm : Option W32) (bridge : Option W32)
    (ex : Excess) : State :=
  let hits := (flow.map (·.res0)).toList ++ lpm.toList ++ bridge.toList
  if hits.any fun w => resVerdict w == 1 then s.dropFrame q 11 f
  else if ex = .sump then s.dropFrame q 11 f
  else if ex = .flood then s.byFlood q f a
  else
    match flow with
    | some e => s.byHit q f a e.res0 (if bit e.res1 14 then some (fld e.res1 0 14) else none)
    | none =>
      match lpm, bridge with
      | some w, _ => s.byHit q f a w none
      | none, some w => s.byHit q f a w none
      | none, none =>
        if (a.spreadEn && !f.down) || a.queueEn then s.byAction q f a
        else if a.lkBridge then s.byMiss q f a
        else s.dropFrame q 12 f

/-- The lookups of a frame return, and its destination, queue and verdict are settled. -/
def State.settleFrame (s : State) (q : Nat) (f : Frame) (a : Act) : State :=
  let key (mac : BitVec 48) : TblKey := bridgeKey (macKey mac f.hdr).1 (macKey mac f.hdr).2
  let s := if a.lkBridge then (s.lookupCheck false (key f.hdr.dmac)).lookupCheck false (key f.hdr.smac) else s
  let bridge : Option W32 := if a.lkBridge then (s.tblFind false (key f.hdr.dmac)).map (·.2.res0) else none
  let (s, flow) := s.flowLookup a f.hdr
  let (s, ex) := if a.lkBridge then s.learn q f else (s, .none)
  s.settleDest q f a flow f.lpmRes bridge ex

/-- LK_LPM of an action as it acts: 0 without the feature LPM (R478). -/
def State.wantsLpm (s : State) (a : Act) : Bool := a.lkLpm && s.feature 12

/-- Lookups that are not done because their keys lie in unparsed headers (R278). -/
def skipped (a : Act) (lpm : Bool) (h : Hdr) : Nat :=
  (if a.lkFlow && h.deep && !h.l4 then 1 else 0) + (if lpm && h.deep && h.ipVer == 0 then 1 else 0)

/-- A classified frame's lookups: the LPM lookup comes first where the action asks for it (R312, R320). -/
def State.lookups (s : State) (q : Nat) (f : Frame) (a : Act) : State :=
  let s := s.modQuadN q fun x => { x with skipCnt := satAdd x.skipCnt (skipped a (s.wantsLpm a) f.hdr) }
  if s.wantsLpm a && f.hdr.ipVer != 0 then
    if 512 ≤ (vget {} s.quads q).lpmQ.length then State.settleFrame { s with tbl := s.tbl.cntAdd 11 1 } q f a
    else s.modQuadN q fun x => { x with lpmQ := x.lpmQ ++ [f] }
  else s.settleFrame q f a

/-- The frame at the head of the lookups. -/
def State.forward (s : State) (q : Nat) (f : Frame) : State :=
  if f.opened.isSome then s.deliverOpened q f
  else
    match f.later with
    | some d => s.takeDecision q f d
    | none =>
      match f.act with
      | some a => s.lookups q f a
      | none => s.dropFrame q 12 f

/-- FORWARD_LOOKUP: the oldest frame that waits for its lookups (R310 to R315); bits may have flipped before they read them (R323). -/
def execForwardLookup (q : QuadId) (upsets : List Upset) (s : State) : Res :=
  let s := s.upsets upsets
  .next (match (s.quad q).lookupQ with
    | [] => s
    | f :: rest => ((s.modQuad q fun x => { x with lookupQ := rest }).forward q.val f).floatsAll)

/-- LPM_LOOKUP: the oldest LPM lookup of the quadrant ends; served says that the cistern could serve its probes (R26, R319, R320). -/
def execLpmLookup (q : QuadId) (served : Bool) (s : State) : Res :=
  .next (match (s.quad q).lpmQ with
    | [] => s
    | f :: rest =>
      let s := s.modQuad q fun x => { x with lpmQ := rest }
      let v6 := f.hdr.ipVer == 6
      let ans := s.lpmFind v6 f.hdr.ipDa
      let ok := served && s.cst.mode != .offline
      let t := s.tbl.cntAdd 8 1
      let t := if ok then (t.cntAdd 9 ans.probes).cntAdd 10 (if ans.capped then 1 else 0) else t
      let s := State.request { s with tbl := t } 1 false (if ok then ans.probes else 0)
      match f.act with
      | some a => (s.settleFrame q.val { f with lpmRes := if ok then ans.res else none } a).floatsAll
      | none => s.dropFrame q.val 12 f)

end Sys2Proof.Machine
end

