-- ==== Sys2Proof/Machine/Ethernet.lean ====
section
/-!
DEFINITION. Ethernet client ports (R225 to R248): the link, the checks of received frames, flow control, wake patterns, transmission and the
port's registers. Host-bond links send the frames of their port here too (R340).
-/
namespace Sys2Proof.Machine

/-! ### The link (R226, R227) -/

/-- The receive direction of lane n works as an Ethernet port. -/
def State.ethOn (s : State) (n : LaneId) : Bool := s.isEth n.val && s.isOn (dRx n.val)

/-- Counter c of R241 rises by k. -/
def State.ethCnt (s : State) (n : LaneId) (c : Nat) (k : Nat := 1) : State :=
  s.modEth n fun e => { e with cnt := vmod e.cnt c (· + BitVec.ofNat 64 k) }

/-- AN_COMPLETE: Clause 73 ends; without a 10GBASE-KR peer it restarts itself (R226, R227). -/
def execAnComplete (n : LaneId) (kr f0 f1 : Bool) (s : State) : Res :=
  .next (
    if s.ethOn n && (s.lane n).eth.link == .an then
      if kr then
        s.modEth n fun e => { e with
          link := .lock, anDone := true, lpKr := kr, lpF0 := f0, lpF1 := f1
          fecOn := s.fec74 n.val && f0 && (e.fecReq || f1) }
      else s.anBegin n
    else s)

/-- Blocks in a row with valid sync headers that give block lock, and blocks of the 125 µs after which hi_ber ends (Clause 49); blocks
of the 128 columns without a fault ordered set after which a fault ends (Clause 46). A block lasts 6.4 ns (R225). -/
def lockHeaders : Nat := 64
def berBlocks : Nat := 19532
def faultBlocks : Nat := 64

/-- The condition for which remote fault is sent has ended: idles are sent (R226). -/
def State.faultEnds (s : State) (n : LaneId) : State :=
  let e := (s.lane n).eth
  if e.sendRf && e.blockLock && !e.hiBer then
    let s := s.modEth n fun e => { e with sendRf := false }
    if s.sendsNow n then s.emit (.fault n false) else s
  else s

/-- What a port sends in place of frames changes to remote fault or to idles, where its transmitter sends. -/
def State.sendFault (s : State) (n : LaneId) (remote : Bool) : State :=
  let s := s.modEth n fun e => { e with sendRf := remote, sendIdle := !remote }
  if s.sendsNow n then s.emit (.fault n remote) else s

/-- LINK_UP_TIMER: block lock without hi_ber and fault for 1 ms (R226, R235). -/
def execLinkUpTimer (n : LaneId) (s : State) : Res :=
  .next (
    if s.ethOn n && (s.lane n).eth.link == .lock then
      let s := s.modEth n fun e => { e with
        link := .up, linkSeen := true, blockLock := true, hiBer := false, lfRx := false, rfRx := false, sendRf := false, sendIdle := false
        fecUnc := 0 }
      let s := s.modEth n fun e => if (s.quad (quadFin n)).xoff then e.flow (s.feature 15) else e
      (s.report (laneEv n 6) 1).judgeLock n
    else s)

/-- Block lock is lost, or hi_ber holds with block lock as it was; either ends as Clause 49 says. -/
def EthPort.unlock (e : EthPort) (hiBer : Bool) : EthPort :=
  if hiBer then { e with hiBer := true, berLeft := berBlocks } else { e with blockLock := false, hiBer := false, headers := 0 }

/-- BLOCK_LOCK_LOST: block lock is lost, or hi_ber holds (R225, R226). -/
def execBlockLockLost (n : LaneId) (hiBer : Bool) (s : State) : Res :=
  .next (
    let l := (s.lane n).eth.link
    if !s.ethOn n || (l != .up && l != .lock) then s
    else
      let s := s.modEth n (·.unlock hiBer)
      if l = .up then ((s.modEth n fun e => { e.leaveUp with link := .lock }).report (laneEv n 1) 2).sendFault n true else s)

/-- FAULT_ORDERED_SET: local or remote fault is received (R225, R226). In LOCK the block is discarded. -/
def execFaultOrderedSet (n : LaneId) (localF remoteF : Bool) (s : State) : Res :=
  .next (
    let l := (s.lane n).eth.link
    if !s.ethOn n || (l != .up && l != .lock) || !(localF || remoteF) then s
    else
      let s := s.modEth n fun e => { e with lfRx := localF, rfRx := remoteF, faultLeft := faultBlocks }
      if l = .up then ((s.modEth n fun e => { e.leaveUp with link := .lock }).report (laneEv n 6) 1).sendFault n false
      else s.ethCnt n 9)

/-- AN_RESTART: the link starts again at DOWN (R226). -/
def State.anRestart (s : State) (n : LaneId) : State := (s.ethDown n).ethStart n

/-! ### Reception (R229 to R231, R236) -/

/-- MAXFRM as it acts (R230). -/
def EthPort.maxFrm (e : EthPort) : Nat := min 16000 (max 1518 (fld e.ctl 0 14).toNat)

/-- The FCS of a frame is right. A Clause 74 block that could not be corrected makes it fail (R228). -/
def fcsRight (f : EthRx) : Bool := f.uncorrected == 0 && addFcs (dropFcs f.bytes) == f.bytes

/-- The first cause of R229 among 1 to 5 that drops a frame: its counter. -/
def EthPort.badFrame (e : EthPort) (f : EthRx) : Option Nat :=
  if f.preamble ≠ List.replicate 6 0x55#8 ++ [0xD5#8] then some 5
  else if f.codeErr then some 6
  else if f.bytes.length < 64 then some 3
  else if e.maxFrm < f.bytes.length then some 4
  else if !fcsRight f then some 2
  else none

/-- A pattern matches a frame (R237). -/
def WakePat.hits (w : WakePat) (bytes : List Byte) : Bool :=
  let sel := (List.range 128).filter fun j => bit w.mask j
  bit w.w 16 && !sel.isEmpty && (sel.all fun j => decide (j < bytes.length)) &&
  crc16 (sel.map fun j => byteAt bytes j) == fld w.w 0 16

/-- The lowest matching pattern. -/
def EthPort.wakeMatch (e : EthPort) (bytes : List Byte) : Option Nat :=
  firstBelow 8 fun p => (vget {} e.pats p).hits bytes

/-- Patterns are tested: in Doze, and for counting until a wake by a pattern is complete (R238). -/
def State.wakeTests (s : State) (n : LaneId) : Bool :=
  bit (s.lane n).eth.ctl 15 && (s.pwr.state == .doze || (s.pwr.state == .waking && bit s.pwr.wakeLast 19))

/-- A matching frame: counted; in Doze it is the source of the wake and sets WAKE_HIT and WAKE_PAT, later only counted (R238). The
frame is discarded. -/
def State.wakeHit (s : State) (n : LaneId) (p : Nat) : State :=
  let s := s.ethCnt n 21
  if s.pwr.state = .doze then
    (s.modEth n fun e => { e with wakeHit := true, wakePat := BitVec.ofNat 3 p }).fire 4 (BitVec.ofNat 7 n.val)
  else s

/-- A MAC control frame is counted and, with RX_PAUSE_EN, acts (R229, R236). -/
def State.macControl (s : State) (n : LaneId) (b : List Byte) : State :=
  let op := beAt b 14 2
  let en := bit (s.lane n).eth.ctl 16
  let time (i : Nat) : Option (BitVec 16) := if beAt b i 2 = 0 then none else some (BitVec.ofNat 16 (beAt b i 2))
  if op = 1 then
    let s := s.ethCnt n 10
    if en then s.modEth n fun e => { e with peerPause := time 16 } else s
  else if op = 0x101 then
    let s := s.ethCnt n 11
    if en then
      let v := byteAt b 17
      let next (e : EthPort) : Vector (Option (BitVec 16)) 8 :=
        Vector.ofFn fun c => if bit v c.val then time (18 + 2 * c.val) else e.peerPfc[c.val]
      s.modEth n fun e => { e with peerPfc := next e }
    else s
  else s.ethCnt n 8

/-- A frame of n bytes of a client finds the trough full, or goes to the parser (R231). -/
def State.intoTrough (s : State) (n : LaneId) (bytes : List Byte) (full : State → State) (pass : State → State) : State :=
  if s.troughRoom (quadOf n.val) < bytes.length then (full s).toSump (quadOf n.val) 1 bytes.length
  else
    ((pass s).toParser (quadOf n.val) { lane := n.val, down := false, bytes := bytes, stamp := some (s.rxStamp n) }).floats (quadOf n.val)

/-- FEC blocks corrected and uncorrectable since the last count: counters 17 and 18, and the present window (R228, R241). -/
def State.fecBlocks (s : State) (n : LaneId) (corrected uncorrected : Nat) : State :=
  if (s.lane n).eth.fecOn then
    ((s.ethCnt n 17 corrected).ethCnt n 18 uncorrected).modEth n fun e =>
      { e with fecUnc := if e.link = .up then e.fecUnc + uncorrected else 0 }
  else s

/-- ETH_FRAME_RX. In LOCK the blocks of a frame are discarded: one for the preamble, one for each 8 bytes, the last with the end (R226). A
frame of a host-bond link in UP enters through the link's lowest lane; no check of R229 is given for it but the trough's. -/
def execEthFrameRx (n : LaneId) (f : EthRx) (s : State) : Res :=
  .next (
    let e := (s.lane n).eth
    if s.isHead n && s.isOn (dRx n.val) && (s.lane n).hb.state == .up then s.intoTrough n f.bytes id id
    else if !s.ethOn n then s
    else if e.link = .lock then (s.fecBlocks n f.corrected f.uncorrected).ethCnt n 9 (f.bytes.length / 8 + 2)
    else if e.link ≠ .up then s
    else
      let s := s.fecBlocks n f.corrected f.uncorrected
      match e.badFrame f with
      | some c => (s.ethCnt n c).toSump (quadOf n.val) 0 f.bytes.length
      | none =>
        match (if s.wakeTests n then e.wakeMatch f.bytes else none) with
        | some p => s.wakeHit n p
        | none =>
          if beAt f.bytes 12 2 = 0x8808 then
            if s.troughRoom (quadOf n.val) < f.bytes.length then (s.ethCnt n 7).toSump (quadOf n.val) 1 f.bytes.length
            else s.macControl n f.bytes
          else s.intoTrough n f.bytes (fun s => s.ethCnt n 7) fun s => (s.ethCnt n 0).ethCnt n 1 f.bytes.length)

/-! ### Flow control (R234 to R236) -/

/-- QUANTA as it acts. -/
def EthPort.quanta (e : EthPort) : BitVec 16 := if fld e.pause 16 16 = 0#16 then 0xFFFF#16 else fld e.pause 16 16

/-- A PAUSE frame of Annex 31B, or a PFC frame of 802.1Qbb with its class-enable vector, from the port's source address (R234). -/
def EthPort.flowFrame (e : EthPort) (pfc : Option Byte) (time : BitVec 16) : List Byte :=
  let t := beBytes 2 time.toNat
  let body := match pfc with
    | none => [0#8, 1#8] ++ t
    | some v => [1#8, 1#8, 0#8, v] ++ (List.range 8).flatMap fun c => if bit v c then t else [0, 0]
  addFcs (padTo 60 ([0x01#8, 0x80#8, 0xC2#8, 0, 0, 0x01#8] ++ beBytes 6 e.sa.toNat ++ [0x88#8, 0x08#8] ++ body))

/-- PAUSE_TX: a flow-control frame that waits leaves at a frame boundary, even while the peer's PAUSE is in force (R232, R234). -/
def execPauseTx (n : LaneId) (s : State) : Res :=
  .next (
    let e := (s.lane n).eth
    match (if e.link = .up ∧ s.isOn (dTx n.val) ∧ !(s.lane n).com.genEn ∧ !s.txIdle n then e.pendingFlow else none) with
    | none => s
    | some m =>
      let pri := if m.xoff then fld e.pause 8 8 else m.pri
      let s := s.modEth n fun e => { e with pendingFlow := none, xoff := m.xoff, xoffPfc := m.pfc, xoffPri := pri }
      let s := s.ethCnt n (if !m.xoff then 16 else if m.pfc then 15 else 14)
      let pfc := if m.pfc then some pri else none
      let time := if m.xoff then e.quanta else 0
      s.emit (.pause n pfc time (e.flowFrame pfc time)))

/-- PAUSE_REFRESH: QUANTA / 2 quanta have passed in XOFF since the last frame (R234). -/
def execPauseRefresh (n : LaneId) (s : State) : Res :=
  .next (
    if s.ethOn n && (s.quad (quadFin n)).xoff && (s.lane n).eth.xoff then s.modEth n fun e => e.flow (s.feature 15) else s)

/-- PAUSE_EXPIRE: the time of the peer's PAUSE, or of a class of its PFC, is over (R236). -/
def execPauseExpire (n : LaneId) (cls : Option (Fin 8)) (s : State) : Res :=
  .next (s.modEth n fun e =>
    match cls with
    | none => { e with peerPause := none }
    | some c => { e with peerPfc := e.peerPfc.set c.val none })

/-- A write of LN_ETH_PAUSE_n: MODE 0 with an XOFF in force sends a cancel (R235). -/
def State.pauseWrite (s : State) (n : LaneId) (w : W32) : State :=
  s.modEth n fun e =>
    let y := { e with pause := rw 0xFFFFFF03#32 w }
    if y.mode (s.feature 15) = 0 then { y with pendingFlow := if e.xoff then some { xoff := false, pfc := e.xoffPfc, pri := e.xoffPri } else none } else y

/-- PAUSE_CFG_WRITE. -/
def execPauseCfgWrite (p : Port) (n : LaneId) (w : W32) (s : State) : Res :=
  .next (if s.isEth n.val then s.writeLane p n 0x200C .common fun s => s.pauseWrite n w else s)

/-! ### FEC (R228) -/

/-- ETH_FEC_WINDOW: 1 s has passed, with the blocks corrected and uncorrectable since the last frame that counted some; in UP a window
ends. -/
def execEthFecWindow (n : LaneId) (corrected uncorrected : Nat) (s : State) : Res :=
  .next (
    let e := (s.lane n).eth
    if s.ethOn n && (e.link == .up || e.link == .lock) && e.fecOn then
      let s := s.fecBlocks n corrected uncorrected
      if e.link = .up then
        let th := (fld e.ctl 24 8).toNat
        (s.modEth n fun e => { e with fecUnc := 0 }).reportIf (decide (th ≠ 0 ∧ th ≤ e.fecUnc + uncorrected)) (laneEv n 2) 1
      else s
    else s)

/-! ### Transmission (R226, R232, R236, R340) -/

/-- The queues of the port of lane n that hold a frame, with its head. -/
def State.downHeads (s : State) (n : LaneId) : List (Nat × Queued) :=
  let q := quadOf n.val
  let p : TmPort := vget {} (s.tm q true).ports (sliceOf n.val)
  (List.range p.qcount).filterMap fun i =>
    if p.qbase + i < s.dsQueues q then
      match ((s.tm q true).queue (p.qbase + i)).frames with
      | [] => none
      | e :: _ => some (p.qbase + i, e)
    else none

/-- A queue is paused by the peer (R236, R340). -/
def State.queuePaused (s : State) (n : LaneId) (j : Nat) : Bool :=
  let e := (s.lane n).eth
  s.isEth n.val && (e.peerPause.isSome || (vget none e.peerPfc ((s.tm (quadOf n.val) true).queue j).cls).isSome)

/-- The head of downstream queue j leaves it. -/
def State.popDown (s : State) (n : LaneId) (j : Nat) : State :=
  s.modTm (quadOf n.val) true fun t => t.modQueue j fun x => x.withFrames x.frames.tail

/-- The head of the first queue goes to the sump of the lane's quadrant; on a port whose link is not UP, into counter 20 too (R226). -/
def State.dropDown (s : State) (n : LaneId) (cause : Nat) (notUp : Bool := false) : State :=
  match s.downHeads n with
  | [] => s
  | (j, e) :: _ => ((if notUp then s.ethCnt n 20 else s).toSump (quadOf n.val) cause e.frame.bytes.length).popDown n j

/-- The frame that the port's scheduler picks, chosen and charged (R337 to R341): one that is held in the trough bank (R232). -/
def State.pickDown (s : State) (n : LaneId) : State × Option (Nat × Queued) :=
  let q := quadOf n.val
  let heads := (s.downHeads n).filter fun x => !s.queuePaused n x.1 && !x.2.inCistern
  match s.pick q true (sliceOf n.val) (sliceOf n.val) (heads.map fun x => { j := x.1, len := x.2.frame.bytes.length }) with
  | (s, none) => (s, none)
  | (s, some j) =>
    match heads.find? fun x => decide (x.1 = j) with
    | none => (s, none)
    | some x => ((s.charge q true (sliceOf n.val) j x.2.frame.bytes.length).popDown n j, some x)

/-- A frame as it leaves: padded to 64 bytes with its FCS computed (R232). -/
def macFrame (b : List Byte) : List Byte :=
  let d := dropFcs b
  addFcs (d ++ zeros (60 - d.length))

/-- The gap of idle bytes after a frame, and the deficit idle count after it (Clause 46): the next start lies at a multiple of 4 bytes,
and the gap is 12 bytes on average. -/
def EthPort.gap (e : EthPort) (len : Nat) : Nat × Nat :=
  let d := (12 + len) % 4
  if d = 0 then (12, e.deficit)
  else if e.deficit + d ≤ 3 then (12 - d, e.deficit + d)
  else (16 - d, e.deficit - (4 - d))

/-- The picked frame leaves through an Ethernet port. -/
def State.ethSend (s : State) (n : LaneId) (f : Frame) : State :=
  if (s.lane n).eth.maxFrm < f.bytes.length then (s.ethCnt n 19).toSump (quadOf n.val) 19 f.bytes.length
  else
    let out := macFrame f.bytes
    let (gap, deficit) := (s.lane n).eth.gap out.length
    let s := s.modEth n fun e => { e with deficit := deficit }
    ((((s.ethCnt n 12).ethCnt n 13 out.length).flushInject n).noteTag n f.txTag).emit (.frame n out (pcsBlocks out) gap)

/-- ETH_TX_FRAME: a frame boundary of an Ethernet port, or room on a host-bond link (R226, R232, R340). A frame bound for a lane whose
generator is on goes to the sump (R87). A transmitter in electrical idle sends nothing, and no data frame leaves ahead of a flow-control
frame that waits (R232). -/
def execEthTxFrame (n : LaneId) (s : State) : Res :=
  .next (
    if !s.isOn (dQuad (quadOf n.val)) then s
    else if s.isEth n.val then
      if (s.lane n).eth.link ≠ .up then s.dropDown n 19 true
      else if (s.lane n).com.genEn then s.dropDown n 20
      else if !s.isOn (dTx n.val) || s.txIdle n || (s.lane n).eth.pendingFlow.isSome then s
      else
        match s.pickDown n with
        | (s, some (_, e)) => s.ethSend n e.frame
        | (s, none) => s
    else if s.isHead n && (s.lane n).hb.state == .up then
      if (s.lane n).com.genEn then s.dropDown n 20
      else if !s.isOn (dTx n.val) || s.txIdle n then s
      else
        match s.pickDown n with
        | (s, some (_, e)) => s.hbSend n e.frame.bytes
        | (s, none) => s
    else s)

/-! ### Registers (R242 to R247) -/

/-- LN_ETH_STATUS_n. -/
def EthPort.status (e : EthPort) : W32 :=
  at' 0 e.link.code ||| atB 2 e.blockLock ||| atB 3 e.hiBer ||| atB 4 e.lfRx ||| atB 5 e.rfRx ||| atB 6 e.xoff |||
    atB 7 (e.peerPause.isSome || e.peerPfc.any Option.isSome) ||| atB 8 e.linkSeen ||| atB 9 e.wakeHit ||| at' 10 e.wakePat |||
    atB 13 e.fecOn

/-- LN_ETH_AN_n. -/
def EthPort.an (e : EthPort) : W32 :=
  atB 0 e.anEn ||| atB 2 e.fecReq ||| atB 3 e.fecForce ||| atB 4 e.anDone ||| atB 5 e.lpKr ||| atB 6 e.lpF0 ||| atB 7 e.lpF1

/-- CNT_CLR. -/
def State.ethCntClr (s : State) (n : LaneId) : State := s.modEth n fun e => { e with cnt := Vector.replicate 22 0 }

/-- A write of LN_ETH_CTL_n. -/
def State.ethCtlWrite (s : State) (n : LaneId) (w : W32) : State :=
  let s := s.modEth n fun e => { e with ctl := rw 0xFF01BFFF#32 w }
  if bit w 14 then s.ethCntClr n else s

/-- A write of LN_ETH_AN_n: AN_EN acts on a link that is DOWN at once (R226). -/
def State.anWrite (s : State) (n : LaneId) (w : W32) : State :=
  let s := s.modEth n fun e => { e with anEn := bit w 0, fecReq := bit w 2, fecForce := bit w 3 }
  if bit w 1 then s.anRestart n else s.ethStart n

/-- The kind of an item of the window (R240, R247). -/
def ethItemKind (i : Nat) : LaneKind :=
  if 0x200 ≤ i ∧ i < 0x22C then (if 12 ≤ (i - 0x200) / 2 ∧ (i - 0x200) / 2 ≤ 20 then .tx else .rx) else .common

/-- A read of an item. -/
def State.ethItem (s : State) (p : Port) (n : LaneId) (i : Nat) : W32 × State :=
  let e := (s.lane n).eth
  let b (k : Nat) : BitVec 48 := (fld e.sa (40 - 8 * k) 8).setWidth 48
  if i = 0 then (((b 0) ||| (b 1) <<< 8 ||| (b 2) <<< 16 ||| (b 3) <<< 24).setWidth 32, s)
  else if i = 1 then (((b 4) ||| (b 5) <<< 8).setWidth 32, s)
  else if 0x40 ≤ i ∧ i < 0x80 then
    let w : WakePat := vget {} e.pats ((i - 0x40) / 8)
    let k := (i - 0x40) % 8
    (if k < 4 then fld w.mask (32 * k) 32 else if k = 4 then w.w.setWidth 32 else 0, s)
  else if 0x200 ≤ i ∧ i < 0x22C then s.readPair p (laneBase n.val + 0x2014) (vget 0 e.cnt ((i - 0x200) / 2)) (i % 2 == 1)
  else (0, s)

/-- A write of an item: byte 0 of the source address is the first on the wire. -/
def EthPort.itemWrite (e : EthPort) (i : Nat) (w : W32) : EthPort :=
  if i = 0 then { e with sa := putFld e.sa 16 (fld w 0 8 ++ fld w 8 8 ++ fld w 16 8 ++ fld w 24 8) }
  else if i = 1 then { e with sa := putFld e.sa 0 (fld w 0 8 ++ fld w 8 8) }
  else if 0x40 ≤ i ∧ i < 0x80 then
    { e with pats := vmod e.pats ((i - 0x40) / 8) fun x =>
        if (i - 0x40) % 8 < 4 then { x with mask := putFld x.mask (32 * ((i - 0x40) % 8)) w }
        else if (i - 0x40) % 8 = 4 then { x with w := fld w 0 17 } else x }
  else e

def State.ethWinRead (s : State) (p : Port) (n : LaneId) : W32 × State :=
  let (v, s) := s.ethItem p n (laneItem (s.lane n).eth.winAddr)
  (v, s.modEth n fun e => { e with winAddr := laneWinStep e.winAddr })

def State.ethWinWrite (s : State) (n : LaneId) (w : W32) : State :=
  s.modEth n fun e => { e.itemWrite (laneItem e.winAddr) w with winAddr := laneWinStep e.winAddr }

/-- The kind of a register of block 1 of an Ethernet port (R242). -/
def State.ethKind (s : State) (n : LaneId) (off : Nat) : LaneKind :=
  if off = 4 then .rx else if off = 0x14 then ethItemKind (laneItem (s.lane n).eth.winAddr) else .common

/-- Block 1 of an Ethernet port, by offset from 0x2000. -/
def State.ethRead (s : State) (p : Port) (n : LaneId) (off : Nat) : W32 × State :=
  let e := (s.lane n).eth
  if off = 0 then (e.ctl, s)
  else if off = 4 then (e.status, s)
  else if off = 8 then (e.an, s)
  else if off = 0xC then (e.pause, s)
  else if off = 0x10 then (e.winAddr, s)
  else if off = 0x14 then s.ethWinRead p n
  else (0, s)

def State.ethWrite (s : State) (n : LaneId) (off : Nat) (w : W32) : State :=
  if off = 0 then s.ethCtlWrite n w
  else if off = 4 then s.modEth n fun e => { e with linkSeen := w1cB e.linkSeen w 8, wakeHit := w1cB e.wakeHit w 9 }
  else if off = 8 then s.anWrite n w
  else if off = 0xC then s.pauseWrite n w
  else if off = 0x10 then s.modEth n fun e => { e with winAddr := rw 0x1FFF#32 w }
  else if off = 0x14 then s.ethWinWrite n w
  else s

/-- AN_RESTART: LN_ETH_AN_n.AN_RESTART. -/
def execAnRestart (p : Port) (n : LaneId) (s : State) : Res :=
  .next (if s.isEth n.val then s.writeLane p n 0x2008 .common fun s => s.anRestart n else s)

/-- ETH_CNT_CLR: LN_ETH_CTL_n.CNT_CLR. -/
def execEthCntClr (p : Port) (n : LaneId) (s : State) : Res :=
  .next (if s.isEth n.val then s.writeLane p n 0x2000 .common fun s => s.ethCntClr n else s)

/-- ETH_WIN_ACCESS: a read or write of LN_ETH_WIN_DATA_n. -/
def execEthWinAccess (p : Port) (n : LaneId) (acc : Option W32) (s : State) : Res :=
  .next (if s.isEth n.val then
      match acc with
      | some w => s.writeLane p n 0x2014 (s.ethKind n 0x14) fun s => s.ethWinWrite n w
      | none => s.readLane p n 0x2014 (s.ethKind n 0x14) fun s => s.ethWinRead p n
    else s)

end Sys2Proof.Machine
end

