-- ==== Sys2Proof/Machine/Referee.lean ====
section
/-!
DEFINITION. The referee's commands (R500 to R505): settle, gather, hold and lasting times end. The times themselves are the
environment's: a command says that its time has passed (notes/assumptions/1.md).
-/
namespace Sys2Proof.Machine

/-- WINDOW of EVT_LAST_CTL in 0.1 ns; 0 acts as 1 s (R510). -/
def Evt.window (x : Evt) : Nat :=
  let w := (fld x.lastCtl 0 8).toNat
  (if w = 0 then 1 else w) * 10 ^ 10

/-- THRESH of EVT_LAST_CTL; 0 and 1 act as 2 (R510). -/
def Evt.thresh (x : Evt) : Nat := max 2 (fld x.lastCtl 8 4).toNat

/-- The class of a source as its parent test sees it (R500 step 2). -/
def State.classOf (s : State) (e : Nat) : BitVec 4 := if classVaries e then (s.src e).cls else fixedClass e

/-- A source is active, in its hold window, or holds a pending report (R500 step 2). -/
def Src.engaged (x : Src) : Bool := x.active || x.hold || !x.settle.isEmpty || !x.gather.isEmpty

/-- The parent that absorbs a report of e of class c, if one does (R500 step 2). The lowest engaged member of a set counts. -/
def State.absorber (s : State) (e : Nat) (c : BitVec 4) : Option Nat :=
  if c = 0 then none else (parentsOf e c).find? fun p => s.classOf p == c && (s.src p).engaged

/-- Sympathetic reports are counted on the record of source p: on its pending report, on the record that gathers, or as late
(R500 step 3, R502). -/
def Src.countSymp (x : Src) (k : W32) : Src :=
  let x := { x with sympRx := x.sympRx + 1 }
  if !x.settle.isEmpty then { x with early := x.early + k }
  else match x.gather with
    | [] => { x with late := x.late + k }
    | _ => { x with gather := modLast (fun r => { r with symp := r.symp + k }) x.gather }

/-- The source that owns the record on which p's reports are counted: p, or up the chain while p's own report was sympathetic
(R500 step 3). -/
def State.owner (s : State) : Nat → Nat → Nat
  | 0, p => p
  | f + 1, p =>
    if (s.src p).absorbed then
      match s.absorber p (s.classOf p) with
      | some q => s.owner f q
      | none => p
    else p

/-- An occurrence of a raised report (R504): the kept times, and whether the source is lasting. -/
def occur (x : Src) (clk window thresh : Nat) : Src :=
  let occ := (clk :: x.occ).take thresh
  let hit := decide (thresh ≤ occ.length) && decide (clk - occ.getD (thresh - 1) clk < window)
  { x with occ := occ, lasting := x.lasting || hit }

/-- The oldest report of e leaves its settle time (R500 steps 2 to 4). -/
def State.settleEnd (s : State) (e : Nat) : State :=
  match (s.src e).settle with
  | [] => s
  | r :: rest =>
    let early := (s.src e).early
    match s.absorber e r.cls with
    | some p =>
      let o := s.owner 8 p
      let s := s.modSrc e fun x => { x with settle := rest, early := 0, absorbed := true, sympTx := x.sympTx + 1 }
      s.modSrc o fun x => x.countSymp (1 + early)
    | none =>
      let s := s.modSrc e fun x =>
        let x := occur x s.evt.clk s.evt.window s.evt.thresh
        { x with settle := rest, early := 0, absorbed := false, raises := x.raises + 1 }
      let s := s.setStatus e
      let x := s.raisedNow e r (s.src e).lasting false early
      if isParent e then s.modSrc e fun y => { y with gather := y.gather ++ [x] }
      else s.raiseDone x

/-- The oldest gather time of e ends: the record and the ring entry are written (R500 step 4). -/
def State.gatherEnd (s : State) (e : Nat) : State :=
  match (s.src e).gather with
  | [] => s
  | x :: rest => (s.modSrc e fun y => { y with gather := rest }).raiseDone x

/-- The detail of event 1020 (R502). -/
def closingDetail (e : Nat) (x : Src) : List Byte := leBytes 2 e ++ leBytes 4 x.lastSeq.toNat ++ leBytes 4 x.late.toNat

/-- The hold window of e ends; late sympathetic reports give one closing record, event 1020 at the source's location
(R501, R502). -/
def State.holdEnd (s : State) (e : Nat) : State :=
  let x := s.src e
  if !x.hold then s
  else
    let s := s.modSrc e fun y => { y with hold := false, late := 0 }
    if x.late = 0 then s
    else s.reportWith 1020 { sev := 1, cls := 0, loc := evLoc e, detail := closingDetail e x }

/-- WINDOW has passed with no occurrence of e (R504). -/
def State.lastingExpire (s : State) (e : Nat) : State :=
  s.modSrc e fun x => { x with lasting := false, occ := [] }

/-! ### Commands -/

/-- The numbers of the sources that some chapter assigns (R495). -/
def evAssigned (e : Nat) : Bool :=
  decide (e < 922 ∨ (930 ≤ e ∧ e < 934) ∨ (940 ≤ e ∧ e < 958) ∨ (960 ≤ e ∧ e < 976) ∨ (980 ≤ e ∧ e < 987) ∨
    (990 ≤ e ∧ e ≠ 1007))

/-- EVENT_REPORT: a source reports an event (R500 step 1). A number that no chapter assigns is raised by EVT_FORCE alone (R495). -/
def execEventReport (e : EventId) (sev : BitVec 3) (detail : List Byte) (s : State) : Res :=
  .next (if evAssigned e then s.report e sev detail else s)

/-- SETTLE_END (R500); the referee's times stand still while its clock is stopped (R503). -/
def execSettleEnd (e : EventId) (s : State) : Res := .next (if s.clocked then s.settleEnd e else s)

/-- GATHER_END (R500). -/
def execGatherEnd (e : EventId) (s : State) : Res := .next (if s.clocked then s.gatherEnd e else s)

/-- HOLD_END (R502). -/
def execHoldEnd (e : EventId) (s : State) : Res := .next (if s.clocked then s.holdEnd e else s)

/-- LASTING_EXPIRE (R504). -/
def execLastingExpire (e : EventId) (s : State) : Res := .next (if s.clocked then s.lastingExpire e else s)

end Sys2Proof.Machine
end

