-- ==== Sys2Proof/Machine/EventRegs.lean ====
section
/-!
DEFINITION. The events island's registers (R506 to R511).
-/
namespace Sys2Proof.Machine

/-- EVT_GRP_STATUS (R506). -/
def Evt.grpStatus (x : Evt) : W32 := (List.range 32).foldl (fun w g => setBit w g (x.groupBit g)) 0#32

/-- INT_N is low (R508). -/
def Evt.intLow (x : Evt) : Bool := (List.range 32).any fun g => bit (vget 0#32 x.map g) 9 && x.groupBit g

/-- A write to the status or mask word of group g has changed evt from the first to the second: the group's message is sent
again while its bit is 1 (R507). -/
def State.afterGroupWrite (s : State) (g : Nat) : State :=
  if s.evt.groupBit g && s.evt.msixEn g then s.msixSend (s.evt.vec g) else s

/-- A write of EVT_STATUS[g] (R506, R507). -/
def State.writeStatus (s : State) (g : Nat) (w : W32) : State :=
  ({ s with evt := { s.evt with status := vmod s.evt.status g fun x => w1c x w } } : State).afterGroupWrite g

/-- A write of EVT_MASK[g] (R506, R507). -/
def State.writeMask (s : State) (g : Nat) (w : W32) : State :=
  ({ s with evt := { s.evt with mask := vset s.evt.mask g w } } : State).afterGroupWrite g

/-- A write of EVT_FORCE with RAISE (R510): a pulse of severity 1 at the source's location, whose record carries FORCED and
detail byte 0 = 0xFF; a forced raise of 8n + 7 or 768 + 2k has class 0. -/
def State.forceEvent (s : State) (w : W32) : State :=
  let e := (fld w 0 10).toNat
  if bit w 10 then
    s.reportWith e
      { sev := 1, cls := if classVaries e then 0 else fixedClass e, forced := true, loc := evLoc e, detail := [0xFF#8] }
  else s

/-- The parents that word 0 of the source window shows: those of the last report's class (R511). -/
def State.shownParents (s : State) (e : Nat) : List Nat := parentsOf e (s.classOf e)

/-- Word w of source e (R511). -/
def State.srcWord (s : State) (e w : Nat) : W32 :=
  let x := s.src e
  let ps := s.shownParents e
  if w = 0 then
    at' 0 (s.classOf e) ||| atN 4 10 (ps.headD 0) ||| atB 14 (!ps.isEmpty) ||| atB 15 (decide (1 < ps.length)) |||
      atB 16 x.active ||| atB 17 (!x.settle.isEmpty || !x.gather.isEmpty) ||| atB 18 x.hold ||| atB 19 x.lasting |||
      at' 20 x.sev ||| atN 24 4 x.occ.length
  else if w = 1 then x.sympRx
  else if w = 2 then x.sympTx
  else x.raises

/-- EVT_SRC_SEL after an access to EVT_SRC_DATA: AUTO_INC steps WORD and, after word 3, SOURCE (R511). -/
def srcSelNext (w : W32) : W32 :=
  if bit w 12 then
    let word := fld w 10 2
    let w' := putFld w 10 (word + 1)
    if word = 3 then putFld w' 0 (fld w 0 10 + 1) else w'
  else w

/-- A read of EVT_SRC_DATA (R511). -/
def State.readSrcData (s : State) : W32 × State :=
  (s.srcWord (fld s.evt.srcSel 0 10).toNat (fld s.evt.srcSel 10 2).toNat,
   { s with evt := { s.evt with srcSel := srcSelNext s.evt.srcSel } })

/-- Register w words above the events island's base: a read (R509). -/
def State.evtRead (s : State) (off : Nat) : W32 × State :=
  let x := s.evt
  if off < 0x80 then (vget 0 x.status (off / 4), s)
  else if off < 0x100 then (vget 0 x.mask ((off - 0x80) / 4), s)
  else if off = 0x100 then (x.grpStatus, s)
  else if 0x180 ≤ off ∧ off < 0x200 then (vget 0 x.map ((off - 0x180) / 4), s)
  else if off = 0x200 then (x.ctl, s)
  else if off = 0x204 then (x.lastCtl, s)
  else if off = 0x208 then (x.ringCtl, s)
  else if off = 0x20C then (atB 0 x.intLow, s)
  else if off = 0x210 then (x.srcSel, s)
  else if off = 0x214 then s.readSrcData
  else (0, s)

/-- A write of an events-island register (R509). -/
def State.evtWrite (s : State) (off : Nat) (w : W32) : State :=
  let x := s.evt
  if off < 0x80 then s.writeStatus (off / 4) w
  else if off < 0x100 then s.writeMask ((off - 0x80) / 4) w
  else if 0x180 ≤ off ∧ off < 0x200 then { s with evt := { x with map := vset x.map ((off - 0x180) / 4) (rw 0x33F#32 w) } }
  else if off = 0x200 then { s with evt := { x with ctl := rw 0x00FFFFFF#32 w } }
  else if off = 0x204 then { s with evt := { x with lastCtl := rw 0xFFF#32 w } }
  else if off = 0x208 then { s with evt := { x with ringCtl := rw 0x7#32 w } }
  else if off = 0x210 then { s with evt := { x with srcSel := rw 0x1FFF#32 w } }
  else if off = 0x218 then s.forceEvent w
  else s

/-! ### Commands -/

/-- EVT_STATUS_WRITE (R507). -/
def execEvtStatusWrite (p : Port) (g : Fin 32) (w : W32) (s : State) : Res :=
  .next (s.writeIsl p (base 3 + 4 * g) fun s => s.writeStatus g w)

/-- EVT_MASK_WRITE (R507). -/
def execEvtMaskWrite (p : Port) (g : Fin 32) (w : W32) (s : State) : Res :=
  .next (s.writeIsl p (base 3 + 0x80 + 4 * g) fun s => s.writeMask g w)

/-- EVT_FORCE (R510). -/
def execEvtForce (p : Port) (w : W32) (s : State) : Res := .next (s.writeIsl p (base 3 + 0x218) fun s => s.forceEvent w)

/-- EVT_SRC_ACCESS: a read of EVT_SRC_DATA (R511). -/
def execEvtSrcAccess (p : Port) (s : State) : Res := .next (s.readIsl p (base 3 + 0x214) State.readSrcData)

end Sys2Proof.Machine
end

