-- ==== Sys2Proof/Machine/HostIf.lean ====
section
/-!
DEFINITION. The host interface: its resets, the link, its registers, and feature negotiation (R470 to R478, R491).
-/
namespace Sys2Proof.Machine

def State.modHif (s : State) (f : Hif → Hif) : State := { s with hif := f s.hif }
def State.modSys (s : State) (f : SysCtl → SysCtl) : State := { s with sys := f s.sys }

/-! ### The function's identity (R470, R471) -/

/-- What the PCI Express function presents: identity, link and the sizes of its BARs, in bytes. -/
structure PciFunction where
  vendor : BitVec 16
  device : BitVec 16
  revision : Byte
  classCode : BitVec 24
  maxSpeed : BitVec 4
  maxWidth : BitVec 5
  maxPayload : Nat
  maxRead : Nat
  vectors : Nat
  bar0 : Nat
  bar2 : Nat
  bar4 : Nat
deriving DecidableEq, Repr

/-- The AK9648's. -/
def pciFunction : PciFunction :=
  { vendor := 0x1F4B, device := 0x9648, revision := 0xB0, classCode := 0x028000, maxSpeed := 4, maxWidth := 4
    maxPayload := 512, maxRead := 512, vectors := 64, bar0 := 2 ^ 25, bar2 := 2 ^ 16, bar4 := 2 ^ 15 }

/-! ### Resets (R472) -/

/-- What every reset of the function does: rings, MSI-X structures and the island's registers; the link keeps its state, frames that
wait for the punt ring stay, and lookaside jobs are lost with their rings. -/
def State.hifReset (s : State) : State :=
  let h := s.hif
  { s with
    hif := { speed := h.speed, width := h.width, puntQ := h.puntQ, twAddr := fld s.pwr.twCopy 0 7, pecReq := bit s.pwr.twCopy 7 }
    fbk := { s.fbk with la := [] } }

/-- The link changes to a speed and width: CHANGED, and event 912 where it was 0 (R476, R493). -/
def State.linkTo (s : State) (speed : BitVec 4) (width : BitVec 5) : State :=
  if s.hif.speed = speed ∧ s.hif.width = width then s
  else
    let was := s.hif.changed
    (s.modHif fun h => { h with speed := speed, width := width, changed := true }).reportIf (!was) 912 2

/-- A reset that takes the link down: the registers first, then the loss of the link. -/
def State.hifDown (s : State) : State := if s.isOn dHif then (s.hifReset).linkTo 0 0 else s

/-- PERST: PERST_N falls, or rises; its rise while HIF is not ON is a wake source (R537). -/
def execPerst (rise : Bool) (s : State) : Res :=
  .next (
    let was := s.pins.perstHigh
    let s : State := { s with pins := { s.pins with perstHigh := rise } }
    if !rise then s.hifDown
    else if !was ∧ !s.isOn dHif then s.fire 3 0
    else s)

/-- HOT_RESET and FUNCTION_LEVEL_RESET. -/
def execHotReset (s : State) : Res := .next s.hifDown
def execFunctionLevelReset (s : State) : Res := .next (if s.isOn dHif then s.hifReset else s)

/-- LINK_CHANGE. -/
def execLinkChange (speed : BitVec 4) (width : BitVec 5) (s : State) : Res :=
  .next (if s.isOn dHif then s.linkTo speed width else s)

/-! ### Registers of the island (R473, R476) -/

/-- PARTIAL_WRITE: a write through PCIe with partial byte enables is discarded and counted. The two-wire port has no byte enables. -/
def execPartialWrite (p : Port) (_a : BitVec 25) (s : State) : Res :=
  .next (
    if p = .pcie ∧ s.portUp p then s.modHif fun h => { h with partialCnt := satAdd h.partialCnt 1 } else s)

/-- Reads that clear. -/
def State.gatedCountRead (s : State) : W32 × State := (s.hif.gatedCount, s.modHif fun h => { h with gatedCount := 0 })
def State.partialCntRead (s : State) : W32 × State := (s.hif.partialCnt, s.modHif fun h => { h with partialCnt := 0 })
def execHifCountRead (p : Port) (partial_ : Bool) (s : State) : Res :=
  .next (if partial_ then s.readIsl p (base 8 + 8) State.partialCntRead else s.readIsl p (base 8 + 4) State.gatedCountRead)

/-- A write of HIF_TW_CTL, copied to the power island (R491). -/
def State.twCtlWrite (s : State) (w : W32) : State :=
  let s := s.modHif fun h => { h with twAddr := fld w 0 7, pecReq := bit w 7 }
  { s with pwr := { s.pwr with twCopy := fld w 0 8 } }
def execTwCtlWrite (p : Port) (w : W32) (s : State) : Res := .next (s.writeIsl p (base 8 + 0x10) fun s => s.twCtlWrite w)

/-- Block 0 of the host interface island, by offset from its base. -/
def State.hifRead (s : State) (off : Nat) : W32 × State :=
  let h := s.hif
  match off with
  | 0x00 => (h.gated, s)
  | 0x04 => s.gatedCountRead
  | 0x08 => s.partialCntRead
  | 0x0C => (at' 0 h.speed ||| at' 4 h.width ||| atB 9 h.changed, s)
  | 0x10 => (at' 0 h.twAddr ||| atB 7 h.pecReq ||| at' 8 h.twErrs, s.modHif fun h => { h with twErrs := 0 })
  | _ => (0, s)

def State.hifWrite (s : State) (off : Nat) (w : W32) : State :=
  match off with
  | 0x00 => if bit w 31 then s.modHif fun h => { h with gated := setBit h.gated 31 false } else s
  | 0x0C => s.modHif fun h => { h with changed := w1cB h.changed w 9 }
  | 0x10 => s.twCtlWrite w
  | _ => s

/-! ### Feature negotiation (R477) -/

/-- A write of SYS_FEAT_ACCEPT[i]. -/
def State.featAccept (s : State) (i : Nat) (w : W32) : State :=
  let offer : W32 := fld featOffer (32 * i) 32
  if s.sys.lock then s.modSys fun x => { x with reject := true }
  else s.modSys fun x => { x with accept := putFld x.accept (32 * i) (w &&& offer), reject := x.reject || (w &&& ~~~offer) != 0 }
def execFeatAcceptWrite (p : Port) (i : Fin 4) (w : W32) (s : State) : Res :=
  .next (s.writeIsl p (0x2010 + 4 * i.val) fun s => s.featAccept i.val w)

/-- With HOST_BOND in force every configured link leaves DOWN for OFFER (R94, R478). -/
def State.linksStart (s : State) : State :=
  (List.finRange 96).foldl (fun s n => if s.isHead n && (s.lane n).hb.state == .down then s.hbOffer n none else s) s

/-- A write of SYS_FEAT_LOCK. -/
def State.featLock (s : State) (w : W32) : State :=
  let was := s.feature 8
  let s := s.modSys fun x => { x with lock := x.lock || bit w 0, reject := w1cB x.reject w 1 }
  if !was && s.feature 8 then s.linksStart else s
def execFeatLock (p : Port) (w : W32) (s : State) : Res := .next (s.writeIsl p 0x2020 fun s => s.featLock w)

end Sys2Proof.Machine
end

