-- ==== Sys2Proof/Machine/KeyContexts.lean ====
section
/-!
DEFINITION. The windows of the key island onto secure associations, tributary entries and lookaside keys (R374, R387 to R389, R424).
-/
namespace Sys2Proof.Machine

/-- ITEM, TRB and AUTO_INC of KEY_CTX_ADDR. -/
def KeyIsland.ctxItem (k : KeyIsland) : Nat := (fld k.ctxAddr 0 18).toNat
def KeyIsland.ctxTrb (k : KeyIsland) : Bool := bit k.ctxAddr 19

/-- The address after a data access. -/
def State.ctxStep (s : State) : State :=
  if bit s.key.ctxAddr 18 then
    { s with key := { s.key with ctxAddr := putFld s.key.ctxAddr 0 (BitVec.ofNat 18 (s.key.ctxItem + 1)) } }
  else s

/-- A write is refused with a cause (R387). -/
def State.ctxRefuse (s : State) (c : BitVec 2) : State :=
  { s with key := { s.key with ctxRefused := true, ctxCause := c } }

/-! ### Associations (R388) -/

/-- The bits of association word w that exist. -/
def assocMask (w : Nat) : W32 := if w = 0 then 0x03FFFFFF#32 else if w = 7 then 0xF#32 else 0xFFFFFFFF#32

/-- A read of word w of association i. -/
def State.assocRead (s : State) (p : Port) (i w : Nat) : W32 × State :=
  let a := s.assoc i
  if w < 16 then (vget 0 a.w w, s)
  else if w < 28 then s.readPair p (base 7 + 0x10004) (vget 0 a.cnt ((w - 16) / 2)) (w % 2 == 1)
  else (0, s)

/-- A write of word w of association i (R387). -/
def State.assocWrite (s : State) (i w : Nat) (v : W32) : State :=
  if 16 ≤ w then s
  else
    let a := s.assoc i
    let v := v &&& assocMask w
    let b : Assoc := { a with w := vset a.w w v }
    if w = 0 ∧ a.valid ∧ fld a.w0 1 3 ≠ fld v 1 3 then s.ctxRefuse 1
    else if (w = 11 ∨ w = 12) ∧ a.valid ∧ a.egress ∧ b.pn.toNat < a.pn.toNat then s.ctxRefuse 3
    else
      s.modAssoc i fun _ =>
        if w = 0 ∧ !a.valid ∧ b.valid then { b with thSeen := false, exhSeen := false, spent := false }
        else if w = 11 ∨ w = 12 then { b with spent := false } else b

/-! ### Tributary entries (R389) -/

/-- VALID is set on a seal entry: the vault's seal-start counter rises, and its value starts the block counter; past its limit the
entry seals nothing (R374, R415). -/
def State.sealStart (s : State) (i : Nat) (t : TribCtx) : State :=
  if s.vault.sealStart = BitVec.allOnes 24 then
    (s.modTrib i fun _ => { t with dead := true }).report 1005 2 [1#8]
  else
    let n := s.vault.sealStart + 1
    ({ s with vault := { s.vault with sealStart := n } } : State).modTrib i fun _ =>
      { t with start := n, counter := n.setWidth 64 <<< 40, gap := 0, dead := false, exhSeen := false }

/-- A read of word w of tributary entry i. -/
def State.tribRead (s : State) (p : Port) (i w : Nat) : W32 × State :=
  let t := s.tribCtx i
  let key := base 7 + 0x10004
  if w < 5 then (vget 0 t.w w, s)
  else if w < 7 then s.readPair p key t.counter (w == 6)
  else if w = 7 then (t.start.setWidth 32, s)
  else s.readPair p key (vget 0 t.cnt ((w - 8) / 2)) (w % 2 == 1)

/-- A write of word w of tributary entry i (R373, R374, R387). -/
def State.tribWrite (s : State) (i w : Nat) (v : W32) : State :=
  if 5 ≤ w then s
  else
    let t := s.tribCtx i
    let v := if w = 0 then v &&& 0x7F#32 else v
    let b : TribCtx := { t with w := vset t.w w v }
    let dup := b.valid && s.key.trib.any fun e => e.1 != i && e.2.valid && e.2.open_ == b.open_ && e.2.ctxId == b.ctxId
    if t.valid ∧ (t.open_ ≠ b.open_ ∨ t.ctxId ≠ b.ctxId) then s.ctxRefuse 1
    else if !t.valid && dup then s.ctxRefuse 2
    else if !t.valid && b.valid && !b.open_ then s.sealStart i b
    else s.modTrib i fun _ => b

/-! ### The windows -/

/-- A read of KEY_CTX_DATA. -/
def State.ctxRead (s : State) (p : Port) : W32 × State :=
  let n := s.key.ctxItem
  let r := if s.key.ctxTrb then (if n < 16384 then s.tribRead p (n / 16) (n % 16) else (0, s)) else s.assocRead p (n / 32) (n % 32)
  (r.1, r.2.ctxStep)

/-- A write of KEY_CTX_DATA. -/
def State.ctxWrite (s : State) (v : W32) : State :=
  let n := s.key.ctxItem
  (if s.key.ctxTrb then (if n < 16384 then s.tribWrite (n / 16) (n % 16) v else s) else s.assocWrite (n / 32) (n % 32) v).ctxStep

/-- KEY_CTX_ACCESS (R387). -/
def execKeyCtxAccess (p : Port) (acc : Option W32) (s : State) : Res :=
  .next (match acc with
    | none => s.readIsl p (base 7 + 0x10004) fun s => s.ctxRead p
    | some w => s.writeIsl p (base 7 + 0x10004) fun s => s.ctxWrite w)

/-- The address of the lookaside window after a data access (R424). -/
def State.laStep (s : State) : State :=
  if bit s.key.laAddr 10 then
    { s with key := { s.key with laAddr := putFld s.key.laAddr 0 (BitVec.ofNat 10 ((fld s.key.laAddr 0 10).toNat + 1)) } }
  else s

/-- A read of KEY_LA_DATA. -/
def State.laRead (s : State) : W32 × State :=
  let n := (fld s.key.laAddr 0 10).toNat
  (vget 0 (Tab.get (Vector.replicate 4 0) s.key.la (n / 4) : LaKey) (n % 4), s.laStep)

/-- A write of KEY_LA_DATA. -/
def State.laWrite (s : State) (v : W32) : State :=
  let n := (fld s.key.laAddr 0 10).toNat
  let v := if n % 4 = 0 then v &&& 0x3F#32 else v
  ({ s with key := { s.key with la := Tab.mod (Vector.replicate 4 0) s.key.la (n / 4) fun e => vset e (n % 4) v } } : State).laStep

/-- KEY_LA_ACCESS (R424). -/
def execKeyLaAccess (p : Port) (acc : Option W32) (s : State) : Res :=
  .next (match acc with
    | none => s.readIsl p (base 7 + 0x2004) fun s => s.laRead
    | some w => s.writeIsl p (base 7 + 0x2004) fun s => s.laWrite w)

end Sys2Proof.Machine
end

