-- ==== Sys2Proof/Machine/Pump.lean ====
section
/-!
DEFINITION. The pump's commands (R174 to R196): a burst is granted, assembled, served and ended; the pump's registers.
-/
namespace Sys2Proof.Machine

/-- The burst of a first structure and its continuations is accepted: it is GRANTED (R176, R184). In O4 and O9 a grant with the PLOAMu
flag makes the steward send Registration or COMPLETE_u (R141). While no burst of the lane may be served it is discarded at once. -/
def State.acceptBurst (s : State) (n : LaneId) (ploamu : Bool) (b : Burst) : State :=
  let k := b.grants.length
  let s := (s.usCnt n 0 k).modPump n fun p => { p with bursts := insertBurst b p.bursts, nextId := p.nextId + 1 }
  let a := (s.lane n).act
  let s :=
    if ploamu ∧ a.state = .o4 then s.queuePloam n (.registration (a.regHeld.toList.flatMap fun w => leBytes 4 w.toNat))
    else if ploamu ∧ a.state = .o9 then s.queuePloam n .completeU
    else s
  if s.noTx n then s.discardBurst n b.id 9 else s

/-- The delay of a serial-number response in lane-transmit cycles, from the master generator (R148). -/
def State.serialDelay (s : State) : Nat := s.drawWord.1.toNat % 7465

/-- GRANT: the first structure that waits and its continuations reach the pump, ns after the PSync of the frame that carried them
(R174 to R176). -/
def execGrant (n : LaneId) (ns : Nat) (s : State) : Res :=
  .next (
    match (s.lane n).pump.grantQ with
    | [] => s
    | g :: t =>
      if !s.isLine n.val then s
      else
        let rest := contGrants g t
        let s := s.modPump n fun p => { p with grantQ := t.drop rest.length }
        let l := s.lane n
        let serial := decide (l.act.state = .o23 ∧ g.a.alloc = 0x3FF#14) && g.a.ploamu
        let b : Burst :=
          { id := l.pump.nextId, serial := serial, grants := (g :: rest).map (·.grant), ploamu := g.a.ploamu, profile := g.a.profile
            start := g.a.start.toNat, frame := g.frame, sfc := g.sfc
            randCycles := if serial then s.serialDelay else 0 }
        let s := if serial then s.drawWord.2 else s
        if !s.burstAllowed n b then s.usCnt n 4 b.grants.length
        else
          match s.refuseBurst n g rest b ns with
          | some (c, cause) => s.grantError n c b.grants.length cause
          | none =>
            match vget none l.pump.profiles b.profile.toNat with
            | some pr => s.acceptBurst n g.a.ploamu (b.timed l pr)
            | none => s)

/-- A queue of the lane that a burst it holds may take frames from. -/
def State.grantedQueue (s : State) (n : LaneId) (j : Nat) : Bool :=
  (s.lane n).pump.bursts.any fun b => b.grants.any fun g => (s.allocQueues n g.alloc).contains j

/-- The first frame of a queue that lies in the cistern has reached the trough. -/
def moveFirst : List Queued → List Queued
  | [] => []
  | e :: t => if e.inCistern then { e with inCistern := false } :: t else e :: moveFirst t

/-- A queue of lane n from which frames move to the trough: of a granted allocation (R183), or of a port downstream, whose MAC takes
only frames held in the trough (R232). -/
def State.drains (s : State) (n : LaneId) (j : Nat) : Bool :=
  if s.isLine n.val then s.grantedQueue n j else (vget {} (s.tm (quadOf n.val) true).ports (sliceOf n.val)).owns j

/-- CISTERN_TO_TROUGH_MOVE (R183, R459). A move that finds its request queue full waits (R460). -/
def execCisternToTroughMove (n : LaneId) (queue : Nat) (s : State) : Res :=
  .next (
    let down := !s.isLine n.val
    let cls := if down then 3 else 2
    match ((s.tm (quadOf n.val) down).queue queue).frames.find? Queued.inCistern with
    | none => s
    | some e =>
      if s.drains n queue && s.cstRoom cls then
        ((s.request cls false (linesOf (e.frame.bytes.length - e.sent))).modTm (quadOf n.val) down fun t =>
          t.modQueue queue fun x => { x with frames := moveFirst x.frames }).floatsAll
      else s)

/-- The oldest burst of a state. -/
def Pump.first (p : Pump) (st : BurstState) : Option Burst := p.bursts.find? fun b => b.state == st

/-- A burst of lane n replaced by its new value. -/
def State.putBurst (s : State) (n : LaneId) (b : Burst) : State :=
  s.modPump n fun p => { p with bursts := p.bursts.map fun x => if x.id = b.id then b else x }

/-- The PLOAMu message of a burst: a serial-number response has its own, any other takes the oldest that no burst holds (R146, R190). -/
def State.takeMsg (s : State) (n : LaneId) (b : Burst) : State × Option UsPloam :=
  let a := (s.lane n).act
  if !b.ploamu then (s, none)
  else if b.serial then (s, some (.serialNumber a.snVendor a.snVssn))
  else
    match a.usQ.find? fun m => m.held.isNone with
    | none => (s, none)
    | some m =>
      let i := a.usQ.findIdx fun m => m.held.isNone
      (s.modAct n fun a => { a with usQ := a.usQ.modify i fun m => { m with held := some b.id } }, some m.msg)

/-- A burst enters ASSEMBLING with its profile (R177, R178, R180, R183, R189). -/
def State.assemble (s : State) (n : LaneId) (b : Burst) (pr : Profile) : State :=
  let b := b.timed (s.lane n) pr
  let (s, msg) := s.takeMsg n b
  let left := (s.lane n).act.usQ.any fun m => m.held.isNone
  let st := (s.lane n).act.state
  let data := !b.serial && st != .o4 && st != .o9
  let b := { b with state := .assembling, prof := some pr, msg := msg, ind := setBit 0 8 left, filled := [] }
  let (s, b) := State.fillBurst n data b.grants s b
  (s.putBurst n b).floats (quadOf n.val)

/-- BURST_ASSEMBLE: serve time − 10 µs of the next burst in GRANTED. -/
def execBurstAssemble (n : LaneId) (s : State) : Res :=
  .next (
    match (s.lane n).pump.first .granted with
    | none => s
    | some b =>
      if !s.burstAllowed n b then s.discardBurst n b.id 4
      else
        match vget none (s.lane n).pump.profiles b.profile.toNat with
        | none => s.discardBurst n b.id 8
        | some pr => s.assemble n b pr)

/-- Bytes of queue j that stand before its first chosen frame in the cistern, where there is one. -/
def bytesBefore : List Queued → Option Nat
  | [] => none
  | e :: t =>
    if e.inCistern ∧ e.sent < e.chosen then some 0
    else (bytesBefore t).map (· + (e.chosen - e.sent))

/-- A burst keeps the first `keep` bytes that it holds of queue j and gives up the rest. -/
def Burst.keepOnly (b : Burst) (j keep : Nat) : Burst × Nat :=
  let step (acc : List Filled × Nat) (f : Filled) : List Filled × Nat :=
    let (ps, k) := f.pieces.foldl (fun (acc : List Piece × Nat) p =>
      match p with
      | .frame i _ len .. =>
        if i ≠ j then (acc.1 ++ [p], acc.2)
        else if len ≤ acc.2 then (acc.1 ++ [p], acc.2 - len)
        else (acc.1 ++ [.idle (8 + pad4 len)], 0)
      | .idle _ => (acc.1 ++ [p], acc.2)) ([], acc.2)
    (acc.1 ++ [{ f with pieces := mergeIdle ps }], k)
  let (fs, k) := b.filled.foldl step ([], keep)
  ({ b with filled := fs }, k)

/-- Bursts in order keep together the first `keep` bytes of queue j. -/
def keepBursts (j : Nat) : List Burst → Nat → List Burst
  | [], _ => []
  | b :: t, keep =>
    let (b, k) := b.keepOnly j keep
    b :: keepBursts j t k

/-- LATE_CISTERN_FRAME: a frame chosen of the queue has not reached the trough by serve time − 2 µs; it and every later frame of the
queue are left out, and their space is idle (R183). -/
def execLateCisternFrame (n : LaneId) (queue : Nat) (s : State) : Res :=
  .next (
    let q := quadOf n.val
    match (if s.isLine n.val && s.grantedQueue n queue then bytesBefore ((s.tm q false).queue queue).frames else none) with
    | none => s
    | some keep =>
      let s := s.modPump n fun p => { p with bursts := keepBursts queue p.bursts keep }
      let s := s.modTm q false fun t => t.modQueue queue fun x => { x with frames := rechoose x.frames keep }
      s.usCnt n 16)

/-- Emission of lane n is suppressed: an inhibit by TXINH_N is in force or ended less than 100 ns before, or TX_SQUELCH, ROGUE or the
thermal stop (R81, R159, R184). -/
def State.suppressed (s : State) (n : LaneId) : Bool :=
  s.pins.inhibited || bit (s.lane n).com.ctl 3 || s.pins.thermalStop || (s.lane n).act.rogue ||
  match s.pins.txinhRise with
  | some t => decide (s.now < t + 1000)
  | none => false

/-- The lane states in which TXEN_L_n may not go active (R159). -/
def ActState.silent : ActState → Bool
  | .o11 => true
  | .o12 => true
  | .o6 => true
  | .o7 => true
  | .o8 => true
  | _ => false

/-- BURST_SERVE: the TXEN_L_n activation time of the next burst in ASSEMBLING (R179, R184). Swing and weights are taken anew unless an
earlier burst is still leaving (R77). In a state in which TXEN_L_n may not go active the watchdog trips (R159). -/
def execBurstServe (n : LaneId) (s : State) : Res :=
  .next (
    match (s.lane n).pump.first .assembling with
    | none => s
    | some b =>
      if s.noTx n then s.discardBurst n b.id 9
      else if s.suppressed n then s.discardBurst n b.id 2
      else
        let dying := s.wel.pfailSeen && (s.lane n).pump.dgEn
        let busy := (s.lane n).serving
        let s := s.putBurst n (b.activated (s.lane n).com (setBit b.ind 0 dying))
        let s := s.modCom n fun c => { c with txen := true, txHeld := if busy then c.txHeld else c.txCfg, inject := none }
        if (s.lane n).act.state.silent then s.rogueTrip n else s)

/-- A piece as it leaves: encrypted with the content that the slot of its key index had when its header was encrypted, or idle where the
slot was empty (R188). pos is its place in the FS burst. -/
def State.sendPiece (s : State) (n : LaneId) (b : Burst) (pos : Nat) (p : Piece) : State × Piece :=
  match p with
  | .idle k => (s.usCnt n 13 k, p)
  | .frame j off len last port key bytes used =>
    let leave (s : State) : State := s.modTm (quadOf n.val) false fun t => t.modQueue j fun x => x.leave len
    let tag := if off = 0 then (((s.tm (quadOf n.val) false).queue j).frames.head?).bind fun e => e.frame.txTag else none
    let sent (s : State) (bytes : List Byte) : State × Piece :=
      let s := (((leave s).usCnt n 10).usCnt n 11 len).noteTag n tag
      (if last then s else s.usCnt n 12, .frame j off len last port key bytes used)
    if key = 0 then sent s bytes
    else
      match used.getD (vget none (s.lane n).ds.keys (key.toNat - 1)) with
      | some k => sent s (Config.tcCipher true k b.sfc pos bytes)
      | none => ((((leave s).usCnt n 21).toSump (quadOf n.val) 17 len).usCnt n 13 (8 + pad4 len), .idle (8 + pad4 len))

/-- Bytes that a piece takes of the FS burst. -/
def Piece.size : Piece → Nat
  | .idle k => k
  | .frame _ _ len .. => 8 + pad4 len

/-- The pieces of a grant leave in order from place pos on. -/
def State.sendPieces (n : LaneId) (b : Burst) : List Piece → State → Nat → State × List Piece
  | [], s, _ => (s, [])
  | p :: t, s, pos =>
    let (s, p') := s.sendPiece n b pos p
    let (s, ps) := State.sendPieces n b t s (pos + p.size)
    (s, p' :: ps)

/-- The grants of a burst leave in order. -/
def State.sendGrants (n : LaneId) (b : Burst) : List Filled → State → Nat → State × List Filled
  | [], s, _ => (s, [])
  | f :: t, s, pos =>
    let s := if f.bufOcc.isSome then s.usCnt n 17 else s
    let here := pos + (if f.bufOcc.isSome then 4 else 0)
    let (s, ps) := State.sendPieces n b f.pieces s here
    let (s, fs) := State.sendGrants n b t s (here + (f.pieces.map Piece.size).sum)
    (s, { f with pieces := ps } :: fs)

/-- Type and content of an upstream PLOAM message. -/
def UsPloam.content : UsPloam → Nat × List Byte
  | .serialNumber v b => (0, beBytes 4 v.toNat ++ beBytes 4 b.toNat)
  | .registration id => (1, id)
  | .tuneAck => (2, [])
  | .tuneNack r => (3, [match r with
      | .channelNotSupported => 0#8
      | .busy => 1#8
      | .insufficientTime => 2#8])
  | .completeU => (4, [])
  | .acknowledge e => (5, [if e then 1#8 else 0#8])
  | .keyReport k w => (6, BitVec.setWidth 8 k :: w)

/-- An XGEM frame as it is sent: the header of R122, and the payload padded to a multiple of 4 bytes; idle space in the idle format, but
4 bytes as zeros (R185, R186). -/
def Piece.wire : Piece → List Byte
  | .idle k => if k = 4 then zeros 4 else Config.idleXgem k
  | .frame _ _ len last port key bytes _ =>
    let h : BitVec 51 := BitVec.ofNat 14 len ++ key ++ port ++ Config.xgemOptions ++ BitVec.ofBool last
    beBytes 8 (h ++ hec h).toNat ++ padTo (pad4 len) bytes

/-- A grant as it is sent: DBRu where flagged, then the payload. -/
def Filled.wire (f : Filled) : List Byte :=
  (match f.bufOcc with
    | some o => beBytes 3 o.toNat ++ [dbruCrc o]
    | none => []) ++ f.pieces.flatMap Piece.wire

/-- BIP-32: the parity of the bits at each of the 32 places of the words of a list (R178). -/
def bip32 : List Byte → W32
  | a :: b :: c :: d :: t => (a ++ b ++ c ++ d : W32) ^^^ bip32 t
  | _ => 0

/-- RS(248,216) codewords of 216 data bytes with their 32 parity bytes, the last one shortened (R178). The fuel bounds the codewords. -/
def fecWords : Nat → List Byte → List Byte
  | 0, _ => []
  | fuel + 1, d => if d = [] then [] else (d.take 216 ++ rsParity (d.take 216)) ++ fecWords fuel (d.drop 216)

/-- A burst in the order of R178: preamble and delimiter unscrambled; FS header, PLOAMu, grants and trailer, with FEC parity where the
profile has it on, scrambled. -/
def State.burstWire (s : State) (n : LaneId) (b : Burst) (onu : BitVec 10) (fs : List Filled) : List Byte :=
  let h : BitVec 19 := onu ++ b.ind
  let msg := if b.ploamu then Config.usPloam onu (b.msg.map UsPloam.content) (s.tcKey n 0) else []
  let body := beBytes 4 (h ++ hec h).toNat ++ msg ++ fs.flatMap Filled.wire
  let fsb := body ++ beBytes 4 (bip32 body).toNat
  match b.prof with
  | some p =>
    (List.replicate p.rep p.pre).flatten ++ p.delim ++
      fsScramble b.sfc (if p.fec then fecWords fsb.length fsb else fsb)
  | none => fsScramble b.sfc fsb

/-- BURST_END: the grant end of the burst in SERVING (R178, R184). TXEN_L_n stays active where the next burst's is already (R79). -/
def execBurstEnd (n : LaneId) (s : State) : Res :=
  .next (
    match (s.lane n).pump.first .serving with
    | none => s
    | some b =>
      let s := s.ploamuLeft n b
      let (s, fs) := State.sendGrants n b b.filled s (4 + (if b.ploamu then 48 else 0))
      let onu : BitVec 10 := if b.serial then 0x3FF#10 else (s.lane n).ds.onuId
      let s := s.emit (.burst n onu b.ind (if b.ploamu then some b.msg else none) fs (b.shape (s.lane n).com)
        (s.burstWire n b onu fs))
      let s := (s.sendInverted n b.inject).usCnt n 1
      let s := s.modPump n fun p => { p with bursts := p.bursts.filter fun x => x.id != b.id }
      let s := s.modCom n fun c => { c with txen := (s.lane n).serving, txHeld := c.txCfg }
      (s.darkLeft (quadOf n.val)).powerSettle.floatsAll)

/-- A frame of lane n's queues is offside (R187). -/
def State.offside (s : State) (n : LaneId) : Bool :=
  let p : TmPort := vget {} (s.tm (quadOf n.val) false).ports (sliceOf n.val)
  (List.range p.qcount).any fun i => ((s.tm (quadOf n.val) false).queue (p.qbase + i)).frames.any fun f => decide (0 < f.miss)

/-! ### Registers (R192 to R196) -/

/-- LN_US_STATUS_n (R194). -/
def State.usStatus (s : State) (n : LaneId) : W32 :=
  let p := (s.lane n).pump
  atB 0 (!s.pins.txinhHigh || bit (s.lane n).com.ctl 3) ||| atB 1 (s.wel.pfailSeen && p.dgEn) ||| atB 2 p.grantErr ||| at' 3 p.cause |||
    atN 6 7 p.bursts.length ||| atB 13 (s.offside n)

/-- Words of a filter entry and of a profile (R195). -/
def AllocEntry.word (e : AllocEntry) : W32 := at' 0 e.alloc ||| atB 14 true ||| atB 15 e.dflt ||| atB 16 e.nofrag
def Profile.word (p : Profile) (i : Nat) : W32 :=
  if i = 0 then atB 0 true ||| atB 1 p.fec ||| atN 8 8 p.rep ||| atN 16 4 p.delim.length
  else if i = 1 then BitVec.ofNat 32 (leAt p.pre 0 4)
  else if i = 2 then BitVec.ofNat 32 (leAt p.pre 4 4)
  else if i = 3 then BitVec.ofNat 32 (leAt p.delim 0 4)
  else if i = 4 then BitVec.ofNat 32 (leAt p.delim 4 4)
  else 0

/-- A read of an item of the window (R195). -/
def State.usItem (s : State) (p : Port) (n : LaneId) (i : Nat) : W32 × State :=
  let x := (s.lane n).pump
  if i < 0x20 then
    (match vget none x.filter i with
      | some e => e.word
      | none => 0, s)
  else if 0x40 ≤ i ∧ i < 0x60 then
    (match vget none x.profiles ((i - 0x40) / 8) with
      | some e => e.word (i % 8)
      | none => 0, s)
  else if 0x200 ≤ i ∧ i < 0x22E then s.readPair p (laneBase n.val + 0x4010) (vget 0 x.cnt ((i - 0x200) / 2)) (i % 2 == 1)
  else (0, s)

def State.usWinRead (s : State) (p : Port) (n : LaneId) : W32 × State :=
  let (v, s) := s.usItem p n (laneItem (s.lane n).pump.winAddr)
  (v, s.modPump n fun x => { x with winAddr := laneWinStep x.winAddr })

/-- A write of an item: only NOFRAG of a valid filter entry is writable. -/
def State.usWinWrite (s : State) (n : LaneId) (w : W32) : State :=
  let i := laneItem (s.lane n).pump.winAddr
  s.modPump n fun x => { x with
    winAddr := laneWinStep x.winAddr
    filter := if i < 0x20 then vmod x.filter i fun e => e.map fun e => { e with nofrag := bit w 16 } else x.filter }

/-- CNT_CLR (R193). -/
def State.usCntClr (s : State) (n : LaneId) : State := s.modPump n fun p => { p with cnt := Vector.replicate 23 0 }

/-- Block 2 of a line lane, by offset from 0x4000. -/
def State.usRead (s : State) (p : Port) (n : LaneId) (off : Nat) : W32 × State :=
  let x := (s.lane n).pump
  if off = 0 then (atB 1 x.dgEn, s)
  else if off = 4 then (s.usStatus n, s)
  else if off = 8 then (at' 0 x.trim, s)
  else if off = 0xC then (x.winAddr, s)
  else if off = 0x10 then s.usWinRead p n
  else (0, s)

def State.usWrite (s : State) (n : LaneId) (off : Nat) (w : W32) : State :=
  if off = 0 then
    let s := s.modPump n fun p => { p with dgEn := bit w 1 }
    if bit w 0 then s.usCntClr n else s
  else if off = 4 then s.modPump n fun p => { p with grantErr := w1cB p.grantErr w 2 }
  else if off = 8 then s.modPump n fun p => { p with trim := fld w 0 12 }
  else if off = 0xC then s.modPump n fun p => { p with winAddr := rw 0x1FFF#32 w }
  else if off = 0x10 then s.usWinWrite n w
  else s

/-- US_CNT_CLR: LN_US_CTL_n.CNT_CLR. -/
def execUsCntClr (p : Port) (n : LaneId) (s : State) : Res :=
  .next (if s.isLine n.val then s.writeLane p n 0x4000 .common fun s => s.usCntClr n else s)

/-- US_WIN_ACCESS: a read or write of LN_US_WIN_DATA_n. -/
def execUsWinAccess (p : Port) (n : LaneId) (acc : Option W32) (s : State) : Res :=
  .next (if s.isLine n.val then
      match acc with
      | some w => s.writeLane p n 0x4010 .common fun s => s.usWinWrite n w
      | none => s.readLane p n 0x4010 .common fun s => s.usWinRead p n
    else s)

end Sys2Proof.Machine
end

