-- ==== Sys2Proof/Machine/Well.lean ====
section
/-!
DEFINITION. The well's commands (R514 to R525): boot scan, flushes, the power-fail sequence, freeze and thaw, READ, CHALLENGE and
CLEAR. Raising a record stands in Machine/Report.lean.
-/
namespace Sys2Proof.Machine

/-! ### A record as bytes (R512) -/

/-- Bytes 0 to 59 of a record. -/
def WellRec.headBytes (r : WellRec) : List Byte :=
  let x := r.raised
  leBytes 4 r.seq.toNat ++ leBytes 2 x.event.toNat ++ [x.rep.sev.setWidth 8] ++
  [BitVec.ofNat 8 ((if x.timeValid then 1 else 0) + (if x.lasting then 2 else 0) + (if x.rep.forced then 4 else 0) +
    (if x.direct then 8 else 0))] ++
  locBytes x.rep.loc ++ leBytes 4 x.ops.toNat ++ leBytes 4 x.pwr.toNat ++ leBytes 8 x.time.toNat ++
  leBytes 2 r.rep.toNat ++ zeros 2 ++ leBytes 4 x.symp.toNat ++ leBytes 8 r.lastTime.toNat ++ leBytes 4 r.lastOps.toNat ++
  zeros 8

/-- The 128 bytes of a record, with CHECK over bytes 0 to 59 and 64 to 127. -/
def WellRec.bytes (r : WellRec) : List Byte :=
  let d := padTo 64 r.raised.rep.detail
  r.headBytes ++ leBytes 4 (crc32 (r.headBytes ++ d)).toNat ++ d

/-- Bytes as n register words, byte 4i in [7:0] of word i. -/
def wordsOf (n : Nat) (bs : List Byte) : Vector W32 n := Vector.ofFn fun i => BitVec.ofNat 32 (leAt bs (4 * i.val) 4)

/-! ### Sequence numbers (R514) -/

/-- The newest of a list of SEQ: every other lies less than 2^31 behind it. -/
def newestSeq (l : List W32) : Option W32 := l.find? fun a => l.all fun b => seqGe a b

/-- The oldest of a list of SEQ: every other lies less than 2^31 ahead of it. -/
def oldestSeq (l : List W32) : Option W32 := l.find? fun a => l.all fun b => seqGe b a

/-- Every SEQ held, in RAM or in the vault. -/
def State.seqsHeld (s : State) : List W32 := s.vault.well.map (·.seq) ++ s.wel.ram.map (·.body.seq)

/-- WEL_SEQ_OLDEST: the lowest SEQ held; the next SEQ where none is. -/
def State.seqOldest (s : State) : W32 := (oldestSeq s.seqsHeld).getD s.wel.seqNext

/-- The record of a list with the lowest SEQ counted from a base. -/
def lowestFrom (base : W32) : List WellRec → Option WellRec
  | [] => none
  | r :: t =>
    match lowestFrom base t with
    | some q => if (r.seq - base).toNat ≤ (q.seq - base).toNat then some r else some q
    | none => some r

/-- A clear record: event 1023 written without the referee (R523). -/
def WellRec.isClear (r : WellRec) : Bool := r.raised.event == 1023#16 && r.raised.direct

/-! ### Boot scan (R514) -/

/-- The records that the scan leaves: none with a SEQ lower than the newest clear record's. -/
def scanKeep (l : List WellRec) : List WellRec :=
  match newestSeq ((l.filter (·.isClear)).map (·.seq)) with
  | some c => l.filter fun r => seqGe r.seq c
  | none => l

/-- The boot scan completes: absent records are counted and freed, the next SEQ is found, and the reports raised during the
scan get their records and ring entries in order. -/
def State.wellScan (s : State) : State :=
  if s.wel.scanned then s
  else
    let keep := scanKeep s.vault.well
    let next := match newestSeq (keep.map (·.seq)) with
      | some q => q + 1
      | none => 0
    let held := s.wel.preScan
    let s : State := { s with
      vault := { s.vault with well := keep, wellBad := 0 }
      wel := { s.wel with scanned := true, seqNext := next, preScan := [], badCnt := satAdd s.wel.badCnt s.vault.wellBad } }
    held.foldl State.raiseDone s

/-! ### Flushes (R516, R517) -/

/-- The records of the well region that a record may overwrite (R517): of severity at most its own, and never 4. -/
def mayReplace (r q : WellRec) : Bool :=
  decide (q.raised.rep.sev.toNat ≤ r.raised.rep.sev.toNat) && q.raised.rep.sev != 4

/-- The well region with a record written into it, or none where no slot may be taken (R517). A record already there is
rewritten in place; the record of a clear takes the place of every older one (R523). -/
def vaultPut (base : W32) (l : List WellRec) (r : WellRec) : Option (List WellRec) :=
  if l.any fun q => q.seq == r.seq then some (l.map fun q => if q.seq = r.seq then r else q)
  else if r.isClear then some ((l.filter fun q => seqGe q.seq r.seq) ++ [r])
  else if l.length < 65536 then some (l ++ [r])
  else
    match lowestFrom base (l.filter (mayReplace r)) with
    | some q => some ((l.filter fun x => x.seq != q.seq) ++ [r])
    | none => none

/-- The record of the RAM buffer with a SEQ. -/
def Well.find (w : Well) (q : W32) : Option RamRec := w.ram.find? fun r => r.body.seq == q

/-- The RAM record with a SEQ is marked flushed. -/
def Well.flushedRec (w : Well) (q : W32) : Well :=
  { w with ram := w.ram.map fun r => if r.body.seq = q then { r with flushed := true, dirty := false } else r }

/-- The flush goes on to its next record, or ends; a trigger kept through the power-fail sequence then acts (R518). -/
def Well.flushNext (w : Well) : Well :=
  match w.flush with
  | none => w
  | some f =>
    match f.todo with
    | _ :: (q :: t) => { w with flush := some { f with todo := q :: t } }
    | _ =>
      let w := { w with flush := none }
      if f.pfail && w.kept then { w with kept := false }.trigger else w

/-- One record of the flush is written to the vault, or its write fails (R516, R517). Whether a failed write leaves the slot
with a record that fails its CHECK is a free value. -/
def State.flushRecord (s : State) (ok : Bool) : State :=
  match s.wel.flush with
  | none => s
  | some f =>
    match f.todo with
    | [] => { s with wel := s.wel.flushNext }
    | q :: _ =>
      match s.wel.find q with
      | none => { s with wel := s.wel.flushNext }
      | some r =>
        if ok then
          match vaultPut s.seqOldest s.vault.well r.body with
          | some l =>
            { s with vault := { s.vault with well := l }, wel := (s.wel.flushedRec q).flushNext }
          | none =>
            let w := { s.wel with
              ram := s.wel.ram.filter fun x => x.body.seq != q, discards := satAdd s.wel.discards 1
              openRec := s.wel.openRec && !(s.wel.ram.getLast?.any fun (x : RamRec) => x.body.seq == q) }
            ({ s with wel := w.flushNext } : State).wellDiscarded
        else
          let bad := s.freeBits 1
          let s := s.tookFree
          let s : State := { s with
            vault := { s.vault with wellBad := s.vault.wellBad + bad.toNat }
            wel := { s.wel.flushNext with err := 8 } }
          s.report 1003 3

/-- A flush trigger (R516). -/
def State.wellTrigger (s : State) : State := { s with wel := s.wel.trigger }

/-! ### Power failure (R518) -/

/-- The order of the power-fail sequence: severity highest first, and newest first within one severity. -/
def pfailOrder (l : List RamRec) : List W32 :=
  [4, 3, 2, 1, 0].flatMap fun v => ((l.filter fun r => r.body.raised.rep.sev.toNat == v).map (·.body.seq)).reverse

/-- PFAIL_N falls: a freeze is broken, the record of event 1006 is written, and at most 512 records are put in the order of the
sequence (R518). A second fall before RESET_N starts none. -/
def State.pfail (s : State) : State :=
  if s.wel.pfailSeen then s
  else
    let broke := s.wel.frozen
    let side := s.wel.side
    let s : State := { s with wel := { s.wel with
      pfailSeen := true, flush := some { pfail := true }, frozen := false, side := []
      freezeBroken := s.wel.freezeBroken || broke } }
    let s := side.foldl State.wellAppend s
    let d := leBytes 2 s.wel.unflushed ++ [if broke then 1#8 else 0#8]
    let x := s.raisedNow 1006 { sev := 3, cls := fixedClass 1006, loc := evLoc 1006, detail := d } false true 0
    if !s.wel.scanned then { s with wel := { s.wel with preScan := s.wel.preScan ++ [x], flush := none } }
    else
      let s := State.wellWrite.fresh s x
      let todo := (pfailOrder (s.wel.ram.filter fun r => !r.flushed || r.dirty)).take 512
      { s with wel := { s.wel with flush := some { todo := todo, upTo := s.wel.seqNext, pfail := true } } }

/-! ### Commands of WEL_CMD (R520 to R524) -/

/-- A command is refused with a code. -/
def State.wellErr (s : State) (e : BitVec 4) : State := { s with wel := { s.wel with err := e } }

/-- A command of WEL_CMD: refused with ERR 2 while one is in progress. -/
def State.wellCmd (s : State) (k : State → State) : State :=
  if s.wel.busy.isSome then s.wellErr 2 else k s

/-- FREEZE (R520): a flush in progress stops, and acts again at the thaw. -/
def State.wellFreeze (s : State) : State :=
  if s.wel.frozen then s.wellErr 4
  else
    let stops := match s.wel.flush with
      | some f => !f.pfail
      | none => false
    { s with wel := { s.wel with
      frozen := true, err := 0, frozenSeq := s.wel.seqNext, side := []
      kept := s.wel.kept || stops
      flush := if stops then none else s.wel.flush } }

/-- THAW (R520). -/
def State.wellThawCmd (s : State) : State :=
  if s.wel.frozen then ({ s with wel := { s.wel with err := 0 } } : State).wellThaw else s.wellErr 4

/-- READ accepted, or refused with ERR 3 (R521). -/
def State.wellReadCmd (s : State) : State :=
  if s.wel.frozen then { s with wel := { s.wel with err := 0, busy := some .read, found := false, endSeen := false } }
  else s.wellErr 3

/-- The record that READ returns: the lowest SEQ at or after WEL_RD_SEQ and below WEL_FROZEN_SEQ (R521). -/
def State.wellNext (s : State) : Option WellRec :=
  let b := s.seqOldest
  let l := s.wel.ram.map (·.body) ++ s.vault.well
  lowestFrom b (l.filter fun r =>
    decide ((s.wel.rdSeq - b).toNat ≤ (r.seq - b).toNat) && decide ((r.seq - b).toNat < (s.wel.frozenSeq - b).toNat))

/-- READ completes (R521). -/
def State.wellReadDone (s : State) : State :=
  match s.wellNext with
  | some r => { s with wel := { s.wel with recWin := wordsOf 32 r.bytes, found := true, rdSeq := r.seq + 1 } }
  | none => { s with wel := { s.wel with endSeen := true } }

/-- The 32 challenge bytes (R522); the first 16 are the master generator's. -/
def State.chalBytes (s : State) : List Byte :=
  (s.draw 16).1 ++ beBytes 4 s.wel.seqNext.toNat ++ beBytes 4 s.vault.powerCycles.toNat ++ zeros 8

/-- CHALLENGE completes (R522). -/
def State.challengeDone (s : State) : State :=
  let t := (s.draw 16).2
  { t with wel := { t.wel with chal := wordsOf 8 s.chalBytes, chalValid := true } }

/-- The bytes that a vector of register words holds. -/
def bytesOf {n : Nat} (v : Vector W32 n) : List Byte := v.toList.flatMap fun w => leBytes 4 w.toNat

/-- The name of the well's clear key (R392, R397). -/
def State.clearName (s : State) : KeyName := s.keyName (fld s.key.zcfg 8 4).toNat 5 false 0 0 0 true

/-- CLEAR accepted or refused (R522). -/
def State.clearCmd (s : State) : State :=
  if s.wel.frozen then s.wellErr 4
  else if !s.wel.chalValid then s.wellErr 5
  else
    match if bit s.key.zcfg 12 then s.deriveKey s.clearName else none with
    | none => s.wellErr 7
    | some k =>
      let s : State := { s with wel := { s.wel with chalValid := false } }
      if bytesOf s.wel.token = hmacSha256 k (bytesOf s.wel.chal) then
        { s with wel := { s.wel with err := 0, busy := some .clear } }
      else s.wellErr 6

/-- CLEAR completes: the RAM buffer is emptied, the record of event 1023 begins the new log and is flushed at once (R523). -/
def State.clearDone (s : State) : State :=
  let w := s.wel
  let d := leBytes 4 (w.seqNext - 1).toNat ++ leBytes 4 (s.seqsHeld.eraseDups.length) ++ leBytes 4 w.discards.toNat
  let x := s.raisedNow 1023 { sev := 2, cls := 0, loc := evLoc 1023, detail := d } false true 0
  let s : State := { s with wel := { w with ram := [], flush := none, discards := 0, badCnt := 0, openRec := false } }
  (State.wellWrite.fresh s x).wellTrigger

/-- A well command completes (R521 to R523). -/
def State.wellDone (s : State) : State :=
  match s.wel.busy with
  | none => s
  | some c =>
    let t : State := { s with wel := { s.wel with busy := none } }
    match c with
    | .read => t.wellReadDone
    | .challenge => t.challengeDone
    | .clear => t.clearDone

/-- FLUSH (R516). -/
def State.wellFlushCmd (s : State) : State := ({ s with wel := { s.wel with err := 0 } } : State).wellTrigger

/-- CHALLENGE accepted (R522). -/
def State.challengeCmd (s : State) : State := { s with wel := { s.wel with err := 0, busy := some .challenge } }

/-- A write of WEL_CMD (R524). -/
def State.welCmdWrite (s : State) (w : W32) : State :=
  s.wellCmd fun s =>
    match (fld w 0 4).toNat with
    | 1 => s.wellFlushCmd
    | 2 => s.wellFreeze
    | 3 => s.wellThawCmd
    | 4 => s.wellReadCmd
    | 5 => s.challengeCmd
    | 6 => s.clearCmd
    | _ => s.wellErr 1

/-! ### Registers (R524) -/

/-- WEL_STATUS. -/
def Well.statusWord (w : Well) : W32 :=
  atB 0 w.busy.isSome ||| atB 1 w.frozen ||| atB 2 w.freezeBroken ||| atB 3 w.found ||| atB 4 w.endSeen |||
  atB 5 w.discardSeen ||| atB 6 w.flush.isSome ||| atB 7 w.scanned ||| at' 8 w.err ||| atN 12 9 w.side.length

/-- A read of the well island. -/
def State.welRead (s : State) (off : Nat) : W32 × State :=
  let w := s.wel
  (if off = 0x04 then w.statusWord
   else if off = 0x08 then w.seqNext
   else if off = 0x0C then s.seqOldest
   else if off = 0x10 then BitVec.ofNat 32 s.vault.well.length
   else if off = 0x14 then BitVec.ofNat 32 w.unflushed
   else if off = 0x18 then w.discards
   else if off = 0x1C then w.badCnt
   else if off = 0x20 then w.rdSeq
   else if off = 0x24 then w.frozenSeq
   else if 0x40 ≤ off ∧ off < 0x60 then vget 0 w.chal ((off - 0x40) / 4)
   else if 0x80 ≤ off ∧ off < 0x100 then vget 0 w.recWin ((off - 0x80) / 4)
   else 0, s)

/-- A write of the well island. -/
def State.welWrite (s : State) (off : Nat) (v : W32) : State :=
  let w := s.wel
  if off = 0x00 then s.welCmdWrite v
  else if off = 0x04 then
    { s with wel := { w with freezeBroken := w1cB w.freezeBroken v 2, discardSeen := w1cB w.discardSeen v 5 } }
  else if off = 0x20 then { s with wel := { w with rdSeq := v } }
  else if 0x60 ≤ off ∧ off < 0x80 then { s with wel := { w with token := vset w.token ((off - 0x60) / 4) v } }
  else s

/-! ### Commands -/

/-- WELL_SCAN (R514). -/
def execWellScan (s : State) : Res := .next s.wellScan

/-- WELL_SEVERITY_FLUSH: 1 ms after a record of severity 3 or 4 (R516). -/
def execWellSeverityFlush (s : State) : Res :=
  .next (if s.wel.sevDue then ({ s with wel := { s.wel with sevDue := false } } : State).wellTrigger else s)

/-- WELL_PERIODIC_FLUSH (R516). -/
def execWellPeriodicFlush (s : State) : Res := .next s.wellTrigger

/-- WELL_FLUSH_RECORD (R516, R517). -/
def execWellFlushRecord (ok : Bool) (s : State) : Res := .next (s.flushRecord ok)

/-- WELL_FLUSH: WEL_CMD FLUSH (R516). -/
def execWellFlush (p : Port) (s : State) : Res := .next (s.writeIsl p (base 4) fun s => s.wellCmd State.wellFlushCmd)

/-- PFAIL_FALL (R518). -/
def execPfailFall (s : State) : Res := .next s.pfail

/-- WELL_FREEZE (R520). -/
def execWellFreeze (p : Port) (s : State) : Res := .next (s.writeIsl p (base 4) fun s => s.wellCmd State.wellFreeze)

/-- WELL_THAW (R520). -/
def execWellThaw (p : Port) (s : State) : Res := .next (s.writeIsl p (base 4) fun s => s.wellCmd State.wellThawCmd)

/-- FREEZE_TIMEOUT: a freeze not thawed for 10 s is broken (R520). -/
def execFreezeTimeout (s : State) : Res := .next (if s.wel.frozen then s.wellBreakFreeze else s)

/-- WELL_READ (R521). -/
def execWellRead (p : Port) (s : State) : Res := .next (s.writeIsl p (base 4) fun s => s.wellCmd State.wellReadCmd)

/-- CHALLENGE (R522). -/
def execChallenge (p : Port) (s : State) : Res := .next (s.writeIsl p (base 4) fun s => s.wellCmd State.challengeCmd)

/-- CHALLENGE_EXPIRE: a challenge is 60 s old (R522). -/
def execChallengeExpire (s : State) : Res := .next { s with wel := { s.wel with chalValid := false } }

/-- CLEAR (R522, R523). -/
def execClear (p : Port) (s : State) : Res := .next (s.writeIsl p (base 4) fun s => s.wellCmd State.clearCmd)

/-- WELL_CMD_DONE (R521 to R523). -/
def execWellCmdDone (s : State) : Res := .next s.wellDone

end Sys2Proof.Machine
end

