-- ==== Sys2Proof/Machine/Rings.lean ====
section
/-!
DEFINITION. The DMA rings: control, doorbells, errors, interrupts, punt, inject and event entries (R479 to R490).
-/
namespace Sys2Proof.Machine

/-! ### Control (R480 to R483) -/

/-- The feature that ring r needs (R478). -/
def ringFeature (r : Nat) : Nat := min r 3

/-- Accesses to BAR2 and BAR4 arrive through PCIe. -/
def State.barUp (s : State) : Bool := s.portUp .pcie

/-- A doorbell value is accepted (R480). -/
def Ring.accepts (x : Ring) (host : Bool) (w : W32) : Bool :=
  seqGe w x.hostIdx && (if host then decide ((w - x.devIdx).toNat ≤ x.size) else seqGe x.devIdx w)

/-- DOORBELL. -/
def State.doorbell (s : State) (r : Nat) (w : W32) : State :=
  s.modRing r fun x => if x.accepts (r == 0 || r == 1 || r == 3) w then { x with hostIdx := w } else { x with dbErr := true }
def execDoorbell (r : RingId) (w : W32) (s : State) : Res := .next (if s.barUp then s.doorbell r.val w else s)

/-- EN goes from 0 to 1. -/
def State.ringEnable (s : State) (r : Nat) : State :=
  if (s.ring r).en || !s.feature (ringFeature r) then s
  else s.modRing r fun x => { x with ctl := setBit x.ctl 0 true, devIdx := 0, hostIdx := 0, unsig := 0, stopped := false }
def execRingEnable (r : RingId) (s : State) : Res := .next (if s.barUp then s.ringEnable r.val else s)

/-- EN is cleared. -/
def State.ringDisable (s : State) (r : Nat) : State := s.modRing r fun x => { x with ctl := setBit x.ctl 0 false }
def execRingDisable (r : RingId) (s : State) : Res := .next (if s.barUp then s.ringDisable r.val else s)

/-- RING_STOPPED: the work begun has finished. -/
def execRingStopped (r : RingId) (s : State) : Res :=
  .next (if (s.ring r.val).en then s else s.modRing r.val fun x => { x with stopped := true })

/-- PH of the entry of index i. -/
def Ring.phAt (x : Ring) (i : W32) : Bool := decide (i.toNat / x.size % 2 = 0)

/-- RESULT of the k inject entries from the device index on (R487, R488). -/
def State.injResult (s : State) (k : Nat) (status : Nat) : State :=
  let x := s.ring 1
  let s := (List.range k).foldl (fun s i =>
    let idx := x.devIdx + BitVec.ofNat 32 i
    s.ringPut 1 idx 18 [BitVec.ofNat 8 (2 * status + (if x.phAt idx then 1 else 0))]) s
  s.ringAdvance 1 k

/-- The entries concerned by a DMA error: on ring 1 all k of the frame that was being read (R483, R488). -/
def State.ringLost (s : State) (r k : Nat) : State :=
  match r with
  | 0 =>
    match s.hif.puntQ with
    | [] => s
    | p :: rest => (({ s with hif := { s.hif with puntQ := rest } } : State).toSump p.quad 21 p.bytes.length).ringDrop 0
  | 1 => if (s.ring 1).posted = 0 then s else (s.injResult (min (min 16 (s.ring 1).posted) (max 1 k)) 3).ringDrop 1
  | 2 =>
    match s.evt.toRing with
    | [] => s
    | _ :: rest => ({ s with evt := { s.evt with toRing := rest } } : State).ringDrop 2
  | 3 =>
    match s.fbk.la with
    | [] => s
    | j :: rest => { s with fbk := { s.fbk with la := { j with status := some 5, key := none } :: rest } }
  | _ => s

/-- RING_DMA_ERROR: the ring stops as if EN were cleared. -/
def execRingDmaError (r : RingId) (k : Nat) (s : State) : Res :=
  .next (
    if (s.ring r.val).stopped then s
    else ((s.ringLost r.val k).modRing r.val fun x => { x with ctl := setBit x.ctl 0 false, dmaErr := true }).report (914 + r.val) 3)

/-- RING_COAL_TIMER. -/
def execRingCoalTimer (r : RingId) (s : State) : Res :=
  .next (
    let x := s.ring r.val
    if 0 < x.unsig ∧ fld x.ctl 24 8 ≠ 0#8 then s.ringInt r.val else s)

/-- A read of HIF_RING_DROPS_r. -/
def State.ringDropsRead (s : State) (r : Nat) : W32 × State := ((s.ring r).drops, s.modRing r fun x => { x with drops := 0 })
def execRingDropsRead (r : RingId) (s : State) : Res :=
  .next (if s.barUp then (s.ringDropsRead r.val).2.emit (.read .pcie (s.ringDropsRead r.val).1) else s)

/-! ### Ring control blocks (R481) -/

/-- A register of the control block of ring r, at offset off. -/
def State.ringRead (s : State) (r off : Nat) : W32 × State :=
  let x := s.ring r
  match off with
  | 0x00 => (fld x.base 0 32, s)
  | 0x04 => (fld x.base 32 32, s)
  | 0x08 => (x.ctl, s)
  | 0x0C => (atB 0 x.stopped ||| atB 1 x.dmaErr ||| atB 2 x.ovf ||| atB 3 x.dbErr, s)
  | 0x10 => (x.devIdx, s)
  | 0x14 => s.ringDropsRead r
  | _ => (0, s)

/-- A write of HIF_RING_CTL_r: LOG2SIZE holds while the ring is not stopped. -/
def State.ringCtlWrite (s : State) (r : Nat) (w : W32) : State :=
  let w := rw 0xFFFF7F3F#32 w
  let s := s.modRing r fun x =>
    let c := setBit w 0 (bit x.ctl 0)
    { x with ctl := if x.stopped then c else putFld c 1 (fld x.ctl 1 5) }
  if bit w 0 then s.ringEnable r else s.ringDisable r

def State.ringWrite (s : State) (r off : Nat) (w : W32) : State :=
  match off with
  | 0x00 => s.modRing r fun x => if x.stopped then { x with base := putFld x.base 0 (rw 0xFFFFF000#32 w) } else x
  | 0x04 => s.modRing r fun x => if x.stopped then { x with base := putFld x.base 32 w } else x
  | 0x08 => s.ringCtlWrite r w
  | 0x0C => s.modRing r fun x => { x with dmaErr := w1cB x.dmaErr w 1, ovf := w1cB x.ovf w 2, dbErr := w1cB x.dbErr w 3 }
  | _ => s

/-! ### The punt ring (R484 to R486) -/

/-- The buffers that a frame of len bytes fills: how many bytes of each, or none where they do not hold it. -/
def fillBufs : Nat → List (W64 × BitVec 16) → Option (List (W64 × Nat))
  | 0, _ => some []
  | _ + 1, [] => none
  | len + 1, (a, n) :: rest =>
    let k := min (len + 1) n.toNat
    if k = 0 then none else (fillBufs (len + 1 - k) rest).map fun l => (a, k) :: l

/-- Bytes 16 to 47 of a punt entry. -/
def State.puntEntry (s : State) (p : Punt) (len : Nat) (sop eop ph : Bool) : List Byte :=
  let st := if s.feature 9 then p.stamp else none
  let flags : Byte := ((atB 0 ph ||| atB 1 sop ||| atB 2 eop ||| atB 3 st.isSome ||| atB 4 p.mic.isSome |||
    atB 5 (p.mic == some true)) : W32).setWidth 8
  let t := st.getD {}
  leBytes 2 len ++ [flags, p.kind, p.reason, (atN 0 7 p.lane ||| atB 7 p.down : W32).setWidth 8] ++
    leBytes 2 (if p.down then p.xgemPort.toNat else 0) ++ leBytes 4 (if sop then p.bytes.length else 0) ++ leBytes 2 p.rule.toNat ++
    [0, 0] ++ leBytes 8 t.ns.toNat ++ leBytes 2 t.frac.toNat ++
    [((at' 0 t.state ||| atB 3 t.valid ||| atB 4 t.stale : W32)).setWidth 8] ++ zeros 5

/-- The frame is written: its bytes to the buffers, then the entries. -/
def State.puntWrite (s : State) (p : Punt) (bufs : List (W64 × Nat)) : State :=
  let x := s.ring 0
  let n := bufs.length
  let s := (bufs.foldl (fun (y : State × List Byte) b => (y.1.emit (.hostWrite b.1 (y.2.take b.2)), y.2.drop b.2)) (s, p.bytes)).1
  let s := (List.range n).foldl (fun s i =>
    let idx := x.devIdx + BitVec.ofNat 32 i
    s.ringPut 0 idx 16 (s.puntEntry p ((bufs[i]?.map (·.2)).getD 0) (i == 0) (i + 1 == n) (x.phAt idx))) s
  s.ringAdvance 0 n

/-- PUNT: the oldest frame that waits; bufs are the buffers that the host has posted next, address and length. -/
def execPunt (bufs : List (W64 × BitVec 16)) (s : State) : Res :=
  .next (
    match s.hif.puntQ with
    | [] => s
    | p :: rest =>
      let s := s.modHif fun h => { h with puntQ := rest }
      let x := s.ring 0
      let fill := if s.isOn dHif ∧ x.en ∧ s.feature 0 then fillBufs p.bytes.length (bufs.take x.posted) else none
      match fill with
      | some l => s.puntWrite p l
      | none => (s.toSump p.quad 21 p.bytes.length).ringDrop 0)

/-! ### The inject ring (R487, R488) -/

def injSop (d : InjDesc) : Bool := bit d.flags 0
def injEop (d : InjDesc) : Bool := bit d.flags 1

/-- Lengths and SOP/EOP of a frame's entries are right. -/
def injShape (l : List InjDesc) : Bool :=
  let n := l.length
  decide (1 ≤ n ∧ n ≤ 16) && ((List.range n).all fun i =>
    match l[i]? with
    | some d => injSop d == (i == 0) && injEop d == (i + 1 == n) && decide (1 ≤ d.len.toNat ∧ d.len.toNat ≤ 16000)
    | none => false) && decide ((l.map fun d => d.len.toNat).sum ≤ 16000)

/-- LANE, OMCI and STAMP_REQ are valid together. -/
def State.injLane (s : State) (d : InjDesc) : Option LaneId :=
  if h : (fld d.lane 0 7).toNat < 96 then
    let n : LaneId := ⟨(fld d.lane 0 7).toNat, h⟩
    let line := s.isLine n.val
    if (line || s.isEth n.val || s.isSdh n.val || s.isHead n) && (!(bit d.flags 3) || line) &&
        (!(bit d.flags 2) || line || s.isEth n.val) then some n else none
  else none

/-- The bytes of a frame: the FCS is added, or the MIC of R158 on an OMCI port. -/
def State.injBytes (s : State) (n : LaneId) (omci : Bool) (l : List InjDesc) : List Byte :=
  let b := l.flatMap fun d => padTo d.len.toNat d.data
  if omci then b ++ Config.omciMic (s.tcKey n 1) b else addFcs b

/-- A frame for the parser, as if received on the lane. -/
def State.injPipe (s : State) (n : LaneId) (d : InjDesc) (f : Frame) : State × Nat :=
  let q := quadOf n.val
  if s.isLine n.val then (s.toParser q { f with down := true, xgemPort := d.port }, 0)
  else if s.troughRoom q < f.bytes.length then (s.toSump q 1 f.bytes.length, 4)
  else (s.toParser q f, 0)

/-- A frame for a queue of the lane (R336). -/
def State.injQueue (s : State) (n : LaneId) (d : InjDesc) (f : Frame) : State × Nat :=
  let q := quadOf n.val
  let down := !s.isLine n.val
  let j := (fld d.queue 0 12).toNat
  let p : TmPort := vget {} (s.tm q down).ports (sliceOf n.val)
  if !p.owns j || decide (s.queueCount q down ≤ j) then (s, 1)
  else
    (s.intoQueue q down j f, if (s.admission q down j f).isSome then 0 else 4)

/-- A frame of good shape: the state after it and its STATUS. -/
def State.injFrame (s : State) (d : InjDesc) (l : List InjDesc) : State × Nat :=
  let q := (fld d.lane 0 7).toNat / 24
  let len := (l.map fun d => d.len.toNat).sum
  if q < 4 && (s.isDark q || !s.isOn (dQuad q)) then (s.toSump q 16 len, 5)
  else
    match s.injLane d with
    | none => (s, 1)
    | some n =>
      let omci := bit d.flags 3
      let stamp := bit d.flags 2 && s.feature 9
      let f : Frame := {
        lane := n.val, bytes := s.injBytes n omci l, xgemPort := d.port, ptp := stamp, txTag := if stamp then some d.tag else none
        omci := s.isLine n.val && !(bit d.flags 4) }
      if bit d.flags 4 then s.injPipe n d f else s.injQueue n d f

/-- INJECT: the entries of the next frame of ring 1, as they stand in host memory. -/
def execInject (descs : List InjDesc) (s : State) : Res :=
  .next (
    let x := s.ring 1
    match descs with
    | [] => s
    | d :: _ =>
      if !s.isOn dHif || !x.en || !s.feature 1 || decide (x.posted < descs.length) then s
      else if !injShape descs then s.injResult descs.length 2
      else
        let (s, st) := s.injFrame d descs
        (s.injResult descs.length st).floatsAll)

/-! ### The event ring (R489) -/

/-- The 32 bytes of an event entry. -/
def eventEntry (seq : W32) (x : Raised) (ph : Bool) : List Byte :=
  leBytes 4 seq.toNat ++ leBytes 2 x.event.toNat ++ [x.rep.sev.setWidth 8] ++
    [(atB 0 ph ||| atB 1 x.timeValid ||| atB 2 x.lasting : W32).setWidth 8] ++ locBytes x.rep.loc ++ leBytes 8 x.time.toNat ++
    leBytes 4 x.symp.toNat ++ padTo 4 x.rep.detail

/-- EVENT_RING_POST: the oldest event that waits for ring 2. Without the ring it is not posted. -/
def execEventRingPost (s : State) : Res :=
  .next (
    match s.evt.toRing with
    | [] => s
    | (q, x) :: rest =>
      let s : State := { s with evt := { s.evt with toRing := rest } }
      let r := s.ring 2
      if !s.isOn dHif || !r.en || !s.feature 2 then s
      else if r.room = 0 then
        ((s.ringDrop 2).modRing 2 fun y => { y with ovf := true }).reportIf (!r.ovf) 919 2
      else (s.ringPut 2 r.devIdx 0 (eventEntry q x r.ph)).ringAdvance 2 1)

/-! ### BAR2 and BAR4 (R471, R472) -/

/-- A word of the MSI-X table. -/
def MsixEntry.word (e : MsixEntry) (i : Nat) : W32 :=
  match i with
  | 0 => fld e.addr 0 32
  | 1 => fld e.addr 32 32
  | 2 => e.data
  | _ => atB 0 e.masked

/-- A write of a word of entry v: a pending message is sent when its mask is cleared. -/
def State.msixWrite (s : State) (v i : Nat) (w : W32) : State :=
  let s := s.modHif fun h => { h with msix := vmod h.msix v fun e =>
    match i with
    | 0 => { e with addr := putFld e.addr 0 (rw 0xFFFFFFFC#32 w) }
    | 1 => { e with addr := putFld e.addr 32 w }
    | 2 => { e with data := w }
    | _ => { e with masked := bit w 0 } }
  let e : MsixEntry := vget {} s.hif.msix v
  if bit s.hif.pba v ∧ !e.masked then
    (s.modHif fun h => { h with pba := setBit h.pba v false }).emit (.msix e.addr e.data)
  else s

/-- A read of BAR4. -/
def State.bar4Read (s : State) (off : Nat) : W32 × State :=
  if off < 0x140 then s.ringRead (off / 0x40) (off % 0x40)
  else if 0x4000 ≤ off ∧ off < 0x4400 then ((vget {} s.hif.msix ((off - 0x4000) / 16)).word (off % 16 / 4), s)
  else if off = 0x5000 then (fld s.hif.pba 0 32, s)
  else if off = 0x5004 then (fld s.hif.pba 32 32, s)
  else (0, s)

def State.bar4Write (s : State) (off : Nat) (w : W32) : State :=
  if off < 0x140 then s.ringWrite (off / 0x40) (off % 0x40) w
  else if 0x4000 ≤ off ∧ off < 0x4400 then s.msixWrite ((off - 0x4000) / 16) (off % 16 / 4) w
  else s

/-- A write of BAR2: a doorbell. -/
def State.bar2Write (s : State) (off : Nat) (w : W32) : State :=
  if 0x1000 ≤ off ∧ off < 0x1028 ∧ off % 8 = 0 then s.doorbell ((off - 0x1000) / 8) w else s

end Sys2Proof.Machine
end

