-- ==== Sys2Proof/Machine/Rules.lean ====
section
/-!
DEFINITION. Rule banks, their commands and epochs (R283, R287 to R289, R303), and the registers of blocks 0 to 2 of a quadrant island
that the parser, classifier and rally own.
-/
namespace Sys2Proof.Machine

/-- The frame took bank b on its first pass and has not finished its rally (R288). -/
def Frame.waitsRally (f : Frame) (b : Bool) : Bool := f.first.isSome && f.act.isNone && f.later.isNone && f.bank == b && !f.retired

/-- The in-flight count of bank b (R288). -/
def Quad.inflight (x : Quad) (b : Bool) : Nat :=
  (x.cph.queue.filter (·.waitsRally b)).length + (x.cph.rob.filter fun j => j.frame.waitsRally b).length +
    (x.rallyQ.filter (·.waitsRally b)).length

/-- QD_CLS_STATUS (R303). -/
def Quad.clsStatus (x : Quad) : W32 :=
  atB 0 x.active ||| atB 1 x.busy.isSome ||| atB 2 x.draining ||| at' 8 x.clsErr ||| at' 16 x.epoch

/-- The hits of every rule of a bank are cleared. -/
def clearHits (t : Tab Rule) : Tab Rule := Tab.mapAll {} t fun _ r => { r with hits := 0 }

/-- SWAP is accepted: the shadow bank becomes active with the next epoch (R287, R288). -/
def Quad.swap (x : Quad) : Quad :=
  let n := x.inflight x.active
  let y := x.setBank (!x.active) (clearHits (x.bankOf (!x.active)))
  { y with
    active := !x.active, epoch := x.epoch + 1, clsErr := 0
    draining := decide (n ≠ 0), busy := if n = 0 then none else some .swap }

/-- A bank command is written (R287). -/
def Quad.bankCmd (x : Quad) (op : Nat) : Quad :=
  if x.busy.isSome then { x with clsErr := 1 }
  else
    match op with
    | 1 => x.swap
    | 2 => { x with busy := some .copy, clsErr := 0 }
    | 3 => { x with busy := some .clear, clsErr := 0 }
    | _ => { x with clsErr := 3 }

/-- A write of QD_CLS_CMD. -/
def State.clsCmd (s : State) (p : Port) (q : QuadId) (op : Nat) : State :=
  s.writeIsl p (quadBase q + 0x2004) fun s => s.modQuad q fun x => x.bankCmd op

/-- CLS_SWAP (R287, R288). -/
def execClsSwap (p : Port) (q : QuadId) (s : State) : Res := .next (s.clsCmd p q 1)

/-- CLS_COPY (R287). -/
def execClsCopy (p : Port) (q : QuadId) (s : State) : Res := .next (s.clsCmd p q 2)

/-- CLS_CLEAR (R287). -/
def execClsClear (p : Port) (q : QuadId) (s : State) : Res := .next (s.clsCmd p q 3)

/-- CLS_SWAP_DRAINED: the draining bank's count is 0 and the SWAP completes (R288). -/
def execClsSwapDrained (q : QuadId) (s : State) : Res :=
  .next (s.modQuad q fun x =>
    if x.busy = some .swap ∧ x.draining ∧ x.inflight (!x.active) = 0 then { x with busy := none, draining := false } else x)

/-- Frames of the draining bank are marked in the cores and removed from the two queues (R289). -/
def Quad.retire (x : Quad) : Quad :=
  let b := !x.active
  let mark (j : Job) : Job := if j.frame.waitsRally b then { j with frame := { j.frame with retired := true } } else j
  { x with
    cph := { x.cph with queue := x.cph.queue.filter fun f => !f.waitsRally b, rob := x.cph.rob.map mark }
    rallyQ := x.rallyQ.filter fun f => !f.waitsRally b
    busy := none, draining := false }

/-- EPOCH_RETIRE: a SWAP that has not drained retires its old epoch (R289). -/
def execEpochRetire (q : QuadId) (s : State) : Res :=
  .next (
    let x := s.quad q
    if x.busy = some .swap ∧ x.draining then
      let gone := (x.cph.queue.filter (·.waitsRally (!x.active))) ++ x.rallyQ.filter (·.waitsRally (!x.active))
      ((s.modQuad q Quad.retire).dropFrames q.val 7 gone).report (980 + q.val) 2
    else s)

/-- A COPY or a CLEAR completes (R287). -/
def Quad.cmdDone (x : Quad) : Quad :=
  match x.busy with
  | some .copy =>
    let src := x.bankOf x.active
    let dst := x.bankOf (!x.active)
    let hitsOf (i : Nat) : W32 := (Tab.get {} dst i : Rule).hits
    let merged := (Tab.mapAll {} dst fun _ r => { w := Vector.replicate 44 0, hits := r.hits })
    { x.setBank (!x.active) (src.foldl (fun t e => Tab.put {} t e.1 { w := e.2.w, hits := hitsOf e.1 }) merged) with busy := none }
  | some .clear => { x.setBank (!x.active) [] with busy := none }
  | _ => x

/-- CLS_CMD_DONE (R287). -/
def execClsCmdDone (q : QuadId) (s : State) : Res := .next (s.modQuad q Quad.cmdDone)

/-! ### The rule window (R283, R303) -/

/-- The bits of rule word w that exist (R6, R285); word 43 is reserved. -/
def ruleMask (w : Nat) : W32 :=
  if w = 40 then 0xFFF7FFFF#32 else if w = 41 then 0xFFFF7FFF#32 else if w = 42 then 0x00FFFFFF#32
  else if w = 43 then 0 else 0xFFFFFFFF#32

/-- The window's rule, word and bank. -/
def Quad.winRule (x : Quad) : Nat := (fld x.winAddr 0 12).toNat
def Quad.winWord (x : Quad) : Nat := (fld x.winAddr 12 6).toNat
def Quad.winBank (x : Quad) : Bool := if bit x.winAddr 19 then x.active else !x.active

/-- The address after a data access. -/
def Quad.winStep (x : Quad) : Quad :=
  if bit x.winAddr 18 then
    if x.winWord = 44 then
      { x with winAddr := putFld (putFld x.winAddr 12 (0#6)) 0 (BitVec.ofNat 12 (x.winRule + 1)) }
    else { x with winAddr := putFld x.winAddr 12 (BitVec.ofNat 6 (x.winWord + 1)) }
  else x

/-- The word that the window shows. -/
def Quad.winRead (x : Quad) : W32 :=
  let r : Rule := Tab.get {} (x.bankOf x.winBank) x.winRule
  if x.winWord < 44 then vget 0 r.w x.winWord else if x.winWord = 44 then r.hits else 0

/-- A write of QD_CLS_WIN_DATA. -/
def Quad.winWrite (x : Quad) (v : W32) : Quad :=
  if bit x.winAddr 19 then { x with clsErr := 2 }.winStep
  else if x.busy.isSome then { x with clsErr := 1 }.winStep
  else if x.winWord < 44 then
    (x.setBank (!x.active) (Tab.mod {} (x.bankOf (!x.active)) x.winRule fun r =>
      { r with w := vset r.w x.winWord (v &&& ruleMask x.winWord) })).winStep
  else x.winStep

/-- RULE_WRITE: a write, or a read, of QD_CLS_WIN_DATA (R283, R287, R303). -/
def execRuleWrite (p : Port) (q : QuadId) (acc : Option W32) (s : State) : Res :=
  .next (match acc with
    | some w => s.writeIsl p (quadBase q + 0x2014) fun s => s.modQuad q fun x => x.winWrite w
    | none => s.readIsl p (quadBase q + 0x2014) fun s => ((s.quad q).winRead, s.modQuad q Quad.winStep))

/-! ### Registers of blocks 0 to 2 (R302, R303) -/

/-- A read of the parser's, classifier's or rally's registers. -/
def State.clsRead (s : State) (q : Nat) (off : Nat) : W32 × State :=
  let x : Quad := vget {} s.quads q
  if off = 0x0000 then (x.prsCtl, s)
  else if off = 0x0004 then (x.etype, s)
  else if off = 0x0008 then s.deepRead q
  else if off = 0x000C then s.skipRead q
  else if off = 0x2000 then (x.clsCtl, s)
  else if off = 0x2008 then (x.clsStatus, s)
  else if off = 0x200C then (if x.draining then BitVec.ofNat 32 (x.inflight (!x.active)) else 0, s)
  else if off = 0x2010 then (x.winAddr, s)
  else if off = 0x2014 then (x.winRead, s.modQuadN q Quad.winStep)
  else if off = 0x4000 then s.rallyRead q
  else (0, s)

/-- A write of the parser's or classifier's registers. -/
def State.clsWrite (s : State) (q : Nat) (off : Nat) (w : W32) : State :=
  if off = 0x0000 then s.modQuadN q fun x => { x with prsCtl := rw 0xFFFF0007#32 w }
  else if off = 0x0004 then s.modQuadN q fun x => { x with etype := w }
  else if off = 0x2000 then s.modQuadN q fun x => { x with clsCtl := rw 0x3#32 w }
  else if off = 0x2004 then s.modQuadN q fun x => x.bankCmd (fld w 0 2).toNat
  else if off = 0x2010 then s.modQuadN q fun x => { x with winAddr := rw 0x000FFFFF#32 w }
  else if off = 0x2014 then s.modQuadN q fun x => x.winWrite w
  else s

end Sys2Proof.Machine
end

