-- ==== Sys2Proof/Machine/Servo.lean ====
section
/-!
DEFINITION. The servo: time of day, samples, states, the downstream delay, PPS_IN, and the time island's registers (R436 to R442, R446,
R448 to R450).
-/
namespace Sys2Proof.Machine

/-! ### The downstream delay (R436) -/

/-- τ_ds from its present inputs, none while the round trip is unknown. Without the feature DISPERSION no channel enters (R478). -/
def State.tauNow (s : State) : Option (Int × W32) :=
  match s.refLaneId with
  | none => none
  | some n =>
    let a := (s.lane n).act
    tauOf s.tim (s.lane n).ts.asym.toInt { roundTrip := a.roundTrip, channels := if a.chKnown ∧ s.feature 10 then some (a.chDs, a.chUs) else none }

/-- TIM_TAU_DS takes its new value. -/
def State.retau (s : State) : State :=
  let t := s.tauNow
  s.modTim fun x => { x with tau := t.map (·.1), tau16 := match t with | some y => y.2 | none => 0xFFFFFFFF#32 }

/-- A change of reference in ACQUIRE or LOCKED: as for a loss, and the anchor is formed anew (R441). -/
def State.refChange (s : State) : State := s.refLoss.modTim fun t => { t with anchor := none }

/-- The servo steers. -/
def Time.steers (t : Time) : Bool := t.state == .acquire || t.state == .locked

/-- TAU_DS_RECOMPUTE: a change by more than STEP_TH counts as a change of reference. -/
def execTauDsRecompute (s : State) : Res :=
  .next (
    if !s.isOn dTim then s
    else
      let old := s.tim.tau.getD 0
      let s := s.retau
      let d := s.tim.tau.getD 0 - old
      if s.tim.srcField = 1 ∧ s.tim.steers ∧ (s.tim.stepTh < d ∨ s.tim.stepTh < -d) then s.refChange else s)

/-! ### The reference (R441) -/

/-- REF_PRESENT. -/
def State.refPresent (s : State) : Bool :=
  match s.tim.srcField with
  | 1 => match s.refLaneId with
    | some n => s.inSync n && (s.lane n).com.cdrLock
    | none => false
  | 2 => s.tim.ppsPresent
  | _ => false

/-- REF_LOST: the line lane's reference is not present, or 1.1 s have passed with no usable edge of PPS_IN. -/
def execRefLost (s : State) : Res :=
  .next (
    let src := s.tim.srcField
    if !s.isOn dTim || src == 0 || (src == 1 && s.refPresent) then s
    else
      let s := if src = 2 then s.modTim fun t => { t with ppsPresent := false } else s
      if s.tim.steers then s.refLoss else s.modTim fun t => { t with holdRun := [] })

/-! ### The latch (R439) -/

/-- Times and frames as the servo compares them: the difference of two moments modulo the count, and of two frames modulo 2^51. -/
def timeDiff (a b : Int) : Int := (BitVec.ofInt 96 (a - b)).toInt
def frameDiff (a b : BitVec 51) : Int := (a - b).toInt
def frameNs : Int := 125000 * nsUnit

/-- TOD_LATCH: REF_LANE has received frame N. -/
def execTodLatch (s : State) : Res :=
  .next (
    match (if s.isOn dTim ∧ s.tim.srcField = 1 ∧ s.tim.todArmed then s.tim.psync else none) with
    | none => s
    | some ps =>
      if ps.sfc ≠ s.tim.latchN then s
      else
        match s.tauNow with
        | none => ((s.disarmTod).timErr 4).report 1011 1
        | some (tau, _) =>
          let tod : Int := (s.tim.latchTod.toNat : Int) * nsUnit
          let e := timeDiff ps.time (tod + tau)
          let s := s.disarmTod.modTim fun t => { t with anchor := some { time := tod, sfc := ps.sfc } }
          if s.tim.timeSet then s
          else (s.stepBy (-e)).modTim fun t => { t with timeSet := true, psync := none })

/-! ### Samples (R440, R441) -/

/-- Samples of a second. -/
def Time.rate (t : Time) : Nat := if t.srcField = 1 then 8000 else 1

/-- The unit of f: 2^15 × 625,000,000 to an increment. -/
def freqUnit : Int := 32768 * 625000000

/-- The next sample: its phase error, and the state without it. With SRC 1 the first one of a reference sets the anchor. -/
def State.takeSample (s : State) : Option (Int × State) :=
  if s.tim.srcField = 1 then
    match s.tim.psync with
    | none => none
    | some ps =>
      let tau := s.tim.tau.getD 0
      let a := s.tim.anchor.getD { time := ps.time - tau, sfc := ps.sfc }
      let e := timeDiff ps.time (a.time + tau + frameDiff ps.sfc a.sfc * frameNs)
      some (e, s.modTim fun t => { t with psync := none, anchor := some a })
  else if s.tim.srcField = 2 then s.tim.ppsSample.map fun e => (e, s.modTim fun t => { t with ppsSample := none })
  else none

/-- f and the increment follow a sample; an increment that falls between two values is rounded by a free bit. -/
def State.steer (s : State) (e : Int) : State :=
  let t := s.tim
  let per : Int := if t.srcField = 1 then 8000 else 1
  let nom : Int := incrNominal
  let f := t.freq - e * 2 ^ (15 - t.ki) * per
  let f := max ((incrMin - nom) * freqUnit) (min ((incrMax - nom) * freqUnit) f)
  let v := nom * freqUnit + f - e * 2 ^ (15 - t.kp) * per
  let q := v / freqUnit + (if v % freqUnit = 0 then 0 else ((s.freeBits 1).toNat : Int))
  let q := max (incrMin : Int) (min (incrMax : Int) q)
  (s.tookFree.modTim fun t => { t with freq := f }).setIncr (BitVec.ofInt 40 q)

/-- The sample's runs. -/
def Time.countRuns (t : Time) (e : Int) : Time :=
  let a := max e (-e)
  { t with
    samples := min (t.samples + 1) 16000
    lowRun := if a < t.lockTh then min (t.lowRun + 1) 16000 else 0
    highRun := if 4 * t.lockTh < a then min (t.highRun + 1) 16 else 0
    wildRun := if t.stepTh < a then t.wildRun + 1 else 0 }

/-- ACQUIRE and LOCKED after a sample (R441). -/
def Time.judge (t : Time) : Time :=
  if t.state = .acquire then
    let t := if t.noRate ∧ t.rate ≤ t.samples then { t with noRate := false } else t
    if !t.noRate ∧ t.rate ≤ t.lowRun then { t.noRuns with state := .locked } else t
  else if t.state = .locked ∧ 16 ≤ t.highRun then { t.noRuns with state := .acquire }
  else t

/-- A sample in ACQUIRE or LOCKED. -/
def State.steered (s : State) (e : Int) : State :=
  let t := s.tim
  let wild := decide (t.stepTh < e ∨ t.stepTh < -e)
  if t.state = .acquire ∧ t.samples = 0 ∧ wild ∧ t.stepEn then (s.stepBy (-e)).modTim fun t => { t with samples := 1 }
  else
    let s := s.modTim fun t => t.countRuns e
    if 4 ≤ s.tim.wildRun then s.refChange else (s.steer e).modTim Time.judge

/-- The samples of HOLDOVER that no two differ by more than th, newest first. -/
def calmRun (th : Int) : List Int → Int → Int → List Int
  | [], _, _ => []
  | x :: l, lo, hi =>
    let lo := min lo x
    let hi := max hi x
    if th < hi - lo then [] else x :: calmRun th l lo hi

/-- A sample in HOLDOVER: 2 s of calm samples lead to ACQUIRE, with f kept. -/
def Time.held (t : Time) (e : Int) : Time :=
  let run := e :: (calmRun t.stepTh t.holdRun e e).take (2 * t.rate)
  if 2 * t.rate ≤ run.length then { t.noRuns with state := .acquire } else { t with holdRun := run }

/-- SERVO_SAMPLE: a reference event. In PRIMING with the reference present the servo enters ACQUIRE, and the sample is its first. -/
def execServoSample (s : State) : Res :=
  .next (
    if !s.isOn dTim || !s.refPresent then s
    else
      match s.takeSample with
      | none => s
      | some (e, s) =>
        let s := (s.modTim fun t => { t with lastE := e }).endCond 1008
        let hold := s.tim.holdBit
        match s.tim.state with
        | .host => s
        | .priming => if hold then s else (s.modTim fun t => { t.noRuns with state := .acquire, freq := 0 }).steered e
        | .holdover => if hold then s.modTim fun t => { t with holdRun := [] } else s.modTim fun t => t.held e
        | .acquire => s.steered e
        | .locked => s.steered e)

/-! ### TIM_CTL (R441) -/

/-- A write of TIM_CTL. -/
def State.timCtlWrite (s : State) (w : W32) : State :=
  let a := s.tim
  let b : Time := { a with ctl := w }
  let src := decide (a.srcField ≠ b.srcField)
  let ref := decide (a.refLane ≠ b.refLane)
  let s := s.modTim fun _ => b
  let s := if src || ref then s.disarmTod.modTim fun t => { t with psync := none, ppsSample := none } else s
  let s := if ref then s.retau else s
  if src && b.srcField == 0 then s.modTim fun t => { t.noRuns with state := .host }
  else if a.state = .host then
    if src then s.modTim fun t => { t.noRuns with
      state := .holdover, anchor := none, freq := ((t.incr.toNat : Int) - incrNominal) * freqUnit } else s
  else if (src && a.srcField != 0) || (ref && b.srcField != 0) then s.refChange
  else if b.holdBit && !a.holdBit && a.steers then s.refLoss
  else s

/-- TIM_CTL_WRITE. -/
def execTimCtlWrite (p : Port) (w : W32) (s : State) : Res := .next (s.writeIsl p (base 6) fun s => s.timCtlWrite w)

/-! ### PPS_IN (R440, R446) -/

/-- The count so many sixteenths of a tick after the last tick. -/
def Time.subTick (t : Time) (k : Nat) : BitVec 96 := t.count + BitVec.ofNat 96 (t.incr.toNat * k / 16)

/-- The phase error of a PPS_IN stamp: against the nearest whole second of the count plus TIM_PPS_IN_OFS. -/
def Time.ppsError (t : Time) (stamp : BitVec 96) : Int :=
  let sec : Int := 1000000000 * nsUnit
  let v : Int := (stamp.toNat : Int) - t.ppsInOfs.toInt * nsUnit
  v - roundDiv v sec * sec

/-- PPS_IN_EDGE: an edge so many sixteenths of a tick after the last tick. Times are in units of 0.1 ns. -/
def execPpsInEdge (sub : Fin 16) (s : State) : Res :=
  .next (
    if !s.isOn dTim then s
    else
      let t := s.tim
      let gap (x : Option Nat) (lo hi : Nat) : Bool := match x with | some y => decide (lo ≤ s.now - y ∧ s.now - y ≤ hi) | none => false
      let usable := match t.ppsLastEdge with | some y => decide (9000000000 ≤ s.now - y) | none => true
      let present := t.ppsPresent || gap t.ppsLastUsable 9000000000 11000000000
      let v := t.subTick sub.val
      let st : Stamp := { ns := fld v 32 64, frac := fld v 16 16 }
      let s := s.modTim fun t => { t with ppsStamp := st, ppsLastEdge := some s.now }
      if !usable then s
      else
        let s := s.modTim fun t => { t with ppsLastUsable := some s.now, ppsSample := some (t.ppsError v), ppsPresent := present }
        if present && s.tim.srcField == 2 then s.endCond 1008 else s)

/-! ### Registers (R448 to R450) -/

/-- TIM_STATUS. -/
def State.timStatus (s : State) : W32 :=
  let t := s.tim
  at' 0 t.state.code ||| atB 3 t.noRate ||| atB 4 t.valid ||| atB 5 t.timeSet ||| atB 6 s.refPresent ||| atB 7 t.todArmed |||
    atB 8 t.stepped ||| atB 9 t.refLost ||| at' 12 t.err

/-- TIM_LAST_E in 2^−16 ns, saturating; rounded by a free bit. -/
def State.lastERead (s : State) : W32 × State :=
  let q := s.tim.lastE / 65536 + (if s.tim.lastE % 65536 = 0 then 0 else ((s.freeBits 1).toNat : Int))
  (BitVec.ofInt 32 (max (-2147483648) (min 2147483647 q)), s.tookFree)

/-- A read of TIM_PPS_STAMP_LO. -/
def State.ppsStampRead (s : State) (p : Port) : W32 × State :=
  let x := s.tim.ppsStamp
  (fld x.ns 0 32, (s.latch p (base 6 + 0x70) (fld x.ns 32 32)).latch p (base 6 + 0x74) (x.frac.setWidth 32))

/-- A word of a comparator, by offset. -/
def Cmp.read (c : Cmp) (off : Nat) : W32 :=
  if off = 0 then atB 0 c.armed ||| atB 1 c.fired ||| atB 2 c.refused ||| at' 8 c.missed
  else if off = 4 then fld c.tgt 0 32
  else if off = 8 then fld c.tgt 32 32
  else c.per

def Cmp.write (c : Cmp) (ns : W64) (off : Nat) (w : W32) : Cmp :=
  if off = 0 then
    let c := { c with fired := w1cB c.fired w 1, refused := w1cB c.refused w 2 }
    if bit w 0 then c.arm ns else { c with armed := false, due := false }
  else if off = 4 then { c with tgt := putFld c.tgt 0 w }
  else if off = 8 then { c with tgt := putFld c.tgt 32 w }
  else { c with per := w }

/-- Block 0 of the time island, by offset from its base. -/
def State.timRead (s : State) (p : Port) (off : Nat) : W32 × State :=
  let t := s.tim
  if 0x100 ≤ off ∧ off < 0x180 then ((vget {} t.cmp ((off - 0x100) / 16)).read (off % 16), s)
  else
    match off with
    | 0x00 => (t.ctl, s)
    | 0x04 => (s.timStatus, s)
    | 0x0C => s.lastERead
    | 0x10 => (fld t.incr 0 32, s)
    | 0x14 => ((fld t.incr 32 8).setWidth 32, s)
    | 0x18 => (fld t.holdIncr 0 32, s)
    | 0x1C => ((fld t.holdIncr 32 8).setWidth 32, s)
    | 0x20 => s.nowRead p
    | 0x24 => (s.latched p (base 6 + 0x24), s)
    | 0x28 => (s.latched p (base 6 + 0x28), s)
    | 0x2C => (fld t.arg 0 32, s)
    | 0x30 => (fld t.arg 32 32, s)
    | 0x34 => (fld t.todSfc 0 32, s)
    | 0x38 => ((fld t.todSfc 32 19).setWidth 32, s)
    | 0x40 => (t.dispD0, s)
    | 0x44 => (t.dispS0, s)
    | 0x48 => (t.dispL0, s)
    | 0x4C => (t.kmDelay.setWidth 32, s)
    | 0x50 => (t.wlAddr.setWidth 32, s)
    | 0x54 => (vget 0 t.wl t.wlAddr.toNat, s)
    | 0x58 => (t.tau16, s)
    | 0x60 => (t.ppsCtl, s)
    | 0x64 => (t.ppsOfs, s)
    | 0x68 => (t.ppsInOfs, s)
    | 0x6C => s.ppsStampRead p
    | 0x70 => (s.latched p (base 6 + 0x70), s)
    | 0x74 => (s.latched p (base 6 + 0x74), s)
    | 0x80 => s.txqRead p
    | 0x84 => (s.latched p (base 6 + 0x84), s)
    | 0x88 => (s.latched p (base 6 + 0x88), s)
    | 0x8C => (s.latched p (base 6 + 0x8C), s)
    | 0x90 => (atN 0 7 t.txq.length ||| atB 7 t.txqOvf, s)
    | 0x94 => s.txqDropsRead
    | _ => (0, s)

def State.timWrite (s : State) (off : Nat) (w : W32) : State :=
  if 0x100 ≤ off ∧ off < 0x180 then s.modCmp ((off - 0x100) / 16) fun c => c.write s.tim.ns (off % 16) w
  else
    match off with
    | 0x00 => s.timCtlWrite w
    | 0x04 => s.modTim fun t => { t with stepped := w1cB t.stepped w 8, refLost := w1cB t.refLost w 9 }
    | 0x08 => s.timCmd (fld w 0 3).toNat (fld w 8 8)
    | 0x10 => if s.tim.srcField = 0 then s.modTim fun t => { t with incrLo := w } else s.timErr 5
    | 0x14 => s.incrWrite w
    | 0x2C => s.modTim fun t => { t with arg := putFld t.arg 0 w }
    | 0x30 => s.modTim fun t => { t with arg := putFld t.arg 32 w }
    | 0x34 => s.modTim fun t => { t with todSfc := putFld t.todSfc 0 w }
    | 0x38 => s.modTim fun t => { t with todSfc := putFld t.todSfc 32 (fld w 0 19) }
    | 0x40 => s.modTim fun t => { t with dispD0 := w }
    | 0x44 => s.modTim fun t => { t with dispS0 := w }
    | 0x48 => s.modTim fun t => { t with dispL0 := w }
    | 0x4C => s.modTim fun t => { t with kmDelay := fld w 0 16 }
    | 0x50 => s.modTim fun t => { t with wlAddr := fld w 0 5 }
    | 0x54 => s.modTim fun t => { t with wl := vset t.wl t.wlAddr.toNat w }
    | 0x60 => s.modTim fun t => { t with ppsCtl := rw 0xFFF#32 w }
    | 0x64 => s.modTim fun t => { t with ppsOfs := w }
    | 0x68 => s.modTim fun t => { t with ppsInOfs := w }
    | 0x90 => s.modTim fun t => { t with txqOvf := w1cB t.txqOvf w 7 }
    | _ => s

end Sys2Proof.Machine
end

