-- ==== Sys2Proof/Machine/Spread.lean ====
section
/-!
DEFINITION. The spread domains' registers and bulk commands (R210, R213, R221, R224).
-/
namespace Sys2Proof.Machine

/-- Entry of an indirection table: LANE and VALID. -/
def spreadLane (b : Byte) : Nat := (fld b 0 7).toNat

/-- REMAP: every VALID entry that names src is rewritten to name dst. -/
def remapEntry (src dst : BitVec 7) (b : Byte) : Byte := if bit b 7 ∧ fld b 0 7 = src then putFld b 0 dst else b

/-- Lanes of group g in UP, by ascending POS. -/
def State.upByPos (s : State) (g : Nat) : List LaneId :=
  (List.range 48).filterMap fun p => (s.memberLanes g).find? fun n => s.mstate n == .up && (s.lane n).bond.pos == some (BitVec.ofNat 6 p)

/-- The members that FILL uses: those of a wavelength group. -/
def State.fillLanes (s : State) (g : Nat) : List LaneId := if g < 8 then s.upByPos g else []

def State.sprErr (s : State) (e : BitVec 4) : State := { s with tbl := { s.tbl with sprErr := e } }

/-- TBL_SPR_CMD written (R213). -/
def State.sprStart (s : State) (c : SpreadCmd) (bad : Option (BitVec 4)) : State :=
  if s.tbl.sprBusy.isSome then s.sprErr 1
  else
    match bad with
    | some e => s.sprErr e
    | none => { s with tbl := { s.tbl with sprBusy := some c, sprErr := 0 } }

def State.sprRemap (s : State) (src dst : BitVec 7) : State :=
  s.sprStart (.remap src dst) (if dst.toNat < 96 ∧ s.isLine dst.toNat then none else some 2)

def State.sprFill (s : State) (dom : BitVec 6) (g : BitVec 4) : State :=
  s.sprStart (.fill dom g) (if (s.fillLanes g.toNat).isEmpty then some 3 else none)

def execSpreadRemap (p : Port) (from_ to_ : BitVec 7) (s : State) : Res :=
  .next (s.writeIsl p (base 10 + 0xC008) fun s => s.sprRemap from_ to_)

def execSpreadFill (p : Port) (dom : BitVec 6) (g : BitVec 4) (s : State) : Res :=
  .next (s.writeIsl p (base 10 + 0xC008) fun s => s.sprFill dom g)

/-- The effect of a bulk command on the domains; none where FILL finds no member in UP (ERR 3). -/
def State.sprApply (s : State) : SpreadCmd → Option (Vector Spread 64)
  | .remap src dst => some (s.tbl.spread.map fun d => { d with entries := d.entries.map (remapEntry src dst) })
  | .fill dom g =>
    let ls := s.fillLanes g.toNat
    if ls.isEmpty then none
    else
      let names : Vector Byte 256 := Vector.ofFn fun e => BitVec.ofNat 8 (128 + (ls.map (·.val)).getD (e.val % ls.length) 0)
      some (vmod s.tbl.spread dom.toNat fun d => { d with entries := names })

/-- SPREAD_CMD_DONE: the running bulk command completes (R213). -/
def execSpreadCmdDone (s : State) : Res :=
  .next (
    match s.tbl.sprBusy with
    | none => s
    | some c =>
      match s.sprApply c with
      | some d => { s with tbl := { s.tbl with spread := d, sprBusy := none } }
      | none => { s with tbl := { s.tbl with sprErr := 3, sprBusy := none } })

/-! ### Registers (R224) -/

def Tables.sprEntry (t : Tables) : Nat := (fld t.sprAddr 0 8).toNat
def Tables.sprDomain (t : Tables) : Nat := (fld t.sprAddr 8 6).toNat
def Tables.sprKey (t : Tables) : Bool := bit t.sprAddr 16

def Tables.sprStep (t : Tables) : Tables :=
  if bit t.sprAddr 17 then { t with sprAddr := putFld t.sprAddr 0 (fld t.sprAddr 0 8 + 1#8) } else t

def State.sprDataRead (s : State) : W32 × State :=
  let t := s.tbl
  let d : Spread := vget {} t.spread t.sprDomain
  (if t.sprKey then vget 0 d.key t.sprEntry else (vget 0 d.entries t.sprEntry).setWidth 32, { s with tbl := t.sprStep })

def State.sprDataWrite (s : State) (w : W32) : State :=
  let t := s.tbl
  if t.sprBusy.isSome then State.sprErr { s with tbl := t.sprStep } 1
  else
    let f (d : Spread) : Spread :=
      if t.sprKey then { d with key := vset d.key t.sprEntry w } else { d with entries := vset d.entries t.sprEntry (fld w 0 8) }
    { s with tbl := { t.sprStep with spread := vmod t.spread t.sprDomain f } }

/-- TBL_SPR_CMD as a register: other values of OP are ignored. -/
def State.sprCmd (s : State) (w : W32) : State :=
  let op := (fld w 0 3).toNat
  if op = 1 then s.sprRemap (fld w 4 7) (fld w 11 7) else if op = 2 then s.sprFill (fld w 18 6) (fld w 24 4) else s

/-- Block 6 of the tables island but for its FSEL part, by offset from the island's base. -/
def State.sprRead (s : State) (off : Nat) : W32 × State :=
  if off = 0xC000 then (s.tbl.sprAddr, s)
  else if off = 0xC004 then s.sprDataRead
  else if off = 0xC00C then (atB 0 s.tbl.sprBusy.isSome ||| at' 1 (fld s.tbl.sprErr 0 3), s)
  else (0, s)

def State.sprWrite (s : State) (off : Nat) (w : W32) : State :=
  if off = 0xC000 then { s with tbl := { s.tbl with sprAddr := rw 0x33FFF#32 w } }
  else if off = 0xC004 then s.sprDataWrite w
  else if off = 0xC008 then s.sprCmd w
  else s

/-- SPR_DATA_ACCESS: a read or write of TBL_SPR_DATA. -/
def execSprDataAccess (p : Port) (acc : Option W32) (s : State) : Res :=
  .next (match acc with
    | some w => s.writeIsl p (base 10 + 0xC004) fun s => s.sprDataWrite w
    | none => s.readIsl p (base 10 + 0xC004) State.sprDataRead)

end Sys2Proof.Machine
end

