-- ==== Sys2Proof/Machine/Tally.lean ====
section
/-!
DEFINITION. The tally island (R526 to R530). Occurrences come to the tally as commands (notes/assumptions/8.md); its tick counter
is advanced by the idle step.
-/
namespace Sys2Proof.Machine

/-- The selectors that R527 lists and that count something. -/
def tallySelectors : List Nat :=
  [0x01, 0x02, 0x03, 0x04, 0x05, 0x06, 0x07, 0x08, 0x10, 0x11, 0x12, 0x13, 0x14, 0x15, 0x20, 0x21, 0x22, 0x30, 0x31, 0x32,
   0x40, 0x41, 0x42, 0x50, 0x51, 0x60, 0x61, 0x62, 0x70, 0x71, 0x80]

/-- One level of the filter: not enabled, lacking in the selector's units, or equal (R527). -/
def levelMatches {n : Nat} (on : Bool) (want : BitVec n) : Option (BitVec n) → Bool
  | none => true
  | some x => !on || x == want

/-- The units of a selector have no S level (R527: quadrants, and selectors without a unit). -/
def lacksS (sel : BitVec 8) : Bool := [0x10, 0x11, 0x12, 0x13, 0x14, 0x15, 0x50, 0x51, 0x62, 0x80].contains sel.toNat

/-- A counter's configuration admits an occurrence (R527). -/
def admits (cfg : W32) (sel : BitVec 8) (q : Option (BitVec 3)) (sl : Option (BitVec 5)) : Bool :=
  fld cfg 0 8 == sel && tallySelectors.contains sel.toNat && levelMatches (bit cfg 16) (fld cfg 8 3) q &&
  levelMatches (bit cfg 17) (fld cfg 11 5) (if lacksS sel then none else sl)

/-- The tally with k occurrences added to counter c where its configuration admits them; a wrap sets WRAP (R526). -/
def Tally.addTo (t : Tally) (sel : BitVec 8) (q : Option (BitVec 3)) (sl : Option (BitVec 5)) (k : Nat) (c : Nat) : Tally :=
  if admits (vget 0 t.cfg c) sel q sl then
    let x := vget 0 t.cnt c
    { t with
      cnt := vset t.cnt c (x + BitVec.ofNat 48 k)
      wrap := if 2 ^ 48 ≤ x.toNat + k then setBit t.wrap c true else t.wrap }
  else t

/-- Occurrences arrive at the tally; a frozen tally counts nothing (R526, R528). -/
def Tally.occur (t : Tally) (sel : BitVec 8) (q : Option (BitVec 3)) (sl : Option (BitVec 5)) (k : Nat) : Tally :=
  if t.freeze then t else (List.range 8).foldl (fun t c => t.addTo sel q sl k c) t

/-- SNAP (R528). -/
def Tally.takeSnap (t : Tally) : Tally := { t with snapSeq := t.snapSeq + 1, snapTick := t.tick, snap := t.cnt }

/-- A write of TAL_CTL: the snapshot is taken first (R528, R530). -/
def Tally.writeCtl (t : Tally) (w : W32) : Tally :=
  let t := if bit w 1 then t.takeSnap else t
  { t with freeze := bit w 0, userEn := bit w 2, userSnap := bit w 3 }

/-- A write of TAL_CNT_CFG_c: the counter becomes 0 (R528). -/
def Tally.writeCfg (t : Tally) (c : Nat) (w : W32) : Tally :=
  { t with cfg := vset t.cfg c (rw 0x3FFFF#32 w), cnt := vset t.cnt c 0 }

/-- TAL_CTL as read. -/
def Tally.ctlWord (t : Tally) : W32 := atB 0 t.freeze ||| atB 2 t.userEn ||| atB 3 t.userSnap

/-- A read of the tally island; a read of a live LO register latches its HI register (R530, R562). -/
def State.talRead (s : State) (p : Port) (off : Nat) : W32 × State :=
  let t := s.tal
  let hi := base 5 + off + 4
  if off = 0x00 then (t.ctlWord, s)
  else if off = 0x04 then (at' 0 t.wrap ||| atB 8 t.tickWrap, s)
  else if off = 0x08 then (t.snapSeq, s)
  else if off = 0x10 then s.readLow p hi t.tick
  else if off = 0x14 then (s.latched p (base 5 + off), s)
  else if 0x20 ≤ off ∧ off < 0x40 then (vget 0 t.cfg ((off - 0x20) / 4), s)
  else if 0x40 ≤ off ∧ off < 0x80 then
    if off % 8 = 0 then s.readLow p hi ((vget 0 t.cnt ((off - 0x40) / 8)).setWidth 64)
    else (s.latched p (base 5 + off), s)
  else if off = 0x80 then (fld t.snapTick 0 32, s)
  else if off = 0x84 then (fld t.snapTick 32 32, s)
  else if 0x90 ≤ off ∧ off < 0xD0 then
    let v := (vget 0 t.snap ((off - 0x90) / 8)).setWidth 64
    (if off % 8 = 0 then fld v 0 32 else fld v 32 32, s)
  else (0, s)

/-- A write of the tally island. -/
def State.talWrite (s : State) (off : Nat) (w : W32) : State :=
  let t := s.tal
  if off = 0x00 then { s with tal := t.writeCtl w }
  else if off = 0x04 then { s with tal := { t with wrap := w1c t.wrap (fld w 0 8), tickWrap := w1cB t.tickWrap w 8 } }
  else if 0x20 ≤ off ∧ off < 0x40 then { s with tal := t.writeCfg ((off - 0x20) / 4) w }
  else s

/-- The tally page acts: TAL_USER_EN and feature 11 (R529). -/
def State.tallyPage (s : State) : Bool := s.tal.userEn && s.feature 11

/-- A read of the BAR2 tally page (R529). -/
def State.pageRead (s : State) (off : Nat) : W32 :=
  let t := s.tal
  if !s.tallyPage then 0
  else if off = 0x000 then t.snapSeq
  else if off = 0x008 then fld t.snapTick 0 32
  else if off = 0x00C then fld t.snapTick 32 32
  else if 0x010 ≤ off ∧ off < 0x050 then
    let v : W64 := (vget 0 t.snap ((off - 0x010) / 8)).setWidth 64
    if off % 8 = 0 then fld v 0 32 else fld v 32 32
  else 0

/-- A write of the BAR2 tally page at 0x800 (R529). -/
def State.pageSnap (s : State) : State :=
  if s.tallyPage && s.tal.userSnap then { s with tal := s.tal.takeSnap } else s

/-! ### Commands -/

/-- TALLY_OCCURRENCE (R526): the counters stand still in Standby. -/
def execTallyOccurrence (sel : BitVec 8) (q : Option (BitVec 3)) (sl : Option (BitVec 5)) (count : Nat) (s : State) : Res :=
  .next (if s.clocked then { s with tal := s.tal.occur sel q sl count } else s)

/-- TAL_CNT_CFG_WRITE (R528). -/
def execTalCntCfgWrite (p : Port) (c : Fin 8) (w : W32) (s : State) : Res :=
  .next (s.writeIsl p (base 5 + 0x20 + 4 * c) fun s => { s with tal := s.tal.writeCfg c w })

/-- TALLY_FREEZE: a write of TAL_CTL.FREEZE that leaves the other fields (R528). -/
def execTallyFreeze (p : Port) (on : Bool) (s : State) : Res :=
  .next (s.writeIsl p (base 5) fun s => { s with tal := { s.tal with freeze := on } })

/-- SNAP: a write of TAL_CTL with SNAP set (R528). -/
def execSnap (p : Port) (w : W32) (s : State) : Res :=
  .next (s.writeIsl p (base 5) fun s => { s with tal := s.tal.writeCtl (setBit w 1 true) })

/-- USER_SNAP: a write to BAR2 offset 0x800, which only PCIe reaches (R529). -/
def execUserSnap (s : State) : Res := .next (if s.portUp .pcie then s.pageSnap else s)

end Sys2Proof.Machine
end

