-- ==== Sys2Proof/Machine/TrafficRegs.lean ====
section
/-!
DEFINITION. The policer, upstream and downstream windows (R350 to R356) and their commands.
-/
namespace Sys2Proof.Machine

/-! ### Address registers (R351) -/

def winItem (a : W32) : Nat := (fld a 0 19).toNat

/-- ITEM + 1 after a data access where AUTO_INC is set. -/
def winStep (a : W32) : W32 := if bit a 19 then putFld a 0 (fld a 0 19 + 1#19) else a

/-- The half of a 64-bit counter: a low read latches the high word. -/
def State.half (s : State) (p : Port) (key : Nat) (v : W64) (high : Bool) : W32 × State := s.readPair p key v high

/-! ### Policers (R345, R348, R355) -/

/-- Whole bytes of a token count, as a signed word. -/
def tokWord (t : Int) : W32 := BitVec.ofInt 32 (t / tokByte)

/-- Masks of the writable bits of words 0 to 4. -/
def polMask (w : Nat) : W32 := if w = 0 then 0x3F#32 else 0x00FFFFFF#32
def shaperMask (w : Nat) : W32 := if w = 0 then 0xFF03#32 else 0x00FFFFFF#32

/-- A write to a word of policer i. -/
def State.polWrite (s : State) (q i w : Nat) (v : W32) : State :=
  if i < s.policers q ∧ w < 5 then
    s.modQuadN q fun x => { x with policers := Tab.mod {} x.policers i fun p =>
      ({ p with w := vset p.w w (rw (polMask w) v) } : Policer).full s.now }
  else s

/-- A read of a word of policer i. -/
def State.polRead (s : State) (p : Port) (q i w : Nat) : W32 × State :=
  let x : Policer := Tab.get {} (vget {} s.quads q).policers i
  let y := x.refill s.now
  if s.policers q ≤ i then (0, s)
  else if w < 5 then (vget 0 x.w w, s)
  else if w = 5 then (tokWord y.cTok, s)
  else if w = 6 then (tokWord y.pTok, s)
  else if 8 ≤ w ∧ w < 14 then s.half p (quadBase q + 0xA004) (vget 0 x.cnt ((w - 8) / 2)) (w % 2 == 1)
  else (0, s)

def State.polStep (s : State) (q : Nat) : State := s.modQuadN q fun x => { x with polAddr := winStep x.polAddr }

def State.polDataWrite (s : State) (q : Nat) (v : W32) : State :=
  let i := winItem (vget {} s.quads q).polAddr
  (s.polWrite q (i / 16) (i % 16) v).polStep q

def State.polDataRead (s : State) (p : Port) (q : Nat) : W32 × State :=
  let i := winItem (vget {} s.quads q).polAddr
  let (v, s) := s.polRead p q (i / 16) (i % 16)
  (v, s.polStep q)

/-! ### Queues, shapers and ports (R352 to R354) -/

/-- A write to a word of queue j. -/
def Queue.write (x : Queue) (w : Nat) (v : W32) : Queue :=
  if w = 0 then { x with w0 := rw 0x07FFFFFF#32 v }
  else if w = 1 then { x with w1 := rw 0x00013FFF#32 v }
  else if w = 2 then { x with maxKb := fld v 0 20 }
  else if w = 3 then { x with yelKb := fld v 0 20 }
  else if w = 4 then { x with troughKb := fld v 0 20 }
  else x

/-- Queue j is paused: its port is under a received PAUSE, or its class under a received PFC frame (R236, R340). -/
def State.paused (s : State) (q j : Nat) : Bool :=
  match (s.tm q true).owner j with
  | none => false
  | some k =>
    if h : 24 * q + k < 96 then
      let e := s.lanes[24 * q + k].eth
      s.isEth (24 * q + k) && (e.peerPause.isSome || (vget none e.peerPfc ((s.tm q true).queue j).cls).isSome)
    else false

/-- A read of a word of queue j. -/
def State.queueRead (s : State) (q : Nat) (down : Bool) (j w : Nat) : W32 :=
  let x := (s.tm q down).queue j
  if w = 0 then (if down then x.w0 else x.w0 &&& 0x00FFFFFF#32)
  else if w = 1 then x.w1
  else if w = 2 then x.maxKb.setWidth 32
  else if w = 3 then x.yelKb.setWidth 32
  else if w = 4 then x.troughKb.setWidth 32
  else if w = 5 then atN 0 24 ((x.depth + 63) / 64) ||| atB 24 x.spilled ||| atB 25 (down && s.paused q j)
  else 0

/-- A write to a word of shaper i: words 0 to 4 reset it (R344). -/
def Shaper.write (x : Shaper) (now w : Nat) (v : W32) : Shaper :=
  if w < 5 then ({ x with w := vset x.w w (rw (shaperMask w) v) } : Shaper).reset now else x

def Shaper.read (x : Shaper) (now w : Nat) : W32 :=
  let y := x.refill now
  if w < 5 then vget 0 x.w w
  else if w = 5 then tokWord y.cTok
  else if w = 6 then tokWord y.pTok
  else if w = 7 then atB 0 (x.eligibleAt now) ||| atB 1 x.parked
  else 0

/-- The port word of slice k answers in a direction's window (R354). -/
def State.portAnswers (s : State) (q k : Nat) (down : Bool) : Bool :=
  let n := 24 * q + k
  if down then s.isEth n || s.isSdh n || s.isHostBond n else s.isLine n

/-- Two queue ranges overlap. -/
def overlaps (b c b' c' : Nat) : Bool := decide (0 < c ∧ 0 < c' ∧ b < b' + c' ∧ b' < b + c)

/-- A write of word 0 of a port is refused (R334). -/
def State.portRefused (s : State) (q : Nat) (down : Bool) (k : Nat) (v : W32) : Bool :=
  let p : TmPort := { w0 := v }
  decide (s.queueCount q down < p.qbase + p.qcount) ||
  (List.range 24).any fun i =>
    let o : TmPort := vget {} (s.tm q down).ports i
    !(i == k) && overlaps p.qbase p.qcount o.qbase o.qcount

/-- A write to word w of the port of slice k (R334, R354). -/
def State.portWrite (s : State) (q : Nat) (down : Bool) (k w : Nat) (v : W32) : State :=
  if !s.portAnswers q k down then s
  else if w = 0 then
    if s.portRefused q down k (rw 0x1FFF0FFF#32 v) then s.modTm q down fun t => { t with refused := true }
    else s.modTm q down fun t => { t with ports := vmod t.ports k fun p => { p with w0 := rw 0x1FFF0FFF#32 v } }
  else if w = 1 then s.modTm q down fun t => { t with ports := vmod t.ports k fun p => { p with tcMap := v } }
  else if w = 2 then s.modTm q down fun t => { t with ports := vmod t.ports k fun p => { p with w2 := rw 0x1FFF#32 v } }
  else s

/-- A read of word w of the port of slice k; BAD_OFFSET clears at the read. -/
def State.portRead (s : State) (q : Nat) (down : Bool) (k w : Nat) : W32 × State :=
  let p : TmPort := vget {} (s.tm q down).ports k
  if !s.portAnswers q k down then (0, s)
  else if w = 0 then (p.w0, s)
  else if w = 1 then (p.tcMap, s)
  else if w = 2 then (p.w2, s)
  else if w = 3 then
    (p.badOffset, s.modTm q down fun t => { t with ports := vmod t.ports k fun p => { p with badOffset := 0 } })
  else (0, s)

def State.tmStep (s : State) (q : Nat) (down : Bool) : State := s.modTm q down fun t => { t with addr := winStep t.addr }

/-- A write to item i of a direction's window (R351). -/
def State.tmItemWrite (s : State) (q : Nat) (down : Bool) (i : Nat) (v : W32) : State :=
  let j := i % 0x10000 / 8
  if i < 0x10000 then
    if j < s.queueCount q down then s.modTm q down fun t => t.modQueue j fun x => x.write (i % 8) v else s
  else if i < 0x20000 then
    if j < s.shaperCount q down then s.modTm q down fun t => t.modShaper j fun x => x.write s.now (i % 8) v else s
  else if i < 0x30000 then if j < 24 then s.portWrite q down j (i % 8) v else s
  else s

/-- A read of item i of a direction's window. -/
def State.tmItemRead (s : State) (p : Port) (q : Nat) (down : Bool) (i : Nat) : W32 × State :=
  let j := i % 0x10000 / 8
  if i < 0x10000 then (if j < s.queueCount q down then s.queueRead q down j (i % 8) else 0, s)
  else if i < 0x20000 then (if j < s.shaperCount q down then ((s.tm q down).shaper j).read s.now (i % 8) else 0, s)
  else if i < 0x30000 then if j < 24 then s.portRead q down j (i % 8) else (0, s)
  else if 0x40000 ≤ i ∧ i < 0x50000 then
    let v := if j < s.queueCount q down then vget 0 ((s.tm q down).queue j).cnt (i % 8 / 2) else 0
    s.half p (quadBase q + (if down then 0xE004 else 0xC004)) v (i % 2 == 1)
  else (0, s)

def State.tmDataWrite (s : State) (q : Nat) (down : Bool) (v : W32) : State :=
  (s.tmItemWrite q down (winItem (s.tm q down).addr) v).tmStep q down

def State.tmDataRead (s : State) (p : Port) (q : Nat) (down : Bool) : W32 × State :=
  let (v, s) := s.tmItemRead p q down (winItem (s.tm q down).addr)
  (v, s.tmStep q down)

/-- Queues on the park list: those whose own shaper is parked (R343, R356). -/
def State.parkedQueues (s : State) (q : Nat) (down : Bool) : Nat :=
  let t := s.tm q down
  (t.queues.filter fun e =>
    match s.namedShaper q down (bit e.2.w0 12) (fld e.2.w0 0 12).toNat with
    | some i => (t.shaper i).parked
    | none => false).length

/-- QD_UTM_STATUS_q and QD_DTM_STATUS_q (R356). -/
def State.tmStatus (s : State) (q : Nat) (down : Bool) : W32 :=
  let t := s.tm q down
  atB 0 t.refused ||| atN 4 13 (s.parkedQueues q down) ||| atN 20 12 (min 4095 (t.queues.filter (·.2.spilled)).length)

/-! ### The registers of blocks 5 to 7 -/

def State.trafficRead (s : State) (p : Port) (q off : Nat) : W32 × State :=
  let x : Quad := vget {} s.quads q
  if off = 0xA000 then (x.polAddr, s)
  else if off = 0xA004 then s.polDataRead p q
  else if off = 0xA008 then (x.pcpMap, s)
  else if 0xA010 ≤ off ∧ off < 0xA020 then (vget 0 x.dscpMap ((off - 0xA010) / 4), s)
  else if off = 0xC000 then (x.us.addr, s)
  else if off = 0xC004 then s.tmDataRead p q false
  else if off = 0xC008 then (s.tmStatus q false, s)
  else if off = 0xE000 then (x.ds.addr, s)
  else if off = 0xE004 then s.tmDataRead p q true
  else if off = 0xE008 then (s.tmStatus q true, s)
  else (0, s)

def State.trafficWrite (s : State) (q off : Nat) (w : W32) : State :=
  if off = 0xA000 then s.modQuadN q fun x => { x with polAddr := rw 0xFFFFF#32 w }
  else if off = 0xA004 then s.polDataWrite q w
  else if off = 0xA008 then s.modQuadN q fun x => { x with pcpMap := rw 0xFFFF#32 w }
  else if 0xA010 ≤ off ∧ off < 0xA020 then s.modQuadN q fun x => { x with dscpMap := vset x.dscpMap ((off - 0xA010) / 4) w }
  else if off = 0xC000 then s.modTm q false fun t => { t with addr := rw 0xFFFFF#32 w }
  else if off = 0xC004 then s.tmDataWrite q false w
  else if off = 0xC008 then s.modTm q false fun t => { t with refused := w1cB t.refused w 0 }
  else if off = 0xE000 then s.modTm q true fun t => { t with addr := rw 0xFFFFF#32 w }
  else if off = 0xE004 then s.tmDataWrite q true w
  else if off = 0xE008 then s.modTm q true fun t => { t with refused := w1cB t.refused w 0 }
  else s

/-! ### Commands -/

/-- The data register of a direction's window. -/
def tmData (q : QuadId) (down : Bool) : Nat := quadBase q.val + if down then 0xE004 else 0xC004

/-- SHAPER_WRITE: a write of the data register while the window names a shaper (R344). -/
def execShaperWrite (p : Port) (q : QuadId) (down : Bool) (w : W32) (s : State) : Res :=
  .next (if winItem (s.tm q.val down).addr / 0x10000 = 1 then
      s.writeIsl p (tmData q down) fun s => s.tmDataWrite q.val down w
    else s)

/-- POLICER_WRITE: a write of the policer data register (R348). -/
def execPolicerWrite (p : Port) (q : QuadId) (w : W32) (s : State) : Res :=
  .next (s.writeIsl p (quadBase q.val + 0xA004) fun s => s.polDataWrite q.val w)

/-- TM_PORT_WRITE: a write of the data register while the window names a port word (R334). -/
def execTmPortWrite (p : Port) (q : QuadId) (down : Bool) (w : W32) (s : State) : Res :=
  .next (if winItem (s.tm q.val down).addr / 0x10000 = 2 then
      s.writeIsl p (tmData q down) fun s => s.tmDataWrite q.val down w
    else s)

/-- TM_WIN_ACCESS: a read or write of a data register (R351). -/
def execTmWinAccess (p : Port) (q : QuadId) (win : TmWin) (acc : Option W32) (s : State) : Res :=
  .next (match win, acc with
    | .policer, some w => s.writeIsl p (quadBase q.val + 0xA004) fun s => s.polDataWrite q.val w
    | .policer, none => s.readIsl p (quadBase q.val + 0xA004) fun s => s.polDataRead p q.val
    | .up, some w => s.writeIsl p (tmData q false) fun s => s.tmDataWrite q.val false w
    | .up, none => s.readIsl p (tmData q false) fun s => s.tmDataRead p q.val false
    | .down, some w => s.writeIsl p (tmData q true) fun s => s.tmDataWrite q.val true w
    | .down, none => s.readIsl p (tmData q true) fun s => s.tmDataRead p q.val true)

/-- BAD_OFFSET_READ: a read of the data register while the window names word 3 of a slice's port (R354). -/
def execBadOffsetRead (p : Port) (q : QuadId) (down : Bool) (slice : BitVec 5) (s : State) : Res :=
  .next (if winItem (s.tm q.val down).addr = 0x20003 + 8 * slice.toNat then
      s.readIsl p (tmData q down) fun s => s.tmDataRead p q.val down
    else s)

end Sys2Proof.Machine
end

