-- ==== Sys2Proof/Machine/Tributary.lean ====
section
/-!
DEFINITION. SDH tributaries: packetiser, play-out, transmitted frames, VC-4-Xv members, the tributary table and the registers of an SDH
lane (R215 to R217, R257 to R266, R269 to R274).
-/
namespace Sys2Proof.Machine

/-! ### Entries (R258) -/

/-- PLAYOUT in bytes. -/
def TribEntry.playout (e : TribEntry) : Nat :=
  let v := (fld e.w0 24 8).toNat
  64 * (if v = 0 then 256 else v)

def State.modEntry (s : State) (n : LaneId) (t : Nat) (f : TribEntry → TribEntry) : State :=
  s.modSdh n fun x => { x with trib := vmod x.trib t f }

/-- AU-4s carried per frame by an entry: 1, or X. -/
def State.tribX (s : State) (e : TribEntry) : Nat := if e.vcat then (s.group e.grp).x else 1

/-- Bytes of a frame of an entry (R258). -/
def State.tribFrame (s : State) (e : TribEntry) : Nat := if e.vcat then s.tribX e * 2340 else 2349

/-! ### The packetiser (R259 to R261) -/

/-- GFP idle frames of a block with `fill` tributary bytes. -/
def gfpIdle (fill : Nat) : List Byte := (List.replicate ((8184 - fill) / 4) [0xB6#8, 0xAB#8, 0x31#8, 0xE0#8]).flatten

/-- The plaintext of a block. -/
def tribBlock (sf : Bool) (ofs : Nat) (bytes : List Byte) : List Byte :=
  [1#8, if sf then 1#8 else 0#8] ++ beBytes 2 bytes.length ++ beBytes 2 ofs ++ [0, 0] ++ bytes ++ gfpIdle bytes.length

/-- Destination and source address bytes of the window items. -/
def SdhPort.macs (x : SdhPort) : List Byte :=
  leBytes 4 x.hdr[0].toNat ++ leBytes 2 x.hdr[1].toNat ++ leBytes 4 x.hdr[2].toNat ++ leBytes 2 x.hdr[3].toNat

/-- The tributary frame of a block: its header and tag are written when the cipher cluster seals it. -/
def SdhPort.tribBytes (x : SdhPort) (block : List Byte) : List Byte :=
  let tag := if bit x.hdr[4] 16 then [0x81#8, 0#8] ++ beBytes 2 ((fld x.hdr[4] 12 3).toNat * 8192 + (fld x.hdr[4] 0 12).toNat) else []
  addFcs (x.macs ++ tag ++ beBytes 2 (fld x.hdr[5] 0 16).toNat ++ [1, 0] ++ zeros 16 ++ block ++ zeros 16)

/-- What an entry seals: its block, and itself afterwards. -/
def TribEntry.seal (e : TribEntry) (fails : Bool) : List Byte × TribEntry :=
  if fails then
    let phase := if e.sfTx then e.sfPhase else 0
    let fill := if e.vcat then 7020 else if phase % 4 = 3 then 7044 else 7048
    (tribBlock true 0xFFFF (List.replicate fill 0xFF#8), { e with sfTx := true, sfPhase := (phase + 1) % 4, waiting := [], starts := [] })
  else
    let fill := min 8184 (e.waiting.length / 4 * 4)
    let ofs := match e.starts with
      | o :: _ => if o < fill then o else 0xFFFF
      | [] => 0xFFFF
    let rest := (e.starts.filter fun o => decide (fill ≤ o)).map (· - fill)
    (tribBlock false ofs (e.waiting.take fill), { e with sfTx := false, sfPhase := 0, waiting := e.waiting.drop fill, starts := rest })

/-- A block is dropped before it has its number: the next one passes over a value (R261). -/
def State.skipCounter (s : State) (ctx : W32) : State :=
  match s.tribFind false ctx with
  | some (i, _) => s.modTrib i fun t => { t with gap := t.gap + 1 }
  | none => s

/-- The values that a block passes over: those of the blocks of its context dropped since the last one. -/
def State.takeGap (s : State) (ctx : W32) : Nat × State :=
  match s.tribFind false ctx with
  | some (i, t) => (t.gap, s.modTrib i fun t => { t with gap := 0 })
  | none => (0, s)

/-- TRIB_SEAL: the schedule of tributary t of lane n is due. -/
def execTribSeal (n : LaneId) (t : Fin 64) (s : State) : Res :=
  .next (
    let x := (s.lane n).sdh
    let e := x.trib[t.val]
    if !s.sdhOn n || !e.valid then s
    else
      let fails := s.tribFails n e
      let (block, e') := e.seal fails
      let bytes := x.tribBytes block
      let s := s.modEntry n t.val fun _ => e'
      let q := quadOf n.val
      if s.troughRoom q < bytes.length then (((s.sdhCnt n 18).toSump q 1 bytes.length).skipCounter e.txCtx)
      else
        let s := (s.sdhCnt n 6).sdhCnt n 17 ((8184 - beAt block 2 2) / 4)
        let s := if fails then s.sdhCnt n 7 else s
        let (gap, s) := s.takeGap e.txCtx
        (s.toParser q { lane := n.val, bytes := bytes, sealCtx := some e.txCtx, sealGap := gap }).floats q)

/-! ### Play-out: the depacketiser (R262 to R265) -/

def Seg.len : Seg → Nat
  | .data b => b.length
  | .ais k => k

/-- Bytes that an entry's buffer holds, those that signal-fail blocks stand for among them. -/
def TribEntry.depth (e : TribEntry) : Nat := (e.buf.map Seg.len).sum

/-- The buffer is emptied and the entry returns to priming. -/
def TribEntry.reprime (e : TribEntry) : TribEntry := { e with priming := true, buf := [], synced := false, played := 0 }

/-- ZERO_SEEN or SLIP_SEEN is set: event 8n + 3 where it was clear (R263). -/
def State.zeroSeen (s : State) (n : LaneId) : State :=
  let seen := (s.lane n).sdh.zeroSeen
  (s.modSdh n fun x => { x with zeroSeen := true }).reportIf (!seen) (laneEv n 3) 1
def State.slipSeen (s : State) (n : LaneId) : State :=
  let seen := (s.lane n).sdh.slipSeen
  (s.modSdh n fun x => { x with slipSeen := true }).reportIf (!seen) (laneEv n 3) 1

/-- A slip (R265). -/
def State.slip (s : State) (n : LaneId) (t : Nat) : State := ((s.modEntry n t TribEntry.reprime).sdhCnt n 16).slipSeen n

/-- Bytes are played: they are appended, and the frame bytes counted; F is the frame's length. -/
def TribEntry.play (e : TribEntry) (f : Nat) (g : Seg) : TribEntry :=
  if g.len = 0 then e else { e with buf := e.buf ++ [g], played := (e.played + g.len) % f }

/-- k blocks of FILL_LAST zero bytes are played. -/
def TribEntry.playZeros (e : TribEntry) (f k : Nat) : TribEntry := e.play f (.data (zeros (k * e.fillLast)))

/-- The bytes of a block with its first frame start at ofs: the count moves to the block's position, by bytes dropped before the frame
start or zeros inserted there. The flag says that it moved. Bytes before the first frame start of all are not played, since play-out
starts with pointer 0 (R264, R265). -/
def TribEntry.playBytes (e : TribEntry) (f ofs : Nat) (bytes : List Byte) : TribEntry × Bool :=
  if bytes.length ≤ ofs then (if e.synced then e.play f (.data bytes) else e, false)
  else if !e.synced then (({ e with synced := true, played := 0 } : TribEntry).play f (.data (bytes.drop ofs)), false)
  else
    let total := e.played + ofs
    if total = 0 ∨ total = f then (e.play f (.data bytes), false)
    else
      let head := if f < total then bytes.take (ofs - (total - f)) else bytes.take ofs ++ zeros (f - total)
      (e.play f (.data (head ++ bytes.drop ofs)), true)

/-- A block that passed is played out. -/
def State.playBlock (s : State) (n : LaneId) (t : Nat) (block : List Byte) : State :=
  let e : TribEntry := vget {} (s.lane n).sdh.trib t
  let f := max 1 (s.tribFrame e)
  let fill := min 8184 (beAt block 2 2)
  if bit (byteAt block 1) 0 then
    (s.modEntry n t fun e => { e.play f (.ais fill) with sfRx := true, fillLast := fill }).sdhCnt n 9
  else
    let (e, moved) := e.playBytes f (beAt block 4 2) (bytesAt block 8 fill)
    let s := s.modEntry n t fun _ => { e with sfRx := false, fillLast := fill }
    if moved then s.sdhCnt n 13 else s

/-- A buffer that has reached 4 × PLAYOUT slips. -/
def State.overfull (s : State) (n : LaneId) (t : Nat) : State :=
  let e : TribEntry := vget {} (s.lane n).sdh.trib t
  if 4 * e.playout ≤ e.depth / max 1 (s.tribX e) then s.slip n t else s

/-- A block of counter c arrives at entry t (R263). -/
def State.blockRx (s : State) (n : LaneId) (t : Nat) (c : W64) (ok : Bool) (block : List Byte) (bytes : Nat) : State :=
  let e : TribEntry := vget {} (s.lane n).sdh.trib t
  let f := max 1 (s.tribFrame e)
  let s := s.sdhCnt n 8
  if !ok then
    ((s.modEntry n t fun e => { e.playZeros f 1 with last := e.last.map (· + 1) }).sdhCnt n 10).zeroSeen n
  else
    let setLast (s : State) : State := s.modEntry n t fun e => { e with last := some c }
    match e.last with
    | none => setLast (s.playBlock n t block)
    | some l =>
      if c.toNat ≤ l.toNat then (s.sdhCnt n 12).toSump (quadOf n.val) 18 bytes
      else
        let k := c.toNat - l.toNat - 1
        if k = 0 then setLast (s.playBlock n t block)
        else if k ≤ 4 then setLast (((s.modEntry n t fun e => e.playZeros f k).sdhCnt n 11 k).playBlock n t block)
        else setLast ((s.modEntry n t TribEntry.reprime).playBlock n t block)

/-- The valid entry of a lane with a receive context. -/
def SdhPort.rxEntry (x : SdhPort) (ctx : W32) : Option Nat :=
  firstBelow 64 fun t => let e : TribEntry := vget {} x.trib t; e.valid && e.rxCtx == ctx

/-- TRIB_BLOCK_RX: the next opened block that waits for lane n reaches its depacketiser. -/
def execTribBlockRx (n : LaneId) (s : State) : Res :=
  .next (
    if !s.isSdh n.val || !s.isOn (dQuad (quadOf n.val)) || !s.isOn (dTx n.val) then s
    else if (s.lane n).com.genEn then s.dropDown n 20
    else
      match s.pickDown n with
      | (s, none) => s
      | (s, some (_, x)) =>
        let b := x.frame.bytes
        let a := x.frame.hdr.blockAt
        match (s.lane n).sdh.rxEntry (BitVec.ofNat 32 (beAt b a 4)) with
        | none => (s.sdhCnt n 12).toSump (quadOf n.val) 18 b.length
        | some t =>
          let s := s.blockRx n t (BitVec.ofNat 64 (beAt b (a + 8) 8)) (x.frame.opened == some true) (bytesAt b (a + 16) 8192) b.length
          s.overfull n t)

/-! ### Transmitted frames (R257, R264 to R266) -/

/-- k bytes of a buffer, whether a signal-fail run is among them, and the rest. -/
def takeSegs : List Seg → Nat → List Byte × Bool × List Seg
  | [], _ => ([], false, [])
  | .data b :: l, k =>
    if k = 0 then ([], false, .data b :: l)
    else if k < b.length then (b.take k, false, .data (b.drop k) :: l)
    else let (x, f, r) := takeSegs l (k - b.length); (b ++ x, f, r)
  | .ais m :: l, k =>
    if k = 0 then ([], false, .ais m :: l)
    else if k < m then (zeros k, true, .ais (m - k) :: l)
    else let (x, _, r) := takeSegs l (k - m); (zeros m ++ x, true, r)

/-- What an entry sends in a frame: AU-AIS, for a slip too, or so many bytes, read under a pointer with a justification. -/
inductive Played where
  | ais
  | slip
  | bytes (just : Int) (ndf : Bool) (ptr : BitVec 10) (b : List Byte)
deriving DecidableEq, Repr

/-- The bytes read in H3, or stuffed after it, per AU-4 (R265). -/
def TribEntry.justify (e : TribEntry) (x : Nat) : Int :=
  let d : Int := e.depth / max 1 x
  if e.ndf || decide (e.sinceJust < 4) then 0
  else if d > e.playout + 192 then 3
  else if d < (e.playout : Int) - 192 then -3
  else 0

/-- The bytes of the buffer that a frame with a justification takes: those of a VC-4, or, of x members, those that are not path overhead
(R258, R266). -/
def TribEntry.need (e : TribEntry) (x : Nat) (just : Int) : Nat :=
  let len := (2349 + just).toNat
  if e.vcat then x * (len - pohIn (vcOffset e.txPtr) len) else len

/-- One frame of an entry that is carried in x AU-4s. -/
def TribEntry.txFrame (e : TribEntry) (x : Nat) : Played × TribEntry :=
  let e := if e.priming ∧ e.playout ≤ e.depth / max 1 x then { e with priming := false, ndf := true, txPtr := 0, sinceJust := 0 } else e
  if e.priming then (.ais, e)
  else
    let just := e.justify x
    let need := e.need x just
    if e.depth < need then (.slip, e)
    else
      let (b, ais, rest) := takeSegs e.buf need
      let e' := { e with
        buf := rest, ndf := false, txPtr := stepPtr e.txPtr just, sinceJust := if just = 0 then e.sinceJust + 1 else 1 }
      (if ais then .ais else .bytes just e.ndf e.txPtr b, e')

/-- Entry t of lane n sends a frame: counters 14 and 15, and a slip where the buffer has emptied. -/
def State.tribSend (s : State) (n : LaneId) (t : Nat) : State × Played :=
  let e : TribEntry := vget {} (s.lane n).sdh.trib t
  let (p, e') := e.txFrame (s.tribX e)
  let s := s.modEntry n t fun _ => e'
  let just : Int := if e'.sinceJust = 1 ∧ !e.ndf ∧ !e.priming ∧ p ≠ .slip then e.justify (s.tribX e) else 0
  let s := if just = 3 then s.sdhCnt n 15 else if just = -3 then s.sdhCnt n 14 else s
  if p = .slip ∨ (!e'.priming ∧ e'.buf.isEmpty) then (s.slip n t, p) else (s, p)

/-- Byte i of a group's payload goes to member i mod x. -/
def memberBytes (b : List Byte) (x i : Nat) : List Byte :=
  (List.range ((b.length - i + x - 1) / x)).map fun k => byteAt b (k * x + i)

/-- The path overhead of the member at position i: J1 of its AU-4, TX_C2, and in G1 REI and HP-RDI (R266). -/
def State.memberPoh (s : State) (e : TribEntry) (i : Nat) : PohTx :=
  let x := s.group e.grp
  let a : Au4 := if h : x.seqLane i < 96 then vget {} s.lanes[x.seqLane i].sdh.au (x.seqAu i) else {}
  { c2 := fld e.w0 16 8, g1 := BitVec.ofNat 8 (16 * a.b3Last) ||| (if x.gstate ≠ .full then 8 else 0), j1 := a.trace.txByte }

/-- What a group's members send in a frame, by rank of their sequence positions: the payload laid out in SQ order, each with its path
overhead. Their VC-4s' parities go on in the group and the MFI in the entry. -/
def State.membersTx (s : State) (n : LaneId) (t : Nat) (just : Int) (ndf : Bool) (ptr : BitVec 10) (b : List Byte) : State × List AuTx :=
  let e : TribEntry := vget {} (s.lane n).sdh.trib t
  let x := s.group e.grp
  let off := vcOffset ptr
  let len := (2349 + just).toNat
  let built := x.positions.zipIdx.map fun y =>
    let par := x.txB3.getD y.2 (0, 0)
    buildVc (s.memberPoh e y.1) y.1 off len
      { mfi := e.txMfi, run := par.1, prev := par.2, payload := memberBytes b x.positions.length y.2 }
  let s := s.modEntry n t fun e => { e with txMfi := (built.head?.map (·.mfi)).getD e.txMfi }
  (s.modGroup e.grp fun x => { x with txB3 := built.map fun w => (w.run, w.prev) }, built.map fun w => .vc4 ptr ndf just w.out.reverse)

/-- Entry t of lane n is sent: a group's members are laid out at their positions, a VC-4 is returned. -/
def State.sendEntry (s : State) (n : LaneId) (t : Nat) : State × Option (Nat × AuTx) :=
  let e : TribEntry := vget {} (s.lane n).sdh.trib t
  if !e.valid then (s, none)
  else
    let (s, p) := s.tribSend n t
    if e.vcat then
      let (s, txs) := match p with
        | .bytes just ndf ptr b => s.membersTx n t just ndf ptr b
        | _ => (s, (s.group e.grp).positions.map fun _ => .ais)
      (s.modGroup e.grp fun x => { x with txAu := txs }, none)
    else
      (s, some (e.au, match p with
        | .bytes just ndf ptr b => .vc4 ptr ndf just b
        | _ => .ais))

/-- All entries of a lane in order, with the VC-4s they send. -/
def State.sendEntries (s : State) (n : LaneId) : State × List (Nat × AuTx) :=
  (List.range 64).foldl (fun (x : State × List (Nat × AuTx)) t =>
    let (s, r) := x.1.sendEntry n t
    (s, x.2 ++ r.toList)) (s, [])

/-- A valid KIND 1 entry drives group g. -/
def State.groupDriven (s : State) (g : Nat) : Bool :=
  let n := (s.group g).seqLane 0
  if h : n < 96 then s.isSdh n && s.lanes[n].sdh.trib.toList.any fun e => e.valid && e.vcat && e.grp == g else false

/-- What a group that has AU-4 a of lane n as a member sends on it, where a valid entry drives the group (R257). -/
def State.groupTx (s : State) (n : LaneId) (a : Nat) : Option AuTx :=
  ([8, 9, 10, 11, 12, 13, 14, 15].filter fun g => (s.group g).en && s.groupDriven g).findSome? fun g =>
    let x := s.group g
    (x.positions.findIdx? fun i => x.seqLane i == n.val && x.seqAu i == a).bind fun i => x.txAu[i]?

/-- What each AU-4 of lane n carries in the frame that is being sent; an AU-4 that no valid tributary drives is unequipped (R257). -/
def State.ausTx (s : State) (n : LaneId) (vcs : List (Nat × AuTx)) : List AuTx :=
  (List.range 64).map fun a =>
    match vcs.find? fun v => decide (v.1 = a) with
    | some v => v.2
    | none => (s.groupTx n a).getD .unequipped

/-- The section overhead of the next frame, with the parities of the last, and the AU-4s as they stand in it (R249, R257). -/
def Lane.stmTx (l : Lane) (aus : List AuTx) : StmTx :=
  let x := l.sdh
  { j0 := x.j0.txByte x.tracePhase.toNat, s1 := (fld x.ctl 8 4).setWidth 8, k2 := if l.sdhDefect then 6 else 0
    m1 := BitVec.ofNat 8 (min 255 x.lastB2), b1 := x.txB1, b2 := x.txB2
    aus := aus.zipIdx.map fun a => a.1.wire (x.txCarry.getD a.2 []) }

/-- A port has sent a frame: its bytes before scrambling, and the AU-4s it carried. -/
def SdhPort.sent (x : SdhPort) (f : List Byte) (aus : List AuTx) : SdhPort :=
  { x with
    tracePhase := x.tracePhase + 1, txB1 := bip8 (scrambleStm f), txB2 := bipCols 192 (withoutRsoh f), txCarry := aus.map AuTx.carry }

/-- SDH_TX_FRAME. A lane that sends a pattern sends no frame. -/
def execSdhTxFrame (n : LaneId) (s : State) : Res :=
  .next (
    let l := s.lane n
    if !s.isSdh n.val || !s.isOn (dTx n.val) || l.com.genEn || s.squelched n then s
    else
      let (s, vcs) := s.sendEntries n
      let aus := s.ausTx n vcs
      let f := (l.stmTx aus).bytes
      (s.emit (.stm n (scrambleStm f))).modSdh n fun x => x.sent f aus)

/-! ### VC-4-Xv members (R215 to R217) -/

/-- The run of a member's defect: `entry` findings in a row set it, `exit` without clear it. -/
def runOf (on : Bool) (run : Nat) (hit : Bool) (entry exit : Nat) : Bool × Nat :=
  let d := ({ on := on, run := run } : Defect).judge hit entry exit
  (d.on, d.run)

/-- The frames by which MFI a lies ahead of b, within half the range; 0 where it lies behind. -/
def mfiAhead (a b : BitVec 12) : Nat := if (a - b).toNat < 2048 then (a - b).toNat else 0

/-- The delay of a member with MFI m behind the earliest member whose H4 is read. -/
def State.delayOf (s : State) (x : Group) (m : BitVec 12) : Nat :=
  (x.positions.map fun k =>
    let v : VcatMember := vget {} x.vm k
    if v.lom || !s.memberReads x k then 0 else match v.mfi with | some y => mfiAhead y m | none => 0).foldl max 0

/-- A member's frame: MFI and delay at each frame, SQ at the end of each multiframe. LOA is entered at once, and left at the end of the 16th
multiframe in a row whose frames all lay within the skew (R216). -/
def VcatMember.rx (v : VcatMember) (pos delay skew : Nat) (f : VcatFrame) : VcatMember :=
  let inSeq := match v.mfi with
    | some m => fld f.mfi 0 4 == fld m 0 4 + 1#4
    | none => true
  let (lom, lomRun) := runOf v.lom v.lomRun (!inSeq) 3 2
  let v := { v with mfi := some f.mfi, lom := lom, lomRun := lomRun, delay := BitVec.ofNat 16 delay,
                    buf := (v.buf ++ [(f.mfi, f.payload)]).reverse.take (8 * skew + 2) |>.reverse
                    loa := v.loa || decide (8 * skew < delay), loaRun := if 8 * skew < delay then 0 else min 256 (v.loaRun + 1) }
  if fld f.mfi 0 4 ≠ 15#4 then v
  else
    let (sqm, sqmRun) := runOf v.sqm v.sqmRun (f.sq.toNat != pos) 3 3
    { v with sqRx := f.sq, sqm := sqm, sqmRun := sqmRun, loa := v.loa && decide (v.loaRun < 256) }

/-- Entry to LOM, SQM or LOA: counter and event 8n + 7 with its cause code (R216). -/
def State.vcatEntered (s : State) (n : LaneId) (g : Nat) (a b : VcatMember) : State :=
  let one (s : State) (was is : Bool) (c cause : Nat) : State :=
    if is && !was then (s.grpCnt g c).reportFreeSev (laneEv n 7) [BitVec.ofNat 8 cause] else s
  one (one (one s a.lom b.lom 8 4) a.sqm b.sqm 9 5) a.loa b.loa 10 6

/-- The payload of a frame in SQ order: byte k of member i is byte k × X + i. -/
def interleave (parts : List (List Byte)) : List Byte :=
  (List.range ((parts.map List.length).foldl min ((parts.head?.map List.length).getD 0))).flatMap fun k => parts.map fun b => byteAt b k

/-- The frame with MFI m is aligned where every member holds it; it goes to the group's entry where the group is FULL, and it and what is
older leave the buffers. -/
def State.vcatAlign (s : State) (g : Nat) (m : BitVec 12) : State :=
  let x := s.group g
  let parts := x.positions.map fun i => ((vget {} x.vm i).buf.find? fun b => b.1 == m).map (·.2)
  if parts.isEmpty || parts.any Option.isNone then s
  else
    let s := s.modGroup g fun x => { x with vm := x.vm.map fun v => { v with buf := v.buf.filter fun b => 0 < mfiAhead b.1 m } }
    if x.gstate ≠ .full then s
    else
      match (if h : x.seqLane 0 < 96 then some (⟨x.seqLane 0, h⟩ : LaneId) else none) with
      | none => s
      | some n =>
        let put (e : TribEntry) : TribEntry :=
          if e.valid && e.vcat && e.grp == g && !s.tribFails n e then e.wait (interleave (parts.filterMap id)) [0] else e
        s.modSdh n fun y => { y with trib := y.trib.map put }

/-- VCAT_MEMBER_FRAME: H4 of a frame of the member at a position is read, where its AU-4 can be read; else what was read before is
forgotten. -/
def execVcatMemberFrame (g : GroupId) (pos : Fin 64) (f : VcatFrame) (s : State) : Res :=
  .next (
    let x := s.group g.val
    if h : x.seqLane pos.val < 96 then
      let n : LaneId := ⟨x.seqLane pos.val, h⟩
      if g.val < 8 || !x.en || !x.seqValid pos.val || !s.sdhOn n then s
      else if !s.memberReads x pos.val then
        s.modGroup g.val fun x => { x with vm := vmod x.vm pos.val fun v => { v with mfi := none, buf := [] } }
      else
        let v : VcatMember := x.vm[pos.val]
        let v' := v.rx pos.val (s.delayOf x f.mfi) (s.effSkew g.val) f
        let s := s.modGroup g.val fun x => { x with vm := x.vm.set pos.val v' }
        let s := s.vcatEntered n g.val v v'
        (s.vcatAlign g.val f.mfi).judgeVcat g.val (some n.val)
    else s)

/-- VCAT_RECOVER: all members have been free of failure for 16 multiframes. -/
def execVcatRecover (g : GroupId) (s : State) : Res :=
  .next (
    let x := s.group g.val
    if 8 ≤ g.val ∧ x.en ∧ x.gstate = .fail ∧ !s.anyFailed x then s.setGState g.val .full 1 none else s)

/-! ### The tributary table (R258, R273) -/

/-- A write of word 0 breaks the rule of R258, or makes an entry valid without the feature TRIBUTARY (R478). A group slot is 8 to 15. -/
def State.entryBad (s : State) (n : LaneId) (t : Nat) (w : W32) : Bool :=
  bit w 0 &&
    (!s.feature 5 ||
      (bit w 1 &&
      (let g := s.group (8 + (fld w 8 4).toNat)
       decide (7 < (fld w 8 4).toNat) || !(g.seqValid 0 && g.seqLane 0 == n.val))) ||
      (let used := s.usedAus n t
       (s.tribAus n.val w).any fun a => used.contains a))

/-- A fresh entry in priming, with its configuration. -/
def TribEntry.fresh (e : TribEntry) : TribEntry := { w0 := e.w0, txCtx := e.txCtx, rxCtx := e.rxCtx }

/-- Word 0 as written: an entry that becomes valid, or carries something else, is new (R265). -/
def State.entryWrite (s : State) (n : LaneId) (t : Nat) (w : W32) : State :=
  let w := rw 0xFFFF0FFF#32 w
  if s.entryBad n t w then s.modSdh n fun x => { x with entryRefused := true }
  else
    s.modEntry n t fun e =>
      let e' := { e with w0 := w }
      if fld e.w0 0 12 = fld w 0 12 then e' else e'.fresh

/-- A write of a window item (R273). -/
def State.sdhItemWrite (s : State) (n : LaneId) (i : Nat) (w : W32) : State :=
  let mods := s.modSdh n
  if i < 6 then
    let mask : W32 := if i = 1 ∨ i = 3 ∨ i = 5 then 0xFFFF#32 else if i = 4 then 0x17FFF#32 else 0xFFFFFFFF#32
    mods fun x => { x with hdr := vset x.hdr i (rw mask w) }
  else if 0x10 ≤ i ∧ i < 0x14 then mods fun x => { x with j0 := { x.j0 with expected := vset x.j0.expected (i - 0x10) w, run := 0 } }
  else if 0x14 ≤ i ∧ i < 0x18 then mods fun x => { x with j0 := { x.j0 with tx := vset x.j0.tx (i - 0x14) w } }
  else if 0x100 ≤ i ∧ i < 0x200 then
    let t := (i - 0x100) / 4
    if i % 4 = 0 then s.entryWrite n t w
    else if i % 4 = 1 then s.modEntry n t fun e => { e with txCtx := w }
    else if i % 4 = 2 then s.modEntry n t fun e => if e.rxCtx = w then e else ({ e with rxCtx := w } : TribEntry).fresh
    else s
  else if 0x300 ≤ i ∧ i < 0x340 then
    mods fun x => { x with au := vmod x.au (i - 0x300) fun a => { a with j1En := bit w 4, trace := a.trace.enable (bit w 4) } }
  else if 0x800 ≤ i ∧ i < 0x900 then
    mods fun x => { x with au := vmod x.au ((i - 0x800) / 4) fun a =>
      { a with trace := { a.trace with expected := vset a.trace.expected (i % 4) w, run := 0 } } }
  else if 0x900 ≤ i ∧ i < 0xA00 then
    mods fun x => { x with au := vmod x.au ((i - 0x900) / 4) fun a => { a with trace := { a.trace with tx := vset a.trace.tx (i % 4) w } } }
  else s

/-- The bin that LN_SDH_PM_SEL_n selects, and whether it may still be adjusted (R272). -/
def SdhPort.selBin (x : SdhPort) : Bin × Bool :=
  let p := (fld x.pmSel 0 7).toNat
  let b := (fld x.pmSel 8 7).toNat
  if 64 < p then ({}, false)
  else
    let y : PmPoint := vget {} x.pm p
    if bit x.pmSel 7 then
      (if b = 0 then y.cur24 else y.hist24.getD (b - 1) {}, decide (0 < b ∧ b ≤ y.hist24.length) && y.recent.any fun r => r.2.2.2 == b)
    else (if b = 0 then y.cur15 else y.hist15.getD (b - 1) {}, decide (0 < b ∧ b ≤ y.hist15.length) && y.recent.any fun r => r.2.2.1 == b)

/-- Items 0x400 to 0x406. -/
def SdhPort.binItem (x : SdhPort) (i : Nat) : W32 :=
  let (b, adj) := x.selBin
  if i = 0 then BitVec.ofNat 32 b.es
  else if i = 1 then BitVec.ofNat 32 b.ses
  else if i = 2 then BitVec.ofNat 32 b.bbe
  else if i = 3 then BitVec.ofNat 32 b.uas
  else if i = 4 then atN 0 17 b.secs ||| atB 17 b.incomplete ||| atB 18 b.valid ||| atB 19 adj
  else if i = 5 then fld b.start 0 32
  else if i = 6 then (fld b.start 32 16).setWidth 32
  else 0

/-- A read of a window item. -/
def State.sdhItem (s : State) (p : Port) (n : LaneId) (i : Nat) : W32 × State :=
  let x := (s.lane n).sdh
  if i < 6 then (vget 0 x.hdr i, s)
  else if 0x10 ≤ i ∧ i < 0x14 then (vget 0 x.j0.expected (i - 0x10), s)
  else if 0x14 ≤ i ∧ i < 0x18 then (vget 0 x.j0.tx (i - 0x14), s)
  else if 0x18 ≤ i ∧ i < 0x1C then (vget 0 x.j0.accepted (i - 0x18), s)
  else if 0x100 ≤ i ∧ i < 0x200 then
    let e : TribEntry := vget {} x.trib ((i - 0x100) / 4)
    (if i % 4 = 0 then e.w0 else if i % 4 = 1 then e.txCtx else if i % 4 = 2 then e.rxCtx
      else atB 0 e.priming ||| atB 1 e.sfTx ||| atB 2 e.sfRx ||| atN 16 16 (e.depth / 64), s)
  else if 0x200 ≤ i ∧ i < 0x226 then s.readPair p (laneBase n.val + 0x2010) (vget 0 x.cnt ((i - 0x200) / 2)) (i % 2 == 1)
  else if 0x300 ≤ i ∧ i < 0x340 then
    let a : Au4 := vget {} x.au (i - 0x300)
    (atB 0 a.ais.on ||| atB 1 a.lop.on ||| atB 2 a.rdi.on ||| atB 3 a.trace.tim ||| atB 4 a.j1En ||| at' 16 a.ptr, s)
  else if 0x400 ≤ i ∧ i < 0x408 then (x.binItem (i - 0x400), s)
  else if 0x800 ≤ i ∧ i < 0x900 then (vget 0 (vget {} x.au ((i - 0x800) / 4)).trace.expected (i % 4), s)
  else if 0x900 ≤ i ∧ i < 0xA00 then (vget 0 (vget {} x.au ((i - 0x900) / 4)).trace.tx (i % 4), s)
  else if 0xA00 ≤ i ∧ i < 0xB00 then (vget 0 (vget {} x.au ((i - 0xA00) / 4)).trace.accepted (i % 4), s)
  else (0, s)

def State.sdhWinRead (s : State) (p : Port) (n : LaneId) : W32 × State :=
  let (v, s) := s.sdhItem p n (laneItem (s.lane n).sdh.winAddr)
  (v, s.modSdh n fun x => { x with winAddr := laneWinStep x.winAddr })

def State.sdhWinWrite (s : State) (n : LaneId) (w : W32) : State :=
  (s.sdhItemWrite n (laneItem (s.lane n).sdh.winAddr) w).modSdh n fun x => { x with winAddr := laneWinStep x.winAddr }

/-! ### Registers (R269 to R272) -/

/-- LN_SDH_STATUS_n. -/
def Lane.sdhStatus (l : Lane) : W32 :=
  let x := l.sdh
  at' 0 x.frm.code ||| atB 2 (!l.com.sigdet) ||| atB 3 (x.frm != .inFrame) ||| atB 4 x.lof ||| atB 5 x.msAis.on ||| atB 6 x.msRdi.on |||
    atB 7 x.j0.tim ||| atB 8 x.sd ||| atB 9 x.txHold ||| atB 10 x.txFree ||| atB 11 x.defSeen ||| atB 12 x.zeroSeen ||| atB 13 x.slipSeen |||
    atB 14 x.entryRefused

/-- A write of LN_SDH_CTL_n. -/
def State.sdhCtlWrite (s : State) (n : LaneId) (w : W32) : State :=
  let was := (s.lane n).sdh
  let s := s.modSdh n fun x => { x with ctl := rw 0xFFFF0F18#32 w, j0 := x.j0.enable (bit w 3) }
  -- TIM1 that stands becomes a path defect, or is none any more (R253).
  let s := if bit was.ctl 4 = bit w 4 then s
    else (s.defectSeen n (bit w 4 && was.au.toList.any fun a => a.trace.tim) 6).judgeVcats n
  let s := if bit w 0 then s.sdhCntClr n else s
  let s := if bit w 1 then s.sdhRestart n else s
  if bit w 2 then s.pmClr n else s

/-- Block 1 of an SDH lane, by offset from 0x2000. -/
def State.sdhRead (s : State) (p : Port) (n : LaneId) (off : Nat) : W32 × State :=
  let x := (s.lane n).sdh
  if off = 0 then (x.ctl, s)
  else if off = 4 then ((s.lane n).sdhStatus, s)
  else if off = 8 then (x.pmSel, s)
  else if off = 0xC then (x.winAddr, s)
  else if off = 0x10 then s.sdhWinRead p n
  else (0, s)

def State.sdhWrite (s : State) (n : LaneId) (off : Nat) (w : W32) : State :=
  if off = 0 then s.sdhCtlWrite n w
  else if off = 4 then
    s.modSdh n fun x => { x with
      defSeen := w1cB x.defSeen w 11, zeroSeen := w1cB x.zeroSeen w 12, slipSeen := w1cB x.slipSeen w 13
      entryRefused := w1cB x.entryRefused w 14 }
  else if off = 8 then s.modSdh n fun x => { x with pmSel := rw 0x7FFF#32 w }
  else if off = 0xC then s.modSdh n fun x => { x with winAddr := rw 0x1FFF#32 w }
  else if off = 0x10 then s.sdhWinWrite n w
  else s

/-- The kind of a register of block 1 of an SDH lane. -/
def sdhKind (off : Nat) : LaneKind := if off = 0 then .common else .rx

/-- SDH_WIN_ACCESS: a read or write of LN_SDH_WIN_DATA_n. -/
def execSdhWinAccess (p : Port) (n : LaneId) (acc : Option W32) (s : State) : Res :=
  .next (if s.isSdh n.val then
      match acc with
      | some w => s.writeLane p n 0x2010 .rx fun s => s.sdhWinWrite n w
      | none => s.readLane p n 0x2010 .rx fun s => s.sdhWinRead p n
    else s)

/-- TRIB_ENTRY_WRITE: a write of LN_SDH_WIN_DATA_n with the window at word 0, 1 or 2 of a tributary entry. -/
def execTribEntryWrite (p : Port) (n : LaneId) (w : W32) (s : State) : Res :=
  .next (
    let i := laneItem (s.lane n).sdh.winAddr
    if s.isSdh n.val ∧ 0x100 ≤ i ∧ i < 0x200 ∧ i % 4 ≠ 3 then s.writeLane p n 0x2010 .rx fun s => s.sdhWinWrite n w else s)

end Sys2Proof.Machine
end

