-- ==== Sys2Proof/Machine/Registers.lean ====
section
/-!
DEFINITION. The whole register map (R559 to R566): which register stands at an address, whether it answers, and its read and write;
the writes of registers that have no command of their own, and gated accesses (R473 to R475).
-/
namespace Sys2Proof.Machine

/-! ### System control (R565) -/

/-- SYS_BOOT_STATUS (R558). -/
def State.bootStatus (s : State) : W32 :=
  let x := s.sys
  at' 0 x.src ||| atB 2 x.done ||| atB 3 x.imageOk ||| atB 4 x.slotFallback ||| atB 5 x.hold ||| at' 6 s.fwFactory ||| atB 10 x.vaultFail

/-- SYS_ID (R564). -/
def sysId : W32 := 0x00B09648#32 ||| atB 24 Config.grade

/-- A read of the system control island. -/
def State.sysRead (s : State) (p : Port) (off : Nat) : W32 × State :=
  let x := s.sys
  match off with
  | 0x0000 => (sysId, s)
  | 0x0004 => (x.scratch, s)
  | 0x2020 => (atB 0 x.lock ||| atB 1 x.reject, s)
  | 0x4000 => (s.bootStatus, s)
  | 0x4008 => (x.bootTime, s)
  | 0x8000 => (s.refclkStatus, s)
  | 0x8004 => (x.seedAddr, s)
  | 0x8008 => (x.seedRead, s)
  | 0xA000 => (x.snVendor, s)
  | 0xA004 => (x.snBase, s)
  | 0xC000 => (x.sumpAddr, s)
  | 0xC004 => s.sumpRead p
  | _ =>
    if 0x2000 ≤ off ∧ off < 0x2010 then (fld featOffer (8 * (off - 0x2000)) 32, s)
    else if 0x2010 ≤ off ∧ off < 0x2020 then (fld x.accept (8 * (off - 0x2010)) 32, s)
    else (0, s)

/-- A write of the system control island. -/
def State.sysWrite (s : State) (off : Nat) (w : W32) : State :=
  match off with
  | 0x0004 => s.modSys fun x => { x with scratch := w }
  | 0x2020 => s.featLock w
  | 0x4004 => s.bootCtl w
  | 0x8000 => s.refclkClear w
  | 0x8004 => s.modSys fun x => { x with seedAddr := rw 0x3F1F#32 w }
  | 0x8008 => s.modSys fun x => x.seedWrite w
  | 0xA000 => s.modSys fun x => { x with snVendor := w }
  | 0xA004 => s.modSys fun x => { x with snBase := w }
  | 0xC000 => s.modSys fun x => { x with sumpAddr := rw 0x13FF#32 w }
  | 0xC008 => s.sumpClr (fld w 0 4)
  | _ => if 0x2010 ≤ off ∧ off < 0x2020 then s.featAccept ((off - 0x2010) / 4) w else s

/-! ### The other islands -/

/-- The key island: blocks 0 and 1, and the context window of block 8. -/
def State.keyIslRead (s : State) (p : Port) (off : Nat) : W32 × State :=
  match off with
  | 0x02000 => (s.key.laAddr, s)
  | 0x02004 => s.laRead
  | 0x10000 => (s.key.ctxAddr, s)
  | 0x10004 => s.ctxRead p
  | 0x10008 => (atB 0 s.key.ctxRefused ||| at' 1 s.key.ctxCause, s)
  | _ => s.keyRead p off
def State.keyIslWrite (s : State) (off : Nat) (w : W32) : State :=
  match off with
  | 0x02000 => s.modKey fun k => { k with laAddr := rw 0x7FF#32 w }
  | 0x02004 => s.laWrite w
  | 0x10000 => s.modKey fun k => { k with ctxAddr := rw 0xFFFFF#32 w }
  | 0x10004 => s.ctxWrite w
  | 0x10008 => s.modKey fun k => { k with ctxRefused := w1cB k.ctxRefused w 0 }
  | _ => s.keyWrite off w

/-- The tables island: blocks 0 to 2, 6 and 7. -/
def State.tblIslRead (s : State) (p : Port) (off : Nat) : W32 × State :=
  if off < 0xC000 then s.tblRead p off
  else if 0xC100 ≤ off ∧ off < 0xC200 then ((vget 0 s.tbl.fsel ((off - 0xC100) / 4)).setWidth 32, s)
  else if off = 0xE004 then (atN 0 14 s.tbl.frags.length, s)
  else if 0xE008 ≤ off ∧ off < 0xE014 then s.frgRead ((off - 0xE008) / 4)
  else s.sprRead off
def State.tblIslWrite (s : State) (off : Nat) (w : W32) : State :=
  if off < 0xC000 then s.tblWrite off w
  else if 0xC100 ≤ off ∧ off < 0xC200 then
    { s with tbl := { s.tbl with fsel := vset s.tbl.fsel ((off - 0xC100) / 4) (fld w 0 16 &&& 0x8FFF#16) } }
  else if off = 0xE000 then (if bit w 0 then s.fragFlush else s)
  else s.sprWrite off w

/-- A quadrant island. -/
def State.quadIslRead (s : State) (p : Port) (q off : Nat) : W32 × State :=
  if off ≤ 0x4000 then s.clsRead q off
  else if off < 0xA000 then s.cphRead p q off
  else if off < 0x10000 then s.trafficRead p q off
  else if off < 0x12000 then (s.floatRead q off, s)
  else if h : q < 4 then (if off < 0x14000 then s.stwRead ⟨q, h⟩ (off - 0x12000) else (0, s))
  else (0, s)
def State.quadIslWrite (s : State) (q off : Nat) (w : W32) : State :=
  if off < 0x4000 then s.clsWrite q off w
  else if off < 0xA000 then s.cphWrite q off w
  else if off < 0x10000 then s.trafficWrite q off w
  else if off < 0x12000 then s.floatWrite q off w
  else if h : q < 4 then (if off < 0x14000 then s.stwWrite ⟨q, h⟩ (off - 0x12000) w else s)
  else s

/-- Blocks 1 and 2 of a lane answer under the role that runs (R563). -/
def State.laneIslRead (s : State) (p : Port) (n : LaneId) (off : Nat) : W32 × State :=
  if off < 0x2000 then s.laneRead n off
  else if off < 0x4000 then
    (if s.isLine n.val then s.dsRead p n (off - 0x2000)
     else if s.isEth n.val then s.ethRead p n (off - 0x2000)
     else if s.isSdh n.val then s.sdhRead p n (off - 0x2000)
     else (0, s))
  else if off < 0x6000 then (if s.isLine n.val then s.usRead p n (off - 0x4000) else (0, s))
  else (s.tsRead n off, s)
def State.laneIslWrite (s : State) (n : LaneId) (off : Nat) (w : W32) : State :=
  if off < 0x2000 then s.laneWrite n off w
  else if off < 0x4000 then
    (if s.isLine n.val then s.dsWrite n (off - 0x2000) w
     else if s.isEth n.val then s.ethWrite n (off - 0x2000) w
     else if s.isSdh n.val then s.sdhWrite n (off - 0x2000) w
     else s)
  else if off < 0x6000 then (if s.isLine n.val then s.usWrite n (off - 0x4000) w else s)
  else s.tsWrite n off w

/-- The kind of the register at an offset of lane n (R85). -/
def State.kindAt (s : State) (n : LaneId) (off : Nat) : LaneKind :=
  if off < 0x2000 then laneKind off
  else if off < 0x4000 then
    (if s.isLine n.val then .rx
     else if s.isEth n.val then s.ethKind n (off - 0x2000)
     else if s.isSdh n.val then sdhKind (off - 0x2000)
     else .common)
  else .common

/-! ### BAR0 (R559, R560) -/

/-- The lane of an island ID. -/
def laneOfId (id : Nat) : Option LaneId := if h : 0x20 ≤ id ∧ id < 0x80 then some ⟨id - 0x20, by omega⟩ else none

/-- The register at BAR0 address a answers (R16, R85, R475). -/
def State.answersAt (s : State) (a : Nat) : Bool :=
  match laneOfId (a / 0x20000) with
  | some n => s.laneAnswers n (s.kindAt n (a % 0x20000)) && s.clocked
  | none => s.islandAnswers (a / 0x20000)

/-- A read of the register at an aligned BAR0 address that answers. -/
def State.regRead (s : State) (p : Port) (a : Nat) : W32 × State :=
  let id := a / 0x20000
  let off := a % 0x20000
  match id with
  | 0 => s.sysRead p off
  | 1 => s.strRead off
  | 2 => s.pwrRead p off
  | 3 => s.evtRead off
  | 4 => s.welRead off
  | 5 => s.talRead p off
  | 6 => s.timRead p off
  | 7 => s.keyIslRead p off
  | 8 => s.hifRead off
  | 9 => if off < 0x8000 then s.cstRead p off else s.skwRead off
  | 10 => s.tblIslRead p off
  | 11 => s.fbkRead p off
  | _ =>
    match laneOfId id with
    | some n => s.laneIslRead p n off
    | none => if id < 0x20 then s.quadIslRead p (id - 0x10) off else s.coreRead (id - 0x80) off

/-- A write of the register at an aligned BAR0 address that answers. -/
def State.regWrite (s : State) (a : Nat) (w : W32) : State :=
  let id := a / 0x20000
  let off := a % 0x20000
  match id with
  | 0 => s.sysWrite off w
  | 1 => s.strWrite off w
  | 2 => s.pwrWrite off w
  | 3 => s.evtWrite off w
  | 4 => s.welWrite off w
  | 5 => s.talWrite off w
  | 6 => s.timWrite off w
  | 7 => s.keyIslWrite off w
  | 8 => s.hifWrite off w
  | 9 => if off < 0x8000 then s.cstWrite off w else s.skwWrite off w
  | 10 => s.tblIslWrite off w
  | 11 => s.fbkWrite off w
  | _ =>
    match laneOfId id with
    | some n => s.laneIslWrite n off w
    | none => if id < 0x20 then s.quadIslWrite (id - 0x10) off w else s.coreWrite (id - 0x80) off w

/-- The register that an access at an address reaches: accesses are to naturally aligned registers (R473). -/
def alignWord (a : Nat) : Nat := a - a % 4

/-- A read of BAR0: the data, the state, and whether the answer is the gated one. An unassigned island reads 0 (R16). -/
def State.bar0Read (s : State) (p : Port) (a : Nat) : W32 × State × Bool :=
  let a := alignWord a
  if !assigned (a / 0x20000) then (0, s, false)
  else if s.answersAt a then ((s.regRead p a).1, (s.regRead p a).2, false)
  else (gatedData a, s.gatedRecord p a false, true)

/-- A write of BAR0. -/
def State.bar0Write (s : State) (p : Port) (a : Nat) (w : W32) : State :=
  let a := alignWord a
  if !assigned (a / 0x20000) then s
  else if s.answersAt a then s.regWrite a w
  else s.gatedRecord p a true

/-- A write of BAR2: the tally page's snapshot, or a doorbell (R471, R529). -/
def State.bar2Any (s : State) (a : Nat) (w : W32) : State := if a = 0x800 then s.pageSnap else s.bar2Write a w

/-- REGISTER_WRITE: BAR2 and BAR4 are reached only over PCIe (R566). -/
def execRegisterWrite (p : Port) (a : RegAddr) (w : W32) (s : State) : Res :=
  .next (
    if !s.portUp p then s
    else
      match a, p with
      | .bar0 a, _ => s.bar0Write p a.toNat w
      | .bar2 a, .pcie => s.bar2Any (alignWord a.toNat) w
      | .bar4 a, .pcie => s.bar4Write (alignWord a.toNat) w
      | _, .twoWire => s)

/-- GATED_ACCESS: an access to a register whose island has no clock or power. An access that is answered is none. -/
def execGatedAccess (p : Port) (a : BitVec 25) (write : Bool) (s : State) : Res :=
  .next (
    let a := alignWord a.toNat
    if !s.portUp p || !assigned (a / 0x20000) || s.answersAt a then s
    else
      let s := s.gatedRecord p a write
      if write then s else s.emit (.read p (gatedData a)))

end Sys2Proof.Machine
end

