-- ==== Sys2Proof/Machine/Thermal.lean ====
section
/-!
DEFINITION. The die's temperature sensor (R586). Emission is stopped and resumed as TXINH_N does it (R81, R583).
-/
namespace Sys2Proof.Machine

/-- THERMAL_LIMIT: Tj rises above the ordering code's maximum. -/
def execThermalLimit (s : State) : Res :=
  .next (if s.pins.thermalArmed then State.report { s with pins := { s.pins with thermalArmed := false } } 998 3 else s)

/-- THERMAL_LIMIT_REARM: Tj has fallen 5 °C below that maximum. -/
def execThermalLimitRearm (s : State) : Res := .next { s with pins := { s.pins with thermalArmed := true } }

/-- THERMAL_TRIP: Tj reaches 125 °C. -/
def execThermalTrip (s : State) : Res :=
  .next (
    let s := s.lineLanes.foldl (fun s n => (s.cutBurst n).modCom n fun c => { c with txen := false }) s
    State.report { s with pins := { s.pins with thermalStop := true } } 999 4)

/-- THERMAL_RESUME: Tj falls below 115 °C. The 100 ns of R583 count from the later end of the two stops. -/
def execThermalResume (s : State) : Res :=
  .next (if s.pins.thermalStop then { s with pins := { s.pins with thermalStop := false, txinhRise := some s.now } } else s)

end Sys2Proof.Machine
end

