-- ==== Sys2Proof/Machine/TwoWire.lean ====
section
/-!
DEFINITION. The two-wire port (R491, R492). An offset beyond BAR0 reaches what the spec does not say: the register at its low 25 bits, or
none, is a free value.
-/
namespace Sys2Proof.Machine

/-- A command is discarded and counts in ERRS, which the HIF domain holds. -/
def State.twDiscard (s : State) : State :=
  if s.isOn dHif then s.modHif fun h => { h with twErrs := satAdd h.twErrs 1 } else s

/-- The BAR0 address that an offset reaches, where it reaches one, and the state after the choice. -/
def State.twAddr (s : State) (off : W32) : Option Nat × State :=
  if off.toNat < 2 ^ 25 then (some off.toNat, s)
  else (if s.freeBits 1 = 1 then some (off.toNat % 2 ^ 25) else none, s.tookFree)

/-- The port's address: the power island's copy of ADDR (R491). -/
def State.twHere (s : State) (addr : BitVec 7) : Bool := s.portUp .twoWire && addr == fld s.pwr.twCopy 0 7

/-- The address byte of a transfer: the direction in bit 0. -/
def twByte (addr : BitVec 7) (read : Bool) : Byte := addr ++ BitVec.ofBool read

/-- The PEC of a write and of a read: the SMBus CRC-8 over every byte of the transfer before it, address bytes among them (R492). -/
def twWritePec (addr : BitVec 7) (off data : W32) : Byte :=
  crc8 (twByte addr false :: 1#8 :: leBytes 4 off.toNat ++ leBytes 4 data.toNat)
def twReadPec (addr : BitVec 7) (off data : W32) (status : Byte) : Byte :=
  crc8 (twByte addr false :: 2#8 :: leBytes 4 off.toNat ++ twByte addr true :: leBytes 4 data.toNat ++ [status])

/-- TW_WRITE: a write command with its PEC, none where it has none. -/
def execTwWrite (addr : BitVec 7) (off data : W32) (pec : Option Byte) (s : State) : Res :=
  .next (
    if !s.twHere addr then s
    else if (match pec with | some c => c != twWritePec addr off data | none => bit s.pwr.twCopy 7) then s.twDiscard
    else
      match s.twAddr off with
      | (some a, s) => s.bar0Write .twoWire a data
      | (none, s) => s)

/-- The answer of a read: data, status with bit 0 for the gated answer, and the PEC. -/
def State.twAnswer (s : State) (addr : BitVec 7) (off w : W32) (gated : Bool) : State :=
  s.emit (.twRead w gated (twReadPec addr off w (if gated then 1 else 0)))

/-- TW_READ. -/
def execTwRead (addr : BitVec 7) (off : W32) (s : State) : Res :=
  .next (
    if !s.twHere addr then s
    else
      match s.twAddr off with
      | (some a, s) =>
        let (w, s, gated) := s.bar0Read .twoWire a
        s.twAnswer addr off w gated
      | (none, s) => s.tookFree.twAnswer addr off (s.freeBits 32) (bit (s.freeBits 33) 32))

end Sys2Proof.Machine
end

