-- ==== Sys2Proof/Machine/Vault.lean ====
section
/-!
DEFINITION. Zeroisation, tamper, the random source and the operating time (R406 to R412, R415, R513).
-/
namespace Sys2Proof.Machine

/-- A line lane leaves for O1.1 with LAST_EXIT 7, but in O1.1, O1.2, O2-3 and O7 (R141, R407). -/
def State.zeroiseLane (s : State) (n : LaneId) : State :=
  let st := (s.lane n).act.state
  let s := (s.encryptBegun n).modDs n fun d => { d with keys := Vector.replicate 4 none }
  let s := s.modAct n fun a => { a with newKeys := [], usKeyIdx := 0 }
  if s.isLine n.val && !(st == .o11 || st == .o12 || st == .o23 || st == .o7) then s.exitTo11 n 7 else s

/-- The steps of R407, with a command in progress abandoned (R409). -/
def State.zeroiseSteps (s : State) : State :=
  let s := s.abandon fun _ => true
  let s := s.modKey fun k => { k with
    cache := [], demand := [], prefetch := [], msk := [], tcSk := [], data := Vector.replicate 16 0, busy := none
    drbgReseeds := k.drbgReseeds + 1 }
  let s := s.drbgStart
  let s : State := { s with cores := s.cores.map fun c => { c with keys := [] } }
  ((List.finRange 96).foldl State.zeroiseLane s).keyCnt 6 1

/-- The root slots are erased under R404. -/
def State.eraseRoots (s : State) : State := (List.range 16).foldl State.eraseSlot s

/-- ZEROISE: ZERO_N has been low for lowNs nanoseconds. One trigger raises event 1000 once. -/
def execZeroise (lowNs : Nat) (s : State) : Res :=
  .next (
    if lowNs < 100 ∨ s.key.zeroNLow then s
    else
      let s := (s.modKey fun k => { k with zeroNLow := true }).zeroiseSteps
      let s := if bit s.key.zcfg 0 then s.eraseRoots else s
      s.report 1000 3)

/-- A cause is sensed: its condition holds, and its sensor is enabled (R406). -/
def KeyIsland.senses (k : KeyIsland) : TamperCause → Bool
  | .pin ns => bit k.zcfg 2 && decide (100 ≤ ns)
  | .temperature t => bit k.zcfg 3 && decide (t < -55000 ∨ 125000 < t)
  | .voltage v => bit k.zcfg 4 && decide (2100 < v)
  | .shield => true
  | .link => true

/-- TAMPER. -/
def execTamper (cause : TamperCause) (s : State) : Res :=
  .next (
    if !s.key.senses cause then s
    else
      let s := s.modVault fun v => { v with tamperLatched := true, tamperCauses := setBit v.tamperCauses cause.index true }
      let s := s.zeroiseSteps
      let s := if bit s.key.zcfg 1 then s.eraseRoots else s
      s.report 1001 4 [s.vault.tamperCauses.setWidth 8])

/-- ZERO_N_RISE. -/
def execZeroNRise (s : State) : Res :=
  .next (if s.key.zeroNLow then (s.modKey fun k => { k with zeroNLow := false }).endCond 1000 else s)

/-- TRNG_FAIL: a health test fails on the raw bits, which begin with an aligned window (R410). -/
def execTrngFail (raw : List Bool) (s : State) : Res :=
  .next (if s.key.trngFail || !trngFails raw then s else ((s.modKey fun k => { k with trngFail := true }).keyCnt 7 1).report 1002 3)

/-- TRNG_RECOVER: that many raw bits in a row have passed both tests, and 2^20 end the failure (R410); Key_Control messages that wait are
answered (R411). -/
def execTrngRecover (passed : Nat) (s : State) : Res :=
  .next (if s.key.trngFail ∧ 1048576 ≤ passed then
      (List.finRange 96).foldl State.answerKeys ((s.modKey fun k => { k with trngFail := false }).endCond 1002)
    else s)

/-- DRBG_RESEED: skipped while TRNG_FAIL is 1. -/
def execDrbgReseed (s : State) : Res :=
  .next s.drbgReseed

/-- OPERATING_MINUTE: 60 s have been counted; past its largest value the counter stays, with event 1005. -/
def execOperatingMinute (s : State) : Res :=
  .next (
    let s : State := { s with wel := { s.wel with opsClk := s.wel.opsClk - 600000000000 } }
    if 2 ^ 32 ≤ s.vault.operatingS.toNat + 60 then s.report 1005 2 [3#8]
    else s.modVault fun v => { v with operatingS := v.operatingS + 60 })

end Sys2Proof.Machine
end

