-- ==== Sys2Proof/Machine/Dispatch.lean ====
section
/-!
DEFINITION. The meaning of every command: one arm for each constructor.
-/
namespace Sys2Proof.Machine

def exec (i : Instr) (s : State) : Host.Outcome State Fault Refusal :=
  match i with
  -- Boot
  | .powerUp => Sys2Proof.Machine.execPowerUp s
  | .railUndervolt => Sys2Proof.Machine.execRailUndervolt s
  | .reset straps => Sys2Proof.Machine.execReset straps s
  | .bootGo p => Sys2Proof.Machine.execBootGo p s
  | .bootApply => Sys2Proof.Machine.execBootApply s
  | .keyReady => Sys2Proof.Machine.execKeyReady s
  -- Loader
  | .load p src => Sys2Proof.Machine.execLoad p src s
  | .loadDone ok bytes => Sys2Proof.Machine.execLoadDone ok bytes s
  | .verify p => Sys2Proof.Machine.execVerify p s
  | .verifyDone => Sys2Proof.Machine.execVerifyDone s
  | .apply p mask => Sys2Proof.Machine.execApply p mask s
  | .applyDone us => Sys2Proof.Machine.execApplyDone us s
  | .applyFail q => Sys2Proof.Machine.execApplyFail q s
  | .commit p => Sys2Proof.Machine.execCommit p s
  | .commitDone res => Sys2Proof.Machine.execCommitDone res s
  | .abandon p => Sys2Proof.Machine.execAbandon p s
  | .abandonDone applyOk us => Sys2Proof.Machine.execAbandonDone applyOk us s
  -- Registers
  | .registerWrite p a w => Sys2Proof.Machine.execRegisterWrite p a w s
  -- LaneSlice
  | .eqUpdate n x prev => Sys2Proof.Machine.execEqUpdate n x prev s
  | .eqLimit n => Sys2Proof.Machine.execEqLimit n s
  | .seedLoaded n => Sys2Proof.Machine.execSeedLoaded n s
  | .rxRestart p n => Sys2Proof.Machine.execRxRestart p n s
  | .eqFreeze p n on => Sys2Proof.Machine.execEqFreeze p n on s
  | .tapWrite p n w => Sys2Proof.Machine.execTapWrite p n w s
  | .signalDetectSet n rms => Sys2Proof.Machine.execSignalDetectSet n rms s
  | .signalDetectClear n rms => Sys2Proof.Machine.execSignalDetectClear n rms s
  | .cdrLock n => Sys2Proof.Machine.execCdrLock n s
  | .cdrLockLost n => Sys2Proof.Machine.execCdrLockLost n s
  | .adaptFastDone n => Sys2Proof.Machine.execAdaptFastDone n s
  | .noiseReport n sumSq => Sys2Proof.Machine.execNoiseReport n sumSq s
  | .refclkLoss q => Sys2Proof.Machine.execRefclkLoss q s
  | .refclkReturn q => Sys2Proof.Machine.execRefclkReturn q s
  | .refclkGate q ppm => Sys2Proof.Machine.execRefclkGate q ppm s
  -- LaneTx
  | .txinhFall lowPs => Sys2Proof.Machine.execTxinhFall lowPs s
  | .txinhRise => Sys2Proof.Machine.execTxinhRise s
  | .txSquelch p n on => Sys2Proof.Machine.execTxSquelch p n on s
  | .genEn p n on => Sys2Proof.Machine.execGenEn p n on s
  | .checkerLock n bits => Sys2Proof.Machine.execCheckerLock n bits s
  | .checkerLockLoss n bits => Sys2Proof.Machine.execCheckerLockLoss n bits s
  | .prbsErrRead p n bits => Sys2Proof.Machine.execPrbsErrRead p n bits s
  | .injSingle p n => Sys2Proof.Machine.execInjSingle p n s
  | .injBurst p n => Sys2Proof.Machine.execInjBurst p n s
  -- LaneSlice
  | .seedDataWrite p w => Sys2Proof.Machine.execSeedDataWrite p w s
  -- HostBond
  | .hbMarkerRx n blk b => Sys2Proof.Machine.execHbMarkerRx n blk b s
  | .hbHandshakeRx n blockLock b => Sys2Proof.Machine.execHbHandshakeRx n blockLock b s
  | .hbHandshakeTx n => Sys2Proof.Machine.execHbHandshakeTx n s
  | .hbCommitDone n => Sys2Proof.Machine.execHbCommitDone n s
  | .hbTimeout n zeroN => Sys2Proof.Machine.execHbTimeout n zeroN s
  | .hbAlignTimeout n => Sys2Proof.Machine.execHbAlignTimeout n s
  | .hbRestart p n => Sys2Proof.Machine.execHbRestart p n s
  -- Downstream
  | .psyncCandidate n pos => Sys2Proof.Machine.execPsyncCandidate n pos s
  | .candidateCheckPoint n pos bitErrs sfc ponId hlend => Sys2Proof.Machine.execCandidateCheckPoint n pos bitErrs sfc ponId hlend s
  | .dsFrame n bitErrs sfc ponId hlend => Sys2Proof.Machine.execDsFrame n bitErrs sfc ponId hlend s
  | .huntRestart p n => Sys2Proof.Machine.execHuntRestart p n s
  | .fecCodeword n byteErrs => Sys2Proof.Machine.execFecCodeword n byteErrs s
  | .fecWindowEnd n => Sys2Proof.Machine.execFecWindowEnd n s
  | .fecThWrite p n w => Sys2Proof.Machine.execFecThWrite p n w s
  | .allocStructure n idx a => Sys2Proof.Machine.execAllocStructure n idx a s
  | .dsPloam n m => Sys2Proof.Machine.execDsPloam n m s
  | .xgemFrameRx n h idle payload => Sys2Proof.Machine.execXgemFrameRx n h idle payload s
  | .reassemblyTimeout n port => Sys2Proof.Machine.execReassemblyTimeout n port s
  | .portTableWrite p n w => Sys2Proof.Machine.execPortTableWrite p n w s
  | .dsCntClr p n => Sys2Proof.Machine.execDsCntClr p n s
  | .dsWinAccess p n acc => Sys2Proof.Machine.execDsWinAccess p n acc s
  -- Activation
  | .burstProfileMsg n => Sys2Proof.Machine.execBurstProfileMsg n s
  | .assignOnuId n => Sys2Proof.Machine.execAssignOnuId n s
  | .rangingTime n => Sys2Proof.Machine.execRangingTime n s
  | .tuningControl n => Sys2Proof.Machine.execTuningControl n s
  | .channelProfile n => Sys2Proof.Machine.execChannelProfile n s
  | .deactivateOnuId n => Sys2Proof.Machine.execDeactivateOnuId n s
  | .disableSerialNumber n => Sys2Proof.Machine.execDisableSerialNumber n s
  | .assignAllocId n => Sys2Proof.Machine.execAssignAllocId n s
  | .keyControl n => Sys2Proof.Machine.execKeyControl n s
  | .ploamUnexpected n => Sys2Proof.Machine.execPloamUnexpected n s
  | .keyReportHandoff n => Sys2Proof.Machine.execKeyReportHandoff n s
  | .to1Expire n => Sys2Proof.Machine.execTo1Expire n s
  | .to2Expire n => Sys2Proof.Machine.execTo2Expire n s
  | .to4Expire n => Sys2Proof.Machine.execTo4Expire n s
  | .to5Expire n => Sys2Proof.Machine.execTo5Expire n s
  | .tuneScheduledCount n => Sys2Proof.Machine.execTuneScheduledCount n s
  | .tuneAck p q w => Sys2Proof.Machine.execTuneAck p q w s
  | .scanDwell n => Sys2Proof.Machine.execScanDwell n s
  -- Steward
  | .stwLaneData p q acc => Sys2Proof.Machine.execStwLaneData p q acc s
  | .bcastKey p q slice keyIdx => Sys2Proof.Machine.execBcastKey p q slice keyIdx s
  | .clearRogue p q slice => Sys2Proof.Machine.execClearRogue p q slice s
  | .clearDisable p q slice => Sys2Proof.Machine.execClearDisable p q slice s
  | .restartLane p q slice => Sys2Proof.Machine.execRestartLane p q slice s
  -- Activation
  | .rogueTrip n => Sys2Proof.Machine.execRogueTrip n s
  -- Steward
  | .loadFw p q => Sys2Proof.Machine.execLoadFw p q s
  | .swapFw p q force => Sys2Proof.Machine.execSwapFw p q force s
  | .swapFwHalt q => Sys2Proof.Machine.execSwapFwHalt q s
  | .swapFwCheck q pass => Sys2Proof.Machine.execSwapFwCheck q pass s
  | .commitFw p q => Sys2Proof.Machine.execCommitFw p q s
  | .stewardHeartbeatMiss q => Sys2Proof.Machine.execStewardHeartbeatMiss q s
  | .optGo p q w => Sys2Proof.Machine.execOptGo p q w s
  | .optDone q nack rdata => Sys2Proof.Machine.execOptDone q nack rdata s
  | .optTimeout q => Sys2Proof.Machine.execOptTimeout q s
  -- Pump
  | .grant n ns => Sys2Proof.Machine.execGrant n ns s
  | .cisternToTroughMove n queue => Sys2Proof.Machine.execCisternToTroughMove n queue s
  | .burstAssemble n => Sys2Proof.Machine.execBurstAssemble n s
  | .lateCisternFrame n queue => Sys2Proof.Machine.execLateCisternFrame n queue s
  | .burstServe n => Sys2Proof.Machine.execBurstServe n s
  | .burstEnd n => Sys2Proof.Machine.execBurstEnd n s
  | .usCntClr p n => Sys2Proof.Machine.execUsCntClr p n s
  | .usWinAccess p n acc => Sys2Proof.Machine.execUsWinAccess p n acc s
  -- Bond
  | .bondCapsTimer n => Sys2Proof.Machine.execBondCapsTimer n s
  | .bondJoin n => Sys2Proof.Machine.execBondJoin n s
  | .bondHello n => Sys2Proof.Machine.execBondHello n s
  | .bondLeave n => Sys2Proof.Machine.execBondLeave n s
  | .bondIndep n => Sys2Proof.Machine.execBondIndep n s
  | .bondMessageDrop n => Sys2Proof.Machine.execBondMessageDrop n s
  | .bondHelloTx n => Sys2Proof.Machine.execBondHelloTx n s
  | .bondHelloTimeout n => Sys2Proof.Machine.execBondHelloTimeout n s
  | .bondProbeTimeout n => Sys2Proof.Machine.execBondProbeTimeout n s
  | .bondPsyncStamp n => Sys2Proof.Machine.execBondPsyncStamp n s
  -- Skew
  | .skewSduWrite n => Sys2Proof.Machine.execSkewSduWrite n s
  | .skewSlotRelease g => Sys2Proof.Machine.execSkewSlotRelease g s
  | .groupEnable p g w => Sys2Proof.Machine.execGroupEnable p g w s
  | .groupDisable p g w => Sys2Proof.Machine.execGroupDisable p g w s
  | .grpDataAccess p acc => Sys2Proof.Machine.execGrpDataAccess p acc s
  | .skwRestart p w => Sys2Proof.Machine.execSkwRestart p w s
  -- Spread
  | .spreadRemap p from_ to_ => Sys2Proof.Machine.execSpreadRemap p from_ to_ s
  | .spreadFill p dom g => Sys2Proof.Machine.execSpreadFill p dom g s
  | .spreadCmdDone => Sys2Proof.Machine.execSpreadCmdDone s
  | .sprDataAccess p acc => Sys2Proof.Machine.execSprDataAccess p acc s
  -- Skew
  | .vcatMemberFrame g pos f => Sys2Proof.Machine.execVcatMemberFrame g pos f s
  | .vcatRecover g => Sys2Proof.Machine.execVcatRecover g s
  -- Ethernet
  | .anComplete n kr f0 f1 => Sys2Proof.Machine.execAnComplete n kr f0 f1 s
  | .linkUpTimer n => Sys2Proof.Machine.execLinkUpTimer n s
  | .blockLockLost n hiBer => Sys2Proof.Machine.execBlockLockLost n hiBer s
  | .faultOrderedSet n localF remoteF => Sys2Proof.Machine.execFaultOrderedSet n localF remoteF s
  | .anRestart p n => Sys2Proof.Machine.execAnRestart p n s
  | .ethFrameRx n f => Sys2Proof.Machine.execEthFrameRx n f s
  | .pauseTx n => Sys2Proof.Machine.execPauseTx n s
  | .pauseRefresh n => Sys2Proof.Machine.execPauseRefresh n s
  | .pauseExpire n cls => Sys2Proof.Machine.execPauseExpire n cls s
  | .pauseCfgWrite p n w => Sys2Proof.Machine.execPauseCfgWrite p n w s
  | .ethFecWindow n corrected uncorrected => Sys2Proof.Machine.execEthFecWindow n corrected uncorrected s
  | .ethTxFrame n => Sys2Proof.Machine.execEthTxFrame n s
  | .ethCntClr p n => Sys2Proof.Machine.execEthCntClr p n s
  | .ethWinAccess p n acc => Sys2Proof.Machine.execEthWinAccess p n acc s
  -- Sdh
  | .sdhCandidate n pos pattern => Sys2Proof.Machine.execSdhCandidate n pos pattern s
  | .sdhCheckPoint n pos pattern => Sys2Proof.Machine.execSdhCheckPoint n pos pattern s
  | .sdhFrame n bytes => Sys2Proof.Machine.execSdhFrame n bytes s
  | .sdhLofTimer n => Sys2Proof.Machine.execSdhLofTimer n s
  | .sdhHuntRestart p n => Sys2Proof.Machine.execSdhHuntRestart p n s
  | .sdhSdWindow n => Sys2Proof.Machine.execSdhSdWindow n s
  -- Tributary
  | .tribSeal n t => Sys2Proof.Machine.execTribSeal n t s
  | .tribBlockRx n => Sys2Proof.Machine.execTribBlockRx n s
  | .sdhTxFrame n => Sys2Proof.Machine.execSdhTxFrame n s
  | .tribEntryWrite p n w => Sys2Proof.Machine.execTribEntryWrite p n w s
  | .pmSecond n point => Sys2Proof.Machine.execPmSecond n point s
  | .pmBinClose n day secondNow => Sys2Proof.Machine.execPmBinClose n day secondNow s
  -- Sdh
  | .sdhCntClr p n => Sys2Proof.Machine.execSdhCntClr p n s
  -- Tributary
  | .pmClr p n => Sys2Proof.Machine.execPmClr p n s
  | .sdhWinAccess p n acc => Sys2Proof.Machine.execSdhWinAccess p n acc s
  -- Classify
  | .classify q => Sys2Proof.Machine.execClassify q s
  | .rallyPass q => Sys2Proof.Machine.execRallyPass q s
  -- Rules
  | .clsSwap p q => Sys2Proof.Machine.execClsSwap p q s
  | .clsSwapDrained q => Sys2Proof.Machine.execClsSwapDrained q s
  | .epochRetire q => Sys2Proof.Machine.execEpochRetire q s
  | .clsCopy p q => Sys2Proof.Machine.execClsCopy p q s
  | .clsClear p q => Sys2Proof.Machine.execClsClear p q s
  | .clsCmdDone q => Sys2Proof.Machine.execClsCmdDone q s
  | .ruleWrite p q acc => Sys2Proof.Machine.execRuleWrite p q acc s
  -- Classify
  | .fragTimeout k => Sys2Proof.Machine.execFragTimeout k s
  | .fragFlush p => Sys2Proof.Machine.execFragFlush p s
  | .sumpClr p mask => Sys2Proof.Machine.execSumpClr p mask s
  | .sumpDataRead p => Sys2Proof.Machine.execSumpDataRead p s
  | .prsDeepCntRead p q => Sys2Proof.Machine.execPrsDeepCntRead p q s
  | .prsSkipCntRead p q => Sys2Proof.Machine.execPrsSkipCntRead p q s
  | .rlyStatusRead p q => Sys2Proof.Machine.execRlyStatusRead p q s
  | .frgCntRead p which => Sys2Proof.Machine.execFrgCntRead p which s
  -- Forward
  | .forwardLookup q upsets => Sys2Proof.Machine.execForwardLookup q upsets s
  | .lpmLookup q served => Sys2Proof.Machine.execLpmLookup q served s
  -- Tables
  | .learnInsert q => Sys2Proof.Machine.execLearnInsert q s
  | .agePass flow hits upsets => Sys2Proof.Machine.execAgePass flow hits upsets s
  | .search p tbl => Sys2Proof.Machine.execSearch p tbl s
  | .next p tbl => Sys2Proof.Machine.execNext p tbl s
  | .insert p tbl shadow => Sys2Proof.Machine.execInsert p tbl shadow s
  | .delete p tbl shadow byLoc => Sys2Proof.Machine.execDelete p tbl shadow byLoc s
  | .flushPort p tbl port static => Sys2Proof.Machine.execFlushPort p tbl port static s
  | .ageNow p tbl => Sys2Proof.Machine.execAgeNow p tbl s
  | .lpmSwap p tbl => Sys2Proof.Machine.execLpmSwap p tbl s
  | .rebuild p tbl => Sys2Proof.Machine.execRebuild p tbl s
  | .repair p tbl => Sys2Proof.Machine.execRepair p tbl s
  | .tblCmdDone hits upsets => Sys2Proof.Machine.execTblCmdDone hits upsets s
  | .tblPortAccess p acc => Sys2Proof.Machine.execTblPortAccess p acc s
  | .tblCntRead p => Sys2Proof.Machine.execTblCntRead p s
  -- Traffic
  | .enqueue q => Sys2Proof.Machine.execEnqueue q s
  | .calendarSlot q down sh => Sys2Proof.Machine.execCalendarSlot q down sh s
  | .wheelRevolution q down => Sys2Proof.Machine.execWheelRevolution q down s
  -- TrafficRegs
  | .shaperWrite p q down w => Sys2Proof.Machine.execShaperWrite p q down w s
  | .policerWrite p q w => Sys2Proof.Machine.execPolicerWrite p q w s
  | .tmPortWrite p q down w => Sys2Proof.Machine.execTmPortWrite p q down w s
  | .tmWinAccess p q win acc => Sys2Proof.Machine.execTmWinAccess p q win acc s
  | .badOffsetRead p q down slice => Sys2Proof.Machine.execBadOffsetRead p q down slice s
  -- Cipher
  | .cipherDispatch q => Sys2Proof.Machine.execCipherDispatch q s
  | .coreJobDone u => Sys2Proof.Machine.execCoreJobDone u s
  -- CipherTest
  | .katDue u pass => Sys2Proof.Machine.execKatDue u pass s
  | .katOverdue k => Sys2Proof.Machine.execKatOverdue k s
  | .firstKat u pass => Sys2Proof.Machine.execFirstKat u pass s
  | .katNow p k pass => Sys2Proof.Machine.execKatNow p k pass s
  | .integrityFault u cause => Sys2Proof.Machine.execIntegrityFault u cause s
  | .quarForce p k on => Sys2Proof.Machine.execQuarForce p k on s
  | .retest p u pass => Sys2Proof.Machine.execRetest p u pass s
  | .afWindow u => Sys2Proof.Machine.execAfWindow u s
  | .cphJobsRead p k => Sys2Proof.Machine.execCphJobsRead p k s
  | .cphAfRead p k => Sys2Proof.Machine.execCphAfRead p k s
  | .cphCntRead p q => Sys2Proof.Machine.execCphCntRead p q s
  -- Cipher
  | .lookasideFetch d => Sys2Proof.Machine.execLookasideFetch d s
  | .lookasideComplete input aad tag => Sys2Proof.Machine.execLookasideComplete input aad tag s
  -- KeyContexts
  | .keyCtxAccess p acc => Sys2Proof.Machine.execKeyCtxAccess p acc s
  -- Keys
  | .importClear p c => Sys2Proof.Machine.execImportClear p c s
  | .importWrapped p c => Sys2Proof.Machine.execImportWrapped p c s
  | .importDone ok => Sys2Proof.Machine.execImportDone ok s
  | .oldGenWipe slot => Sys2Proof.Machine.execOldGenWipe slot s
  | .erase p c => Sys2Proof.Machine.execErase p c s
  | .eraseDone ok => Sys2Proof.Machine.execEraseDone ok s
  | .closeProv p => Sys2Proof.Machine.execCloseProv p s
  | .vkInstall p => Sys2Proof.Machine.execVkInstall p s
  | .mskSet p c => Sys2Proof.Machine.execMskSet p c s
  | .mskClear p c => Sys2Proof.Machine.execMskClear p c s
  | .prefetch p => Sys2Proof.Machine.execPrefetch p s
  | .tamperClear p present => Sys2Proof.Machine.execTamperClear p present s
  | .monoIncr p c => Sys2Proof.Machine.execMonoIncr p c s
  | .keyDerive => Sys2Proof.Machine.execKeyDerive s
  | .keyRequestTimeout u => Sys2Proof.Machine.execKeyRequestTimeout u s
  -- Vault
  | .zeroise lowNs => Sys2Proof.Machine.execZeroise lowNs s
  | .tamper cause => Sys2Proof.Machine.execTamper cause s
  | .zeroNRise => Sys2Proof.Machine.execZeroNRise s
  | .trngFail raw => Sys2Proof.Machine.execTrngFail raw s
  | .trngRecover passed => Sys2Proof.Machine.execTrngRecover passed s
  | .drbgReseed => Sys2Proof.Machine.execDrbgReseed s
  | .keyRngRead p => Sys2Proof.Machine.execKeyRngRead p s
  | .operatingMinute => Sys2Proof.Machine.execOperatingMinute s
  | .keyCntRead p => Sys2Proof.Machine.execKeyCntRead p s
  -- KeyContexts
  | .keyLaAccess p acc => Sys2Proof.Machine.execKeyLaAccess p acc s
  -- Time
  | .timIncrWrite p w => Sys2Proof.Machine.execTimIncrWrite p w s
  | .timNowRead p => Sys2Proof.Machine.execTimNowRead p s
  | .set p => Sys2Proof.Machine.execSet p s
  | .step p => Sys2Proof.Machine.execStep p s
  | .slew p ppm => Sys2Proof.Machine.execSlew p ppm s
  | .tod p => Sys2Proof.Machine.execTod p s
  | .todCancel p => Sys2Proof.Machine.execTodCancel p s
  | .todLatch => Sys2Proof.Machine.execTodLatch s
  | .replicaUpdate => Sys2Proof.Machine.execReplicaUpdate s
  | .replicaStale n => Sys2Proof.Machine.execReplicaStale n s
  | .tsCal p n => Sys2Proof.Machine.execTsCal p n s
  | .tsCalDone n rx tx => Sys2Proof.Machine.execTsCalDone n rx tx s
  | .txStamp n tag => Sys2Proof.Machine.execTxStamp n tag s
  | .txqRead p => Sys2Proof.Machine.execTxqRead p s
  | .txqDropsRead p => Sys2Proof.Machine.execTxqDropsRead p s
  -- Servo
  | .tauDsRecompute => Sys2Proof.Machine.execTauDsRecompute s
  | .servoSample => Sys2Proof.Machine.execServoSample s
  | .refLost => Sys2Proof.Machine.execRefLost s
  | .timCtlWrite p w => Sys2Proof.Machine.execTimCtlWrite p w s
  -- Time
  | .cmpArm p c => Sys2Proof.Machine.execCmpArm p c s
  | .cmpFire c => Sys2Proof.Machine.execCmpFire c s
  | .ppsOutPulse => Sys2Proof.Machine.execPpsOutPulse s
  | .ppsOutEnd => Sys2Proof.Machine.execPpsOutEnd s
  -- Servo
  | .ppsInEdge sub => Sys2Proof.Machine.execPpsInEdge sub s
  -- Cistern
  | .retrain p d => Sys2Proof.Machine.execRetrain p d s
  | .retire p d => Sys2Proof.Machine.execRetire p d s
  | .scrubNow p => Sys2Proof.Machine.execScrubNow p s
  | .scrubPass corrected => Sys2Proof.Machine.execScrubPass corrected s
  | .cstTrainDone failed => Sys2Proof.Machine.execCstTrainDone failed s
  | .redirectCopyDone => Sys2Proof.Machine.execRedirectCopyDone s
  | .drainDone timeout => Sys2Proof.Machine.execDrainDone timeout s
  | .restoreDone => Sys2Proof.Machine.execRestoreDone s
  | .cstLineError ch line e user => Sys2Proof.Machine.execCstLineError ch line e user s
  | .cstCntRead p => Sys2Proof.Machine.execCstCntRead p s
  -- HostIf
  | .perst rise => Sys2Proof.Machine.execPerst rise s
  | .hotReset => Sys2Proof.Machine.execHotReset s
  | .functionLevelReset => Sys2Proof.Machine.execFunctionLevelReset s
  | .linkChange speed width => Sys2Proof.Machine.execLinkChange speed width s
  | .gatedAccess p a write => Sys2Proof.Machine.execGatedAccess p a write s
  | .partialWrite p a => Sys2Proof.Machine.execPartialWrite p a s
  | .hifCountRead p partial_ => Sys2Proof.Machine.execHifCountRead p partial_ s
  | .twCtlWrite p w => Sys2Proof.Machine.execTwCtlWrite p w s
  | .featAcceptWrite p ix w => Sys2Proof.Machine.execFeatAcceptWrite p ix w s
  | .featLock p w => Sys2Proof.Machine.execFeatLock p w s
  -- Rings
  | .doorbell r w => Sys2Proof.Machine.execDoorbell r w s
  | .ringEnable r => Sys2Proof.Machine.execRingEnable r s
  | .ringDisable r => Sys2Proof.Machine.execRingDisable r s
  | .ringStopped r => Sys2Proof.Machine.execRingStopped r s
  | .ringDmaError r k => Sys2Proof.Machine.execRingDmaError r k s
  | .ringCoalTimer r => Sys2Proof.Machine.execRingCoalTimer r s
  | .ringDropsRead r => Sys2Proof.Machine.execRingDropsRead r s
  | .punt bufs => Sys2Proof.Machine.execPunt bufs s
  | .inject descs => Sys2Proof.Machine.execInject descs s
  | .eventRingPost => Sys2Proof.Machine.execEventRingPost s
  -- TwoWire
  | .twWrite addr off data pec => Sys2Proof.Machine.execTwWrite addr off data pec s
  | .twRead addr off => Sys2Proof.Machine.execTwRead addr off s
  -- Referee
  | .eventReport e sev detail => Sys2Proof.Machine.execEventReport e sev detail s
  | .settleEnd e => Sys2Proof.Machine.execSettleEnd e s
  | .gatherEnd e => Sys2Proof.Machine.execGatherEnd e s
  | .holdEnd e => Sys2Proof.Machine.execHoldEnd e s
  | .lastingExpire e => Sys2Proof.Machine.execLastingExpire e s
  -- EventRegs
  | .evtStatusWrite p g w => Sys2Proof.Machine.execEvtStatusWrite p g w s
  | .evtMaskWrite p g w => Sys2Proof.Machine.execEvtMaskWrite p g w s
  | .evtForce p w => Sys2Proof.Machine.execEvtForce p w s
  | .evtSrcAccess p => Sys2Proof.Machine.execEvtSrcAccess p s
  -- Well
  | .wellScan => Sys2Proof.Machine.execWellScan s
  | .wellSeverityFlush => Sys2Proof.Machine.execWellSeverityFlush s
  | .wellPeriodicFlush => Sys2Proof.Machine.execWellPeriodicFlush s
  | .wellFlushRecord ok => Sys2Proof.Machine.execWellFlushRecord ok s
  | .wellFlush p => Sys2Proof.Machine.execWellFlush p s
  | .pfailFall => Sys2Proof.Machine.execPfailFall s
  | .wellFreeze p => Sys2Proof.Machine.execWellFreeze p s
  | .wellThaw p => Sys2Proof.Machine.execWellThaw p s
  | .freezeTimeout => Sys2Proof.Machine.execFreezeTimeout s
  | .wellRead p => Sys2Proof.Machine.execWellRead p s
  | .challenge p => Sys2Proof.Machine.execChallenge p s
  | .challengeExpire => Sys2Proof.Machine.execChallengeExpire s
  | .clear p => Sys2Proof.Machine.execClear p s
  -- Tally
  | .tallyOccurrence sel q sv count => Sys2Proof.Machine.execTallyOccurrence sel q sv count s
  | .talCntCfgWrite p c w => Sys2Proof.Machine.execTalCntCfgWrite p c w s
  | .tallyFreeze p on => Sys2Proof.Machine.execTallyFreeze p on s
  | .snap p w => Sys2Proof.Machine.execSnap p w s
  | .userSnap => Sys2Proof.Machine.execUserSnap s
  -- Power
  | .run p => Sys2Proof.Machine.execRun p s
  | .doze p => Sys2Proof.Machine.execDoze p s
  | .standby p => Sys2Proof.Machine.execStandby p s
  | .enterDone => Sys2Proof.Machine.execEnterDone s
  | .rtcAlarm => Sys2Proof.Machine.execRtcAlarm s
  | .wakeNLow => Sys2Proof.Machine.execWakeNLow s
  | .pcieWake perstRise => Sys2Proof.Machine.execPcieWake perstRise s
  | .energyDetect n level => Sys2Proof.Machine.execEnergyDetect n level s
  | .domainPowerGood d => Sys2Proof.Machine.execDomainPowerGood d s
  | .domainPgTimeout d => Sys2Proof.Machine.execDomainPgTimeout d s
  | .voteHostWrite p ix w => Sys2Proof.Machine.execVoteHostWrite p ix w s
  | .voteTestWrite p ix w => Sys2Proof.Machine.execVoteTestWrite p ix w s
  | .domFaultClear p ix w => Sys2Proof.Machine.execDomFaultClear p ix w s
  | .rtcWrite p w => Sys2Proof.Machine.execRtcWrite p w s
  -- Thermal
  | .thermalLimit => Sys2Proof.Machine.execThermalLimit s
  | .thermalTrip => Sys2Proof.Machine.execThermalTrip s
  | .thermalResume => Sys2Proof.Machine.execThermalResume s
  -- Activation
  | .completeUAcknowledged n => Sys2Proof.Machine.execCompleteUAcknowledged n s
  -- HostBond
  | .hbMarkerMissing n => Sys2Proof.Machine.execHbMarkerMissing n s
  | .hbDownHoldExpire n => Sys2Proof.Machine.execHbDownHoldExpire n s
  -- Traffic
  | .shaperEligible q down sh => Sys2Proof.Machine.execShaperEligible q down sh s
  -- Steward
  | .stwCmdDone q bytes ok => Sys2Proof.Machine.execStwCmdDone q bytes ok s
  -- Keys
  | .keyCmdDone bytes ok => Sys2Proof.Machine.execKeyCmdDone bytes ok s
  -- Well
  | .wellCmdDone => Sys2Proof.Machine.execWellCmdDone s
  -- Boot
  | .vaultLinkTimeout => Sys2Proof.Machine.execVaultLinkTimeout s
  -- Thermal
  | .thermalLimitRearm => Sys2Proof.Machine.execThermalLimitRearm s

end Sys2Proof.Machine
end

