-- ==== Sys2Proof/Machine/Idle.lean ====
section
/-!
DEFINITION. The idle step: one 1.6 ns tick of the 625 MHz clock passes in place of a command (notes/assumptions/1.md). Everything else
that happens in time is a command of its own.
-/
namespace Sys2Proof.Machine

/-- The tick counter of the tally: it stands still while the TIM domain is not ON, while frozen and in Standby (R526, R528). -/
def Tally.tickOne (t : Tally) : Tally :=
  if t.freeze then t else { t with tick := t.tick + 1, tickWrap := t.tickWrap || t.tick == BitVec.allOnes 64 }

/-- The RTC after 1.6 ns: a load waits for the next tick of 1/32,768 s (R538). -/
def Power.rtcStep (x : Power) : Power :=
  let f := x.rtcFrac + 16 * 32768
  if f < 10 ^ 10 then { x with rtcFrac := f }
  else { x with rtcFrac := f - 10 ^ 10, rtc := x.rtcLoad.getD (x.rtc + 1), rtcLoad := none }

/-- The markers of the host-bond links that fall due (R91). -/
def State.hbTicks (s : State) : State := (List.finRange 96).foldl State.hbTick s

/-- A 66-bit block without an error or an ordered set arrives at an Ethernet port (R225, R226): it counts towards block lock, the ends of
hi_ber and of a received fault, and in LOCK it is discarded and counted. -/
def EthPort.block (e : EthPort) : EthPort :=
  if e.link ≠ .lock ∧ e.link ≠ .up then e
  else
    let cnt := if e.link = .lock ∧ e.blockLock then vmod e.cnt 9 (· + 1) else e.cnt
    let locks := !e.blockLock && decide (lockHeaders ≤ e.headers + 1)
    { e with
      cnt := cnt
      blockLock := e.blockLock || locks, headers := if e.blockLock || locks then 0 else e.headers + 1
      hiBer := e.hiBer && decide (1 < e.berLeft), berLeft := e.berLeft - 1
      lfRx := e.lfRx && decide (1 < e.faultLeft), rfRx := e.rfRx && decide (1 < e.faultLeft), faultLeft := e.faultLeft - 1 }

/-- A block arrives at lane n where it is an Ethernet port with lock. -/
def State.ethBlock (s : State) (n : LaneId) : State :=
  if s.ethOn n && (s.lane n).com.cdrLock then (s.modEth n EthPort.block).faultEnds n else s

/-- A block arrives every 6.4 ns, the time of four ticks (R74, R225). -/
def State.ethTicks (s : State) : State := if s.now % 64 = 0 then (List.finRange 96).foldl State.ethBlock s else s

/-- 1.6 ns pass: the count, the tick counter, the clocks of the events island and of the operating seconds, and the RTC; the cycle in
which wake sources have fired is over; markers, blocks and the cistern's lines go on. -/
def State.idle (s : State) : State :=
  let tim := s.isOn dTim
  State.cstTick <| State.ethTicks <| State.hbTicks { s with
    now := s.now + 16
    tim := if tim then s.tim.tick else s.tim
    tal := if tim && s.clocked then s.tal.tickOne else s.tal
    evt := if s.clocked then { s.evt with clk := s.evt.clk + 16 } else s.evt
    wel := if s.clocked then { s.wel with opsClk := s.wel.opsClk + 16 } else s.wel
    pwr := if s.pins.powered then { s.pwr.rtcStep with firing := 0 } else s.pwr }

end Sys2Proof.Machine
end

