-- ==== Sys2Proof/Machine/Step.lean ====
section
/-!
DEFINITION. One step: the command at the front of the queue, or one idle tick of the clock.
-/
namespace Sys2Proof.Machine

/-- The state with one more command waiting behind the others. -/
def State.enqueue (s : State) (c : Instr) : State := { s with pending := s.pending ++ [c] }

/-- One step: the command at the front of the queue acts on the state that has the rest of the queue; on an empty queue 1.6 ns
pass (notes/assumptions/1.md). -/
def step (s : State) : Host.Outcome State Fault Refusal :=
  match s.pending with
  | [] => .next s.idle
  | c :: rest => exec c { s with pending := rest }

/-- The state with the command that a word of the table spells at the front of its queue; no word spells one. -/
def State.withFetchWord (s : State) (nbits w : Nat) : State :=
  match Sys2Proof.decodeTableWord nbits w with
  | some c => { s with pending := c :: s.pending }
  | none => s

end Sys2Proof.Machine
end

