-- ==== Sys2Proof/Safety.lean ====
section
/-!
DEFINITION. What claims about runs are stated in: a run that never stops, and which parts of the state may differ after a command.
-/
namespace Sys2Proof

/-- The step from s answers a next state: neither a fault nor a refusal. -/
def Safe (s : Machine.State) : Prop := ∃ t, Machine.step s = .next t

/-- n steps from s all answer a next state. -/
def SafeFor : Nat → Machine.State → Prop
  | 0, _ => True
  | n + 1, s => ∃ t, Machine.step s = .next t ∧ SafeFor n t

namespace Machine

/-- The parts of the state: islands, the vault, the units that come several times, the pins, and what is the model's own. -/
inductive Part where
  | sys | str | pwr | evt | wel | tal | tim | key | hif | vault | cst | tbl | fbk | stw | quads | cores | lanes | pins
  | latches | out | freeIdx | now | pending
deriving DecidableEq, Repr

/-- A part is the same in two states. -/
def Part.same (s t : State) : Part → Prop
  | .sys => t.sys = s.sys
  | .str => t.str = s.str
  | .pwr => t.pwr = s.pwr
  | .evt => t.evt = s.evt
  | .wel => t.wel = s.wel
  | .tal => t.tal = s.tal
  | .tim => t.tim = s.tim
  | .key => t.key = s.key
  | .hif => t.hif = s.hif
  | .vault => t.vault = s.vault
  | .cst => t.cst = s.cst
  | .tbl => t.tbl = s.tbl
  | .fbk => t.fbk = s.fbk
  | .stw => t.stw = s.stw
  | .quads => t.quads = s.quads
  | .cores => t.cores = s.cores
  | .lanes => t.lanes = s.lanes
  | .pins => t.pins = s.pins
  | .latches => t.latchPcie = s.latchPcie ∧ t.latchTw = s.latchTw
  | .out => t.out = s.out
  | .freeIdx => t.freeIdx = s.freeIdx
  | .now => t.now = s.now
  | .pending => t.pending = s.pending

/-- t differs from s at most in the listed parts. -/
def Only (ps : List Part) (s t : State) : Prop := ∀ p : Part, ps.contains p = false → p.same s t

/-- An access through port p reaches island id (R473, R475). -/
def State.reaches (s : State) (p : Port) (id : Nat) : Prop := s.portUp p = true ∧ s.islandAnswers id = true

/-- An access through port p reaches a register of lane n of a kind (R85, R473). -/
def State.reachesLane (s : State) (p : Port) (n : LaneId) (kind : LaneKind) : Prop :=
  s.portUp p = true ∧ s.laneAnswers n kind = true ∧ s.clocked = true

/-- The parts that a command may change: everything else is the same in the state after it. No command changes the waiting commands
or the model time. -/
def touches : Instr → List Part
  | .powerUp .. => [.sys, .str, .pwr, .evt, .wel, .tal, .tim, .key, .hif, .vault, .cst, .tbl, .fbk, .stw, .quads, .cores, .lanes, .pins, .latches]
  | .railUndervolt .. => [.sys, .str, .pwr, .evt, .wel, .tal, .tim, .key, .hif, .cst, .tbl, .fbk, .stw, .quads, .cores, .lanes, .pins, .latches]
  | .reset .. => [.sys, .str, .pwr, .evt, .wel, .tal, .tim, .key, .hif, .cst, .tbl, .fbk, .stw, .quads, .cores, .lanes, .pins, .latches]
  | .bootGo .. => [.sys, .str, .pwr, .evt, .tim, .hif, .cst, .tbl, .fbk, .stw, .quads, .cores, .lanes, .out, .freeIdx]
  | .bootApply .. => [.sys, .str, .pwr, .evt, .tim, .hif, .cst, .tbl, .fbk, .stw, .quads, .cores, .lanes, .out, .freeIdx]
  | .keyReady .. => [.key, .freeIdx]
  | .load .. => [.str, .evt, .hif]
  | .loadDone .. => [.sys, .str, .pwr, .evt, .tim, .hif, .cst, .tbl, .fbk, .stw, .quads, .cores, .lanes, .out, .freeIdx]
  | .verify .. => [.str, .evt, .hif]
  | .verifyDone .. => [.sys, .str, .pwr, .evt, .tim, .hif, .cst, .tbl, .fbk, .stw, .quads, .cores, .lanes, .out, .freeIdx]
  | .apply .. => [.sys, .str, .pwr, .evt, .tim, .hif, .cst, .tbl, .fbk, .stw, .quads, .cores, .lanes, .out, .freeIdx]
  | .applyDone .. => [.sys, .str, .pwr, .evt, .tim, .hif, .vault, .cst, .tbl, .fbk, .stw, .quads, .cores, .lanes, .out, .freeIdx]
  | .applyFail .. => [.sys, .str, .pwr, .evt, .tim, .hif, .cst, .tbl, .fbk, .stw, .quads, .cores, .lanes, .out, .freeIdx]
  | .commit .. => [.str, .evt, .hif]
  | .commitDone .. => [.str, .evt, .vault, .freeIdx]
  | .abandon .. => [.str, .evt, .hif]
  | .abandonDone .. => [.sys, .str, .pwr, .evt, .tim, .hif, .cst, .tbl, .fbk, .stw, .quads, .cores, .lanes, .out, .freeIdx]
  | .registerWrite .. => [.sys, .str, .pwr, .evt, .wel, .tal, .tim, .key, .hif, .vault, .cst, .tbl, .fbk, .stw, .quads, .cores, .lanes, .out, .freeIdx]
  | .eqUpdate .. => [.lanes, .freeIdx]
  | .eqLimit .. => [.evt, .lanes]
  | .seedLoaded .. => [.lanes]
  | .rxRestart .. => [.sys, .evt, .hif, .cst, .stw, .quads, .lanes, .out, .freeIdx]
  | .eqFreeze .. => [.evt, .hif, .lanes]
  | .tapWrite .. => [.evt, .hif, .lanes]
  | .signalDetectSet .. => [.evt, .lanes, .out]
  | .signalDetectClear .. => [.sys, .evt, .cst, .stw, .quads, .lanes, .out, .freeIdx]
  | .cdrLock .. => [.evt, .lanes, .out]
  | .cdrLockLost .. => [.sys, .evt, .cst, .stw, .quads, .lanes, .out, .freeIdx]
  | .adaptFastDone .. => [.lanes]
  | .noiseReport .. => [.lanes, .freeIdx]
  | .refclkLoss .. => [.sys, .evt, .cst, .stw, .quads, .lanes, .out, .freeIdx]
  | .refclkReturn .. => [.sys, .evt]
  | .refclkGate .. => [.sys, .evt, .cst, .stw, .quads, .lanes, .out, .freeIdx]
  | .txinhFall .. => [.sys, .evt, .quads, .lanes, .pins, .out, .freeIdx]
  | .txinhRise .. => [.pins]
  | .txSquelch .. => [.sys, .evt, .hif, .quads, .lanes, .out, .freeIdx]
  | .genEn .. => [.sys, .evt, .hif, .quads, .lanes, .out, .freeIdx]
  | .checkerLock .. => [.evt, .lanes]
  | .checkerLockLoss .. => [.evt, .lanes]
  | .prbsErrRead .. => [.evt, .hif, .lanes, .out]
  | .injSingle .. => [.evt, .hif, .lanes, .out]
  | .injBurst .. => [.evt, .hif, .lanes, .out]
  | .seedDataWrite .. => [.sys, .evt, .hif]
  | .hbMarkerRx .. => [.evt, .lanes]
  | .hbHandshakeRx .. => [.evt, .lanes]
  | .hbHandshakeTx .. => [.lanes, .out]
  | .hbCommitDone .. => [.lanes]
  | .hbTimeout .. => [.evt, .lanes]
  | .hbAlignTimeout .. => [.evt, .lanes]
  | .hbRestart .. => [.evt, .hif, .lanes]
  | .psyncCandidate .. => [.lanes]
  | .candidateCheckPoint .. => [.sys, .evt, .tim, .cst, .stw, .lanes, .out, .freeIdx]
  | .dsFrame .. => [.sys, .evt, .tim, .cst, .stw, .quads, .lanes, .out, .freeIdx]
  | .huntRestart .. => [.sys, .evt, .hif, .cst, .stw, .quads, .lanes, .out, .freeIdx]
  | .fecCodeword .. => [.lanes]
  | .fecWindowEnd .. => [.evt, .lanes]
  | .fecThWrite .. => [.evt, .hif, .lanes]
  | .allocStructure .. => [.lanes]
  | .dsPloam .. => [.evt, .lanes]
  | .xgemFrameRx .. => [.sys, .evt, .hif, .quads, .lanes]
  | .reassemblyTimeout .. => [.sys, .lanes]
  | .portTableWrite .. => [.evt, .hif, .cst, .lanes, .out, .freeIdx]
  | .dsCntClr .. => [.evt, .hif, .lanes]
  | .dsWinAccess .. => [.evt, .hif, .cst, .lanes, .latches, .out, .freeIdx]
  | .burstProfileMsg .. => [.evt, .key, .vault, .cst, .stw, .quads, .lanes, .out, .freeIdx]
  | .assignOnuId .. => [.evt, .key, .vault, .cst, .stw, .quads, .lanes, .out, .freeIdx]
  | .rangingTime .. => [.evt, .key, .vault, .cst, .stw, .quads, .lanes, .out, .freeIdx]
  | .tuningControl .. => [.evt, .key, .vault, .cst, .stw, .quads, .lanes, .out, .freeIdx]
  | .channelProfile .. => [.evt, .key, .vault, .cst, .stw, .quads, .lanes, .out, .freeIdx]
  | .deactivateOnuId .. => [.evt, .key, .vault, .cst, .stw, .quads, .lanes, .out, .freeIdx]
  | .disableSerialNumber .. => [.evt, .key, .vault, .cst, .stw, .quads, .lanes, .out, .freeIdx]
  | .assignAllocId .. => [.evt, .key, .vault, .cst, .stw, .quads, .lanes, .out, .freeIdx]
  | .keyControl .. => [.evt, .key, .vault, .cst, .stw, .quads, .lanes, .out, .freeIdx]
  | .ploamUnexpected .. => [.evt, .key, .vault, .cst, .stw, .quads, .lanes, .out, .freeIdx]
  | .keyReportHandoff .. => [.lanes, .freeIdx]
  | .to1Expire .. => [.evt, .cst, .stw, .quads, .lanes, .out, .freeIdx]
  | .to2Expire .. => [.evt, .cst, .stw, .quads, .lanes, .out, .freeIdx]
  | .to4Expire .. => [.evt, .cst, .stw, .quads, .lanes, .out, .freeIdx]
  | .to5Expire .. => [.evt, .cst, .stw, .quads, .lanes, .out, .freeIdx]
  | .tuneScheduledCount .. => [.evt, .cst, .stw, .lanes, .out, .freeIdx]
  | .tuneAck .. => [.sys, .evt, .hif, .cst, .stw, .quads, .lanes, .out, .freeIdx]
  | .scanDwell .. => [.evt, .stw, .lanes, .freeIdx]
  | .stwLaneData .. => [.sys, .str, .pwr, .evt, .tim, .hif, .cst, .tbl, .fbk, .stw, .quads, .cores, .lanes, .out, .freeIdx]
  | .bcastKey .. => [.evt, .hif, .stw]
  | .clearRogue .. => [.evt, .hif, .cst, .stw, .lanes, .out, .freeIdx]
  | .clearDisable .. => [.evt, .wel, .hif, .vault, .cst, .stw, .lanes, .out, .freeIdx]
  | .restartLane .. => [.evt, .hif, .cst, .stw, .quads, .lanes, .out, .freeIdx]
  | .rogueTrip .. => [.sys, .evt, .cst, .stw, .quads, .lanes, .out, .freeIdx]
  | .loadFw .. => [.evt, .hif, .stw]
  | .swapFw .. => [.evt, .hif, .stw]
  | .swapFwHalt .. => [.evt, .cst, .stw, .quads, .lanes, .out, .freeIdx]
  | .swapFwCheck .. => [.evt, .stw]
  | .commitFw .. => [.evt, .hif, .stw]
  | .stewardHeartbeatMiss .. => [.evt, .cst, .stw, .quads, .lanes, .out, .freeIdx]
  | .optGo .. => [.evt, .hif, .stw, .out]
  | .optDone .. => [.stw, .freeIdx]
  | .optTimeout .. => [.stw]
  | .grant .. => [.evt, .key, .quads, .lanes, .freeIdx]
  | .cisternToTroughMove .. => [.cst, .quads, .lanes]
  | .burstAssemble .. => [.sys, .quads, .lanes]
  | .lateCisternFrame .. => [.quads, .lanes]
  | .burstServe .. => [.sys, .evt, .cst, .stw, .quads, .lanes, .out, .freeIdx]
  | .burstEnd .. => [.sys, .str, .pwr, .evt, .tim, .hif, .cst, .tbl, .fbk, .stw, .quads, .cores, .lanes, .out, .freeIdx]
  | .usCntClr .. => [.evt, .hif, .lanes]
  | .usWinAccess .. => [.evt, .hif, .lanes, .latches, .out]
  | .bondCapsTimer .. => [.evt, .cst, .lanes, .out, .freeIdx]
  | .bondJoin .. => [.evt, .cst, .lanes, .out, .freeIdx]
  | .bondHello .. => [.evt, .cst, .lanes, .freeIdx]
  | .bondLeave .. => [.evt, .cst, .lanes, .freeIdx]
  | .bondIndep .. => [.evt, .cst, .lanes, .freeIdx]
  | .bondMessageDrop .. => [.cst, .lanes]
  | .bondHelloTx .. => [.lanes, .out]
  | .bondHelloTimeout .. => [.evt, .cst, .lanes, .out, .freeIdx]
  | .bondProbeTimeout .. => [.evt, .cst, .lanes, .freeIdx]
  | .bondPsyncStamp .. => [.evt, .cst, .lanes, .freeIdx]
  | .skewSduWrite .. => [.sys, .cst, .lanes]
  | .skewSlotRelease .. => [.sys, .cst, .quads]
  | .groupEnable .. => [.sys, .evt, .hif, .cst, .lanes, .out, .freeIdx]
  | .groupDisable .. => [.sys, .evt, .hif, .cst, .lanes, .out, .freeIdx]
  | .grpDataAccess .. => [.sys, .evt, .hif, .cst, .lanes, .out, .freeIdx]
  | .skwRestart .. => [.evt, .hif, .cst, .lanes, .out, .freeIdx]
  | .spreadRemap .. => [.evt, .hif, .tbl]
  | .spreadFill .. => [.evt, .hif, .tbl]
  | .spreadCmdDone .. => [.tbl]
  | .sprDataAccess .. => [.evt, .key, .hif, .tbl, .out]
  | .vcatMemberFrame .. => [.evt, .cst, .lanes, .freeIdx]
  | .vcatRecover .. => [.evt, .cst]
  | .anComplete .. => [.lanes, .out]
  | .linkUpTimer .. => [.evt, .lanes]
  | .blockLockLost .. => [.evt, .lanes, .out]
  | .faultOrderedSet .. => [.evt, .lanes, .out]
  | .anRestart .. => [.evt, .hif, .lanes, .out]
  | .ethFrameRx .. => [.sys, .str, .pwr, .evt, .tim, .hif, .cst, .tbl, .fbk, .stw, .quads, .cores, .lanes, .out, .freeIdx]
  | .pauseTx .. => [.lanes, .out]
  | .pauseRefresh .. => [.lanes]
  | .pauseExpire .. => [.lanes]
  | .pauseCfgWrite .. => [.evt, .hif, .lanes]
  | .ethFecWindow .. => [.evt, .lanes]
  | .ethTxFrame .. => [.sys, .quads, .lanes, .out, .freeIdx]
  | .ethCntClr .. => [.evt, .hif, .lanes]
  | .ethWinAccess .. => [.evt, .hif, .lanes, .latches, .out]
  | .sdhCandidate .. => [.lanes]
  | .sdhCheckPoint .. => [.evt, .lanes]
  | .sdhFrame .. => [.evt, .cst, .lanes]
  | .sdhLofTimer .. => [.evt, .cst, .lanes]
  | .sdhHuntRestart .. => [.evt, .hif, .lanes]
  | .sdhSdWindow .. => [.evt, .lanes]
  | .tribSeal .. => [.sys, .key, .quads, .lanes]
  | .tribBlockRx .. => [.sys, .evt, .quads, .lanes]
  | .sdhTxFrame .. => [.evt, .cst, .lanes, .out]
  | .tribEntryWrite .. => [.evt, .hif, .lanes]
  | .pmSecond .. => [.lanes]
  | .pmBinClose .. => [.lanes]
  | .sdhCntClr .. => [.evt, .hif, .lanes]
  | .pmClr .. => [.evt, .hif, .lanes]
  | .sdhWinAccess .. => [.evt, .hif, .lanes, .latches, .out]
  | .classify .. => [.sys, .hif, .tbl, .quads, .lanes]
  | .rallyPass .. => [.sys, .hif, .tbl, .quads, .lanes]
  | .clsSwap .. => [.evt, .hif, .quads]
  | .clsSwapDrained .. => [.quads]
  | .epochRetire .. => [.sys, .evt, .tbl, .quads]
  | .clsCopy .. => [.evt, .hif, .quads]
  | .clsClear .. => [.evt, .hif, .quads]
  | .clsCmdDone .. => [.quads]
  | .ruleWrite .. => [.evt, .hif, .quads, .out]
  | .fragTimeout .. => [.tbl]
  | .fragFlush .. => [.evt, .hif, .tbl]
  | .sumpClr .. => [.sys, .evt, .hif]
  | .sumpDataRead .. => [.sys, .evt, .hif, .latches, .out]
  | .prsDeepCntRead .. => [.evt, .hif, .quads, .out]
  | .prsSkipCntRead .. => [.evt, .hif, .quads, .out]
  | .rlyStatusRead .. => [.evt, .hif, .quads, .out]
  | .frgCntRead .. => [.evt, .hif, .tbl, .out]
  | .forwardLookup .. => [.sys, .evt, .hif, .tbl, .quads, .lanes]
  | .lpmLookup .. => [.sys, .evt, .hif, .cst, .tbl, .quads, .lanes]
  | .learnInsert .. => [.tbl, .quads]
  | .agePass .. => [.evt, .tbl]
  | .search .. => [.evt, .hif, .tbl]
  | .next .. => [.evt, .hif, .tbl]
  | .insert .. => [.evt, .hif, .tbl]
  | .delete .. => [.evt, .hif, .tbl]
  | .flushPort .. => [.evt, .hif, .tbl]
  | .ageNow .. => [.evt, .hif, .tbl]
  | .lpmSwap .. => [.evt, .hif, .tbl]
  | .rebuild .. => [.evt, .hif, .tbl]
  | .repair .. => [.evt, .hif, .tbl]
  | .tblCmdDone .. => [.evt, .cst, .tbl]
  | .tblPortAccess .. => [.evt, .hif, .tbl, .out]
  | .tblCntRead .. => [.evt, .hif, .latches, .out]
  | .enqueue .. => [.sys, .cst, .tbl, .quads, .lanes]
  | .calendarSlot .. => [.quads]
  | .wheelRevolution .. => [.quads]
  | .shaperWrite .. => [.evt, .hif, .quads]
  | .policerWrite .. => [.evt, .hif, .quads]
  | .tmPortWrite .. => [.evt, .hif, .quads]
  | .tmWinAccess .. => [.evt, .hif, .quads, .latches, .out]
  | .badOffsetRead .. => [.evt, .hif, .quads, .latches, .out]
  | .cipherDispatch .. => [.sys, .evt, .key, .tbl, .fbk, .quads, .cores, .lanes, .freeIdx]
  | .coreJobDone .. => [.sys, .evt, .key, .tbl, .fbk, .quads, .cores, .lanes]
  | .katDue .. => [.evt, .hif, .fbk, .quads, .cores, .out]
  | .katOverdue .. => [.quads, .cores]
  | .firstKat .. => [.evt, .hif, .fbk, .quads, .cores, .out]
  | .katNow .. => [.evt, .hif, .fbk, .quads, .cores]
  | .integrityFault .. => [.evt, .hif, .fbk, .quads, .cores, .out]
  | .quarForce .. => [.evt, .hif, .fbk, .quads, .cores]
  | .retest .. => [.evt, .hif, .fbk, .quads, .cores]
  | .afWindow .. => [.evt, .fbk, .cores]
  | .cphJobsRead .. => [.evt, .hif, .cores, .out]
  | .cphAfRead .. => [.evt, .hif, .cores, .out]
  | .cphCntRead .. => [.evt, .hif, .latches, .out]
  | .lookasideFetch .. => [.key, .hif, .fbk, .out]
  | .lookasideComplete .. => [.hif, .fbk, .out]
  | .keyCtxAccess .. => [.evt, .key, .hif, .vault, .latches, .out]
  | .importClear .. => [.sys, .evt, .key, .hif, .vault, .tbl, .fbk, .quads, .cores, .lanes]
  | .importWrapped .. => [.sys, .evt, .key, .hif, .vault, .tbl, .fbk, .quads, .cores, .lanes]
  | .importDone .. => [.evt, .key, .vault]
  | .oldGenWipe .. => [.key]
  | .erase .. => [.sys, .evt, .key, .hif, .vault, .tbl, .fbk, .quads, .cores, .lanes]
  | .eraseDone .. => [.evt, .key, .vault]
  | .closeProv .. => [.sys, .evt, .key, .hif, .vault, .tbl, .fbk, .quads, .cores, .lanes]
  | .vkInstall .. => [.sys, .evt, .key, .hif, .vault, .tbl, .fbk, .quads, .cores, .lanes]
  | .mskSet .. => [.sys, .evt, .key, .hif, .vault, .tbl, .fbk, .quads, .cores, .lanes]
  | .mskClear .. => [.sys, .evt, .key, .hif, .vault, .tbl, .fbk, .quads, .cores, .lanes]
  | .prefetch .. => [.sys, .evt, .key, .hif, .vault, .tbl, .fbk, .quads, .cores, .lanes]
  | .tamperClear .. => [.sys, .evt, .key, .hif, .vault, .tbl, .fbk, .quads, .cores, .lanes]
  | .monoIncr .. => [.sys, .evt, .key, .hif, .vault, .tbl, .fbk, .quads, .cores, .lanes]
  | .keyDerive .. => [.key, .fbk, .quads, .cores]
  | .keyRequestTimeout .. => [.sys, .key, .tbl, .fbk, .quads, .cores, .lanes]
  | .zeroise .. => [.sys, .evt, .key, .vault, .cst, .tbl, .fbk, .stw, .quads, .cores, .lanes, .out, .freeIdx]
  | .tamper .. => [.sys, .evt, .key, .vault, .cst, .tbl, .fbk, .stw, .quads, .cores, .lanes, .out, .freeIdx]
  | .zeroNRise .. => [.evt, .key]
  | .trngFail .. => [.evt, .key]
  | .trngRecover .. => [.evt, .key, .lanes, .freeIdx]
  | .drbgReseed .. => [.key, .freeIdx]
  | .keyRngRead .. => [.evt, .key, .hif, .out, .freeIdx]
  | .operatingMinute .. => [.evt, .wel, .vault]
  | .keyCntRead .. => [.evt, .hif, .latches, .out]
  | .keyLaAccess .. => [.evt, .key, .hif, .out]
  | .timIncrWrite .. => [.evt, .tim, .hif]
  | .timNowRead .. => [.evt, .hif, .latches, .out]
  | .set .. => [.evt, .tim, .hif, .lanes]
  | .step .. => [.evt, .tim, .hif, .lanes]
  | .slew .. => [.evt, .tim, .hif, .lanes]
  | .tod .. => [.evt, .tim, .hif, .lanes]
  | .todCancel .. => [.evt, .tim, .hif, .lanes]
  | .todLatch .. => [.evt, .tim, .lanes]
  | .replicaUpdate .. => [.evt, .lanes]
  | .replicaStale .. => [.evt, .lanes]
  | .tsCal .. => [.evt, .hif, .lanes]
  | .tsCalDone .. => [.lanes, .out, .freeIdx]
  | .txStamp .. => [.evt, .tim, .quads, .lanes]
  | .txqRead .. => [.evt, .tim, .hif, .latches, .out]
  | .txqDropsRead .. => [.evt, .tim, .hif, .out]
  | .tauDsRecompute .. => [.evt, .tim, .freeIdx]
  | .servoSample .. => [.evt, .tim, .lanes, .freeIdx]
  | .refLost .. => [.evt, .tim, .freeIdx]
  | .timCtlWrite .. => [.evt, .tim, .hif, .freeIdx]
  | .cmpArm .. => [.evt, .tim, .hif]
  | .cmpFire .. => [.evt, .tim]
  | .ppsOutPulse .. => [.tim]
  | .ppsOutEnd .. => [.tim]
  | .ppsInEdge .. => [.evt, .tim]
  | .retrain .. => [.sys, .str, .pwr, .evt, .tim, .hif, .cst, .tbl, .fbk, .stw, .quads, .cores, .lanes, .out, .freeIdx]
  | .retire .. => [.sys, .str, .pwr, .evt, .tim, .hif, .cst, .tbl, .fbk, .stw, .quads, .cores, .lanes, .out, .freeIdx]
  | .scrubNow .. => [.sys, .str, .pwr, .evt, .tim, .hif, .cst, .tbl, .fbk, .stw, .quads, .cores, .lanes, .out, .freeIdx]
  | .scrubPass .. => [.evt, .cst, .freeIdx]
  | .cstTrainDone .. => [.sys, .str, .pwr, .evt, .tim, .hif, .cst, .tbl, .fbk, .stw, .quads, .cores, .lanes, .out, .freeIdx]
  | .redirectCopyDone .. => [.cst, .freeIdx]
  | .drainDone .. => [.sys, .str, .pwr, .evt, .tim, .hif, .cst, .tbl, .fbk, .stw, .quads, .cores, .lanes, .out, .freeIdx]
  | .restoreDone .. => [.sys, .str, .pwr, .evt, .tim, .hif, .cst, .tbl, .fbk, .stw, .quads, .cores, .lanes, .out, .freeIdx]
  | .cstLineError .. => [.sys, .evt, .cst, .quads, .freeIdx]
  | .cstCntRead .. => [.evt, .hif, .latches, .out]
  | .perst .. => [.sys, .str, .pwr, .evt, .tim, .hif, .cst, .tbl, .fbk, .stw, .quads, .cores, .lanes, .pins, .out, .freeIdx]
  | .hotReset .. => [.evt, .hif, .fbk]
  | .functionLevelReset .. => [.hif, .fbk]
  | .linkChange .. => [.evt, .hif]
  | .gatedAccess .. => [.evt, .hif, .out]
  | .partialWrite .. => [.hif]
  | .hifCountRead .. => [.evt, .hif, .out]
  | .twCtlWrite .. => [.pwr, .evt, .hif]
  | .featAcceptWrite .. => [.sys, .evt, .hif]
  | .featLock .. => [.sys, .evt, .hif, .lanes]
  | .doorbell .. => [.hif]
  | .ringEnable .. => [.hif]
  | .ringDisable .. => [.hif]
  | .ringStopped .. => [.hif]
  | .ringDmaError .. => [.sys, .evt, .hif, .fbk, .out]
  | .ringCoalTimer .. => [.hif, .out]
  | .ringDropsRead .. => [.hif, .out]
  | .punt .. => [.sys, .hif, .out]
  | .inject .. => [.sys, .hif, .cst, .tbl, .quads, .lanes, .out]
  | .eventRingPost .. => [.evt, .hif, .out]
  | .twWrite .. => [.sys, .str, .pwr, .evt, .wel, .tal, .tim, .key, .hif, .vault, .cst, .tbl, .fbk, .stw, .quads, .cores, .lanes, .out, .freeIdx]
  | .twRead .. => [.sys, .evt, .tim, .key, .hif, .cst, .tbl, .stw, .quads, .cores, .lanes, .latches, .out, .freeIdx]
  | .eventReport .. => [.evt]
  | .settleEnd .. => [.evt, .wel, .hif, .out]
  | .gatherEnd .. => [.evt, .wel]
  | .holdEnd .. => [.evt]
  | .lastingExpire .. => [.evt]
  | .evtStatusWrite .. => [.evt, .hif, .out]
  | .evtMaskWrite .. => [.evt, .hif, .out]
  | .evtForce .. => [.evt, .hif]
  | .evtSrcAccess .. => [.evt, .hif, .out]
  | .wellScan .. => [.evt, .wel, .vault]
  | .wellSeverityFlush .. => [.wel]
  | .wellPeriodicFlush .. => [.wel]
  | .wellFlushRecord .. => [.evt, .wel, .vault, .freeIdx]
  | .wellFlush .. => [.evt, .wel, .hif]
  | .pfailFall .. => [.evt, .wel]
  | .wellFreeze .. => [.evt, .wel, .hif]
  | .wellThaw .. => [.evt, .wel, .hif]
  | .freezeTimeout .. => [.evt, .wel]
  | .wellRead .. => [.evt, .wel, .hif]
  | .challenge .. => [.evt, .wel, .hif]
  | .challengeExpire .. => [.wel]
  | .clear .. => [.evt, .wel, .hif]
  | .tallyOccurrence .. => [.tal]
  | .talCntCfgWrite .. => [.evt, .tal, .hif]
  | .tallyFreeze .. => [.evt, .tal, .hif]
  | .snap .. => [.evt, .tal, .hif]
  | .userSnap .. => [.tal]
  | .run .. => [.sys, .str, .pwr, .evt, .tim, .hif, .cst, .tbl, .fbk, .stw, .quads, .cores, .lanes, .out, .freeIdx]
  | .doze .. => [.sys, .str, .pwr, .evt, .tim, .hif, .cst, .tbl, .fbk, .stw, .quads, .cores, .lanes, .out, .freeIdx]
  | .standby .. => [.sys, .str, .pwr, .evt, .tim, .hif, .cst, .tbl, .fbk, .stw, .quads, .cores, .lanes, .out, .freeIdx]
  | .enterDone .. => [.pwr]
  | .rtcAlarm .. => [.sys, .str, .pwr, .evt, .tim, .hif, .cst, .tbl, .fbk, .stw, .quads, .cores, .lanes, .out, .freeIdx]
  | .wakeNLow .. => [.sys, .str, .pwr, .evt, .tim, .hif, .cst, .tbl, .fbk, .stw, .quads, .cores, .lanes, .out, .freeIdx]
  | .pcieWake .. => [.sys, .str, .pwr, .evt, .tim, .hif, .cst, .tbl, .fbk, .stw, .quads, .cores, .lanes, .pins, .out, .freeIdx]
  | .energyDetect .. => [.sys, .str, .pwr, .evt, .tim, .hif, .cst, .tbl, .fbk, .stw, .quads, .cores, .lanes, .out, .freeIdx]
  | .domainPowerGood .. => [.sys, .str, .pwr, .evt, .tim, .hif, .cst, .tbl, .fbk, .stw, .quads, .cores, .lanes, .out, .freeIdx]
  | .domainPgTimeout .. => [.sys, .str, .pwr, .evt, .tim, .hif, .cst, .tbl, .fbk, .stw, .quads, .cores, .lanes, .out, .freeIdx]
  | .voteHostWrite .. => [.sys, .str, .pwr, .evt, .tim, .hif, .cst, .tbl, .fbk, .stw, .quads, .cores, .lanes, .out, .freeIdx]
  | .voteTestWrite .. => [.sys, .str, .pwr, .evt, .tim, .hif, .cst, .tbl, .fbk, .stw, .quads, .cores, .lanes, .out, .freeIdx]
  | .domFaultClear .. => [.sys, .str, .pwr, .evt, .tim, .hif, .cst, .tbl, .fbk, .stw, .quads, .cores, .lanes, .out, .freeIdx]
  | .rtcWrite .. => [.pwr, .evt, .hif]
  | .thermalLimit .. => [.evt, .pins]
  | .thermalTrip .. => [.sys, .evt, .quads, .lanes, .pins, .out, .freeIdx]
  | .thermalResume .. => [.pins]
  | .completeUAcknowledged .. => [.evt, .key, .vault, .cst, .stw, .quads, .lanes, .out, .freeIdx]
  | .hbMarkerMissing .. => [.evt, .lanes]
  | .hbDownHoldExpire .. => [.lanes]
  | .shaperEligible .. => [.quads]
  | .stwCmdDone .. => [.vault, .stw, .lanes, .freeIdx]
  | .keyCmdDone .. => [.evt, .key, .vault]
  | .wellCmdDone .. => [.evt, .wel, .key, .freeIdx]
  | .vaultLinkTimeout .. => [.sys, .str, .evt, .stw]
  | .thermalLimitRearm .. => [.pins]

end Machine
end Sys2Proof
end

