-- ==== Sys2Proof/Certificates/Slice0/Obligations.lean ====
section
/-!
DEFINITION. The statements about the model, for the provers: one definition each.
-/
section

open Sys2Proof Sys2Proof.Machine

/-- Power-up, reset and the boot sequence (R50, R51, R391, R538, R548, R552, R575): what each command leaves, from every state in which it
has its effect.
The model's own choices in its clauses: assumptions 7, 69. -/
def Obligations.BootCommandsTakeEffect : Prop :=
  (∀ s : State, s.pins.powered = false → s.vault.powerCycles ≠ BitVec.allOnes 32 →
    ∃ t, exec .powerUp s = .next t ∧ t.vault = { s.vault with powerCycles := s.vault.powerCycles + 1 } ∧ t.pwr.rtc = 0 ∧
      t.pins = { s.pins with powered := true, released := false } ∧ t.str = {} ∧ t.key.ready = false) ∧
  (∀ s : State, ∃ t, exec .railUndervolt s = .next t ∧ t.pins = { s.pins with powered := false, released := false } ∧
      t.vault = s.vault ∧ t.pwr.rtc = s.pwr.rtc ∧ t.str = {} ∧ t.evt = {}) ∧
  (∀ (s : State) (straps : BitVec 2), s.pins.powered = true →
    ∃ t, exec (.reset straps) s = .next t ∧ t.sys.src = straps ∧ t.sys.hold = (straps == 3) ∧ t.sys.done = (straps == 1) ∧
      t.pins = { s.pins with released := true } ∧ t.vault = s.vault ∧ t.str = {} ∧ t.pwr.state = .run ∧ t.pwr.on = 0 ∧
      t.pwr.rtc = s.pwr.rtc ∧ t.hif = {} ∧ t.wel = {}) ∧
  (∀ (s : State) (p : Port), s.reaches p 0 → s.sys.hold = true →
    exec (.bootGo p) s = .next (State.powerSettle { s with sys := { s.sys with hold := false } })) ∧
  (∀ s : State, s.pins.released = true → s.key.ready = false → s.sys.vaultFail = false →
    ∃ t, exec .keyReady s = .next t ∧ t.key.ready = true ∧ t.vault = s.vault ∧ t.sys = s.sys ∧
      ∀ i : Fin 16, (s.vault.slots[i.val]).state = .loaded → (t.key.copies[i.val]).key = some (s.vault.slots[i.val]).key) ∧
  -- the boot apply begins with the LOAD of the committed slot, and after a VERIFY that passes its APPLY begins (R51, R551, R552)
  (∀ s : State, s.bootDue = true → s.key.ready = true ∨ s.sys.vaultFail = true →
    exec .bootApply s = .next
      { s.startStewards with str := { s.str with
          auto := some { boot := true, mask := 0xF, slotB := s.commitSlot.getD false, second := false }
          err := 0, matchMask := 0, appliedMask := 0
          busy := some (.load (if s.commitSlot.getD false then .slotB else .slotA)) } }) ∧
  (∀ (s : State) (r : AutoRun), s.str.auto = some r → r.boot = true → s.str.state = .verified → s.bootReady = true →
    exec .bootApply s = .next (
      match s.applyRefused (s.str.staging.getD []) 0xF with
      | some e => State.bootDone { s with str := { s.str with err := e, auto := none } }
      | none => State.darkWindow { s with str := { s.str with state := .applying, err := 0, busy := some (.apply 0xF) } } 0xF)) ∧
  (∀ s : State, s.pins.released = true → s.key.ready = false → s.sys.vaultFail = false → s.bootDue = true →
    ∃ t, exec .vaultLinkTimeout s = .next t ∧ t.sys.vaultFail = true ∧ t.sys.done = true ∧ t.str.state = .failed ∧
      t.str.err = 0x0E ∧ t.key = s.key ∧ t.lanes = s.lanes)

/-- The structure loader (R46 to R49, R53, R57, R590): each command where the spec lists it for the state, and the completion of each
with its event 920 or 921.
The model's own choices in its clauses: assumptions 68, 69, 106. -/
def Obligations.LoaderCommandsTakeEffect : Prop :=
  (∀ (s : State) (p : Port) (src : BitVec 2), s.reaches p 1 → s.str.isBusy = false → s.str.loadable = true → src ≠ 3 →
    (src = 2 → s.str.hostLen ≠ 0 ∧ s.str.hostLen.toNat ≤ 4194304) →
    exec (.load p src) s = .next { s with str := { s.str with
      err := 0, matchMask := 0, appliedMask := 0
      busy := some (.load (if src = 0 then .slotA else if src = 1 then .slotB else .host)) } }) ∧
  (∀ (s : State) (bytes b : List Byte) (from_ : ImgSrc), s.str.busy = some (.load from_) → s.str.auto = none →
    (match from_ with
      | .slotA => if s.sys.vaultFail then none else s.vault.imageA
      | .slotB => if s.sys.vaultFail then none else s.vault.imageB
      | .host => some (padTo s.str.hostLen.toNat bytes)) = some b →
    exec (.loadDone true bytes) s = .next (State.report
      { s with str := { s.str with busy := none, state := .staged, staging := some b, stagedFrom := from_ } } 920 1)) ∧
  (∀ (s : State) (bytes : List Byte) (from_ : ImgSrc), s.str.busy = some (.load from_) → s.str.auto = none →
    exec (.loadDone false bytes) s = .next (State.report
      { s with str := { s.str with busy := none, err := 0x0E, staging := none, stagedFrom := .host } } 921 3 [0x0E])) ∧
  (∀ (s : State) (p : Port), s.reaches p 1 → s.str.isBusy = false → s.str.state = .staged →
    exec (.verify p) s = .next { s with str := { s.str with err := 0, busy := some .verify } }) ∧
  (∀ s : State, s.str.busy = some .verify → s.str.auto = none →
    exec .verifyDone s = .next (
      match judgeImage s.vault (s.str.staging.getD []) with
      | none => State.report
          { s with str := { s.str with busy := none, state := .verified, matchMask := s.matchOf (s.str.staging.getD []) } } 920 1
      | some e => State.report { s with str := { s.str with state := .failed, busy := none, err := e } } 921 3 [e])) ∧
  -- slots that the loader tries by itself (R51, R590): VERIFY follows a LOAD, the other slot a failure, the APPLY a VERIFY that passes
  (∀ (s : State) (r : AutoRun), s.str.auto = some r →
    (∀ (bytes b : List Byte), s.str.busy = some (.load (slotSrc r.slotB)) → s.vault.imageIn r.slotB = some b → s.sys.vaultFail = false →
      exec (.loadDone true bytes) s = .next { s with str := { s.str with
        state := if r.boot then .staged else s.str.state, staging := some b, stagedFrom := slotSrc r.slotB, busy := some .verify } }) ∧
    (s.str.busy = some .verify → r.boot = true → r.second = false →
      exec .verifyDone s = .next (
        match judgeImage s.vault (s.str.staging.getD []) with
        | some _ => { s with str := { s.str with
            state := .failed, auto := some { r with slotB := !r.slotB, second := true }, err := 0, matchMask := 0, appliedMask := 0
            busy := some (.load (slotSrc !r.slotB)) } }
        | none => { s with
            sys := { s.sys with slotFallback := false }
            str := { s.str with matchMask := s.matchOf (s.str.staging.getD []), state := .verified, busy := none } }))) ∧
  (∀ (s : State) (p : Port) (mask : BitVec 4), s.reaches p 1 → s.str.isBusy = false →
    s.str.state = .verified ∨ s.str.state = .applied → s.applyRefused (s.str.staging.getD []) mask = none →
    exec (.apply p mask) s = .next (State.powerSettle
      ((maskQuads mask).foldl State.darken
        { s with str := { s.str with state := .applying, err := 0, busy := some (.apply mask), dark := mask } }))) ∧
  (∀ (s : State) (mask : BitVec 4) (us : W32), s.str.busy = some (.apply mask) → s.str.auto = none →
    exec (.applyDone us) s = .next (State.report
      ((s.applied (s.str.staging.getD []) mask us).modStr fun x => { x with state := .applied, appliedMask := x.appliedMask ||| mask })
      920 1)) ∧
  (∀ (s : State) (m : BitVec 4) (q : QuadId), s.str.busy = some (.apply m) → bit m q.val = true → s.str.auto = none →
    exec (.applyFail q) s = .next (State.powerSettle (State.report
      { s with str := { s.str with state := .failed, busy := none, err := 0x0F } } 921 3 [0x0F]))) ∧
  (∀ (s : State) (p : Port), s.reaches p 1 → s.str.isBusy = false →
    (s.str.state = .applied ∧ s.str.appliedMask ||| s.str.matchMask = 0xF) ∨ (s.str.state = .verified ∧ s.str.matchMask = 0xF) →
    exec (.commit p) s = .next { s with str := { s.str with err := 0, busy := some .commit } }) ∧
  (∀ (s : State) (b : List Byte), s.str.busy = some .commit → s.str.staging = some b → s.heldSlot = none →
    ∃ t, exec (.commitDone .ok) s = .next t ∧ t.str.state = .committed ∧ t.str.busy = none ∧ t.str.appliedMask = 0 ∧
      t.str.matchMask = 0xF ∧ t.vault.imageIn s.copySlot = some b ∧
      t.vault.commit = some { slotB := s.copySlot, serial := imgSerial b, digest := BitVec.ofNat 64 (beAt (imgDigest b) 0 8) } ∧
      t.vault.floor.toNat = max s.vault.floor.toNat (imgLevel b).toNat ∧ t.cores = s.cores ∧ t.lanes = s.lanes) ∧
  (∀ (s : State) (p : Port), s.reaches p 1 → s.str.isBusy = false →
    s.str.state = .staged ∨ s.str.state = .verified ∨ (s.str.state = .failed ∧ s.str.dark = 0) →
    exec (.abandon p) s = .next { s with str := { s.str with err := 0, busy := some .discard } }) ∧
  (∀ (s : State) (applyOk : Bool) (us : W32), s.str.busy = some .discard →
    exec (.abandonDone applyOk us) s = .next (State.report
      { s with str := { s.str with
          staging := none, stagedFrom := .host, busy := none
          state := if s.str.run.toList.any (·.isSome) then .committed else .empty } } 920 1)) ∧
  (∀ (s : State) (p : Port), s.reaches p 1 → s.str.isBusy = false → s.str.state = .applied →
    exec (.abandon p) s = .next { s with str := { s.str with
      state := .applying, err := 0, appliedMask := 0, matchMask := 0
      auto := some { boot := false, mask := s.str.appliedMask ||| s.str.dark, slotB := s.commitSlot.getD false, second := false }
      busy := some (.load (slotSrc (s.commitSlot.getD false))) } }) ∧
  (∀ (s : State) (mask : BitVec 4) (us : W32), s.str.busy = some (.reapply mask) →
    exec (.abandonDone true us) s = .next
      (((s.applied (s.str.staging.getD []) mask us).modStr Loader.committed).report 920 1))

/-- A command of the loader that is refused changes ERR alone: 0x0D while another one is in progress, and 0x0C where the state does
not list it (R46, R47). -/
def Obligations.LoaderRefusalChangesErrAlone : Prop :=
  ∀ (s : State) (p : Port), s.reaches p 1 →
    (∀ c : Instr, (∃ x, c = .load p x) ∨ c = .verify p ∨ (∃ m, c = .apply p m) ∨ c = .commit p ∨ c = .abandon p →
      s.str.isBusy = true → exec c s = .next { s with str := { s.str with err := 0x0D } }) ∧
    (∀ (src : BitVec 2) (mask : BitVec 4), s.str.isBusy = false →
      (s.str.loadable = false ∨ src = 3 → exec (.load p src) s = .next { s with str := { s.str with err := 0x0C } }) ∧
      (s.str.state ≠ .staged → exec (.verify p) s = .next { s with str := { s.str with err := 0x0C } }) ∧
      (s.str.state ≠ .verified ∧ s.str.state ≠ .applied → exec (.apply p mask) s = .next { s with str := { s.str with err := 0x0C } }) ∧
      (s.str.state = .empty ∨ s.str.state = .committed →
        exec (.abandon p) s = .next { s with str := { s.str with err := 0x0C } }))

/-- After an APPLY of the host has completed, the quadrants of the mask have the roles of the staged image and the others keep
theirs; the dark mask is empty, STR_LAST_APPLY_US holds the time, and APPLIED_MASK has gained the mask (R46, R53, R54). -/
def Obligations.ApplyInstallsTheImage : Prop :=
  ∀ (s : State) (mask : BitVec 4) (us : W32) (b : List Byte), s.str.busy = some (.apply mask) → s.str.auto = none →
    s.str.staging = some b →
    ∃ t, exec (.applyDone us) s = .next t ∧ t.str.state = .applied ∧ t.str.busy = none ∧ t.str.dark = 0 ∧ t.str.lastApplyUs = us ∧
      t.str.appliedMask = s.str.appliedMask ||| mask ∧ t.vault = s.vault ∧ t.str.staging = some b ∧
      ∀ n : Fin 96, t.str.roles[n.val] = if bit mask (n.val / 24) then byteAt (imgRoles b) n.val else s.str.roles[n.val]

/-- The power island and the temperature sensor (R535, R537 to R541, R546, R547, R586): what each command and condition does from
every state in which it acts.
The model's own choices in its clauses: assumptions 18, 19, 112. -/
def Obligations.PowerCommandsTakeEffect : Prop :=
  (∀ (s : State) (p : Port), s.reaches p 2 → s.pwr.state ≠ .run → s.pwr.state ≠ .waking →
    exec (.run p) s = .next (State.wake { s with pwr := { s.pwr with err := 0 } } 6 0)) ∧
  (∀ (s : State) (p : Port), s.reaches p 2 → s.pwr.state = .run → s.pwr.firing &&& s.pwr.wakeEn = 0 →
    exec (.doze p) s = .next (State.powerSettle
      { s with pwr := { s.pwr with state := .entering, target := .doze, src := .run, lastReq := 2, err := 0 } })) ∧
  (∀ (s : State) (p : Port), s.reaches p 2 → s.pwr.state = .run ∨ s.pwr.state = .doze → s.pwr.firing &&& s.pwr.wakeEn = 0 →
    exec (.standby p) s = .next (State.powerSettle
      { s with pwr := { s.pwr with state := .entering, target := .standby, src := s.pwr.state, lastReq := 3, err := 0 } })) ∧
  (∀ s : State, s.pwr.state = .entering → s.pwr.on &&& ~~~s.wantSet = 0 →
    exec .enterDone s = .next { s with pwr := { s.pwr with state := s.pwr.target } }) ∧
  (∀ s : State, s.pwr.almEn = true → s.pwr.alm.toNat ≤ s.pwr.rtc.toNat → bit s.pwr.wakeEn 0 = true → s.pwr.state = .doze →
    exec .rtcAlarm s = .next (State.wake { s with pwr := { s.pwr with almEn := false, almFired := true } } 1 0)) ∧
  (∀ s : State, bit s.pwr.wakeEn 1 = true → s.pwr.state = .doze ∨ s.pwr.state = .standby →
    exec .wakeNLow s = .next (s.wake 2 0)) ∧
  (∀ s : State, bit s.pwr.wakeEn 2 = true → s.isOn dHif = false → s.pwr.state = .doze ∨ s.pwr.state = .standby →
    exec (.pcieWake false) s = .next (s.wake 3 0)) ∧
  (∀ (s : State) (n : LaneId) (level : Nat), s.isLine n.val = true → s.isRetained (dRx n.val) = true →
    (s.lane n).com.wakeTh < level → bit s.pwr.wakeEn 4 = true → s.pwr.state = .doze →
    exec (.energyDetect n level) s = .next (s.wake 5 (BitVec.ofNat 7 n.val))) ∧
  (∀ (s : State) (d : DomainId), s.switching d.val = true →
    exec (.domainPowerGood d) s = .next (State.powerSettle
      (let t := (s.markDom d.val true false).enterOn d.val (s.isRetained d.val)
       { t with pwr := { t.pwr with step := BitVec.ofNat 4 s.seqStep } }))) ∧
  (∀ (s : State) (d : DomainId), s.switching d.val = true → d.val < 6 ∨ 10 ≤ d.val →
    exec (.domainPgTimeout d) s = .next (State.powerSettle (State.report
      { s with pwr := { s.pwr with fault := setBit s.pwr.fault d.val true, step := BitVec.ofNat 4 s.seqStep } }
      997 3 [BitVec.ofNat 8 d.val]))) ∧
  (∀ (s : State) (p : Port) (i : Fin 7) (w : W32), s.reaches p 2 →
    exec (.voteHostWrite p i w) s = .next (State.powerSettle { s with pwr := { s.pwr with voteHost := putWord s.pwr.voteHost i.val w } }) ∧
    exec (.voteTestWrite p i w) s = .next (State.powerSettle { s with pwr := { s.pwr with voteTest := putWord s.pwr.voteTest i.val w } }) ∧
    exec (.domFaultClear p i w) s = .next (State.powerSettle
      { s with pwr := { s.pwr with fault := putWord s.pwr.fault i.val (domWord s.pwr.fault i.val &&& ~~~w) } }) ∧
    exec (.rtcWrite p w) s = .next { s with pwr := { s.pwr with rtcLoad := some (fld w 0 16 ++ s.pwr.rtcLo) } }) ∧
  (∀ s : State, s.pins.thermalArmed = true →
    exec .thermalLimit s = .next (State.report { s with pins := { s.pins with thermalArmed := false } } 998 3)) ∧
  (∀ s : State, exec .thermalLimitRearm s = .next { s with pins := { s.pins with thermalArmed := true } }) ∧
  (∀ s : State, s.pins.thermalStop = true →
    exec .thermalResume s = .next { s with pins := { s.pins with thermalStop := false, txinhRise := some s.now } }) ∧
  -- THERMAL_TRIP stops every line lane's transmitter at once; no lane of another role changes, but for the flow control of a port whose
  -- quadrant is dark and discards what a burst held (R53, R233, R586)
  (∀ s : State, ∃ t, exec .thermalTrip s = .next t ∧ t.pins = { s.pins with thermalStop := true } ∧
    ∀ n : LaneId, (s.isLine n.val = true → (t.lane n).com.txen = false) ∧ (s.isLine n.val = false → t.lane n = { s.lane n with eth := (t.lane n).eth }))

/-- A request to sleep that meets an enabled wake source in the same cycle is cancelled: the device stays where it was,
PWR_STATUS.CANCELLED is set, and PWR_WAKE_LAST names the source (R539).
The model's own choices in its clauses: assumptions 17, 77. -/
def Obligations.WakeCancelsARequestToSleep : Prop :=
  ∀ (s : State) (p : Port), s.reaches p 2 → s.pwr.state = .run → s.pwr.firing &&& s.pwr.wakeEn ≠ 0 →
    ∃ t u, exec (.doze p) s = .next t ∧ exec (.standby p) s = .next u ∧
      t.pwr.state = .run ∧ u.pwr.state = .run ∧ t.pwr.cancelled = true ∧ u.pwr.cancelled = true ∧
      t.pwr.on = s.pwr.on ∧ u.pwr.on = s.pwr.on ∧ t.pwr.lastReq = 2 ∧ u.pwr.lastReq = 3 ∧
      t.pwr.wakeLast = wakeWord s.pwr.firing true 0 s.pwr.firingLane

/-- The receiver of a lane slice (R66 to R69, R71 to R73, R107): what each command and condition does where it acts.
The model's own choices in its clauses: assumptions 26, 84, 85. -/
def Obligations.ReceiverCommandsTakeEffect : Prop :=
  (∀ (s : State) (n : LaneId) (x : Vector (BitVec 6) 16) (prev : Vector Bool 6),
    (s.lane n).com.rxState = .adaptFast ∨ (s.lane n).com.rxState = .track → (s.lane n).ts.calBusy = false →
    exec (.eqUpdate n x prev) s = .next (s.tookFree.modCom n fun c => c.adapt x prev (s.freeBits 24))) ∧
  (∀ (s : State) (n : LaneId), (∃ i : Fin 24, 65536 ≤ (s.lane n).com.limitRun[i.val]) → (s.lane n).com.eqLimit = false →
    exec (.eqLimit n) s = .next ((s.modCom n fun c => { c with eqLimit := true }).report (laneEv n 5) 2)) ∧
  (∀ (s : State) (n : LaneId), s.isOn (dRx n.val) = true → (s.lane n).com.rxState = .seed →
    ∃ t, exec (.seedLoaded n) s = .next t ∧ (t.lane n).com =
      ({ (s.lane n).com with
        items := Vector.ofFn fun i : Fin 24 =>
          itemOf i.val ((s.sys.seedItem (fld (s.lane n).com.ctl 16 6).toNat i.val).setWidth 10)
        limitRun := Vector.replicate 24 0 } : LaneCommon).enter (if (s.lane n).com.sigdet then .cdrAcq else .waitSig)) ∧
  -- a state entered while FREEZE is set is entered as FROZEN (R69, R97)
  (∀ (c : LaneCommon) (st : RxState),
    (bit c.ctl 1 = false → c.enter st = { c with rxState := st }) ∧
    (bit c.ctl 1 = true → c.enter st = { c with rxState := .frozen, frozenFrom := st })) ∧
  (∀ (s : State) (p : Port) (n : LaneId), s.reachesLane p n .common →
    let u := s.modCom n fun c => ({ c with priming := true, lockedOnce := false } : LaneCommon).enter .seed
    ((s.lane n).com.cdrLock = false → exec (.rxRestart p n) s = .next u) ∧
    ((s.lane n).com.cdrLock = true → exec (.rxRestart p n) s = .next (u.cdrGone n))) ∧
  (∀ (s : State) (p : Port) (n : LaneId), s.reachesLane p n .common →
    (s.lane n).com.rxState ≠ .off → (s.lane n).com.rxState ≠ .frozen →
    exec (.eqFreeze p n true) s = .next (s.modCom n fun c =>
      { c with ctl := setBit c.ctl 1 true, frozenFrom := c.rxState, rxState := .frozen })) ∧
  (∀ (s : State) (p : Port) (n : LaneId), s.reachesLane p n .common → (s.lane n).com.rxState = .frozen →
    exec (.eqFreeze p n false) s = .next (s.modCom n fun c => { c with ctl := setBit c.ctl 1 false, rxState := c.thawed })) ∧
  (∀ (s : State) (p : Port) (n : LaneId) (on : Bool), s.reachesLane p n .common → (s.lane n).com.rxState = .off →
    exec (.eqFreeze p n on) s = .next (s.modCom n fun c => { c with ctl := setBit c.ctl 1 on })) ∧
  (∀ (s : State) (p : Port) (n : LaneId) (w : W32), s.reachesLane p n .rx →
    exec (.tapWrite p n w) s = .next (s.modCom n fun c => { c with
      tapSel := fld w 0 5
      items := if bit c.ctl 1 then vset c.items (fld w 0 5).toNat (itemOf (fld w 0 5).toNat (fld w 16 10)) else c.items })) ∧
  (∀ (s : State) (n : LaneId) (rms : Nat), s.isOn (dRx n.val) = true → (s.lane n).com.rxState ≠ .off →
    (s.lane n).com.sigdet = false → (s.lane n).com.sdOn < rms →
    exec (.signalDetectSet n rms) s = .next (((s.modCom n fun c => { c with
      sigdet := true
      rxState := if c.rxState = .waitSig then .cdrAcq else c.rxState
      noiseMode := bit c.ctl 2 }).endCond (laneEv n 0)).ethStart n)) ∧
  (∀ (s : State) (n : LaneId) (rms : Vector Nat 4), s.isOn (dRx n.val) = true → (s.lane n).com.sigdet = true →
    (∀ i : Fin 4, rms[i.val] < (s.lane n).com.sdOff) →
    exec (.signalDetectClear n rms) s = .next ((s.report (laneEv n 0) 2).signalGone n)) ∧
  (∀ (s : State) (n : LaneId), (s.lane n).com.sigdet = true → (s.lane n).com.cdrLock = false → (s.lane n).com.rxState = .cdrAcq →
    s.noReference n = false →
    ∃ t, exec (.cdrLock n) s = .next t ∧ (t.lane n).com = { (s.lane n).com with
      cdrLock := true, lockedOnce := true, rxState := if (s.lane n).com.priming then .adaptFast else .track }) ∧
  -- the CDR of a frozen receiver runs on, and a reference in fault lets none of its receivers lock (R69, R75)
  (∀ (s : State) (n : LaneId), (s.lane n).com.sigdet = true → (s.lane n).com.cdrLock = false → (s.lane n).com.rxState = .frozen →
    (s.lane n).com.frozenFrom ≠ .seed → (s.lane n).com.frozenFrom ≠ .off → s.noReference n = false →
    ∃ t, exec (.cdrLock n) s = .next t ∧ (t.lane n).com = { (s.lane n).com with cdrLock := true, lockedOnce := true }) ∧
  (∀ (s : State) (n : LaneId), s.noReference n = true → exec (.cdrLock n) s = .next s) ∧
  (∀ (s : State) (n : LaneId), (s.lane n).com.sigdet = true → (s.lane n).com.cdrLock = true →
    exec (.cdrLockLost n) s = .next (((s.modCom n fun c => { c with
      rxState := if c.rxState = .frozen then .frozen else .cdrAcq }).report (laneEv n 1) 2).cdrGone n)) ∧
  (∀ (s : State) (n : LaneId), (s.lane n).com.rxState = .adaptFast →
    exec (.adaptFastDone n) s = .next (s.modCom n fun c => { c with rxState := .track, priming := false })) ∧
  (∀ (s : State) (n : LaneId) (sumSq : Nat), s.isOn (dRx n.val) = true →
    exec (.noiseReport n sumSq) s = .next (s.tookFree.tookFree.modCom n fun c => { c with
      noise := if c.noiseMode then noiseFields sumSq (bit (s.freeBits 1) 0)
        else mseFields sumSq (vget 0 c.items 22).toNat (bit (s.freeBits 1) 0) (s.tookFree.freeBits 32) })) ∧
  (∀ (s : State) (p : Port) (w : W32), s.reaches p 0 →
    exec (.seedDataWrite p w) s = .next { s with sys := s.sys.seedWrite w })

/-- The reference monitors (R75): a loss and a bad gate are faults with event 930 + q, by which the receivers that take the reference lose
lock, and an edge or a good gate that leaves the reference present and in tolerance ends the condition. -/
def Obligations.ReferenceMonitorsJudge : Prop :=
  ∀ (s : State) (q : QuadId) (ppm : Int),
    ((s.refclk q.val).present = true → (s.src (930 + q.val)).active = false →
      exec (.refclkLoss q) s = .next (((s.modRef q.val fun r => { r with present := false, fault := true }).report (930 + q.val) 3).refLocksLost
        q.val)) ∧
    ((s.refclk q.val).inTol = true →
      exec (.refclkReturn q) s = .next ((s.modRef q.val fun r => { r with present := true }).endCond (930 + q.val))) ∧
    ((s.refclk q.val).present = true → (if (s.refclk q.val).ssc then -5200000 else -200000) ≤ ppm → ppm ≤ 200000 →
      exec (.refclkGate q ppm) s = .next
        ((s.modRef q.val fun r => { r with ssc := bit (s.ref q.val) 1, inTol := true }).endCond (930 + q.val))) ∧
    (200000 < ppm → (s.src (930 + q.val)).active = false →
      exec (.refclkGate q ppm) s = .next
        (((s.modRef q.val fun r => { r with ssc := bit (s.ref q.val) 1, inTol := false, fault := true }).report (930 + q.val) 3).refLocksLost
          q.val))

/-- After an update symbol every equaliser item lies in its range, and the tap at CURSOR and CURSOR itself have not moved where they
lay in it (R65, R66, R67).
The model's own choices in its clauses: assumption 84. -/
def Obligations.EqualiserItemsStayInRange : Prop :=
  ∀ (s : State) (n : LaneId) (x : Vector (BitVec 6) 16) (prev : Vector Bool 6),
    (s.lane n).com.rxState = .adaptFast ∨ (s.lane n).com.rxState = .track → (s.lane n).ts.calBusy = false →
    ∃ t, exec (.eqUpdate n x prev) s = .next t ∧
      (∀ i : Fin 24, itemLo i.val ≤ (t.lane n).com.items[i.val] ∧ (t.lane n).com.items[i.val] ≤ itemHi i.val) ∧
      (∀ i : Fin 24, (i.val = 23 ∨ (i.val < 16 ∧ i.val = (s.lane n).com.cursor)) →
        itemLo i.val ≤ (s.lane n).com.items[i.val] → (s.lane n).com.items[i.val] ≤ itemHi i.val →
        (t.lane n).com.items[i.val] = (s.lane n).com.items[i.val]) ∧
      ∀ m : LaneId, m ≠ n → t.lane m = s.lane m

/-- The transmitter's side signals, pattern generator and checker (R81, R87 to R90).
The model's own choices in its clauses: assumptions 29, 86, 87, 89. -/
def Obligations.TransmitterCommandsTakeEffect : Prop :=
  (∀ (s : State) (lowPs : Nat), 1000 ≤ lowPs →
    ∃ t, exec (.txinhFall lowPs) s = .next t ∧ t.pins = { s.pins with txinhHigh := false, inhibited := true } ∧
      ∀ n : LaneId, (s.isLine n.val = true → (t.lane n).com.txen = false) ∧ (s.isLine n.val = false → t.lane n = { s.lane n with eth := (t.lane n).eth })) ∧
  -- a pulse shorter than 300 ps has no effect (R81, R583)
  (∀ (s : State) (lowPs : Nat), lowPs < 300 →
    ∃ t, exec (.txinhFall lowPs) s = .next t ∧ t.pins = { s.pins with txinhHigh := false } ∧ t.lanes = s.lanes ∧ t.evt = s.evt) ∧
  (∀ s : State, exec .txinhRise s = .next { s with pins := { s.pins with
    txinhHigh := true, inhibited := false, txinhRise := if s.pins.inhibited = true then some s.now else s.pins.txinhRise } }) ∧
  (∀ (s : State) (p : Port) (n : LaneId), s.reachesLane p n .common →
    (s.isLine n.val = false →
      exec (.txSquelch p n true) s = .next (s.modCom n fun c => { c with ctl := setBit c.ctl 3 true }) ∧
      exec (.genEn p n true) s = .next ((s.modCom n fun c => { c with prbs := setBit c.prbs 2 true }).txBegins n)) ∧
    exec (.txSquelch p n false) s = .next ((s.modCom n fun c => { c with ctl := setBit c.ctl 3 false }).txBegins n) ∧
    exec (.genEn p n false) s = .next (s.modCom n fun c => { c with prbs := setBit c.prbs 2 false })) ∧
  (∀ (s : State) (p : Port) (n : LaneId), s.reachesLane p n .common → s.isLine n.val = true →
    (∃ t, exec (.txSquelch p n true) s = .next t ∧ (t.lane n).com.txen = false ∧ (t.lane n).com.ctl = setBit (s.lane n).com.ctl 3 true) ∧
    (∃ t, exec (.genEn p n true) s = .next t ∧ (t.lane n).com.txen = false ∧
      (t.lane n).com.prbs = setBit (s.lane n).com.prbs 2 true)) ∧
  -- every bit received while the checker is on reaches it; it fills its register, locks after 128 bits that match, and while locked
  -- counts each bit that does not (R88, R90)
  (∀ (s : State) (n : LaneId) (bits : List Bool), s.isOn (dRx n.val) = true → bit (s.lane n).com.prbs 6 = true →
    let inv := bit (s.lane n).com.ctl 4
    let t := bits.foldl (fun s b => s.checkBit n (xor b inv)) s
    exec (.checkerLock n bits) s = .next t ∧ exec (.checkerLockLoss n bits) s = .next t) ∧
  (∀ (s : State) (n : LaneId) (b : Bool), s.isOn (dRx n.val) = true → bit (s.lane n).com.prbs 6 = true → bit (s.lane n).com.ctl 4 = false →
    let c := (s.lane n).com
    let want := prbsNext c.chkPat c.chkReg
    (c.chkFill < prbsLen c.chkPat → ∃ t, exec (.checkerLock n [b]) s = .next t ∧
      (t.lane n).com = { c with chkReg := prbsPush c.chkReg b, chkFill := c.chkFill + 1 } ∧ t.evt = s.evt) ∧
    (prbsLen c.chkPat ≤ c.chkFill → c.chkLock = false → c.chkRun = 127 → b = want → ∃ t, exec (.checkerLock n [b]) s = .next t ∧
      (t.lane n).com.chkLock = true ∧ (t.lane n).com.prbsErr = c.prbsErr ∧ t.evt = s.evt) ∧
    (prbsLen c.chkPat ≤ c.chkFill → c.chkLock = true → b ≠ want → ∃ t, exec (.checkerLockLoss n [b]) s = .next t ∧
      (t.lane n).com.prbsErr = satAdd c.prbsErr 1 ∧ (t.lane n).com.errArmed = false ∧
      (t.lane n).com.chkLock = decide ((c.chkWin.take 255).count true < 63))) ∧
  (∀ (s : State) (p : Port) (n : LaneId), s.reachesLane p n .rx →
    exec (.prbsErrRead p n []) s = .next
      ((s.modCom n fun c => { c with prbsErr := 0, errArmed := true }).emit (.read p (s.lane n).com.prbsErr))) ∧
  -- an injection acts at once where the transmitter sends, and waits where it does not (R89)
  (∀ (s : State) (p : Port) (n : LaneId), s.reachesLane p n .common →
    (s.sendsNow n = true →
      ∃ t u, exec (.injSingle p n) s = .next t ∧ exec (.injBurst p n) s = .next u ∧
        t.out = .inverted n 1 :: s.out ∧ u.out = .inverted n (s.lane n).com.burstLen :: s.out ∧
        (t.lane n).com.inject = none ∧ (u.lane n).com.inject = none) ∧
    (s.sendsNow n = false →
      exec (.injSingle p n) s = .next (s.modCom n fun c => { c with inject := some 1 }) ∧
      exec (.injBurst p n) s = .next (s.modCom n fun c => { c with inject := some (s.lane n).com.burstLen })))

/-- Host-bond links (R75, R81, R92 to R94, R105, R478): handshake and marker blocks, the timers and RESTART where the rows of R94 list them.
The model's own choices in its clauses: assumptions 30, 82, 88. -/
def Obligations.HostBondCommandsTakeEffect : Prop :=
  (∀ (s : State) (n : LaneId), s.isHostBond n.val = true →
    (s.link n).state = .offer ∨ (s.link n).state = .agreed ∨ (s.link n).state = .commit →
    s.isOn (dTx n.val) = true → (s.lane n).com.genEn = false → s.txIdle n = false →
    exec (.hbHandshakeTx n) s = .next
      (let body : List Byte :=
        [0xC3#8, BitVec.ofNat 8 ((s.linkLanes n).idxOf n), BitVec.ofNat 8 (s.linkOf n.val), BitVec.ofNat 8 (s.maxlOwn n), s.capsByte n,
         BitVec.ofNat 8 (s.rxok n + 32 * (match (s.link n).state with | .agreed => 1 | .commit => 2 | _ => 0))]
       (s.flushInject n).emit (.hbBlock n (0xA5#8 :: body ++ [crc8 body])))) ∧
  (∀ (s : State) (n : LaneId) (b : Vector Byte 8), s.isHostBond n.val = true → b[0] = 0xA5#8 → b[1] = 0xC3#8 →
    crc8 [b[1], b[2], b[3], b[4], b[5], b[6]] = b[7] → b[3].toNat = s.linkOf n.val → 1 ≤ b[2].toNat → b[2].toNat < 16 →
    (s.link n).state = .commit ∨ (s.link n).state = .align ∨ (s.link n).state = .up →
    exec (.hbHandshakeRx n true b) s = .next (s.modHb n fun h => { h with
      blockLock := true, goodRun := min 8 (h.goodRun + 1), laneNo := some b[2].toNat, phase := (fld b[6] 5 3).toNat })) ∧
  (∀ (s : State) (n : LaneId), s.isHostBond n.val = true → (s.link n).state = .commit →
    exec (.hbCommitDone n) s = .next
      (((s.agreedLanes n).foldl (fun s m => s.modHb m fun h => { h with aligned := false, lastMarker := none, missRun := 0 }) s).modLink n
        fun h => { h with state := .align, since := s.now })) ∧
  (∀ (s : State) (n : LaneId), s.isHostBond n.val = true → (s.link n).state = .offer ∨ (s.link n).state = .agreed →
    exec (.hbTimeout n false) s = .next
      ((s.modLink n fun h => { h with state := .down, err := 1, n := 0, fec := false, used := [] }).hbEvent n)) ∧
  (∀ (s : State) (n : LaneId) (p : HbPeer), s.isHostBond n.val = true → (s.link n).state = .offer → (s.link n).peer = some p →
    s.hbN n p = 0 →
    exec (.hbTimeout n true) s = .next
      ((s.modLink n fun h => { h with state := .failed, err := 3, n := 0, fec := false, used := [] }).hbEvent n)) ∧
  (∀ (s : State) (n : LaneId), s.isHostBond n.val = true → (s.link n).state = .down → s.feature 8 = true →
    exec (.hbDownHoldExpire n) s = .next (s.modLink n fun h => { h with state := .offer, n := 0, fec := false, used := [] })) ∧
  (∀ (s : State) (n : LaneId), s.isHostBond n.val = true → (s.link n).state = .align → s.feature 8 = true →
    exec (.hbAlignTimeout n) s = .next
      ((s.modLink n fun h => { h with state := .offer, err := 4, n := 0, fec := false, used := [] }).hbEvent n)) ∧
  (∀ (s : State) (n : LaneId) (blk : Nat) (b : Vector Byte 8), s.isHostBond n.val = true → b[0] = 0xA5#8 → b[1] = 0x5A#8 →
    b[2].toNat < 16 → b[3].toNat = s.linkOf n.val → b[5] = ~~~b[4] → b[6] = ~~~b[2] → b[7] = ~~~b[3] →
    (let due := (s.lane n).hb.lastMarker == some (blk - 16384) && decide (16384 ≤ blk)
     -- an aligned lane judges what stands at the expected position only (R93)
     ((s.lane n).hb.aligned = true → due = false → exec (.hbMarkerRx n blk b) s = .next s) ∧
     ((s.lane n).hb.aligned = false ∨ due = true →
      exec (.hbMarkerRx n blk b) s = .next (State.hbAligned (s.modHb n fun h => { h with
        aligned := due, lastMarker := some blk, arrival := blk, missRun := 0, laneNo := some b[2].toNat }) n)))) ∧
  (∀ (s : State) (n : LaneId), s.isHostBond n.val = true → (s.lane n).hb.aligned = true →
    ((s.lane n).hb.missRun < 3 → exec (.hbMarkerMissing n) s = .next (s.modHb n fun h =>
      { h with missRun := h.missRun + 1, lastMarker := h.lastMarker.map (· + 16384) })) ∧
    (3 ≤ (s.lane n).hb.missRun → (s.link n).state ≠ .up →
      ∃ t, exec (.hbMarkerMissing n) s = .next t ∧
        (t.lane n).hb = { (s.lane n).hb with missRun := (s.lane n).hb.missRun + 1, aligned := false, lastMarker := none })) ∧
  (∀ (s : State) (n : LaneId), s.isHostBond n.val = true → (s.lane n).hb.aligned = false → exec (.hbMarkerMissing n) s = .next s) ∧
  (∀ (s : State) (p : Port) (n : LaneId), s.reachesLane p n .common → s.isHead n = true →
    exec (.hbRestart p n) s = .next (s.modLink n fun h => { h with
      state := if s.feature 8 then .offer else .down, err := 0, n := 0, fec := false, used := [] }))

/-- Writes of registers that have no command of their own (R16, R473, R475, R559, R560, R566): the register that stands at an address
takes the write where its island answers; a write of an unassigned island, and one of BAR2 or BAR4 through the two-wire port, has
no effect; a gated write leaves its record and event 913. -/
def Obligations.RegisterWritesReachTheirRegister : Prop :=
  ∀ (s : State) (p : Port) (a : BitVec 25) (w : W32), s.portUp p = true → a.toNat % 4 = 0 →
    (assigned (a.toNat / 0x20000) = true → s.answersAt a.toNat = true →
      exec (.registerWrite p (.bar0 a) w) s = .next (s.regWrite a.toNat w)) ∧
    (assigned (a.toNat / 0x20000) = false → exec (.registerWrite p (.bar0 a) w) s = .next s) ∧
    (assigned (a.toNat / 0x20000) = true → s.answersAt a.toNat = false →
      exec (.registerWrite p (.bar0 a) w) s = .next (s.gatedRecord p a.toNat true)) ∧
    (∀ (b : BitVec 16) (c : BitVec 15), exec (.registerWrite .twoWire (.bar2 b) w) s = .next s ∧
      exec (.registerWrite .twoWire (.bar4 c) w) s = .next s)

/-- SYS_SCRATCH, SYS_SEED_ADDR and SYS_SUMP_ADDR take a write and read back what was written, reserved bits as 0; nothing else
changes (R6, R106, R303, R565). -/
def Obligations.SystemControlRegistersReadBack : Prop :=
  ∀ (s : State) (p : Port) (w : W32), s.reaches p 0 →
    ∃ t u v, exec (.registerWrite p (.bar0 0x0004#25) w) s = .next t ∧ exec (.registerWrite p (.bar0 0x8004#25) w) s = .next u ∧
      exec (.registerWrite p (.bar0 0xC000#25) w) s = .next v ∧
      (t.regRead p 0x0004).1 = w ∧ (u.regRead p 0x8004).1 = w &&& 0x3F1F#32 ∧ (v.regRead p 0xC000).1 = w &&& 0x13FF#32 ∧
      Only [.sys] s t ∧ Only [.sys] s u ∧ Only [.sys] s v

/-- The downstream framer of a line lane (R110, R111, R114, R118, R120, R121, R123 to R128, R130, R133, R137): each command where it
acts.
The model's own choices in its clauses: assumptions 31, 91, 92, 93. -/
def Obligations.DownstreamCommandsTakeEffect : Prop :=
  (∀ (s : State) (n : LaneId) (pos : Nat), s.dsOn n = true → (s.lane n).ds.sync ≠ .sync → (s.lane n).ds.cands.length < 8 →
    exec (.psyncCandidate n pos) s = .next (s.modDs n fun d => { d with sync := .presync, cands := d.cands ++ [pos] })) ∧
  (∀ (s : State) (n : LaneId) (pos : Nat) (v : BitVec 51) (ponId : Hec (BitVec 51)) (hlend : Hec HlEnd), s.dsOn n = true →
    (s.lane n).ds.sync = .presync → pos ∈ (s.lane n).ds.cands →
    exec (.candidateCheckPoint n pos 0 (.valid v) ponId hlend) s = .next
      ((((s.modDs n fun d => { d with sync := .sync, cands := [], misses := 0, sfc := v, winCorr := 0, winUnc := 0 }).syncGained n).judgeLock
        n).frameRx n ponId hlend)) ∧
  (∀ (s : State) (n : LaneId) (pos errs : Nat) (sfc ponId : Hec (BitVec 51)) (hlend : Hec HlEnd), s.dsOn n = true →
    (s.lane n).ds.sync = .presync → pos ∈ (s.lane n).ds.cands → errs ≠ 0 →
    exec (.candidateCheckPoint n pos errs sfc ponId hlend) s = .next (s.modDs n fun d =>
      { d with cands := d.cands.erase pos, sync := if d.cands.erase pos = [] then .hunt else .presync })) ∧
  (∀ (s : State) (n : LaneId) (errs : Nat) (h : HlEnd), s.inSync n = true → errs < 3 → s.tim.refLane ≠ n.val →
    ∃ t, exec (.dsFrame n errs (.valid ((s.lane n).ds.sfc + 1)) (.valid (s.lane n).ds.ponId) (.valid h)) s = .next t ∧
      (let d := (s.lane n).ds
       (t.lane n).ds = { d with
        misses := 0, sfc := d.sfc + 1, cnt := vmod d.cnt 0 (· + 1), onuId := fld d.ctl 0 10, frameNo := d.frameNo + 1, words := 0
        badWords := [], ponLatched := true, hlend := hlendWord h, located := true, delineated := true
        pos := 4 + 8 * h.bwLen.toNat + 48 * h.ploams.toNat }) ∧
      t.evt = s.evt ∧ t.tim = s.tim ∧ (t.lane n).act.chKnown = true ∧
      ((s.lane n).act.chKnown = true → (t.lane n).act = (s.lane n).act)) ∧
  -- the frame of the lane that is REF_LANE gives the time island its PSync stamp (R114)
  (∀ (s : State) (n : LaneId) (errs : Nat) (sfc ponId : Hec (BitVec 51)) (hlend : Hec HlEnd), s.inSync n = true → errs < 3 →
    s.tim.refLane = n.val →
    ∃ t, exec (.dsFrame n errs sfc ponId hlend) s = .next t ∧
      t.tim = { s.tim with psync := some { time := s.rxMoment n, sfc := sfc.val.getD ((s.lane n).ds.sfc + 1) } }) ∧
  (∀ (s : State) (n : LaneId) (errs : Nat) (sfc ponId : Hec (BitVec 51)) (hlend : Hec HlEnd), s.inSync n = true → 3 ≤ errs →
    (s.lane n).ds.misses = 3 →
    exec (.dsFrame n errs sfc ponId hlend) s = .next (((s.dsCnt n 27).huntLine n).report (laneEv n 1) 2)) ∧
  (∀ (s : State) (p : Port) (n : LaneId), s.reachesLane p n .rx → s.isLine n.val = true →
    exec (.huntRestart p n) s = .next (s.huntLine n) ∧
    exec (.dsCntClr p n) s = .next (s.modDs n fun d => { d with cnt := Vector.replicate 30 0 })) ∧
  (∀ (s : State) (n : LaneId) (errs : Nat), s.inSync n = true →
    exec (.fecCodeword n errs) s = .next (
      let u := (s.dsCnt n 6).modDs n fun d => { d with
        words := d.words + 1, badWords := if 16 < errs then d.words :: d.badWords else d.badWords }
      if errs = 0 then u
      else if errs ≤ 16 then ((u.dsCnt n 7).dsCnt n 8 errs).modDs n fun d => { d with winCorr := d.winCorr + errs }
      else (u.dsCnt n 9).modDs n fun d => { d with winUnc := d.winUnc + 1 })) ∧
  (∀ (s : State) (n : LaneId), s.inSync n = true → fld (s.lane n).ds.fecTh 20 10 = 0#10 → fld (s.lane n).ds.fecTh 0 20 ≠ 0#20 →
    exec (.fecWindowEnd n) s = .next (
      if (fld (s.lane n).ds.fecTh 0 20).toNat ≤ (s.lane n).ds.winCorr then
        (s.modDs n fun d => { d with
          corrOver := true, uncOver := false, winCorr := 0, winUnc := 0, fecSeen := d.fecSeen || !d.corrOver }).reportIf
            (!(s.lane n).ds.corrOver) (laneEv n 2) 1
      else s.modDs n fun d => { d with corrOver := false, uncOver := false, winCorr := 0, winUnc := 0 })) ∧
  (∀ (s : State) (p : Port) (n : LaneId) (w : W32), s.reachesLane p n .rx →
    exec (.fecThWrite p n w) s = .next (s.modDs n fun d => { d with fecTh := w, winCorr := 0, winUnc := 0 })) ∧
  (∀ (s : State) (n : LaneId) (idx : Nat) (a : AllocStruct), s.inSync n = true → (s.lane n).ds.located = true →
    exec (.allocStructure n idx (.valid a)) s = .next (
      if (s.lane n).matchesAlloc a then
        (s.dsCnt n 12).modPump n fun p => { p with
          grantQ := p.grantQ ++ [{ a := a, idx := idx, frame := (s.lane n).ds.frameNo, sfc := (s.lane n).ds.sfc }] }
      else s) ∧
    exec (.allocStructure n idx .bad) s = .next (s.dsCnt n 11)) ∧
  (∀ (s : State) (n : LaneId) (m : Ploam), s.inSync n = true → (s.lane n).ds.located = true →
    (m.onuId = (s.lane n).ds.onuId ∧ (s.lane n).ds.onuValid = true) ∨ (m.onuId = 0x3FF#10 ∧ bit (s.lane n).ds.ctl 11 = true) →
    exec (.dsPloam n m) s = .next (
      if (s.lane n).ds.ploamQ.length < 16 then (s.dsCnt n 13).modDs n fun d => { d with ploamQ := d.ploamQ ++ [m] }
      else ((s.dsCnt n 14).modDs n fun d => { d with ploamOvf := true }).report (laneEv n 6) 1)) ∧
  (∀ (s : State) (n : LaneId) (h : XgemHdr) (e : BitVec 20) (payload : List Byte), s.inSync n = true → (s.lane n).ds.delineated = true →
    (s.lane n).ds.pos + 8 + pad4 h.pli.toNat ≤ 135432 →
    (s.lane n).ds.marked (s.lane n).ds.pos ((s.lane n).ds.pos + 8 + h.pli.toNat) = false →
    (s.lane n).ds.portEntry h.port = some e → h.key = 0#2 → portEnc e = false →
    exec (.xgemFrameRx n (.valid h) false payload) s = .next
      ((((s.modDs n fun d => { d with pos := d.pos + 8 + pad4 h.pli.toNat }).dsCnt n 17).dsCnt n 18 h.pli.toNat).reassemble n e h
        (padTo h.pli.toNat payload))) ∧
  -- an idle frame counts as idle unless bytes of it lie in an uncorrectable codeword: then it is an FEC drop (R117, R123)
  (∀ (s : State) (n : LaneId) (h : XgemHdr) (payload : List Byte), s.inSync n = true → (s.lane n).ds.delineated = true →
    (s.lane n).ds.pos + 8 + pad4 h.pli.toNat ≤ 135432 →
    exec (.xgemFrameRx n (.valid h) true payload) s = .next
      (let u := s.modDs n fun d => { d with pos := d.pos + 8 + pad4 h.pli.toNat }
       if (s.lane n).ds.marked (s.lane n).ds.pos ((s.lane n).ds.pos + 8 + h.pli.toNat) = true then
         (u.dsCnt n 21).toSump (quadOf n.val) 2 h.pli.toNat
       else u.dsCnt n 20)) ∧
  (∀ (s : State) (n : LaneId) (port : BitVec 16), (∃ r ∈ (s.lane n).ds.reasm, r.port = port) →
    exec (.reassemblyTimeout n port) s = .next (s.abandonSdu n port true)) ∧
  (∀ (s : State) (p : Port) (n : LaneId) (w : W32), s.reachesLane p n .rx → s.isLine n.val = true → laneItem (s.lane n).ds.winAddr < 0x100 →
    exec (.portTableWrite p n w) s = .next
      ((s.portWriteDs n (laneItem (s.lane n).ds.winAddr) w).modDs n fun d => { d with winAddr := laneWinStep d.winAddr }) ∧
    exec (.dsWinAccess p n (some w)) s = exec (.portTableWrite p n w) s) ∧
  (∀ (s : State) (p : Port) (n : LaneId), s.reachesLane p n .rx → s.isLine n.val = true → laneItem (s.lane n).ds.winAddr = 0x304 →
    exec (.dsWinAccess p n none) s = .next
      ((s.modDs n fun d => { d with winAddr := laneWinStep d.winAddr }).emit (.read p (s.lane n).ds.hlend)))

/-- A PLOAM message that has passed its checks and that R141 lists in its lane's state acts (R139, R141, R145, R147, R149, R151,
R155); one whose integrity check or sequence check fails has no effect but its removal and counter 0x21, with event 8n + 6 at every 16th
such failure (R147, R171).
The model's own choices in its clauses: assumptions 34, 94, 98. -/
def Obligations.PloamMessagesAct : Prop :=
  (∀ (s : State) (n : LaneId) (m : Ploam) (rest : List Ploam), s.stewardOn n = true → (s.lane n).ds.ploamQ = m :: rest →
    s.micOk n m = true → m.seqOk = true →
    (∀ (i : BitVec 2) (fec : Bool) (rep : Byte) (pre : Vector Byte 8) (delim : Vector Byte 8), m.body = .burstProfile i fec rep pre true delim →
      (s.lane n).act.state ≠ .o11 → (s.lane n).act.state ≠ .o12 → (s.lane n).act.state ≠ .o7 →
      exec (.burstProfileMsg n) s = .next ((s.popPloam n).modPump n fun x => { x with
        profiles := vset x.profiles i.toNat (some { fec := fec, rep := max 1 rep.toNat, pre := pre.toList, delim := delim.toList }) })) ∧
    (∀ (i : BitVec 2) (fec : Bool) (rep : Byte) (pre : Vector Byte 8) (d8 : Bool) (delim : Vector Byte 8),
      m.body = .burstProfile i fec rep pre d8 delim → (s.lane n).act.state = .o12 →
      ∃ t, exec (.burstProfileMsg n) s = .next t ∧ (t.lane n).act.state = .o23 ∧ (t.lane n).act.snRead = true ∧
        (t.lane n).act.snVendor = s.sys.snVendor ∧ (t.lane n).act.snVssn = s.sys.snBase + BitVec.ofNat 32 n.val) ∧
    (∀ (sn : W64) (id : BitVec 10), m.body = .assignOnuId sn id → (s.lane n).act.state = .o23 → sn = s.serial n →
      ∃ t, exec (.assignOnuId n) s = .next t ∧ (t.lane n).act.state = .o4 ∧ (t.lane n).act.regHeld = (s.lane n).act.regId ∧
        (t.lane n).ds.onuValid = true ∧ (t.lane n).pump.filter[0] = some { alloc := id.setWidth 14, dflt := true } ∧
        (t.lane n).act.to1 = some ((s.steward (quadFin n)).timer 0 100)) ∧
    (∀ e : W32, m.body = .rangingAbs e → (s.lane n).act.state = .o4 →
      exec (.rangingTime n) s = .next
        (((((s.popPloam n).modAct n fun a => { a with eqd := e, eqdHeld := true }).deriveTc n).setAct n .o51))) ∧
    (∀ d : Int, m.body = .rangingRel d → (s.lane n).act.state = .o51 → 0 ≤ ((s.lane n).act.eqd.toNat : Int) + d →
      ((s.lane n).act.eqd.toNat : Int) + d < 2 ^ 32 →
      exec (.rangingTime n) s = .next ((s.popPloam n).modAct n fun a => { a with eqd := BitVec.ofInt 32 ((a.eqd.toNat : Int) + d) })) ∧
    (∀ (ds us : BitVec 4) (sched : BitVec 51), m.body = .tuningControl false ds us sched →
      (s.lane n).act.state = .o51 ∨ (s.lane n).act.state = .o52 →
      (∀ r, (s.lane n).tuneRefusal ds sched = some r →
        exec (.tuningControl n) s = .next (((s.popPloam n).actCnt n 5).queuePloam n (.tuneNack r))) ∧
      ((s.lane n).tuneRefusal ds sched = none →
        exec (.tuningControl n) s = .next ((((s.popPloam n).setAct n .o52).modAct n fun a =>
          { a with tuning := some { ds := ds, us := us, sched := sched } }).queuePloam n .tuneAck))) ∧
    (∀ (ds us : BitVec 4) (t : Tuning), m.body = .channelProfile ds us true → (s.lane n).act.state = .o8 →
      (s.lane n).act.tuning = some t → t.ds = ds →
      exec (.channelProfile n) s = .next (((s.popPloam n).modAct n fun a => { a with profileSeen := true }).fromO8 n)) ∧
    (m.body = .deactivate → (s.lane n).act.state ≠ .o7 → exec (.deactivateOnuId n) s = .next ((s.popPloam n).exitTo11 n 3)) ∧
    (∀ (all : Bool) (sn : W64), m.body = .disableSn all false sn → all = true ∨ sn = s.serial n → (s.lane n).act.state ≠ .o7 →
      exec (.disableSerialNumber n) s = .next
        ((((s.popPloam n).setDisabled n true).modAct n fun a => { a with lastExit := 4, tuning := none }).setAct n .o7)) ∧
    (∀ (all : Bool) (sn : W64), m.body = .disableSn all true sn → all = true ∨ sn = s.serial n → (s.lane n).act.state = .o7 →
      (s.lane n).act.rogue = false →
      exec (.disableSerialNumber n) s = .next (((s.popPloam n).setDisabled n false).toO11 n)) ∧
    (∀ alloc : BitVec 14, m.body = .assignAllocId alloc true → (s.lane n).ds.onuValid = true → (s.lane n).act.state ≠ .o7 →
      (s.lane n).pump.filter = Vector.replicate 32 none → s.quadAllocs (quadOf n.val) < s.allocIds (quadOf n.val) →
      (s.lane n).act.acked m = false →
      exec (.assignAllocId n) s = .next ((s.popPloam n).modPump n fun x => { x with filter := vset x.filter 0 (some { alloc := alloc }) })) ∧
    (∀ (new : Bool) (k : BitVec 2) (b : Bool), m.body = .keyControl new k b → k = 1 ∨ k = 2 → (s.lane n).ds.onuValid = true →
      (s.lane n).act.state ≠ .o7 → (s.lane n).act.acked m = false →
      (new = false → exec (.keyControl n) s = .next ((s.popPloam n).emptyKey n (k.toNat - 1))) ∧
      -- a new key is a free value; its report is queued wrapped, and it waits for a random source that has failed (R155, R411)
      (new = true → s.key.trngFail = false →
        let key := beBytes 16 (s.freeBits 128).toNat
        let wrapped := Config.tcWrap ((s.tcKeyOf n 2).getD []) key
        exec (.keyControl n) s = .next (((s.popPloam n).tookFree.modAct n fun a =>
          { a with newKeys := a.newKeys ++ [{ k := k, key := key, wrapped := wrapped }] }).queuePloam n (.keyReport k wrapped))) ∧
      (new = true → s.key.trngFail = true →
        exec (.keyControl n) s = .next ((s.popPloam n).modAct n fun a => { a with keyWaits := a.keyWaits ++ [k] }))) ∧
    ((s.lane n).act.lists (s.lane n).ds.onuValid m = false → (s.lane n).act.acked m = false →
      exec (.ploamUnexpected n) s = .next ((s.popPloam n).actCnt n 0)) ∧
    -- in O9 a message that acknowledges the COMPLETE_u moves the lane to O5.1, after the effect it has of its own (R141)
    ((s.lane n).act.acked m = true →
      ((s.lane n).act.lists (s.lane n).ds.onuValid m = false → exec (.completeUAcknowledged n) s = .next ((s.popPloam n).tunedIn n)) ∧
      ((s.lane n).act.lists (s.lane n).ds.onuValid m = true → (((s.popPloam n).onPloam n m).lane n).act.state = .o9 →
        exec (.completeUAcknowledged n) s = .next (((s.popPloam n).onPloam n m).tunedIn n)))) ∧
  (∀ (s : State) (n : LaneId) (m : Ploam) (rest : List Ploam), s.stewardOn n = true → (s.lane n).ds.ploamQ = m :: rest →
    s.micOk n m = false ∨ m.seqOk = false →
    (m.body = .deactivate → exec (.deactivateOnuId n) s = .next ((s.popPloam n).micFail n)) ∧
    ((∃ a e sn, m.body = .disableSn a e sn) → exec (.disableSerialNumber n) s = .next ((s.popPloam n).micFail n)) ∧
    ((∃ a e, m.body = .assignOnuId a e) → exec (.assignOnuId n) s = .next ((s.popPloam n).micFail n)) ∧
    exec (.ploamUnexpected n) s = .next ((s.popPloam n).micFail n))

/-- The timers, tuning, scanning and the rogue trip (R141, R144, R152, R153, R155, R159).
The model's own choices in its clauses: assumptions 32, 33, 95. -/
def Obligations.ActivationConditionsAct : Prop :=
  (∀ (s : State) (n : LaneId), s.stewardOn n = true →
    ((s.lane n).act.state = .o4 → (s.lane n).act.to1.isSome = true → exec (.to1Expire n) s = .next (s.exitTo11 n 2)) ∧
    ((s.lane n).act.state = .o6 → (s.lane n).act.to2.isSome = true → exec (.to2Expire n) s = .next (s.exitTo11 n 1)) ∧
    ((s.lane n).act.state = .o8 → (s.lane n).act.to4.isSome = true → exec (.to4Expire n) s = .next (s.exitTo11 n 5)) ∧
    ((s.lane n).act.state = .o9 → (s.lane n).act.to5.isSome = true → exec (.to5Expire n) s = .next (s.exitTo11 n 5))) ∧
  -- the oldest new key whose report has left the queue is installed (R155)
  (∀ (s : State) (n : LaneId) (x : NewKey), s.stewardOn n = true →
    ((s.lane n).act.newKeys.find? fun x => !(s.lane n).act.reportWaits x) = some x →
    exec (.keyReportHandoff n) s = .next
      (((s.installKey n (x.k.toNat - 1) x.key).modAct n fun a => { a with newKeys := a.newKeys.erase x }).actCnt n 4)) ∧
  (∀ (s : State) (n : LaneId) (t : Tuning), s.stewardOn n = true → (s.lane n).act.tuning = some t → (s.lane n).act.state = .o52 →
    ((s.lane n).ds.sfc - t.sched).toNat < 2 ^ 50 →
    exec (.tuneScheduledCount n) s = .next (((s.setAct n .o8).modAct n fun a =>
      { a with tuned := false, profileSeen := false, to4 := some ((s.steward (quadFin n)).timer 16 10) }).postTune n t.ds t.us
        false)) ∧
  (∀ (s : State) (p : Port) (q : QuadId) (w : W32) (n : LaneId) (r : TuneReq), s.reaches p (0x10 + q.val) →
    fld w 16 2 = 1#2 ∨ fld w 16 2 = 2#2 → laneOf q (fld w 0 5).toNat = some n → s.isLine n.val = true →
    ((s.steward q).tuneReqs.find? fun r => r.slice == fld w 0 5 && r.seq == fld w 8 8) = some r →
    exec (.tuneAck p q w) s = .next (s.tuneAcked n r (fld w 16 2 == 1#2))) ∧
  (∀ (s : State) (n : LaneId) (c : BitVec 4), s.stewardOn n = true → (s.lane n).act.state = .o11 → (s.lane n).act.scan = true →
    (s.lane n).ds.sync ≠ .sync → (∀ r ∈ (s.steward (quadFin n)).tuneReqs, r.slice.toNat ≠ n.val % 24) →
    nextChannel (s.lane n).act.scanMask (s.lane n).act.scanFrom = some c →
    exec (.scanDwell n) s = .next (((s.tookFree.modAct n fun a => { a with scanning := true, scanCh := some c }).modCom n fun x =>
      ({ x with ctl := setBit x.ctl 2 true } : LaneCommon).judgeMode).postTune n c (s.freeBits 4) true)) ∧
  (∀ (s : State) (n : LaneId), s.isLine n.val = true →
    ∃ t, exec (.rogueTrip n) s = .next t ∧ (t.lane n).com.txen = false ∧ (t.lane n).act.rogue = true ∧ (t.lane n).act.lastExit = 6 ∧
      (t.lane n).act.state = .o7 ∧ (t.lane n).act.tuning = none)

/-- The stewards (R157, R159 to R165, R169): commands where they are accepted, and their completion.
The model's own choices in its clauses: assumptions 35, 57, 99. -/
def Obligations.StewardCommandsTakeEffect : Prop :=
  ∀ (s : State) (p : Port) (q : QuadId), s.reaches p (0x10 + q.val) →
    ((s.steward q).isBusy = false →
      exec (.loadFw p q) s = .next (s.modStw q fun x => { x with err := 0, busy := some .loadFw }) ∧
      exec (.commitFw p q) s = .next (s.modStw q fun x => { x with err := 0, busy := some .commitFw }) ∧
      (∀ force : Bool, (s.steward q).altValid = true →
        fwFormat ((s.steward q).image (s.steward q).runBank) = fwFormat ((s.steward q).image !(s.steward q).runBank) ∨ force = true →
        exec (.swapFw p q force) s = .next (s.modStw q fun x => { x with err := 0, swap := .pending force })) ∧
      (∀ (slice : BitVec 5) (n : LaneId), laneOf q slice.toNat = some n → s.isLine n.val = true →
        (∀ k : BitVec 2, k = 1 ∨ k = 2 →
          exec (.bcastKey p q slice k) s = .next (s.modStw q fun x => { x with err := 0, busy := some (.bcastKey slice k) })) ∧
        ((s.lane n).act.state = .o7 → s.disabled n = false →
          exec (.clearRogue p q slice) s = .next
            (((s.modStw q fun x => { x with err := 0 }).modAct n fun a => { a with rogue := false }).toO11 n)) ∧
        (s.disabled n = true → (s.lane n).act.state ≠ .o7 →
          ∃ t, exec (.clearDisable p q slice) s = .next t ∧ t.disabled n = false ∧ t.lane n = s.lane n) ∧
        (s.disabled n = true → (s.lane n).act.state = .o7 → (s.lane n).act.rogue = false →
          ∃ t u : State, exec (.clearDisable p q slice) s = .next t ∧ t = u.toO11 n ∧ u.disabled n = false ∧ u.lane n = s.lane n) ∧
        ((s.lane n).act.state ≠ .o7 →
          exec (.restartLane p q slice) s = .next ((s.modStw q fun x => { x with err := 0 }).exitTo11 n 7)))) ∧
    ((s.steward q).isBusy = true →
      (∀ (slice : BitVec 5) (k : BitVec 2), exec (.bcastKey p q slice k) s = .next (s.modStw q fun x => { x with err := 5 }) ∧
        exec (.clearRogue p q slice) s = .next (s.modStw q fun x => { x with err := 5 }) ∧
        exec (.clearDisable p q slice) s = .next (s.modStw q fun x => { x with err := 5 }) ∧
        exec (.restartLane p q slice) s = .next (s.modStw q fun x => { x with err := 5 })) ∧
      (∀ force : Bool, exec (.swapFw p q force) s = .next (s.modStw q fun x => { x with err := 5 })) ∧
      exec (.loadFw p q) s = .next (s.modStw q fun x => { x with err := 5 }) ∧
      exec (.commitFw p q) s = .next (s.modStw q fun x => { x with err := 5 }))

/-- What completes on its own in a steward and its optics master (R152, R162 to R164, R170, R173).
The model's own choices in its clauses: assumptions 36, 37, 100. -/
def Obligations.StewardConditionsAct : Prop :=
  ∀ (s : State) (q : QuadId),
    (∀ force : Bool, (s.steward q).swap = .pending force →
      (force = false ∨ fwFormat ((s.steward q).image (s.steward q).runBank) = fwFormat ((s.steward q).image !(s.steward q).runBank)) →
      exec (.swapFwHalt q) s = .next (s.modStw q fun x => { x with runBank := !x.runBank, swap := .checking })) ∧
    ((s.steward q).swap = .pending true →
      fwFormat ((s.steward q).image (s.steward q).runBank) ≠ fwFormat ((s.steward q).image !(s.steward q).runBank) →
      exec (.swapFwHalt q) s = .next ((s.modStw q fun x => { x with runBank := !x.runBank, swap := .checking }).restartLines q)) ∧
    ((s.steward q).swap = .checking → ∀ pass : Bool,
      exec (.swapFwCheck q pass) s = .next (State.report
        (s.modStw q fun x => { x with swap := .none, runBank := if pass then x.runBank else !x.runBank })
        (if pass then 950 + q.val else 954 + q.val) (if pass then 1 else 3)
        ({ (s.steward q) with runBank := if pass then (s.steward q).runBank else !(s.steward q).runBank } : Steward).versions)) ∧
    (s.isOn (dQuad q.val) = true → s.clocked = true → (s.steward q).altValid = true →
      exec (.stewardHeartbeatMiss q) s = .next (State.report
        ((s.modStw q fun x => { x with runBank := !x.runBank, swap := .none }).restartLines q) (954 + q.val) 3
        ({ (s.steward q) with runBank := !(s.steward q).runBank } : Steward).versions)) ∧
    (s.isOn (dQuad q.val) = true →
      ((s.steward q).busy = some .commitFw → ∀ bytes : List Byte,
        exec (.stwCmdDone q bytes true) s = .next (State.modStw
          { s with vault := { s.vault with fw := vset s.vault.fw q.val ((s.steward q).image (s.steward q).runBank) } } q
          fun x => { x with busy := none, err := 0 }) ∧
        exec (.stwCmdDone q bytes false) s = .next (s.modStw q fun x => { x with busy := none, err := 8 })) ∧
      (∀ (slice : BitVec 5) (k : BitVec 2) (n : LaneId) (kek bytes : List Byte) (ok : Bool),
        (s.steward q).busy = some (.bcastKey slice k) → laneOf q slice.toNat = some n → s.tcKeyOf n 2 = some kek →
        exec (.stwCmdDone q bytes ok) s = .next (
          match Config.tcUnwrap kek ((s.steward q).data.toList.flatMap fun w => leBytes 4 w.toNat) with
          | some key => (s.modStw q fun x => { x with busy := none, err := 0 }).installKey n (k.toNat + 1) key
          | none => s.modStw q fun x => { x with busy := none, err := 7 })) ∧
      ((s.steward q).busy = some .loadFw → ∀ bytes : List Byte,
        exec (.stwCmdDone q bytes true) s = .next (
          if bytes.length ≠ (s.steward q).fwLen.toNat ∨ fwHeaderOk bytes = false then
            s.modStw q fun x => { x with busy := none, err := 1, altValid := false }
          else if fwSigned s.vault bytes = false then s.modStw q fun x => { x with busy := none, err := 2, altValid := false }
          else s.modStw q fun x => { x with
            busy := none, err := 0, altValid := true
            bank := vset x.bank (if x.runBank then 0 else 1) (some (fwImage bytes)) }))) ∧
    (∀ (p : Port) (w : W32), s.reaches p (0x10 + q.val) → (s.steward q).optBusy = false → bit w 20 = true →
      let len := min 4 (max 1 (fld w 16 3).toNat)
      let rd := bit w 19
      exec (.optGo p q w) s = .next
        ((s.modStw q fun x => { x with
          optCtl := rw 0x002FFF7F#32 w, optBusy := true, optRun := if rd then some len else none }).emit
          (.optics q (fld w 0 7) (fld w 8 8) rd len (bit w 21) (if rd then [] else leBytes len (s.steward q).optWdata.toNat)))) ∧
    ((s.steward q).optBusy = true → ∀ rdata : W32,
      exec (.optDone q true rdata) s = .next (s.modStw q fun x => { x with optBusy := false, optNack := true }) ∧
      ((s.steward q).optRun = none →
        exec (.optDone q false rdata) s = .next (s.modStw q fun x => { x with optBusy := false, optDone := true })) ∧
      -- the bytes that a read returned stand in QD_OPT_RDATA_q, first in [7:0] (R173)
      (∀ len : Nat, (s.steward q).optRun = some len → len ≤ 4 →
        ∃ t, exec (.optDone q false rdata) s = .next t ∧ (t.steward q).optBusy = false ∧ (t.steward q).optDone = true ∧
          ∀ i : Nat, i < 8 * len → bit (t.steward q).optRdata i = bit rdata i) ∧
      exec (.optTimeout q) s = .next (s.modStw q fun x => { x with optBusy := false, optTimeout := true })) ∧
    (∀ (p : Port) (w : W32) (n : LaneId), s.reaches p (0x10 + q.val) → s.stwSel q = some n → s.stwItem q = 3 →
      exec (.stwLaneData p q none) s = .next ((s.stwSelStep q).emit (.read p (s.lane n).act.teqd)) ∧
      exec (.stwLaneData p q (some w)) s = .next ((s.modAct n fun a => { a with teqd := w }).stwSelStep q))

/-- The pump of a line lane (R174, R176, R177, R179, R183, R184, R193, R195): each command where it acts.
The model's own choices in its clauses: assumptions 29, 38, 39, 40, 90. -/
def Obligations.PumpCommandsTakeEffect : Prop :=
  (∀ (s : State) (n : LaneId) (ns : Nat) (g : GrantIn) (t : List GrantIn) (b : Burst), s.isLine n.val = true →
    (s.lane n).pump.grantQ = g :: t → (s.lane n).act.state ≠ .o23 →
    b = { id := (s.lane n).pump.nextId, grants := (g :: contGrants g t).map (·.grant), ploamu := g.a.ploamu, profile := g.a.profile,
          start := g.a.start.toNat, frame := g.frame, sfc := g.sfc } →
    let u := s.modPump n fun p => { p with grantQ := t.drop (contGrants g t).length }
    (u.burstAllowed n b = false → exec (.grant n ns) s = .next (u.usCnt n 4 b.grants.length)) ∧
    (∀ (c : Nat) (cause : BitVec 3), u.burstAllowed n b = true → u.refuseBurst n g (contGrants g t) b ns = some (c, cause) →
      exec (.grant n ns) s = .next (u.grantError n c b.grants.length cause)) ∧
    (∀ pr : Profile, u.burstAllowed n b = true → u.refuseBurst n g (contGrants g t) b ns = none →
      vget none (u.lane n).pump.profiles b.profile.toNat = some pr →
      exec (.grant n ns) s = .next (u.acceptBurst n g.a.ploamu (b.timed (u.lane n) pr)))) ∧
  (∀ (s : State) (n : LaneId) (j : Nat) (e : Queued), s.isLine n.val = true → s.grantedQueue n j = true → s.cstRoom 2 = true →
    ((s.tm (quadOf n.val) false).queue j).frames.find? Queued.inCistern = some e →
    exec (.cisternToTroughMove n j) s = .next (State.floatsAll
      ((s.request 2 false (linesOf (e.frame.bytes.length - e.sent))).modTm (quadOf n.val) false fun t =>
        t.modQueue j fun x => { x with frames := moveFirst x.frames }))) ∧
  (∀ (s : State) (n : LaneId) (b : Burst), (s.lane n).pump.first .granted = some b →
    (s.burstAllowed n b = false → exec (.burstAssemble n) s = .next (s.discardBurst n b.id 4)) ∧
    (s.burstAllowed n b = true → vget none (s.lane n).pump.profiles b.profile.toNat = none →
      exec (.burstAssemble n) s = .next (s.discardBurst n b.id 8)) ∧
    (∀ pr : Profile, s.burstAllowed n b = true → vget none (s.lane n).pump.profiles b.profile.toNat = some pr →
      exec (.burstAssemble n) s = .next (s.assemble n b pr))) ∧
  (∀ (s : State) (n : LaneId) (j keep : Nat), s.isLine n.val = true → s.grantedQueue n j = true →
    bytesBefore ((s.tm (quadOf n.val) false).queue j).frames = some keep →
    exec (.lateCisternFrame n j) s = .next (State.usCnt
      ((s.modPump n fun p => { p with bursts := keepBursts j p.bursts keep }).modTm (quadOf n.val) false fun t =>
        t.modQueue j fun x => { x with frames := rechoose x.frames keep }) n 16)) ∧
  (∀ (s : State) (n : LaneId) (b : Burst), (s.lane n).pump.first .assembling = some b →
    (s.noTx n = true → exec (.burstServe n) s = .next (s.discardBurst n b.id 9)) ∧
    (s.noTx n = false → s.suppressed n = true → exec (.burstServe n) s = .next (s.discardBurst n b.id 2)) ∧
    (s.noTx n = false → s.suppressed n = false →
      let u := (s.putBurst n (b.activated (s.lane n).com (setBit b.ind 0 (s.wel.pfailSeen && (s.lane n).pump.dgEn)))).modCom n fun c =>
        { c with txen := true, txHeld := if (s.lane n).serving then c.txHeld else c.txCfg, inject := none }
      ((s.lane n).act.state.silent = false → exec (.burstServe n) s = .next u) ∧
      -- in a state in which TXEN_L_n may not go active the watchdog trips (R159)
      ((s.lane n).act.state.silent = true → exec (.burstServe n) s = .next (u.rogueTrip n)))) ∧
  (∀ (s : State) (n : LaneId) (b : Burst), (s.lane n).pump.first .serving = some b →
    exec (.burstEnd n) s = .next (
      let r := State.sendGrants n b b.filled (s.ploamuLeft n b) (4 + (if b.ploamu then 48 else 0))
      let onu : BitVec 10 := if b.serial then 0x3FF#10 else (r.1.lane n).ds.onuId
      let u := r.1.emit (.burst n onu b.ind (if b.ploamu then some b.msg else none) r.2 (b.shape (r.1.lane n).com)
        (r.1.burstWire n b onu r.2))
      let u := ((u.sendInverted n b.inject).usCnt n 1).modPump n fun p => { p with bursts := p.bursts.filter fun x => x.id != b.id }
      -- TXEN_L_n stays active where the next burst's is already (R79)
      ((u.modCom n fun c => { c with txen := (u.lane n).serving, txHeld := c.txCfg }).darkLeft (quadOf n.val)).powerSettle.floatsAll)) ∧
  (∀ (s : State) (p : Port) (n : LaneId), s.reachesLane p n .common → s.isLine n.val = true →
    exec (.usCntClr p n) s = .next (s.modPump n fun x => { x with cnt := Vector.replicate 23 0 }) ∧
    (∀ w : W32, laneItem (s.lane n).pump.winAddr < 0x20 →
      exec (.usWinAccess p n (some w)) s = .next (s.modPump n fun x => { x with
        winAddr := laneWinStep x.winAddr
        filter := vmod x.filter (laneItem x.winAddr) fun e => e.map fun e => { e with nofrag := bit w 16 } })) ∧
    (∀ e : AllocEntry, laneItem (s.lane n).pump.winAddr < 0x20 →
      vget none (s.lane n).pump.filter (laneItem (s.lane n).pump.winAddr) = some e →
      exec (.usWinAccess p n none) s = .next
        ((s.modPump n fun x => { x with winAddr := laneWinStep x.winAddr }).emit (.read p e.word))))

/-- Bond-control messages and the member state machine (R201 to R203, R209). A message counts as right by its MIC, which only the head
end's key tells.
The model's own choices in its clauses: assumption 43. -/
def Obligations.BondCommandsTakeEffect : Prop :=
  (∀ (s : State) (n : LaneId) (b : List Byte) (rest : List (List Byte)) (g : Nat), s.isLine n.val = true →
    s.isOn (dQuad (quadOf n.val)) = true → (s.lane n).ds.bondQ = b :: rest → s.groupOf n.val = some g →
    (∀ m : BondMsg, parseBond (s.tcKey n 0) b = some m →
      (let u := s.modDs n fun d => { d with bondQ := rest }
       (m.type = 2 → s.mstate n = .probe → s.joinResult n m ≠ 0 →
        exec (.bondJoin n) s = .next
          ((u.sendBond n 3 m.token none (some m.txn) [s.joinResult n m]).modBond n fun b => { b with caps := 0 })) ∧
       (m.type = 2 → s.mstate n = .probe → s.joinResult n m = 0 →
        exec (.bondJoin n) s = .next (
          let v := u.modGroup g fun x => { x with token := m.token, joinSkew := some (x.joinSkew.getD (byteAt m.body 1).toNat) }
          let v := v.modBond n fun b => { b with pos := some (m.pos.setWidth 6), bypass := !bit (byteAt m.body 2) 0, caps := 0 }
          (v.setMember n .joined).sendBond n 3 m.token (some (m.pos.setWidth 6)) (some m.txn) [0])) ∧
       (m.type = 4 → s.mstate n = .joined → exec (.bondHello n) s = .next (u.memberUp n g)) ∧
       (m.type = 5 → s.mstate n ≠ .idle →
        exec (.bondLeave n) s = .next (((u.freePos n).modBond n fun b => { b with caps := 0 }).setMember n .probe)) ∧
       (m.type = 6 → s.mstate n = .probe → exec (.bondIndep n) s = .next (u.setMember n .indep)))) ∧
    (b.length ≠ 48 → exec (.bondMessageDrop n) s = .next ((s.modDs n fun d => { d with bondQ := rest }).grpCnt g 7))) ∧
  (∀ (s : State) (n : LaneId), s.isOn (dQuad (quadOf n.val)) = true →
    (s.mstate n = .probe → exec (.bondCapsTimer n) s = .next (if 5 ≤ (s.lane n).bond.caps then s.setMember n .indep else s.sendCaps n)) ∧
    (∀ g : Nat, s.mstate n = .joined ∨ s.mstate n = .up ∨ s.mstate n = .skewed → s.groupOf n.val = some g →
      exec (.bondHelloTx n) s = .next
        (s.sendBond n 4 (s.group g).token (s.lane n).bond.pos none (beBytes 4 (s.lane n).bond.lag))) ∧
    (s.mstate n = .joined →
      exec (.bondHelloTimeout n) s = .next
        ((((s.freePos n).modBond n fun b => { b with caps := 0 }).setMember n .probe).sendCaps n)) ∧
    (∀ g : Nat, s.mstate n = .up ∨ s.mstate n = .skewed → s.groupOf n.val = some g →
      exec (.bondHelloTimeout n) s = .next ((s.grpCnt g 5).setMember n .lost)) ∧
    (s.isLine n.val = true → (s.groupOf n.val).isSome = true → s.mstate n = .idle → (s.lane n).act.state = .o51 → s.bondPort n = false →
      exec (.bondProbeTimeout n) s = .next (s.setMember n .indep))) ∧
  (∀ (s : State) (n : LaneId) (g : Nat), s.groupOf n.val = some g → s.inSync n = true → s.mstate n ≠ .up → s.mstate n ≠ .skewed →
    exec (.bondPsyncStamp n) s = .next (((s.modBond n fun b => { b with seen := some (s.lane n).ds.sfc }).modGroup g fun x => { x with
      stamps := ((s.lane n).ds.sfc, n.val, (s.tim.count.toNat : Int)) ::
        (x.stamps.filter fun y => nearFrame (s.lane n).ds.sfc y.1 && decide (y.2.1 ≠ n.val ∨ y.1 ≠ (s.lane n).ds.sfc))
      }).modBond n fun b => { b with lag := 0 }))

/-- Bond groups, the skew engine and the spread domains (R197 to R200, R203, R206 to R208, R210, R213, R216, R217, R221 to R224): each
command where it acts.
The model's own choices in its clauses: assumptions 44, 45, 83. -/
def Obligations.GroupCommandsTakeEffect : Prop :=
  (∀ (s : State) (n : LaneId) (g : Nat) (u : Sdu) (rest : List Sdu), (s.lane n).ds.sduQ = u :: rest → s.groupOf n.val = some g →
    s.carries n = true → s.cst.mode ≠ .offline →
    ((s.group g).lastReleased = none ∨ ∃ r, (s.group g).lastReleased = some r ∧ tagAfter u.tag r = true) →
    let v := (s.modDs n fun d => { d with sduQ := rest }).modBond n fun b => { b with rejoin := false }
    ((s.group g).buffered n.val + u.bytes.length ≤ s.skewPart g → s.cstRoom 0 = true →
      exec (.skewSduWrite n) s = .next
        ((v.request 0 true (linesOf u.bytes.length)).modGroup g fun x => { x with buffer := x.buffer ++ [u] })) ∧
    -- a member's full part of the region drops the SDU (R207)
    (s.skewPart g < (s.group g).buffered n.val + u.bytes.length →
      exec (.skewSduWrite n) s = .next ((v.grpCnt g 4).toSump (quadOf u.lane) 3 u.bytes.length))) ∧
  (∀ (s : State) (g : GroupId) (r : BitVec 51), g.val < 8 → (s.group g.val).en = true → (s.group g.val).lastReleased = some r →
    s.allSeen g.val (r + 1 + 1) = true → ((s.memberLanes g.val).any fun n => s.mstate n == .up) = true →
    exec (.skewSlotRelease g) s = .next (State.grpCnt
      (((s.slotSdus g.val (r + 1)).foldl (fun s u => s.releaseSdu g.val u) s).modGroup g.val fun x =>
        { x with lastReleased := some (r + 1), buffer := x.buffer.filter fun u => u.tag != r + 1 }) g.val 0 (s.slotSdus g.val (r + 1)).length)) ∧
  (∀ (s : State) (p : Port) (g : GroupId) (w : W32), s.reaches p 9 → s.cst.grp = g.val → s.cst.grpItem = 0 →
    (bit w 0 = true → s.feature (groupFeature g.val) = false → exec (.groupEnable p g w) s = .next { s with cst := s.cst.grpStep }) ∧
    (bit w 0 = true → (s.group g.val).en = false → s.feature (groupFeature g.val) = true →
      let u := s.modGroup g.val fun x => { x with w0 := setBit (w &&& groupMask) 0 false }
      (u.refuseGroup g.val (u.group g.val) = none →
        exec (.groupEnable p g w) s = .next { u.groupUp g.val with cst := (u.groupUp g.val).cst.grpStep }) ∧
      (∀ c : BitVec 3, u.refuseGroup g.val (u.group g.val) = some c →
        exec (.groupEnable p g w) s = .next { u with cst := ({ u.cst with skwRefused := true, skwCause := c } : Cistern).grpStep })) ∧
    (bit w 0 = false → (s.group g.val).en = true →
      exec (.groupDisable p g w) s = .next (
        let v := (s.groupDown g.val).modGroup g.val fun x => { x with w0 := w &&& groupMask }
        { v with cst := v.cst.grpStep })) ∧
    (bit w 0 = false ∨ s.feature (groupFeature g.val) = true →
      exec (.grpDataAccess p (some w)) s = .next { s.groupCtl g.val w with cst := (s.groupCtl g.val w).cst.grpStep })) ∧
  (∀ (s : State) (p : Port) (g : GroupId), s.reaches p 9 → g.val < 8 → s.cst.grp = g.val → s.cst.grpItem = 8 → bit s.cst.grpSel 17 = true →
    exec (.grpDataAccess p none) s = .next
      (State.emit { s with cst := { s.cst with grpSel := putFld s.cst.grpSel 8 (fld s.cst.grpSel 8 9 + 1#9) } }
        (.read p (s.group g.val).skew))) ∧
  (∀ (s : State) (p : Port) (w : W32) (n : LaneId), s.reaches p 9 → (fld w 0 7).toNat = n.val → bit w 7 = true → s.mstate n = .indep →
    exec (.skwRestart p w) s = .next ((s.setMember n .idle).probe n)) ∧
  (∀ (s : State) (g : GroupId), 8 ≤ g.val → (s.group g.val).en = true → (s.group g.val).gstate = .fail →
    s.anyFailed (s.group g.val) = false →
    exec (.vcatRecover g) s = .next (s.setGState g.val .full 1 none)) ∧
  (∀ (s : State) (g : GroupId) (pos : Fin 64) (f : VcatFrame) (n : LaneId), 8 ≤ g.val → (s.group g.val).en = true →
    (s.group g.val).seqValid pos.val = true → (s.group g.val).seqLane pos.val = n.val → s.sdhOn n = true → (s.lane n).com.sigdet = true →
    (s.lane n).sdh.lof = false → (vget {} (s.lane n).sdh.au ((s.group g.val).seqAu pos.val)).ais.on = false →
    (vget {} (s.lane n).sdh.au ((s.group g.val).seqAu pos.val)).lop.on = false →
    exec (.vcatMemberFrame g pos f) s = .next (
      let v : VcatMember := (s.group g.val).vm[pos.val]
      let v' := v.rx pos.val (s.delayOf (s.group g.val) f.mfi) (s.effSkew g.val) f
      let u := s.modGroup g.val fun x => { x with vm := x.vm.set pos.val v' }
      ((u.vcatEntered n g.val v v').vcatAlign g.val f.mfi).judgeVcat g.val (some n.val)))

/-- The spread domains' commands (R210, R213, R224). REMAP renames a lane in every domain, FILL lays a domain's 256 entries over the members
in UP by ascending POS, and while one runs a write of TBL_SPR_DATA is refused with ERR 1. -/
def Obligations.SpreadCommandsTakeEffect : Prop :=
  (∀ (s : State) (p : Port) (a b : BitVec 7), s.reaches p 10 → s.tbl.sprBusy = none → b.toNat < 96 → s.isLine b.toNat = true →
    exec (.spreadRemap p a b) s = .next { s with tbl := { s.tbl with sprBusy := some (.remap a b), sprErr := 0 } }) ∧
  (∀ (s : State) (p : Port) (d : BitVec 6) (g : BitVec 4), s.reaches p 10 → s.tbl.sprBusy = none → s.fillLanes g.toNat ≠ [] →
    exec (.spreadFill p d g) s = .next { s with tbl := { s.tbl with sprBusy := some (.fill d g), sprErr := 0 } }) ∧
  (∀ (s : State) (a b : BitVec 7), s.tbl.sprBusy = some (.remap a b) →
    ∃ t, exec .spreadCmdDone s = .next t ∧ t.tbl.sprBusy = none ∧ Only [.tbl] s t ∧
      ∀ (d : Fin 64) (e : Fin 256), t.tbl.spread[d.val].key = s.tbl.spread[d.val].key ∧
        t.tbl.spread[d.val].entries[e.val] =
          (if bit s.tbl.spread[d.val].entries[e.val] 7 = true ∧ fld s.tbl.spread[d.val].entries[e.val] 0 7 = a then
            putFld s.tbl.spread[d.val].entries[e.val] 0 b else s.tbl.spread[d.val].entries[e.val])) ∧
  (∀ (s : State) (d : BitVec 6) (g : BitVec 4), s.tbl.sprBusy = some (.fill d g) → s.fillLanes g.toNat ≠ [] →
    ∃ t, exec .spreadCmdDone s = .next t ∧ t.tbl.sprBusy = none ∧ Only [.tbl] s t ∧
      (∀ e : Fin 256, t.tbl.spread[d.toNat].entries[e.val] =
        BitVec.ofNat 8 (128 + ((s.fillLanes g.toNat).map (·.val)).getD (e.val % (s.fillLanes g.toNat).length) 0)) ∧
      ∀ c : Fin 64, c.val ≠ d.toNat → t.tbl.spread[c.val] = s.tbl.spread[c.val]) ∧
  (∀ (s : State) (p : Port) (w : W32), s.reaches p 10 → bit s.tbl.sprAddr 17 = false → bit s.tbl.sprAddr 16 = false →
    (s.tbl.sprBusy = none → exec (.sprDataAccess p (some w)) s = .next { s with tbl := { s.tbl with
      spread := vmod s.tbl.spread s.tbl.sprDomain fun d => { d with entries := vset d.entries s.tbl.sprEntry (fld w 0 8) } } }) ∧
    (s.tbl.sprBusy.isSome = true → exec (.sprDataAccess p (some w)) s = .next { s with tbl := { s.tbl with sprErr := 1 } }) ∧
    exec (.sprDataAccess p none) s = .next (s.emit (.read p
      ((vget 0 (vget {} s.tbl.spread s.tbl.sprDomain).entries s.tbl.sprEntry).setWidth 32))))

/-- Ethernet client ports (R75, R81, R87, R226 to R232, R234 to R238, R240, R241, R478): each command where it acts.
The model's own choices in its clauses: assumptions 46, 47, 82, 101. -/
def Obligations.EthernetCommandsTakeEffect : Prop :=
  (∀ (s : State) (n : LaneId) (f0 f1 : Bool), s.ethOn n = true → (s.lane n).eth.link = .an →
    exec (.anComplete n true f0 f1) s = .next (s.modEth n fun e => { e with
      link := .lock, anDone := true, lpKr := true, lpF0 := f0, lpF1 := f1, fecOn := s.fec74 n.val && f0 && (e.fecReq || f1) })) ∧
  (∀ (s : State) (n : LaneId), s.ethOn n = true → (s.lane n).eth.link = .lock → (s.quad (quadFin n)).xoff = false →
    exec (.linkUpTimer n) s = .next (((s.modEth n fun e => { e with
      link := .up, linkSeen := true, blockLock := true, hiBer := false, lfRx := false, rfRx := false, sendRf := false
      sendIdle := false, fecUnc := 0 }).report (laneEv n 6) 1).judgeLock n)) ∧
  (∀ (s : State) (n : LaneId) (hiBer : Bool), s.ethOn n = true → (s.lane n).eth.link = .up →
    exec (.blockLockLost n hiBer) s = .next
      (((s.modEth n fun e => { (e.unlock hiBer).leaveUp with link := .lock }).report (laneEv n 1) 2).sendFault n true)) ∧
  (∀ (s : State) (n : LaneId) (l r : Bool), s.ethOn n = true → (s.lane n).eth.link = .up → l = true ∨ r = true →
    exec (.faultOrderedSet n l r) s = .next
      (((s.modEth n fun e => { e.leaveUp with lfRx := l, rfRx := r, faultLeft := faultBlocks, link := .lock }).report (laneEv n 6)
        1).sendFault n false)) ∧
  -- in LOCK what comes is discarded and counted, a block at a time (R226)
  (∀ (s : State) (n : LaneId), s.ethOn n = true → (s.lane n).eth.link = .lock →
    (∀ l r : Bool, l = true ∨ r = true → exec (.faultOrderedSet n l r) s = .next
      ((s.modEth n fun e => { e with lfRx := l, rfRx := r, faultLeft := faultBlocks }).ethCnt n 9)) ∧
    (∀ hiBer : Bool, exec (.blockLockLost n hiBer) s = .next (s.modEth n fun e => e.unlock hiBer)) ∧
    (∀ f : EthRx, s.isHead n = false → (s.lane n).eth.fecOn = false →
      exec (.ethFrameRx n f) s = .next (s.ethCnt n 9 (f.bytes.length / 8 + 2)))) ∧
  (∀ (s : State) (p : Port) (n : LaneId), s.reachesLane p n .common → s.isEth n.val = true →
    exec (.anRestart p n) s = .next ((s.ethDown n).ethStart n) ∧
    (∀ w : W32, exec (.pauseCfgWrite p n w) s = .next (s.pauseWrite n w)) ∧
    exec (.ethCntClr p n) s = .next (s.modEth n fun e => { e with cnt := Vector.replicate 22 0 }) ∧
    (∀ w : W32, s.ethKind n 0x14 = .common →
      exec (.ethWinAccess p n (some w)) s = .next (s.modEth n fun e =>
        { e.itemWrite (laneItem e.winAddr) w with winAddr := laneWinStep e.winAddr }))) ∧
  (∀ (s : State) (n : LaneId) (f : EthRx), s.ethOn n = true → s.isHead n = false → (s.lane n).eth.link = .up →
    let u := s.fecBlocks n f.corrected f.uncorrected
    (∀ c : Nat, (s.lane n).eth.badFrame f = some c →
      exec (.ethFrameRx n f) s = .next ((u.ethCnt n c).toSump (quadOf n.val) 0 f.bytes.length)) ∧
    ((s.lane n).eth.badFrame f = none → s.wakeTests n = false → f.bytes.length ≤ s.troughRoom (quadOf n.val) →
      (beAt f.bytes 12 2 = 0x8808 → exec (.ethFrameRx n f) s = .next (u.macControl n f.bytes)) ∧
      (beAt f.bytes 12 2 ≠ 0x8808 →
        exec (.ethFrameRx n f) s = .next (State.floats
          (((u.ethCnt n 0).ethCnt n 1 f.bytes.length).toParser (quadOf n.val)
            { lane := n.val, down := false, bytes := f.bytes, stamp := some (s.rxStamp n) }) (quadOf n.val))))) ∧
  (∀ (s : State) (n : LaneId) (m : FlowMsg), (s.lane n).eth.link = .up → s.isOn (dTx n.val) = true → (s.lane n).com.genEn = false →
    s.txIdle n = false → (s.lane n).eth.pendingFlow = some m →
    exec (.pauseTx n) s = .next (
      let e := (s.lane n).eth
      let pri := if m.xoff then fld e.pause 8 8 else m.pri
      let pfc := if m.pfc then some pri else none
      let time := if m.xoff then e.quanta else 0
      ((s.modEth n fun e => { e with pendingFlow := none, xoff := m.xoff, xoffPfc := m.pfc, xoffPri := pri }).ethCnt n
        (if m.xoff = false then 16 else if m.pfc then 15 else 14)).emit
        (.pause n pfc time (e.flowFrame pfc time)))) ∧
  -- the frame that Annex 31B and 802.1Qbb give goes to 01-80-C2-00-00-01 from the port's source address (R234)
  (∀ (e : EthPort) (pfc : Option Byte) (time : BitVec 16),
    (e.flowFrame pfc time).take 14 = [0x01#8, 0x80#8, 0xC2#8, 0, 0, 0x01#8] ++ beBytes 6 e.sa.toNat ++ [0x88#8, 0x08#8]) ∧
  (∀ (s : State) (n : LaneId), s.ethOn n = true → (s.quad (quadFin n)).xoff = true → (s.lane n).eth.xoff = true →
    exec (.pauseRefresh n) s = .next (s.modEth n fun e => e.flow (s.feature 15))) ∧
  (∀ (s : State) (n : LaneId) (c : Fin 8),
    exec (.pauseExpire n none) s = .next (s.modEth n fun e => { e with peerPause := none }) ∧
    exec (.pauseExpire n (some c)) s = .next (s.modEth n fun e => { e with peerPfc := e.peerPfc.set c.val none })) ∧
  (∀ (s : State) (n : LaneId) (corr unc : Nat), s.ethOn n = true → (s.lane n).eth.link = .up → (s.lane n).eth.fecOn = true →
    exec (.ethFecWindow n corr unc) s = .next (State.reportIf
      (((s.ethCnt n 17 corr).ethCnt n 18 unc).modEth n fun e => { e with fecUnc := 0 })
      (decide (fld (s.lane n).eth.ctl 24 8 ≠ 0#8 ∧ (fld (s.lane n).eth.ctl 24 8).toNat ≤ (s.lane n).eth.fecUnc + unc)) (laneEv n 2) 1)) ∧
  (∀ (s : State) (n : LaneId), s.isOn (dQuad (quadOf n.val)) = true → s.isEth n.val = true → (s.lane n).com.genEn = false →
    (s.lane n).eth.link = .up → s.isOn (dTx n.val) = true → s.txIdle n = false →
    ((s.lane n).eth.pendingFlow = none → ∀ (x : Nat × Queued), (s.pickDown n).2 = some x →
      let u := (s.pickDown n).1
      let out := macFrame x.2.frame.bytes
      ((u.lane n).eth.maxFrm < x.2.frame.bytes.length →
        exec (.ethTxFrame n) s = .next ((u.ethCnt n 19).toSump (quadOf n.val) 19 x.2.frame.bytes.length)) ∧
      (x.2.frame.bytes.length ≤ (u.lane n).eth.maxFrm →
        exec (.ethTxFrame n) s = .next (
          let g := (u.lane n).eth.gap out.length
          (((((u.modEth n fun e => { e with deficit := g.2 }).ethCnt n 12).ethCnt n 13 out.length).flushInject n).noteTag n
            x.2.frame.txTag).emit (.frame n out (pcsBlocks out) g.1)))) ∧
    -- a flow-control frame that waits goes ahead of every data frame (R232)
    ((s.lane n).eth.pendingFlow.isSome = true → exec (.ethTxFrame n) s = .next s)) ∧
  (∀ (s : State) (n : LaneId) (j : Nat) (x : Queued) (rest : List (Nat × Queued)), s.isOn (dQuad (quadOf n.val)) = true →
    s.isEth n.val = true → s.downHeads n = (j, x) :: rest →
    ((s.lane n).eth.link ≠ .up → exec (.ethTxFrame n) s =
      .next (((s.ethCnt n 20).toSump (quadOf n.val) 19 x.frame.bytes.length).popDown n j)) ∧
    ((s.lane n).eth.link = .up → (s.lane n).com.genEn = true → exec (.ethTxFrame n) s =
      .next ((s.toSump (quadOf n.val) 20 x.frame.bytes.length).popDown n j)) ∧
    ((s.lane n).eth.link = .up → (s.lane n).com.genEn = false → s.txIdle n = true → exec (.ethTxFrame n) s = .next s))

/-- SDH client ports (R250 to R253, R258 to R265, R267, R268, R270, R273): each command where it acts.
The model's own choices in its clauses: assumptions 75, 76, 101. -/
def Obligations.SdhCommandsTakeEffect : Prop :=
  (∀ (s : State) (n : LaneId), s.sdhOn n = true →
    (∀ pos : Nat, (s.lane n).com.sigdet = true → (s.lane n).com.cdrLock = true → (s.lane n).sdh.frm ≠ .inFrame →
      (s.lane n).sdh.cands.length < 8 →
      exec (.sdhCandidate n pos 0xF6F6F6282828#48) s = .next
        (s.modSdh n fun x => { x with frm := .presync, cands := x.cands ++ [pos] })) ∧
    (∀ pos : Nat, (s.lane n).com.sigdet = true → (s.lane n).com.cdrLock = true → (s.lane n).sdh.frm ≠ .inFrame →
      8 ≤ (s.lane n).sdh.cands.length →
      exec (.sdhCandidate n pos 0xF6F6F6282828#48) s = .next (s.modSdh n fun x => { x with candLost := x.candLost + 1 })) ∧
    (∀ pos : Nat, (s.lane n).sdh.frm = .presync → pos ∈ (s.lane n).sdh.cands →
      exec (.sdhCheckPoint n pos 0xF6F6F6282828#48) s = .next
        ((s.modSdh n fun x => { x with frm := .inFrame, cands := [], misses := 0 }).judgeLock n) ∧
      ∀ bits : BitVec 48, bits ≠ 0xF6F6F6282828#48 → exec (.sdhCheckPoint n pos bits) s = .next (s.modSdh n fun x => { x with
        cands := x.cands.filter fun c => c != pos
        frm := if (x.cands.filter fun c => c != pos).isEmpty then .hunt else .presync })) ∧
    (∀ f : List Byte, (s.lane n).sdh.frm = .inFrame → patternOk f = false → (s.lane n).sdh.misses = 3 →
      exec (.sdhFrame n f) s = .next ((s.sdhHunt n).sdhCnt n 1)) ∧
    (∀ f : List Byte, (s.lane n).sdh.frm = .inFrame → patternOk f = true ∨ (s.lane n).sdh.misses ≠ 3 →
      exec (.sdhFrame n f) s = .next (s.sdhFrameIn n f)) ∧
    ((s.lane n).com.sigdet = true → (s.lane n).sdh.frm ≠ .inFrame → (s.lane n).sdh.lof = false →
      exec (.sdhLofTimer n) s = .next
        ((((((s.modSdh n fun x => { x with lof := true }).sdhCnt n 2).report (laneEv n 1) 2).pathsAfresh n).pmDefect n).judgeVcats n)) ∧
    ((s.lane n).com.sigdet = true → (s.lane n).sdh.frm = .inFrame → (s.lane n).sdh.lof = true →
      exec (.sdhLofTimer n) s = .next (((s.modSdh n fun x => { x with lof := false }).judgeLock n).judgeVcats n)) ∧
    (fld (s.lane n).sdh.ctl 16 16 ≠ 0#16 → (fld (s.lane n).sdh.ctl 16 16).toNat ≤ (s.lane n).sdh.b2Frames → (s.lane n).sdh.sd = false →
      (s.lane n).sdh.defSeen = false →
      exec (.sdhSdWindow n) s = .next
        ((s.modSdh n fun x => { x with sd := true, b2Frames := 0, defSeen := true }).report (laneEv n 2) 1)) ∧
    ((s.lane n).sdh.b2Frames < (fld (s.lane n).sdh.ctl 16 16).toNat →
      exec (.sdhSdWindow n) s = .next (s.modSdh n fun x => { x with sd := false, b2Frames := 0 }))) ∧
  (∀ (s : State) (p : Port) (n : LaneId), s.reachesLane p n .common → s.isSdh n.val = true →
    exec (.sdhCntClr p n) s = .next (s.modSdh n fun x => { x with cnt := Vector.replicate 19 0 }) ∧
    (s.isOn (dRx n.val) = true →
      exec (.sdhHuntRestart p n) s = .next (s.modSdh n fun x => { x with
        frm := .hunt, cands := [], misses := 0, lastB2 := 0, rxB1 := none, rxB2 := none })) ∧
    exec (.pmClr p n) s = .next (s.modSdh n fun x => { x with pm := x.pm.map fun y =>
      { y with
        recent := [], hist15 := [], hist24 := []
        cur15 := { incomplete := true, valid := true, start := s.tim.secs }
        cur24 := { incomplete := true, valid := true, start := s.tim.secs } } })) ∧
  (∀ (s : State) (p : Port) (n : LaneId) (w : W32), s.reachesLane p n .rx → s.isSdh n.val = true →
    (∀ t : Fin 64, laneItem (s.lane n).sdh.winAddr = 0x101 + 4 * t.val →
      exec (.tribEntryWrite p n w) s = .next
        ((s.modEntry n t.val fun e => { e with txCtx := w }).modSdh n fun x => { x with winAddr := laneWinStep x.winAddr }) ∧
      exec (.sdhWinAccess p n (some w)) s = exec (.tribEntryWrite p n w) s ∧
      exec (.sdhWinAccess p n none) s = .next ((s.modSdh n fun x => { x with winAddr := laneWinStep x.winAddr }).emit
        (.read p (vget {} (s.lane n).sdh.trib t.val).txCtx))) ∧
    (∀ t : Fin 64, laneItem (s.lane n).sdh.winAddr = 0x100 + 4 * t.val →
      exec (.tribEntryWrite p n w) s = .next
        ((s.entryWrite n t.val w).modSdh n fun x => { x with winAddr := laneWinStep x.winAddr }))) ∧
  (∀ (s : State) (n : LaneId) (t : Fin 64), s.sdhOn n = true → (s.lane n).sdh.trib[t.val].valid = true →
    exec (.tribSeal n t) s = .next (
      let fails := s.tribFails n (s.lane n).sdh.trib[t.val]
      let x := (s.lane n).sdh.trib[t.val].seal fails
      let bytes := (s.lane n).sdh.tribBytes x.1
      let u := s.modEntry n t.val fun _ => x.2
      if u.troughRoom (quadOf n.val) < bytes.length then
        ((u.sdhCnt n 18).toSump (quadOf n.val) 1 bytes.length).skipCounter (s.lane n).sdh.trib[t.val].txCtx
      else
        let u := (u.sdhCnt n 6).sdhCnt n 17 ((8184 - beAt x.1 2 2) / 4)
        let u := if fails then u.sdhCnt n 7 else u
        let g := u.takeGap (s.lane n).sdh.trib[t.val].txCtx
        (g.2.toParser (quadOf n.val)
          { lane := n.val, bytes := bytes, sealCtx := some (s.lane n).sdh.trib[t.val].txCtx, sealGap := g.1 }).floats (quadOf n.val))) ∧
  (∀ (s : State) (n : LaneId), s.isSdh n.val = true → s.isOn (dQuad (quadOf n.val)) = true → s.isOn (dTx n.val) = true →
    (s.lane n).com.genEn = false → ∀ (x : Nat × Queued), (s.pickDown n).2 = some x →
    let u := (s.pickDown n).1
    let b := x.2.frame.bytes
    let a := x.2.frame.hdr.blockAt
    ((u.lane n).sdh.rxEntry (BitVec.ofNat 32 (beAt b a 4)) = none →
      exec (.tribBlockRx n) s = .next ((u.sdhCnt n 12).toSump (quadOf n.val) 18 b.length)) ∧
    (∀ t : Nat, (u.lane n).sdh.rxEntry (BitVec.ofNat 32 (beAt b a 4)) = some t →
      exec (.tribBlockRx n) s = .next (State.overfull
        (u.blockRx n t (BitVec.ofNat 64 (beAt b (a + 8) 8)) (x.2.frame.opened == some true) (bytesAt b (a + 16) 8192) b.length) n t))) ∧
  (∀ (s : State) (n : LaneId), s.isSdh n.val = true → s.isOn (dTx n.val) = true → (s.lane n).com.genEn = false →
    s.squelched n = false →
    let u := (s.sendEntries n).1
    let aus := u.ausTx n (s.sendEntries n).2
    let f := ((s.lane n).stmTx aus).bytes
    exec (.sdhTxFrame n) s = .next ((u.emit (.stm n (scrambleStm f))).modSdh n fun x => { x with
      tracePhase := x.tracePhase + 1, txB1 := bip8 (scrambleStm f), txB2 := bipCols 192 (withoutRsoh f), txCarry := aus.map AuTx.carry }) ∧
    aus.length = 64 ∧ ((s.lane n).stmTx aus).k2 = (if (s.lane n).sdhDefect then 6 else 0) ∧
    ((s.lane n).stmTx aus).j0 = (s.lane n).sdh.j0.txByte (s.lane n).sdh.tracePhase.toNat ∧
    ((s.lane n).stmTx aus).b1 = (s.lane n).sdh.txB1 ∧ ((s.lane n).stmTx aus).b2 = (s.lane n).sdh.txB2) ∧
  (∀ (s : State) (n : LaneId), s.isSdh n.val = true →
    (∀ i : Fin 65, s.isOn (dRx n.val) = true → i.val ≠ 0 →
      exec (.pmSecond n i) s = .next (s.modSdh n fun x => { x with pm := x.pm.set i.val (x.pm[i.val].second false) })) ∧
    (s.isOn (dRx n.val) = true →
      exec (.pmSecond n 0) s = .next (s.modSdh n fun x => { x with pm := x.pm.set 0 (x.pm[0].second
        (!(s.lane n).com.sigdet || (s.lane n).sdh.lof || (s.lane n).sdh.msAis.on)) })) ∧
    (∀ (day : Bool) (at_ : BitVec 48),
      exec (.pmBinClose n day at_) s = .next (s.modSdh n fun x => { x with pm := x.pm.map fun y => y.close day at_ })))

/-- Parsing, classification and rule banks (R280, R283, R284, R287 to R291, R295, R296, R301 to R304): each command where it acts.
The model's own choices in its clauses: assumptions 13, 48, 49. -/
def Obligations.ClassifierCommandsTakeEffect : Prop :=
  (∀ (s : State) (q : QuadId) (f : Frame) (rest : List Frame),
    ((s.quad q).parseQ = f :: rest →
      exec (.classify q) s = .next (State.floatsAll (State.pass (s.modQuad q fun x => { x with parseQ := rest }) q.val
        { f with bank := (s.quad q).active, epoch := (s.quad q).epoch, first := none, act := none } false))) ∧
    ((s.quad q).rallyQ = f :: rest →
      exec (.rallyPass q) s = .next (State.floatsAll (State.pass (s.modQuad q fun x => { x with rallyQ := rest }) q.val f true)))) ∧
  (∀ (s : State) (k : FragKey), (∃ e ∈ s.tbl.frags, e.key = k) →
    exec (.fragTimeout k) s = .next { s with tbl := { s.tbl with
      frags := s.tbl.frags.filter fun e => e.key != k, frgTmo := satAdd s.tbl.frgTmo 1 } }) ∧
  (∀ (s : State) (p : Port), s.reaches p 10 →
    exec (.fragFlush p) s = .next { s with tbl := { s.tbl with frags := [] } } ∧
    exec (.frgCntRead p 0) s = .next (State.emit { s with tbl := { s.tbl with frgFull := 0 } } (.read p s.tbl.frgFull)) ∧
    exec (.frgCntRead p 1) s = .next (State.emit { s with tbl := { s.tbl with frgEarly := 0 } } (.read p s.tbl.frgEarly)) ∧
    exec (.frgCntRead p 2) s = .next (State.emit { s with tbl := { s.tbl with frgTmo := 0 } } (.read p s.tbl.frgTmo))) ∧
  (∀ (s : State) (p : Port), s.reaches p 0 →
    (∀ mask : BitVec 4, exec (.sumpClr p mask) s = .next { s with sys := { s.sys with
      sump := s.sys.sump.filter fun e => !bit mask (e.1 / 32) } }) ∧
    (∀ (q : Fin 4) (c : Fin 22), bit s.sys.sumpAddr 12 = false → (fld s.sys.sumpAddr 0 10).toNat = 256 * q.val + 4 * c.val →
      exec (.sumpDataRead p) s = .next
        ((s.latch p 0xC004 (fld (Tab.get (0, 0) s.sys.sump (32 * q.val + c.val)).1 32 32)).emit
          (.read p (fld (Tab.get (0, 0) s.sys.sump (32 * q.val + c.val)).1 0 32))))) ∧
  (∀ (s : State) (p : Port) (q : QuadId), s.reaches p (0x10 + q.val) →
    exec (.prsDeepCntRead p q) s = .next ((s.modQuad q fun x => { x with deepCnt := 0 }).emit (.read p (s.quad q).deepCnt)) ∧
    exec (.prsSkipCntRead p q) s = .next ((s.modQuad q fun x => { x with skipCnt := 0 }).emit (.read p (s.quad q).skipCnt)) ∧
    exec (.rlyStatusRead p q) s = .next ((s.modQuad q fun x => { x with rallyFull := 0 }).emit
      (.read p (atN 0 11 (s.quad q).rallyQ.length ||| at' 16 (s.quad q).rallyFull))) ∧
    ((s.quad q).busy = none →
      exec (.clsCopy p q) s = .next (s.modQuad q fun x => { x with busy := some .copy, clsErr := 0 }) ∧
      exec (.clsClear p q) s = .next (s.modQuad q fun x => { x with busy := some .clear, clsErr := 0 }) ∧
      ((s.quad q).inflight (s.quad q).active = 0 →
        exec (.clsSwap p q) s = .next (s.modQuad q fun x =>
          { x.setBank (!x.active) (clearHits (x.bankOf !x.active)) with
            active := !x.active, epoch := x.epoch + 1, clsErr := 0, draining := false, busy := none })) ∧
      ((s.quad q).inflight (s.quad q).active ≠ 0 →
        exec (.clsSwap p q) s = .next (s.modQuad q fun x =>
          { x.setBank (!x.active) (clearHits (x.bankOf !x.active)) with
            active := !x.active, epoch := x.epoch + 1, clsErr := 0, draining := true, busy := some .swap }))) ∧
    ((s.quad q).busy.isSome = true →
      exec (.clsCopy p q) s = .next (s.modQuad q fun x => { x with clsErr := 1 }) ∧
      exec (.clsClear p q) s = .next (s.modQuad q fun x => { x with clsErr := 1 }) ∧
      exec (.clsSwap p q) s = .next (s.modQuad q fun x => { x with clsErr := 1 })) ∧
    (∀ w : W32, exec (.ruleWrite p q (some w)) s = .next (s.modQuad q fun x => x.winWrite w)) ∧
    exec (.ruleWrite p q none) s = .next ((s.modQuad q Quad.winStep).emit (.read p (s.quad q).winRead))) ∧
  (∀ (s : State) (q : QuadId), (s.quad q).busy = some .swap → (s.quad q).draining = true →
    ((s.quad q).inflight (!(s.quad q).active) = 0 →
      exec (.clsSwapDrained q) s = .next (s.modQuad q fun x => { x with busy := none, draining := false })) ∧
    exec (.epochRetire q) s = .next (State.report
      ((s.modQuad q Quad.retire).dropFrames q.val 7
        (((s.quad q).cph.queue.filter (·.waitsRally !(s.quad q).active)) ++ (s.quad q).rallyQ.filter (·.waitsRally !(s.quad q).active)))
      (980 + q.val) 2)) ∧
  (∀ (s : State) (q : QuadId), (s.quad q).busy = some .clear →
    exec (.clsCmdDone q) s = .next (s.modQuad q fun x => { x.setBank (!x.active) [] with busy := none })) ∧
  (∀ (s : State) (q : QuadId), (s.quad q).busy = some .copy →
    exec (.clsCmdDone q) s = .next (s.modQuad q fun x =>
      let shadow := x.bankOf !x.active
      let kept := Tab.mapAll {} shadow fun _ r => { w := Vector.replicate 44 0, hits := r.hits }
      let copied := (x.bankOf x.active).foldl (fun t e => Tab.put {} t e.1 { w := e.2.w, hits := (Tab.get {} shadow e.1).hits }) kept
      { x.setBank (!x.active) copied with busy := none }))

/-- The lookups of a classified frame (R310 to R315, R319, R320).
The model's own choices in its clauses: assumptions 52, 53, 72. -/
def Obligations.ForwardingCommandsTakeEffect : Prop :=
  (∀ (s : State) (q : QuadId) (f : Frame) (rest : List Frame), (s.quad q).lookupQ = f :: rest → f.opened = none → f.later = none →
    ∀ us : List Upset, let u := (s.upsets us).modQuad q fun x => { x with lookupQ := rest }
    (∀ a : Act, f.act = some a → exec (.forwardLookup q us) s = .next (State.floatsAll (u.lookups q.val f a))) ∧
    (f.act = none → exec (.forwardLookup q us) s = .next (State.floatsAll (u.dropFrame q.val 12 f)))) ∧
  (∀ (s : State) (q : QuadId) (f : Frame) (rest : List Frame) (a : Act), (s.quad q).lpmQ = f :: rest → f.act = some a →
    s.cst.mode ≠ .offline →
    exec (.lpmLookup q true) s = .next (
      let u := s.modQuad q fun x => { x with lpmQ := rest }
      let ans := u.lpmFind (f.hdr.ipVer == 6) f.hdr.ipDa
      let t := ((u.tbl.cntAdd 8 1).cntAdd 9 ans.probes).cntAdd 10 (if ans.capped then 1 else 0)
      ((State.request { u with tbl := t } 1 false ans.probes).settleFrame q.val { f with lpmRes := ans.res } a).floatsAll) ∧
    exec (.lpmLookup q false) s = .next (
      let u := s.modQuad q fun x => { x with lpmQ := rest }
      ((State.request { u with tbl := u.tbl.cntAdd 8 1 } 1 false 0).settleFrame q.val { f with lpmRes := none } a).floatsAll))

/-- The tables' engine: when a command of TBL_CMD is accepted, what it does when it completes, learning, aging and the windows (R308,
R314 to R318, R321, R322, R324, R325, R328, R330, R331).
The model's own choices in its clauses: assumptions 51, 52, 102. -/
def Obligations.TableCommandsTakeEffect : Prop :=
  (∀ (s : State) (p : Port) (t : BitVec 3), s.reaches p 10 →
    let run := fun c : TblCmd => (.next { s with tbl := { s.tbl with
      busy := some c, err := 0, found := false, replaced := false, moved := false, endSeen := false } } : Res)
    -- INSERT and REPAIR begin the move of an entry, or the copy of a row, with which they end (R308, R309, R324)
    let start := fun c : TblCmd => (.next (State.tblStart { s with tbl := { s.tbl with
      busy := some c, err := 0, found := false, replaced := false, moved := false, endSeen := false } } c) : Res)
    let stop := fun e : BitVec 4 => (.next { s with tbl := { s.tbl with err := e } } : Res)
    (s.tbl.busy.isSome = true → exec (.search p t) s = stop 1) ∧
    (s.tbl.busy = none → t.toNat < 4 →
      exec (.search p t) s = run (s.tbl.cmd 1 t.toNat false 0 false false) ∧
      exec (.next p t) s = run (s.tbl.cmd 2 t.toNat false 0 false false)) ∧
    (s.tbl.busy = none → t.toNat < 2 →
      (∀ shadow, portValid (fld s.tbl.res0 0 8) = true →
        exec (.insert p t shadow) s = start (s.tbl.cmd 3 t.toNat false 0 shadow false)) ∧
      (∀ shadow, portValid (fld s.tbl.res0 0 8) = false → exec (.insert p t shadow) s = stop 5) ∧
      (∀ shadow byLoc, exec (.delete p t shadow byLoc) s = run (s.tbl.cmd 4 t.toNat false 0 shadow byLoc)) ∧
      (∀ port static, exec (.flushPort p t port static) s = run (s.tbl.cmd 5 t.toNat static port false false)) ∧
      exec (.ageNow p t) s = run (s.tbl.cmd 6 t.toNat false 0 false false) ∧
      (∀ b, s.poolBank (t.toNat == 1) s.tbl.loc.toNat = some b → (vget [] s.tbl.spares b).length < 2 →
        exec (.repair p t) s = start (s.tbl.cmd 9 t.toNat false 0 false false)) ∧
      exec (.rebuild p t) s = stop 2 ∧ exec (.lpmSwap p t) s = stop 2) ∧
    (s.tbl.busy = none → t.toNat = 2 ∨ t.toNat = 3 →
      (portValid (fld s.tbl.res0 0 8) = true → (s.tbl.cmd 3 t.toNat false 0 false false).badPrefix = false →
        exec (.insert p t false) s = run (s.tbl.cmd 3 t.toNat false 0 false false)) ∧
      exec (.delete p t false false) s = run (s.tbl.cmd 4 t.toNat false 0 false false) ∧
      (∀ port static, exec (.flushPort p t port static) s = run (s.tbl.cmd 5 t.toNat static port false false)) ∧
      exec (.ageNow p t) s = run (s.tbl.cmd 6 t.toNat false 0 false false) ∧
      ((s.tbl.fam (t.toNat == 3)).rebuilding = true →
        exec (.lpmSwap p t) s = run (s.tbl.cmd 7 t.toNat false 0 false false)) ∧
      ((s.tbl.fam (t.toNat == 3)).rebuilding = false →
        exec (.lpmSwap p t) s = stop 6 ∧ ∀ byLoc, exec (.delete p t true byLoc) s = stop 6) ∧
      (s.cst.degradedMode = false → exec (.rebuild p t) s = run (s.tbl.cmd 8 t.toNat false 0 false false)) ∧
      (s.cst.degradedMode = true → exec (.rebuild p t) s = stop 6))) ∧
  -- what a command does when it completes, in a table no stored bit of which stands wrong (R325)
  (∀ (s : State) (c : TblCmd) (hits : List Nat), s.tbl.busy = some c →
    let u : State := { s with tbl := { s.tbl with busy := none } }
    let flow := c.table == 1
    (c.table < 2 → (∀ x ∈ s.tbl.hash flow, x.2.flips = 0) →
      (c.op = 1 →
        (∀ i e, s.tblFind flow c.maskedKey = some (i, e) →
          exec (.tblCmdDone hits []) s = .next { u with tbl := { u.tbl with
            found := true, key := e.key, res0 := e.res0, res1 := e.res1,
            entCtl := atB 0 e.static ||| atB 1 e.ageEn ||| at' 2 e.age ||| atB 4 e.moving.isSome ||| atB 5 e.bad,
            locBank := BitVec.ofNat 5 ((s.poolBank flow i).getD 0) } }) ∧
        (s.tblFind flow c.maskedKey = none →
          exec (.tblCmdDone hits []) s = .next { u with tbl := { u.tbl with err := 3 } })) ∧
      (c.op = 3 → ∀ i e, findKey flow (s.buckets flow) (endMoves (s.tbl.hash flow)) c.maskedKey = some (i, e) →
        exec (.tblCmdDone hits []) s = .next { u with tbl := { (u.tbl.setHash flow (Tab.ins (endMoves (s.tbl.hash flow)) i
            { e with res0 := c.res0, res1 := c.res1, static := bit c.ctl 0, ageEn := bit c.ctl 1, flips := 0 })) with replaced := true } }) ∧
      (c.op = 5 →
        exec (.tblCmdDone hits []) s = .next (
          let left := flushPorts (s.tbl.hash flow) (· == c.port) c.static
          { u with tbl := u.tbl.setHash flow left }))) ∧
    (c.op = 8 → 2 ≤ c.table → s.cst.degradedMode = false → exec (.tblCmdDone hits []) s =
      .next { u with tbl := u.tbl.modFam (c.table == 3) fun f => { f.setShadow {} with rebuilding := true } }) ∧
    -- a REBUILD that the cistern's degradation has overtaken is abandoned with ERR 6 (R322)
    (c.op = 8 → 2 ≤ c.table → s.cst.degradedMode = true → exec (.tblCmdDone hits []) s =
      .next { u with tbl := { u.tbl with err := 6 } })) ∧
  -- an aging pass: dynamic entries age by one step, those of age 2 leave, and a hit in the scan cycle keeps its entry at AGE 0 and is
  -- counted (R316, R317)
  (∀ (s : State) (flow : Bool) (hits : List Nat), (∀ x ∈ s.tbl.hash flow, x.2.flips = 0) →
    exec (.agePass flow hits []) s = .next (
      let x := endMoves (s.tbl.hash flow)
      let aged := x.filterMap fun p =>
        (if p.2.ages flow = false then some p.2
         else if hits.contains p.1 = true then some { p.2 with age := 0 }
         else if p.2.age = 2 then none
         else some { p.2 with age := p.2.age + 1 }).map fun e => (p.1, e)
      let back := moveBack flow (s.buckets flow) aged
      let kept := (x.filter fun p => p.2.ages flow && hits.contains p.1).length
      { s with tbl := (((s.tbl.setHash flow back.1).cntAdd 5 (x.length - aged.length)).cntAdd 6 kept).cntAdd 15 back.2 })) ∧
  (∀ (s : State) (q : QuadId) (k0 k1 : W32) (port : Byte) (rest : List (W32 × W32 × Byte)), (s.quad q).learnQ = (k0, k1, port) :: rest →
    let key : TblKey := #v[k0, k1, 0, 0, 0, 0, 0, 0, 0, 0]
    (s.tblFind false key).isSome = true →
      exec (.learnInsert q) s = .next ((s.modQuad q fun x => { x with learnQ := rest }).onCopies false key fun e => { e with age := 0 })) ∧
  (∀ (s : State) (p : Port), s.reaches p 10 →
    exec (.tblPortAccess p none) s = .next (s.emit (.read p s.tbl.portRead)) ∧
    (∀ w, exec (.tblPortAccess p (some w)) s = .next { s with tbl := s.tbl.portWrite w }) ∧
    ((fld s.tbl.cntAddr 0 5).toNat < 16 → bit s.tbl.cntAddr 5 = false →
      exec (.tblCntRead p) s = .next ((s.latch p (base 10 + 0x4008) (fld (vget 0 s.tbl.cnt (fld s.tbl.cntAddr 0 5).toNat) 32 32)).emit
        (.read p (fld (vget 0 s.tbl.cnt (fld s.tbl.cntAddr 0 5).toNat) 0 32)))))

/-- Queues, shapers, policers and the traffic managers' windows (R25, R333 to R336, R341 to R344, R348, R351, R353 to R355).
The model's own choices in its clauses: assumptions 54, 55, 92, 104. -/
def Obligations.TrafficCommandsTakeEffect : Prop :=
  (∀ (s : State) (q : QuadId) (f : Frame) (rest : List Frame), (s.quad q).enqueueQ = f :: rest →
    let u := s.modQuad q fun x => { x with enqueueQ := rest }
    (f.dest = none → exec (.enqueue q) s = .next (State.floatsAll (u.dropFrame q.val 12 f))) ∧
    (∀ n : Fin 96, f.dest = some n.val → (u.isDark (quadOf n.val) = true ∨ u.isOn (dQuad (quadOf n.val)) = false) →
      exec (.enqueue q) s = .next (State.floatsAll (u.dropFrame (quadOf n.val) 16 f))) ∧
    (∀ n : Fin 96, f.dest = some n.val → u.isDark (quadOf n.val) = false → u.isOn (dQuad (quadOf n.val)) = true →
      bit (vget {} u.lanes n.val).com.prbs 2 = false → f.spreadLane = none →
      let down := !u.isLine n.val
      let port : TmPort := vget {} (u.tm (quadOf n.val) down).ports (sliceOf n.val)
      port.offset f.queue f.tc < port.qcount →
      let j := port.qbase + port.offset f.queue f.tc
      (∀ c, u.admission (quadOf n.val) down j f = some c →
        exec (.enqueue q) s = .next (State.floatsAll
          ((u.request (if down then 3 else 2) true (if c then linesOf f.bytes.length else 0)).modTm (quadOf n.val) down fun t =>
            t.modQueue j fun x => { x.count 0 f.bytes.length with frames := x.frames ++ [{ frame := f, inCistern := c }] }))) ∧
      (u.admission (quadOf n.val) down j f = none →
        exec (.enqueue q) s = .next (State.floatsAll ((u.modTm (quadOf n.val) down fun t => t.modQueue j fun x =>
          x.count 2 f.bytes.length).dropFrame (quadOf n.val) 15 f))))) ∧
  (∀ (s : State) (q : QuadId) (down : Bool) (sh : Nat), sh < s.shaperCount q.val down →
    -- a shaper becomes eligible at the start of the wheel slot that holds it, no earlier (R343)
    (((s.tm q.val down).shaper sh).calendar = true → ((s.tm q.val down).shaper sh).slotStarts s.now = true →
      exec (.calendarSlot q down sh) s = .next
        (s.modTm q.val down fun t => t.modShaper sh fun x => { x with eligible := true, slot := none })) ∧
    (((s.tm q.val down).shaper sh).calendar = false →
      exec (.shaperEligible q down sh) s = .next (s.modTm q.val down fun t => t.modShaper sh fun x =>
        { x.refill s.now with eligible := decide (0 ≤ (x.refill s.now).pTok) }))) ∧
  (∀ (s : State) (q : QuadId) (down : Bool),
    exec (.wheelRevolution q down) s = .next (s.modTm q.val down fun t => { t with
      shapers := Tab.mapAll {} t.shapers fun _ x => if x.parked = true then x.place s.now else x })) ∧
  (∀ (s : State) (p : Port) (q : QuadId) (down : Bool) (w : W32), s.reaches p (0x10 + q.val) →
    (winItem (s.tm q.val down).addr / 0x10000 = 1 → winItem (s.tm q.val down).addr % 0x10000 / 8 < s.shaperCount q.val down →
      let i := winItem (s.tm q.val down).addr
      exec (.shaperWrite p q down w) s = .next (s.modTm q.val down fun t =>
        { (t.modShaper (i % 0x10000 / 8) fun x => x.write s.now (i % 8) w) with addr := winStep t.addr })) ∧
    (∀ k : Fin 24, winItem (s.tm q.val down).addr = 0x20000 + 8 * k.val → s.portAnswers q.val k.val down = true →
      (s.portRefused q.val down k.val (w &&& 0x1FFF0FFF#32) = true →
        exec (.tmPortWrite p q down w) s = .next (s.modTm q.val down fun t => { t with refused := true, addr := winStep t.addr })) ∧
      (s.portRefused q.val down k.val (w &&& 0x1FFF0FFF#32) = false →
        exec (.tmPortWrite p q down w) s = .next (s.modTm q.val down fun t => { t with
          ports := vmod t.ports k.val fun p => { p with w0 := w &&& 0x1FFF0FFF#32 }, addr := winStep t.addr }))) ∧
    (∀ k : Fin 24, winItem (s.tm q.val down).addr = 0x20003 + 8 * k.val → s.portAnswers q.val k.val down = true →
      exec (.badOffsetRead p q down (BitVec.ofNat 5 k.val)) s = .next ((s.modTm q.val down fun t => { t with
        ports := vmod t.ports k.val fun p => { p with badOffset := 0 }, addr := winStep t.addr }).emit
          (.read p (vget {} (s.tm q.val down).ports k.val).badOffset)))) ∧
  (∀ (s : State) (p : Port) (q : QuadId) (w : W32), s.reaches p (0x10 + q.val) →
    let i := winItem (s.quad q).polAddr
    (i / 16 < s.policers q.val → i % 16 < 5 →
      exec (.policerWrite p q w) s = .next (s.modQuad q fun x => { x with
        policers := Tab.mod {} x.policers (i / 16) fun y =>
          Policer.full { y with w := vset y.w (i % 16) (w &&& polMask (i % 16)) } s.now
        polAddr := winStep x.polAddr }) ∧
      exec (.tmWinAccess p q .policer (some w)) s = exec (.policerWrite p q w) s ∧
      exec (.tmWinAccess p q .policer none) s = .next ((s.modQuad q fun x => { x with polAddr := winStep x.polAddr }).emit
        (.read p (vget 0 (Tab.get {} (s.quad q).policers (i / 16)).w (i % 16)))))) ∧
  (∀ (s : State) (p : Port) (q : QuadId) (w : W32) (down : Bool), s.reaches p (0x10 + q.val) →
    let i := winItem (s.tm q.val down).addr
    i < 0x10000 → i / 8 < s.queueCount q.val down →
      exec (.tmWinAccess p q (if down then .down else .up) (some w)) s = .next (s.modTm q.val down fun t =>
        { (t.modQueue (i / 8) fun x => x.write (i % 8) w) with addr := winStep t.addr }) ∧
      exec (.tmWinAccess p q (if down then .down else .up) none) s = .next ((s.modTm q.val down fun t =>
        { t with addr := winStep t.addr }).emit (.read p (s.queueRead q.val down (i / 8) (i % 8)))))

/-- Dispatch and return of cipher jobs, and the key island's windows (R362, R368, R369, R374, R376, R377, R387, R424, R490).
The model's own choices in its clauses: assumptions 56, 109. -/
def Obligations.CipherCommandsTakeEffect : Prop :=
  (∀ (s : State) (q : QuadId) (f : Frame) (rest : List Frame), (s.quad q).cph.queue = f :: rest → (s.quad q).cph.rob.length < 4096 →
    let u := s.modQuad q fun x => { x with cph := { x.cph with queue := rest } }
    (∀ p : Plan, s.plan f = .inl p →
      let cost := jobCost p.name.bits256 (s.quad q).cph.density p.blocks
      (∀ x : Slot, s.chooseSlot q.val p.name cost = some x →
        exec (.cipherDispatch q) s = .next (s.dispatchTo q.val f p cost x)) ∧
      (s.chooseSlot q.val p.name cost = none → exec (.cipherDispatch q) s = .next s)) ∧
    (f.cipherOp = 2 → s.egressAssoc f.ctx = none →
      exec (.cipherDispatch q) s =
        .next (State.dropFrame ((u.modAssoc f.ctx fun a => a.count 4 1).portCnt q.val 4) q.val 10 f)) ∧
    (∀ i, f.cipherOp = 2 → s.egressAssoc f.ctx = some i → (s.assoc i).xpn = false → 2 ^ 32 ≤ (s.assoc i).pn.toNat →
      (s.assoc i).exhSeen = true →
      exec (.cipherDispatch q) s = .next (State.dropFrame
        ((u.modAssoc i fun a => { a.count 5 1 with exhSeen := true }).portCnt q.val 6) q.val 10 f))) ∧
  (∀ (s : State) (k : CoreId) (q : Fin 4) (i : Nat), s.coreRuns k.val = true →
    ((List.range 4).findSome? fun c => (runnable (some k.val) (vget {} s.quads c).cph.rob).map fun j => (c, j)) = some (q.val, i) →
    exec (.coreJobDone (.core k)) s = .next (s.finish q.val i)) ∧
  (∀ (s : State) (d : LaDesc), s.isOn dHif = true → s.clocked = true → (s.ring 3).en = true → (s.ring 3).stopped = false →
    0 < (s.ring 3).posted → s.fbk.la.length < (s.ring 4).room → (s.ring 4).en = true →
    (s.fbk.laEn = false ∨ s.fbk.inService = false →
      ∃ t, exec (.lookasideFetch d) s = .next t ∧ t.fbk = { s.fbk with la := s.fbk.la ++ [{ desc := d, status := some 4 }] }) ∧
    (s.fbk.laEn = true → s.fbk.inService = true → d.op = 0 →
      ∃ t, exec (.lookasideFetch d) s = .next t ∧ t.fbk = { s.fbk with la := s.fbk.la ++ [{ desc := d, status := some 2 }] })) ∧
  (∀ (s : State) (j : LaJob) (rest : List LaJob) (input aad tag : List Byte) (st : BitVec 3), s.fbk.la = j :: rest →
    j.status = some st → st = 2 ∨ st = 4 →
    exec (.lookasideComplete input aad tag) s = .next (State.laComplete
      { s with fbk := { s.fbk with la := rest, cnt := vmod (vmod s.fbk.cnt 2 (· + 0)) 4 (· + 1) } } j.desc.cookie st))

/-- The windows onto associations, tributary entries and lookaside keys (R374, R387 to R389, R415, R424), and the derivations and requests for keys (R400 to
R402).
The model's own choices in its clauses: assumption 60. -/
def Obligations.KeyWindowsAndRequestsTakeEffect : Prop :=
  (∀ (s : State) (p : Port) (w : W32), s.reaches p 7 → s.key.ctxTrb = false → bit s.key.ctxAddr 18 = false →
    let i := s.key.ctxItem / 32
    let c := s.key.ctxItem % 32
    (c < 16 → exec (.keyCtxAccess p none) s = .next (s.emit (.read p (vget 0 (s.assoc i).w c)))) ∧
    (c = 0 → (s.assoc i).valid = true → fld (s.assoc i).w0 1 3 ≠ fld w 1 3 →
      exec (.keyCtxAccess p (some w)) s = .next { s with key := { s.key with ctxRefused := true, ctxCause := 1 } }) ∧
    (0 < c → c < 11 → exec (.keyCtxAccess p (some w)) s =
      .next (s.modAssoc i fun a => { a with w := vset a.w c (w &&& assocMask c) }))) ∧
  (∀ (s : State) (p : Port) (w : W32), s.reaches p 7 → s.key.ctxTrb = true → bit s.key.ctxAddr 18 = false →
    s.key.ctxItem < 16384 → s.key.ctxItem % 16 = 0 →
    let i := s.key.ctxItem / 16
    (s.tribCtx i).valid = false → bit w 0 = true → bit w 1 = false →
    (s.key.trib.any fun e => e.1 != i && e.2.valid && !e.2.open_ && e.2.ctxId == (s.tribCtx i).ctxId) = false →
    s.vault.sealStart ≠ BitVec.allOnes 24 →
      exec (.keyCtxAccess p (some w)) s = .next (State.modTrib { s with vault := { s.vault with sealStart := s.vault.sealStart + 1 } } i
        fun _ => { s.tribCtx i with
          w := vset (s.tribCtx i).w 0 (w &&& 0x7F#32), start := s.vault.sealStart + 1,
          counter := (s.vault.sealStart + 1).setWidth 64 <<< 40, gap := 0, dead := false, exhSeen := false })) ∧
  (∀ (s : State) (p : Port), s.reaches p 7 →
    let n := (fld s.key.laAddr 0 10).toNat
    (bit s.key.laAddr 10 = false →
      exec (.keyLaAccess p none) s = .next (s.emit (.read p (vget 0 (Tab.get (Vector.replicate 4 0) s.key.la (n / 4)) (n % 4)))) ∧
      ∀ w, exec (.keyLaAccess p (some w)) s = .next { s with key := { s.key with
        la := Tab.mod (Vector.replicate 4 0) s.key.la (n / 4) fun e => vset e (n % 4) (if n % 4 = 0 then w &&& 0x3F#32 else w) } }) ∧
    (bit s.key.laAddr 10 = true →
      ∃ t, exec (.keyLaAccess p none) s = .next t ∧ t.key.laAddr = putFld s.key.laAddr 0 (BitVec.ofNat 10 (n + 1)))) ∧
  (∀ (s : State) (n : KeyName) (rest : List KeyName), s.key.demand ++ s.key.prefetch = n :: rest →
    (s.rootOf n = none → exec .keyDerive s = .next { s with key := { s.key with
      demand := s.key.demand.filter (· != n), prefetch := s.key.prefetch.filter (· != n) } }) ∧
    (∀ root, s.rootOf n = some root → s.key.cache.length < 16384 →
      exec .keyDerive s = .next (State.keyArrives { s with key := { s.key with
        cache := { name := n, key := kdf root n } :: s.key.cache.filter fun e => e.name != n
        demand := s.key.demand.filter (· != n), prefetch := s.key.prefetch.filter (· != n)
        cnt := vmod s.key.cnt 0 (· + 1) } } { name := n, key := kdf root n }))) ∧
  (∀ (s : State) (k : CoreId) (q : Fin 4) (i : Nat),
    ((List.range 4).findSome? fun c => (waiting (some k.val) (vget {} s.quads c).cph.rob).map fun j => (c, j)) = some (q.val, i) →
    exec (.keyRequestTimeout (.core k)) s = .next (s.noKeyJob q.val i)) ∧
  (∀ (s : State) (i : Nat), (∀ q : QuadId, waiting none (s.quad q).cph.rob = none) →
    (s.fbk.la.findIdx? fun j => j.key.isNone && j.status.isNone) = some i →
    exec (.keyRequestTimeout .fallback) s = .next { s with
      fbk := { s.fbk with la := s.fbk.la.modify i fun j => { j with status := some 3 } },
      key := { s.key with cnt := vmod s.key.cnt 3 (· + 1) } })

/-- Known-answer tests, quarantine and return of cipher units, and their counters (R366, R379 to R386, R550).
The model's own choices in its clauses: assumptions 22, 57, 79, 109. -/
def Obligations.CipherTestCommandsTakeEffect : Prop :=
  (∀ (s : State) (k : CoreId), s.coreRuns k.val = true → (s.assignedTo k.val) < 4 →
    (((vget {} s.quads (s.assignedTo k.val)).jobsOf k.val false).isEmpty = true →
      exec (.katDue (.core k) true) s = .next (s.modCore k fun c => { c with katDue := none, katWait := false }) ∧
      exec (.katDue (.core k) false) s =
        .next ((s.modCore k fun c => { c with katDue := none, katWait := false }).coreFault k.val 1)) ∧
    (((vget {} s.quads (s.assignedTo k.val)).jobsOf k.val false).isEmpty = false →
      ∀ pass, exec (.katDue (.core k) pass) s = .next (s.modCore k fun c => { c with katDue := some pass }))) ∧
  (∀ (s : State) (k : CoreId) (pass : Bool), (s.core k).katDue = some pass →
    exec (.katOverdue k) s = .next ((s.modCore k fun c => { c with katWait := true }).portCnt (s.assignedTo k.val) 10)) ∧
  (∀ (s : State) (k : CoreId), s.isOn (dCores (k.val / 18)) = true → (s.core k).state = .quarantined → (s.core k).cause = 0 →
    exec (.firstKat (.core k) true) s = .next (s.coreReturn k.val) ∧
    exec (.firstKat (.core k) false) s = .next (s.coreFault k.val 1)) ∧
  (∀ s : State, s.isOn dFbk = true → s.fbk.inService = false → s.fbk.failed = false →
    exec (.firstKat .fallback true) s = .next s.fbkUp ∧ exec (.firstKat .fallback false) s = .next (s.fbkFault 1)) ∧
  (∀ (s : State) (p : Port) (k : CoreId), s.reaches p (0x80 + k.val) →
    exec (.katNow p k true) s = .next s ∧ exec (.katNow p k false) s = .next (s.coreFault k.val 1) ∧
    exec (.quarForce p k false) s = .next (s.modCore k fun c => { c with quarForce := false }) ∧
    ((s.core k).quarForce = false →
      exec (.quarForce p k true) s = .next ((s.modCore k fun c => { c with quarForce := true }).coreFault k.val 4)) ∧
    ((s.core k).quarForce = false → (s.core k).state = .quarantined →
      exec (.retest p (.core k) true) s = .next (s.coreReturn k.val) ∧
      exec (.retest p (.core k) false) s = .next (s.modCore k fun c => { c with cause := 1 })) ∧
    exec (.cphJobsRead p k) s = .next ((s.modCore k fun c => { c with jobs := 0 }).emit (.read p (s.core k).jobs)) ∧
    exec (.cphAfRead p k) s = .next ((s.modCore k fun c => { c with af := 0 }).emit (.read p (s.core k).af))) ∧
  (∀ (s : State) (k : CoreId) (cause : UnitFault), s.isOn (dCores (k.val / 18)) = true →
    exec (.integrityFault (.core k) cause) s = .next (s.coreFault k.val cause.code)) ∧
  (∀ (s : State) (cause : UnitFault), s.isOn dFbk = true →
    exec (.integrityFault .fallback cause) s = .next (s.fbkFault cause.code)) ∧
  (∀ (s : State) (k : CoreId), (s.core k).afTh ≠ 0 → (s.core k).afTh.toNat ≤ (s.core k).afWin → (s.core k).afOver = false →
    s.isIdle k.val = false →
    exec (.afWindow (.core k)) s =
      .next ((s.modCore k fun c => { c with afWin := 0, afOver := true }).report (769 + 2 * k.val) 2)) ∧
  (∀ (s : State) (k : CoreId), (s.core k).afWin < (s.core k).afTh.toNat →
    exec (.afWindow (.core k)) s = .next (s.modCore k fun c => { c with afWin := 0 })) ∧
  (∀ (s : State) (p : Port) (q : QuadId), s.reaches p (0x10 + q.val) → (s.quad q).cph.cntAddr.toNat % 2 = 0 →
    (s.quad q).cph.cntAddr.toNat / 2 < 12 →
    exec (.cphCntRead p (some q)) s = .next ((s.latch p (quadBase q.val + 0x401C)
        (fld (vget 0 (s.quad q).cph.cnt ((s.quad q).cph.cntAddr.toNat / 2)) 32 32)).emit
      (.read p (fld (vget 0 (s.quad q).cph.cnt ((s.quad q).cph.cntAddr.toNat / 2)) 0 32))))

/-- The work queued for a quarantined core goes on: a core that leaves service keeps its slot while the fallback pipeline is in service
and serves fewer than 8 slots, and no job is lost (R366, R367): every job that had not returned is reissued there, in its place.
The model's own choices in its clauses: assumption 109. -/
def Obligations.ReissueKeepsEveryJob : Prop :=
  ∀ (s : State) (k : Nat) (q : QuadId),
    ((s.reissue k).quad q).cph.rob.length = (s.quad q).cph.rob.length ∧
    ((s.reissue k).quad q).cph.rob.map (·.frame) = (s.quad q).cph.rob.map (·.frame) ∧
    ((s.reissue k).quad q).jobsOf k false = [] ∧
    (vget 0 ((s.reissue k).quad q).cph.cnt 7) = vget 0 (s.quad q).cph.cnt 7 + BitVec.ofNat 64 ((s.quad q).jobsOf k false).length

/-- Commands of KEY_CMD: where each is refused or accepted, and what it does when it completes (R393 to R395, R402 to R404, R408,
R409, R415 to R417, R420, R421).
The model's own choices in its clauses: assumptions 58, 59, 97. -/
def Obligations.KeyCommandsTakeEffect : Prop :=
  (∀ (s : State) (p : Port) (c : KeyCmdWord), s.reaches p 7 → s.key.busy = none →
    let stop := fun e : BitVec 4 => (.next { s with key := { s.key with busy := none, err := e, data := Vector.replicate 16 0 } } : Res)
    let run := fun o : KeyOp => (.next { s with key := { s.key with busy := some o, err := 0 } } : Res)
    (s.zeroised = true → exec (.importClear p c) s = stop 10 ∧ exec (.importWrapped p c) s = stop 10 ∧ exec (.mskSet p c) s = stop 10) ∧
    (s.zeroised = false → s.vault.provOpen = false → exec (.importClear p c) s = stop 4) ∧
    (s.zeroised = false → s.vault.provOpen = true →
      exec (.importClear p c) s = run (.importSlot c.slot c.side c.purposes (s.key.dataBytes 8))) ∧
    (s.zeroised = false →
      s.slotAllows c.wrapSlot.toNat 4 = false → exec (.importWrapped p c) s = stop 6) ∧
    (∀ key, s.deriveKey (s.keyName c.wrapSlot.toNat 4 false (c.slot.setWidth 32) ((s.slot c.slot.toNat).gen + 1) 0 true) = some key →
      s.zeroised = false →
      let opened := gcmOpen key ((s.key.dataBytes 15).take 12) (wrapAad c ((s.slot c.slot.toNat).gen + 1))
        (bytesAt (s.key.dataBytes 15) 12 32) (bytesAt (s.key.dataBytes 15) 44 16)
      (opened = none → exec (.importWrapped p c) s = .next { s with key := { s.key with
        busy := none, err := 5, data := Vector.replicate 16 0, cnt := vmod s.key.cnt 0 (· + 1) } }) ∧
      (∀ k : List Byte, opened = some k → exec (.importWrapped p c) s = .next { s with key := { s.key with
        busy := some (.importSlot c.slot c.side c.purposes k), err := 0, cnt := vmod s.key.cnt 0 (· + 1) } })) ∧
    exec (.erase p c) s = .next (State.eraseSlot { s with key := { s.key with busy := some (.erase c.slot), err := 0 } } c.slot.toNat) ∧
    exec (.closeProv p) s = run .closeProv ∧
    exec (.vkInstall p) s = run .vkInstall ∧
    (s.lineLane c.lane = none → s.zeroised = false → exec (.mskSet p c) s = stop 3) ∧
    (s.lineLane c.lane = none → exec (.mskClear p c) s = stop 3) ∧
    ((s.lineLane c.lane).isSome = true → exec (.mskClear p c) s = run (.mskClear c.lane)) ∧
    ((s.lineLane c.lane).isSome = true → s.zeroised = false →
      exec (.mskSet p c) s = run (.mskSet c.lane (s.key.dataBytes 4))) ∧
    exec (.prefetch p) s = .next (State.prefetchAll { s with key := { s.key with busy := some .prefetch, err := 0 } }) ∧
    exec (.tamperClear p true) s = stop 3 ∧
    exec (.tamperClear p false) s = run .tamperClear ∧
    (c.slot.toNat < 4 ∨ 7 < c.slot.toNat → exec (.monoIncr p c) s = stop 9) ∧
    (4 ≤ c.slot.toNat → c.slot.toNat ≤ 7 → vget 0 s.vault.mono (c.slot.toNat - 4) = BitVec.allOnes 32 →
      exec (.monoIncr p c) s = .next ((s.report 1005 2 [c.slot.setWidth 8]).keyEnd 9)) ∧
    (4 ≤ c.slot.toNat → c.slot.toNat ≤ 7 → vget 0 s.vault.mono (c.slot.toNat - 4) ≠ BitVec.allOnes 32 →
      exec (.monoIncr p c) s = run (.monoIncr c.slot))) ∧
  (∀ (s : State) (p : Port) (c : KeyCmdWord) (present : Bool), s.reaches p 7 → s.key.busy.isSome = true →
    ∀ i ∈ [Instr.importClear p c, .importWrapped p c, .erase p c, .closeProv p, .vkInstall p, .mskSet p c, .mskClear p c, .prefetch p,
        .tamperClear p present, .monoIncr p c],
      exec i s = .next { s with key := { s.key with err := 2 } }) ∧
  (∀ (s : State) (slot : BitVec 4) (side : Bool) (purposes : BitVec 5) (key : List Byte),
    s.key.busy = some (.importSlot slot side purposes key) →
    ((s.copy slot.toNat).oldKey = none →
      exec (.importDone true) s = .next ((s.importTake slot.toNat side purposes key).keyEnd 0) ∧
      exec (.importDone false) s = .next ((s.report 1003 3).keyEnd 7)) ∧
    ((s.copy slot.toNat).oldKey.isSome = true → ∀ ok, exec (.importDone ok) s = .next s)) ∧
  (∀ (s : State) (slot : Fin 16), (s.copy slot.val).oldKey.isSome = true → s.genInUse slot.val (s.copy slot.val).oldGen = false →
    ∃ t, exec (.oldGenWipe slot) s = .next t ∧ (t.copy slot.val).oldKey = none ∧ (t.copy slot.val).key = (s.copy slot.val).key ∧
      ∀ e ∈ t.key.cache, ¬ (e.name.slot.toNat = slot.val ∧ e.name.gen = (s.copy slot.val).oldGen)) ∧
  (∀ (s : State) (slot : BitVec 4), s.key.busy = some (.erase slot) →
    exec (.eraseDone true) s = .next (((List.range 16).foldl State.slotErased s).keyEnd 0) ∧
    exec (.eraseDone false) s = .next ((s.report 1003 3).keyEnd 7)) ∧
  (∀ (s : State) (bytes : List Byte),
    (s.key.busy = some .closeProv →
      exec (.keyCmdDone bytes true) s = .next (State.keyEnd { s with vault := { s.vault with provOpen := false } } 0)) ∧
    (s.key.busy = some .vkInstall → s.vkValid bytes = false → ∀ ok, exec (.keyCmdDone bytes ok) s = .next (s.keyEnd 8)) ∧
    (∀ lane key, s.key.busy = some (.mskSet lane key) →
      ∀ ok, exec (.keyCmdDone bytes ok) s = .next ((s.mskPut lane (some key)).keyEnd 0)) ∧
    (s.key.busy = some .prefetch → ∀ ok, exec (.keyCmdDone bytes ok) s = .next (s.keyEnd 0)) ∧
    (s.key.busy = some .tamperClear → exec (.keyCmdDone bytes true) s = .next
      ((State.keyEnd { s with vault := { s.vault with tamperLatched := false, tamperCauses := 0 } } 0).endCond 1001)) ∧
    (∀ c : BitVec 4, s.key.busy = some (.monoIncr c) →
      exec (.keyCmdDone bytes true) s =
        .next (State.keyEnd { s with vault := { s.vault with mono := vmod s.vault.mono (c.toNat - 4) (· + 1) } } 0) ∧
      exec (.keyCmdDone bytes false) s = .next ((s.report 1003 3).keyEnd 7)))

/-- Zeroisation, tamper, the random source and the operating time (R406 to R413, R415, R423).
The model's own choices in its clauses: assumptions 58, 108. -/
def Obligations.VaultCommandsTakeEffect : Prop :=
  (∀ (s : State) (ns : Nat), 100 ≤ ns → s.key.zeroNLow = false →
    let u := State.zeroiseSteps { s with key := { s.key with zeroNLow := true } }
    (bit u.key.zcfg 0 = false → exec (.zeroise ns) s = .next (u.report 1000 3)) ∧
    (bit u.key.zcfg 0 = true → exec (.zeroise ns) s = .next (u.eraseRoots.report 1000 3))) ∧
  (∀ (s : State) (ns : Nat), ns < 100 → exec (.zeroise ns) s = .next s) ∧
  (∀ (s : State) (c : TamperCause),
    (s.key.senses c = false → exec (.tamper c) s = .next s) ∧
    (s.key.senses c = true →
      let u := State.zeroiseSteps { s with vault := { s.vault with
        tamperLatched := true, tamperCauses := setBit s.vault.tamperCauses c.index true } }
      (bit u.key.zcfg 1 = false → exec (.tamper c) s = .next (u.report 1001 4 [u.vault.tamperCauses.setWidth 8])) ∧
      (bit u.key.zcfg 1 = true →
        exec (.tamper c) s = .next (u.eraseRoots.report 1001 4 [u.eraseRoots.vault.tamperCauses.setWidth 8])))) ∧
  (∀ s : State, s.key.zeroNLow = true →
    exec .zeroNRise s = .next (State.endCond { s with key := { s.key with zeroNLow := false } } 1000)) ∧
  (∀ s : State, s.key.trngFail = false →
    (∀ raw : List Bool, trngFails raw = true →
      exec (.trngFail raw) s =
        .next (State.report { s with key := { s.key with trngFail := true, cnt := vmod s.key.cnt 7 (· + 1) } } 1002 3)) ∧
    (∀ raw : List Bool, trngFails raw = false → exec (.trngFail raw) s = .next s) ∧
    exec .drbgReseed s = .next { s.tookFree with key := { s.key with
      drbg := s.key.drbg.reseed s.entropy, drbgCount := 0, drbgReseeds := s.key.drbgReseeds + 1 } }) ∧
  -- 40 equal bits in a row fail the source, and 39 do not (R410)
  (∀ b : Bool, trngFails (List.replicate 40 b) = true ∧ trngFails (List.replicate 39 b) = false) ∧
  (∀ s : State, s.key.trngFail = true →
    (∀ passed : Nat, 1048576 ≤ passed → exec (.trngRecover passed) s =
      .next ((List.finRange 96).foldl State.answerKeys (State.endCond { s with key := { s.key with trngFail := false } } 1002))) ∧
    (∀ passed : Nat, passed < 1048576 → exec (.trngRecover passed) s = .next s) ∧
    exec .drbgReseed s = .next s) ∧
  (∀ s : State, s.vault.operatingS.toNat + 60 < 2 ^ 32 →
    exec .operatingMinute s = .next { s with
      wel := { s.wel with opsClk := s.wel.opsClk - 600000000000 },
      vault := { s.vault with operatingS := s.vault.operatingS + 60 } }) ∧
  (∀ (s : State) (p : Port), s.reaches p 7 →
    -- each read takes 32 new bits of the master generator, which is reseeded first where it has served 2^16 requests (R412)
    (s.key.ready = true →
      let u := if 65536 ≤ s.key.drbgCount then s.drbgReseed else s
      let g := u.key.drbg.generate 4
      exec (.keyRngRead p) s = .next (State.emit
        { u with key := { u.key with drbg := g.2, drbgCount := u.key.drbgCount + 1 } } (.read p (BitVec.ofNat 32 (leNat g.1))))) ∧
    (s.key.ready = false → exec (.keyRngRead p) s = .next (s.emit (.read p 0))) ∧
    (s.key.cntAddr.toNat % 2 = 0 → exec (.keyCntRead p) s = .next ((s.latch p (base 7 + 0x3C)
        (fld (vget 0 s.key.cnt (s.key.cntAddr.toNat / 2)) 32 32)).emit
      (.read p (fld (vget 0 s.key.cnt (s.key.cntAddr.toNat / 2)) 0 32)))))

/-- Zeroisation leaves no working key anywhere (R407): not in the cache, not in a core, not waiting, and no master session key. -/
def Obligations.ZeroisationWipesEveryKey : Prop :=
  ∀ s : State, ∃ t, s.zeroiseSteps = t ∧ t.key.cache = [] ∧ t.key.msk = [] ∧ t.key.tcSk = [] ∧ t.key.demand = [] ∧ t.key.prefetch = [] ∧
    (∀ k : CoreId, (t.core k).keys = []) ∧ t.key.busy = none ∧ t.key.data = Vector.replicate 16 0 ∧
    ∀ n : LaneId, (t.lane n).ds.keys = Vector.replicate 4 none

/-- The count, its commands, replicas, stamps, comparators and PPS_OUT (R426 to R435, R438, R441, R444 to R446).
The model's own choices in its clauses: assumptions 27, 110. -/
def Obligations.TimeCommandsTakeEffect : Prop :=
  (∀ (s : State) (p : Port), s.reaches p 6 →
    let stop := fun e : BitVec 4 => (.next { s with tim := { s.tim with err := e } } : Res)
    let ok : State := { s with tim := { s.tim with err := 0 } }
    exec (.set p) s = .next (
      let u := (ok.putCount (s.tim.arg ++ 0#32)).pmIncomplete
      { u with tim := { u.tim with timeSet := true } }) ∧
    (s.tim.srcField ≠ 0 → exec (.step p) s = stop 5 ∧ ∀ ppm, exec (.slew p ppm) s = stop 5) ∧
    (s.tim.srcField = 0 →
      exec (.step p) s = .next (ok.putCount (s.tim.count + BitVec.ofInt 96 (s.tim.arg.toInt * 4294967296))).pmIncomplete ∧
      ∀ ppm, exec (.slew p ppm) s = .next { s with tim := { s.tim with
        err := 0, slew := s.tim.arg.toInt * 4294967296, slewPpm := max 1 ppm.toNat } }) ∧
    (s.tim.srcField ≠ 1 → exec (.tod p) s = stop 5) ∧
    (s.tim.srcField = 1 → s.refLaneId = none → exec (.tod p) s = stop 3) ∧
    (∀ n : LaneId, s.tim.srcField = 1 → s.refLaneId = some n → s.inSync n = true →
      0 < (s.tim.todSfc - (s.lane n).ds.sfc).toNat → (s.tim.todSfc - (s.lane n).ds.sfc).toNat ≤ 2 ^ 20 →
      exec (.tod p) s = .next { s with tim := { s.tim with err := 0, todArmed := true, latchTod := s.tim.arg, latchN := s.tim.todSfc } }) ∧
    exec (.todCancel p) s = .next ok.disarmTod ∧
    (∀ w : W32, s.tim.srcField ≠ 0 → exec (.timIncrWrite p w) s = stop 5) ∧
    (∀ w : W32, s.tim.srcField = 0 → ((fld w 0 8 ++ s.tim.incrLo : BitVec 40).toNat < 6865075726 ∨ 6878819622 < (fld w 0 8 ++ s.tim.incrLo : BitVec 40).toNat) →
      exec (.timIncrWrite p w) s = stop 2) ∧
    (∀ w : W32, s.tim.srcField = 0 → 6865075726 ≤ (fld w 0 8 ++ s.tim.incrLo : BitVec 40).toNat →
      (fld w 0 8 ++ s.tim.incrLo : BitVec 40).toNat ≤ 6878819622 → s.tim.state ≠ .priming →
      exec (.timIncrWrite p w) s = .next { s with tim := { s.tim with
        incr := fld w 0 8 ++ s.tim.incrLo, incrHist := (s.now, fld w 0 8 ++ s.tim.incrLo) :: s.tim.incrHist } }) ∧
    exec (.timNowRead p) s = .next (((s.latch p (base 6 + 0x24) (fld s.tim.count 64 32)).latch p (base 6 + 0x28) (fld s.tim.count 0 32)).emit
      (.read p (fld s.tim.count 32 32))) ∧
    (∀ (e : TxStamp) (rest : List TxStamp), s.tim.txq = e :: rest →
      ∃ t, exec (.txqRead p) s = .next t ∧ t.tim = { s.tim with txq := rest } ∧ t.out = .read p e.word0 :: s.out) ∧
    exec (.txqDropsRead p) s = .next (State.emit { s with tim := { s.tim with txqDrops := 0 } } (.read p s.tim.txqDrops)) ∧
    (∀ c : Fin 8, exec (.cmpArm p c) s = .next { s with tim := { s.tim with cmp := vmod s.tim.cmp c.val fun x => x.arm s.tim.ns } })) ∧
  (∀ s : State, s.isOn dTim = true → s.clocked = true → (∀ n : LaneId, s.isLine n.val = true → (s.lane n).ts.stale = false) →
    exec .replicaUpdate s = .next { s with lanes := s.lanes.map fun l => { l with ts := { l.ts with
      stale := false, repBase := s.tim.count, repAt := s.now, repIncr := s.tim.incr, repState := s.tim.state.code,
      repValid := s.tim.valid } } }) ∧
  (∀ (s : State) (n : LaneId), (s.lane n).ts.stale = false → s.isLine n.val = true →
    exec (.replicaStale n) s =
      .next ((s.modLane n fun l => { l with ts := { l.ts with stale := true } }).report (laneEv n 7) 2 [2#8])) ∧
  (∀ (s : State) (p : Port) (n : LaneId), s.reachesLane p n .common →
    ((s.role n.val = 0 ∨ (s.lane n).com.genEn = true) → s.isOn (dRx n.val) = true → s.isOn (dTx n.val) = true →
      exec (.tsCal p n) s = .next (s.modLane n fun l => { l with ts := { l.ts with calBusy := true } })) ∧
    (s.isOn (dTx n.val) = false →
      exec (.tsCal p n) s = .next (s.modLane n fun l => { l with ts := { l.ts with calFail := true } }))) ∧
  (∀ (s : State) (n : LaneId) (rx tx : BitVec 16), (s.lane n).ts.calBusy = true →
    (near rx (fld s.vault.cal[n.val] 0 16) = true → near tx (fld s.vault.cal[n.val] 16 16) = true →
      exec (.tsCalDone n rx tx) s = .next ((s.modLane n fun l =>
        { l with ts := { l.ts with calBusy := false, rxDelay := rx, txDelay := tx } }).txBegins n)) ∧
    ((near rx (fld s.vault.cal[n.val] 0 16) = false ∨ near tx (fld s.vault.cal[n.val] 16 16) = false) → exec (.tsCalDone n rx tx) s = .next ((s.modLane n fun l =>
      { l with ts := { l.ts with calBusy := false, calFail := true } }).txBegins n))) ∧
  -- a frame of lane n with this tag has left: its stamp request is met once
  (∀ (s : State) (n : LaneId) (tag : BitVec 16), (s.isLine n.val = true ∨ s.isEth n.val = true) → tag ∈ (s.lane n).ts.tags →
    let u := s.modLane n fun l => { l with ts := { l.ts with tags := l.ts.tags.erase tag } }
    (s.isOn dTim = true → s.tim.txq.length < 64 → exec (.txStamp n tag) s = .next { u with tim := { s.tim with
      txq := s.tim.txq ++ [{ tag := tag, lane := BitVec.ofNat 7 n.val, stamp := s.txStamp n }] } }) ∧
    (s.isOn dTim = true → 64 ≤ s.tim.txq.length → s.tim.txqOvf = false → exec (.txStamp n tag) s = .next (State.report
      { u with tim := { s.tim with txqOvf := true, txqDrops := satAdd s.tim.txqDrops 1 } } 1010 1)) ∧
    (s.isOn dTim = false → exec (.txStamp n tag) s = .next u)) ∧
  (∀ (s : State) (c : Fin 8), s.isOn dTim = true → s.tim.cmp[c.val].armed = true → s.tim.cmp[c.val].reached s.tim.ns = true →
    exec (.cmpFire c) s = .next (State.report
      { s with tim := { s.tim with cmp := vmod s.tim.cmp c.val fun x => x.fire s.tim.ns } } (1012 + c.val) 1)) ∧
  (∀ (s : State) (k : Nat), s.isOn dTim = true → s.tim.ppsDue = some k →
    (bit s.tim.ppsCtl 0 = true → (s.tim.valid = true ∨ bit s.tim.ppsCtl 1 = true) → exec .ppsOutPulse s = .next { s with tim :=
      { s.tim with ppsDue := none, ppsOut := true, ppsPhase := k, ppsWidth := max 1 (fld s.tim.ppsCtl 2 8).toNat } }) ∧
    ((bit s.tim.ppsCtl 0 = false ∨ (s.tim.valid = false ∧ bit s.tim.ppsCtl 1 = false)) →
      exec .ppsOutPulse s = .next { s with tim := { s.tim with ppsDue := none } })) ∧
  (∀ s : State, exec .ppsOutEnd s = .next { s with tim := { s.tim with ppsOut := false } })

/-- A periodic comparator's target lies past the count after it has fired, within one period of it (R444). -/
def Obligations.FiredComparatorsAdvance : Prop :=
  ∀ (c : Cmp) (ns : W64), c.armed = true → c.per ≠ 0 → 0 ≤ (fld ns 0 40 - c.target : BitVec 40).toInt →
    (c.fire ns).fired = true ∧ (c.fire ns).armed = true ∧
    0 < ((c.fire ns).target - fld ns 0 40 : BitVec 40).toNat ∧
    ((c.fire ns).target - fld ns 0 40 : BitVec 40).toNat ≤ c.per.toNat

/-- Time of day, the servo's samples and states, the downstream delay and PPS_IN (R436, R439 to R442, R446).
The model's own choices in its clauses: assumptions 27, 61, 62. -/
def Obligations.ServoCommandsTakeEffect : Prop :=
  (∀ s : State, s.isOn dTim = true →
    (s.tim.srcField ≠ 1 → exec .tauDsRecompute s = .next s.retau) ∧
    (s.tim.srcField = 1 → s.tim.steers = true → s.tim.stepTh < s.retau.tim.tau.getD 0 - s.tim.tau.getD 0 →
      exec .tauDsRecompute s = .next s.retau.refChange)) ∧
  (∀ s : State, s.isOn dTim = true → s.tim.srcField = 1 → s.refPresent = false →
    (s.tim.steers = true → exec .refLost s = .next s.refLoss) ∧
    (s.tim.steers = false → exec .refLost s = .next { s with tim := { s.tim with holdRun := [] } })) ∧
  (∀ s : State, s.isOn dTim = true → s.tim.srcField = 2 → s.tim.steers = false →
    exec .refLost s = .next { s with tim := { s.tim with ppsPresent := false, holdRun := [] } }) ∧
  (∀ (s : State) (ps : PsyncStamp), s.isOn dTim = true → s.tim.srcField = 1 → s.tim.todArmed = true → s.tim.psync = some ps →
    ps.sfc = s.tim.latchN →
    (s.tauNow = none → exec .todLatch s = .next (State.report
      { s.disarmTod with tim := { s.disarmTod.tim with err := 4 } } 1011 1)) ∧
    (∀ tau, s.tauNow = some tau → s.tim.timeSet = true → exec .todLatch s = .next
      { s.disarmTod with tim := { s.disarmTod.tim with
        anchor := some { time := (s.disarmTod.tim.latchTod.toNat : Int) * 4294967296, sfc := ps.sfc } } }) ∧
    -- the first latch steps the count onto the time of day
    (∀ tau : Int × W32, s.tauNow = some tau → s.tim.timeSet = false →
      let tod := (s.tim.latchTod.toNat : Int) * 4294967296
      let u : State := { s with tim := { s.tim with todArmed := false, anchor := some { time := tod, sfc := ps.sfc } } }
      let v := (u.putCount (s.tim.count + BitVec.ofInt 96 (-(BitVec.ofInt 96 (ps.time - (tod + tau.1))).toInt))).pmIncomplete
      exec .todLatch s = .next { v with tim := { v.tim with timeSet := true, psync := none } })) ∧
  (∀ (s u : State) (e : Int), s.isOn dTim = true → s.refPresent = true → s.takeSample = some (e, u) →
    let v := State.endCond { u with tim := { u.tim with lastE := e } } 1008
    (v.tim.state = .host → exec .servoSample s = .next v) ∧
    (v.tim.state = .acquire ∨ v.tim.state = .locked → exec .servoSample s = .next (v.steered e)) ∧
    (v.tim.state = .priming → v.tim.holdBit = true → exec .servoSample s = .next v) ∧
    (v.tim.state = .priming → v.tim.holdBit = false → exec .servoSample s =
      .next (State.steered { v with tim := { v.tim.noRuns with state := .acquire, freq := 0 } } e)) ∧
    (v.tim.state = .holdover → v.tim.holdBit = false → exec .servoSample s = .next { v with tim := v.tim.held e }) ∧
    (v.tim.state = .holdover → v.tim.holdBit = true → exec .servoSample s = .next { v with tim := { v.tim with holdRun := [] } })) ∧
  (∀ (s : State) (p : Port) (w : W32), s.reaches p 6 → s.tim.srcField = ({ s.tim with ctl := w } : Time).srcField →
    s.tim.refLane = ({ s.tim with ctl := w } : Time).refLane → (s.tim.holdBit = true ∨ bit w 11 = false) →
    exec (.timCtlWrite p w) s = .next { s with tim := { s.tim with ctl := w } }) ∧
  -- SRC becomes 0: the host steers (R441)
  (∀ (s : State) (p : Port) (w : W32), s.reaches p 6 → s.tim.srcField ≠ 0 → ({ s.tim with ctl := w } : Time).srcField = 0 →
    s.tim.refLane = ({ s.tim with ctl := w } : Time).refLane →
    exec (.timCtlWrite p w) s = .next { s with tim := { s.tim.noRuns with
      ctl := w, state := .host, todArmed := false, psync := none, ppsSample := none } }) ∧
  (∀ (s : State) (sub : Fin 16) (y : Nat), s.isOn dTim = true → s.tim.ppsLastEdge = some y →
    let v := s.tim.count + BitVec.ofNat 96 (s.tim.incr.toNat * sub.val / 16)
    let t := { s.tim with ppsStamp := { ns := fld v 32 64, frac := fld v 16 16 }, ppsLastEdge := some s.now }
    (s.now - y < 9000000000 → exec (.ppsInEdge sub) s = .next { s with tim := t }) ∧
    (9000000000 ≤ s.now - y → s.now - y ≤ 11000000000 → s.tim.ppsLastUsable = some y → s.tim.srcField = 2 →
      exec (.ppsInEdge sub) s = .next (State.endCond { s with tim := { t with
        ppsLastUsable := some s.now, ppsSample := some (s.tim.ppsError v), ppsPresent := true } } 1008)))

/-- The servo's increment always lies in the range of R426: a sample in ACQUIRE or LOCKED that steers leaves an increment between
6,865,075,726 and 6,878,819,622, whatever the phase error. -/
def Obligations.SteeringStaysInRange : Prop :=
  ∀ (s : State) (e : Int), 6865075726 ≤ (s.steer e).tim.incr.toNat ∧ (s.steer e).tim.incr.toNat ≤ 6878819622

/-- The cistern controller's commands and modes, and line errors (R456 to R458, R461 to R466, R468).
The model's own choices in its clauses: assumptions 23, 63, 103. -/
def Obligations.CisternCommandsTakeEffect : Prop :=
  (∀ (s : State) (p : Port) (d : Fin 4), s.reaches p 9 →
    let stop := fun e : BitVec 4 => (.next { s with cst := { s.cst with err := e } } : Res)
    (s.cst.mode = .normal →
      exec (.retrain p d) s = .next (s.cstDrain (BitVec.ofFin d) false) ∧
      exec (.retire p d) s = .next (s.cstDrain (BitVec.ofFin d) true)) ∧
    (s.cst.mode = .degraded → s.cst.dev = BitVec.ofFin d → exec (.retrain p d) s =
      .next (((State.request { s with cst := { s.cst with err := 0 } } 4 true 33554432).cstEnter .retraining).powerSettle)) ∧
    (s.cst.mode = .degraded → s.cst.dev ≠ BitVec.ofFin d → exec (.retrain p d) s = stop 3) ∧
    (s.cst.mode ≠ .normal → exec (.retire p d) s = stop 1) ∧
    (s.cst.mode = .training ∨ s.cst.mode = .offline → exec (.retrain p d) s = stop 1) ∧
    (s.cst.busy = false → exec (.scrubNow p) s = .next (
      let u := s.request 4 false (33554432 * popCount s.cst.inService)
      { u with cst := { u.cst with err := 0, scrubbing := true } })) ∧
    (s.cst.busy = true → exec (.scrubNow p) s = stop 1)) ∧
  (∀ (s : State) (failed : BitVec 4),
    (s.cst.mode = .training → s.cstUp = true →
      exec (.cstTrainDone failed) s = .next (s.maintServed.trained (s.cstFailed failed)).powerSettle) ∧
    (s.cst.mode = .retraining → s.isOn (dCst s.cst.dev.toNat) = true → s.cst.waiting 4 = 0 →
      (bit failed s.cst.dev.toNat = true → exec (.cstTrainDone failed) s =
        .next ((State.cstEnter (s.report (941 + 2 * s.cst.dev.toNat) 3) .degraded).powerSettle)) ∧
      (bit failed s.cst.dev.toNat = false → exec (.cstTrainDone failed) s = .next
        (((State.request { s with cst := { s.cst with trained := setBit s.cst.trained s.cst.dev.toNat true } } 4 true
          s.redirectLines).cstEnter .restoring).powerSettle)))) ∧
  (∀ s : State, s.cst.mode = .draining →
    exec .redirectCopyDone s = .next (let u := s.maintServed; { u with cst := { u.cst with copied := true } }) ∧
    (s.cst.copied = false → ∀ timeout, exec (.drainDone timeout) s = .next s)) ∧
  -- what drains, retires or trains again; what is discarded on a timeout counts
  (∀ (s : State) (timeout : Bool), s.cst.mode = .draining → s.cst.copied = true →
    let w := if timeout then s.loseLines else s
    let u := (w.cstCnt 0x8E (s.cisternHeld - w.cisternHeld)).modCst fun c => { c with trained := setBit c.trained c.dev.toNat false }
    (w.cst.retiring = true → exec (.drainDone timeout) s = .next (u.cstEnter .degraded).powerSettle) ∧
    (w.cst.retiring = false →
      exec (.drainDone timeout) s = .next ((u.request 4 true 33554432).cstEnter .retraining).powerSettle)) ∧
  (∀ s : State, s.cst.mode = .restoring → exec .restoreDone s = .next ((s.maintServed.cstCnt 0x8C).cstEnter .normal).powerSettle) ∧
  (∀ s : State, s.cst.waiting 4 = 0 →
    (s.cst.scrubbing = true →
      exec (.scrubPass (Vector.replicate 8 0)) s = .next ((s.modCst fun c => { c with scrubbing := false }).cstCnt 0x8A)) ∧
    (s.cst.scrubbing = false → fld s.cst.ctl 8 8 = 0#8 → ∀ v, exec (.scrubPass v) s = .next s)) ∧
  (∀ (s : State) (ch : Fin 8) (line : BitVec 24),
    exec (.cstLineError ch line .corrected .scrub) s = .next ((s.cstCnt (16 * ch.val + 4)).correctedEvent ch.val) ∧
    (∀ (k : Fin 3) (user : CstUser), exec (.cstLineError ch line (.retried k) user) s = .next (s.cstCnt (16 * ch.val + 8) (k.val + 1))) ∧
    ∃ t, exec (.cstLineError ch line .uncorrectable .scrub) s = .next t ∧
      t.cst.errLoc = (atN 0 3 ch.val ||| at' 3 line) ∧ t.cst.uncSeen = true) ∧
  (∀ (s : State) (p : Port), s.reaches p 9 →
    (s.cst.cntAddr.toNat % 2 = 0 →
      exec (.cstCntRead p) s = .next ((s.latch p (base 9 + 0x18) (fld (Tab.get 0 s.cst.cnt s.cst.cntAddr.toNat) 32 32)).emit
        (.read p (fld (Tab.get 0 s.cst.cnt s.cst.cntAddr.toNat) 0 32)))) ∧
    (s.cst.cntAddr.toNat % 2 = 1 → exec (.cstCntRead p) s = .next (s.emit (.read p (s.latched p (base 9 + 0x18))))))

/-- Resets of the PCIe function, the link, gated and partial accesses, and feature negotiation (R94, R472 to R478, R491, R537).
The model's own choices in its clauses: assumptions 64, 67, 78. -/
def Obligations.HostInterfaceCommandsTakeEffect : Prop :=
  (∀ s : State,
    (s.isOn dHif = true →
      exec (.perst true) s = .next { s with pins := { s.pins with perstHigh := true } } ∧
      exec (.perst false) s = .next (State.linkTo (State.hifReset { s with pins := { s.pins with perstHigh := false } }) 0 0) ∧
      exec .hotReset s = .next (s.hifReset.linkTo 0 0) ∧
      exec .functionLevelReset s = .next s.hifReset) ∧
    (s.isOn dHif = false → s.pins.perstHigh = false →
      exec (.perst true) s = .next (State.fire { s with pins := { s.pins with perstHigh := true } } 3 0)) ∧
    (s.isOn dHif = false → exec .hotReset s = .next s ∧ exec .functionLevelReset s = .next s)) ∧
  (∀ (s : State) (speed : BitVec 4) (width : BitVec 5), s.isOn dHif = true →
    (s.hif.speed = speed → s.hif.width = width → exec (.linkChange speed width) s = .next s) ∧
    ((s.hif.speed ≠ speed ∨ s.hif.width ≠ width) → s.hif.changed = false → exec (.linkChange speed width) s = .next
      (State.report { s with hif := { s.hif with speed := speed, width := width, changed := true } } 912 2))) ∧
  (∀ (s : State) (p : Port) (a : BitVec 25), s.portUp p = true → a.toNat % 4 = 0 → assigned (a.toNat / 0x20000) = true →
    s.answersAt a.toNat = false → s.isOn dHif = true → s.clocked = true → bit s.hif.gated 31 = false →
    let rec' := fun write : Bool => State.report { s with hif := { s.hif with
      gatedCount := satAdd s.hif.gatedCount 1, gated := gatedWord p a.toNat write } } 913 1
    exec (.gatedAccess p a true) s = .next (rec' true) ∧
    exec (.gatedAccess p a false) s = .next ((rec' false).emit (.read p (0xE0E00000#32 + BitVec.ofNat 32 (a.toNat / 0x20000))))) ∧
  (∀ (s : State) (a : BitVec 25),
    (s.portUp .pcie = true → exec (.partialWrite .pcie a) s =
      .next { s with hif := { s.hif with partialCnt := satAdd s.hif.partialCnt 1 } }) ∧
    exec (.partialWrite .twoWire a) s = .next s) ∧
  (∀ (s : State) (p : Port), s.reaches p 8 →
    exec (.hifCountRead p true) s = .next (State.emit { s with hif := { s.hif with partialCnt := 0 } } (.read p s.hif.partialCnt)) ∧
    exec (.hifCountRead p false) s = .next (State.emit { s with hif := { s.hif with gatedCount := 0 } } (.read p s.hif.gatedCount)) ∧
    ∀ w : W32, exec (.twCtlWrite p w) s = .next { s with
      hif := { s.hif with twAddr := fld w 0 7, pecReq := bit w 7 }, pwr := { s.pwr with twCopy := fld w 0 8 } }) ∧
  (∀ (s : State) (p : Port) (i : Fin 4) (w : W32), s.reaches p 0 →
    (s.sys.lock = true → exec (.featAcceptWrite p i w) s = .next { s with sys := { s.sys with reject := true } }) ∧
    (s.sys.lock = false → exec (.featAcceptWrite p i w) s = .next { s with sys := { s.sys with
      accept := putFld s.sys.accept (32 * i.val) (w &&& fld featOffer (32 * i.val) 32)
      reject := s.sys.reject || (w &&& ~~~(fld featOffer (32 * i.val) 32)) != 0 } }) ∧
    (s.feature 8 = true ∨ bit w 0 = false ∨ bit s.sys.accept 8 = false →
      exec (.featLock p w) s = .next { s with sys := { s.sys with
        lock := s.sys.lock || bit w 0, reject := s.sys.reject && !bit w 1 } }) ∧
    (s.sys.lock = false → bit w 0 = true → bit s.sys.accept 8 = true →
      exec (.featLock p w) s = .next (State.linksStart { s with sys := { s.sys with
        lock := true, reject := s.sys.reject && !bit w 1 } })))

/-- Doorbells, enabling and stopping of rings, their interrupts and errors, and the posting of frames and events (R480 to R490).
The model's own choices in its clauses: assumptions 65, 111. -/
def Obligations.RingCommandsTakeEffect : Prop :=
  (∀ (s : State) (r : RingId) (w : W32), s.portUp .pcie = true →
    let x := s.ring r.val
    (x.accepts (r.val == 0 || r.val == 1 || r.val == 3) w = true →
      exec (.doorbell r w) s = .next (s.modRing r.val fun x => { x with hostIdx := w })) ∧
    (x.accepts (r.val == 0 || r.val == 1 || r.val == 3) w = false →
      exec (.doorbell r w) s = .next (s.modRing r.val fun x => { x with dbErr := true })) ∧
    (x.en = false → s.feature (ringFeature r.val) = true → exec (.ringEnable r) s = .next (s.modRing r.val fun x =>
      { x with ctl := setBit x.ctl 0 true, devIdx := 0, hostIdx := 0, unsig := 0, stopped := false })) ∧
    (s.feature (ringFeature r.val) = false → exec (.ringEnable r) s = .next s) ∧
    exec (.ringDisable r) s = .next (s.modRing r.val fun x => { x with ctl := setBit x.ctl 0 false }) ∧
    exec (.ringDropsRead r) s = .next ((s.modRing r.val fun x => { x with drops := 0 }).emit (.read .pcie x.drops))) ∧
  (∀ (s : State) (r : RingId),
    ((s.ring r.val).en = false → exec (.ringStopped r) s = .next (s.modRing r.val fun x => { x with stopped := true })) ∧
    ((s.ring r.val).stopped = false → ∀ k, exec (.ringDmaError r k) s = .next (State.report
      ((s.ringLost r.val k).modRing r.val fun x => { x with ctl := setBit x.ctl 0 false, dmaErr := true }) (914 + r.val) 3)) ∧
    (0 < (s.ring r.val).unsig → fld (s.ring r.val).ctl 24 8 ≠ 0#8 → bit (s.ring r.val).ctl 14 = true →
      exec (.ringCoalTimer r) s = .next
        ((s.modRing r.val fun x => { x with unsig := 0 }).msixSend (fld (s.ring r.val).ctl 8 6).toNat))) ∧
  (∀ (s : State) (f : Punt) (rest : List Punt) (bufs : List (W64 × BitVec 16)), s.hif.puntQ = f :: rest →
    let u : State := { s with hif := { s.hif with puntQ := rest } }
    ((s.ring 0).en = false → exec (.punt bufs) s = .next ((u.toSump f.quad 21 f.bytes.length).ringDrop 0)) ∧
    (∀ l, s.isOn dHif = true → (s.ring 0).en = true → s.feature 0 = true →
      fillBufs f.bytes.length (bufs.take (s.ring 0).posted) = some l → exec (.punt bufs) s = .next (u.puntWrite f l))) ∧
  (∀ (s : State) (d : InjDesc) (rest : List InjDesc), s.isOn dHif = true → (s.ring 1).en = true → s.feature 1 = true →
    rest.length < (s.ring 1).posted →
    (injShape (d :: rest) = false → exec (.inject (d :: rest)) s = .next (s.injResult (rest.length + 1) 2)) ∧
    (injShape (d :: rest) = true → exec (.inject (d :: rest)) s = .next
      (((s.injFrame d (d :: rest)).1.injResult (rest.length + 1) (s.injFrame d (d :: rest)).2).floatsAll))) ∧
  (∀ (s : State) (q : W32) (x : Raised) (rest : List (W32 × Raised)), s.evt.toRing = (q, x) :: rest →
    let u : State := { s with evt := { s.evt with toRing := rest } }
    ((s.ring 2).en = false → exec .eventRingPost s = .next u) ∧
    (s.isOn dHif = true → (s.ring 2).en = true → s.feature 2 = true → 0 < (s.ring 2).room →
      exec .eventRingPost s = .next ((u.ringPut 2 (s.ring 2).devIdx 0 (eventEntry q x (s.ring 2).ph)).ringAdvance 2 1)) ∧
    (s.isOn dHif = true → (s.ring 2).en = true → s.feature 2 = true → (s.ring 2).room = 0 → (s.ring 2).ovf = false →
      exec .eventRingPost s =
        .next (State.report ((u.ringDrop 2).modRing 2 fun y => { y with ovf := true }) 919 2)))

/-- The two-wire port reaches BAR0 registers, and answers gated accesses with status bit 0 (R475, R491, R492).
The model's own choices in its clauses: assumptions 66, 111. -/
def Obligations.TwoWireCommandsTakeEffect : Prop :=
  (∀ (s : State) (off data : W32), s.portUp .twoWire = true → off.toNat < 2 ^ 25 → off.toNat % 4 = 0 →
    assigned (off.toNat / 0x20000) = true →
    let addr : BitVec 7 := fld s.pwr.twCopy 0 7
    let pec : Byte := crc8 ([addr ++ 0#1, 1#8] ++ leBytes 4 off.toNat ++ leBytes 4 data.toNat)
    let rdPec := fun (w : W32) (status : Byte) =>
      crc8 ([addr ++ 0#1, 2#8] ++ leBytes 4 off.toNat ++ [addr ++ 1#1] ++ leBytes 4 w.toNat ++ [status])
    let gated := 0xE0E00000#32 + BitVec.ofNat 32 (off.toNat / 0x20000)
    (s.answersAt off.toNat = true →
      exec (.twWrite addr off data (some pec)) s = .next (s.regWrite off.toNat data) ∧
      (bit s.pwr.twCopy 7 = false → exec (.twWrite addr off data none) s = .next (s.regWrite off.toNat data)) ∧
      exec (.twRead addr off) s = .next ((s.regRead .twoWire off.toNat).2.emit
        (.twRead (s.regRead .twoWire off.toNat).1 false (rdPec (s.regRead .twoWire off.toNat).1 0)))) ∧
    (s.answersAt off.toNat = false →
      exec (.twWrite addr off data (some pec)) s = .next (s.gatedRecord .twoWire off.toNat true) ∧
      exec (.twRead addr off) s = .next ((s.gatedRecord .twoWire off.toNat false).emit (.twRead gated true (rdPec gated 1)))) ∧
    -- a wrong PEC, or none where PEC_REQ asks for one, discards the write
    (s.isOn dHif = true →
      let discarded : Res := .next { s with hif := { s.hif with twErrs := satAdd s.hif.twErrs 1 } }
      (∀ c, c ≠ pec → exec (.twWrite addr off data (some c)) s = discarded) ∧
      (bit s.pwr.twCopy 7 = true → exec (.twWrite addr off data none) s = discarded))) ∧
  (∀ (s : State) (addr : BitVec 7) (off data : W32) (c : Option Byte), addr ≠ fld s.pwr.twCopy 0 7 →
    exec (.twWrite addr off data c) s = .next s ∧ exec (.twRead addr off) s = .next s)

/-- The referee: reports settle, are absorbed or raised, gather, and close (R500 to R504); they stand still while the clock is stopped.
The model's own choices in its clauses: assumptions 12, 14. -/
def Obligations.RefereeCommandsTakeEffect : Prop :=
  (∀ (s : State) (e : EventId) (sev : BitVec 3) (detail : List Byte), evAssigned e.val = true →
    exec (.eventReport e sev detail) s = .next (s.report e sev detail)) ∧
  (∀ (s : State) (e : EventId) (r : Report) (rest : List Report), s.clocked = true → (s.src e).settle = r :: rest →
    (∀ p, s.absorber e r.cls = some p → exec (.settleEnd e) s = .next (
      let o := s.owner 8 p
      (s.modSrc e fun x => { x with settle := rest, early := 0, absorbed := true, sympTx := x.sympTx + 1 }).modSrc o fun x =>
        x.countSymp (1 + (s.src e).early))) ∧
    (s.absorber e r.cls = none → exec (.settleEnd e) s = .next (
      let u := (s.modSrc e fun x => { occur x s.evt.clk s.evt.window s.evt.thresh with
        settle := rest, early := 0, absorbed := false, raises := x.raises + 1 }).setStatus e
      let x := u.raisedNow e r (u.src e).lasting false (s.src e).early
      if isParent e then u.modSrc e fun y => { y with gather := y.gather ++ [x] } else u.raiseDone x))) ∧
  (∀ (s : State) (e : EventId) (x : Raised) (rest : List Raised), s.clocked = true → (s.src e).gather = x :: rest →
    exec (.gatherEnd e) s = .next ((s.modSrc e fun y => { y with gather := rest }).raiseDone x)) ∧
  (∀ (s : State) (e : EventId), s.clocked = true → (s.src e).hold = true →
    ((s.src e).late = 0 → exec (.holdEnd e) s = .next (s.modSrc e fun y => { y with hold := false, late := 0 })) ∧
    ((s.src e).late ≠ 0 → exec (.holdEnd e) s = .next ((s.modSrc e fun y => { y with hold := false, late := 0 }).reportWith 1020
      { sev := 1, cls := 0, loc := evLoc e, detail := leBytes 2 e ++ leBytes 4 (s.src e).lastSeq.toNat ++ leBytes 4 (s.src e).late.toNat }))) ∧
  (∀ (s : State) (e : EventId), s.clocked = true →
    exec (.lastingExpire e) s = .next (s.modSrc e fun x => { x with lasting := false, occ := [] })) ∧
  -- with its clock stopped the referee's times stand still (R503)
  (∀ (s : State) (e : EventId), s.clocked = false →
    ∀ i ∈ [Instr.settleEnd e, .gatherEnd e, .holdEnd e, .lastingExpire e], exec i s = .next s)

/-- Event registers: a status word clears where 1 is written, the masks, a forced event, and the source window (R506, R507, R510,
R511). -/
def Obligations.EventRegistersTakeEffect : Prop :=
  (∀ (s : State) (p : Port) (g : Fin 32) (w : W32), s.reaches p 3 →
    let a : State := { s with evt := { s.evt with status := vmod s.evt.status g.val fun x => x &&& ~~~w } }
    let b : State := { s with evt := { s.evt with mask := vset s.evt.mask g.val w } }
    (a.evt.groupBit g.val = false ∨ bit (vget 0#32 s.evt.map g.val) 8 = false → exec (.evtStatusWrite p g w) s = .next a) ∧
    (a.evt.groupBit g.val = true → bit (vget 0#32 s.evt.map g.val) 8 = true →
      exec (.evtStatusWrite p g w) s = .next (a.msixSend (fld (vget 0#32 s.evt.map g.val) 0 6).toNat)) ∧
    (b.evt.groupBit g.val = false ∨ bit (vget 0#32 s.evt.map g.val) 8 = false → exec (.evtMaskWrite p g w) s = .next b) ∧
    (b.evt.groupBit g.val = true → bit (vget 0#32 s.evt.map g.val) 8 = true →
      exec (.evtMaskWrite p g w) s = .next (b.msixSend (fld (vget 0#32 s.evt.map g.val) 0 6).toNat))) ∧
  (∀ (s : State) (p : Port) (w : W32), s.reaches p 3 →
    let e := (fld w 0 10 : BitVec 10).toNat
    (bit w 10 = false → exec (.evtForce p w) s = .next s) ∧
    (bit w 10 = true → classVaries e = false → exec (.evtForce p w) s = .next (s.reportWith e
      { sev := 1, cls := fixedClass e, forced := true, loc := evLoc e, detail := [0xFF#8] })) ∧
    (bit w 10 = true → classVaries e = true → exec (.evtForce p w) s = .next (s.reportWith e
      { sev := 1, cls := 0, forced := true, loc := evLoc e, detail := [0xFF#8] }))) ∧
  (∀ (s : State) (p : Port), s.reaches p 3 →
    let e := (fld s.evt.srcSel 0 10 : BitVec 10).toNat
    let c := (fld s.evt.srcSel 10 2 : BitVec 2).toNat
    exec (.evtSrcAccess p) s = .next (State.emit { s with evt := { s.evt with srcSel := srcSelNext s.evt.srcSel } }
      (.read p (s.srcWord e c))) ∧
    (c = 1 → s.srcWord e c = (s.src e).sympRx) ∧ (c = 2 → s.srcWord e c = (s.src e).sympTx) ∧
    (c = 3 → s.srcWord e c = (s.src e).raises))

/-- The well: boot scan, flushes, the power-fail sequence, freeze and thaw, READ, CHALLENGE and CLEAR (R514 to R523).
The model's own choices in its clauses: assumptions 15, 71. -/
def Obligations.WellCommandsTakeEffect : Prop :=
  (∀ s : State, (s.wel.scanned = true → exec .wellScan s = .next s) ∧
    (s.wel.scanned = false → s.wel.preScan = [] → exec .wellScan s = .next { s with
      vault := { s.vault with well := scanKeep s.vault.well, wellBad := 0 },
      wel := { s.wel with
        scanned := true, seqNext := (match newestSeq ((scanKeep s.vault.well).map (·.seq)) with | some q => q + 1 | none => 0)
        preScan := [], badCnt := satAdd s.wel.badCnt s.vault.wellBad } })) ∧
  (∀ s : State, s.wel.sevDue = true →
    exec .wellSeverityFlush s = .next { s with wel := ({ s.wel with sevDue := false } : Well).trigger }) ∧
  (∀ s : State, exec .wellPeriodicFlush s = .next { s with wel := s.wel.trigger }) ∧
  (∀ (s : State) (f : Flush) (q : W32) (rest : List W32) (r : RamRec), s.wel.flush = some f → f.todo = q :: rest →
    s.wel.find q = some r →
    (∀ l, vaultPut s.seqOldest s.vault.well r.body = some l → exec (.wellFlushRecord true) s = .next { s with
      vault := { s.vault with well := l }, wel := (s.wel.flushedRec q).flushNext }) ∧
    ∃ t, exec (.wellFlushRecord false) s = .next t ∧ t.wel.err = 8 ∧ t.vault.well = s.vault.well) ∧
  (∀ s : State, s.wel.pfailSeen = true → exec .pfailFall s = .next s) ∧
  (∀ s : State, s.wel.pfailSeen = false → ∃ t, exec .pfailFall s = .next t ∧ t.wel.pfailSeen = true ∧ t.wel.frozen = false ∧
    t.wel.freezeBroken = (s.wel.freezeBroken || s.wel.frozen)) ∧
  (∀ (s : State) (p : Port), s.reaches p 4 → s.wel.busy.isSome = true →
    ∀ i ∈ [Instr.wellFlush p, .wellFreeze p, .wellThaw p, .wellRead p, .challenge p, .clear p],
      exec i s = .next { s with wel := { s.wel with err := 2 } }) ∧
  (∀ (s : State) (p : Port), s.reaches p 4 → s.wel.busy = none →
    let stop := fun e : BitVec 4 => (.next { s with wel := { s.wel with err := e } } : Res)
    exec (.wellFlush p) s = .next { s with wel := ({ s.wel with err := 0 } : Well).trigger } ∧
    (s.wel.frozen = true → exec (.wellFreeze p) s = stop 4 ∧ exec (.clear p) s = stop 4 ∧
      exec (.wellThaw p) s = .next (State.wellThaw { s with wel := { s.wel with err := 0 } }) ∧
      exec (.wellRead p) s = .next { s with wel := { s.wel with err := 0, busy := some .read, found := false, endSeen := false } }) ∧
    (s.wel.frozen = false → exec (.wellThaw p) s = stop 4 ∧ exec (.wellRead p) s = stop 3) ∧
    (s.wel.frozen = false → s.wel.flush = none → exec (.wellFreeze p) s = .next { s with wel := { s.wel with
      frozen := true, err := 0, frozenSeq := s.wel.seqNext, side := [] } }) ∧
    exec (.challenge p) s = .next { s with wel := { s.wel with err := 0, busy := some .challenge } } ∧
    (s.wel.frozen = false → s.wel.chalValid = false → exec (.clear p) s = stop 5) ∧
    (s.wel.frozen = false → s.wel.chalValid = true → bit s.key.zcfg 12 = false → exec (.clear p) s = stop 7) ∧
    (∀ k, s.wel.frozen = false → s.wel.chalValid = true → bit s.key.zcfg 12 = true → s.deriveKey s.clearName = some k →
      (bytesOf s.wel.token = hmacSha256 k (bytesOf s.wel.chal) → exec (.clear p) s = .next { s with
        wel := { s.wel with chalValid := false, err := 0, busy := some .clear } }) ∧
      (bytesOf s.wel.token ≠ hmacSha256 k (bytesOf s.wel.chal) → exec (.clear p) s = .next { s with
        wel := { s.wel with chalValid := false, err := 6 } }))) ∧
  (∀ s : State, (s.wel.frozen = true → exec .freezeTimeout s = .next s.wellBreakFreeze) ∧
    (s.wel.frozen = false → exec .freezeTimeout s = .next s)) ∧
  (∀ s : State, exec .challengeExpire s = .next { s with wel := { s.wel with chalValid := false } }) ∧
  (∀ s : State,
    (s.wel.busy = some .read →
      (∀ r, s.wellNext = some r → exec .wellCmdDone s = .next { s with wel := { s.wel with
        busy := none, recWin := wordsOf 32 r.bytes, found := true, rdSeq := r.seq + 1 } }) ∧
      (s.wellNext = none → exec .wellCmdDone s = .next { s with wel := { s.wel with busy := none, endSeen := true } })) ∧
    (s.wel.busy = some .challenge → ∃ t, exec .wellCmdDone s = .next t ∧ t.wel.chalValid = true ∧ t.wel.busy = none ∧
      (bytesOf t.wel.chal).drop 16 = beBytes 4 s.wel.seqNext.toNat ++ beBytes 4 s.vault.powerCycles.toNat ++ zeros 8))

/-- A record of the well region is overwritten only by one of at least its severity, and never when its severity is 4, unless the new
record is the record of a clear or the same record again (R517, R523). -/
def Obligations.SevereRecordsSurvive : Prop :=
  ∀ (b : W32) (l l' : List WellRec) (r q : WellRec), vaultPut b l r = some l' → q ∈ l → r.isClear = false → q.seq ≠ r.seq →
    (∀ x ∈ l, x.seq = q.seq → x = q) →
    (q.raised.rep.sev = 4 ∨ r.raised.rep.sev.toNat < q.raised.rep.sev.toNat) → q ∈ l'

/-- The tally: counting, configuration, freezing and snapshots (R526 to R529).
The model's own choices in its clauses: assumption 8. -/
def Obligations.TallyCommandsTakeEffect : Prop :=
  (∀ (s : State) (sel : BitVec 8) (q : Option (BitVec 3)) (sl : Option (BitVec 5)) (k : Nat), s.clocked = true →
    (s.tal.freeze = true → exec (.tallyOccurrence sel q sl k) s = .next s) ∧
    (s.tal.freeze = false → ∃ t, exec (.tallyOccurrence sel q sl k) s = .next t ∧ t.tal.cfg = s.tal.cfg ∧
      ∀ c : Fin 8,
        (admits (vget 0 s.tal.cfg c.val) sel q sl = true → vget 0 t.tal.cnt c.val = vget 0 s.tal.cnt c.val + BitVec.ofNat 48 k) ∧
        (admits (vget 0 s.tal.cfg c.val) sel q sl = false → vget 0 t.tal.cnt c.val = vget 0 s.tal.cnt c.val))) ∧
  (∀ (s : State) (p : Port), s.reaches p 5 →
    (∀ (c : Fin 8) (w : W32), exec (.talCntCfgWrite p c w) s = .next { s with tal := { s.tal with
      cfg := vset s.tal.cfg c.val (w &&& 0x3FFFF#32), cnt := vset s.tal.cnt c.val 0 } }) ∧
    (∀ on, exec (.tallyFreeze p on) s = .next { s with tal := { s.tal with freeze := on } }) ∧
    (∀ w : W32, exec (.snap p w) s = .next { s with tal := { s.tal with
      snapSeq := s.tal.snapSeq + 1, snapTick := s.tal.tick, snap := s.tal.cnt,
      freeze := bit w 0, userEn := bit w 2, userSnap := bit w 3 } })) ∧
  (∀ s : State, s.portUp .pcie = true →
    (s.tal.userEn = true → s.feature 11 = true → s.tal.userSnap = true → exec .userSnap s = .next { s with tal := { s.tal with
      snapSeq := s.tal.snapSeq + 1, snapTick := s.tal.tick, snap := s.tal.cnt } }) ∧
    (s.tal.userSnap = false → exec .userSnap s = .next s))

/-- A step takes the command at the front of the queue and gives it to exec with the rest of the queue. -/
def Obligations.StepRunsTheFrontCommand : Prop :=
  (∀ (s : State) (c : Instr) (rest : List Instr), s.pending = c :: rest → step s = exec c { s with pending := rest }) ∧
  ∀ (s : State) (c : Instr), step { s with pending := c :: s.pending } = exec c s

/-- On an empty queue 1.6 ns pass: the count, the tick counter and the RTC go on, and the waiting commands stay; outputs and lanes stay
where no host-bond link has its data on and no Ethernet port receives blocks, and the cistern where no line waits. That a step of an empty
queue is a tick is the model's choice (assumption 1). -/
def Obligations.EmptyQueueTicks : Prop :=
  ∀ s : State, s.pending = [] → ∃ t, step s = .next t ∧ t.now = s.now + 16 ∧ t.pending = [] ∧ t.vault = s.vault ∧
    t.quads = s.quads ∧ t.cores = s.cores ∧ t.key = s.key ∧ t.hif = s.hif ∧ t.tbl = s.tbl ∧
    t.sys = s.sys ∧ t.str = s.str ∧
    ((∀ n : LaneId, (s.lane n).hb.dataOn = false) → (∀ n : LaneId, s.ethOn n = false) → t.out = s.out ∧ t.lanes = s.lanes) ∧
    ((∀ k : Fin 5, s.cst.reqs[k.val] = []) → t.cst = s.cst) ∧
    (s.isOn dTim = true → t.tim.count = s.tim.count + s.tim.incr.setWidth 96 + BitVec.ofInt 96 s.tim.slewTick) ∧
    (s.isOn dTim = false → t.tim = s.tim) ∧
    (s.isOn dTim = true → s.clocked = true → s.tal.freeze = false → t.tal.tick = s.tal.tick + 1) ∧
    (s.tal.freeze = true → t.tal = s.tal)

/-- No command and no tick stops the model: from every state any number of steps answers a next state. -/
def Obligations.EveryRunGoesOn : Prop := ∀ (n : Nat) (s : State), Safe s ∧ SafeFor n s

/-- Every command completes, and changes nothing outside the parts of the state that its row of `touches` names: islands, vault,
quadrants, cores, lanes, pins, latches, outputs; the waiting commands and the model time are never among them. -/
def Obligations.CommandsChangeOnlyWhatTheyTouch : Prop :=
  ∀ (c : Instr) (s : State), ∃ t, exec c s = .next t ∧ Only (touches c) s t ∧ t.pending = s.pending ∧ t.now = s.now

/-- No step lowers a monotonic counter of the vault: the rollback floor, the seal-start counter, the power cycles, the operating seconds
and the host counters (R415). The premise rules out a host counter that is about to pass its largest value, which no accepted
MONO_INCR leads to. -/
def Obligations.MonotonicCountersNeverDecrease : Prop :=
  ∀ s t : State, (∀ c : BitVec 4, s.key.busy = some (.monoIncr c) → vget 0 s.vault.mono (c.toNat - 4) ≠ BitVec.allOnes 32) →
    step s = .next t →
    s.vault.floor.toNat ≤ t.vault.floor.toNat ∧ s.vault.sealStart.toNat ≤ t.vault.sealStart.toNat ∧
    s.vault.powerCycles.toNat ≤ t.vault.powerCycles.toNat ∧ s.vault.operatingS.toNat ≤ t.vault.operatingS.toNat ∧
    ∀ i : Fin 4, (s.vault.mono[i.val]).toNat ≤ (t.vault.mono[i.val]).toNat

/-- Every step keeps the premise of MonotonicCountersNeverDecrease: a MONO_INCR in progress names a counter that can still rise
(R415). -/
def Obligations.AcceptedIncrementsStayPossible : Prop :=
  ∀ s t : State, (∀ c : BitVec 4, s.key.busy = some (.monoIncr c) → vget 0 s.vault.mono (c.toNat - 4) ≠ BitVec.allOnes 32) →
    step s = .next t →
    ∀ c : BitVec 4, t.key.busy = some (.monoIncr c) → vget 0 t.vault.mono (c.toNat - 4) ≠ BitVec.allOnes 32

/-- The state after reset: no command waits, no MONO_INCR is in progress, the loader is EMPTY, the terminal is in Run with its domains
off, every memory that the spec resets to 0 reads as 0 (R46, R415, R535, R564). The level of the pins is the model's choice
(assumption 9). -/
def Obligations.ResetLeavesTheTerminalIdle : Prop :=
  State.reset.pending = [] ∧ State.reset.key.busy = none ∧ State.reset.str.state = .empty ∧ State.reset.str.busy = none ∧
  State.reset.pwr.state = .run ∧ State.reset.latchPcie = [] ∧ State.reset.latchTw = [] ∧ State.reset.pwr.on = 0 ∧ State.reset.sys.scratch = 0 ∧ State.reset.tim.count = 0 ∧
  (∀ n : Fin 96, State.reset.str.roles[n.val] = 0) ∧ State.reset.tbl.bridge = [] ∧ State.reset.tbl.flow = [] ∧
  (∀ g : Fin 32, State.reset.evt.status[g.val] = 0)

/-- Commands of one lane that act on its equaliser, checker, injector or FEC counters leave every other lane as it is. -/
def Obligations.LaneCommandsLeaveOtherLanes : Prop :=
  ∀ (s t : State) (c : Instr) (n m : LaneId), m ≠ n →
    ((∃ x prev, c = .eqUpdate n x prev) ∨ c = .eqLimit n ∨ (∃ p on, c = .eqFreeze p n on) ∨ (∃ p w, c = .tapWrite p n w) ∨
      c = .adaptFastDone n ∨ (∃ k, c = .noiseReport n k) ∨ (∃ k, c = .checkerLock n k) ∨ (∃ k, c = .checkerLockLoss n k) ∨
      (∃ p k, c = .prbsErrRead p n k) ∨ (∃ p, c = .injSingle p n) ∨ (∃ p, c = .injBurst p n) ∨ (∃ k, c = .fecCodeword n k) ∨
      c = .fecWindowEnd n ∨ (∃ p w, c = .fecThWrite p n w) ∨ (∃ p, c = .dsCntClr p n)) →
    exec c s = .next t → t.lane m = s.lane m

/-- A malformed frame is not classified: it is punted with reason 0x02 where PUNT_MALFORMED is 1, and goes to the sump with cause 4
otherwise (R280). No counter of deep or skipped headers moves. -/
def Obligations.MalformedFramesArePuntedOrDropped : Prop :=
  ∀ (s : State) (q : QuadId) (f : Frame) (rest : List Frame), (s.quad q).parseQ = f :: rest →
    parseFrame ((s.quad q).prsCfg (s.feature 13)) f.bytes = none →
    let u := s.modQuad q fun x => { x with parseQ := rest }
    let g := { f with bank := (s.quad q).active, epoch := (s.quad q).epoch, first := none, act := none }
    (bit (s.quad q).prsCtl 0 = true → exec (.classify q) s = .next (State.floatsAll (u.punt q.val 2 0x02 none g))) ∧
    (bit (s.quad q).prsCtl 0 = false → exec (.classify q) s = .next (State.floatsAll (u.dropFrame q.val 4 g)))

/-- Rule matching: VALID and the masked comparison decide, the lowest index wins, and a frame that matches no rule takes MISS_VERDICT
(R284). -/
def Obligations.TheLowestMatchingRuleActs : Prop :=
  (∀ (r : Rule) (key : BitVec 640), r.hit key = true ↔
    bit (vget 0 r.w 40) 0 = true ∧
    ∀ i : Fin 20, fld key (32 * i.val) 32 &&& vget 0 r.w (20 + i.val) = vget 0 r.w i.val &&& vget 0 r.w (20 + i.val)) ∧
  (∀ (x : Quad) (b : Bool) (key : BitVec 640) (i : Nat) (a : Act), Tab.sorted (x.bankOf b) = true →
    (x.lookup b key = some (i, a) ↔
      (Tab.get {} (x.bankOf b) i).hit key = true ∧ a = (Tab.get {} (x.bankOf b) i).act i ∧
      ∀ j, j < i → (Tab.get {} (x.bankOf b) j).hit key = false)) ∧
  (∀ (s : State) (q : QuadId) (f : Frame) (rest : List Frame) (h : Hdr), (s.quad q).parseQ = f :: rest →
    parseFrame ((s.quad q).prsCfg (s.feature 13)) f.bytes = some h → h.frag = none →
    let u := s.modQuad q fun x => { x with parseQ := rest, deepCnt := if h.deep then satAdd x.deepCnt 1 else x.deepCnt }
    let g := { f with bank := (s.quad q).active, epoch := (s.quad q).epoch, first := none, act := none, hdr := h }
    let hit := (u.quad q).lookup g.bank (u.classKey q.val (keyFields g.lane g.down false 0 g.xgemPort h))
    (∀ i a, hit = some (i, a) → a.rally = false →
      exec (.classify q) s = .next (State.floatsAll ((u.modQuad q fun x => x.countHit g.bank i).actOn q.val g a))) ∧
    (∀ i a, hit = some (i, a) → a.rally = true → a.cipherOp = 1 → s.feature 4 = true →
      exec (.classify q) s = .next (State.floatsAll
        ((u.modQuad q fun x => x.countHit g.bank i).toCipher q.val { g with first := some a }))) ∧
    let m := { g with ptp := u.ptpAuto q.val g }
    (hit = none → bit (s.quad q).clsCtl 1 = false → exec (.classify q) s = .next (State.floatsAll (u.dropFrame q.val 5 m))) ∧
    (hit = none → bit (s.quad q).clsCtl 1 = true → exec (.classify q) s = .next (State.floatsAll (u.punt q.val 2 0x01 none m))))

/-- A read of TIM_NOW_LO returns bits 31 to 0 of the count and latches bits 63 to 32 and the fraction; later reads through the same port
return the latched values, whatever the count has become (R427). -/
def Obligations.TimNowReadsOneMoment : Prop :=
  ∀ (s : State) (p : Port), s.reaches p 6 → Tab.wf 0#32 s.latchPcie = true → Tab.wf 0#32 s.latchTw = true →
    ∃ t, exec (.timNowRead p) s = .next t ∧ t.out = .read p (fld s.tim.count 32 32) :: s.out ∧ t.tim = s.tim ∧
      ∀ u : State, u.latchPcie = t.latchPcie → u.latchTw = t.latchTw →
        (u.regRead p (base 6 + 0x24)).1 = fld s.tim.count 64 32 ∧ (u.regRead p (base 6 + 0x28)).1 = fld s.tim.count 0 32

/-- The latches of low-word reads (R562), one table for each port, keep their canonical form at every step: addresses rise strictly and
no entry is the 0 that an unlisted address reads as. -/
def Obligations.LatchesStayCanonical : Prop :=
  ∀ s t : State, Tab.wf 0#32 s.latchPcie = true → Tab.wf 0#32 s.latchTw = true → step s = .next t →
    Tab.wf 0#32 t.latchPcie = true ∧ Tab.wf 0#32 t.latchTw = true

end
end

