-- ==== Sys2Proof/Laws/Access.lean ====
section
/-!
SUPPORT. What an access to a register does, once for every register (R473, R475): it reaches an island that answers and has that
register's effect, or gets the gated answer, or does not arrive at all.
-/
namespace Sys2Proof.Machine

theorem State.writeIsl_reaches {s : State} {p : Port} {id a : Nat} {k : State → State} (h : s.reaches p id) (ha : a / 0x20000 = id) :
    s.writeIsl p a k = k s := by
  subst ha; simp [State.writeIsl, State.writeAt, h.1, h.2]

theorem State.readIsl_reaches {s : State} {p : Port} {id a : Nat} {k : State → W32 × State} (h : s.reaches p id)
    (ha : a / 0x20000 = id) : s.readIsl p a k = (k s).2.emit (.read p (k s).1) := by
  subst ha; simp [State.readIsl, State.readAt, h.1, h.2]

theorem State.writeIsl_gated {s : State} {p : Port} {a : Nat} {k : State → State} (h : s.portUp p = true)
    (ha : s.islandAnswers (a / 0x20000) = false) : s.writeIsl p a k = s.gatedRecord p a true := by
  simp [State.writeIsl, State.writeAt, h, ha]

theorem State.readIsl_gated {s : State} {p : Port} {a : Nat} {k : State → W32 × State} (h : s.portUp p = true)
    (ha : s.islandAnswers (a / 0x20000) = false) :
    s.readIsl p a k = (s.gatedRecord p a false).emit (.read p (gatedData a)) := by
  simp [State.readIsl, State.readAt, h, ha]

theorem State.writeIsl_down {s : State} {p : Port} {a : Nat} {k : State → State} (h : s.portUp p = false) : s.writeIsl p a k = s := by
  simp [State.writeIsl, State.writeAt, h]

theorem State.readIsl_down {s : State} {p : Port} {a : Nat} {k : State → W32 × State} (h : s.portUp p = false) :
    s.readIsl p a k = s := by
  simp [State.readIsl, State.readAt, h]

theorem State.writeLane_reaches {s : State} {p : Port} {n : LaneId} {off : Nat} {kind : LaneKind} {k : State → State}
    (h : s.reachesLane p n kind) : s.writeLane p n off kind k = k s := by
  simp [State.writeLane, State.writeAt, h.1, h.2.1, h.2.2]

theorem State.readLane_reaches {s : State} {p : Port} {n : LaneId} {off : Nat} {kind : LaneKind} {k : State → W32 × State}
    (h : s.reachesLane p n kind) : s.readLane p n off kind k = (k s).2.emit (.read p (k s).1) := by
  simp [State.readLane, State.readAt, h.1, h.2.1, h.2.2]

end Sys2Proof.Machine
end

