-- ==== Sys2Proof/Laws/Only.lean ====
section
/-!
SUPPORT. Which parts of the state an operation may change: the rules by which such facts compose. The facts themselves, one for each
operation, stand in the other files of this folder.
-/
namespace Sys2Proof.Machine

set_option Elab.async false
set_option linter.unusedTactic false
set_option linter.unreachableTactic false

/-- qs is contained in ps. -/
def subParts (qs ps : List Part) : Bool := qs.all ps.contains

theorem subParts_trans {a b c : List Part} (h : subParts a b = true) (k : subParts b c = true) : subParts a c = true := by
  simp only [subParts, List.all_eq_true] at *
  intro p hp
  exact k p (by simpa using h p hp)

theorem pair_eq {α β : Type} {x : α × β} {a : α} {b : β} (h : x = (a, b)) : a = x.1 ∧ b = x.2 := by subst h; exact ⟨rfl, rfl⟩

theorem triple_eq {α β γ : Type} {x : α × β × γ} {a : α} {b : β} {c : γ} (h : x = (a, b, c)) :
    a = x.1 ∧ b = x.2.1 ∧ c = x.2.2 := by subst h; exact ⟨rfl, rfl, rfl⟩

theorem Part.same_refl (s : State) (p : Part) : p.same s s := by cases p <;> simp [Part.same]

theorem Part.same_trans {s t u : State} {p : Part} (h : p.same s t) (k : p.same t u) : p.same s u := by
  cases p <;> simp_all [Part.same]

theorem Only.refl (ps : List Part) (s : State) : Only ps s s := fun p _ => p.same_refl s

theorem Only.mono {qs ps : List Part} {s t : State} (h : Only qs s t) (hs : subParts qs ps = true) : Only ps s t := by
  intro p hp
  refine h p ?_
  cases hq : qs.contains p with
  | false => rfl
  | true =>
    have := List.all_eq_true.mp hs p (by simpa using hq)
    simp_all

/-- An operation that touches qs, after a part that touches ps. -/
theorem Only.step {qs ps : List Part} {s t u : State} (h : Only qs t u) (hs : subParts qs ps = true) (k : Only ps s t) :
    Only ps s u := fun p hp => Part.same_trans (k p hp) (h.mono hs p hp)

/-- A state whose parts outside ps are those of t. -/
theorem Only.of {ps : List Part} {s t u : State} (h : ∀ p : Part, ps.contains p = false → p.same t u) (k : Only ps s t) :
    Only ps s u := fun p hp => Part.same_trans (k p hp) (h p hp)

/-- A fold of an operation that touches ps. -/
theorem Only.foldl {α : Type} {ps : List Part} {s t : State} {f : State → α → State} (l : List α)
    (h : ∀ s a, Only ps s (f s a)) (k : Only ps s t) : Only ps s (l.foldl f t) := by
  induction l generalizing t with
  | nil => exact k
  | cons a l ih => exact ih (fun p hp => Part.same_trans (k p hp) (h t a p hp))

theorem Only.foldl_fst {α β : Type} {ps : List Part} {s : State} {y : State × β} {f : State × β → α → State × β} (l : List α)
    (h : ∀ y a, Only ps y.1 (f y a).1) (k : Only ps s y.1) : Only ps s (l.foldl f y).1 := by
  induction l generalizing y with
  | nil => exact k
  | cons a l ih => exact ih (fun p hp => Part.same_trans (k p hp) (h y a p hp))

/-- Both branches of a choice. -/
theorem Only.ite {ps : List Part} {s a b : State} {c : Prop} [Decidable c] (h : Only ps s a) (k : Only ps s b) :
    Only ps s (if c then a else b) := by split <;> assumption

theorem Only.ite_fst {α : Type} {ps : List Part} {s : State} {a b : State × α} {c : Prop} [Decidable c] (h : Only ps s a.1)
    (k : Only ps s b.1) : Only ps s (if c then a else b).1 := by split <;> assumption

theorem Only.ite_snd {α : Type} {ps : List Part} {s : State} {a b : α × State} {c : Prop} [Decidable c] (h : Only ps s a.2)
    (k : Only ps s b.2) : Only ps s (if c then a else b).2 := by split <;> assumption

/-- A state written field by field: each field lies in a part of ps or is that of t. -/
theorem Only.mk {ps : List Part} {s t : State} {v0 v1 v2 v3 v4 v5 v6 v7 v8 v9 v10 v11 v12 v13 v14 v15 v16 v17 v18 v19 v20 v21 v22 v23}
    (h0 : ps.contains .sys = true ∨ v0 = t.sys := by first | exact Or.inl rfl | exact Or.inr rfl)
    (h1 : ps.contains .str = true ∨ v1 = t.str := by first | exact Or.inl rfl | exact Or.inr rfl)
    (h2 : ps.contains .pwr = true ∨ v2 = t.pwr := by first | exact Or.inl rfl | exact Or.inr rfl)
    (h3 : ps.contains .evt = true ∨ v3 = t.evt := by first | exact Or.inl rfl | exact Or.inr rfl)
    (h4 : ps.contains .wel = true ∨ v4 = t.wel := by first | exact Or.inl rfl | exact Or.inr rfl)
    (h5 : ps.contains .tal = true ∨ v5 = t.tal := by first | exact Or.inl rfl | exact Or.inr rfl)
    (h6 : ps.contains .tim = true ∨ v6 = t.tim := by first | exact Or.inl rfl | exact Or.inr rfl)
    (h7 : ps.contains .key = true ∨ v7 = t.key := by first | exact Or.inl rfl | exact Or.inr rfl)
    (h8 : ps.contains .hif = true ∨ v8 = t.hif := by first | exact Or.inl rfl | exact Or.inr rfl)
    (h9 : ps.contains .vault = true ∨ v9 = t.vault := by first | exact Or.inl rfl | exact Or.inr rfl)
    (h10 : ps.contains .cst = true ∨ v10 = t.cst := by first | exact Or.inl rfl | exact Or.inr rfl)
    (h11 : ps.contains .tbl = true ∨ v11 = t.tbl := by first | exact Or.inl rfl | exact Or.inr rfl)
    (h12 : ps.contains .fbk = true ∨ v12 = t.fbk := by first | exact Or.inl rfl | exact Or.inr rfl)
    (h13 : ps.contains .stw = true ∨ v13 = t.stw := by first | exact Or.inl rfl | exact Or.inr rfl)
    (h14 : ps.contains .quads = true ∨ v14 = t.quads := by first | exact Or.inl rfl | exact Or.inr rfl)
    (h15 : ps.contains .cores = true ∨ v15 = t.cores := by first | exact Or.inl rfl | exact Or.inr rfl)
    (h16 : ps.contains .lanes = true ∨ v16 = t.lanes := by first | exact Or.inl rfl | exact Or.inr rfl)
    (h17 : ps.contains .pins = true ∨ v17 = t.pins := by first | exact Or.inl rfl | exact Or.inr rfl)
    (h18 : ps.contains .latches = true ∨ v18 = t.latchPcie := by first | exact Or.inl rfl | exact Or.inr rfl)
    (h19 : ps.contains .latches = true ∨ v19 = t.latchTw := by first | exact Or.inl rfl | exact Or.inr rfl)
    (h20 : ps.contains .out = true ∨ v20 = t.out := by first | exact Or.inl rfl | exact Or.inr rfl)
    (h21 : ps.contains .freeIdx = true ∨ v21 = t.freeIdx := by first | exact Or.inl rfl | exact Or.inr rfl)
    (h22 : ps.contains .now = true ∨ v22 = t.now := by first | exact Or.inl rfl | exact Or.inr rfl)
    (h23 : ps.contains .pending = true ∨ v23 = t.pending := by first | exact Or.inl rfl | exact Or.inr rfl)
    (k : Only ps s t) : Only ps s (State.mk v0 v1 v2 v3 v4 v5 v6 v7 v8 v9 v10 v11 v12 v13 v14 v15 v16 v17 v18 v19 v20 v21 v22 v23) := by
  refine Only.of ?_ k
  intro p hp
  cases p <;> simp_all [Part.same]

end Sys2Proof.Machine
end

