-- ==== Sys2Proof/Laws/OnlyOps.lean ====
section
/-!
SUPPORT. What the operations of Machine/Ops.lean may change.
-/
namespace Sys2Proof.Machine

set_option Elab.async false
set_option linter.unusedTactic false
set_option linter.unreachableTactic false

theorem State.tookFree_only (s : State) :
    Only [.freeIdx] s (State.tookFree s) := by
  simp only [State.tookFree]
  repeat' first
    | with_reducible apply Only.refl
    | with_reducible assumption
    | with_reducible apply Only.ite
    | with_reducible apply Only.ite_snd
    | with_reducible apply Only.ite_fst
    | split
    | with_reducible apply Only.foldl _ (fun _ _ => ?_)
    | with_reducible apply Only.foldl_fst _ (fun _ _ => ?_)
    | fail_if_no_progress refine Only.mk (k := ?_)

theorem State.modLane_only (s : State) (n : LaneId) (f : Lane → Lane) :
    Only [.lanes] s (State.modLane s n f) := by
  simp only [State.modLane]
  repeat' first
    | with_reducible apply Only.refl
    | with_reducible assumption
    | with_reducible apply Only.ite
    | with_reducible apply Only.ite_snd
    | with_reducible apply Only.ite_fst
    | split
    | with_reducible apply Only.foldl _ (fun _ _ => ?_)
    | with_reducible apply Only.foldl_fst _ (fun _ _ => ?_)
    | fail_if_no_progress refine Only.mk (k := ?_)

theorem State.modCom_only (s : State) (n : LaneId) (f : LaneCommon → LaneCommon) :
    Only [.lanes] s (State.modCom s n f) := by
  simp only [State.modCom]
  repeat' first
    | with_reducible apply Only.refl
    | with_reducible assumption
    | ((with_reducible apply Only.step (State.modLane_only _ _ _)); rfl)
    | with_reducible apply Only.ite
    | with_reducible apply Only.ite_snd
    | with_reducible apply Only.ite_fst
    | split
    | with_reducible apply Only.foldl _ (fun _ _ => ?_)
    | with_reducible apply Only.foldl_fst _ (fun _ _ => ?_)
    | fail_if_no_progress refine Only.mk (k := ?_)

theorem State.modQuad_only (s : State) (q : QuadId) (f : Quad → Quad) :
    Only [.quads] s (State.modQuad s q f) := by
  simp only [State.modQuad]
  repeat' first
    | with_reducible apply Only.refl
    | with_reducible assumption
    | with_reducible apply Only.ite
    | with_reducible apply Only.ite_snd
    | with_reducible apply Only.ite_fst
    | split
    | with_reducible apply Only.foldl _ (fun _ _ => ?_)
    | with_reducible apply Only.foldl_fst _ (fun _ _ => ?_)
    | fail_if_no_progress refine Only.mk (k := ?_)

theorem State.modQuadN_only (s : State) (q : Nat) (f : Quad → Quad) :
    Only [.quads] s (State.modQuadN s q f) := by
  simp only [State.modQuadN]
  repeat' first
    | with_reducible apply Only.refl
    | with_reducible assumption
    | with_reducible apply Only.ite
    | with_reducible apply Only.ite_snd
    | with_reducible apply Only.ite_fst
    | split
    | with_reducible apply Only.foldl _ (fun _ _ => ?_)
    | with_reducible apply Only.foldl_fst _ (fun _ _ => ?_)
    | fail_if_no_progress refine Only.mk (k := ?_)

theorem State.modCore_only (s : State) (k : CoreId) (f : Core → Core) :
    Only [.cores] s (State.modCore s k f) := by
  simp only [State.modCore]
  repeat' first
    | with_reducible apply Only.refl
    | with_reducible assumption
    | with_reducible apply Only.ite
    | with_reducible apply Only.ite_snd
    | with_reducible apply Only.ite_fst
    | split
    | with_reducible apply Only.foldl _ (fun _ _ => ?_)
    | with_reducible apply Only.foldl_fst _ (fun _ _ => ?_)
    | fail_if_no_progress refine Only.mk (k := ?_)

theorem State.modCoreN_only (s : State) (k : Nat) (f : Core → Core) :
    Only [.cores] s (State.modCoreN s k f) := by
  simp only [State.modCoreN]
  repeat' first
    | with_reducible apply Only.refl
    | with_reducible assumption
    | with_reducible apply Only.ite
    | with_reducible apply Only.ite_snd
    | with_reducible apply Only.ite_fst
    | split
    | with_reducible apply Only.foldl _ (fun _ _ => ?_)
    | with_reducible apply Only.foldl_fst _ (fun _ _ => ?_)
    | fail_if_no_progress refine Only.mk (k := ?_)

theorem State.emit_only (s : State) (o : Out) :
    Only [.out] s (State.emit s o) := by
  simp only [State.emit]
  repeat' first
    | with_reducible apply Only.refl
    | with_reducible assumption
    | with_reducible apply Only.ite
    | with_reducible apply Only.ite_snd
    | with_reducible apply Only.ite_fst
    | split
    | with_reducible apply Only.foldl _ (fun _ _ => ?_)
    | with_reducible apply Only.foldl_fst _ (fun _ _ => ?_)
    | fail_if_no_progress refine Only.mk (k := ?_)

theorem State.latch_only (s : State) (p : Port) (a : Nat) (w : W32) :
    Only [.latches] s (State.latch s p a w) := by
  simp only [State.latch]
  repeat' first
    | with_reducible apply Only.refl
    | with_reducible assumption
    | with_reducible apply Only.ite
    | with_reducible apply Only.ite_snd
    | with_reducible apply Only.ite_fst
    | split
    | with_reducible apply Only.foldl _ (fun _ _ => ?_)
    | with_reducible apply Only.foldl_fst _ (fun _ _ => ?_)
    | fail_if_no_progress refine Only.mk (k := ?_)

theorem State.readLow_only (s : State) (p : Port) (hi : Nat) (v : W64) :
    Only [.latches] s (State.readLow s p hi v).2 := by
  simp only [State.readLow]
  repeat' first
    | with_reducible apply Only.refl
    | with_reducible assumption
    | ((with_reducible apply Only.step (State.latch_only _ _ _ _)); rfl)
    | with_reducible apply Only.ite
    | with_reducible apply Only.ite_snd
    | with_reducible apply Only.ite_fst
    | split
    | with_reducible apply Only.foldl _ (fun _ _ => ?_)
    | with_reducible apply Only.foldl_fst _ (fun _ _ => ?_)
    | fail_if_no_progress refine Only.mk (k := ?_)

theorem State.sumpN_only (s : State) (q cause n bytes : Nat) :
    Only [.sys] s (State.sumpN s q cause n bytes) := by
  simp only [State.sumpN]
  repeat' first
    | with_reducible apply Only.refl
    | with_reducible assumption
    | with_reducible apply Only.ite
    | with_reducible apply Only.ite_snd
    | with_reducible apply Only.ite_fst
    | split
    | with_reducible apply Only.foldl _ (fun _ _ => ?_)
    | with_reducible apply Only.foldl_fst _ (fun _ _ => ?_)
    | fail_if_no_progress refine Only.mk (k := ?_)

theorem State.toSump_only (s : State) (q cause bytes : Nat) :
    Only [.sys] s (State.toSump s q cause bytes) := by
  simp only [State.toSump]
  repeat' first
    | with_reducible apply Only.refl
    | with_reducible assumption
    | ((with_reducible apply Only.step (State.sumpN_only _ _ _ _ _)); rfl)
    | with_reducible apply Only.ite
    | with_reducible apply Only.ite_snd
    | with_reducible apply Only.ite_fst
    | split
    | with_reducible apply Only.foldl _ (fun _ _ => ?_)
    | with_reducible apply Only.foldl_fst _ (fun _ _ => ?_)
    | fail_if_no_progress refine Only.mk (k := ?_)

end Sys2Proof.Machine
end

