-- ==== Sys2Proof/Laws/OnlyDrbg.lean ====
section
/-!
SUPPORT. What the operations of Machine/Drbg.lean may change.
-/
namespace Sys2Proof.Machine

set_option Elab.async false
set_option linter.unusedTactic false
set_option linter.unreachableTactic false

theorem State.drbgStart_only (s : State) :
    Only [.key, .freeIdx] s (State.drbgStart s) := by
  simp only [State.drbgStart]
  repeat' first
    | with_reducible apply Only.refl
    | with_reducible assumption
    | ((with_reducible apply Only.step (State.tookFree_only _)); rfl)
    | with_reducible apply Only.ite
    | with_reducible apply Only.ite_snd
    | with_reducible apply Only.ite_fst
    | split
    | with_reducible apply Only.foldl _ (fun _ _ => ?_)
    | with_reducible apply Only.foldl_fst _ (fun _ _ => ?_)
    | fail_if_no_progress refine Only.mk (k := ?_)

theorem State.drbgReseed_only (s : State) :
    Only [.key, .freeIdx] s (State.drbgReseed s) := by
  simp only [State.drbgReseed]
  repeat' first
    | with_reducible apply Only.refl
    | with_reducible assumption
    | ((with_reducible apply Only.step (State.tookFree_only _)); rfl)
    | with_reducible apply Only.ite
    | with_reducible apply Only.ite_snd
    | with_reducible apply Only.ite_fst
    | split
    | with_reducible apply Only.foldl _ (fun _ _ => ?_)
    | with_reducible apply Only.foldl_fst _ (fun _ _ => ?_)
    | fail_if_no_progress refine Only.mk (k := ?_)

theorem State.draw_only (s : State) (n : Nat) :
    Only [.key, .freeIdx] s (State.draw s n).2 := by
  simp only [State.draw]
  repeat' first
    | with_reducible apply Only.refl
    | with_reducible assumption
    | ((with_reducible apply Only.step (State.drbgReseed_only _)); rfl)
    | (rename_i hh; with_reducible apply triple_eq at hh; obtain ⟨rfl, rfl, rfl⟩ := hh)
    | (rename_i hh; with_reducible apply pair_eq at hh; obtain ⟨rfl, rfl⟩ := hh)
    | (rename_i hh; with_reducible apply pair_eq at hh; obtain ⟨-, rfl⟩ := hh)
    | (rename_i hh; with_reducible apply pair_eq at hh; obtain ⟨rfl, -⟩ := hh)
    | with_reducible apply Only.ite
    | with_reducible apply Only.ite_snd
    | with_reducible apply Only.ite_fst
    | split
    | with_reducible apply Only.foldl _ (fun _ _ => ?_)
    | with_reducible apply Only.foldl_fst _ (fun _ _ => ?_)
    | fail_if_no_progress refine Only.mk (k := ?_)

theorem State.drawWord_only (s : State) :
    Only [.key, .freeIdx] s (State.drawWord s).2 := by
  simp only [State.drawWord]
  repeat' first
    | with_reducible apply Only.refl
    | with_reducible assumption
    | ((with_reducible apply Only.step (State.draw_only _ _)); rfl)
    | with_reducible apply Only.ite
    | with_reducible apply Only.ite_snd
    | with_reducible apply Only.ite_fst
    | split
    | with_reducible apply Only.foldl _ (fun _ _ => ?_)
    | with_reducible apply Only.foldl_fst _ (fun _ _ => ?_)
    | fail_if_no_progress refine Only.mk (k := ?_)

end Sys2Proof.Machine
end

