-- ==== Sys2Proof/Laws/OnlyReport.lean ====
section
/-!
SUPPORT. What the operations of Machine/Report.lean may change.
-/
namespace Sys2Proof.Machine

set_option Elab.async false
set_option linter.unusedTactic false
set_option linter.unreachableTactic false

theorem State.modSrc_only (s : State) (e : Nat) (f : Src → Src) :
    Only [.evt] s (State.modSrc s e f) := by
  simp only [State.modSrc]
  repeat' first
    | with_reducible apply Only.refl
    | with_reducible assumption
    | with_reducible apply Only.ite
    | with_reducible apply Only.ite_snd
    | with_reducible apply Only.ite_fst
    | split
    | with_reducible apply Only.foldl _ (fun _ _ => ?_)
    | with_reducible apply Only.foldl_fst _ (fun _ _ => ?_)
    | fail_if_no_progress refine Only.mk (k := ?_)

theorem State.reportWith_only (s : State) (e : Nat) (r : Report) :
    Only [.evt] s (State.reportWith s e r) := by
  simp only [State.reportWith]
  repeat' first
    | with_reducible apply Only.refl
    | with_reducible assumption
    | ((with_reducible apply Only.step (State.modSrc_only _ _ _)); rfl)
    | with_reducible apply Only.ite
    | with_reducible apply Only.ite_snd
    | with_reducible apply Only.ite_fst
    | split
    | with_reducible apply Only.foldl _ (fun _ _ => ?_)
    | with_reducible apply Only.foldl_fst _ (fun _ _ => ?_)
    | fail_if_no_progress refine Only.mk (k := ?_)

theorem State.report_only (s : State) (e : Nat) (sev : BitVec 3) (detail : List Byte) :
    Only [.evt] s (State.report s e sev detail) := by
  simp only [State.report]
  repeat' first
    | with_reducible apply Only.refl
    | with_reducible assumption
    | ((with_reducible apply Only.step (State.reportWith_only _ _ _)); rfl)
    | with_reducible apply Only.ite
    | with_reducible apply Only.ite_snd
    | with_reducible apply Only.ite_fst
    | split
    | with_reducible apply Only.foldl _ (fun _ _ => ?_)
    | with_reducible apply Only.foldl_fst _ (fun _ _ => ?_)
    | fail_if_no_progress refine Only.mk (k := ?_)

theorem State.reportIf_only (s : State) (c : Bool) (e : Nat) (sev : BitVec 3) (detail : List Byte) :
    Only [.evt] s (State.reportIf s c e sev detail) := by
  simp only [State.reportIf]
  repeat' first
    | with_reducible apply Only.refl
    | with_reducible assumption
    | ((with_reducible apply Only.step (State.report_only _ _ _ _)); rfl)
    | with_reducible apply Only.ite
    | with_reducible apply Only.ite_snd
    | with_reducible apply Only.ite_fst
    | split
    | with_reducible apply Only.foldl _ (fun _ _ => ?_)
    | with_reducible apply Only.foldl_fst _ (fun _ _ => ?_)
    | fail_if_no_progress refine Only.mk (k := ?_)

theorem State.reportFreeSev_only (s : State) (e : Nat) (detail : List Byte) :
    Only [.evt, .freeIdx] s (State.reportFreeSev s e detail) := by
  simp only [State.reportFreeSev]
  repeat' first
    | with_reducible apply Only.refl
    | with_reducible assumption
    | ((with_reducible apply Only.step (State.report_only _ _ _ _)); rfl)
    | ((with_reducible apply Only.step (State.tookFree_only _)); rfl)
    | with_reducible apply Only.ite
    | with_reducible apply Only.ite_snd
    | with_reducible apply Only.ite_fst
    | split
    | with_reducible apply Only.foldl _ (fun _ _ => ?_)
    | with_reducible apply Only.foldl_fst _ (fun _ _ => ?_)
    | fail_if_no_progress refine Only.mk (k := ?_)

theorem State.endCond_only (s : State) (e : Nat) :
    Only [.evt] s (State.endCond s e) := by
  simp only [State.endCond]
  repeat' first
    | with_reducible apply Only.refl
    | with_reducible assumption
    | ((with_reducible apply Only.step (State.modSrc_only _ _ _)); rfl)
    | with_reducible apply Only.ite
    | with_reducible apply Only.ite_snd
    | with_reducible apply Only.ite_fst
    | split
    | with_reducible apply Only.foldl _ (fun _ _ => ?_)
    | with_reducible apply Only.foldl_fst _ (fun _ _ => ?_)
    | fail_if_no_progress refine Only.mk (k := ?_)

theorem State.msixSend_only (s : State) (v : Nat) :
    Only [.hif, .out] s (State.msixSend s v) := by
  simp only [State.msixSend]
  repeat' first
    | with_reducible apply Only.refl
    | with_reducible assumption
    | ((with_reducible apply Only.step (State.emit_only _ _)); rfl)
    | with_reducible apply Only.ite
    | with_reducible apply Only.ite_snd
    | with_reducible apply Only.ite_fst
    | split
    | with_reducible apply Only.foldl _ (fun _ _ => ?_)
    | with_reducible apply Only.foldl_fst _ (fun _ _ => ?_)
    | fail_if_no_progress refine Only.mk (k := ?_)

theorem State.setStatus_only (s : State) (e : Nat) :
    Only [.evt, .hif, .out] s (State.setStatus s e) := by
  simp only [State.setStatus]
  repeat' first
    | with_reducible apply Only.refl
    | with_reducible assumption
    | ((with_reducible apply Only.step (State.msixSend_only _ _)); rfl)
    | with_reducible apply Only.ite
    | with_reducible apply Only.ite_snd
    | with_reducible apply Only.ite_fst
    | split
    | with_reducible apply Only.foldl _ (fun _ _ => ?_)
    | with_reducible apply Only.foldl_fst _ (fun _ _ => ?_)
    | fail_if_no_progress refine Only.mk (k := ?_)

theorem State.wellDiscarded_only (s : State) :
    Only [.evt, .wel] s (State.wellDiscarded s) := by
  simp only [State.wellDiscarded]
  repeat' first
    | with_reducible apply Only.refl
    | with_reducible assumption
    | ((with_reducible apply Only.step (State.reportIf_only _ _ _ _ _)); rfl)
    | with_reducible apply Only.ite
    | with_reducible apply Only.ite_snd
    | with_reducible apply Only.ite_fst
    | split
    | with_reducible apply Only.foldl _ (fun _ _ => ?_)
    | with_reducible apply Only.foldl_fst _ (fun _ _ => ?_)
    | fail_if_no_progress refine Only.mk (k := ?_)

theorem State.wellAppend_only (s : State) (r : RamRec) :
    Only [.evt, .wel] s (State.wellAppend s r) := by
  simp only [State.wellAppend]
  repeat' first
    | with_reducible apply Only.refl
    | with_reducible assumption
    | ((with_reducible apply Only.step (State.wellDiscarded_only _)); rfl)
    | (rename_i hh; with_reducible apply triple_eq at hh; obtain ⟨rfl, rfl, rfl⟩ := hh)
    | (rename_i hh; with_reducible apply pair_eq at hh; obtain ⟨rfl, rfl⟩ := hh)
    | (rename_i hh; with_reducible apply pair_eq at hh; obtain ⟨-, rfl⟩ := hh)
    | (rename_i hh; with_reducible apply pair_eq at hh; obtain ⟨rfl, -⟩ := hh)
    | with_reducible apply Only.ite
    | with_reducible apply Only.ite_snd
    | with_reducible apply Only.ite_fst
    | split
    | with_reducible apply Only.foldl _ (fun _ _ => ?_)
    | with_reducible apply Only.foldl_fst _ (fun _ _ => ?_)
    | fail_if_no_progress refine Only.mk (k := ?_)

theorem State.wellThaw_only (s : State) :
    Only [.evt, .wel] s (State.wellThaw s) := by
  simp only [State.wellThaw]
  repeat' first
    | with_reducible apply Only.refl
    | with_reducible assumption
    | ((with_reducible apply Only.step (State.wellAppend_only _ _)); rfl)
    | with_reducible apply Only.ite
    | with_reducible apply Only.ite_snd
    | with_reducible apply Only.ite_fst
    | split
    | with_reducible apply Only.foldl _ (fun _ _ => ?_)
    | with_reducible apply Only.foldl_fst _ (fun _ _ => ?_)
    | fail_if_no_progress refine Only.mk (k := ?_)

theorem State.wellBreakFreeze_only (s : State) :
    Only [.evt, .wel] s (State.wellBreakFreeze s) := by
  simp only [State.wellBreakFreeze]
  repeat' first
    | with_reducible apply Only.refl
    | with_reducible assumption
    | ((with_reducible apply Only.step (State.report_only _ _ _ _)); rfl)
    | ((with_reducible apply Only.step (State.wellThaw_only _)); rfl)
    | with_reducible apply Only.ite
    | with_reducible apply Only.ite_snd
    | with_reducible apply Only.ite_fst
    | split
    | with_reducible apply Only.foldl _ (fun _ _ => ?_)
    | with_reducible apply Only.foldl_fst _ (fun _ _ => ?_)
    | fail_if_no_progress refine Only.mk (k := ?_)

theorem State.wellWrite.fresh_only (s : State) (x : Raised) :
    Only [.evt, .wel] s (State.wellWrite.fresh s x) := by
  simp only [State.wellWrite.fresh]
  repeat' first
    | with_reducible apply Only.refl
    | with_reducible assumption
    | ((with_reducible apply Only.step (State.wellAppend_only _ _)); rfl)
    | ((with_reducible apply Only.step (State.wellBreakFreeze_only _)); rfl)
    | with_reducible apply Only.ite
    | with_reducible apply Only.ite_snd
    | with_reducible apply Only.ite_fst
    | split
    | with_reducible apply Only.foldl _ (fun _ _ => ?_)
    | with_reducible apply Only.foldl_fst _ (fun _ _ => ?_)
    | fail_if_no_progress refine Only.mk (k := ?_)

theorem State.wellWrite_only (s : State) (x : Raised) :
    Only [.evt, .wel] s (State.wellWrite s x) := by
  simp only [State.wellWrite]
  repeat' first
    | with_reducible apply Only.refl
    | with_reducible assumption
    | ((with_reducible apply Only.step (State.wellWrite.fresh_only _ _)); rfl)
    | with_reducible apply Only.ite
    | with_reducible apply Only.ite_snd
    | with_reducible apply Only.ite_fst
    | split
    | with_reducible apply Only.foldl _ (fun _ _ => ?_)
    | with_reducible apply Only.foldl_fst _ (fun _ _ => ?_)
    | fail_if_no_progress refine Only.mk (k := ?_)

theorem State.raiseDone_only (s : State) (x : Raised) :
    Only [.evt, .wel] s (State.raiseDone s x) := by
  simp only [State.raiseDone]
  repeat' first
    | with_reducible apply Only.refl
    | with_reducible assumption
    | ((with_reducible apply Only.step (State.modSrc_only _ _ _)); rfl)
    | ((with_reducible apply Only.step (State.wellWrite_only _ _)); rfl)
    | with_reducible apply Only.ite
    | with_reducible apply Only.ite_snd
    | with_reducible apply Only.ite_fst
    | split
    | with_reducible apply Only.foldl _ (fun _ _ => ?_)
    | with_reducible apply Only.foldl_fst _ (fun _ _ => ?_)
    | fail_if_no_progress refine Only.mk (k := ?_)

end Sys2Proof.Machine
end

