-- ==== Sys2Proof/Laws/OnlyAccess.lean ====
section
/-!
SUPPORT. What the operations of Machine/Access.lean may change.
-/
namespace Sys2Proof.Machine

set_option Elab.async false
set_option linter.unusedTactic false
set_option linter.unreachableTactic false

theorem State.gatedRecord_only (s : State) (p : Port) (a : Nat) (write : Bool) :
    Only [.evt, .hif] s (State.gatedRecord s p a write) := by
  simp only [State.gatedRecord]
  repeat' first
    | with_reducible apply Only.refl
    | with_reducible assumption
    | ((with_reducible apply Only.step (State.report_only _ _ _ _)); rfl)
    | ((with_reducible apply Only.step (State.reportIf_only _ _ _ _ _)); rfl)
    | with_reducible apply Only.ite
    | with_reducible apply Only.ite_snd
    | with_reducible apply Only.ite_fst
    | split
    | with_reducible apply Only.foldl _ (fun _ _ => ?_)
    | with_reducible apply Only.foldl_fst _ (fun _ _ => ?_)
    | fail_if_no_progress refine Only.mk (k := ?_)

theorem State.writeAt_only {ps : List Part} {s t : State} {p : Port} {a : Nat} {ans : Bool} {k : State → State}
    (hs : subParts [.evt, .hif] ps = true) (hk : ∀ u, Only ps u (k u)) (h : Only ps s t) : Only ps s (t.writeAt p a ans k) := by
  unfold State.writeAt
  split
  · exact h
  · split
    · exact fun q hq => Part.same_trans (h q hq) (hk t q hq)
    · exact Only.step (State.gatedRecord_only _ _ _ _) hs h

theorem State.readAt_only {ps : List Part} {s t : State} {p : Port} {a : Nat} {ans : Bool} {k : State → W32 × State}
    (hs : subParts [.evt, .hif, .out] ps = true) (hk : ∀ u, Only ps u (k u).2) (h : Only ps s t) : Only ps s (t.readAt p a ans k) := by
  have ho : subParts [.out] ps = true := by simp_all [subParts]
  have hg : subParts [.evt, .hif] ps = true := by simp_all [subParts]
  unfold State.readAt
  split
  · exact h
  · split
    · exact Only.step (State.emit_only _ _) ho (fun q hq => Part.same_trans (h q hq) (hk t q hq))
    · exact Only.step (State.emit_only _ _) ho (Only.step (State.gatedRecord_only _ _ _ _) hg h)

theorem State.writeIsl_only {ps : List Part} {s t : State} {p : Port} {a : Nat} {k : State → State}
    (hs : subParts [.evt, .hif] ps = true) (hk : ∀ u, Only ps u (k u)) (h : Only ps s t) : Only ps s (t.writeIsl p a k) :=
  State.writeAt_only hs hk h

theorem State.readIsl_only {ps : List Part} {s t : State} {p : Port} {a : Nat} {k : State → W32 × State}
    (hs : subParts [.evt, .hif, .out] ps = true) (hk : ∀ u, Only ps u (k u).2) (h : Only ps s t) : Only ps s (t.readIsl p a k) :=
  State.readAt_only hs hk h

theorem State.writeLane_only {ps : List Part} {s t : State} {p : Port} {n : LaneId} {off : Nat} {kind : LaneKind} {k : State → State}
    (hs : subParts [.evt, .hif] ps = true) (hk : ∀ u, Only ps u (k u)) (h : Only ps s t) :
    Only ps s (t.writeLane p n off kind k) :=
  State.writeAt_only hs hk h

theorem State.readLane_only {ps : List Part} {s t : State} {p : Port} {n : LaneId} {off : Nat} {kind : LaneKind}
    {k : State → W32 × State}
    (hs : subParts [.evt, .hif, .out] ps = true) (hk : ∀ u, Only ps u (k u).2) (h : Only ps s t) :
    Only ps s (t.readLane p n off kind k) :=
  State.readAt_only hs hk h

theorem State.readPair_only (s : State) (p : Port) (key : Nat) (v : W64) (odd : Bool) :
    Only [.latches] s (State.readPair s p key v odd).2 := by
  simp only [State.readPair]
  repeat' first
    | with_reducible apply Only.refl
    | with_reducible assumption
    | ((with_reducible apply Only.step (State.readLow_only _ _ _ _)); rfl)
    | with_reducible apply Only.ite
    | with_reducible apply Only.ite_snd
    | with_reducible apply Only.ite_fst
    | split
    | with_reducible apply Only.foldl _ (fun _ _ => ?_)
    | with_reducible apply Only.foldl_fst _ (fun _ _ => ?_)
    | fail_if_no_progress refine Only.mk (k := ?_)

end Sys2Proof.Machine
end

