-- ==== Sys2Proof/Laws/OnlyFloatOps.lean ====
section
/-!
SUPPORT. What the operations of Machine/FloatOps.lean may change.
-/
namespace Sys2Proof.Machine

set_option Elab.async false
set_option linter.unusedTactic false
set_option linter.unreachableTactic false

theorem State.flowAll_only (s : State) (q : Nat) (xoff : Bool) :
    Only [.lanes] s (State.flowAll s q xoff) := by
  simp only [State.flowAll]
  repeat' first
    | with_reducible apply Only.refl
    | with_reducible assumption
    | with_reducible apply Only.ite
    | with_reducible apply Only.ite_snd
    | with_reducible apply Only.ite_fst
    | split
    | with_reducible apply Only.foldl _ (fun _ _ => ?_)
    | with_reducible apply Only.foldl_fst _ (fun _ _ => ?_)
    | fail_if_no_progress refine Only.mk (k := ?_)

theorem State.floats_only (s : State) (q : Nat) :
    Only [.quads, .lanes] s (State.floats s q) := by
  simp only [State.floats]
  repeat' first
    | with_reducible apply Only.refl
    | with_reducible assumption
    | ((with_reducible apply Only.step (State.flowAll_only _ _ _)); rfl)
    | ((with_reducible apply Only.step (State.modQuadN_only _ _ _)); rfl)
    | with_reducible apply Only.ite
    | with_reducible apply Only.ite_snd
    | with_reducible apply Only.ite_fst
    | split
    | with_reducible apply Only.foldl _ (fun _ _ => ?_)
    | with_reducible apply Only.foldl_fst _ (fun _ _ => ?_)
    | fail_if_no_progress refine Only.mk (k := ?_)

theorem State.floatsAll_only (s : State) :
    Only [.quads, .lanes] s (State.floatsAll s) := by
  simp only [State.floatsAll]
  repeat' first
    | with_reducible apply Only.refl
    | with_reducible assumption
    | ((with_reducible apply Only.step (State.floats_only _ _)); rfl)
    | with_reducible apply Only.ite
    | with_reducible apply Only.ite_snd
    | with_reducible apply Only.ite_fst
    | split
    | with_reducible apply Only.foldl _ (fun _ _ => ?_)
    | with_reducible apply Only.foldl_fst _ (fun _ _ => ?_)
    | fail_if_no_progress refine Only.mk (k := ?_)

theorem State.floatWrite_only (s : State) (q off : Nat) (w : W32) :
    Only [.quads, .lanes] s (State.floatWrite s q off w) := by
  simp only [State.floatWrite]
  repeat' first
    | with_reducible apply Only.refl
    | with_reducible assumption
    | ((with_reducible apply Only.step (State.floats_only _ _)); rfl)
    | ((with_reducible apply Only.step (State.modQuadN_only _ _ _)); rfl)
    | with_reducible apply Only.ite
    | with_reducible apply Only.ite_snd
    | with_reducible apply Only.ite_fst
    | split
    | with_reducible apply Only.foldl _ (fun _ _ => ?_)
    | with_reducible apply Only.foldl_fst _ (fun _ _ => ?_)
    | fail_if_no_progress refine Only.mk (k := ?_)

end Sys2Proof.Machine
end

