-- ==== Sys2Proof/Laws/OnlyClassify.lean ====
section
/-!
SUPPORT. What the operations of Machine/Classify.lean may change.
-/
namespace Sys2Proof.Machine

set_option Elab.async false
set_option linter.unusedTactic false
set_option linter.unreachableTactic false

theorem State.unrecord_only (s : State) (f : Frame) :
    Only [.tbl] s (State.unrecord s f) := by
  simp only [State.unrecord]
  repeat' first
    | with_reducible apply Only.refl
    | with_reducible assumption
    | with_reducible apply Only.ite
    | with_reducible apply Only.ite_snd
    | with_reducible apply Only.ite_fst
    | split
    | with_reducible apply Only.foldl _ (fun _ _ => ?_)
    | with_reducible apply Only.foldl_fst _ (fun _ _ => ?_)
    | fail_if_no_progress refine Only.mk (k := ?_)

theorem State.dropFrame_only (s : State) (q cause : Nat) (f : Frame) :
    Only [.sys, .tbl] s (State.dropFrame s q cause f) := by
  simp only [State.dropFrame]
  repeat' first
    | with_reducible apply Only.refl
    | with_reducible assumption
    | ((with_reducible apply Only.step (State.toSump_only _ _ _ _)); rfl)
    | ((with_reducible apply Only.step (State.unrecord_only _ _)); rfl)
    | with_reducible apply Only.ite
    | with_reducible apply Only.ite_snd
    | with_reducible apply Only.ite_fst
    | split
    | with_reducible apply Only.foldl _ (fun _ _ => ?_)
    | with_reducible apply Only.foldl_fst _ (fun _ _ => ?_)
    | fail_if_no_progress refine Only.mk (k := ?_)

theorem State.dropFrames_only (s : State) (q cause : Nat) (fs : List Frame) :
    Only [.sys, .tbl] s (State.dropFrames s q cause fs) := by
  simp only [State.dropFrames]
  repeat' first
    | with_reducible apply Only.refl
    | with_reducible assumption
    | ((with_reducible apply Only.step (State.dropFrame_only _ _ _ _)); rfl)
    | with_reducible apply Only.ite
    | with_reducible apply Only.ite_snd
    | with_reducible apply Only.ite_fst
    | split
    | with_reducible apply Only.foldl _ (fun _ _ => ?_)
    | with_reducible apply Only.foldl_fst _ (fun _ _ => ?_)
    | fail_if_no_progress refine Only.mk (k := ?_)

theorem State.punt_only (s : State) (q : Nat) (kind reason : Byte) (rule : Option (BitVec 12)) (f : Frame) :
    Only [.hif] s (State.punt s q kind reason rule f) := by
  simp only [State.punt]
  repeat' first
    | with_reducible apply Only.refl
    | with_reducible assumption
    | with_reducible apply Only.ite
    | with_reducible apply Only.ite_snd
    | with_reducible apply Only.ite_fst
    | split
    | with_reducible apply Only.foldl _ (fun _ _ => ?_)
    | with_reducible apply Only.foldl_fst _ (fun _ _ => ?_)
    | fail_if_no_progress refine Only.mk (k := ?_)

theorem State.fragRecord_only (s : State) (f : Frame) (d : Decision) :
    Only [.tbl] s (State.fragRecord s f d) := by
  simp only [State.fragRecord]
  repeat' first
    | with_reducible apply Only.refl
    | with_reducible assumption
    | (rename_i hh; with_reducible apply triple_eq at hh; obtain ⟨rfl, rfl, rfl⟩ := hh)
    | (rename_i hh; with_reducible apply pair_eq at hh; obtain ⟨rfl, rfl⟩ := hh)
    | (rename_i hh; with_reducible apply pair_eq at hh; obtain ⟨-, rfl⟩ := hh)
    | (rename_i hh; with_reducible apply pair_eq at hh; obtain ⟨rfl, -⟩ := hh)
    | with_reducible apply Only.ite
    | with_reducible apply Only.ite_snd
    | with_reducible apply Only.ite_fst
    | split
    | with_reducible apply Only.foldl _ (fun _ _ => ?_)
    | with_reducible apply Only.foldl_fst _ (fun _ _ => ?_)
    | fail_if_no_progress refine Only.mk (k := ?_)

theorem State.toCipher_only (s : State) (q : Nat) (f : Frame) :
    Only [.sys, .tbl, .quads] s (State.toCipher s q f) := by
  simp only [State.toCipher]
  repeat' first
    | with_reducible apply Only.refl
    | with_reducible assumption
    | ((with_reducible apply Only.step (State.dropFrame_only _ _ _ _)); rfl)
    | ((with_reducible apply Only.step (State.modQuadN_only _ _ _)); rfl)
    | with_reducible apply Only.ite
    | with_reducible apply Only.ite_snd
    | with_reducible apply Only.ite_fst
    | split
    | with_reducible apply Only.foldl _ (fun _ _ => ?_)
    | with_reducible apply Only.foldl_fst _ (fun _ _ => ?_)
    | fail_if_no_progress refine Only.mk (k := ?_)

theorem State.toLookup_only (s : State) (q : Nat) (f : Frame) :
    Only [.quads] s (State.toLookup s q f) := by
  simp only [State.toLookup]
  repeat' first
    | with_reducible apply Only.refl
    | with_reducible assumption
    | ((with_reducible apply Only.step (State.modQuadN_only _ _ _)); rfl)
    | with_reducible apply Only.ite
    | with_reducible apply Only.ite_snd
    | with_reducible apply Only.ite_fst
    | split
    | with_reducible apply Only.foldl _ (fun _ _ => ?_)
    | with_reducible apply Only.foldl_fst _ (fun _ _ => ?_)
    | fail_if_no_progress refine Only.mk (k := ?_)

theorem State.actOn_only (s : State) (q : Nat) (f : Frame) (a : Act) :
    Only [.sys, .hif, .tbl, .quads] s (State.actOn s q f a) := by
  simp only [State.actOn]
  repeat' first
    | with_reducible apply Only.refl
    | with_reducible assumption
    | ((with_reducible apply Only.step (State.dropFrame_only _ _ _ _)); rfl)
    | ((with_reducible apply Only.step (State.fragRecord_only _ _ _)); rfl)
    | ((with_reducible apply Only.step (State.punt_only _ _ _ _ _ _)); rfl)
    | ((with_reducible apply Only.step (State.toCipher_only _ _ _)); rfl)
    | ((with_reducible apply Only.step (State.toLookup_only _ _ _)); rfl)
    | with_reducible apply Only.ite
    | with_reducible apply Only.ite_snd
    | with_reducible apply Only.ite_fst
    | split
    | with_reducible apply Only.foldl _ (fun _ _ => ?_)
    | with_reducible apply Only.foldl_fst _ (fun _ _ => ?_)
    | fail_if_no_progress refine Only.mk (k := ?_)

theorem State.missed_only (s : State) (q : Nat) (f : Frame) :
    Only [.sys, .hif, .tbl] s (State.missed s q f) := by
  simp only [State.missed]
  repeat' first
    | with_reducible apply Only.refl
    | with_reducible assumption
    | ((with_reducible apply Only.step (State.dropFrame_only _ _ _ _)); rfl)
    | ((with_reducible apply Only.step (State.fragRecord_only _ _ _)); rfl)
    | ((with_reducible apply Only.step (State.punt_only _ _ _ _ _ _)); rfl)
    | with_reducible apply Only.ite
    | with_reducible apply Only.ite_snd
    | with_reducible apply Only.ite_fst
    | split
    | with_reducible apply Only.foldl _ (fun _ _ => ?_)
    | with_reducible apply Only.foldl_fst _ (fun _ _ => ?_)
    | fail_if_no_progress refine Only.mk (k := ?_)

theorem State.classify_only (s : State) (q : Nat) (f : Frame) (rally : Bool) :
    Only [.sys, .hif, .tbl, .quads] s (State.classify s q f rally) := by
  simp only [State.classify]
  repeat' first
    | with_reducible apply Only.refl
    | with_reducible assumption
    | ((with_reducible apply Only.step (State.actOn_only _ _ _ _)); rfl)
    | ((with_reducible apply Only.step (State.dropFrame_only _ _ _ _)); rfl)
    | ((with_reducible apply Only.step (State.missed_only _ _ _)); rfl)
    | ((with_reducible apply Only.step (State.modQuadN_only _ _ _)); rfl)
    | ((with_reducible apply Only.step (State.toCipher_only _ _ _)); rfl)
    | with_reducible apply Only.ite
    | with_reducible apply Only.ite_snd
    | with_reducible apply Only.ite_fst
    | split
    | with_reducible apply Only.foldl _ (fun _ _ => ?_)
    | with_reducible apply Only.foldl_fst _ (fun _ _ => ?_)
    | fail_if_no_progress refine Only.mk (k := ?_)

theorem State.afterParse_only (s : State) (q : Nat) (f : Frame) (rally : Bool) :
    Only [.sys, .hif, .tbl, .quads] s (State.afterParse s q f rally) := by
  simp only [State.afterParse]
  repeat' first
    | with_reducible apply Only.refl
    | with_reducible assumption
    | ((with_reducible apply Only.step (State.classify_only _ _ _ _)); rfl)
    | ((with_reducible apply Only.step (State.dropFrame_only _ _ _ _)); rfl)
    | ((with_reducible apply Only.step (State.toLookup_only _ _ _)); rfl)
    | with_reducible apply Only.ite
    | with_reducible apply Only.ite_snd
    | with_reducible apply Only.ite_fst
    | split
    | with_reducible apply Only.foldl _ (fun _ _ => ?_)
    | with_reducible apply Only.foldl_fst _ (fun _ _ => ?_)
    | fail_if_no_progress refine Only.mk (k := ?_)

theorem State.pass_only (s : State) (q : Nat) (f : Frame) (rally : Bool) :
    Only [.sys, .hif, .tbl, .quads] s (State.pass s q f rally) := by
  simp only [State.pass]
  repeat' first
    | with_reducible apply Only.refl
    | with_reducible assumption
    | ((with_reducible apply Only.step (State.afterParse_only _ _ _ _)); rfl)
    | ((with_reducible apply Only.step (State.dropFrame_only _ _ _ _)); rfl)
    | ((with_reducible apply Only.step (State.modQuadN_only _ _ _)); rfl)
    | ((with_reducible apply Only.step (State.punt_only _ _ _ _ _ _)); rfl)
    | with_reducible apply Only.ite
    | with_reducible apply Only.ite_snd
    | with_reducible apply Only.ite_fst
    | split
    | with_reducible apply Only.foldl _ (fun _ _ => ?_)
    | with_reducible apply Only.foldl_fst _ (fun _ _ => ?_)
    | fail_if_no_progress refine Only.mk (k := ?_)

theorem execClassify_only (q : QuadId) (s : State) :
    ∃ v, (execClassify q s) = .next v ∧ Only [.sys, .hif, .tbl, .quads, .lanes] s v := by
  refine ⟨_, rfl, ?_⟩
  try dsimp only
  repeat' first
    | with_reducible apply Only.refl
    | with_reducible assumption
    | ((with_reducible apply Only.step (State.floatsAll_only _)); rfl)
    | ((with_reducible apply Only.step (State.modQuad_only _ _ _)); rfl)
    | ((with_reducible apply Only.step (State.pass_only _ _ _ _)); rfl)
    | with_reducible apply Only.ite
    | with_reducible apply Only.ite_snd
    | with_reducible apply Only.ite_fst
    | split
    | with_reducible apply Only.foldl _ (fun _ _ => ?_)
    | with_reducible apply Only.foldl_fst _ (fun _ _ => ?_)
    | fail_if_no_progress refine Only.mk (k := ?_)

theorem execRallyPass_only (q : QuadId) (s : State) :
    ∃ v, (execRallyPass q s) = .next v ∧ Only [.sys, .hif, .tbl, .quads, .lanes] s v := by
  refine ⟨_, rfl, ?_⟩
  try dsimp only
  repeat' first
    | with_reducible apply Only.refl
    | with_reducible assumption
    | ((with_reducible apply Only.step (State.floatsAll_only _)); rfl)
    | ((with_reducible apply Only.step (State.modQuad_only _ _ _)); rfl)
    | ((with_reducible apply Only.step (State.pass_only _ _ _ _)); rfl)
    | with_reducible apply Only.ite
    | with_reducible apply Only.ite_snd
    | with_reducible apply Only.ite_fst
    | split
    | with_reducible apply Only.foldl _ (fun _ _ => ?_)
    | with_reducible apply Only.foldl_fst _ (fun _ _ => ?_)
    | fail_if_no_progress refine Only.mk (k := ?_)

theorem execFragTimeout_only (k : FragKey) (s : State) :
    ∃ v, (execFragTimeout k s) = .next v ∧ Only [.tbl] s v := by
  refine ⟨_, rfl, ?_⟩
  try dsimp only
  repeat' first
    | with_reducible apply Only.refl
    | with_reducible assumption
    | with_reducible apply Only.ite
    | with_reducible apply Only.ite_snd
    | with_reducible apply Only.ite_fst
    | split
    | with_reducible apply Only.foldl _ (fun _ _ => ?_)
    | with_reducible apply Only.foldl_fst _ (fun _ _ => ?_)
    | fail_if_no_progress refine Only.mk (k := ?_)

theorem State.fragFlush_only (s : State) :
    Only [.tbl] s (State.fragFlush s) := by
  simp only [State.fragFlush]
  repeat' first
    | with_reducible apply Only.refl
    | with_reducible assumption
    | with_reducible apply Only.ite
    | with_reducible apply Only.ite_snd
    | with_reducible apply Only.ite_fst
    | split
    | with_reducible apply Only.foldl _ (fun _ _ => ?_)
    | with_reducible apply Only.foldl_fst _ (fun _ _ => ?_)
    | fail_if_no_progress refine Only.mk (k := ?_)

theorem execFragFlush_only (p : Port) (s : State) :
    ∃ v, (execFragFlush p s) = .next v ∧ Only [.evt, .hif, .tbl] s v := by
  refine ⟨_, rfl, ?_⟩
  try dsimp only
  repeat' first
    | with_reducible apply Only.refl
    | with_reducible assumption
    | ((with_reducible apply Only.step (State.fragFlush_only _)); rfl)
    | ((with_reducible apply State.writeIsl_only); rfl)
    | with_reducible apply Only.ite
    | with_reducible apply Only.ite_snd
    | with_reducible apply Only.ite_fst
    | with_reducible intro _
    | split
    | with_reducible apply Only.foldl _ (fun _ _ => ?_)
    | with_reducible apply Only.foldl_fst _ (fun _ _ => ?_)
    | fail_if_no_progress refine Only.mk (k := ?_)

theorem State.sumpClr_only (s : State) (mask : BitVec 4) :
    Only [.sys] s (State.sumpClr s mask) := by
  simp only [State.sumpClr]
  repeat' first
    | with_reducible apply Only.refl
    | with_reducible assumption
    | with_reducible apply Only.ite
    | with_reducible apply Only.ite_snd
    | with_reducible apply Only.ite_fst
    | split
    | with_reducible apply Only.foldl _ (fun _ _ => ?_)
    | with_reducible apply Only.foldl_fst _ (fun _ _ => ?_)
    | fail_if_no_progress refine Only.mk (k := ?_)

theorem execSumpClr_only (p : Port) (mask : BitVec 4) (s : State) :
    ∃ v, (execSumpClr p mask s) = .next v ∧ Only [.sys, .evt, .hif] s v := by
  refine ⟨_, rfl, ?_⟩
  try dsimp only
  repeat' first
    | with_reducible apply Only.refl
    | with_reducible assumption
    | ((with_reducible apply Only.step (State.sumpClr_only _ _)); rfl)
    | ((with_reducible apply State.writeIsl_only); rfl)
    | with_reducible apply Only.ite
    | with_reducible apply Only.ite_snd
    | with_reducible apply Only.ite_fst
    | with_reducible intro _
    | split
    | with_reducible apply Only.foldl _ (fun _ _ => ?_)
    | with_reducible apply Only.foldl_fst _ (fun _ _ => ?_)
    | fail_if_no_progress refine Only.mk (k := ?_)

theorem State.sumpRead_only (s : State) (p : Port) :
    Only [.sys, .latches] s (State.sumpRead s p).2 := by
  simp only [State.sumpRead]
  repeat' first
    | with_reducible apply Only.refl
    | with_reducible assumption
    | ((with_reducible apply Only.step (State.readPair_only _ _ _ _ _)); rfl)
    | (rename_i hh; with_reducible apply triple_eq at hh; obtain ⟨rfl, rfl, rfl⟩ := hh)
    | (rename_i hh; with_reducible apply pair_eq at hh; obtain ⟨rfl, rfl⟩ := hh)
    | (rename_i hh; with_reducible apply pair_eq at hh; obtain ⟨-, rfl⟩ := hh)
    | (rename_i hh; with_reducible apply pair_eq at hh; obtain ⟨rfl, -⟩ := hh)
    | with_reducible apply Only.ite
    | with_reducible apply Only.ite_snd
    | with_reducible apply Only.ite_fst
    | split
    | with_reducible apply Only.foldl _ (fun _ _ => ?_)
    | with_reducible apply Only.foldl_fst _ (fun _ _ => ?_)
    | fail_if_no_progress refine Only.mk (k := ?_)

theorem execSumpDataRead_only (p : Port) (s : State) :
    ∃ v, (execSumpDataRead p s) = .next v ∧ Only [.sys, .evt, .hif, .latches, .out] s v := by
  refine ⟨_, rfl, ?_⟩
  try dsimp only
  repeat' first
    | with_reducible apply Only.refl
    | with_reducible assumption
    | ((with_reducible apply Only.step (State.sumpRead_only _ _)); rfl)
    | ((with_reducible apply State.readIsl_only); rfl)
    | with_reducible apply Only.ite
    | with_reducible apply Only.ite_snd
    | with_reducible apply Only.ite_fst
    | with_reducible intro _
    | split
    | with_reducible apply Only.foldl _ (fun _ _ => ?_)
    | with_reducible apply Only.foldl_fst _ (fun _ _ => ?_)
    | fail_if_no_progress refine Only.mk (k := ?_)

theorem State.deepRead_only (s : State) (q : Nat) :
    Only [.quads] s (State.deepRead s q).2 := by
  simp only [State.deepRead]
  repeat' first
    | with_reducible apply Only.refl
    | with_reducible assumption
    | ((with_reducible apply Only.step (State.modQuadN_only _ _ _)); rfl)
    | with_reducible apply Only.ite
    | with_reducible apply Only.ite_snd
    | with_reducible apply Only.ite_fst
    | split
    | with_reducible apply Only.foldl _ (fun _ _ => ?_)
    | with_reducible apply Only.foldl_fst _ (fun _ _ => ?_)
    | fail_if_no_progress refine Only.mk (k := ?_)

theorem execPrsDeepCntRead_only (p : Port) (q : QuadId) (s : State) :
    ∃ v, (execPrsDeepCntRead p q s) = .next v ∧ Only [.evt, .hif, .quads, .out] s v := by
  refine ⟨_, rfl, ?_⟩
  try dsimp only
  repeat' first
    | with_reducible apply Only.refl
    | with_reducible assumption
    | ((with_reducible apply Only.step (State.deepRead_only _ _)); rfl)
    | ((with_reducible apply State.readIsl_only); rfl)
    | with_reducible apply Only.ite
    | with_reducible apply Only.ite_snd
    | with_reducible apply Only.ite_fst
    | with_reducible intro _
    | split
    | with_reducible apply Only.foldl _ (fun _ _ => ?_)
    | with_reducible apply Only.foldl_fst _ (fun _ _ => ?_)
    | fail_if_no_progress refine Only.mk (k := ?_)

theorem State.skipRead_only (s : State) (q : Nat) :
    Only [.quads] s (State.skipRead s q).2 := by
  simp only [State.skipRead]
  repeat' first
    | with_reducible apply Only.refl
    | with_reducible assumption
    | ((with_reducible apply Only.step (State.modQuadN_only _ _ _)); rfl)
    | with_reducible apply Only.ite
    | with_reducible apply Only.ite_snd
    | with_reducible apply Only.ite_fst
    | split
    | with_reducible apply Only.foldl _ (fun _ _ => ?_)
    | with_reducible apply Only.foldl_fst _ (fun _ _ => ?_)
    | fail_if_no_progress refine Only.mk (k := ?_)

theorem execPrsSkipCntRead_only (p : Port) (q : QuadId) (s : State) :
    ∃ v, (execPrsSkipCntRead p q s) = .next v ∧ Only [.evt, .hif, .quads, .out] s v := by
  refine ⟨_, rfl, ?_⟩
  try dsimp only
  repeat' first
    | with_reducible apply Only.refl
    | with_reducible assumption
    | ((with_reducible apply Only.step (State.skipRead_only _ _)); rfl)
    | ((with_reducible apply State.readIsl_only); rfl)
    | with_reducible apply Only.ite
    | with_reducible apply Only.ite_snd
    | with_reducible apply Only.ite_fst
    | with_reducible intro _
    | split
    | with_reducible apply Only.foldl _ (fun _ _ => ?_)
    | with_reducible apply Only.foldl_fst _ (fun _ _ => ?_)
    | fail_if_no_progress refine Only.mk (k := ?_)

theorem State.rallyRead_only (s : State) (q : Nat) :
    Only [.quads] s (State.rallyRead s q).2 := by
  simp only [State.rallyRead]
  repeat' first
    | with_reducible apply Only.refl
    | with_reducible assumption
    | ((with_reducible apply Only.step (State.modQuadN_only _ _ _)); rfl)
    | with_reducible apply Only.ite
    | with_reducible apply Only.ite_snd
    | with_reducible apply Only.ite_fst
    | split
    | with_reducible apply Only.foldl _ (fun _ _ => ?_)
    | with_reducible apply Only.foldl_fst _ (fun _ _ => ?_)
    | fail_if_no_progress refine Only.mk (k := ?_)

theorem execRlyStatusRead_only (p : Port) (q : QuadId) (s : State) :
    ∃ v, (execRlyStatusRead p q s) = .next v ∧ Only [.evt, .hif, .quads, .out] s v := by
  refine ⟨_, rfl, ?_⟩
  try dsimp only
  repeat' first
    | with_reducible apply Only.refl
    | with_reducible assumption
    | ((with_reducible apply Only.step (State.rallyRead_only _ _)); rfl)
    | ((with_reducible apply State.readIsl_only); rfl)
    | with_reducible apply Only.ite
    | with_reducible apply Only.ite_snd
    | with_reducible apply Only.ite_fst
    | with_reducible intro _
    | split
    | with_reducible apply Only.foldl _ (fun _ _ => ?_)
    | with_reducible apply Only.foldl_fst _ (fun _ _ => ?_)
    | fail_if_no_progress refine Only.mk (k := ?_)

theorem State.frgRead_only (s : State) (i : Nat) :
    Only [.tbl] s (State.frgRead s i).2 := by
  simp only [State.frgRead]
  repeat' first
    | with_reducible apply Only.refl
    | with_reducible assumption
    | with_reducible apply Only.ite
    | with_reducible apply Only.ite_snd
    | with_reducible apply Only.ite_fst
    | split
    | with_reducible apply Only.foldl _ (fun _ _ => ?_)
    | with_reducible apply Only.foldl_fst _ (fun _ _ => ?_)
    | fail_if_no_progress refine Only.mk (k := ?_)

theorem execFrgCntRead_only (p : Port) (which : Fin 3) (s : State) :
    ∃ v, (execFrgCntRead p which s) = .next v ∧ Only [.evt, .hif, .tbl, .out] s v := by
  refine ⟨_, rfl, ?_⟩
  try dsimp only
  repeat' first
    | with_reducible apply Only.refl
    | with_reducible assumption
    | ((with_reducible apply Only.step (State.frgRead_only _ _)); rfl)
    | ((with_reducible apply State.readIsl_only); rfl)
    | with_reducible apply Only.ite
    | with_reducible apply Only.ite_snd
    | with_reducible apply Only.ite_fst
    | with_reducible intro _
    | split
    | with_reducible apply Only.foldl _ (fun _ _ => ?_)
    | with_reducible apply Only.foldl_fst _ (fun _ _ => ?_)
    | fail_if_no_progress refine Only.mk (k := ?_)

end Sys2Proof.Machine
end

