-- ==== Sys2Proof/Laws/OnlyRingOps.lean ====
section
/-!
SUPPORT. What the operations of Machine/RingOps.lean may change.
-/
namespace Sys2Proof.Machine

set_option Elab.async false
set_option linter.unusedTactic false
set_option linter.unreachableTactic false

theorem State.modRing_only (s : State) (r : Nat) (f : Ring → Ring) :
    Only [.hif] s (State.modRing s r f) := by
  simp only [State.modRing]
  repeat' first
    | with_reducible apply Only.refl
    | with_reducible assumption
    | with_reducible apply Only.ite
    | with_reducible apply Only.ite_snd
    | with_reducible apply Only.ite_fst
    | split
    | with_reducible apply Only.foldl _ (fun _ _ => ?_)
    | with_reducible apply Only.foldl_fst _ (fun _ _ => ?_)
    | fail_if_no_progress refine Only.mk (k := ?_)

theorem State.ringInt_only (s : State) (r : Nat) :
    Only [.hif, .out] s (State.ringInt s r) := by
  simp only [State.ringInt]
  repeat' first
    | with_reducible apply Only.refl
    | with_reducible assumption
    | ((with_reducible apply Only.step (State.modRing_only _ _ _)); rfl)
    | ((with_reducible apply Only.step (State.msixSend_only _ _)); rfl)
    | with_reducible apply Only.ite
    | with_reducible apply Only.ite_snd
    | with_reducible apply Only.ite_fst
    | split
    | with_reducible apply Only.foldl _ (fun _ _ => ?_)
    | with_reducible apply Only.foldl_fst _ (fun _ _ => ?_)
    | fail_if_no_progress refine Only.mk (k := ?_)

theorem State.ringAdvance_only (s : State) (r n : Nat) :
    Only [.hif, .out] s (State.ringAdvance s r n) := by
  simp only [State.ringAdvance]
  repeat' first
    | with_reducible apply Only.refl
    | with_reducible assumption
    | ((with_reducible apply Only.step (State.modRing_only _ _ _)); rfl)
    | ((with_reducible apply Only.step (State.ringInt_only _ _)); rfl)
    | with_reducible apply Only.ite
    | with_reducible apply Only.ite_snd
    | with_reducible apply Only.ite_fst
    | split
    | with_reducible apply Only.foldl _ (fun _ _ => ?_)
    | with_reducible apply Only.foldl_fst _ (fun _ _ => ?_)
    | fail_if_no_progress refine Only.mk (k := ?_)

theorem State.ringPut_only (s : State) (r : RingId) (i : W32) (off : Nat) (bytes : List Byte) :
    Only [.out] s (State.ringPut s r i off bytes) := by
  simp only [State.ringPut]
  repeat' first
    | with_reducible apply Only.refl
    | with_reducible assumption
    | ((with_reducible apply Only.step (State.emit_only _ _)); rfl)
    | with_reducible apply Only.ite
    | with_reducible apply Only.ite_snd
    | with_reducible apply Only.ite_fst
    | split
    | with_reducible apply Only.foldl _ (fun _ _ => ?_)
    | with_reducible apply Only.foldl_fst _ (fun _ _ => ?_)
    | fail_if_no_progress refine Only.mk (k := ?_)

theorem State.ringDrop_only (s : State) (r : Nat) :
    Only [.hif] s (State.ringDrop s r) := by
  simp only [State.ringDrop]
  repeat' first
    | with_reducible apply Only.refl
    | with_reducible assumption
    | ((with_reducible apply Only.step (State.modRing_only _ _ _)); rfl)
    | with_reducible apply Only.ite
    | with_reducible apply Only.ite_snd
    | with_reducible apply Only.ite_fst
    | split
    | with_reducible apply Only.foldl _ (fun _ _ => ?_)
    | with_reducible apply Only.foldl_fst _ (fun _ _ => ?_)
    | fail_if_no_progress refine Only.mk (k := ?_)

theorem State.laComplete_only (s : State) (cookie : W32) (status : BitVec 3) :
    Only [.hif, .out] s (State.laComplete s cookie status) := by
  simp only [State.laComplete]
  repeat' first
    | with_reducible apply Only.refl
    | with_reducible assumption
    | ((with_reducible apply Only.step (State.ringAdvance_only _ _ _)); rfl)
    | ((with_reducible apply Only.step (State.ringPut_only _ _ _ _ _)); rfl)
    | with_reducible apply Only.ite
    | with_reducible apply Only.ite_snd
    | with_reducible apply Only.ite_fst
    | split
    | with_reducible apply Only.foldl _ (fun _ _ => ?_)
    | with_reducible apply Only.foldl_fst _ (fun _ _ => ?_)
    | fail_if_no_progress refine Only.mk (k := ?_)

end Sys2Proof.Machine
end

