-- ==== Sys2Proof/Laws/OnlyCipherOps.lean ====
section
/-!
SUPPORT. What the operations of Machine/CipherOps.lean may change.
-/
namespace Sys2Proof.Machine

set_option Elab.async false
set_option linter.unusedTactic false
set_option linter.unreachableTactic false

theorem State.modAssoc_only (s : State) (i : Nat) (f : Assoc → Assoc) :
    Only [.key] s (State.modAssoc s i f) := by
  simp only [State.modAssoc]
  repeat' first
    | with_reducible apply Only.refl
    | with_reducible assumption
    | with_reducible apply Only.ite
    | with_reducible apply Only.ite_snd
    | with_reducible apply Only.ite_fst
    | split
    | with_reducible apply Only.foldl _ (fun _ _ => ?_)
    | with_reducible apply Only.foldl_fst _ (fun _ _ => ?_)
    | fail_if_no_progress refine Only.mk (k := ?_)

theorem State.modTrib_only (s : State) (i : Nat) (f : TribCtx → TribCtx) :
    Only [.key] s (State.modTrib s i f) := by
  simp only [State.modTrib]
  repeat' first
    | with_reducible apply Only.refl
    | with_reducible assumption
    | with_reducible apply Only.ite
    | with_reducible apply Only.ite_snd
    | with_reducible apply Only.ite_fst
    | split
    | with_reducible apply Only.foldl _ (fun _ _ => ?_)
    | with_reducible apply Only.foldl_fst _ (fun _ _ => ?_)
    | fail_if_no_progress refine Only.mk (k := ?_)

theorem State.reissue_only (s : State) (k : Nat) :
    Only [.fbk, .quads] s (State.reissue s k) := by
  simp only [State.reissue]
  repeat' first
    | with_reducible apply Only.refl
    | with_reducible assumption
    | with_reducible apply Only.ite
    | with_reducible apply Only.ite_snd
    | with_reducible apply Only.ite_fst
    | split
    | with_reducible apply Only.foldl _ (fun _ _ => ?_)
    | with_reducible apply Only.foldl_fst _ (fun _ _ => ?_)
    | fail_if_no_progress refine Only.mk (k := ?_)

theorem State.substitute_only (s : State) (k : Nat) :
    Only [.evt, .fbk, .quads] s (State.substitute s k) := by
  simp only [State.substitute]
  repeat' first
    | with_reducible apply Only.refl
    | with_reducible assumption
    | ((with_reducible apply Only.step (State.reissue_only _ _)); rfl)
    | ((with_reducible apply Only.step (State.report_only _ _ _ _)); rfl)
    | with_reducible apply Only.ite
    | with_reducible apply Only.ite_snd
    | with_reducible apply Only.ite_fst
    | split
    | with_reducible apply Only.foldl _ (fun _ _ => ?_)
    | with_reducible apply Only.foldl_fst _ (fun _ _ => ?_)
    | fail_if_no_progress refine Only.mk (k := ?_)

theorem State.resubst_only (s : State) :
    Only [.evt, .fbk, .quads] s (State.resubst s) := by
  simp only [State.resubst]
  repeat' first
    | with_reducible apply Only.refl
    | with_reducible assumption
    | ((with_reducible apply Only.step (State.substitute_only _ _)); rfl)
    | with_reducible apply Only.ite
    | with_reducible apply Only.ite_snd
    | with_reducible apply Only.ite_fst
    | split
    | with_reducible apply Only.foldl _ (fun _ _ => ?_)
    | with_reducible apply Only.foldl_fst _ (fun _ _ => ?_)
    | fail_if_no_progress refine Only.mk (k := ?_)

theorem State.coreFault_only (s : State) (k : Nat) (cause : BitVec 3) :
    Only [.evt, .fbk, .quads, .cores] s (State.coreFault s k cause) := by
  simp only [State.coreFault]
  repeat' first
    | with_reducible apply Only.refl
    | with_reducible assumption
    | ((with_reducible apply Only.step (State.modCoreN_only _ _ _)); rfl)
    | ((with_reducible apply Only.step (State.reportIf_only _ _ _ _ _)); rfl)
    | ((with_reducible apply Only.step (State.resubst_only _)); rfl)
    | with_reducible apply Only.ite
    | with_reducible apply Only.ite_snd
    | with_reducible apply Only.ite_fst
    | split
    | with_reducible apply Only.foldl _ (fun _ _ => ?_)
    | with_reducible apply Only.foldl_fst _ (fun _ _ => ?_)
    | fail_if_no_progress refine Only.mk (k := ?_)

theorem State.katRun_only (s : State) (k : Nat) (pass : Bool) :
    Only [.evt, .fbk, .quads, .cores] s (State.katRun s k pass) := by
  simp only [State.katRun]
  repeat' first
    | with_reducible apply Only.refl
    | with_reducible assumption
    | ((with_reducible apply Only.step (State.coreFault_only _ _ _)); rfl)
    | ((with_reducible apply Only.step (State.modCoreN_only _ _ _)); rfl)
    | with_reducible apply Only.ite
    | with_reducible apply Only.ite_snd
    | with_reducible apply Only.ite_fst
    | split
    | with_reducible apply Only.foldl _ (fun _ _ => ?_)
    | with_reducible apply Only.foldl_fst _ (fun _ _ => ?_)
    | fail_if_no_progress refine Only.mk (k := ?_)

theorem State.katIfEmpty_only (s : State) (q k : Nat) :
    Only [.evt, .fbk, .quads, .cores] s (State.katIfEmpty s q k) := by
  simp only [State.katIfEmpty]
  repeat' first
    | with_reducible apply Only.refl
    | with_reducible assumption
    | ((with_reducible apply Only.step (State.katRun_only _ _ _)); rfl)
    | with_reducible apply Only.ite
    | with_reducible apply Only.ite_snd
    | with_reducible apply Only.ite_fst
    | split
    | with_reducible apply Only.foldl _ (fun _ _ => ?_)
    | with_reducible apply Only.foldl_fst _ (fun _ _ => ?_)
    | fail_if_no_progress refine Only.mk (k := ?_)

theorem State.coreReturn_only (s : State) (k : Nat) :
    Only [.evt, .fbk, .quads, .cores] s (State.coreReturn s k) := by
  simp only [State.coreReturn]
  repeat' first
    | with_reducible apply Only.refl
    | with_reducible assumption
    | ((with_reducible apply Only.step (State.endCond_only _ _)); rfl)
    | ((with_reducible apply Only.step (State.modCoreN_only _ _ _)); rfl)
    | ((with_reducible apply Only.step (State.resubst_only _)); rfl)
    | with_reducible apply Only.ite
    | with_reducible apply Only.ite_snd
    | with_reducible apply Only.ite_fst
    | split
    | with_reducible apply Only.foldl _ (fun _ _ => ?_)
    | with_reducible apply Only.foldl_fst _ (fun _ _ => ?_)
    | fail_if_no_progress refine Only.mk (k := ?_)

theorem State.keyCnt_only (s : State) (c n : Nat) :
    Only [.key] s (State.keyCnt s c n) := by
  simp only [State.keyCnt]
  repeat' first
    | with_reducible apply Only.refl
    | with_reducible assumption
    | with_reducible apply Only.ite
    | with_reducible apply Only.ite_snd
    | with_reducible apply Only.ite_fst
    | split
    | with_reducible apply Only.foldl _ (fun _ _ => ?_)
    | with_reducible apply Only.foldl_fst _ (fun _ _ => ?_)
    | fail_if_no_progress refine Only.mk (k := ?_)

theorem State.cacheTouch_only (s : State) (e : CacheEntry) :
    Only [.key] s (State.cacheTouch s e) := by
  simp only [State.cacheTouch]
  repeat' first
    | with_reducible apply Only.refl
    | with_reducible assumption
    | with_reducible apply Only.ite
    | with_reducible apply Only.ite_snd
    | with_reducible apply Only.ite_fst
    | split
    | with_reducible apply Only.foldl _ (fun _ _ => ?_)
    | with_reducible apply Only.foldl_fst _ (fun _ _ => ?_)
    | fail_if_no_progress refine Only.mk (k := ?_)

theorem State.cacheEnter_only (s : State) (e : CacheEntry) :
    Only [.key] s (State.cacheEnter s e).1 := by
  simp only [State.cacheEnter]
  repeat' first
    | with_reducible apply Only.refl
    | with_reducible assumption
    | ((with_reducible apply Only.step (State.cacheTouch_only _ _)); rfl)
    | with_reducible apply Only.ite
    | with_reducible apply Only.ite_snd
    | with_reducible apply Only.ite_fst
    | split
    | with_reducible apply Only.foldl _ (fun _ _ => ?_)
    | with_reducible apply Only.foldl_fst _ (fun _ _ => ?_)
    | fail_if_no_progress refine Only.mk (k := ?_)

theorem State.askKey_only (s : State) (n : KeyName) :
    Only [.key] s (State.askKey s n).2 := by
  simp only [State.askKey]
  repeat' first
    | with_reducible apply Only.refl
    | with_reducible assumption
    | ((with_reducible apply Only.step (State.cacheTouch_only _ _)); rfl)
    | ((with_reducible apply Only.step (State.keyCnt_only _ _ _)); rfl)
    | with_reducible apply Only.ite
    | with_reducible apply Only.ite_snd
    | with_reducible apply Only.ite_fst
    | split
    | with_reducible apply Only.foldl _ (fun _ _ => ?_)
    | with_reducible apply Only.foldl_fst _ (fun _ _ => ?_)
    | fail_if_no_progress refine Only.mk (k := ?_)

theorem State.loadCopy_only (s : State) (q k : Nat) (e : CacheEntry) :
    Only [.quads, .cores] s (State.loadCopy s q k e) := by
  simp only [State.loadCopy]
  repeat' first
    | with_reducible apply Only.refl
    | with_reducible assumption
    | ((with_reducible apply Only.step (State.modCoreN_only _ _ _)); rfl)
    | ((with_reducible apply Only.step (State.modQuadN_only _ _ _)); rfl)
    | with_reducible apply Only.ite
    | with_reducible apply Only.ite_snd
    | with_reducible apply Only.ite_fst
    | split
    | with_reducible apply Only.foldl _ (fun _ _ => ?_)
    | with_reducible apply Only.foldl_fst _ (fun _ _ => ?_)
    | fail_if_no_progress refine Only.mk (k := ?_)

theorem State.askFor_only (s : State) (q k : Nat) (onFallback : Bool) (n : KeyName) :
    Only [.key, .quads, .cores] s (State.askFor s q k onFallback n).2 := by
  simp only [State.askFor]
  repeat' first
    | with_reducible apply Only.refl
    | with_reducible assumption
    | ((with_reducible apply Only.step (State.askKey_only _ _)); rfl)
    | ((with_reducible apply Only.step (State.loadCopy_only _ _ _ _)); rfl)
    | ((with_reducible apply Only.step (State.modCoreN_only _ _ _)); rfl)
    | (rename_i hh; with_reducible apply triple_eq at hh; obtain ⟨rfl, rfl, rfl⟩ := hh)
    | (rename_i hh; with_reducible apply pair_eq at hh; obtain ⟨rfl, rfl⟩ := hh)
    | (rename_i hh; with_reducible apply pair_eq at hh; obtain ⟨-, rfl⟩ := hh)
    | (rename_i hh; with_reducible apply pair_eq at hh; obtain ⟨rfl, -⟩ := hh)
    | with_reducible apply Only.ite
    | with_reducible apply Only.ite_snd
    | with_reducible apply Only.ite_fst
    | split
    | with_reducible apply Only.foldl _ (fun _ _ => ?_)
    | with_reducible apply Only.foldl_fst _ (fun _ _ => ?_)
    | fail_if_no_progress refine Only.mk (k := ?_)

theorem State.portCnt_only (s : State) (q c : Nat) :
    Only [.quads] s (State.portCnt s q c) := by
  simp only [State.portCnt]
  repeat' first
    | with_reducible apply Only.refl
    | with_reducible assumption
    | ((with_reducible apply Only.step (State.modQuadN_only _ _ _)); rfl)
    | with_reducible apply Only.ite
    | with_reducible apply Only.ite_snd
    | with_reducible apply Only.ite_fst
    | split
    | with_reducible apply Only.foldl _ (fun _ _ => ?_)
    | with_reducible apply Only.foldl_fst _ (fun _ _ => ?_)
    | fail_if_no_progress refine Only.mk (k := ?_)

theorem State.afterIngress_only (s : State) (q : Nat) (f : Frame) :
    Only [.sys, .tbl, .quads] s (State.afterIngress s q f) := by
  simp only [State.afterIngress]
  repeat' first
    | with_reducible apply Only.refl
    | with_reducible assumption
    | ((with_reducible apply Only.step (State.dropFrame_only _ _ _ _)); rfl)
    | ((with_reducible apply Only.step (State.modQuadN_only _ _ _)); rfl)
    | ((with_reducible apply Only.step (State.toLookup_only _ _ _)); rfl)
    | with_reducible apply Only.ite
    | with_reducible apply Only.ite_snd
    | with_reducible apply Only.ite_fst
    | split
    | with_reducible apply Only.foldl _ (fun _ _ => ?_)
    | with_reducible apply Only.foldl_fst _ (fun _ _ => ?_)
    | fail_if_no_progress refine Only.mk (k := ?_)

theorem State.toEnqueue_only (s : State) (q : Nat) (f : Frame) :
    Only [.quads] s (State.toEnqueue s q f) := by
  simp only [State.toEnqueue]
  repeat' first
    | with_reducible apply Only.refl
    | with_reducible assumption
    | ((with_reducible apply Only.step (State.modQuadN_only _ _ _)); rfl)
    | with_reducible apply Only.ite
    | with_reducible apply Only.ite_snd
    | with_reducible apply Only.ite_fst
    | split
    | with_reducible apply Only.foldl _ (fun _ _ => ?_)
    | with_reducible apply Only.foldl_fst _ (fun _ _ => ?_)
    | fail_if_no_progress refine Only.mk (k := ?_)

theorem State.deliverBlock_only (s : State) (q : Nat) (f : Frame) (ok : Bool) :
    Only [.quads] s (State.deliverBlock s q f ok) := by
  simp only [State.deliverBlock]
  repeat' first
    | with_reducible apply Only.refl
    | with_reducible assumption
    | ((with_reducible apply Only.step (State.toLookup_only _ _ _)); rfl)
    | with_reducible apply Only.ite
    | with_reducible apply Only.ite_snd
    | with_reducible apply Only.ite_fst
    | split
    | with_reducible apply Only.foldl _ (fun _ _ => ?_)
    | with_reducible apply Only.foldl_fst _ (fun _ _ => ?_)
    | fail_if_no_progress refine Only.mk (k := ?_)

theorem State.releaseIngress_only (s : State) (q : Nat) (j : Job) (out : List Byte) :
    Only [.sys, .key, .tbl, .quads] s (State.releaseIngress s q j out) := by
  simp only [State.releaseIngress]
  repeat' first
    | with_reducible apply Only.refl
    | with_reducible assumption
    | ((with_reducible apply Only.step (State.afterIngress_only _ _ _)); rfl)
    | ((with_reducible apply Only.step (State.dropFrame_only _ _ _ _)); rfl)
    | ((with_reducible apply Only.step (State.modAssoc_only _ _ _)); rfl)
    | ((with_reducible apply Only.step (State.portCnt_only _ _ _)); rfl)
    | with_reducible apply Only.ite
    | with_reducible apply Only.ite_snd
    | with_reducible apply Only.ite_fst
    | split
    | with_reducible apply Only.foldl _ (fun _ _ => ?_)
    | with_reducible apply Only.foldl_fst _ (fun _ _ => ?_)
    | fail_if_no_progress refine Only.mk (k := ?_)

theorem State.unitFail_only (s : State) (j : Job) :
    Only [.fbk, .cores] s (State.unitFail s j) := by
  simp only [State.unitFail]
  repeat' first
    | with_reducible apply Only.refl
    | with_reducible assumption
    | ((with_reducible apply Only.step (State.modCoreN_only _ _ _)); rfl)
    | with_reducible apply Only.ite
    | with_reducible apply Only.ite_snd
    | with_reducible apply Only.ite_fst
    | split
    | with_reducible apply Only.foldl _ (fun _ _ => ?_)
    | with_reducible apply Only.foldl_fst _ (fun _ _ => ?_)
    | fail_if_no_progress refine Only.mk (k := ?_)

theorem State.releaseJob_only (s : State) (q : Nat) (j : Job) :
    Only [.sys, .key, .tbl, .fbk, .quads, .cores] s (State.releaseJob s q j) := by
  simp only [State.releaseJob]
  repeat' first
    | with_reducible apply Only.refl
    | with_reducible assumption
    | ((with_reducible apply Only.step (State.deliverBlock_only _ _ _ _)); rfl)
    | ((with_reducible apply Only.step (State.dropFrame_only _ _ _ _)); rfl)
    | ((with_reducible apply Only.step (State.modAssoc_only _ _ _)); rfl)
    | ((with_reducible apply Only.step (State.modTrib_only _ _ _)); rfl)
    | ((with_reducible apply Only.step (State.portCnt_only _ _ _)); rfl)
    | ((with_reducible apply Only.step (State.releaseIngress_only _ _ _ _)); rfl)
    | ((with_reducible apply Only.step (State.toEnqueue_only _ _ _)); rfl)
    | ((with_reducible apply Only.step (State.unitFail_only _ _)); rfl)
    | with_reducible apply Only.ite
    | with_reducible apply Only.ite_snd
    | with_reducible apply Only.ite_fst
    | split
    | with_reducible apply Only.foldl _ (fun _ _ => ?_)
    | with_reducible apply Only.foldl_fst _ (fun _ _ => ?_)
    | fail_if_no_progress refine Only.mk (k := ?_)

theorem State.release_only (s : State) (q : Nat) :
    Only [.sys, .key, .tbl, .fbk, .quads, .cores, .lanes] s (State.release s q) := by
  simp only [State.release]
  repeat' first
    | with_reducible apply Only.refl
    | with_reducible assumption
    | ((with_reducible apply Only.step (State.floatsAll_only _)); rfl)
    | ((with_reducible apply Only.step (State.modQuadN_only _ _ _)); rfl)
    | ((with_reducible apply Only.step (State.releaseJob_only _ _ _)); rfl)
    | (rename_i hh; with_reducible apply triple_eq at hh; obtain ⟨rfl, rfl, rfl⟩ := hh)
    | (rename_i hh; with_reducible apply pair_eq at hh; obtain ⟨rfl, rfl⟩ := hh)
    | (rename_i hh; with_reducible apply pair_eq at hh; obtain ⟨-, rfl⟩ := hh)
    | (rename_i hh; with_reducible apply pair_eq at hh; obtain ⟨rfl, -⟩ := hh)
    | with_reducible apply Only.ite
    | with_reducible apply Only.ite_snd
    | with_reducible apply Only.ite_fst
    | split
    | with_reducible apply Only.foldl _ (fun _ _ => ?_)
    | with_reducible apply Only.foldl_fst _ (fun _ _ => ?_)
    | fail_if_no_progress refine Only.mk (k := ?_)

theorem State.releaseAll_only (s : State) :
    Only [.sys, .key, .tbl, .fbk, .quads, .cores, .lanes] s (State.releaseAll s) := by
  simp only [State.releaseAll]
  repeat' first
    | with_reducible apply Only.refl
    | with_reducible assumption
    | ((with_reducible apply Only.step (State.release_only _ _)); rfl)
    | with_reducible apply Only.ite
    | with_reducible apply Only.ite_snd
    | with_reducible apply Only.ite_fst
    | split
    | with_reducible apply Only.foldl _ (fun _ _ => ?_)
    | with_reducible apply Only.foldl_fst _ (fun _ _ => ?_)
    | fail_if_no_progress refine Only.mk (k := ?_)

theorem State.abandon_only (s : State) (p : KeyName → Bool) :
    Only [.sys, .key, .tbl, .fbk, .quads, .cores, .lanes] s (State.abandon s p) := by
  simp only [State.abandon]
  repeat' first
    | with_reducible apply Only.refl
    | with_reducible assumption
    | ((with_reducible apply Only.step (State.keyCnt_only _ _ _)); rfl)
    | ((with_reducible apply Only.step (State.releaseAll_only _)); rfl)
    | with_reducible apply Only.ite
    | with_reducible apply Only.ite_snd
    | with_reducible apply Only.ite_fst
    | split
    | with_reducible apply Only.foldl _ (fun _ _ => ?_)
    | with_reducible apply Only.foldl_fst _ (fun _ _ => ?_)
    | fail_if_no_progress refine Only.mk (k := ?_)

end Sys2Proof.Machine
end

