-- ==== Sys2Proof/Laws/OnlyCipher.lean ====
section
/-!
SUPPORT. What the operations of Machine/Cipher.lean may change.
-/
namespace Sys2Proof.Machine

set_option Elab.async false
set_option linter.unusedTactic false
set_option linter.unreachableTactic false

theorem State.trimCounter_only (s : State) (i : Nat) :
    Only [.evt, .key] s (State.trimCounter s i) := by
  simp only [State.trimCounter]
  repeat' first
    | with_reducible apply Only.refl
    | with_reducible assumption
    | ((with_reducible apply Only.step (State.modTrib_only _ _ _)); rfl)
    | ((with_reducible apply Only.step (State.report_only _ _ _ _)); rfl)
    | with_reducible apply Only.ite
    | with_reducible apply Only.ite_snd
    | with_reducible apply Only.ite_fst
    | split
    | with_reducible apply Only.foldl _ (fun _ _ => ?_)
    | with_reducible apply Only.foldl_fst _ (fun _ _ => ?_)
    | fail_if_no_progress refine Only.mk (k := ?_)

theorem State.refuseJob_only (s : State) (q : Nat) (f : Frame) (j : NoJob) :
    Only [.sys, .evt, .key, .tbl, .quads] s (s.refuseJob q f j) := by
  unfold State.refuseJob
  repeat' first
    | exact Only.refl _ _
    | ((with_reducible apply Only.step (State.dropFrame_only _ _ _ _)); rfl)
    | ((with_reducible apply Only.step (State.portCnt_only _ _ _)); rfl)
    | ((with_reducible apply Only.step (State.modAssoc_only _ _ _)); rfl)
    | ((with_reducible apply Only.step (State.modTrib_only _ _ _)); rfl)
    | ((with_reducible apply Only.step (State.trimCounter_only _ _)); rfl)
    | ((with_reducible apply Only.step (State.reportIf_only _ _ _ _ _)); rfl)
    | split

theorem State.takeNumber_only (s : State) (p : Plan) :
    Only [.evt, .key] s (State.takeNumber s p) := by
  simp only [State.takeNumber]
  repeat' first
    | with_reducible apply Only.refl
    | with_reducible assumption
    | ((with_reducible apply Only.step (State.modAssoc_only _ _ _)); rfl)
    | ((with_reducible apply Only.step (State.modTrib_only _ _ _)); rfl)
    | ((with_reducible apply Only.step (State.report_only _ _ _ _)); rfl)
    | with_reducible apply Only.ite
    | with_reducible apply Only.ite_snd
    | with_reducible apply Only.ite_fst
    | split
    | with_reducible apply Only.foldl _ (fun _ _ => ?_)
    | with_reducible apply Only.foldl_fst _ (fun _ _ => ?_)
    | fail_if_no_progress refine Only.mk (k := ?_)

theorem State.dispatchTo_only (s : State) (q : Nat) (f : Frame) (p : Plan) (cost : Nat) (x : Slot) :
    Only [.sys, .evt, .key, .tbl, .fbk, .quads, .cores, .lanes, .freeIdx] s (State.dispatchTo s q f p cost x) := by
  simp only [State.dispatchTo]
  repeat' first
    | with_reducible apply Only.refl
    | with_reducible assumption
    | ((with_reducible apply Only.step (State.askFor_only _ _ _ _ _)); rfl)
    | ((with_reducible apply Only.step (State.modQuadN_only _ _ _)); rfl)
    | ((with_reducible apply Only.step (State.portCnt_only _ _ _)); rfl)
    | ((with_reducible apply Only.step (State.release_only _ _)); rfl)
    | ((with_reducible apply Only.step (State.takeNumber_only _ _)); rfl)
    | ((with_reducible apply Only.step (State.tookFree_only _)); rfl)
    | (rename_i hh; with_reducible apply triple_eq at hh; obtain ⟨rfl, rfl, rfl⟩ := hh)
    | (rename_i hh; with_reducible apply pair_eq at hh; obtain ⟨rfl, rfl⟩ := hh)
    | (rename_i hh; with_reducible apply pair_eq at hh; obtain ⟨-, rfl⟩ := hh)
    | (rename_i hh; with_reducible apply pair_eq at hh; obtain ⟨rfl, -⟩ := hh)
    | with_reducible apply Only.ite
    | with_reducible apply Only.ite_snd
    | with_reducible apply Only.ite_fst
    | split
    | with_reducible apply Only.foldl _ (fun _ _ => ?_)
    | with_reducible apply Only.foldl_fst _ (fun _ _ => ?_)
    | fail_if_no_progress refine Only.mk (k := ?_)

theorem execCipherDispatch_only (q : QuadId) (s : State) :
    ∃ v, (execCipherDispatch q s) = .next v ∧ Only [.sys, .evt, .key, .tbl, .fbk, .quads, .cores, .lanes, .freeIdx] s v := by
  refine ⟨_, rfl, ?_⟩
  try dsimp only
  repeat' first
    | with_reducible apply Only.refl
    | with_reducible assumption
    | ((with_reducible apply Only.step (State.dispatchTo_only _ _ _ _ _ _)); rfl)
    | ((with_reducible apply Only.step (State.modQuad_only _ _ _)); rfl)
    | ((with_reducible apply Only.step (State.refuseJob_only _ _ _ _)); rfl)
    | with_reducible apply Only.ite
    | with_reducible apply Only.ite_snd
    | with_reducible apply Only.ite_fst
    | split
    | with_reducible apply Only.foldl _ (fun _ _ => ?_)
    | with_reducible apply Only.foldl_fst _ (fun _ _ => ?_)
    | fail_if_no_progress refine Only.mk (k := ?_)

theorem State.finish_only (s : State) (q i : Nat) :
    Only [.sys, .evt, .key, .tbl, .fbk, .quads, .cores, .lanes] s (State.finish s q i) := by
  simp only [State.finish]
  repeat' first
    | with_reducible apply Only.refl
    | with_reducible assumption
    | ((with_reducible apply Only.step (State.katIfEmpty_only _ _ _)); rfl)
    | ((with_reducible apply Only.step (State.modCoreN_only _ _ _)); rfl)
    | ((with_reducible apply Only.step (State.modQuadN_only _ _ _)); rfl)
    | ((with_reducible apply Only.step (State.release_only _ _)); rfl)
    | ((with_reducible apply Only.step (State.resubst_only _)); rfl)
    | with_reducible apply Only.ite
    | with_reducible apply Only.ite_snd
    | with_reducible apply Only.ite_fst
    | split
    | with_reducible apply Only.foldl _ (fun _ _ => ?_)
    | with_reducible apply Only.foldl_fst _ (fun _ _ => ?_)
    | fail_if_no_progress refine Only.mk (k := ?_)

theorem execCoreJobDone_only (u : CipherUnit) (s : State) :
    ∃ v, (execCoreJobDone u s) = .next v ∧ Only [.sys, .evt, .key, .tbl, .fbk, .quads, .cores, .lanes] s v := by
  refine ⟨_, rfl, ?_⟩
  try dsimp only
  repeat' first
    | with_reducible apply Only.refl
    | with_reducible assumption
    | ((with_reducible apply Only.step (State.finish_only _ _ _)); rfl)
    | with_reducible apply Only.ite
    | with_reducible apply Only.ite_snd
    | with_reducible apply Only.ite_fst
    | split
    | with_reducible apply Only.foldl _ (fun _ _ => ?_)
    | with_reducible apply Only.foldl_fst _ (fun _ _ => ?_)
    | fail_if_no_progress refine Only.mk (k := ?_)

theorem State.laEnter_only (s : State) (d : LaDesc) :
    Only [.key, .fbk] s (State.laEnter s d) := by
  simp only [State.laEnter]
  repeat' first
    | with_reducible apply Only.refl
    | with_reducible assumption
    | ((with_reducible apply Only.step (State.askKey_only _ _)); rfl)
    | (rename_i hh; with_reducible apply triple_eq at hh; obtain ⟨rfl, rfl, rfl⟩ := hh)
    | (rename_i hh; with_reducible apply pair_eq at hh; obtain ⟨rfl, rfl⟩ := hh)
    | (rename_i hh; with_reducible apply pair_eq at hh; obtain ⟨-, rfl⟩ := hh)
    | (rename_i hh; with_reducible apply pair_eq at hh; obtain ⟨rfl, -⟩ := hh)
    | with_reducible apply Only.ite
    | with_reducible apply Only.ite_snd
    | with_reducible apply Only.ite_fst
    | split
    | with_reducible apply Only.foldl _ (fun _ _ => ?_)
    | with_reducible apply Only.foldl_fst _ (fun _ _ => ?_)
    | fail_if_no_progress refine Only.mk (k := ?_)

theorem execLookasideFetch_only (d : LaDesc) (s : State) :
    ∃ v, (execLookasideFetch d s) = .next v ∧ Only [.key, .hif, .fbk, .out] s v := by
  refine ⟨_, rfl, ?_⟩
  try dsimp only
  repeat' first
    | with_reducible apply Only.refl
    | with_reducible assumption
    | ((with_reducible apply Only.step (State.laEnter_only _ _)); rfl)
    | ((with_reducible apply Only.step (State.ringAdvance_only _ _ _)); rfl)
    | with_reducible apply Only.ite
    | with_reducible apply Only.ite_snd
    | with_reducible apply Only.ite_fst
    | split
    | with_reducible apply Only.foldl _ (fun _ _ => ?_)
    | with_reducible apply Only.foldl_fst _ (fun _ _ => ?_)
    | fail_if_no_progress refine Only.mk (k := ?_)

theorem State.dmaWrite_only (s : State) (a : W64) (b : List Byte) :
    Only [.out] s (State.dmaWrite s a b) := by
  simp only [State.dmaWrite]
  repeat' first
    | with_reducible apply Only.refl
    | with_reducible assumption
    | ((with_reducible apply Only.step (State.emit_only _ _)); rfl)
    | with_reducible apply Only.ite
    | with_reducible apply Only.ite_snd
    | with_reducible apply Only.ite_fst
    | split
    | with_reducible apply Only.foldl _ (fun _ _ => ?_)
    | with_reducible apply Only.foldl_fst _ (fun _ _ => ?_)
    | fail_if_no_progress refine Only.mk (k := ?_)

theorem State.laFinish_only (s : State) (d : LaDesc) (status : BitVec 3) :
    Only [.hif, .fbk, .out] s (State.laFinish s d status) := by
  simp only [State.laFinish]
  repeat' first
    | with_reducible apply Only.refl
    | with_reducible assumption
    | ((with_reducible apply Only.step (State.dmaWrite_only _ _ _)); rfl)
    | ((with_reducible apply Only.step (State.laComplete_only _ _ _)); rfl)
    | with_reducible apply Only.ite
    | with_reducible apply Only.ite_snd
    | with_reducible apply Only.ite_fst
    | split
    | with_reducible apply Only.foldl _ (fun _ _ => ?_)
    | with_reducible apply Only.foldl_fst _ (fun _ _ => ?_)
    | fail_if_no_progress refine Only.mk (k := ?_)

theorem execLookasideComplete_only (input aad tag : List Byte) (s : State) :
    ∃ v, (execLookasideComplete input aad tag s) = .next v ∧ Only [.hif, .fbk, .out] s v := by
  refine ⟨_, rfl, ?_⟩
  try dsimp only
  repeat' first
    | with_reducible apply Only.refl
    | with_reducible assumption
    | ((with_reducible apply Only.step (State.dmaWrite_only _ _ _)); rfl)
    | ((with_reducible apply Only.step (State.laFinish_only _ _ _)); rfl)
    | (rename_i hh; with_reducible apply triple_eq at hh; obtain ⟨rfl, rfl, rfl⟩ := hh)
    | (rename_i hh; with_reducible apply pair_eq at hh; obtain ⟨rfl, rfl⟩ := hh)
    | (rename_i hh; with_reducible apply pair_eq at hh; obtain ⟨-, rfl⟩ := hh)
    | (rename_i hh; with_reducible apply pair_eq at hh; obtain ⟨rfl, -⟩ := hh)
    | with_reducible apply Only.ite
    | with_reducible apply Only.ite_snd
    | with_reducible apply Only.ite_fst
    | split
    | with_reducible apply Only.foldl _ (fun _ _ => ?_)
    | with_reducible apply Only.foldl_fst _ (fun _ _ => ?_)
    | fail_if_no_progress refine Only.mk (k := ?_)

end Sys2Proof.Machine
end

