-- ==== Sys2Proof/Laws/OnlyCipherTest.lean ====
section
/-!
SUPPORT. What the operations of Machine/CipherTest.lean may change.
-/
namespace Sys2Proof.Machine

set_option Elab.async false
set_option linter.unusedTactic false
set_option linter.unreachableTactic false

theorem State.fbkDown_only (s : State) :
    Only [.evt, .hif, .fbk, .quads, .out] s (State.fbkDown s) := by
  simp only [State.fbkDown]
  repeat' first
    | with_reducible apply Only.refl
    | with_reducible assumption
    | ((with_reducible apply Only.step (State.laFinish_only _ _ _)); rfl)
    | ((with_reducible apply Only.step (State.resubst_only _)); rfl)
    | with_reducible apply Only.ite
    | with_reducible apply Only.ite_snd
    | with_reducible apply Only.ite_fst
    | split
    | with_reducible apply Only.foldl _ (fun _ _ => ?_)
    | with_reducible apply Only.foldl_fst _ (fun _ _ => ?_)
    | fail_if_no_progress refine Only.mk (k := ?_)

theorem State.fbkFault_only (s : State) (cause : BitVec 3) :
    Only [.evt, .hif, .fbk, .quads, .out] s (State.fbkFault s cause) := by
  simp only [State.fbkFault]
  repeat' first
    | with_reducible apply Only.refl
    | with_reducible assumption
    | ((with_reducible apply Only.step (State.fbkDown_only _)); rfl)
    | ((with_reducible apply Only.step (State.report_only _ _ _ _)); rfl)
    | with_reducible apply Only.ite
    | with_reducible apply Only.ite_snd
    | with_reducible apply Only.ite_fst
    | split
    | with_reducible apply Only.foldl _ (fun _ _ => ?_)
    | with_reducible apply Only.foldl_fst _ (fun _ _ => ?_)
    | fail_if_no_progress refine Only.mk (k := ?_)

theorem State.fbkUp_only (s : State) :
    Only [.evt, .fbk, .quads] s (State.fbkUp s) := by
  simp only [State.fbkUp]
  repeat' first
    | with_reducible apply Only.refl
    | with_reducible assumption
    | ((with_reducible apply Only.step (State.endCond_only _ _)); rfl)
    | ((with_reducible apply Only.step (State.resubst_only _)); rfl)
    | with_reducible apply Only.ite
    | with_reducible apply Only.ite_snd
    | with_reducible apply Only.ite_fst
    | split
    | with_reducible apply Only.foldl _ (fun _ _ => ?_)
    | with_reducible apply Only.foldl_fst _ (fun _ _ => ?_)
    | fail_if_no_progress refine Only.mk (k := ?_)

theorem execKatDue_only (u : CipherUnit) (pass : Bool) (s : State) :
    ∃ v, (execKatDue u pass s) = .next v ∧ Only [.evt, .hif, .fbk, .quads, .cores, .out] s v := by
  refine ⟨_, rfl, ?_⟩
  try dsimp only
  repeat' first
    | with_reducible apply Only.refl
    | with_reducible assumption
    | ((with_reducible apply Only.step (State.fbkFault_only _ _)); rfl)
    | ((with_reducible apply Only.step (State.katRun_only _ _ _)); rfl)
    | ((with_reducible apply Only.step (State.modCore_only _ _ _)); rfl)
    | with_reducible apply Only.ite
    | with_reducible apply Only.ite_snd
    | with_reducible apply Only.ite_fst
    | split
    | with_reducible apply Only.foldl _ (fun _ _ => ?_)
    | with_reducible apply Only.foldl_fst _ (fun _ _ => ?_)
    | fail_if_no_progress refine Only.mk (k := ?_)

theorem execKatOverdue_only (k : CoreId) (s : State) :
    ∃ v, (execKatOverdue k s) = .next v ∧ Only [.quads, .cores] s v := by
  refine ⟨_, rfl, ?_⟩
  try dsimp only
  repeat' first
    | with_reducible apply Only.refl
    | with_reducible assumption
    | ((with_reducible apply Only.step (State.modCore_only _ _ _)); rfl)
    | ((with_reducible apply Only.step (State.portCnt_only _ _ _)); rfl)
    | with_reducible apply Only.ite
    | with_reducible apply Only.ite_snd
    | with_reducible apply Only.ite_fst
    | split
    | with_reducible apply Only.foldl _ (fun _ _ => ?_)
    | with_reducible apply Only.foldl_fst _ (fun _ _ => ?_)
    | fail_if_no_progress refine Only.mk (k := ?_)

theorem execFirstKat_only (u : CipherUnit) (pass : Bool) (s : State) :
    ∃ v, (execFirstKat u pass s) = .next v ∧ Only [.evt, .hif, .fbk, .quads, .cores, .out] s v := by
  refine ⟨_, rfl, ?_⟩
  try dsimp only
  repeat' first
    | with_reducible apply Only.refl
    | with_reducible assumption
    | ((with_reducible apply Only.step (State.coreFault_only _ _ _)); rfl)
    | ((with_reducible apply Only.step (State.coreReturn_only _ _)); rfl)
    | ((with_reducible apply Only.step (State.fbkFault_only _ _)); rfl)
    | ((with_reducible apply Only.step (State.fbkUp_only _)); rfl)
    | with_reducible apply Only.ite
    | with_reducible apply Only.ite_snd
    | with_reducible apply Only.ite_fst
    | split
    | with_reducible apply Only.foldl _ (fun _ _ => ?_)
    | with_reducible apply Only.foldl_fst _ (fun _ _ => ?_)
    | fail_if_no_progress refine Only.mk (k := ?_)

theorem execKatNow_only (p : Port) (k : CoreId) (pass : Bool) (s : State) :
    ∃ v, (execKatNow p k pass s) = .next v ∧ Only [.evt, .hif, .fbk, .quads, .cores] s v := by
  refine ⟨_, rfl, ?_⟩
  try dsimp only
  repeat' first
    | with_reducible apply Only.refl
    | with_reducible assumption
    | ((with_reducible apply Only.step (State.coreFault_only _ _ _)); rfl)
    | ((with_reducible apply State.writeIsl_only); rfl)
    | with_reducible apply Only.ite
    | with_reducible apply Only.ite_snd
    | with_reducible apply Only.ite_fst
    | with_reducible intro _
    | split
    | with_reducible apply Only.foldl _ (fun _ _ => ?_)
    | with_reducible apply Only.foldl_fst _ (fun _ _ => ?_)
    | fail_if_no_progress refine Only.mk (k := ?_)

theorem execIntegrityFault_only (u : CipherUnit) (cause : UnitFault) (s : State) :
    ∃ v, (execIntegrityFault u cause s) = .next v ∧ Only [.evt, .hif, .fbk, .quads, .cores, .out] s v := by
  refine ⟨_, rfl, ?_⟩
  try dsimp only
  repeat' first
    | with_reducible apply Only.refl
    | with_reducible assumption
    | ((with_reducible apply Only.step (State.coreFault_only _ _ _)); rfl)
    | ((with_reducible apply Only.step (State.fbkFault_only _ _)); rfl)
    | with_reducible apply Only.ite
    | with_reducible apply Only.ite_snd
    | with_reducible apply Only.ite_fst
    | split
    | with_reducible apply Only.foldl _ (fun _ _ => ?_)
    | with_reducible apply Only.foldl_fst _ (fun _ _ => ?_)
    | fail_if_no_progress refine Only.mk (k := ?_)

theorem State.quarForce_only (s : State) (k : Nat) (on : Bool) :
    Only [.evt, .fbk, .quads, .cores] s (State.quarForce s k on) := by
  simp only [State.quarForce]
  repeat' first
    | with_reducible apply Only.refl
    | with_reducible assumption
    | ((with_reducible apply Only.step (State.coreFault_only _ _ _)); rfl)
    | ((with_reducible apply Only.step (State.modCoreN_only _ _ _)); rfl)
    | with_reducible apply Only.ite
    | with_reducible apply Only.ite_snd
    | with_reducible apply Only.ite_fst
    | split
    | with_reducible apply Only.foldl _ (fun _ _ => ?_)
    | with_reducible apply Only.foldl_fst _ (fun _ _ => ?_)
    | fail_if_no_progress refine Only.mk (k := ?_)

theorem execQuarForce_only (p : Port) (k : CoreId) (on : Bool) (s : State) :
    ∃ v, (execQuarForce p k on s) = .next v ∧ Only [.evt, .hif, .fbk, .quads, .cores] s v := by
  refine ⟨_, rfl, ?_⟩
  try dsimp only
  repeat' first
    | with_reducible apply Only.refl
    | with_reducible assumption
    | ((with_reducible apply Only.step (State.quarForce_only _ _ _)); rfl)
    | ((with_reducible apply State.writeIsl_only); rfl)
    | with_reducible apply Only.ite
    | with_reducible apply Only.ite_snd
    | with_reducible apply Only.ite_fst
    | with_reducible intro _
    | split
    | with_reducible apply Only.foldl _ (fun _ _ => ?_)
    | with_reducible apply Only.foldl_fst _ (fun _ _ => ?_)
    | fail_if_no_progress refine Only.mk (k := ?_)

theorem State.coreRetest_only (s : State) (k : Nat) (pass : Bool) :
    Only [.evt, .fbk, .quads, .cores] s (State.coreRetest s k pass) := by
  simp only [State.coreRetest]
  repeat' first
    | with_reducible apply Only.refl
    | with_reducible assumption
    | ((with_reducible apply Only.step (State.coreReturn_only _ _)); rfl)
    | ((with_reducible apply Only.step (State.modCoreN_only _ _ _)); rfl)
    | with_reducible apply Only.ite
    | with_reducible apply Only.ite_snd
    | with_reducible apply Only.ite_fst
    | split
    | with_reducible apply Only.foldl _ (fun _ _ => ?_)
    | with_reducible apply Only.foldl_fst _ (fun _ _ => ?_)
    | fail_if_no_progress refine Only.mk (k := ?_)

theorem State.fbkRetest_only (s : State) (pass : Bool) :
    Only [.evt, .fbk, .quads] s (State.fbkRetest s pass) := by
  simp only [State.fbkRetest]
  repeat' first
    | with_reducible apply Only.refl
    | with_reducible assumption
    | ((with_reducible apply Only.step (State.fbkUp_only _)); rfl)
    | with_reducible apply Only.ite
    | with_reducible apply Only.ite_snd
    | with_reducible apply Only.ite_fst
    | split
    | with_reducible apply Only.foldl _ (fun _ _ => ?_)
    | with_reducible apply Only.foldl_fst _ (fun _ _ => ?_)
    | fail_if_no_progress refine Only.mk (k := ?_)

theorem execRetest_only (p : Port) (u : CipherUnit) (pass : Bool) (s : State) :
    ∃ v, (execRetest p u pass s) = .next v ∧ Only [.evt, .hif, .fbk, .quads, .cores] s v := by
  refine ⟨_, rfl, ?_⟩
  try dsimp only
  repeat' first
    | with_reducible apply Only.refl
    | with_reducible assumption
    | ((with_reducible apply Only.step (State.coreRetest_only _ _ _)); rfl)
    | ((with_reducible apply Only.step (State.fbkRetest_only _ _)); rfl)
    | ((with_reducible apply State.writeIsl_only); rfl)
    | with_reducible apply Only.ite
    | with_reducible apply Only.ite_snd
    | with_reducible apply Only.ite_fst
    | with_reducible intro _
    | split
    | with_reducible apply Only.foldl _ (fun _ _ => ?_)
    | with_reducible apply Only.foldl_fst _ (fun _ _ => ?_)
    | fail_if_no_progress refine Only.mk (k := ?_)

theorem execAfWindow_only (u : CipherUnit) (s : State) :
    ∃ v, (execAfWindow u s) = .next v ∧ Only [.evt, .fbk, .cores] s v := by
  refine ⟨_, rfl, ?_⟩
  try dsimp only
  repeat' first
    | with_reducible apply Only.refl
    | with_reducible assumption
    | ((with_reducible apply Only.step (State.modCore_only _ _ _)); rfl)
    | ((with_reducible apply Only.step (State.reportIf_only _ _ _ _ _)); rfl)
    | with_reducible apply Only.ite
    | with_reducible apply Only.ite_snd
    | with_reducible apply Only.ite_fst
    | split
    | with_reducible apply Only.foldl _ (fun _ _ => ?_)
    | with_reducible apply Only.foldl_fst _ (fun _ _ => ?_)
    | fail_if_no_progress refine Only.mk (k := ?_)

theorem State.jobsRead_only (s : State) (k : Nat) :
    Only [.cores] s (State.jobsRead s k).2 := by
  simp only [State.jobsRead]
  repeat' first
    | with_reducible apply Only.refl
    | with_reducible assumption
    | ((with_reducible apply Only.step (State.modCoreN_only _ _ _)); rfl)
    | with_reducible apply Only.ite
    | with_reducible apply Only.ite_snd
    | with_reducible apply Only.ite_fst
    | split
    | with_reducible apply Only.foldl _ (fun _ _ => ?_)
    | with_reducible apply Only.foldl_fst _ (fun _ _ => ?_)
    | fail_if_no_progress refine Only.mk (k := ?_)

theorem State.afRead_only (s : State) (k : Nat) :
    Only [.cores] s (State.afRead s k).2 := by
  simp only [State.afRead]
  repeat' first
    | with_reducible apply Only.refl
    | with_reducible assumption
    | ((with_reducible apply Only.step (State.modCoreN_only _ _ _)); rfl)
    | with_reducible apply Only.ite
    | with_reducible apply Only.ite_snd
    | with_reducible apply Only.ite_fst
    | split
    | with_reducible apply Only.foldl _ (fun _ _ => ?_)
    | with_reducible apply Only.foldl_fst _ (fun _ _ => ?_)
    | fail_if_no_progress refine Only.mk (k := ?_)

theorem execCphJobsRead_only (p : Port) (k : CoreId) (s : State) :
    ∃ v, (execCphJobsRead p k s) = .next v ∧ Only [.evt, .hif, .cores, .out] s v := by
  refine ⟨_, rfl, ?_⟩
  try dsimp only
  repeat' first
    | with_reducible apply Only.refl
    | with_reducible assumption
    | ((with_reducible apply Only.step (State.jobsRead_only _ _)); rfl)
    | ((with_reducible apply State.readIsl_only); rfl)
    | with_reducible apply Only.ite
    | with_reducible apply Only.ite_snd
    | with_reducible apply Only.ite_fst
    | with_reducible intro _
    | split
    | with_reducible apply Only.foldl _ (fun _ _ => ?_)
    | with_reducible apply Only.foldl_fst _ (fun _ _ => ?_)
    | fail_if_no_progress refine Only.mk (k := ?_)

theorem execCphAfRead_only (p : Port) (k : CoreId) (s : State) :
    ∃ v, (execCphAfRead p k s) = .next v ∧ Only [.evt, .hif, .cores, .out] s v := by
  refine ⟨_, rfl, ?_⟩
  try dsimp only
  repeat' first
    | with_reducible apply Only.refl
    | with_reducible assumption
    | ((with_reducible apply Only.step (State.afRead_only _ _)); rfl)
    | ((with_reducible apply State.readIsl_only); rfl)
    | with_reducible apply Only.ite
    | with_reducible apply Only.ite_snd
    | with_reducible apply Only.ite_fst
    | with_reducible intro _
    | split
    | with_reducible apply Only.foldl _ (fun _ _ => ?_)
    | with_reducible apply Only.foldl_fst _ (fun _ _ => ?_)
    | fail_if_no_progress refine Only.mk (k := ?_)

theorem State.coreRead_only (s : State) (k off : Nat) :
    Only [.cores] s (State.coreRead s k off).2 := by
  simp only [State.coreRead]
  repeat' first
    | with_reducible apply Only.refl
    | with_reducible assumption
    | ((with_reducible apply Only.step (State.afRead_only _ _)); rfl)
    | ((with_reducible apply Only.step (State.jobsRead_only _ _)); rfl)
    | with_reducible apply Only.ite
    | with_reducible apply Only.ite_snd
    | with_reducible apply Only.ite_fst
    | split
    | with_reducible apply Only.foldl _ (fun _ _ => ?_)
    | with_reducible apply Only.foldl_fst _ (fun _ _ => ?_)
    | fail_if_no_progress refine Only.mk (k := ?_)

theorem State.coreWrite_only (s : State) (k off : Nat) (w : W32) :
    Only [.evt, .fbk, .quads, .cores, .freeIdx] s (State.coreWrite s k off w) := by
  simp only [State.coreWrite]
  repeat' first
    | with_reducible apply Only.refl
    | with_reducible assumption
    | ((with_reducible apply Only.step (State.coreFault_only _ _ _)); rfl)
    | ((with_reducible apply Only.step (State.coreRetest_only _ _ _)); rfl)
    | ((with_reducible apply Only.step (State.modCoreN_only _ _ _)); rfl)
    | ((with_reducible apply Only.step (State.quarForce_only _ _ _)); rfl)
    | ((with_reducible apply Only.step (State.tookFree_only _)); rfl)
    | with_reducible apply Only.ite
    | with_reducible apply Only.ite_snd
    | with_reducible apply Only.ite_fst
    | split
    | with_reducible apply Only.foldl _ (fun _ _ => ?_)
    | with_reducible apply Only.foldl_fst _ (fun _ _ => ?_)
    | fail_if_no_progress refine Only.mk (k := ?_)

theorem State.cntItem_only {n : Nat} (s : State) (p : Port) (key item : Nat) (v : Vector W64 n) :
    Only [.latches] s (State.cntItem s p key item v).2 := by
  simp only [State.cntItem]
  repeat' first
    | with_reducible apply Only.refl
    | with_reducible assumption
    | ((with_reducible apply Only.step (State.readPair_only _ _ _ _ _)); rfl)
    | with_reducible apply Only.ite
    | with_reducible apply Only.ite_snd
    | with_reducible apply Only.ite_fst
    | split
    | with_reducible apply Only.foldl _ (fun _ _ => ?_)
    | with_reducible apply Only.foldl_fst _ (fun _ _ => ?_)
    | fail_if_no_progress refine Only.mk (k := ?_)

theorem State.cphCntRead_only (s : State) (p : Port) (q : Nat) :
    Only [.latches] s (State.cphCntRead s p q).2 := by
  simp only [State.cphCntRead]
  repeat' first
    | with_reducible apply Only.refl
    | with_reducible assumption
    | ((with_reducible apply Only.step (State.cntItem_only _ _ _ _ _)); rfl)
    | with_reducible apply Only.ite
    | with_reducible apply Only.ite_snd
    | with_reducible apply Only.ite_fst
    | split
    | with_reducible apply Only.foldl _ (fun _ _ => ?_)
    | with_reducible apply Only.foldl_fst _ (fun _ _ => ?_)
    | fail_if_no_progress refine Only.mk (k := ?_)

theorem State.fbkCntRead_only (s : State) (p : Port) :
    Only [.latches] s (State.fbkCntRead s p).2 := by
  simp only [State.fbkCntRead]
  repeat' first
    | with_reducible apply Only.refl
    | with_reducible assumption
    | ((with_reducible apply Only.step (State.cntItem_only _ _ _ _ _)); rfl)
    | with_reducible apply Only.ite
    | with_reducible apply Only.ite_snd
    | with_reducible apply Only.ite_fst
    | split
    | with_reducible apply Only.foldl _ (fun _ _ => ?_)
    | with_reducible apply Only.foldl_fst _ (fun _ _ => ?_)
    | fail_if_no_progress refine Only.mk (k := ?_)

theorem execCphCntRead_only (p : Port) (q : Option QuadId) (s : State) :
    ∃ v, (execCphCntRead p q s) = .next v ∧ Only [.evt, .hif, .latches, .out] s v := by
  refine ⟨_, rfl, ?_⟩
  try dsimp only
  repeat' first
    | with_reducible apply Only.refl
    | with_reducible assumption
    | ((with_reducible apply Only.step (State.cphCntRead_only _ _ _)); rfl)
    | ((with_reducible apply Only.step (State.fbkCntRead_only _ _)); rfl)
    | ((with_reducible apply State.readIsl_only); rfl)
    | with_reducible apply Only.ite
    | with_reducible apply Only.ite_snd
    | with_reducible apply Only.ite_fst
    | with_reducible intro _
    | split
    | with_reducible apply Only.foldl _ (fun _ _ => ?_)
    | with_reducible apply Only.foldl_fst _ (fun _ _ => ?_)
    | fail_if_no_progress refine Only.mk (k := ?_)

theorem State.cphRead_only (s : State) (p : Port) (q off : Nat) :
    Only [.latches] s (State.cphRead s p q off).2 := by
  simp only [State.cphRead]
  repeat' first
    | with_reducible apply Only.refl
    | with_reducible assumption
    | ((with_reducible apply Only.step (State.cphCntRead_only _ _ _)); rfl)
    | with_reducible apply Only.ite
    | with_reducible apply Only.ite_snd
    | with_reducible apply Only.ite_fst
    | split
    | with_reducible apply Only.foldl _ (fun _ _ => ?_)
    | with_reducible apply Only.foldl_fst _ (fun _ _ => ?_)
    | fail_if_no_progress refine Only.mk (k := ?_)

theorem State.cphWrite_only (s : State) (q off : Nat) (w : W32) :
    Only [.quads] s (State.cphWrite s q off w) := by
  simp only [State.cphWrite]
  repeat' first
    | with_reducible apply Only.refl
    | with_reducible assumption
    | ((with_reducible apply Only.step (State.modQuadN_only _ _ _)); rfl)
    | with_reducible apply Only.ite
    | with_reducible apply Only.ite_snd
    | with_reducible apply Only.ite_fst
    | split
    | with_reducible apply Only.foldl _ (fun _ _ => ?_)
    | with_reducible apply Only.foldl_fst _ (fun _ _ => ?_)
    | fail_if_no_progress refine Only.mk (k := ?_)

theorem State.fbkRead_only (s : State) (p : Port) (off : Nat) :
    Only [.latches] s (State.fbkRead s p off).2 := by
  simp only [State.fbkRead]
  repeat' first
    | with_reducible apply Only.refl
    | with_reducible assumption
    | ((with_reducible apply Only.step (State.fbkCntRead_only _ _)); rfl)
    | with_reducible apply Only.ite
    | with_reducible apply Only.ite_snd
    | with_reducible apply Only.ite_fst
    | split
    | with_reducible apply Only.foldl _ (fun _ _ => ?_)
    | with_reducible apply Only.foldl_fst _ (fun _ _ => ?_)
    | fail_if_no_progress refine Only.mk (k := ?_)

theorem State.fbkWrite_only (s : State) (off : Nat) (w : W32) :
    Only [.evt, .fbk, .quads, .freeIdx] s (State.fbkWrite s off w) := by
  simp only [State.fbkWrite]
  repeat' first
    | with_reducible apply Only.refl
    | with_reducible assumption
    | ((with_reducible apply Only.step (State.fbkRetest_only _ _)); rfl)
    | ((with_reducible apply Only.step (State.tookFree_only _)); rfl)
    | with_reducible apply Only.ite
    | with_reducible apply Only.ite_snd
    | with_reducible apply Only.ite_fst
    | split
    | with_reducible apply Only.foldl _ (fun _ _ => ?_)
    | with_reducible apply Only.foldl_fst _ (fun _ _ => ?_)
    | fail_if_no_progress refine Only.mk (k := ?_)

end Sys2Proof.Machine
end

