-- ==== Sys2Proof/Laws/OnlyCstArb.lean ====
section
/-!
SUPPORT. What the operations of Machine/CstArb.lean may change.
-/
namespace Sys2Proof.Machine

set_option Elab.async false
set_option linter.unusedTactic false
set_option linter.unreachableTactic false

theorem State.modCst_only (s : State) (f : Cistern → Cistern) :
    Only [.cst] s (State.modCst s f) := by
  simp only [State.modCst]
  repeat' first
    | with_reducible apply Only.refl
    | with_reducible assumption
    | with_reducible apply Only.ite
    | with_reducible apply Only.ite_snd
    | with_reducible apply Only.ite_fst
    | split
    | with_reducible apply Only.foldl _ (fun _ _ => ?_)
    | with_reducible apply Only.foldl_fst _ (fun _ _ => ?_)
    | fail_if_no_progress refine Only.mk (k := ?_)

theorem State.cstCnt_only (s : State) (i : Nat) (k : Nat) :
    Only [.cst] s (State.cstCnt s i k) := by
  simp only [State.cstCnt]
  repeat' first
    | with_reducible apply Only.refl
    | with_reducible assumption
    | ((with_reducible apply Only.step (State.modCst_only _ _)); rfl)
    | with_reducible apply Only.ite
    | with_reducible apply Only.ite_snd
    | with_reducible apply Only.ite_fst
    | split
    | with_reducible apply Only.foldl _ (fun _ _ => ?_)
    | with_reducible apply Only.foldl_fst _ (fun _ _ => ?_)
    | fail_if_no_progress refine Only.mk (k := ?_)

theorem State.request_only (s : State) (k : Nat) (write : Bool) (lines : Nat) :
    Only [.cst] s (State.request s k write lines) := by
  simp only [State.request]
  repeat' first
    | with_reducible apply Only.refl
    | with_reducible assumption
    | ((with_reducible apply Only.step (State.modCst_only _ _)); rfl)
    | with_reducible apply Only.ite
    | with_reducible apply Only.ite_snd
    | with_reducible apply Only.ite_fst
    | split
    | with_reducible apply Only.foldl _ (fun _ _ => ?_)
    | with_reducible apply Only.foldl_fst _ (fun _ _ => ?_)
    | fail_if_no_progress refine Only.mk (k := ?_)

theorem State.lineServed_only (s : State) (k : Nat) (write : Bool) :
    Only [.cst, .freeIdx] s (State.lineServed s k write) := by
  simp only [State.lineServed]
  repeat' first
    | with_reducible apply Only.refl
    | with_reducible assumption
    | ((with_reducible apply Only.step (State.cstCnt_only _ _ _)); rfl)
    | ((with_reducible apply Only.step (State.tookFree_only _)); rfl)
    | with_reducible apply Only.ite
    | with_reducible apply Only.ite_snd
    | with_reducible apply Only.ite_fst
    | split
    | with_reducible apply Only.foldl _ (fun _ _ => ?_)
    | with_reducible apply Only.foldl_fst _ (fun _ _ => ?_)
    | fail_if_no_progress refine Only.mk (k := ?_)

theorem State.grantLine_only (s : State) :
    Only [.cst, .freeIdx] s (State.grantLine s) := by
  simp only [State.grantLine]
  repeat' first
    | with_reducible apply Only.refl
    | with_reducible assumption
    | ((with_reducible apply Only.step (State.lineServed_only _ _ _)); rfl)
    | ((with_reducible apply Only.step (State.modCst_only _ _)); rfl)
    | with_reducible apply Only.ite
    | with_reducible apply Only.ite_snd
    | with_reducible apply Only.ite_fst
    | split
    | with_reducible apply Only.foldl _ (fun _ _ => ?_)
    | with_reducible apply Only.foldl_fst _ (fun _ _ => ?_)
    | fail_if_no_progress refine Only.mk (k := ?_)

theorem State.grantLines_only (s : State) (n : Nat) : Only [.cst, .freeIdx] s (s.grantLines n) := by
  induction n generalizing s with
  | zero => exact Only.refl _ _
  | succ n ih => exact Only.step (ih _) rfl (State.grantLine_only _)

theorem State.cstTick_only (s : State) :
    Only [.cst, .freeIdx] s (State.cstTick s) := by
  simp only [State.cstTick]
  repeat' first
    | with_reducible apply Only.refl
    | with_reducible assumption
    | ((with_reducible apply Only.step (State.grantLines_only _ _)); rfl)
    | ((with_reducible apply Only.step (State.modCst_only _ _)); rfl)
    | with_reducible apply Only.ite
    | with_reducible apply Only.ite_snd
    | with_reducible apply Only.ite_fst
    | split
    | with_reducible apply Only.foldl _ (fun _ _ => ?_)
    | with_reducible apply Only.foldl_fst _ (fun _ _ => ?_)
    | fail_if_no_progress refine Only.mk (k := ?_)

theorem State.maintServed_only (s : State) :
    Only [.cst, .freeIdx] s (State.maintServed s) := by
  simp only [State.maintServed]
  repeat' first
    | with_reducible apply Only.refl
    | with_reducible assumption
    | ((with_reducible apply Only.step (State.cstCnt_only _ _ _)); rfl)
    | ((with_reducible apply Only.step (State.modCst_only _ _)); rfl)
    | ((with_reducible apply Only.step (State.tookFree_only _)); rfl)
    | with_reducible apply Only.ite
    | with_reducible apply Only.ite_snd
    | with_reducible apply Only.ite_fst
    | split
    | with_reducible apply Only.foldl _ (fun _ _ => ?_)
    | with_reducible apply Only.foldl_fst _ (fun _ _ => ?_)
    | fail_if_no_progress refine Only.mk (k := ?_)

end Sys2Proof.Machine
end

