-- ==== Sys2Proof/Laws/OnlyTraffic.lean ====
section
/-!
SUPPORT. What the operations of Machine/Traffic.lean may change.
-/
namespace Sys2Proof.Machine

set_option Elab.async false
set_option linter.unusedTactic false
set_option linter.unreachableTactic false

theorem State.arrive_only (s : State) (q : Nat) (f : Frame) :
    Only [.sys, .cst, .tbl, .quads] s (State.arrive s q f) := by
  simp only [State.arrive]
  repeat' first
    | with_reducible apply Only.refl
    | with_reducible assumption
    | ((with_reducible apply Only.step (State.dropFrame_only _ _ _ _)); rfl)
    | ((with_reducible apply Only.step (State.enqueueAt_only _ _ _)); rfl)
    | with_reducible apply Only.ite
    | with_reducible apply Only.ite_snd
    | with_reducible apply Only.ite_fst
    | split
    | with_reducible apply Only.foldl _ (fun _ _ => ?_)
    | with_reducible apply Only.foldl_fst _ (fun _ _ => ?_)
    | fail_if_no_progress refine Only.mk (k := ?_)

theorem execEnqueue_only (q : QuadId) (s : State) :
    ∃ v, (execEnqueue q s) = .next v ∧ Only [.sys, .cst, .tbl, .quads, .lanes] s v := by
  refine ⟨_, rfl, ?_⟩
  try dsimp only
  repeat' first
    | with_reducible apply Only.refl
    | with_reducible assumption
    | ((with_reducible apply Only.step (State.arrive_only _ _ _)); rfl)
    | ((with_reducible apply Only.step (State.floatsAll_only _)); rfl)
    | ((with_reducible apply Only.step (State.modQuad_only _ _ _)); rfl)
    | with_reducible apply Only.ite
    | with_reducible apply Only.ite_snd
    | with_reducible apply Only.ite_fst
    | split
    | with_reducible apply Only.foldl _ (fun _ _ => ?_)
    | with_reducible apply Only.foldl_fst _ (fun _ _ => ?_)
    | fail_if_no_progress refine Only.mk (k := ?_)

theorem execCalendarSlot_only (q : QuadId) (down : Bool) (sh : Nat) (s : State) :
    ∃ v, (execCalendarSlot q down sh s) = .next v ∧ Only [.quads] s v := by
  refine ⟨_, rfl, ?_⟩
  try dsimp only
  repeat' first
    | with_reducible apply Only.refl
    | with_reducible assumption
    | ((with_reducible apply Only.step (State.modTm_only _ _ _ _)); rfl)
    | with_reducible apply Only.ite
    | with_reducible apply Only.ite_snd
    | with_reducible apply Only.ite_fst
    | split
    | with_reducible apply Only.foldl _ (fun _ _ => ?_)
    | with_reducible apply Only.foldl_fst _ (fun _ _ => ?_)
    | fail_if_no_progress refine Only.mk (k := ?_)

theorem execWheelRevolution_only (q : QuadId) (down : Bool) (s : State) :
    ∃ v, (execWheelRevolution q down s) = .next v ∧ Only [.quads] s v := by
  refine ⟨_, rfl, ?_⟩
  try dsimp only
  repeat' first
    | with_reducible apply Only.refl
    | with_reducible assumption
    | ((with_reducible apply Only.step (State.modTm_only _ _ _ _)); rfl)
    | with_reducible apply Only.ite
    | with_reducible apply Only.ite_snd
    | with_reducible apply Only.ite_fst
    | split
    | with_reducible apply Only.foldl _ (fun _ _ => ?_)
    | with_reducible apply Only.foldl_fst _ (fun _ _ => ?_)
    | fail_if_no_progress refine Only.mk (k := ?_)

theorem execShaperEligible_only (q : QuadId) (down : Bool) (sh : Nat) (s : State) :
    ∃ v, (execShaperEligible q down sh s) = .next v ∧ Only [.quads] s v := by
  refine ⟨_, rfl, ?_⟩
  try dsimp only
  repeat' first
    | with_reducible apply Only.refl
    | with_reducible assumption
    | ((with_reducible apply Only.step (State.modTm_only _ _ _ _)); rfl)
    | with_reducible apply Only.ite
    | with_reducible apply Only.ite_snd
    | with_reducible apply Only.ite_fst
    | split
    | with_reducible apply Only.foldl _ (fun _ _ => ?_)
    | with_reducible apply Only.foldl_fst _ (fun _ _ => ?_)
    | fail_if_no_progress refine Only.mk (k := ?_)

end Sys2Proof.Machine
end

