-- ==== Sys2Proof/Laws/OnlyLineOps.lean ====
section
/-!
SUPPORT. What the operations of Machine/LineOps.lean may change.
-/
namespace Sys2Proof.Machine

set_option Elab.async false
set_option linter.unusedTactic false
set_option linter.unreachableTactic false

theorem State.modDs_only (s : State) (n : LaneId) (f : LineDs → LineDs) :
    Only [.lanes] s (State.modDs s n f) := by
  simp only [State.modDs]
  repeat' first
    | with_reducible apply Only.refl
    | with_reducible assumption
    | ((with_reducible apply Only.step (State.modLane_only _ _ _)); rfl)
    | with_reducible apply Only.ite
    | with_reducible apply Only.ite_snd
    | with_reducible apply Only.ite_fst
    | split
    | with_reducible apply Only.foldl _ (fun _ _ => ?_)
    | with_reducible apply Only.foldl_fst _ (fun _ _ => ?_)
    | fail_if_no_progress refine Only.mk (k := ?_)

theorem State.modAct_only (s : State) (n : LaneId) (f : Act5 → Act5) :
    Only [.lanes] s (State.modAct s n f) := by
  simp only [State.modAct]
  repeat' first
    | with_reducible apply Only.refl
    | with_reducible assumption
    | ((with_reducible apply Only.step (State.modLane_only _ _ _)); rfl)
    | with_reducible apply Only.ite
    | with_reducible apply Only.ite_snd
    | with_reducible apply Only.ite_fst
    | split
    | with_reducible apply Only.foldl _ (fun _ _ => ?_)
    | with_reducible apply Only.foldl_fst _ (fun _ _ => ?_)
    | fail_if_no_progress refine Only.mk (k := ?_)

theorem State.modPump_only (s : State) (n : LaneId) (f : Pump → Pump) :
    Only [.lanes] s (State.modPump s n f) := by
  simp only [State.modPump]
  repeat' first
    | with_reducible apply Only.refl
    | with_reducible assumption
    | ((with_reducible apply Only.step (State.modLane_only _ _ _)); rfl)
    | with_reducible apply Only.ite
    | with_reducible apply Only.ite_snd
    | with_reducible apply Only.ite_fst
    | split
    | with_reducible apply Only.foldl _ (fun _ _ => ?_)
    | with_reducible apply Only.foldl_fst _ (fun _ _ => ?_)
    | fail_if_no_progress refine Only.mk (k := ?_)

theorem State.modBond_only (s : State) (n : LaneId) (f : Member → Member) :
    Only [.lanes] s (State.modBond s n f) := by
  simp only [State.modBond]
  repeat' first
    | with_reducible apply Only.refl
    | with_reducible assumption
    | ((with_reducible apply Only.step (State.modLane_only _ _ _)); rfl)
    | with_reducible apply Only.ite
    | with_reducible apply Only.ite_snd
    | with_reducible apply Only.ite_fst
    | split
    | with_reducible apply Only.foldl _ (fun _ _ => ?_)
    | with_reducible apply Only.foldl_fst _ (fun _ _ => ?_)
    | fail_if_no_progress refine Only.mk (k := ?_)

theorem State.dsCnt_only (s : State) (n : LaneId) (c : Nat) (k : Nat) :
    Only [.lanes] s (State.dsCnt s n c k) := by
  simp only [State.dsCnt]
  repeat' first
    | with_reducible apply Only.refl
    | with_reducible assumption
    | ((with_reducible apply Only.step (State.modDs_only _ _ _)); rfl)
    | with_reducible apply Only.ite
    | with_reducible apply Only.ite_snd
    | with_reducible apply Only.ite_fst
    | split
    | with_reducible apply Only.foldl _ (fun _ _ => ?_)
    | with_reducible apply Only.foldl_fst _ (fun _ _ => ?_)
    | fail_if_no_progress refine Only.mk (k := ?_)

theorem State.actCnt_only (s : State) (n : LaneId) (c : Nat) :
    Only [.lanes] s (State.actCnt s n c) := by
  simp only [State.actCnt]
  repeat' first
    | with_reducible apply Only.refl
    | with_reducible assumption
    | ((with_reducible apply Only.step (State.modAct_only _ _ _)); rfl)
    | with_reducible apply Only.ite
    | with_reducible apply Only.ite_snd
    | with_reducible apply Only.ite_fst
    | split
    | with_reducible apply Only.foldl _ (fun _ _ => ?_)
    | with_reducible apply Only.foldl_fst _ (fun _ _ => ?_)
    | fail_if_no_progress refine Only.mk (k := ?_)

theorem State.usCnt_only (s : State) (n : LaneId) (c : Nat) (k : Nat) :
    Only [.lanes] s (State.usCnt s n c k) := by
  simp only [State.usCnt]
  repeat' first
    | with_reducible apply Only.refl
    | with_reducible assumption
    | ((with_reducible apply Only.step (State.modPump_only _ _ _)); rfl)
    | with_reducible apply Only.ite
    | with_reducible apply Only.ite_snd
    | with_reducible apply Only.ite_fst
    | split
    | with_reducible apply Only.foldl _ (fun _ _ => ?_)
    | with_reducible apply Only.foldl_fst _ (fun _ _ => ?_)
    | fail_if_no_progress refine Only.mk (k := ?_)

theorem State.modStw_only (s : State) (q : QuadId) (f : Steward → Steward) :
    Only [.stw] s (State.modStw s q f) := by
  simp only [State.modStw]
  repeat' first
    | with_reducible apply Only.refl
    | with_reducible assumption
    | with_reducible apply Only.ite
    | with_reducible apply Only.ite_snd
    | with_reducible apply Only.ite_fst
    | split
    | with_reducible apply Only.foldl _ (fun _ _ => ?_)
    | with_reducible apply Only.foldl_fst _ (fun _ _ => ?_)
    | fail_if_no_progress refine Only.mk (k := ?_)

theorem State.sendBond_only (s : State) (n : LaneId) (type : Byte) (token : W32) (pos : Option (BitVec 6)) (echo : Option Byte) (body : List Byte) :
    Only [.lanes, .out] s (State.sendBond s n type token pos echo body) := by
  simp only [State.sendBond]
  repeat' first
    | with_reducible apply Only.refl
    | with_reducible assumption
    | ((with_reducible apply Only.step (State.emit_only _ _)); rfl)
    | ((with_reducible apply Only.step (State.modBond_only _ _ _)); rfl)
    | with_reducible apply Only.ite
    | with_reducible apply Only.ite_snd
    | with_reducible apply Only.ite_fst
    | split
    | with_reducible apply Only.foldl _ (fun _ _ => ?_)
    | with_reducible apply Only.foldl_fst _ (fun _ _ => ?_)
    | fail_if_no_progress refine Only.mk (k := ?_)

theorem State.sendCaps_only (s : State) (n : LaneId) :
    Only [.lanes, .out] s (State.sendCaps s n) := by
  simp only [State.sendCaps]
  repeat' first
    | with_reducible apply Only.refl
    | with_reducible assumption
    | ((with_reducible apply Only.step (State.modBond_only _ _ _)); rfl)
    | ((with_reducible apply Only.step (State.sendBond_only _ _ _ _ _ _ _)); rfl)
    | with_reducible apply Only.ite
    | with_reducible apply Only.ite_snd
    | with_reducible apply Only.ite_fst
    | split
    | with_reducible apply Only.foldl _ (fun _ _ => ?_)
    | with_reducible apply Only.foldl_fst _ (fun _ _ => ?_)
    | fail_if_no_progress refine Only.mk (k := ?_)

theorem State.modGroup_only (s : State) (g : Nat) (f : Group → Group) :
    Only [.cst] s (State.modGroup s g f) := by
  simp only [State.modGroup]
  repeat' first
    | with_reducible apply Only.refl
    | with_reducible assumption
    | with_reducible apply Only.ite
    | with_reducible apply Only.ite_snd
    | with_reducible apply Only.ite_fst
    | split
    | with_reducible apply Only.foldl _ (fun _ _ => ?_)
    | with_reducible apply Only.foldl_fst _ (fun _ _ => ?_)
    | fail_if_no_progress refine Only.mk (k := ?_)

theorem State.grpCnt_only (s : State) (g c : Nat) (k : Nat) :
    Only [.cst] s (State.grpCnt s g c k) := by
  simp only [State.grpCnt]
  repeat' first
    | with_reducible apply Only.refl
    | with_reducible assumption
    | ((with_reducible apply Only.step (State.modGroup_only _ _ _)); rfl)
    | with_reducible apply Only.ite
    | with_reducible apply Only.ite_snd
    | with_reducible apply Only.ite_fst
    | split
    | with_reducible apply Only.foldl _ (fun _ _ => ?_)
    | with_reducible apply Only.foldl_fst _ (fun _ _ => ?_)
    | fail_if_no_progress refine Only.mk (k := ?_)

theorem State.setGState_only (s : State) (g : Nat) (st : GState) (sev : BitVec 3) (lane : Option Nat) :
    Only [.evt, .cst] s (State.setGState s g st sev lane) := by
  simp only [State.setGState]
  repeat' first
    | with_reducible apply Only.refl
    | with_reducible assumption
    | ((with_reducible apply Only.step (State.modGroup_only _ _ _)); rfl)
    | ((with_reducible apply Only.step (State.report_only _ _ _ _)); rfl)
    | with_reducible apply Only.ite
    | with_reducible apply Only.ite_snd
    | with_reducible apply Only.ite_fst
    | split
    | with_reducible apply Only.foldl _ (fun _ _ => ?_)
    | with_reducible apply Only.foldl_fst _ (fun _ _ => ?_)
    | fail_if_no_progress refine Only.mk (k := ?_)

theorem State.judgeGroup_only (s : State) (g : Nat) (left : Bool) (lane : Option Nat) :
    Only [.evt, .cst, .freeIdx] s (State.judgeGroup s g left lane) := by
  simp only [State.judgeGroup]
  repeat' first
    | with_reducible apply Only.refl
    | with_reducible assumption
    | ((with_reducible apply Only.step (State.setGState_only _ _ _ _ _)); rfl)
    | ((with_reducible apply Only.step (State.tookFree_only _)); rfl)
    | with_reducible apply Only.ite
    | with_reducible apply Only.ite_snd
    | with_reducible apply Only.ite_fst
    | split
    | with_reducible apply Only.foldl _ (fun _ _ => ?_)
    | with_reducible apply Only.foldl_fst _ (fun _ _ => ?_)
    | fail_if_no_progress refine Only.mk (k := ?_)

theorem State.judgeToken_only (s : State) (g : Nat) :
    Only [.cst] s (State.judgeToken s g) := by
  simp only [State.judgeToken]
  repeat' first
    | with_reducible apply Only.refl
    | with_reducible assumption
    | ((with_reducible apply Only.step (State.modGroup_only _ _ _)); rfl)
    | with_reducible apply Only.ite
    | with_reducible apply Only.ite_snd
    | with_reducible apply Only.ite_fst
    | split
    | with_reducible apply Only.foldl _ (fun _ _ => ?_)
    | with_reducible apply Only.foldl_fst _ (fun _ _ => ?_)
    | fail_if_no_progress refine Only.mk (k := ?_)

theorem State.setMember_only (s : State) (n : LaneId) (st : MState) :
    Only [.evt, .cst, .lanes, .freeIdx] s (State.setMember s n st) := by
  simp only [State.setMember]
  repeat' first
    | with_reducible apply Only.refl
    | with_reducible assumption
    | ((with_reducible apply Only.step (State.judgeGroup_only _ _ _ _)); rfl)
    | ((with_reducible apply Only.step (State.judgeToken_only _ _)); rfl)
    | ((with_reducible apply Only.step (State.modBond_only _ _ _)); rfl)
    | with_reducible apply Only.ite
    | with_reducible apply Only.ite_snd
    | with_reducible apply Only.ite_fst
    | split
    | with_reducible apply Only.foldl _ (fun _ _ => ?_)
    | with_reducible apply Only.foldl_fst _ (fun _ _ => ?_)
    | fail_if_no_progress refine Only.mk (k := ?_)

theorem State.probe_only (s : State) (n : LaneId) :
    Only [.evt, .cst, .lanes, .out, .freeIdx] s (State.probe s n) := by
  simp only [State.probe]
  repeat' first
    | with_reducible apply Only.refl
    | with_reducible assumption
    | ((with_reducible apply Only.step (State.modBond_only _ _ _)); rfl)
    | ((with_reducible apply Only.step (State.sendCaps_only _ _)); rfl)
    | ((with_reducible apply Only.step (State.setMember_only _ _ _)); rfl)
    | with_reducible apply Only.ite
    | with_reducible apply Only.ite_snd
    | with_reducible apply Only.ite_fst
    | split
    | with_reducible apply Only.foldl _ (fun _ _ => ?_)
    | with_reducible apply Only.foldl_fst _ (fun _ _ => ?_)
    | fail_if_no_progress refine Only.mk (k := ?_)

theorem State.freePos_only (s : State) (n : LaneId) :
    Only [.lanes] s (State.freePos s n) := by
  simp only [State.freePos]
  repeat' first
    | with_reducible apply Only.refl
    | with_reducible assumption
    | ((with_reducible apply Only.step (State.modBond_only _ _ _)); rfl)
    | with_reducible apply Only.ite
    | with_reducible apply Only.ite_snd
    | with_reducible apply Only.ite_fst
    | split
    | with_reducible apply Only.foldl _ (fun _ _ => ?_)
    | with_reducible apply Only.foldl_fst _ (fun _ _ => ?_)
    | fail_if_no_progress refine Only.mk (k := ?_)

theorem State.memberLost_only (s : State) (n : LaneId) :
    Only [.evt, .cst, .lanes, .freeIdx] s (State.memberLost s n) := by
  simp only [State.memberLost]
  repeat' first
    | with_reducible apply Only.refl
    | with_reducible assumption
    | ((with_reducible apply Only.step (State.grpCnt_only _ _ _ _)); rfl)
    | ((with_reducible apply Only.step (State.setMember_only _ _ _)); rfl)
    | with_reducible apply Only.ite
    | with_reducible apply Only.ite_snd
    | with_reducible apply Only.ite_fst
    | split
    | with_reducible apply Only.foldl _ (fun _ _ => ?_)
    | with_reducible apply Only.foldl_fst _ (fun _ _ => ?_)
    | fail_if_no_progress refine Only.mk (k := ?_)

theorem State.memberIdle_only (s : State) (n : LaneId) :
    Only [.evt, .cst, .lanes, .freeIdx] s (State.memberIdle s n) := by
  simp only [State.memberIdle]
  repeat' first
    | with_reducible apply Only.refl
    | with_reducible assumption
    | ((with_reducible apply Only.step (State.freePos_only _ _)); rfl)
    | ((with_reducible apply Only.step (State.setMember_only _ _ _)); rfl)
    | with_reducible apply Only.ite
    | with_reducible apply Only.ite_snd
    | with_reducible apply Only.ite_fst
    | split
    | with_reducible apply Only.foldl _ (fun _ _ => ?_)
    | with_reducible apply Only.foldl_fst _ (fun _ _ => ?_)
    | fail_if_no_progress refine Only.mk (k := ?_)

theorem State.dropBursts_only (s : State) (n : LaneId) (gone : List Nat) :
    Only [.quads, .lanes] s (State.dropBursts s n gone) := by
  simp only [State.dropBursts]
  repeat' first
    | with_reducible apply Only.refl
    | with_reducible assumption
    | ((with_reducible apply Only.step (State.modAct_only _ _ _)); rfl)
    | ((with_reducible apply Only.step (State.modPump_only _ _ _)); rfl)
    | ((with_reducible apply Only.step (State.modTm_only _ _ _ _)); rfl)
    | with_reducible apply Only.ite
    | with_reducible apply Only.ite_snd
    | with_reducible apply Only.ite_fst
    | split
    | with_reducible apply Only.foldl _ (fun _ _ => ?_)
    | with_reducible apply Only.foldl_fst _ (fun _ _ => ?_)
    | fail_if_no_progress refine Only.mk (k := ?_)

theorem State.discardBursts_only (s : State) (n : LaneId) :
    Only [.quads, .lanes] s (State.discardBursts s n) := by
  simp only [State.discardBursts]
  repeat' first
    | with_reducible apply Only.refl
    | with_reducible assumption
    | ((with_reducible apply Only.step (State.dropBursts_only _ _ _)); rfl)
    | ((with_reducible apply Only.step (State.usCnt_only _ _ _ _)); rfl)
    | with_reducible apply Only.ite
    | with_reducible apply Only.ite_snd
    | with_reducible apply Only.ite_fst
    | split
    | with_reducible apply Only.foldl _ (fun _ _ => ?_)
    | with_reducible apply Only.foldl_fst _ (fun _ _ => ?_)
    | fail_if_no_progress refine Only.mk (k := ?_)

theorem State.darkLeft_only (s : State) (q : Nat) :
    Only [.sys, .quads, .lanes] s (State.darkLeft s q) := by
  simp only [State.darkLeft]
  repeat' first
    | with_reducible apply Only.refl
    | with_reducible assumption
    | ((with_reducible apply Only.step (State.floats_only _ _)); rfl)
    | ((with_reducible apply Only.step (State.modTm_only _ _ _ _)); rfl)
    | ((with_reducible apply Only.step (State.sumpN_only _ _ _ _ _)); rfl)
    | with_reducible apply Only.ite
    | with_reducible apply Only.ite_snd
    | with_reducible apply Only.ite_fst
    | split
    | with_reducible apply Only.foldl _ (fun _ _ => ?_)
    | with_reducible apply Only.foldl_fst _ (fun _ _ => ?_)
    | fail_if_no_progress refine Only.mk (k := ?_)

theorem State.sendInverted_only (s : State) (n : LaneId) (k : Option Nat) :
    Only [.out] s (State.sendInverted s n k) := by
  simp only [State.sendInverted]
  repeat' first
    | with_reducible apply Only.refl
    | with_reducible assumption
    | ((with_reducible apply Only.step (State.emit_only _ _)); rfl)
    | with_reducible apply Only.ite
    | with_reducible apply Only.ite_snd
    | with_reducible apply Only.ite_fst
    | split
    | with_reducible apply Only.foldl _ (fun _ _ => ?_)
    | with_reducible apply Only.foldl_fst _ (fun _ _ => ?_)
    | fail_if_no_progress refine Only.mk (k := ?_)

theorem State.losePiece_only (s : State) (n : LaneId) (p : Piece) :
    Only [.sys, .quads, .lanes] s (State.losePiece s n p) := by
  simp only [State.losePiece]
  repeat' first
    | with_reducible apply Only.refl
    | with_reducible assumption
    | ((with_reducible apply Only.step (State.modTm_only _ _ _ _)); rfl)
    | ((with_reducible apply Only.step (State.toSump_only _ _ _ _)); rfl)
    | ((with_reducible apply Only.step (State.usCnt_only _ _ _ _)); rfl)
    | with_reducible apply Only.ite
    | with_reducible apply Only.ite_snd
    | with_reducible apply Only.ite_fst
    | split
    | with_reducible apply Only.foldl _ (fun _ _ => ?_)
    | with_reducible apply Only.foldl_fst _ (fun _ _ => ?_)
    | fail_if_no_progress refine Only.mk (k := ?_)

theorem State.msgLeft_only (s : State) (n : LaneId) (id : Nat) :
    Only [.lanes] s (State.msgLeft s n id) := by
  simp only [State.msgLeft]
  repeat' first
    | with_reducible apply Only.refl
    | with_reducible assumption
    | ((with_reducible apply Only.step (State.modAct_only _ _ _)); rfl)
    | ((with_reducible apply Only.step (State.usCnt_only _ _ _ _)); rfl)
    | with_reducible apply Only.ite
    | with_reducible apply Only.ite_snd
    | with_reducible apply Only.ite_fst
    | split
    | with_reducible apply Only.foldl _ (fun _ _ => ?_)
    | with_reducible apply Only.foldl_fst _ (fun _ _ => ?_)
    | fail_if_no_progress refine Only.mk (k := ?_)

theorem State.ploamuLeft_only (s : State) (n : LaneId) (b : Burst) :
    Only [.lanes] s (State.ploamuLeft s n b) := by
  simp only [State.ploamuLeft]
  repeat' first
    | with_reducible apply Only.refl
    | with_reducible assumption
    | ((with_reducible apply Only.step (State.msgLeft_only _ _ _)); rfl)
    | ((with_reducible apply Only.step (State.usCnt_only _ _ _ _)); rfl)
    | with_reducible apply Only.ite
    | with_reducible apply Only.ite_snd
    | with_reducible apply Only.ite_fst
    | split
    | with_reducible apply Only.foldl _ (fun _ _ => ?_)
    | with_reducible apply Only.foldl_fst _ (fun _ _ => ?_)
    | fail_if_no_progress refine Only.mk (k := ?_)

theorem State.cutAfter_only (s : State) (n : LaneId) (b : Burst) (k : Nat) :
    Only [.sys, .quads, .lanes, .out] s (State.cutAfter s n b k) := by
  simp only [State.cutAfter]
  repeat' first
    | with_reducible apply Only.refl
    | with_reducible assumption
    | ((with_reducible apply Only.step (State.dropBursts_only _ _ _)); rfl)
    | ((with_reducible apply Only.step (State.losePiece_only _ _ _)); rfl)
    | ((with_reducible apply Only.step (State.modPump_only _ _ _)); rfl)
    | ((with_reducible apply Only.step (State.ploamuLeft_only _ _ _)); rfl)
    | ((with_reducible apply Only.step (State.sendInverted_only _ _ _)); rfl)
    | ((with_reducible apply Only.step (State.usCnt_only _ _ _ _)); rfl)
    | (rename_i hh; with_reducible apply triple_eq at hh; obtain ⟨rfl, rfl, rfl⟩ := hh)
    | (rename_i hh; with_reducible apply pair_eq at hh; obtain ⟨rfl, rfl⟩ := hh)
    | (rename_i hh; with_reducible apply pair_eq at hh; obtain ⟨-, rfl⟩ := hh)
    | (rename_i hh; with_reducible apply pair_eq at hh; obtain ⟨rfl, -⟩ := hh)
    | with_reducible apply Only.ite
    | with_reducible apply Only.ite_snd
    | with_reducible apply Only.ite_fst
    | split
    | with_reducible apply Only.foldl _ (fun _ _ => ?_)
    | with_reducible apply Only.foldl_fst _ (fun _ _ => ?_)
    | fail_if_no_progress refine Only.mk (k := ?_)

theorem State.cutBurst_only (s : State) (n : LaneId) :
    Only [.sys, .quads, .lanes, .out, .freeIdx] s (State.cutBurst s n) := by
  simp only [State.cutBurst]
  repeat' first
    | with_reducible apply Only.refl
    | with_reducible assumption
    | ((with_reducible apply Only.step (State.cutAfter_only _ _ _ _)); rfl)
    | ((with_reducible apply Only.step (State.darkLeft_only _ _)); rfl)
    | ((with_reducible apply Only.step (State.modCom_only _ _ _)); rfl)
    | ((with_reducible apply Only.step (State.tookFree_only _)); rfl)
    | with_reducible apply Only.ite
    | with_reducible apply Only.ite_snd
    | with_reducible apply Only.ite_fst
    | split
    | with_reducible apply Only.foldl _ (fun _ _ => ?_)
    | with_reducible apply Only.foldl_fst _ (fun _ _ => ?_)
    | fail_if_no_progress refine Only.mk (k := ?_)

theorem State.stopBursts_only (s : State) (n : LaneId) :
    Only [.sys, .quads, .lanes, .out, .freeIdx] s (State.stopBursts s n) := by
  simp only [State.stopBursts]
  repeat' first
    | with_reducible apply Only.refl
    | with_reducible assumption
    | ((with_reducible apply Only.step (State.cutBurst_only _ _)); rfl)
    | ((with_reducible apply Only.step (State.discardBursts_only _ _)); rfl)
    | with_reducible apply Only.ite
    | with_reducible apply Only.ite_snd
    | with_reducible apply Only.ite_fst
    | split
    | with_reducible apply Only.foldl _ (fun _ _ => ?_)
    | with_reducible apply Only.foldl_fst _ (fun _ _ => ?_)
    | fail_if_no_progress refine Only.mk (k := ?_)

theorem State.encryptBegun_only (s : State) (n : LaneId) :
    Only [.lanes, .freeIdx] s (State.encryptBegun s n) := by
  simp only [State.encryptBegun]
  repeat' first
    | with_reducible apply Only.refl
    | with_reducible assumption
    | ((with_reducible apply Only.step (State.modPump_only _ _ _)); rfl)
    | ((with_reducible apply Only.step (State.tookFree_only _)); rfl)
    | with_reducible apply Only.ite
    | with_reducible apply Only.ite_snd
    | with_reducible apply Only.ite_fst
    | split
    | with_reducible apply Only.foldl _ (fun _ _ => ?_)
    | with_reducible apply Only.foldl_fst _ (fun _ _ => ?_)
    | fail_if_no_progress refine Only.mk (k := ?_)

theorem State.emptyKey_only (s : State) (n : LaneId) (i : Nat) :
    Only [.lanes, .freeIdx] s (State.emptyKey s n i) := by
  simp only [State.emptyKey]
  repeat' first
    | with_reducible apply Only.refl
    | with_reducible assumption
    | ((with_reducible apply Only.step (State.encryptBegun_only _ _)); rfl)
    | ((with_reducible apply Only.step (State.modAct_only _ _ _)); rfl)
    | ((with_reducible apply Only.step (State.modDs_only _ _ _)); rfl)
    | with_reducible apply Only.ite
    | with_reducible apply Only.ite_snd
    | with_reducible apply Only.ite_fst
    | split
    | with_reducible apply Only.foldl _ (fun _ _ => ?_)
    | with_reducible apply Only.foldl_fst _ (fun _ _ => ?_)
    | fail_if_no_progress refine Only.mk (k := ?_)

theorem State.installKey_only (s : State) (n : LaneId) (i : Nat) (key : List Byte) :
    Only [.lanes, .freeIdx] s (State.installKey s n i key) := by
  simp only [State.installKey]
  repeat' first
    | with_reducible apply Only.refl
    | with_reducible assumption
    | ((with_reducible apply Only.step (State.encryptBegun_only _ _)); rfl)
    | ((with_reducible apply Only.step (State.modAct_only _ _ _)); rfl)
    | ((with_reducible apply Only.step (State.modDs_only _ _ _)); rfl)
    | with_reducible apply Only.ite
    | with_reducible apply Only.ite_snd
    | with_reducible apply Only.ite_fst
    | split
    | with_reducible apply Only.foldl _ (fun _ _ => ?_)
    | with_reducible apply Only.foldl_fst _ (fun _ _ => ?_)
    | fail_if_no_progress refine Only.mk (k := ?_)

theorem State.queuePloam_only (s : State) (n : LaneId) (m : UsPloam) :
    Only [.lanes] s (State.queuePloam s n m) := by
  simp only [State.queuePloam]
  repeat' first
    | with_reducible apply Only.refl
    | with_reducible assumption
    | ((with_reducible apply Only.step (State.actCnt_only _ _ _)); rfl)
    | ((with_reducible apply Only.step (State.modAct_only _ _ _)); rfl)
    | with_reducible apply Only.ite
    | with_reducible apply Only.ite_snd
    | with_reducible apply Only.ite_fst
    | split
    | with_reducible apply Only.foldl _ (fun _ _ => ?_)
    | with_reducible apply Only.foldl_fst _ (fun _ _ => ?_)
    | fail_if_no_progress refine Only.mk (k := ?_)

theorem State.withdrawTune_only (s : State) (n : LaneId) :
    Only [.stw] s (State.withdrawTune s n) := by
  simp only [State.withdrawTune]
  repeat' first
    | with_reducible apply Only.refl
    | with_reducible assumption
    | ((with_reducible apply Only.step (State.modStw_only _ _ _)); rfl)
    | with_reducible apply Only.ite
    | with_reducible apply Only.ite_snd
    | with_reducible apply Only.ite_fst
    | split
    | with_reducible apply Only.foldl _ (fun _ _ => ?_)
    | with_reducible apply Only.foldl_fst _ (fun _ _ => ?_)
    | fail_if_no_progress refine Only.mk (k := ?_)

theorem State.setAct_only (s : State) (n : LaneId) (st : ActState) :
    Only [.evt, .cst, .stw, .lanes, .out, .freeIdx] s (State.setAct s n st) := by
  simp only [State.setAct]
  repeat' first
    | with_reducible apply Only.refl
    | with_reducible assumption
    | ((with_reducible apply Only.step (State.modAct_only _ _ _)); rfl)
    | ((with_reducible apply Only.step (State.probe_only _ _)); rfl)
    | ((with_reducible apply Only.step (State.reportIf_only _ _ _ _ _)); rfl)
    | ((with_reducible apply Only.step (State.withdrawTune_only _ _)); rfl)
    | with_reducible apply Only.ite
    | with_reducible apply Only.ite_snd
    | with_reducible apply Only.ite_fst
    | split
    | with_reducible apply Only.foldl _ (fun _ _ => ?_)
    | with_reducible apply Only.foldl_fst _ (fun _ _ => ?_)
    | fail_if_no_progress refine Only.mk (k := ?_)

theorem State.ageQueues_only (s : State) (n : LaneId) :
    Only [.quads] s (State.ageQueues s n) := by
  simp only [State.ageQueues]
  repeat' first
    | with_reducible apply Only.refl
    | with_reducible assumption
    | ((with_reducible apply Only.step (State.modTm_only _ _ _ _)); rfl)
    | with_reducible apply Only.ite
    | with_reducible apply Only.ite_snd
    | with_reducible apply Only.ite_fst
    | split
    | with_reducible apply Only.foldl _ (fun _ _ => ?_)
    | with_reducible apply Only.foldl_fst _ (fun _ _ => ?_)
    | fail_if_no_progress refine Only.mk (k := ?_)

theorem State.rogueTrip_only (s : State) (n : LaneId) :
    Only [.sys, .evt, .cst, .stw, .quads, .lanes, .out, .freeIdx] s (State.rogueTrip s n) := by
  simp only [State.rogueTrip]
  repeat' first
    | with_reducible apply Only.refl
    | with_reducible assumption
    | ((with_reducible apply Only.step (State.actCnt_only _ _ _)); rfl)
    | ((with_reducible apply Only.step (State.cutBurst_only _ _)); rfl)
    | ((with_reducible apply Only.step (State.modAct_only _ _ _)); rfl)
    | ((with_reducible apply Only.step (State.modCom_only _ _ _)); rfl)
    | ((with_reducible apply Only.step (State.report_only _ _ _ _)); rfl)
    | ((with_reducible apply Only.step (State.setAct_only _ _ _)); rfl)
    | with_reducible apply Only.ite
    | with_reducible apply Only.ite_snd
    | with_reducible apply Only.ite_fst
    | split
    | with_reducible apply Only.foldl _ (fun _ _ => ?_)
    | with_reducible apply Only.foldl_fst _ (fun _ _ => ?_)
    | fail_if_no_progress refine Only.mk (k := ?_)

theorem State.clearMiss_only (s : State) (n : LaneId) (alloc : BitVec 14) :
    Only [.quads] s (State.clearMiss s n alloc) := by
  simp only [State.clearMiss]
  repeat' first
    | with_reducible apply Only.refl
    | with_reducible assumption
    | ((with_reducible apply Only.step (State.modTm_only _ _ _ _)); rfl)
    | with_reducible apply Only.ite
    | with_reducible apply Only.ite_snd
    | with_reducible apply Only.ite_fst
    | split
    | with_reducible apply Only.foldl _ (fun _ _ => ?_)
    | with_reducible apply Only.foldl_fst _ (fun _ _ => ?_)
    | fail_if_no_progress refine Only.mk (k := ?_)

theorem State.releaseOnu_only (s : State) (n : LaneId) :
    Only [.evt, .cst, .quads, .lanes, .freeIdx] s (State.releaseOnu s n) := by
  simp only [State.releaseOnu]
  repeat' first
    | with_reducible apply Only.refl
    | with_reducible assumption
    | ((with_reducible apply Only.step (State.ageQueues_only _ _)); rfl)
    | ((with_reducible apply Only.step (State.encryptBegun_only _ _)); rfl)
    | ((with_reducible apply Only.step (State.memberIdle_only _ _)); rfl)
    | ((with_reducible apply Only.step (State.modAct_only _ _ _)); rfl)
    | ((with_reducible apply Only.step (State.modDs_only _ _ _)); rfl)
    | ((with_reducible apply Only.step (State.modPump_only _ _ _)); rfl)
    | with_reducible apply Only.ite
    | with_reducible apply Only.ite_snd
    | with_reducible apply Only.ite_fst
    | split
    | with_reducible apply Only.foldl _ (fun _ _ => ?_)
    | with_reducible apply Only.foldl_fst _ (fun _ _ => ?_)
    | fail_if_no_progress refine Only.mk (k := ?_)

theorem State.fromO11_only (s : State) (n : LaneId) :
    Only [.evt, .cst, .stw, .lanes, .out, .freeIdx] s (State.fromO11 s n) := by
  simp only [State.fromO11]
  repeat' first
    | with_reducible apply Only.refl
    | with_reducible assumption
    | ((with_reducible apply Only.step (State.modPump_only _ _ _)); rfl)
    | ((with_reducible apply Only.step (State.setAct_only _ _ _)); rfl)
    | with_reducible apply Only.ite
    | with_reducible apply Only.ite_snd
    | with_reducible apply Only.ite_fst
    | split
    | with_reducible apply Only.foldl _ (fun _ _ => ?_)
    | with_reducible apply Only.foldl_fst _ (fun _ _ => ?_)
    | fail_if_no_progress refine Only.mk (k := ?_)

theorem State.toO11_only (s : State) (n : LaneId) :
    Only [.evt, .cst, .stw, .lanes, .out, .freeIdx] s (State.toO11 s n) := by
  simp only [State.toO11]
  repeat' first
    | with_reducible apply Only.refl
    | with_reducible assumption
    | ((with_reducible apply Only.step (State.fromO11_only _ _)); rfl)
    | ((with_reducible apply Only.step (State.modAct_only _ _ _)); rfl)
    | ((with_reducible apply Only.step (State.setAct_only _ _ _)); rfl)
    | with_reducible apply Only.ite
    | with_reducible apply Only.ite_snd
    | with_reducible apply Only.ite_fst
    | split
    | with_reducible apply Only.foldl _ (fun _ _ => ?_)
    | with_reducible apply Only.foldl_fst _ (fun _ _ => ?_)
    | fail_if_no_progress refine Only.mk (k := ?_)

theorem State.exitTo11_only (s : State) (n : LaneId) (why : BitVec 3) :
    Only [.evt, .cst, .stw, .quads, .lanes, .out, .freeIdx] s (State.exitTo11 s n why) := by
  simp only [State.exitTo11]
  repeat' first
    | with_reducible apply Only.refl
    | with_reducible assumption
    | ((with_reducible apply Only.step (State.modAct_only _ _ _)); rfl)
    | ((with_reducible apply Only.step (State.releaseOnu_only _ _)); rfl)
    | ((with_reducible apply Only.step (State.toO11_only _ _)); rfl)
    | with_reducible apply Only.ite
    | with_reducible apply Only.ite_snd
    | with_reducible apply Only.ite_fst
    | split
    | with_reducible apply Only.foldl _ (fun _ _ => ?_)
    | with_reducible apply Only.foldl_fst _ (fun _ _ => ?_)
    | fail_if_no_progress refine Only.mk (k := ?_)

theorem State.toO6_only (s : State) (n : LaneId) :
    Only [.evt, .cst, .stw, .lanes, .out, .freeIdx] s (State.toO6 s n) := by
  simp only [State.toO6]
  repeat' first
    | with_reducible apply Only.refl
    | with_reducible assumption
    | ((with_reducible apply Only.step (State.memberLost_only _ _)); rfl)
    | ((with_reducible apply Only.step (State.modAct_only _ _ _)); rfl)
    | ((with_reducible apply Only.step (State.setAct_only _ _ _)); rfl)
    | with_reducible apply Only.ite
    | with_reducible apply Only.ite_snd
    | with_reducible apply Only.ite_fst
    | split
    | with_reducible apply Only.foldl _ (fun _ _ => ?_)
    | with_reducible apply Only.foldl_fst _ (fun _ _ => ?_)
    | fail_if_no_progress refine Only.mk (k := ?_)

theorem State.fromO8_only (s : State) (n : LaneId) :
    Only [.evt, .cst, .stw, .lanes, .out, .freeIdx] s (State.fromO8 s n) := by
  simp only [State.fromO8]
  repeat' first
    | with_reducible apply Only.refl
    | with_reducible assumption
    | ((with_reducible apply Only.step (State.modAct_only _ _ _)); rfl)
    | ((with_reducible apply Only.step (State.setAct_only _ _ _)); rfl)
    | with_reducible apply Only.ite
    | with_reducible apply Only.ite_snd
    | with_reducible apply Only.ite_fst
    | split
    | with_reducible apply Only.foldl _ (fun _ _ => ?_)
    | with_reducible apply Only.foldl_fst _ (fun _ _ => ?_)
    | fail_if_no_progress refine Only.mk (k := ?_)

theorem State.syncGained_only (s : State) (n : LaneId) :
    Only [.evt, .cst, .stw, .lanes, .out, .freeIdx] s (State.syncGained s n) := by
  simp only [State.syncGained]
  repeat' first
    | with_reducible apply Only.refl
    | with_reducible assumption
    | ((with_reducible apply Only.step (State.fromO11_only _ _)); rfl)
    | ((with_reducible apply Only.step (State.fromO8_only _ _)); rfl)
    | ((with_reducible apply Only.step (State.modAct_only _ _ _)); rfl)
    | ((with_reducible apply Only.step (State.modCom_only _ _ _)); rfl)
    | ((with_reducible apply Only.step (State.setAct_only _ _ _)); rfl)
    | with_reducible apply Only.ite
    | with_reducible apply Only.ite_snd
    | with_reducible apply Only.ite_fst
    | split
    | with_reducible apply Only.foldl _ (fun _ _ => ?_)
    | with_reducible apply Only.foldl_fst _ (fun _ _ => ?_)
    | fail_if_no_progress refine Only.mk (k := ?_)

theorem State.syncLost_only (s : State) (n : LaneId) :
    Only [.sys, .evt, .cst, .stw, .quads, .lanes, .out, .freeIdx] s (State.syncLost s n) := by
  simp only [State.syncLost]
  repeat' first
    | with_reducible apply Only.refl
    | with_reducible assumption
    | ((with_reducible apply Only.step (State.dsCnt_only _ _ _ _)); rfl)
    | ((with_reducible apply Only.step (State.exitTo11_only _ _ _)); rfl)
    | ((with_reducible apply Only.step (State.memberLost_only _ _)); rfl)
    | ((with_reducible apply Only.step (State.modDs_only _ _ _)); rfl)
    | ((with_reducible apply Only.step (State.toO11_only _ _)); rfl)
    | ((with_reducible apply Only.step (State.toO6_only _ _)); rfl)
    | ((with_reducible apply Only.step (State.toSump_only _ _ _ _)); rfl)
    | with_reducible apply Only.ite
    | with_reducible apply Only.ite_snd
    | with_reducible apply Only.ite_fst
    | split
    | with_reducible apply Only.foldl _ (fun _ _ => ?_)
    | with_reducible apply Only.foldl_fst _ (fun _ _ => ?_)
    | fail_if_no_progress refine Only.mk (k := ?_)

theorem State.huntLine_only (s : State) (n : LaneId) :
    Only [.sys, .evt, .cst, .stw, .quads, .lanes, .out, .freeIdx] s (State.huntLine s n) := by
  simp only [State.huntLine]
  repeat' first
    | with_reducible apply Only.refl
    | with_reducible assumption
    | ((with_reducible apply Only.step (State.modDs_only _ _ _)); rfl)
    | ((with_reducible apply Only.step (State.syncLost_only _ _)); rfl)
    | with_reducible apply Only.ite
    | with_reducible apply Only.ite_snd
    | with_reducible apply Only.ite_fst
    | split
    | with_reducible apply Only.foldl _ (fun _ _ => ?_)
    | with_reducible apply Only.foldl_fst _ (fun _ _ => ?_)
    | fail_if_no_progress refine Only.mk (k := ?_)

end Sys2Proof.Machine
end

