-- ==== Sys2Proof/Laws/OnlyHostBond.lean ====
section
/-!
SUPPORT. What the operations of Machine/HostBond.lean may change.
-/
namespace Sys2Proof.Machine

set_option Elab.async false
set_option linter.unusedTactic false
set_option linter.unreachableTactic false

theorem State.hbOffer_only (s : State) (n : LaneId) (err : Option (BitVec 3)) :
    Only [.lanes] s (State.hbOffer s n err) := by
  simp only [State.hbOffer]
  repeat' first
    | with_reducible apply Only.refl
    | with_reducible assumption
    | ((with_reducible apply Only.step (State.modLink_only _ _ _)); rfl)
    | with_reducible apply Only.ite
    | with_reducible apply Only.ite_snd
    | with_reducible apply Only.ite_fst
    | split
    | with_reducible apply Only.foldl _ (fun _ _ => ?_)
    | with_reducible apply Only.foldl_fst _ (fun _ _ => ?_)
    | fail_if_no_progress refine Only.mk (k := ?_)

theorem State.hbEvent_only (s : State) (n : LaneId) :
    Only [.evt] s (State.hbEvent s n) := by
  simp only [State.hbEvent]
  repeat' first
    | with_reducible apply Only.refl
    | with_reducible assumption
    | ((with_reducible apply Only.step (State.report_only _ _ _ _)); rfl)
    | with_reducible apply Only.ite
    | with_reducible apply Only.ite_snd
    | with_reducible apply Only.ite_fst
    | split
    | with_reducible apply Only.foldl _ (fun _ _ => ?_)
    | with_reducible apply Only.foldl_fst _ (fun _ _ => ?_)
    | fail_if_no_progress refine Only.mk (k := ?_)

theorem State.hbFail_only (s : State) (n : LaneId) (err : BitVec 3) :
    Only [.evt, .lanes] s (State.hbFail s n err) := by
  simp only [State.hbFail]
  repeat' first
    | with_reducible apply Only.refl
    | with_reducible assumption
    | ((with_reducible apply Only.step (State.hbEvent_only _ _)); rfl)
    | ((with_reducible apply Only.step (State.modLink_only _ _ _)); rfl)
    | with_reducible apply Only.ite
    | with_reducible apply Only.ite_snd
    | with_reducible apply Only.ite_fst
    | split
    | with_reducible apply Only.foldl _ (fun _ _ => ?_)
    | with_reducible apply Only.foldl_fst _ (fun _ _ => ?_)
    | fail_if_no_progress refine Only.mk (k := ?_)

theorem State.hbBreak_only (s : State) (n : LaneId) :
    Only [.evt, .lanes] s (State.hbBreak s n) := by
  simp only [State.hbBreak]
  repeat' first
    | with_reducible apply Only.refl
    | with_reducible assumption
    | ((with_reducible apply Only.step (State.hbEvent_only _ _)); rfl)
    | ((with_reducible apply Only.step (State.hbOffer_only _ _ _)); rfl)
    | with_reducible apply Only.ite
    | with_reducible apply Only.ite_snd
    | with_reducible apply Only.ite_fst
    | split
    | with_reducible apply Only.foldl _ (fun _ _ => ?_)
    | with_reducible apply Only.foldl_fst _ (fun _ _ => ?_)
    | fail_if_no_progress refine Only.mk (k := ?_)

theorem State.hbJudge_only (s : State) (n : LaneId) :
    Only [.evt, .lanes] s (State.hbJudge s n) := by
  simp only [State.hbJudge]
  repeat' first
    | with_reducible apply Only.refl
    | with_reducible assumption
    | ((with_reducible apply Only.step (State.hbFail_only _ _ _)); rfl)
    | ((with_reducible apply Only.step (State.hbOffer_only _ _ _)); rfl)
    | ((with_reducible apply Only.step (State.modLink_only _ _ _)); rfl)
    | with_reducible apply Only.ite
    | with_reducible apply Only.ite_snd
    | with_reducible apply Only.ite_fst
    | split
    | with_reducible apply Only.foldl _ (fun _ _ => ?_)
    | with_reducible apply Only.foldl_fst _ (fun _ _ => ?_)
    | fail_if_no_progress refine Only.mk (k := ?_)

theorem State.hbLaneLost_only (s : State) (n : LaneId) :
    Only [.evt, .lanes] s (State.hbLaneLost s n) := by
  simp only [State.hbLaneLost]
  repeat' first
    | with_reducible apply Only.refl
    | with_reducible assumption
    | ((with_reducible apply Only.step (State.hbBreak_only _ _)); rfl)
    | ((with_reducible apply Only.step (State.hbJudge_only _ _)); rfl)
    | ((with_reducible apply Only.step (State.modHb_only _ _ _)); rfl)
    | with_reducible apply Only.ite
    | with_reducible apply Only.ite_snd
    | with_reducible apply Only.ite_fst
    | split
    | with_reducible apply Only.foldl _ (fun _ _ => ?_)
    | with_reducible apply Only.foldl_fst _ (fun _ _ => ?_)
    | fail_if_no_progress refine Only.mk (k := ?_)

theorem execHbHandshakeRx_only (n : LaneId) (blockLock : Bool) (b : Vector Byte 8) (s : State) :
    ∃ v, (execHbHandshakeRx n blockLock b s) = .next v ∧ Only [.evt, .lanes] s v := by
  refine ⟨_, rfl, ?_⟩
  try dsimp only
  repeat' first
    | with_reducible apply Only.refl
    | with_reducible assumption
    | ((with_reducible apply Only.step (State.hbJudge_only _ _)); rfl)
    | ((with_reducible apply Only.step (State.hbOffer_only _ _ _)); rfl)
    | ((with_reducible apply Only.step (State.modHb_only _ _ _)); rfl)
    | ((with_reducible apply Only.step (State.modLink_only _ _ _)); rfl)
    | with_reducible apply Only.ite
    | with_reducible apply Only.ite_snd
    | with_reducible apply Only.ite_fst
    | split
    | with_reducible apply Only.foldl _ (fun _ _ => ?_)
    | with_reducible apply Only.foldl_fst _ (fun _ _ => ?_)
    | fail_if_no_progress refine Only.mk (k := ?_)

theorem execHbHandshakeTx_only (n : LaneId) (s : State) :
    ∃ v, (execHbHandshakeTx n s) = .next v ∧ Only [.lanes, .out] s v := by
  refine ⟨_, rfl, ?_⟩
  try dsimp only
  repeat' first
    | with_reducible apply Only.refl
    | with_reducible assumption
    | ((with_reducible apply Only.step (State.emit_only _ _)); rfl)
    | ((with_reducible apply Only.step (State.flushInject_only _ _)); rfl)
    | with_reducible apply Only.ite
    | with_reducible apply Only.ite_snd
    | with_reducible apply Only.ite_fst
    | split
    | with_reducible apply Only.foldl _ (fun _ _ => ?_)
    | with_reducible apply Only.foldl_fst _ (fun _ _ => ?_)
    | fail_if_no_progress refine Only.mk (k := ?_)

theorem execHbCommitDone_only (n : LaneId) (s : State) :
    ∃ v, (execHbCommitDone n s) = .next v ∧ Only [.lanes] s v := by
  refine ⟨_, rfl, ?_⟩
  try dsimp only
  repeat' first
    | with_reducible apply Only.refl
    | with_reducible assumption
    | ((with_reducible apply Only.step (State.modHb_only _ _ _)); rfl)
    | ((with_reducible apply Only.step (State.modLink_only _ _ _)); rfl)
    | with_reducible apply Only.ite
    | with_reducible apply Only.ite_snd
    | with_reducible apply Only.ite_fst
    | split
    | with_reducible apply Only.foldl _ (fun _ _ => ?_)
    | with_reducible apply Only.foldl_fst _ (fun _ _ => ?_)
    | fail_if_no_progress refine Only.mk (k := ?_)

theorem State.hbTick_only (s : State) (n : LaneId) :
    Only [.lanes, .out] s (State.hbTick s n) := by
  simp only [State.hbTick]
  repeat' first
    | with_reducible apply Only.refl
    | with_reducible assumption
    | ((with_reducible apply Only.step (State.emit_only _ _)); rfl)
    | ((with_reducible apply Only.step (State.modHb_only _ _ _)); rfl)
    | with_reducible apply Only.ite
    | with_reducible apply Only.ite_snd
    | with_reducible apply Only.ite_fst
    | split
    | with_reducible apply Only.foldl _ (fun _ _ => ?_)
    | with_reducible apply Only.foldl_fst _ (fun _ _ => ?_)
    | fail_if_no_progress refine Only.mk (k := ?_)

theorem State.hbSend_only (s : State) (n : LaneId) (bytes : List Byte) :
    Only [.lanes, .out, .freeIdx] s (State.hbSend s n bytes) := by
  simp only [State.hbSend]
  repeat' first
    | with_reducible apply Only.refl
    | with_reducible assumption
    | ((with_reducible apply Only.step (State.emit_only _ _)); rfl)
    | ((with_reducible apply Only.step (State.flushInject_only _ _)); rfl)
    | ((with_reducible apply Only.step (State.tookFree_only _)); rfl)
    | with_reducible apply Only.ite
    | with_reducible apply Only.ite_snd
    | with_reducible apply Only.ite_fst
    | split
    | with_reducible apply Only.foldl _ (fun _ _ => ?_)
    | with_reducible apply Only.foldl_fst _ (fun _ _ => ?_)
    | fail_if_no_progress refine Only.mk (k := ?_)

theorem execHbTimeout_only (n : LaneId) (zeroN : Bool) (s : State) :
    ∃ v, (execHbTimeout n zeroN s) = .next v ∧ Only [.evt, .lanes] s v := by
  refine ⟨_, rfl, ?_⟩
  try dsimp only
  repeat' first
    | with_reducible apply Only.refl
    | with_reducible assumption
    | ((with_reducible apply Only.step (State.hbEvent_only _ _)); rfl)
    | ((with_reducible apply Only.step (State.hbFail_only _ _ _)); rfl)
    | ((with_reducible apply Only.step (State.modLink_only _ _ _)); rfl)
    | with_reducible apply Only.ite
    | with_reducible apply Only.ite_snd
    | with_reducible apply Only.ite_fst
    | split
    | with_reducible apply Only.foldl _ (fun _ _ => ?_)
    | with_reducible apply Only.foldl_fst _ (fun _ _ => ?_)
    | fail_if_no_progress refine Only.mk (k := ?_)

theorem execHbDownHoldExpire_only (n : LaneId) (s : State) :
    ∃ v, (execHbDownHoldExpire n s) = .next v ∧ Only [.lanes] s v := by
  refine ⟨_, rfl, ?_⟩
  try dsimp only
  repeat' first
    | with_reducible apply Only.refl
    | with_reducible assumption
    | ((with_reducible apply Only.step (State.hbOffer_only _ _ _)); rfl)
    | with_reducible apply Only.ite
    | with_reducible apply Only.ite_snd
    | with_reducible apply Only.ite_fst
    | split
    | with_reducible apply Only.foldl _ (fun _ _ => ?_)
    | with_reducible apply Only.foldl_fst _ (fun _ _ => ?_)
    | fail_if_no_progress refine Only.mk (k := ?_)

theorem execHbAlignTimeout_only (n : LaneId) (s : State) :
    ∃ v, (execHbAlignTimeout n s) = .next v ∧ Only [.evt, .lanes] s v := by
  refine ⟨_, rfl, ?_⟩
  try dsimp only
  repeat' first
    | with_reducible apply Only.refl
    | with_reducible assumption
    | ((with_reducible apply Only.step (State.hbBreak_only _ _)); rfl)
    | with_reducible apply Only.ite
    | with_reducible apply Only.ite_snd
    | with_reducible apply Only.ite_fst
    | split
    | with_reducible apply Only.foldl _ (fun _ _ => ?_)
    | with_reducible apply Only.foldl_fst _ (fun _ _ => ?_)
    | fail_if_no_progress refine Only.mk (k := ?_)

theorem State.hbAligned_only (s : State) (n : LaneId) :
    Only [.evt, .lanes] s (State.hbAligned s n) := by
  simp only [State.hbAligned]
  repeat' first
    | with_reducible apply Only.refl
    | with_reducible assumption
    | ((with_reducible apply Only.step (State.hbBreak_only _ _)); rfl)
    | ((with_reducible apply Only.step (State.modLink_only _ _ _)); rfl)
    | with_reducible apply Only.ite
    | with_reducible apply Only.ite_snd
    | with_reducible apply Only.ite_fst
    | split
    | with_reducible apply Only.foldl _ (fun _ _ => ?_)
    | with_reducible apply Only.foldl_fst _ (fun _ _ => ?_)
    | fail_if_no_progress refine Only.mk (k := ?_)

theorem State.hbMiss_only (s : State) (n : LaneId) :
    Only [.evt, .lanes] s (State.hbMiss s n) := by
  simp only [State.hbMiss]
  repeat' first
    | with_reducible apply Only.refl
    | with_reducible assumption
    | ((with_reducible apply Only.step (State.hbBreak_only _ _)); rfl)
    | ((with_reducible apply Only.step (State.modHb_only _ _ _)); rfl)
    | with_reducible apply Only.ite
    | with_reducible apply Only.ite_snd
    | with_reducible apply Only.ite_fst
    | split
    | with_reducible apply Only.foldl _ (fun _ _ => ?_)
    | with_reducible apply Only.foldl_fst _ (fun _ _ => ?_)
    | fail_if_no_progress refine Only.mk (k := ?_)

theorem execHbMarkerRx_only (n : LaneId) (blk : Nat) (b : Vector Byte 8) (s : State) :
    ∃ v, (execHbMarkerRx n blk b s) = .next v ∧ Only [.evt, .lanes] s v := by
  refine ⟨_, rfl, ?_⟩
  try dsimp only
  repeat' first
    | with_reducible apply Only.refl
    | with_reducible assumption
    | ((with_reducible apply Only.step (State.hbAligned_only _ _)); rfl)
    | ((with_reducible apply Only.step (State.hbMiss_only _ _)); rfl)
    | ((with_reducible apply Only.step (State.modHb_only _ _ _)); rfl)
    | with_reducible apply Only.ite
    | with_reducible apply Only.ite_snd
    | with_reducible apply Only.ite_fst
    | split
    | with_reducible apply Only.foldl _ (fun _ _ => ?_)
    | with_reducible apply Only.foldl_fst _ (fun _ _ => ?_)
    | fail_if_no_progress refine Only.mk (k := ?_)

theorem execHbMarkerMissing_only (n : LaneId) (s : State) :
    ∃ v, (execHbMarkerMissing n s) = .next v ∧ Only [.evt, .lanes] s v := by
  refine ⟨_, rfl, ?_⟩
  try dsimp only
  repeat' first
    | with_reducible apply Only.refl
    | with_reducible assumption
    | ((with_reducible apply Only.step (State.hbMiss_only _ _)); rfl)
    | with_reducible apply Only.ite
    | with_reducible apply Only.ite_snd
    | with_reducible apply Only.ite_fst
    | split
    | with_reducible apply Only.foldl _ (fun _ _ => ?_)
    | with_reducible apply Only.foldl_fst _ (fun _ _ => ?_)
    | fail_if_no_progress refine Only.mk (k := ?_)

theorem State.hbRestart_only (s : State) (n : LaneId) :
    Only [.lanes] s (State.hbRestart s n) := by
  simp only [State.hbRestart]
  repeat' first
    | with_reducible apply Only.refl
    | with_reducible assumption
    | ((with_reducible apply Only.step (State.hbOffer_only _ _ _)); rfl)
    | with_reducible apply Only.ite
    | with_reducible apply Only.ite_snd
    | with_reducible apply Only.ite_fst
    | split
    | with_reducible apply Only.foldl _ (fun _ _ => ?_)
    | with_reducible apply Only.foldl_fst _ (fun _ _ => ?_)
    | fail_if_no_progress refine Only.mk (k := ?_)

theorem State.hbCfgWrite_only (s : State) (n : LaneId) (w : W32) :
    Only [.evt, .lanes] s (State.hbCfgWrite s n w) := by
  simp only [State.hbCfgWrite]
  repeat' first
    | with_reducible apply Only.refl
    | with_reducible assumption
    | ((with_reducible apply Only.step (State.hbJudge_only _ _)); rfl)
    | ((with_reducible apply Only.step (State.hbRestart_only _ _)); rfl)
    | ((with_reducible apply Only.step (State.modHb_only _ _ _)); rfl)
    | with_reducible apply Only.ite
    | with_reducible apply Only.ite_snd
    | with_reducible apply Only.ite_fst
    | split
    | with_reducible apply Only.foldl _ (fun _ _ => ?_)
    | with_reducible apply Only.foldl_fst _ (fun _ _ => ?_)
    | fail_if_no_progress refine Only.mk (k := ?_)

theorem execHbRestart_only (p : Port) (n : LaneId) (s : State) :
    ∃ v, (execHbRestart p n s) = .next v ∧ Only [.evt, .hif, .lanes] s v := by
  refine ⟨_, rfl, ?_⟩
  try dsimp only
  repeat' first
    | with_reducible apply Only.refl
    | with_reducible assumption
    | ((with_reducible apply Only.step (State.hbRestart_only _ _)); rfl)
    | ((with_reducible apply State.writeLane_only); rfl)
    | with_reducible apply Only.ite
    | with_reducible apply Only.ite_snd
    | with_reducible apply Only.ite_fst
    | with_reducible intro _
    | split
    | with_reducible apply Only.foldl _ (fun _ _ => ?_)
    | with_reducible apply Only.foldl_fst _ (fun _ _ => ?_)
    | fail_if_no_progress refine Only.mk (k := ?_)

end Sys2Proof.Machine
end

