-- ==== Sys2Proof/Laws/OnlyLaneSlice.lean ====
section
/-!
SUPPORT. What the operations of Machine/LaneSlice.lean may change.
-/
namespace Sys2Proof.Machine

set_option Elab.async false
set_option linter.unusedTactic false
set_option linter.unreachableTactic false

theorem execEqUpdate_only (n : LaneId) (x : Vector (BitVec 6) 16) (prev : Vector Bool 6) (s : State) :
    ∃ v, (execEqUpdate n x prev s) = .next v ∧ Only [.lanes, .freeIdx] s v := by
  refine ⟨_, rfl, ?_⟩
  try dsimp only
  repeat' first
    | with_reducible apply Only.refl
    | with_reducible assumption
    | ((with_reducible apply Only.step (State.modCom_only _ _ _)); rfl)
    | ((with_reducible apply Only.step (State.tookFree_only _)); rfl)
    | with_reducible apply Only.ite
    | with_reducible apply Only.ite_snd
    | with_reducible apply Only.ite_fst
    | split
    | with_reducible apply Only.foldl _ (fun _ _ => ?_)
    | with_reducible apply Only.foldl_fst _ (fun _ _ => ?_)
    | fail_if_no_progress refine Only.mk (k := ?_)

theorem execEqLimit_only (n : LaneId) (s : State) :
    ∃ v, (execEqLimit n s) = .next v ∧ Only [.evt, .lanes] s v := by
  refine ⟨_, rfl, ?_⟩
  try dsimp only
  repeat' first
    | with_reducible apply Only.refl
    | with_reducible assumption
    | ((with_reducible apply Only.step (State.modCom_only _ _ _)); rfl)
    | ((with_reducible apply Only.step (State.reportIf_only _ _ _ _ _)); rfl)
    | with_reducible apply Only.ite
    | with_reducible apply Only.ite_snd
    | with_reducible apply Only.ite_fst
    | split
    | with_reducible apply Only.foldl _ (fun _ _ => ?_)
    | with_reducible apply Only.foldl_fst _ (fun _ _ => ?_)
    | fail_if_no_progress refine Only.mk (k := ?_)

theorem State.rxWait_only (s : State) (n : LaneId) :
    Only [.lanes] s (State.rxWait s n) := by
  simp only [State.rxWait]
  repeat' first
    | with_reducible apply Only.refl
    | with_reducible assumption
    | ((with_reducible apply Only.step (State.modCom_only _ _ _)); rfl)
    | with_reducible apply Only.ite
    | with_reducible apply Only.ite_snd
    | with_reducible apply Only.ite_fst
    | split
    | with_reducible apply Only.foldl _ (fun _ _ => ?_)
    | with_reducible apply Only.foldl_fst _ (fun _ _ => ?_)
    | fail_if_no_progress refine Only.mk (k := ?_)

theorem execSeedLoaded_only (n : LaneId) (s : State) :
    ∃ v, (execSeedLoaded n s) = .next v ∧ Only [.lanes] s v := by
  refine ⟨_, rfl, ?_⟩
  try dsimp only
  repeat' first
    | with_reducible apply Only.refl
    | with_reducible assumption
    | ((with_reducible apply Only.step (State.modCom_only _ _ _)); rfl)
    | ((with_reducible apply Only.step (State.rxWait_only _ _)); rfl)
    | with_reducible apply Only.ite
    | with_reducible apply Only.ite_snd
    | with_reducible apply Only.ite_fst
    | split
    | with_reducible apply Only.foldl _ (fun _ _ => ?_)
    | with_reducible apply Only.foldl_fst _ (fun _ _ => ?_)
    | fail_if_no_progress refine Only.mk (k := ?_)

theorem State.cdrGone_only (s : State) (n : LaneId) :
    Only [.sys, .evt, .cst, .stw, .quads, .lanes, .out, .freeIdx] s (State.cdrGone s n) := by
  simp only [State.cdrGone]
  repeat' first
    | with_reducible apply Only.refl
    | with_reducible assumption
    | ((with_reducible apply Only.step (State.hbLaneLost_only _ _)); rfl)
    | ((with_reducible apply Only.step (State.huntLine_only _ _)); rfl)
    | ((with_reducible apply Only.step (State.modCom_only _ _ _)); rfl)
    | ((with_reducible apply Only.step (State.sdhHunt_only _ _)); rfl)
    | ((with_reducible apply Only.step (State.sdhTiming_only _ _ _)); rfl)
    | ((with_reducible apply Only.step (State.stopBursts_only _ _)); rfl)
    | with_reducible apply Only.ite
    | with_reducible apply Only.ite_snd
    | with_reducible apply Only.ite_fst
    | split
    | with_reducible apply Only.foldl _ (fun _ _ => ?_)
    | with_reducible apply Only.foldl_fst _ (fun _ _ => ?_)
    | fail_if_no_progress refine Only.mk (k := ?_)

theorem State.rxSeed_only (s : State) (n : LaneId) :
    Only [.sys, .evt, .cst, .stw, .quads, .lanes, .out, .freeIdx] s (State.rxSeed s n) := by
  simp only [State.rxSeed]
  repeat' first
    | with_reducible apply Only.refl
    | with_reducible assumption
    | ((with_reducible apply Only.step (State.cdrGone_only _ _)); rfl)
    | ((with_reducible apply Only.step (State.modCom_only _ _ _)); rfl)
    | with_reducible apply Only.ite
    | with_reducible apply Only.ite_snd
    | with_reducible apply Only.ite_fst
    | split
    | with_reducible apply Only.foldl _ (fun _ _ => ?_)
    | with_reducible apply Only.foldl_fst _ (fun _ _ => ?_)
    | fail_if_no_progress refine Only.mk (k := ?_)

theorem State.rxRestart_only (s : State) (n : LaneId) :
    Only [.sys, .evt, .cst, .stw, .quads, .lanes, .out, .freeIdx] s (State.rxRestart s n) := by
  simp only [State.rxRestart]
  repeat' first
    | with_reducible apply Only.refl
    | with_reducible assumption
    | ((with_reducible apply Only.step (State.rxSeed_only _ _)); rfl)
    | with_reducible apply Only.ite
    | with_reducible apply Only.ite_snd
    | with_reducible apply Only.ite_fst
    | split
    | with_reducible apply Only.foldl _ (fun _ _ => ?_)
    | with_reducible apply Only.foldl_fst _ (fun _ _ => ?_)
    | fail_if_no_progress refine Only.mk (k := ?_)

theorem execRxRestart_only (p : Port) (n : LaneId) (s : State) :
    ∃ v, (execRxRestart p n s) = .next v ∧ Only [.sys, .evt, .hif, .cst, .stw, .quads, .lanes, .out, .freeIdx] s v := by
  refine ⟨_, rfl, ?_⟩
  try dsimp only
  repeat' first
    | with_reducible apply Only.refl
    | with_reducible assumption
    | ((with_reducible apply Only.step (State.rxRestart_only _ _)); rfl)
    | ((with_reducible apply State.writeLane_only); rfl)
    | with_reducible apply Only.ite
    | with_reducible apply Only.ite_snd
    | with_reducible apply Only.ite_fst
    | with_reducible intro _
    | split
    | with_reducible apply Only.foldl _ (fun _ _ => ?_)
    | with_reducible apply Only.foldl_fst _ (fun _ _ => ?_)
    | fail_if_no_progress refine Only.mk (k := ?_)

theorem State.eqFreeze_only (s : State) (n : LaneId) (on : Bool) :
    Only [.lanes] s (State.eqFreeze s n on) := by
  simp only [State.eqFreeze]
  repeat' first
    | with_reducible apply Only.refl
    | with_reducible assumption
    | ((with_reducible apply Only.step (State.modCom_only _ _ _)); rfl)
    | with_reducible apply Only.ite
    | with_reducible apply Only.ite_snd
    | with_reducible apply Only.ite_fst
    | split
    | with_reducible apply Only.foldl _ (fun _ _ => ?_)
    | with_reducible apply Only.foldl_fst _ (fun _ _ => ?_)
    | fail_if_no_progress refine Only.mk (k := ?_)

theorem execEqFreeze_only (p : Port) (n : LaneId) (on : Bool) (s : State) :
    ∃ v, (execEqFreeze p n on s) = .next v ∧ Only [.evt, .hif, .lanes] s v := by
  refine ⟨_, rfl, ?_⟩
  try dsimp only
  repeat' first
    | with_reducible apply Only.refl
    | with_reducible assumption
    | ((with_reducible apply Only.step (State.eqFreeze_only _ _ _)); rfl)
    | ((with_reducible apply State.writeLane_only); rfl)
    | with_reducible apply Only.ite
    | with_reducible apply Only.ite_snd
    | with_reducible apply Only.ite_fst
    | with_reducible intro _
    | split
    | with_reducible apply Only.foldl _ (fun _ _ => ?_)
    | with_reducible apply Only.foldl_fst _ (fun _ _ => ?_)
    | fail_if_no_progress refine Only.mk (k := ?_)

theorem execTapWrite_only (p : Port) (n : LaneId) (w : W32) (s : State) :
    ∃ v, (execTapWrite p n w s) = .next v ∧ Only [.evt, .hif, .lanes] s v := by
  refine ⟨_, rfl, ?_⟩
  try dsimp only
  repeat' first
    | with_reducible apply Only.refl
    | with_reducible assumption
    | ((with_reducible apply Only.step (State.modCom_only _ _ _)); rfl)
    | ((with_reducible apply State.writeLane_only); rfl)
    | with_reducible apply Only.ite
    | with_reducible apply Only.ite_snd
    | with_reducible apply Only.ite_fst
    | with_reducible intro _
    | split
    | with_reducible apply Only.foldl _ (fun _ _ => ?_)
    | with_reducible apply Only.foldl_fst _ (fun _ _ => ?_)
    | fail_if_no_progress refine Only.mk (k := ?_)

theorem execSignalDetectSet_only (n : LaneId) (rms : Nat) (s : State) :
    ∃ v, (execSignalDetectSet n rms s) = .next v ∧ Only [.evt, .lanes, .out] s v := by
  refine ⟨_, rfl, ?_⟩
  try dsimp only
  repeat' first
    | with_reducible apply Only.refl
    | with_reducible assumption
    | ((with_reducible apply Only.step (State.endCond_only _ _)); rfl)
    | ((with_reducible apply Only.step (State.ethStart_only _ _)); rfl)
    | ((with_reducible apply Only.step (State.modCom_only _ _ _)); rfl)
    | with_reducible apply Only.ite
    | with_reducible apply Only.ite_snd
    | with_reducible apply Only.ite_fst
    | split
    | with_reducible apply Only.foldl _ (fun _ _ => ?_)
    | with_reducible apply Only.foldl_fst _ (fun _ _ => ?_)
    | fail_if_no_progress refine Only.mk (k := ?_)

theorem State.signalGone_only (s : State) (n : LaneId) :
    Only [.sys, .evt, .cst, .stw, .quads, .lanes, .out, .freeIdx] s (State.signalGone s n) := by
  simp only [State.signalGone]
  repeat' first
    | with_reducible apply Only.refl
    | with_reducible assumption
    | ((with_reducible apply Only.step (State.cdrGone_only _ _)); rfl)
    | ((with_reducible apply Only.step (State.ethDown_only _ _)); rfl)
    | ((with_reducible apply Only.step (State.judgeVcats_only _ _)); rfl)
    | ((with_reducible apply Only.step (State.modCom_only _ _ _)); rfl)
    | ((with_reducible apply Only.step (State.pathsAfresh_only _ _)); rfl)
    | ((with_reducible apply Only.step (State.pmDefect_only _ _)); rfl)
    | with_reducible apply Only.ite
    | with_reducible apply Only.ite_snd
    | with_reducible apply Only.ite_fst
    | split
    | with_reducible apply Only.foldl _ (fun _ _ => ?_)
    | with_reducible apply Only.foldl_fst _ (fun _ _ => ?_)
    | fail_if_no_progress refine Only.mk (k := ?_)

theorem execSignalDetectClear_only (n : LaneId) (rms : Vector Nat 4) (s : State) :
    ∃ v, (execSignalDetectClear n rms s) = .next v ∧ Only [.sys, .evt, .cst, .stw, .quads, .lanes, .out, .freeIdx] s v := by
  refine ⟨_, rfl, ?_⟩
  try dsimp only
  repeat' first
    | with_reducible apply Only.refl
    | with_reducible assumption
    | ((with_reducible apply Only.step (State.report_only _ _ _ _)); rfl)
    | ((with_reducible apply Only.step (State.signalGone_only _ _)); rfl)
    | with_reducible apply Only.ite
    | with_reducible apply Only.ite_snd
    | with_reducible apply Only.ite_fst
    | split
    | with_reducible apply Only.foldl _ (fun _ _ => ?_)
    | with_reducible apply Only.foldl_fst _ (fun _ _ => ?_)
    | fail_if_no_progress refine Only.mk (k := ?_)

theorem execCdrLock_only (n : LaneId) (s : State) :
    ∃ v, (execCdrLock n s) = .next v ∧ Only [.evt, .lanes, .out] s v := by
  refine ⟨_, rfl, ?_⟩
  try dsimp only
  repeat' first
    | with_reducible apply Only.refl
    | with_reducible assumption
    | ((with_reducible apply Only.step (State.ethStart_only _ _)); rfl)
    | ((with_reducible apply Only.step (State.judgeLock_only _ _)); rfl)
    | ((with_reducible apply Only.step (State.modCom_only _ _ _)); rfl)
    | ((with_reducible apply Only.step (State.sdhTiming_only _ _ _)); rfl)
    | with_reducible apply Only.ite
    | with_reducible apply Only.ite_snd
    | with_reducible apply Only.ite_fst
    | split
    | with_reducible apply Only.foldl _ (fun _ _ => ?_)
    | with_reducible apply Only.foldl_fst _ (fun _ _ => ?_)
    | fail_if_no_progress refine Only.mk (k := ?_)

theorem State.cdrLost_only (s : State) (n : LaneId) :
    Only [.sys, .evt, .cst, .stw, .quads, .lanes, .out, .freeIdx] s (State.cdrLost s n) := by
  simp only [State.cdrLost]
  repeat' first
    | with_reducible apply Only.refl
    | with_reducible assumption
    | ((with_reducible apply Only.step (State.cdrGone_only _ _)); rfl)
    | ((with_reducible apply Only.step (State.modCom_only _ _ _)); rfl)
    | ((with_reducible apply Only.step (State.report_only _ _ _ _)); rfl)
    | with_reducible apply Only.ite
    | with_reducible apply Only.ite_snd
    | with_reducible apply Only.ite_fst
    | split
    | with_reducible apply Only.foldl _ (fun _ _ => ?_)
    | with_reducible apply Only.foldl_fst _ (fun _ _ => ?_)
    | fail_if_no_progress refine Only.mk (k := ?_)

theorem execCdrLockLost_only (n : LaneId) (s : State) :
    ∃ v, (execCdrLockLost n s) = .next v ∧ Only [.sys, .evt, .cst, .stw, .quads, .lanes, .out, .freeIdx] s v := by
  refine ⟨_, rfl, ?_⟩
  try dsimp only
  repeat' first
    | with_reducible apply Only.refl
    | with_reducible assumption
    | ((with_reducible apply Only.step (State.cdrLost_only _ _)); rfl)
    | with_reducible apply Only.ite
    | with_reducible apply Only.ite_snd
    | with_reducible apply Only.ite_fst
    | split
    | with_reducible apply Only.foldl _ (fun _ _ => ?_)
    | with_reducible apply Only.foldl_fst _ (fun _ _ => ?_)
    | fail_if_no_progress refine Only.mk (k := ?_)

theorem execAdaptFastDone_only (n : LaneId) (s : State) :
    ∃ v, (execAdaptFastDone n s) = .next v ∧ Only [.lanes] s v := by
  refine ⟨_, rfl, ?_⟩
  try dsimp only
  repeat' first
    | with_reducible apply Only.refl
    | with_reducible assumption
    | ((with_reducible apply Only.step (State.modCom_only _ _ _)); rfl)
    | with_reducible apply Only.ite
    | with_reducible apply Only.ite_snd
    | with_reducible apply Only.ite_fst
    | split
    | with_reducible apply Only.foldl _ (fun _ _ => ?_)
    | with_reducible apply Only.foldl_fst _ (fun _ _ => ?_)
    | fail_if_no_progress refine Only.mk (k := ?_)

theorem execNoiseReport_only (n : LaneId) (sumSq : Nat) (s : State) :
    ∃ v, (execNoiseReport n sumSq s) = .next v ∧ Only [.lanes, .freeIdx] s v := by
  refine ⟨_, rfl, ?_⟩
  try dsimp only
  repeat' first
    | with_reducible apply Only.refl
    | with_reducible assumption
    | ((with_reducible apply Only.step (State.modCom_only _ _ _)); rfl)
    | ((with_reducible apply Only.step (State.tookFree_only _)); rfl)
    | with_reducible apply Only.ite
    | with_reducible apply Only.ite_snd
    | with_reducible apply Only.ite_fst
    | split
    | with_reducible apply Only.foldl _ (fun _ _ => ?_)
    | with_reducible apply Only.foldl_fst _ (fun _ _ => ?_)
    | fail_if_no_progress refine Only.mk (k := ?_)

theorem State.modRef_only (s : State) (q : Nat) (f : RefClk → RefClk) :
    Only [.sys] s (State.modRef s q f) := by
  simp only [State.modRef]
  repeat' first
    | with_reducible apply Only.refl
    | with_reducible assumption
    | with_reducible apply Only.ite
    | with_reducible apply Only.ite_snd
    | with_reducible apply Only.ite_fst
    | split
    | with_reducible apply Only.foldl _ (fun _ _ => ?_)
    | with_reducible apply Only.foldl_fst _ (fun _ _ => ?_)
    | fail_if_no_progress refine Only.mk (k := ?_)

theorem State.refLocksLost_only (s : State) (q : Nat) :
    Only [.sys, .evt, .cst, .stw, .quads, .lanes, .out, .freeIdx] s (State.refLocksLost s q) := by
  simp only [State.refLocksLost]
  repeat' first
    | with_reducible apply Only.refl
    | with_reducible assumption
    | ((with_reducible apply Only.step (State.cdrLost_only _ _)); rfl)
    | with_reducible apply Only.ite
    | with_reducible apply Only.ite_snd
    | with_reducible apply Only.ite_fst
    | split
    | with_reducible apply Only.foldl _ (fun _ _ => ?_)
    | with_reducible apply Only.foldl_fst _ (fun _ _ => ?_)
    | fail_if_no_progress refine Only.mk (k := ?_)

theorem State.refFault_only (s : State) (q : Nat) :
    Only [.sys, .evt, .cst, .stw, .quads, .lanes, .out, .freeIdx] s (State.refFault s q) := by
  simp only [State.refFault]
  repeat' first
    | with_reducible apply Only.refl
    | with_reducible assumption
    | ((with_reducible apply Only.step (State.modRef_only _ _ _)); rfl)
    | ((with_reducible apply Only.step (State.refLocksLost_only _ _)); rfl)
    | ((with_reducible apply Only.step (State.reportIf_only _ _ _ _ _)); rfl)
    | with_reducible apply Only.ite
    | with_reducible apply Only.ite_snd
    | with_reducible apply Only.ite_fst
    | split
    | with_reducible apply Only.foldl _ (fun _ _ => ?_)
    | with_reducible apply Only.foldl_fst _ (fun _ _ => ?_)
    | fail_if_no_progress refine Only.mk (k := ?_)

theorem State.refJudge_only (s : State) (q : Nat) :
    Only [.evt] s (State.refJudge s q) := by
  simp only [State.refJudge]
  repeat' first
    | with_reducible apply Only.refl
    | with_reducible assumption
    | ((with_reducible apply Only.step (State.endCond_only _ _)); rfl)
    | with_reducible apply Only.ite
    | with_reducible apply Only.ite_snd
    | with_reducible apply Only.ite_fst
    | split
    | with_reducible apply Only.foldl _ (fun _ _ => ?_)
    | with_reducible apply Only.foldl_fst _ (fun _ _ => ?_)
    | fail_if_no_progress refine Only.mk (k := ?_)

theorem execRefclkLoss_only (q : QuadId) (s : State) :
    ∃ v, (execRefclkLoss q s) = .next v ∧ Only [.sys, .evt, .cst, .stw, .quads, .lanes, .out, .freeIdx] s v := by
  refine ⟨_, rfl, ?_⟩
  try dsimp only
  repeat' first
    | with_reducible apply Only.refl
    | with_reducible assumption
    | ((with_reducible apply Only.step (State.modRef_only _ _ _)); rfl)
    | ((with_reducible apply Only.step (State.refFault_only _ _)); rfl)
    | with_reducible apply Only.ite
    | with_reducible apply Only.ite_snd
    | with_reducible apply Only.ite_fst
    | split
    | with_reducible apply Only.foldl _ (fun _ _ => ?_)
    | with_reducible apply Only.foldl_fst _ (fun _ _ => ?_)
    | fail_if_no_progress refine Only.mk (k := ?_)

theorem execRefclkReturn_only (q : QuadId) (s : State) :
    ∃ v, (execRefclkReturn q s) = .next v ∧ Only [.sys, .evt] s v := by
  refine ⟨_, rfl, ?_⟩
  try dsimp only
  repeat' first
    | with_reducible apply Only.refl
    | with_reducible assumption
    | ((with_reducible apply Only.step (State.modRef_only _ _ _)); rfl)
    | ((with_reducible apply Only.step (State.refJudge_only _ _)); rfl)
    | with_reducible apply Only.ite
    | with_reducible apply Only.ite_snd
    | with_reducible apply Only.ite_fst
    | split
    | with_reducible apply Only.foldl _ (fun _ _ => ?_)
    | with_reducible apply Only.foldl_fst _ (fun _ _ => ?_)
    | fail_if_no_progress refine Only.mk (k := ?_)

theorem execRefclkGate_only (q : QuadId) (ppm : Int) (s : State) :
    ∃ v, (execRefclkGate q ppm s) = .next v ∧ Only [.sys, .evt, .cst, .stw, .quads, .lanes, .out, .freeIdx] s v := by
  refine ⟨_, rfl, ?_⟩
  try dsimp only
  repeat' first
    | with_reducible apply Only.refl
    | with_reducible assumption
    | ((with_reducible apply Only.step (State.modRef_only _ _ _)); rfl)
    | ((with_reducible apply Only.step (State.refFault_only _ _)); rfl)
    | ((with_reducible apply Only.step (State.refJudge_only _ _)); rfl)
    | with_reducible apply Only.ite
    | with_reducible apply Only.ite_snd
    | with_reducible apply Only.ite_fst
    | split
    | with_reducible apply Only.foldl _ (fun _ _ => ?_)
    | with_reducible apply Only.foldl_fst _ (fun _ _ => ?_)
    | fail_if_no_progress refine Only.mk (k := ?_)

theorem State.refclkClear_only (s : State) (w : W32) :
    Only [.sys] s (State.refclkClear s w) := by
  simp only [State.refclkClear]
  repeat' first
    | with_reducible apply Only.refl
    | with_reducible assumption
    | with_reducible apply Only.ite
    | with_reducible apply Only.ite_snd
    | with_reducible apply Only.ite_fst
    | split
    | with_reducible apply Only.foldl _ (fun _ _ => ?_)
    | with_reducible apply Only.foldl_fst _ (fun _ _ => ?_)
    | fail_if_no_progress refine Only.mk (k := ?_)

theorem execSeedDataWrite_only (p : Port) (w : W32) (s : State) :
    ∃ v, (execSeedDataWrite p w s) = .next v ∧ Only [.sys, .evt, .hif] s v := by
  refine ⟨_, rfl, ?_⟩
  try dsimp only
  repeat' first
    | with_reducible apply Only.refl
    | with_reducible assumption
    | ((with_reducible apply State.writeIsl_only); rfl)
    | with_reducible apply Only.ite
    | with_reducible apply Only.ite_snd
    | with_reducible apply Only.ite_fst
    | with_reducible intro _
    | split
    | with_reducible apply Only.foldl _ (fun _ _ => ?_)
    | with_reducible apply Only.foldl_fst _ (fun _ _ => ?_)
    | fail_if_no_progress refine Only.mk (k := ?_)

end Sys2Proof.Machine
end

