-- ==== Sys2Proof/Laws/OnlyLaneTx.lean ====
section
/-!
SUPPORT. What the operations of Machine/LaneTx.lean may change.
-/
namespace Sys2Proof.Machine

set_option Elab.async false
set_option linter.unusedTactic false
set_option linter.unreachableTactic false

theorem execTxinhFall_only (lowPs : Nat) (s : State) :
    ∃ v, (execTxinhFall lowPs s) = .next v ∧ Only [.sys, .evt, .quads, .lanes, .pins, .out, .freeIdx] s v := by
  refine ⟨_, rfl, ?_⟩
  try dsimp only
  repeat' first
    | with_reducible apply Only.refl
    | with_reducible assumption
    | ((with_reducible apply Only.step (State.cutBurst_only _ _)); rfl)
    | ((with_reducible apply Only.step (State.modCom_only _ _ _)); rfl)
    | ((with_reducible apply Only.step (State.report_only _ _ _ _)); rfl)
    | ((with_reducible apply Only.step (State.tookFree_only _)); rfl)
    | with_reducible apply Only.ite
    | with_reducible apply Only.ite_snd
    | with_reducible apply Only.ite_fst
    | split
    | with_reducible apply Only.foldl _ (fun _ _ => ?_)
    | with_reducible apply Only.foldl_fst _ (fun _ _ => ?_)
    | fail_if_no_progress refine Only.mk (k := ?_)

theorem execTxinhRise_only (s : State) :
    ∃ v, (execTxinhRise s) = .next v ∧ Only [.pins] s v := by
  refine ⟨_, rfl, ?_⟩
  try dsimp only
  repeat' first
    | with_reducible apply Only.refl
    | with_reducible assumption
    | with_reducible apply Only.ite
    | with_reducible apply Only.ite_snd
    | with_reducible apply Only.ite_fst
    | split
    | with_reducible apply Only.foldl _ (fun _ _ => ?_)
    | with_reducible apply Only.foldl_fst _ (fun _ _ => ?_)
    | fail_if_no_progress refine Only.mk (k := ?_)

theorem State.txSquelch_only (s : State) (n : LaneId) (on : Bool) :
    Only [.sys, .quads, .lanes, .out, .freeIdx] s (State.txSquelch s n on) := by
  simp only [State.txSquelch]
  repeat' first
    | with_reducible apply Only.refl
    | with_reducible assumption
    | ((with_reducible apply Only.step (State.cutBurst_only _ _)); rfl)
    | ((with_reducible apply Only.step (State.modCom_only _ _ _)); rfl)
    | ((with_reducible apply Only.step (State.txBegins_only _ _)); rfl)
    | with_reducible apply Only.ite
    | with_reducible apply Only.ite_snd
    | with_reducible apply Only.ite_fst
    | split
    | with_reducible apply Only.foldl _ (fun _ _ => ?_)
    | with_reducible apply Only.foldl_fst _ (fun _ _ => ?_)
    | fail_if_no_progress refine Only.mk (k := ?_)

theorem execTxSquelch_only (p : Port) (n : LaneId) (on : Bool) (s : State) :
    ∃ v, (execTxSquelch p n on s) = .next v ∧ Only [.sys, .evt, .hif, .quads, .lanes, .out, .freeIdx] s v := by
  refine ⟨_, rfl, ?_⟩
  try dsimp only
  repeat' first
    | with_reducible apply Only.refl
    | with_reducible assumption
    | ((with_reducible apply Only.step (State.txSquelch_only _ _ _)); rfl)
    | ((with_reducible apply State.writeLane_only); rfl)
    | with_reducible apply Only.ite
    | with_reducible apply Only.ite_snd
    | with_reducible apply Only.ite_fst
    | with_reducible intro _
    | split
    | with_reducible apply Only.foldl _ (fun _ _ => ?_)
    | with_reducible apply Only.foldl_fst _ (fun _ _ => ?_)
    | fail_if_no_progress refine Only.mk (k := ?_)

theorem State.sumpQueued_only (s : State) (n : LaneId) :
    Only [.sys, .quads, .lanes] s (State.sumpQueued s n) := by
  simp only [State.sumpQueued]
  repeat' first
    | with_reducible apply Only.refl
    | with_reducible assumption
    | ((with_reducible apply Only.step (State.floats_only _ _)); rfl)
    | ((with_reducible apply Only.step (State.modTm_only _ _ _ _)); rfl)
    | ((with_reducible apply Only.step (State.sumpN_only _ _ _ _ _)); rfl)
    | with_reducible apply Only.ite
    | with_reducible apply Only.ite_snd
    | with_reducible apply Only.ite_fst
    | split
    | with_reducible apply Only.foldl _ (fun _ _ => ?_)
    | with_reducible apply Only.foldl_fst _ (fun _ _ => ?_)
    | fail_if_no_progress refine Only.mk (k := ?_)

theorem State.genEn_only (s : State) (n : LaneId) (on : Bool) :
    Only [.sys, .quads, .lanes, .out, .freeIdx] s (State.genEn s n on) := by
  simp only [State.genEn]
  repeat' first
    | with_reducible apply Only.refl
    | with_reducible assumption
    | ((with_reducible apply Only.step (State.modCom_only _ _ _)); rfl)
    | ((with_reducible apply Only.step (State.stopBursts_only _ _)); rfl)
    | ((with_reducible apply Only.step (State.sumpQueued_only _ _)); rfl)
    | ((with_reducible apply Only.step (State.txBegins_only _ _)); rfl)
    | with_reducible apply Only.ite
    | with_reducible apply Only.ite_snd
    | with_reducible apply Only.ite_fst
    | split
    | with_reducible apply Only.foldl _ (fun _ _ => ?_)
    | with_reducible apply Only.foldl_fst _ (fun _ _ => ?_)
    | fail_if_no_progress refine Only.mk (k := ?_)

theorem execGenEn_only (p : Port) (n : LaneId) (on : Bool) (s : State) :
    ∃ v, (execGenEn p n on s) = .next v ∧ Only [.sys, .evt, .hif, .quads, .lanes, .out, .freeIdx] s v := by
  refine ⟨_, rfl, ?_⟩
  try dsimp only
  repeat' first
    | with_reducible apply Only.refl
    | with_reducible assumption
    | ((with_reducible apply Only.step (State.genEn_only _ _ _)); rfl)
    | ((with_reducible apply State.writeLane_only); rfl)
    | with_reducible apply Only.ite
    | with_reducible apply Only.ite_snd
    | with_reducible apply Only.ite_fst
    | with_reducible intro _
    | split
    | with_reducible apply Only.foldl _ (fun _ _ => ?_)
    | with_reducible apply Only.foldl_fst _ (fun _ _ => ?_)
    | fail_if_no_progress refine Only.mk (k := ?_)

theorem State.prbsErrors_only (s : State) (n : LaneId) (k : Nat) :
    Only [.evt, .lanes] s (State.prbsErrors s n k) := by
  simp only [State.prbsErrors]
  repeat' first
    | with_reducible apply Only.refl
    | with_reducible assumption
    | ((with_reducible apply Only.step (State.modCom_only _ _ _)); rfl)
    | ((with_reducible apply Only.step (State.reportIf_only _ _ _ _ _)); rfl)
    | with_reducible apply Only.ite
    | with_reducible apply Only.ite_snd
    | with_reducible apply Only.ite_fst
    | split
    | with_reducible apply Only.foldl _ (fun _ _ => ?_)
    | with_reducible apply Only.foldl_fst _ (fun _ _ => ?_)
    | fail_if_no_progress refine Only.mk (k := ?_)

theorem State.checkBit_only (s : State) (n : LaneId) (b : Bool) :
    Only [.evt, .lanes] s (State.checkBit s n b) := by
  simp only [State.checkBit]
  repeat' first
    | with_reducible apply Only.refl
    | with_reducible assumption
    | ((with_reducible apply Only.step (State.modCom_only _ _ _)); rfl)
    | ((with_reducible apply Only.step (State.prbsErrors_only _ _ _)); rfl)
    | ((with_reducible apply Only.step (State.reportIf_only _ _ _ _ _)); rfl)
    | (rename_i hh; with_reducible apply triple_eq at hh; obtain ⟨rfl, rfl, rfl⟩ := hh)
    | (rename_i hh; with_reducible apply pair_eq at hh; obtain ⟨rfl, rfl⟩ := hh)
    | (rename_i hh; with_reducible apply pair_eq at hh; obtain ⟨-, rfl⟩ := hh)
    | (rename_i hh; with_reducible apply pair_eq at hh; obtain ⟨rfl, -⟩ := hh)
    | with_reducible apply Only.ite
    | with_reducible apply Only.ite_snd
    | with_reducible apply Only.ite_fst
    | split
    | with_reducible apply Only.foldl _ (fun _ _ => ?_)
    | with_reducible apply Only.foldl_fst _ (fun _ _ => ?_)
    | fail_if_no_progress refine Only.mk (k := ?_)

theorem State.checkBits_only (s : State) (n : LaneId) (bits : List Bool) :
    Only [.evt, .lanes] s (State.checkBits s n bits) := by
  simp only [State.checkBits]
  repeat' first
    | with_reducible apply Only.refl
    | with_reducible assumption
    | ((with_reducible apply Only.step (State.checkBit_only _ _ _)); rfl)
    | with_reducible apply Only.ite
    | with_reducible apply Only.ite_snd
    | with_reducible apply Only.ite_fst
    | split
    | with_reducible apply Only.foldl _ (fun _ _ => ?_)
    | with_reducible apply Only.foldl_fst _ (fun _ _ => ?_)
    | fail_if_no_progress refine Only.mk (k := ?_)

theorem execCheckerLock_only (n : LaneId) (bits : List Bool) (s : State) :
    ∃ v, (execCheckerLock n bits s) = .next v ∧ Only [.evt, .lanes] s v := by
  refine ⟨_, rfl, ?_⟩
  try dsimp only
  repeat' first
    | with_reducible apply Only.refl
    | with_reducible assumption
    | ((with_reducible apply Only.step (State.checkBits_only _ _ _)); rfl)
    | with_reducible apply Only.ite
    | with_reducible apply Only.ite_snd
    | with_reducible apply Only.ite_fst
    | split
    | with_reducible apply Only.foldl _ (fun _ _ => ?_)
    | with_reducible apply Only.foldl_fst _ (fun _ _ => ?_)
    | fail_if_no_progress refine Only.mk (k := ?_)

theorem execCheckerLockLoss_only (n : LaneId) (bits : List Bool) (s : State) :
    ∃ v, (execCheckerLockLoss n bits s) = .next v ∧ Only [.evt, .lanes] s v := by
  refine ⟨_, rfl, ?_⟩
  try dsimp only
  repeat' first
    | with_reducible apply Only.refl
    | with_reducible assumption
    | ((with_reducible apply Only.step (State.checkBits_only _ _ _)); rfl)
    | with_reducible apply Only.ite
    | with_reducible apply Only.ite_snd
    | with_reducible apply Only.ite_fst
    | split
    | with_reducible apply Only.foldl _ (fun _ _ => ?_)
    | with_reducible apply Only.foldl_fst _ (fun _ _ => ?_)
    | fail_if_no_progress refine Only.mk (k := ?_)

theorem State.prbsErrRead_only (s : State) (n : LaneId) :
    Only [.lanes] s (State.prbsErrRead s n).2 := by
  simp only [State.prbsErrRead]
  repeat' first
    | with_reducible apply Only.refl
    | with_reducible assumption
    | ((with_reducible apply Only.step (State.modCom_only _ _ _)); rfl)
    | with_reducible apply Only.ite
    | with_reducible apply Only.ite_snd
    | with_reducible apply Only.ite_fst
    | split
    | with_reducible apply Only.foldl _ (fun _ _ => ?_)
    | with_reducible apply Only.foldl_fst _ (fun _ _ => ?_)
    | fail_if_no_progress refine Only.mk (k := ?_)

theorem execPrbsErrRead_only (p : Port) (n : LaneId) (bits : List Bool) (s : State) :
    ∃ v, (execPrbsErrRead p n bits s) = .next v ∧ Only [.evt, .hif, .lanes, .out] s v := by
  refine ⟨_, rfl, ?_⟩
  try dsimp only
  repeat' first
    | with_reducible apply Only.refl
    | with_reducible assumption
    | ((with_reducible apply Only.step (State.checkBits_only _ _ _)); rfl)
    | ((with_reducible apply Only.step (State.prbsErrRead_only _ _)); rfl)
    | ((with_reducible apply State.readLane_only); rfl)
    | with_reducible apply Only.ite
    | with_reducible apply Only.ite_snd
    | with_reducible apply Only.ite_fst
    | with_reducible intro _
    | split
    | with_reducible apply Only.foldl _ (fun _ _ => ?_)
    | with_reducible apply Only.foldl_fst _ (fun _ _ => ?_)
    | fail_if_no_progress refine Only.mk (k := ?_)

theorem State.injectBits_only (s : State) (n : LaneId) (k : Nat) :
    Only [.lanes, .out] s (State.injectBits s n k) := by
  simp only [State.injectBits]
  repeat' first
    | with_reducible apply Only.refl
    | with_reducible assumption
    | ((with_reducible apply Only.step (State.flushInject_only _ _)); rfl)
    | ((with_reducible apply Only.step (State.modCom_only _ _ _)); rfl)
    | with_reducible apply Only.ite
    | with_reducible apply Only.ite_snd
    | with_reducible apply Only.ite_fst
    | split
    | with_reducible apply Only.foldl _ (fun _ _ => ?_)
    | with_reducible apply Only.foldl_fst _ (fun _ _ => ?_)
    | fail_if_no_progress refine Only.mk (k := ?_)

theorem execInjSingle_only (p : Port) (n : LaneId) (s : State) :
    ∃ v, (execInjSingle p n s) = .next v ∧ Only [.evt, .hif, .lanes, .out] s v := by
  refine ⟨_, rfl, ?_⟩
  try dsimp only
  repeat' first
    | with_reducible apply Only.refl
    | with_reducible assumption
    | ((with_reducible apply Only.step (State.injectBits_only _ _ _)); rfl)
    | ((with_reducible apply State.writeLane_only); rfl)
    | with_reducible apply Only.ite
    | with_reducible apply Only.ite_snd
    | with_reducible apply Only.ite_fst
    | with_reducible intro _
    | split
    | with_reducible apply Only.foldl _ (fun _ _ => ?_)
    | with_reducible apply Only.foldl_fst _ (fun _ _ => ?_)
    | fail_if_no_progress refine Only.mk (k := ?_)

theorem execInjBurst_only (p : Port) (n : LaneId) (s : State) :
    ∃ v, (execInjBurst p n s) = .next v ∧ Only [.evt, .hif, .lanes, .out] s v := by
  refine ⟨_, rfl, ?_⟩
  try dsimp only
  repeat' first
    | with_reducible apply Only.refl
    | with_reducible assumption
    | ((with_reducible apply Only.step (State.injectBits_only _ _ _)); rfl)
    | ((with_reducible apply State.writeLane_only); rfl)
    | with_reducible apply Only.ite
    | with_reducible apply Only.ite_snd
    | with_reducible apply Only.ite_fst
    | with_reducible intro _
    | split
    | with_reducible apply Only.foldl _ (fun _ _ => ?_)
    | with_reducible apply Only.foldl_fst _ (fun _ _ => ?_)
    | fail_if_no_progress refine Only.mk (k := ?_)

theorem State.laneCtlWrite_only (s : State) (n : LaneId) (w : W32) :
    Only [.sys, .evt, .cst, .stw, .quads, .lanes, .out, .freeIdx] s (State.laneCtlWrite s n w) := by
  simp only [State.laneCtlWrite]
  repeat' first
    | with_reducible apply Only.refl
    | with_reducible assumption
    | ((with_reducible apply Only.step (State.driveNow_only _ _)); rfl)
    | ((with_reducible apply Only.step (State.eqFreeze_only _ _ _)); rfl)
    | ((with_reducible apply Only.step (State.modCom_only _ _ _)); rfl)
    | ((with_reducible apply Only.step (State.rxRestart_only _ _)); rfl)
    | ((with_reducible apply Only.step (State.txSquelch_only _ _ _)); rfl)
    | with_reducible apply Only.ite
    | with_reducible apply Only.ite_snd
    | with_reducible apply Only.ite_fst
    | split
    | with_reducible apply Only.foldl _ (fun _ _ => ?_)
    | with_reducible apply Only.foldl_fst _ (fun _ _ => ?_)
    | fail_if_no_progress refine Only.mk (k := ?_)

theorem State.lanePrbsWrite_only (s : State) (n : LaneId) (w : W32) :
    Only [.sys, .quads, .lanes, .out, .freeIdx] s (State.lanePrbsWrite s n w) := by
  simp only [State.lanePrbsWrite]
  repeat' first
    | with_reducible apply Only.refl
    | with_reducible assumption
    | ((with_reducible apply Only.step (State.genEn_only _ _ _)); rfl)
    | ((with_reducible apply Only.step (State.injectBits_only _ _ _)); rfl)
    | ((with_reducible apply Only.step (State.modCom_only _ _ _)); rfl)
    | ((with_reducible apply Only.step (State.startPattern_only _ _)); rfl)
    | with_reducible apply Only.ite
    | with_reducible apply Only.ite_snd
    | with_reducible apply Only.ite_fst
    | split
    | with_reducible apply Only.foldl _ (fun _ _ => ?_)
    | with_reducible apply Only.foldl_fst _ (fun _ _ => ?_)
    | fail_if_no_progress refine Only.mk (k := ?_)

theorem State.txCfgWrite_only (s : State) (n : LaneId) (w : W32) :
    Only [.lanes, .out] s (State.txCfgWrite s n w) := by
  simp only [State.txCfgWrite]
  repeat' first
    | with_reducible apply Only.refl
    | with_reducible assumption
    | ((with_reducible apply Only.step (State.driveNow_only _ _)); rfl)
    | ((with_reducible apply Only.step (State.modCom_only _ _ _)); rfl)
    | with_reducible apply Only.ite
    | with_reducible apply Only.ite_snd
    | with_reducible apply Only.ite_fst
    | split
    | with_reducible apply Only.foldl _ (fun _ _ => ?_)
    | with_reducible apply Only.foldl_fst _ (fun _ _ => ?_)
    | fail_if_no_progress refine Only.mk (k := ?_)

theorem State.laneRead_only (s : State) (n : LaneId) (off : Nat) :
    Only [.lanes] s (State.laneRead s n off).2 := by
  simp only [State.laneRead]
  repeat' first
    | with_reducible apply Only.refl
    | with_reducible assumption
    | ((with_reducible apply Only.step (State.prbsErrRead_only _ _)); rfl)
    | with_reducible apply Only.ite
    | with_reducible apply Only.ite_snd
    | with_reducible apply Only.ite_fst
    | split
    | with_reducible apply Only.foldl _ (fun _ _ => ?_)
    | with_reducible apply Only.foldl_fst _ (fun _ _ => ?_)
    | fail_if_no_progress refine Only.mk (k := ?_)

theorem State.laneWrite_only (s : State) (n : LaneId) (off : Nat) (w : W32) :
    Only [.sys, .evt, .cst, .stw, .quads, .lanes, .out, .freeIdx] s (State.laneWrite s n off w) := by
  simp only [State.laneWrite]
  repeat' first
    | with_reducible apply Only.refl
    | with_reducible assumption
    | ((with_reducible apply Only.step (State.hbCfgWrite_only _ _ _)); rfl)
    | ((with_reducible apply Only.step (State.laneCtlWrite_only _ _ _)); rfl)
    | ((with_reducible apply Only.step (State.lanePrbsWrite_only _ _ _)); rfl)
    | ((with_reducible apply Only.step (State.modCom_only _ _ _)); rfl)
    | ((with_reducible apply Only.step (State.txCfgWrite_only _ _ _)); rfl)
    | with_reducible apply Only.ite
    | with_reducible apply Only.ite_snd
    | with_reducible apply Only.ite_fst
    | split
    | with_reducible apply Only.foldl _ (fun _ _ => ?_)
    | with_reducible apply Only.foldl_fst _ (fun _ _ => ?_)
    | fail_if_no_progress refine Only.mk (k := ?_)

end Sys2Proof.Machine
end

