-- ==== Sys2Proof/Laws/OnlyDownstream.lean ====
section
/-!
SUPPORT. What the operations of Machine/Downstream.lean may change.
-/
namespace Sys2Proof.Machine

set_option Elab.async false
set_option linter.unusedTactic false
set_option linter.unreachableTactic false

theorem execPsyncCandidate_only (n : LaneId) (pos : Nat) (s : State) :
    ∃ v, (execPsyncCandidate n pos s) = .next v ∧ Only [.lanes] s v := by
  refine ⟨_, rfl, ?_⟩
  try dsimp only
  repeat' first
    | with_reducible apply Only.refl
    | with_reducible assumption
    | ((with_reducible apply Only.step (State.dsCnt_only _ _ _ _)); rfl)
    | ((with_reducible apply Only.step (State.modDs_only _ _ _)); rfl)
    | with_reducible apply Only.ite
    | with_reducible apply Only.ite_snd
    | with_reducible apply Only.ite_fst
    | split
    | with_reducible apply Only.foldl _ (fun _ _ => ?_)
    | with_reducible apply Only.foldl_fst _ (fun _ _ => ?_)
    | fail_if_no_progress refine Only.mk (k := ?_)

theorem State.abandonSdu_only (s : State) (n : LaneId) (port : BitVec 16) (more : Bool) :
    Only [.sys, .lanes] s (State.abandonSdu s n port more) := by
  simp only [State.abandonSdu]
  repeat' first
    | with_reducible apply Only.refl
    | with_reducible assumption
    | ((with_reducible apply Only.step (State.dsCnt_only _ _ _ _)); rfl)
    | ((with_reducible apply Only.step (State.modDs_only _ _ _)); rfl)
    | ((with_reducible apply Only.step (State.toSump_only _ _ _ _)); rfl)
    | with_reducible apply Only.ite
    | with_reducible apply Only.ite_snd
    | with_reducible apply Only.ite_fst
    | split
    | with_reducible apply Only.foldl _ (fun _ _ => ?_)
    | with_reducible apply Only.foldl_fst _ (fun _ _ => ?_)
    | fail_if_no_progress refine Only.mk (k := ?_)

theorem State.abandonAll_only (s : State) (n : LaneId) :
    Only [.sys, .lanes] s (State.abandonAll s n) := by
  simp only [State.abandonAll]
  repeat' first
    | with_reducible apply Only.refl
    | with_reducible assumption
    | ((with_reducible apply Only.step (State.abandonSdu_only _ _ _ _)); rfl)
    | with_reducible apply Only.ite
    | with_reducible apply Only.ite_snd
    | with_reducible apply Only.ite_fst
    | split
    | with_reducible apply Only.foldl _ (fun _ _ => ?_)
    | with_reducible apply Only.foldl_fst _ (fun _ _ => ?_)
    | fail_if_no_progress refine Only.mk (k := ?_)

theorem State.ponIdRx_only (s : State) (n : LaneId) (ponId : Hec (BitVec 51)) :
    Only [.evt, .lanes] s (State.ponIdRx s n ponId) := by
  simp only [State.ponIdRx]
  repeat' first
    | with_reducible apply Only.refl
    | with_reducible assumption
    | ((with_reducible apply Only.step (State.dsCnt_only _ _ _ _)); rfl)
    | ((with_reducible apply Only.step (State.modAct_only _ _ _)); rfl)
    | ((with_reducible apply Only.step (State.modDs_only _ _ _)); rfl)
    | ((with_reducible apply Only.step (State.reportIf_only _ _ _ _ _)); rfl)
    | with_reducible apply Only.ite
    | with_reducible apply Only.ite_snd
    | with_reducible apply Only.ite_fst
    | split
    | with_reducible apply Only.foldl _ (fun _ _ => ?_)
    | with_reducible apply Only.foldl_fst _ (fun _ _ => ?_)
    | fail_if_no_progress refine Only.mk (k := ?_)

theorem State.hlendRx_only (s : State) (n : LaneId) (hlend : Hec HlEnd) :
    Only [.sys, .lanes] s (State.hlendRx s n hlend) := by
  simp only [State.hlendRx]
  repeat' first
    | with_reducible apply Only.refl
    | with_reducible assumption
    | ((with_reducible apply Only.step (State.abandonAll_only _ _)); rfl)
    | ((with_reducible apply Only.step (State.dsCnt_only _ _ _ _)); rfl)
    | ((with_reducible apply Only.step (State.modDs_only _ _ _)); rfl)
    | with_reducible apply Only.ite
    | with_reducible apply Only.ite_snd
    | with_reducible apply Only.ite_fst
    | split
    | with_reducible apply Only.foldl _ (fun _ _ => ?_)
    | with_reducible apply Only.foldl_fst _ (fun _ _ => ?_)
    | fail_if_no_progress refine Only.mk (k := ?_)

theorem State.frameRx_only (s : State) (n : LaneId) (ponId : Hec (BitVec 51)) (hlend : Hec HlEnd) :
    Only [.sys, .evt, .tim, .lanes] s (State.frameRx s n ponId hlend) := by
  simp only [State.frameRx]
  repeat' first
    | with_reducible apply Only.refl
    | with_reducible assumption
    | ((with_reducible apply Only.step (State.dsCnt_only _ _ _ _)); rfl)
    | ((with_reducible apply Only.step (State.hlendRx_only _ _ _)); rfl)
    | ((with_reducible apply Only.step (State.modDs_only _ _ _)); rfl)
    | ((with_reducible apply Only.step (State.ponIdRx_only _ _ _)); rfl)
    | with_reducible apply Only.ite
    | with_reducible apply Only.ite_snd
    | with_reducible apply Only.ite_fst
    | split
    | with_reducible apply Only.foldl _ (fun _ _ => ?_)
    | with_reducible apply Only.foldl_fst _ (fun _ _ => ?_)
    | fail_if_no_progress refine Only.mk (k := ?_)

theorem execCandidateCheckPoint_only (n : LaneId) (pos bitErrs : Nat) (sfc ponId : Hec (BitVec 51)) (hlend : Hec HlEnd) (s : State) :
    ∃ v, (execCandidateCheckPoint n pos bitErrs sfc ponId hlend s) = .next v ∧ Only [.sys, .evt, .tim, .cst, .stw, .lanes, .out, .freeIdx] s v := by
  refine ⟨_, rfl, ?_⟩
  try dsimp only
  repeat' first
    | with_reducible apply Only.refl
    | with_reducible assumption
    | ((with_reducible apply Only.step (State.dsCnt_only _ _ _ _)); rfl)
    | ((with_reducible apply Only.step (State.frameRx_only _ _ _ _)); rfl)
    | ((with_reducible apply Only.step (State.judgeLock_only _ _)); rfl)
    | ((with_reducible apply Only.step (State.modDs_only _ _ _)); rfl)
    | ((with_reducible apply Only.step (State.syncGained_only _ _)); rfl)
    | with_reducible apply Only.ite
    | with_reducible apply Only.ite_snd
    | with_reducible apply Only.ite_fst
    | split
    | with_reducible apply Only.foldl _ (fun _ _ => ?_)
    | with_reducible apply Only.foldl_fst _ (fun _ _ => ?_)
    | fail_if_no_progress refine Only.mk (k := ?_)

theorem State.sfcRx_only (s : State) (n : LaneId) (sfc : Hec (BitVec 51)) :
    Only [.lanes] s (State.sfcRx s n sfc) := by
  simp only [State.sfcRx]
  repeat' first
    | with_reducible apply Only.refl
    | with_reducible assumption
    | ((with_reducible apply Only.step (State.dsCnt_only _ _ _ _)); rfl)
    | ((with_reducible apply Only.step (State.modDs_only _ _ _)); rfl)
    | with_reducible apply Only.ite
    | with_reducible apply Only.ite_snd
    | with_reducible apply Only.ite_fst
    | split
    | with_reducible apply Only.foldl _ (fun _ _ => ?_)
    | with_reducible apply Only.foldl_fst _ (fun _ _ => ?_)
    | fail_if_no_progress refine Only.mk (k := ?_)

theorem State.lofEntry_only (s : State) (n : LaneId) :
    Only [.sys, .evt, .cst, .stw, .quads, .lanes, .out, .freeIdx] s (State.lofEntry s n) := by
  simp only [State.lofEntry]
  repeat' first
    | with_reducible apply Only.refl
    | with_reducible assumption
    | ((with_reducible apply Only.step (State.dsCnt_only _ _ _ _)); rfl)
    | ((with_reducible apply Only.step (State.huntLine_only _ _)); rfl)
    | ((with_reducible apply Only.step (State.report_only _ _ _ _)); rfl)
    | with_reducible apply Only.ite
    | with_reducible apply Only.ite_snd
    | with_reducible apply Only.ite_fst
    | split
    | with_reducible apply Only.foldl _ (fun _ _ => ?_)
    | with_reducible apply Only.foldl_fst _ (fun _ _ => ?_)
    | fail_if_no_progress refine Only.mk (k := ?_)

theorem execDsFrame_only (n : LaneId) (bitErrs : Nat) (sfc ponId : Hec (BitVec 51)) (hlend : Hec HlEnd) (s : State) :
    ∃ v, (execDsFrame n bitErrs sfc ponId hlend s) = .next v ∧ Only [.sys, .evt, .tim, .cst, .stw, .quads, .lanes, .out, .freeIdx] s v := by
  refine ⟨_, rfl, ?_⟩
  try dsimp only
  repeat' first
    | with_reducible apply Only.refl
    | with_reducible assumption
    | ((with_reducible apply Only.step (State.dsCnt_only _ _ _ _)); rfl)
    | ((with_reducible apply Only.step (State.frameRx_only _ _ _ _)); rfl)
    | ((with_reducible apply Only.step (State.lofEntry_only _ _)); rfl)
    | ((with_reducible apply Only.step (State.modDs_only _ _ _)); rfl)
    | ((with_reducible apply Only.step (State.sfcRx_only _ _ _)); rfl)
    | with_reducible apply Only.ite
    | with_reducible apply Only.ite_snd
    | with_reducible apply Only.ite_fst
    | split
    | with_reducible apply Only.foldl _ (fun _ _ => ?_)
    | with_reducible apply Only.foldl_fst _ (fun _ _ => ?_)
    | fail_if_no_progress refine Only.mk (k := ?_)

theorem State.huntRestart_only (s : State) (n : LaneId) :
    Only [.sys, .evt, .cst, .stw, .quads, .lanes, .out, .freeIdx] s (State.huntRestart s n) := by
  simp only [State.huntRestart]
  repeat' first
    | with_reducible apply Only.refl
    | with_reducible assumption
    | ((with_reducible apply Only.step (State.huntLine_only _ _)); rfl)
    | with_reducible apply Only.ite
    | with_reducible apply Only.ite_snd
    | with_reducible apply Only.ite_fst
    | split
    | with_reducible apply Only.foldl _ (fun _ _ => ?_)
    | with_reducible apply Only.foldl_fst _ (fun _ _ => ?_)
    | fail_if_no_progress refine Only.mk (k := ?_)

theorem execHuntRestart_only (p : Port) (n : LaneId) (s : State) :
    ∃ v, (execHuntRestart p n s) = .next v ∧ Only [.sys, .evt, .hif, .cst, .stw, .quads, .lanes, .out, .freeIdx] s v := by
  refine ⟨_, rfl, ?_⟩
  try dsimp only
  repeat' first
    | with_reducible apply Only.refl
    | with_reducible assumption
    | ((with_reducible apply Only.step (State.huntRestart_only _ _)); rfl)
    | ((with_reducible apply State.writeLane_only); rfl)
    | with_reducible apply Only.ite
    | with_reducible apply Only.ite_snd
    | with_reducible apply Only.ite_fst
    | with_reducible intro _
    | split
    | with_reducible apply Only.foldl _ (fun _ _ => ?_)
    | with_reducible apply Only.foldl_fst _ (fun _ _ => ?_)
    | fail_if_no_progress refine Only.mk (k := ?_)

theorem execFecCodeword_only (n : LaneId) (byteErrs : Nat) (s : State) :
    ∃ v, (execFecCodeword n byteErrs s) = .next v ∧ Only [.lanes] s v := by
  refine ⟨_, rfl, ?_⟩
  try dsimp only
  repeat' first
    | with_reducible apply Only.refl
    | with_reducible assumption
    | ((with_reducible apply Only.step (State.dsCnt_only _ _ _ _)); rfl)
    | ((with_reducible apply Only.step (State.modDs_only _ _ _)); rfl)
    | with_reducible apply Only.ite
    | with_reducible apply Only.ite_snd
    | with_reducible apply Only.ite_fst
    | split
    | with_reducible apply Only.foldl _ (fun _ _ => ?_)
    | with_reducible apply Only.foldl_fst _ (fun _ _ => ?_)
    | fail_if_no_progress refine Only.mk (k := ?_)

theorem execFecWindowEnd_only (n : LaneId) (s : State) :
    ∃ v, (execFecWindowEnd n s) = .next v ∧ Only [.evt, .lanes] s v := by
  refine ⟨_, rfl, ?_⟩
  try dsimp only
  repeat' first
    | with_reducible apply Only.refl
    | with_reducible assumption
    | ((with_reducible apply Only.step (State.modDs_only _ _ _)); rfl)
    | ((with_reducible apply Only.step (State.reportIf_only _ _ _ _ _)); rfl)
    | with_reducible apply Only.ite
    | with_reducible apply Only.ite_snd
    | with_reducible apply Only.ite_fst
    | split
    | with_reducible apply Only.foldl _ (fun _ _ => ?_)
    | with_reducible apply Only.foldl_fst _ (fun _ _ => ?_)
    | fail_if_no_progress refine Only.mk (k := ?_)

theorem State.fecThWrite_only (s : State) (n : LaneId) (w : W32) :
    Only [.lanes] s (State.fecThWrite s n w) := by
  simp only [State.fecThWrite]
  repeat' first
    | with_reducible apply Only.refl
    | with_reducible assumption
    | ((with_reducible apply Only.step (State.modDs_only _ _ _)); rfl)
    | with_reducible apply Only.ite
    | with_reducible apply Only.ite_snd
    | with_reducible apply Only.ite_fst
    | split
    | with_reducible apply Only.foldl _ (fun _ _ => ?_)
    | with_reducible apply Only.foldl_fst _ (fun _ _ => ?_)
    | fail_if_no_progress refine Only.mk (k := ?_)

theorem execFecThWrite_only (p : Port) (n : LaneId) (w : W32) (s : State) :
    ∃ v, (execFecThWrite p n w s) = .next v ∧ Only [.evt, .hif, .lanes] s v := by
  refine ⟨_, rfl, ?_⟩
  try dsimp only
  repeat' first
    | with_reducible apply Only.refl
    | with_reducible assumption
    | ((with_reducible apply Only.step (State.fecThWrite_only _ _ _)); rfl)
    | ((with_reducible apply State.writeLane_only); rfl)
    | with_reducible apply Only.ite
    | with_reducible apply Only.ite_snd
    | with_reducible apply Only.ite_fst
    | with_reducible intro _
    | split
    | with_reducible apply Only.foldl _ (fun _ _ => ?_)
    | with_reducible apply Only.foldl_fst _ (fun _ _ => ?_)
    | fail_if_no_progress refine Only.mk (k := ?_)

theorem execAllocStructure_only (n : LaneId) (idx : Nat) (a : Hec AllocStruct) (s : State) :
    ∃ v, (execAllocStructure n idx a s) = .next v ∧ Only [.lanes] s v := by
  refine ⟨_, rfl, ?_⟩
  try dsimp only
  repeat' first
    | with_reducible apply Only.refl
    | with_reducible assumption
    | ((with_reducible apply Only.step (State.dsCnt_only _ _ _ _)); rfl)
    | ((with_reducible apply Only.step (State.modPump_only _ _ _)); rfl)
    | with_reducible apply Only.ite
    | with_reducible apply Only.ite_snd
    | with_reducible apply Only.ite_fst
    | split
    | with_reducible apply Only.foldl _ (fun _ _ => ?_)
    | with_reducible apply Only.foldl_fst _ (fun _ _ => ?_)
    | fail_if_no_progress refine Only.mk (k := ?_)

theorem execDsPloam_only (n : LaneId) (m : Ploam) (s : State) :
    ∃ v, (execDsPloam n m s) = .next v ∧ Only [.evt, .lanes] s v := by
  refine ⟨_, rfl, ?_⟩
  try dsimp only
  repeat' first
    | with_reducible apply Only.refl
    | with_reducible assumption
    | ((with_reducible apply Only.step (State.dsCnt_only _ _ _ _)); rfl)
    | ((with_reducible apply Only.step (State.modDs_only _ _ _)); rfl)
    | ((with_reducible apply Only.step (State.report_only _ _ _ _)); rfl)
    | with_reducible apply Only.ite
    | with_reducible apply Only.ite_snd
    | with_reducible apply Only.ite_fst
    | split
    | with_reducible apply Only.foldl _ (fun _ _ => ?_)
    | with_reducible apply Only.foldl_fst _ (fun _ _ => ?_)
    | fail_if_no_progress refine Only.mk (k := ?_)

theorem State.dropXgem_only (s : State) (n : LaneId) (c : Nat) (h : XgemHdr) :
    Only [.sys, .lanes] s (State.dropXgem s n c h) := by
  simp only [State.dropXgem]
  repeat' first
    | with_reducible apply Only.refl
    | with_reducible assumption
    | ((with_reducible apply Only.step (State.abandonSdu_only _ _ _ _)); rfl)
    | ((with_reducible apply Only.step (State.dsCnt_only _ _ _ _)); rfl)
    | ((with_reducible apply Only.step (State.modDs_only _ _ _)); rfl)
    | ((with_reducible apply Only.step (State.toSump_only _ _ _ _)); rfl)
    | with_reducible apply Only.ite
    | with_reducible apply Only.ite_snd
    | with_reducible apply Only.ite_fst
    | split
    | with_reducible apply Only.foldl _ (fun _ _ => ?_)
    | with_reducible apply Only.foldl_fst _ (fun _ _ => ?_)
    | fail_if_no_progress refine Only.mk (k := ?_)

theorem State.toParser_only (s : State) (q : Nat) (f : Frame) :
    Only [.sys, .quads] s (State.toParser s q f) := by
  simp only [State.toParser]
  repeat' first
    | with_reducible apply Only.refl
    | with_reducible assumption
    | ((with_reducible apply Only.step (State.modQuadN_only _ _ _)); rfl)
    | ((with_reducible apply Only.step (State.toSump_only _ _ _ _)); rfl)
    | with_reducible apply Only.ite
    | with_reducible apply Only.ite_snd
    | with_reducible apply Only.ite_fst
    | split
    | with_reducible apply Only.foldl _ (fun _ _ => ?_)
    | with_reducible apply Only.foldl_fst _ (fun _ _ => ?_)
    | fail_if_no_progress refine Only.mk (k := ?_)

theorem State.deliverSdu_only (s : State) (n : LaneId) (e : BitVec 20) (port : BitVec 16) (bytes : List Byte) (stamp : Stamp) :
    Only [.sys, .hif, .quads, .lanes] s (State.deliverSdu s n e port bytes stamp) := by
  simp only [State.deliverSdu]
  repeat' first
    | with_reducible apply Only.refl
    | with_reducible assumption
    | ((with_reducible apply Only.step (State.dsCnt_only _ _ _ _)); rfl)
    | ((with_reducible apply Only.step (State.modDs_only _ _ _)); rfl)
    | ((with_reducible apply Only.step (State.toParser_only _ _ _)); rfl)
    | with_reducible apply Only.ite
    | with_reducible apply Only.ite_snd
    | with_reducible apply Only.ite_fst
    | split
    | with_reducible apply Only.foldl _ (fun _ _ => ?_)
    | with_reducible apply Only.foldl_fst _ (fun _ _ => ?_)
    | fail_if_no_progress refine Only.mk (k := ?_)

theorem State.reassemble_only (s : State) (n : LaneId) (e : BitVec 20) (h : XgemHdr) (data : List Byte) :
    Only [.sys, .hif, .quads, .lanes] s (State.reassemble s n e h data) := by
  simp only [State.reassemble]
  repeat' first
    | with_reducible apply Only.refl
    | with_reducible assumption
    | ((with_reducible apply Only.step (State.abandonSdu_only _ _ _ _)); rfl)
    | ((with_reducible apply Only.step (State.deliverSdu_only _ _ _ _ _ _)); rfl)
    | ((with_reducible apply Only.step (State.dsCnt_only _ _ _ _)); rfl)
    | ((with_reducible apply Only.step (State.modDs_only _ _ _)); rfl)
    | ((with_reducible apply Only.step (State.toSump_only _ _ _ _)); rfl)
    | with_reducible apply Only.ite
    | with_reducible apply Only.ite_snd
    | with_reducible apply Only.ite_fst
    | split
    | with_reducible apply Only.foldl _ (fun _ _ => ?_)
    | with_reducible apply Only.foldl_fst _ (fun _ _ => ?_)
    | fail_if_no_progress refine Only.mk (k := ?_)

theorem State.portFrame_only (s : State) (n : LaneId) (e : BitVec 20) (h : XgemHdr) (at_ : Nat) (payload : List Byte) :
    Only [.sys, .evt, .hif, .quads, .lanes] s (State.portFrame s n e h at_ payload) := by
  simp only [State.portFrame]
  repeat' first
    | with_reducible apply Only.refl
    | with_reducible assumption
    | ((with_reducible apply Only.step (State.dropXgem_only _ _ _ _)); rfl)
    | ((with_reducible apply Only.step (State.dsCnt_only _ _ _ _)); rfl)
    | ((with_reducible apply Only.step (State.modAct_only _ _ _)); rfl)
    | ((with_reducible apply Only.step (State.modDs_only _ _ _)); rfl)
    | ((with_reducible apply Only.step (State.reassemble_only _ _ _ _ _)); rfl)
    | ((with_reducible apply Only.step (State.reportIf_only _ _ _ _ _)); rfl)
    | with_reducible apply Only.ite
    | with_reducible apply Only.ite_snd
    | with_reducible apply Only.ite_fst
    | split
    | with_reducible apply Only.foldl _ (fun _ _ => ?_)
    | with_reducible apply Only.foldl_fst _ (fun _ _ => ?_)
    | fail_if_no_progress refine Only.mk (k := ?_)

theorem execXgemFrameRx_only (n : LaneId) (h : Hec XgemHdr) (idle : Bool) (payload : List Byte) (s : State) :
    ∃ v, (execXgemFrameRx n h idle payload s) = .next v ∧ Only [.sys, .evt, .hif, .quads, .lanes] s v := by
  refine ⟨_, rfl, ?_⟩
  try dsimp only
  repeat' first
    | with_reducible apply Only.refl
    | with_reducible assumption
    | ((with_reducible apply Only.step (State.dropXgem_only _ _ _ _)); rfl)
    | ((with_reducible apply Only.step (State.dsCnt_only _ _ _ _)); rfl)
    | ((with_reducible apply Only.step (State.modDs_only _ _ _)); rfl)
    | ((with_reducible apply Only.step (State.portFrame_only _ _ _ _ _ _)); rfl)
    | ((with_reducible apply Only.step (State.toSump_only _ _ _ _)); rfl)
    | with_reducible apply Only.ite
    | with_reducible apply Only.ite_snd
    | with_reducible apply Only.ite_fst
    | split
    | with_reducible apply Only.foldl _ (fun _ _ => ?_)
    | with_reducible apply Only.foldl_fst _ (fun _ _ => ?_)
    | fail_if_no_progress refine Only.mk (k := ?_)

theorem execReassemblyTimeout_only (n : LaneId) (port : BitVec 16) (s : State) :
    ∃ v, (execReassemblyTimeout n port s) = .next v ∧ Only [.sys, .lanes] s v := by
  refine ⟨_, rfl, ?_⟩
  try dsimp only
  repeat' first
    | with_reducible apply Only.refl
    | with_reducible assumption
    | ((with_reducible apply Only.step (State.abandonSdu_only _ _ _ _)); rfl)
    | with_reducible apply Only.ite
    | with_reducible apply Only.ite_snd
    | with_reducible apply Only.ite_fst
    | split
    | with_reducible apply Only.foldl _ (fun _ _ => ?_)
    | with_reducible apply Only.foldl_fst _ (fun _ _ => ?_)
    | fail_if_no_progress refine Only.mk (k := ?_)

theorem State.portWriteDs_only (s : State) (n : LaneId) (i : Nat) (w : W32) :
    Only [.evt, .cst, .lanes, .out, .freeIdx] s (State.portWriteDs s n i w) := by
  simp only [State.portWriteDs]
  repeat' first
    | with_reducible apply Only.refl
    | with_reducible assumption
    | ((with_reducible apply Only.step (State.modDs_only _ _ _)); rfl)
    | ((with_reducible apply Only.step (State.probe_only _ _)); rfl)
    | with_reducible apply Only.ite
    | with_reducible apply Only.ite_snd
    | with_reducible apply Only.ite_fst
    | split
    | with_reducible apply Only.foldl _ (fun _ _ => ?_)
    | with_reducible apply Only.foldl_fst _ (fun _ _ => ?_)
    | fail_if_no_progress refine Only.mk (k := ?_)

theorem State.dsItem_only (s : State) (p : Port) (n : LaneId) (i : Nat) :
    Only [.latches] s (State.dsItem s p n i).2 := by
  simp only [State.dsItem]
  repeat' first
    | with_reducible apply Only.refl
    | with_reducible assumption
    | ((with_reducible apply Only.step (State.readPair_only _ _ _ _ _)); rfl)
    | with_reducible apply Only.ite
    | with_reducible apply Only.ite_snd
    | with_reducible apply Only.ite_fst
    | split
    | with_reducible apply Only.foldl _ (fun _ _ => ?_)
    | with_reducible apply Only.foldl_fst _ (fun _ _ => ?_)
    | fail_if_no_progress refine Only.mk (k := ?_)

theorem State.dsWinRead_only (s : State) (p : Port) (n : LaneId) :
    Only [.lanes, .latches] s (State.dsWinRead s p n).2 := by
  simp only [State.dsWinRead]
  repeat' first
    | with_reducible apply Only.refl
    | with_reducible assumption
    | ((with_reducible apply Only.step (State.dsItem_only _ _ _ _)); rfl)
    | ((with_reducible apply Only.step (State.modDs_only _ _ _)); rfl)
    | (rename_i hh; with_reducible apply triple_eq at hh; obtain ⟨rfl, rfl, rfl⟩ := hh)
    | (rename_i hh; with_reducible apply pair_eq at hh; obtain ⟨rfl, rfl⟩ := hh)
    | (rename_i hh; with_reducible apply pair_eq at hh; obtain ⟨-, rfl⟩ := hh)
    | (rename_i hh; with_reducible apply pair_eq at hh; obtain ⟨rfl, -⟩ := hh)
    | with_reducible apply Only.ite
    | with_reducible apply Only.ite_snd
    | with_reducible apply Only.ite_fst
    | split
    | with_reducible apply Only.foldl _ (fun _ _ => ?_)
    | with_reducible apply Only.foldl_fst _ (fun _ _ => ?_)
    | fail_if_no_progress refine Only.mk (k := ?_)

theorem State.dsWinWrite_only (s : State) (n : LaneId) (w : W32) :
    Only [.evt, .cst, .lanes, .out, .freeIdx] s (State.dsWinWrite s n w) := by
  simp only [State.dsWinWrite]
  repeat' first
    | with_reducible apply Only.refl
    | with_reducible assumption
    | ((with_reducible apply Only.step (State.modDs_only _ _ _)); rfl)
    | ((with_reducible apply Only.step (State.portWriteDs_only _ _ _ _)); rfl)
    | with_reducible apply Only.ite
    | with_reducible apply Only.ite_snd
    | with_reducible apply Only.ite_fst
    | split
    | with_reducible apply Only.foldl _ (fun _ _ => ?_)
    | with_reducible apply Only.foldl_fst _ (fun _ _ => ?_)
    | fail_if_no_progress refine Only.mk (k := ?_)

theorem State.dsCntClr_only (s : State) (n : LaneId) :
    Only [.lanes] s (State.dsCntClr s n) := by
  simp only [State.dsCntClr]
  repeat' first
    | with_reducible apply Only.refl
    | with_reducible assumption
    | ((with_reducible apply Only.step (State.modDs_only _ _ _)); rfl)
    | with_reducible apply Only.ite
    | with_reducible apply Only.ite_snd
    | with_reducible apply Only.ite_fst
    | split
    | with_reducible apply Only.foldl _ (fun _ _ => ?_)
    | with_reducible apply Only.foldl_fst _ (fun _ _ => ?_)
    | fail_if_no_progress refine Only.mk (k := ?_)

theorem State.dsCtlWrite_only (s : State) (n : LaneId) (w : W32) :
    Only [.sys, .evt, .cst, .stw, .quads, .lanes, .out, .freeIdx] s (State.dsCtlWrite s n w) := by
  simp only [State.dsCtlWrite]
  repeat' first
    | with_reducible apply Only.refl
    | with_reducible assumption
    | ((with_reducible apply Only.step (State.dsCntClr_only _ _)); rfl)
    | ((with_reducible apply Only.step (State.huntRestart_only _ _)); rfl)
    | ((with_reducible apply Only.step (State.modDs_only _ _ _)); rfl)
    | with_reducible apply Only.ite
    | with_reducible apply Only.ite_snd
    | with_reducible apply Only.ite_fst
    | split
    | with_reducible apply Only.foldl _ (fun _ _ => ?_)
    | with_reducible apply Only.foldl_fst _ (fun _ _ => ?_)
    | fail_if_no_progress refine Only.mk (k := ?_)

theorem State.dsRead_only (s : State) (p : Port) (n : LaneId) (off : Nat) :
    Only [.lanes, .latches] s (State.dsRead s p n off).2 := by
  simp only [State.dsRead]
  repeat' first
    | with_reducible apply Only.refl
    | with_reducible assumption
    | ((with_reducible apply Only.step (State.dsWinRead_only _ _ _)); rfl)
    | with_reducible apply Only.ite
    | with_reducible apply Only.ite_snd
    | with_reducible apply Only.ite_fst
    | split
    | with_reducible apply Only.foldl _ (fun _ _ => ?_)
    | with_reducible apply Only.foldl_fst _ (fun _ _ => ?_)
    | fail_if_no_progress refine Only.mk (k := ?_)

theorem State.dsWrite_only (s : State) (n : LaneId) (off : Nat) (w : W32) :
    Only [.sys, .evt, .cst, .stw, .quads, .lanes, .out, .freeIdx] s (State.dsWrite s n off w) := by
  simp only [State.dsWrite]
  repeat' first
    | with_reducible apply Only.refl
    | with_reducible assumption
    | ((with_reducible apply Only.step (State.dsCtlWrite_only _ _ _)); rfl)
    | ((with_reducible apply Only.step (State.dsWinWrite_only _ _ _)); rfl)
    | ((with_reducible apply Only.step (State.fecThWrite_only _ _ _)); rfl)
    | ((with_reducible apply Only.step (State.modDs_only _ _ _)); rfl)
    | with_reducible apply Only.ite
    | with_reducible apply Only.ite_snd
    | with_reducible apply Only.ite_fst
    | split
    | with_reducible apply Only.foldl _ (fun _ _ => ?_)
    | with_reducible apply Only.foldl_fst _ (fun _ _ => ?_)
    | fail_if_no_progress refine Only.mk (k := ?_)

theorem execPortTableWrite_only (p : Port) (n : LaneId) (w : W32) (s : State) :
    ∃ v, (execPortTableWrite p n w s) = .next v ∧ Only [.evt, .hif, .cst, .lanes, .out, .freeIdx] s v := by
  refine ⟨_, rfl, ?_⟩
  try dsimp only
  repeat' first
    | with_reducible apply Only.refl
    | with_reducible assumption
    | ((with_reducible apply Only.step (State.dsWinWrite_only _ _ _)); rfl)
    | ((with_reducible apply State.writeLane_only); rfl)
    | with_reducible apply Only.ite
    | with_reducible apply Only.ite_snd
    | with_reducible apply Only.ite_fst
    | with_reducible intro _
    | split
    | with_reducible apply Only.foldl _ (fun _ _ => ?_)
    | with_reducible apply Only.foldl_fst _ (fun _ _ => ?_)
    | fail_if_no_progress refine Only.mk (k := ?_)

theorem execDsCntClr_only (p : Port) (n : LaneId) (s : State) :
    ∃ v, (execDsCntClr p n s) = .next v ∧ Only [.evt, .hif, .lanes] s v := by
  refine ⟨_, rfl, ?_⟩
  try dsimp only
  repeat' first
    | with_reducible apply Only.refl
    | with_reducible assumption
    | ((with_reducible apply Only.step (State.dsCntClr_only _ _)); rfl)
    | ((with_reducible apply State.writeLane_only); rfl)
    | with_reducible apply Only.ite
    | with_reducible apply Only.ite_snd
    | with_reducible apply Only.ite_fst
    | with_reducible intro _
    | split
    | with_reducible apply Only.foldl _ (fun _ _ => ?_)
    | with_reducible apply Only.foldl_fst _ (fun _ _ => ?_)
    | fail_if_no_progress refine Only.mk (k := ?_)

theorem execDsWinAccess_only (p : Port) (n : LaneId) (acc : Option W32) (s : State) :
    ∃ v, (execDsWinAccess p n acc s) = .next v ∧ Only [.evt, .hif, .cst, .lanes, .latches, .out, .freeIdx] s v := by
  refine ⟨_, rfl, ?_⟩
  try dsimp only
  repeat' first
    | with_reducible apply Only.refl
    | with_reducible assumption
    | ((with_reducible apply Only.step (State.dsWinRead_only _ _ _)); rfl)
    | ((with_reducible apply Only.step (State.dsWinWrite_only _ _ _)); rfl)
    | ((with_reducible apply State.readLane_only); rfl)
    | ((with_reducible apply State.writeLane_only); rfl)
    | with_reducible apply Only.ite
    | with_reducible apply Only.ite_snd
    | with_reducible apply Only.ite_fst
    | with_reducible intro _
    | split
    | with_reducible apply Only.foldl _ (fun _ _ => ?_)
    | with_reducible apply Only.foldl_fst _ (fun _ _ => ?_)
    | fail_if_no_progress refine Only.mk (k := ?_)

end Sys2Proof.Machine
end

