-- ==== Sys2Proof/Laws/OnlyQuadOps.lean ====
section
/-!
SUPPORT. What the operations of Machine/QuadOps.lean may change.
-/
namespace Sys2Proof.Machine

set_option Elab.async false
set_option linter.unusedTactic false
set_option linter.unreachableTactic false

theorem State.fragmentsLost_only (s : State) (n : LaneId) :
    Only [.sys, .lanes] s (State.fragmentsLost s n) := by
  simp only [State.fragmentsLost]
  repeat' first
    | with_reducible apply Only.refl
    | with_reducible assumption
    | ((with_reducible apply Only.step (State.dsCnt_only _ _ _ _)); rfl)
    | ((with_reducible apply Only.step (State.modDs_only _ _ _)); rfl)
    | ((with_reducible apply Only.step (State.sumpN_only _ _ _ _ _)); rfl)
    | with_reducible apply Only.ite
    | with_reducible apply Only.ite_snd
    | with_reducible apply Only.ite_fst
    | split
    | with_reducible apply Only.foldl _ (fun _ _ => ?_)
    | with_reducible apply Only.foldl_fst _ (fun _ _ => ?_)
    | fail_if_no_progress refine Only.mk (k := ?_)

theorem State.quadDiscard_only (s : State) (q : Nat) :
    Only [.sys, .evt, .fbk, .quads, .lanes] s (State.quadDiscard s q) := by
  simp only [State.quadDiscard]
  repeat' first
    | with_reducible apply Only.refl
    | with_reducible assumption
    | ((with_reducible apply Only.step (State.floats_only _ _)); rfl)
    | ((with_reducible apply Only.step (State.fragmentsLost_only _ _)); rfl)
    | ((with_reducible apply Only.step (State.modQuadN_only _ _ _)); rfl)
    | ((with_reducible apply Only.step (State.resubst_only _)); rfl)
    | ((with_reducible apply Only.step (State.sumpN_only _ _ _ _ _)); rfl)
    | with_reducible apply Only.ite
    | with_reducible apply Only.ite_snd
    | with_reducible apply Only.ite_fst
    | split
    | with_reducible apply Only.foldl _ (fun _ _ => ?_)
    | with_reducible apply Only.foldl_fst _ (fun _ _ => ?_)
    | fail_if_no_progress refine Only.mk (k := ?_)

theorem State.quadSpilled_only (s : State) (q cause : Nat) :
    Only [.sys, .quads] s (State.quadSpilled s q cause) := by
  simp only [State.quadSpilled]
  repeat' first
    | with_reducible apply Only.refl
    | with_reducible assumption
    | ((with_reducible apply Only.step (State.modQuadN_only _ _ _)); rfl)
    | ((with_reducible apply Only.step (State.sumpN_only _ _ _ _ _)); rfl)
    | with_reducible apply Only.ite
    | with_reducible apply Only.ite_snd
    | with_reducible apply Only.ite_fst
    | split
    | with_reducible apply Only.foldl _ (fun _ _ => ?_)
    | with_reducible apply Only.foldl_fst _ (fun _ _ => ?_)
    | fail_if_no_progress refine Only.mk (k := ?_)

theorem State.restartLine_only (s : State) (n : LaneId) :
    Only [.evt, .cst, .stw, .quads, .lanes, .out, .freeIdx] s (State.restartLine s n) := by
  simp only [State.restartLine]
  repeat' first
    | with_reducible apply Only.refl
    | with_reducible assumption
    | ((with_reducible apply Only.step (State.exitTo11_only _ _ _)); rfl)
    | with_reducible apply Only.ite
    | with_reducible apply Only.ite_snd
    | with_reducible apply Only.ite_fst
    | split
    | with_reducible apply Only.foldl _ (fun _ _ => ?_)
    | with_reducible apply Only.foldl_fst _ (fun _ _ => ?_)
    | fail_if_no_progress refine Only.mk (k := ?_)

theorem State.freshAct_only (s : State) (n : LaneId) (why : BitVec 3) :
    Only [.evt, .cst, .stw, .lanes, .out, .freeIdx] s (State.freshAct s n why) := by
  simp only [State.freshAct]
  repeat' first
    | with_reducible apply Only.refl
    | with_reducible assumption
    | ((with_reducible apply Only.step (State.fromO11_only _ _)); rfl)
    | ((with_reducible apply Only.step (State.modAct_only _ _ _)); rfl)
    | with_reducible apply Only.ite
    | with_reducible apply Only.ite_snd
    | with_reducible apply Only.ite_fst
    | split
    | with_reducible apply Only.foldl _ (fun _ _ => ?_)
    | with_reducible apply Only.foldl_fst _ (fun _ _ => ?_)
    | fail_if_no_progress refine Only.mk (k := ?_)

theorem State.quadReset_only (s : State) (q : Nat) :
    Only [.sys, .evt, .cst, .tbl, .fbk, .stw, .quads, .lanes, .out, .freeIdx] s (State.quadReset s q) := by
  simp only [State.quadReset]
  repeat' first
    | with_reducible apply Only.refl
    | with_reducible assumption
    | ((with_reducible apply Only.step (State.dropFrames_only _ _ _ _)); rfl)
    | ((with_reducible apply Only.step (State.freshAct_only _ _ _)); rfl)
    | ((with_reducible apply Only.step (State.quadDiscard_only _ _)); rfl)
    | ((with_reducible apply Only.step (State.quadSpilled_only _ _ _)); rfl)
    | ((with_reducible apply Only.step (State.restartLine_only _ _)); rfl)
    | with_reducible apply Only.ite
    | with_reducible apply Only.ite_snd
    | with_reducible apply Only.ite_fst
    | split
    | with_reducible apply Only.foldl _ (fun _ _ => ?_)
    | with_reducible apply Only.foldl_fst _ (fun _ _ => ?_)
    | fail_if_no_progress refine Only.mk (k := ?_)

end Sys2Proof.Machine
end

