-- ==== Sys2Proof/Laws/OnlyTableOps.lean ====
section
/-!
SUPPORT. What the operations of Machine/TableOps.lean may change.
-/
namespace Sys2Proof.Machine

set_option Elab.async false
set_option linter.unusedTactic false
set_option linter.unreachableTactic false

theorem State.onCopies_only (s : State) (flow : Bool) (k : TblKey) (f : TblEntry → TblEntry) :
    Only [.tbl] s (State.onCopies s flow k f) := by
  simp only [State.onCopies]
  repeat' first
    | with_reducible apply Only.refl
    | with_reducible assumption
    | with_reducible apply Only.ite
    | with_reducible apply Only.ite_snd
    | with_reducible apply Only.ite_fst
    | split
    | with_reducible apply Only.foldl _ (fun _ _ => ?_)
    | with_reducible apply Only.foldl_fst _ (fun _ _ => ?_)
    | fail_if_no_progress refine Only.mk (k := ?_)

end Sys2Proof.Machine
end

