-- ==== Sys2Proof/Laws/OnlyCstOps.lean ====
section
/-!
SUPPORT. What the operations of Machine/CstOps.lean may change.
-/
namespace Sys2Proof.Machine

set_option Elab.async false
set_option linter.unusedTactic false
set_option linter.unreachableTactic false

theorem State.partFree_only {α : Type} (s : State) (p : α → Bool) (l : List α) : Only [.freeIdx] s (s.partFree p l).2.2 := by
  induction l generalizing s with
  | nil => exact Only.refl _ _
  | cons x t ih =>
    simp only [State.partFree]
    repeat' first
      | split
      | exact ih _
      | exact Only.step (ih _) rfl (State.tookFree_only _)

theorem State.queueLoseLines_only (s : State) (q : Nat) (down : Bool) (j : Nat) :
    Only [.sys, .quads, .freeIdx] s (State.queueLoseLines s q down j) := by
  simp only [State.queueLoseLines]
  repeat' first
    | with_reducible apply Only.refl
    | with_reducible assumption
    | ((with_reducible apply Only.step (State.modTm_only _ _ _ _)); rfl)
    | ((with_reducible apply Only.step (State.partFree_only _ _ _)); rfl)
    | ((with_reducible apply Only.step (State.sumpN_only _ _ _ _ _)); rfl)
    | (rename_i hh; with_reducible apply triple_eq at hh; obtain ⟨rfl, rfl, rfl⟩ := hh)
    | (rename_i hh; with_reducible apply pair_eq at hh; obtain ⟨rfl, rfl⟩ := hh)
    | (rename_i hh; with_reducible apply pair_eq at hh; obtain ⟨-, rfl⟩ := hh)
    | (rename_i hh; with_reducible apply pair_eq at hh; obtain ⟨rfl, -⟩ := hh)
    | with_reducible apply Only.ite
    | with_reducible apply Only.ite_snd
    | with_reducible apply Only.ite_fst
    | split
    | with_reducible apply Only.foldl _ (fun _ _ => ?_)
    | with_reducible apply Only.foldl_fst _ (fun _ _ => ?_)
    | fail_if_no_progress refine Only.mk (k := ?_)

theorem State.loseLines_only (s : State) :
    Only [.sys, .cst, .quads, .freeIdx] s (State.loseLines s) := by
  simp only [State.loseLines]
  repeat' first
    | with_reducible apply Only.refl
    | with_reducible assumption
    | ((with_reducible apply Only.step (State.grpCnt_only _ _ _ _)); rfl)
    | ((with_reducible apply Only.step (State.modGroup_only _ _ _)); rfl)
    | ((with_reducible apply Only.step (State.partFree_only _ _ _)); rfl)
    | ((with_reducible apply Only.step (State.queueLoseLines_only _ _ _ _)); rfl)
    | ((with_reducible apply Only.step (State.toSump_only _ _ _ _)); rfl)
    | (rename_i hh; with_reducible apply triple_eq at hh; obtain ⟨rfl, rfl, rfl⟩ := hh)
    | (rename_i hh; with_reducible apply pair_eq at hh; obtain ⟨rfl, rfl⟩ := hh)
    | (rename_i hh; with_reducible apply pair_eq at hh; obtain ⟨-, rfl⟩ := hh)
    | (rename_i hh; with_reducible apply pair_eq at hh; obtain ⟨rfl, -⟩ := hh)
    | with_reducible apply Only.ite
    | with_reducible apply Only.ite_snd
    | with_reducible apply Only.ite_fst
    | split
    | with_reducible apply Only.foldl _ (fun _ _ => ?_)
    | with_reducible apply Only.foldl_fst _ (fun _ _ => ?_)
    | fail_if_no_progress refine Only.mk (k := ?_)

theorem State.loseBuckets_only (s : State) (d : Nat) :
    Only [.tbl] s (State.loseBuckets s d) := by
  simp only [State.loseBuckets]
  repeat' first
    | with_reducible apply Only.refl
    | with_reducible assumption
    | with_reducible apply Only.ite
    | with_reducible apply Only.ite_snd
    | with_reducible apply Only.ite_fst
    | split
    | with_reducible apply Only.foldl _ (fun _ _ => ?_)
    | with_reducible apply Only.foldl_fst _ (fun _ _ => ?_)
    | fail_if_no_progress refine Only.mk (k := ?_)

theorem State.cstEnter_only (s : State) (m : CstMode) :
    Only [.evt, .cst] s (State.cstEnter s m) := by
  simp only [State.cstEnter]
  repeat' first
    | with_reducible apply Only.refl
    | with_reducible assumption
    | ((with_reducible apply Only.step (State.report_only _ _ _ _)); rfl)
    | with_reducible apply Only.ite
    | with_reducible apply Only.ite_snd
    | with_reducible apply Only.ite_fst
    | split
    | with_reducible apply Only.foldl _ (fun _ _ => ?_)
    | with_reducible apply Only.foldl_fst _ (fun _ _ => ?_)
    | fail_if_no_progress refine Only.mk (k := ?_)

theorem State.loseShadows_only (s : State) :
    Only [.tbl] s (State.loseShadows s) := by
  simp only [State.loseShadows]
  repeat' first
    | with_reducible apply Only.refl
    | with_reducible assumption
    | with_reducible apply Only.ite
    | with_reducible apply Only.ite_snd
    | with_reducible apply Only.ite_fst
    | split
    | with_reducible apply Only.foldl _ (fun _ _ => ?_)
    | with_reducible apply Only.foldl_fst _ (fun _ _ => ?_)
    | fail_if_no_progress refine Only.mk (k := ?_)

end Sys2Proof.Machine
end

