-- ==== Sys2Proof/Laws/OnlyPowerOps.lean ====
section
/-!
SUPPORT. What the operations of Machine/PowerOps.lean may change.
-/
namespace Sys2Proof.Machine

set_option Elab.async false
set_option linter.unusedTactic false
set_option linter.unreachableTactic false

theorem State.rxOff_only (s : State) (n : LaneId) (retain : Bool) :
    Only [.sys, .evt, .cst, .stw, .quads, .lanes, .out, .freeIdx] s (State.rxOff s n retain) := by
  simp only [State.rxOff]
  repeat' first
    | with_reducible apply Only.refl
    | with_reducible assumption
    | ((with_reducible apply Only.step (State.modCom_only _ _ _)); rfl)
    | ((with_reducible apply Only.step (State.modLane_only _ _ _)); rfl)
    | ((with_reducible apply Only.step (State.signalGone_only _ _)); rfl)
    | with_reducible apply Only.ite
    | with_reducible apply Only.ite_snd
    | with_reducible apply Only.ite_fst
    | split
    | with_reducible apply Only.foldl _ (fun _ _ => ?_)
    | with_reducible apply Only.foldl_fst _ (fun _ _ => ?_)
    | fail_if_no_progress refine Only.mk (k := ?_)

theorem State.txOff_only (s : State) (n : LaneId) (retain : Bool) :
    Only [.sys, .quads, .lanes, .out, .freeIdx] s (State.txOff s n retain) := by
  simp only [State.txOff]
  repeat' first
    | with_reducible apply Only.refl
    | with_reducible assumption
    | ((with_reducible apply Only.step (State.cutBurst_only _ _)); rfl)
    | ((with_reducible apply Only.step (State.discardBursts_only _ _)); rfl)
    | ((with_reducible apply Only.step (State.modCom_only _ _ _)); rfl)
    | ((with_reducible apply Only.step (State.modLane_only _ _ _)); rfl)
    | with_reducible apply Only.ite
    | with_reducible apply Only.ite_snd
    | with_reducible apply Only.ite_fst
    | split
    | with_reducible apply Only.foldl _ (fun _ _ => ?_)
    | with_reducible apply Only.foldl_fst _ (fun _ _ => ?_)
    | fail_if_no_progress refine Only.mk (k := ?_)

theorem State.coresOff_only (s : State) (q : Nat) (retain : Bool) :
    Only [.evt, .fbk, .quads, .cores] s (State.coresOff s q retain) := by
  simp only [State.coresOff]
  repeat' first
    | with_reducible apply Only.refl
    | with_reducible assumption
    | ((with_reducible apply Only.step (State.resubst_only _)); rfl)
    | with_reducible apply Only.ite
    | with_reducible apply Only.ite_snd
    | with_reducible apply Only.ite_fst
    | split
    | with_reducible apply Only.foldl _ (fun _ _ => ?_)
    | with_reducible apply Only.foldl_fst _ (fun _ _ => ?_)
    | fail_if_no_progress refine Only.mk (k := ?_)

theorem State.fbkOff_only (s : State) (retain : Bool) :
    Only [.evt, .hif, .fbk, .quads, .out] s (State.fbkOff s retain) := by
  simp only [State.fbkOff]
  repeat' first
    | with_reducible apply Only.refl
    | with_reducible assumption
    | ((with_reducible apply Only.step (State.fbkDown_only _)); rfl)
    | with_reducible apply Only.ite
    | with_reducible apply Only.ite_snd
    | with_reducible apply Only.ite_fst
    | split
    | with_reducible apply Only.foldl _ (fun _ _ => ?_)
    | with_reducible apply Only.foldl_fst _ (fun _ _ => ?_)
    | fail_if_no_progress refine Only.mk (k := ?_)

theorem State.hifOff_only (s : State) :
    Only [.sys, .hif, .fbk] s (State.hifOff s) := by
  simp only [State.hifOff]
  repeat' first
    | with_reducible apply Only.refl
    | with_reducible assumption
    | ((with_reducible apply Only.step (State.toSump_only _ _ _ _)); rfl)
    | with_reducible apply Only.ite
    | with_reducible apply Only.ite_snd
    | with_reducible apply Only.ite_fst
    | split
    | with_reducible apply Only.foldl _ (fun _ _ => ?_)
    | with_reducible apply Only.foldl_fst _ (fun _ _ => ?_)
    | fail_if_no_progress refine Only.mk (k := ?_)

theorem State.timOff_only (s : State) (retain : Bool) :
    Only [.tim] s (State.timOff s retain) := by
  simp only [State.timOff]
  repeat' first
    | with_reducible apply Only.refl
    | with_reducible assumption
    | with_reducible apply Only.ite
    | with_reducible apply Only.ite_snd
    | with_reducible apply Only.ite_fst
    | split
    | with_reducible apply Only.foldl _ (fun _ _ => ?_)
    | with_reducible apply Only.foldl_fst _ (fun _ _ => ?_)
    | fail_if_no_progress refine Only.mk (k := ?_)

theorem State.cstOff_only (s : State) (d : Nat) :
    Only [.sys, .evt, .cst, .quads, .freeIdx] s (State.cstOff s d) := by
  simp only [State.cstOff]
  repeat' first
    | with_reducible apply Only.refl
    | with_reducible assumption
    | ((with_reducible apply Only.step (State.cstEnter_only _ _)); rfl)
    | ((with_reducible apply Only.step (State.loseLines_only _)); rfl)
    | with_reducible apply Only.ite
    | with_reducible apply Only.ite_snd
    | with_reducible apply Only.ite_fst
    | split
    | with_reducible apply Only.foldl _ (fun _ _ => ?_)
    | with_reducible apply Only.foldl_fst _ (fun _ _ => ?_)
    | fail_if_no_progress refine Only.mk (k := ?_)

theorem State.bootDone_only (s : State) :
    Only [.sys] s (State.bootDone s) := by
  simp only [State.bootDone]
  repeat' first
    | with_reducible apply Only.refl
    | with_reducible assumption
    | with_reducible apply Only.ite
    | with_reducible apply Only.ite_snd
    | with_reducible apply Only.ite_fst
    | split
    | with_reducible apply Only.foldl _ (fun _ _ => ?_)
    | with_reducible apply Only.foldl_fst _ (fun _ _ => ?_)
    | fail_if_no_progress refine Only.mk (k := ?_)

theorem State.loaderFail_only (s : State) (err : Byte) :
    Only [.sys, .str, .evt] s (State.loaderFail s err) := by
  simp only [State.loaderFail]
  repeat' first
    | with_reducible apply Only.refl
    | with_reducible assumption
    | ((with_reducible apply Only.step (State.bootDone_only _)); rfl)
    | ((with_reducible apply Only.step (State.report_only _ _ _ _)); rfl)
    | with_reducible apply Only.ite
    | with_reducible apply Only.ite_snd
    | with_reducible apply Only.ite_fst
    | split
    | with_reducible apply Only.foldl _ (fun _ _ => ?_)
    | with_reducible apply Only.foldl_fst _ (fun _ _ => ?_)
    | fail_if_no_progress refine Only.mk (k := ?_)

theorem State.applyBroken_only (s : State) (q : Nat) :
    Only [.sys, .str, .evt] s (State.applyBroken s q) := by
  simp only [State.applyBroken]
  repeat' first
    | with_reducible apply Only.refl
    | with_reducible assumption
    | ((with_reducible apply Only.step (State.loaderFail_only _ _)); rfl)
    | with_reducible apply Only.ite
    | with_reducible apply Only.ite_snd
    | with_reducible apply Only.ite_fst
    | split
    | with_reducible apply Only.foldl _ (fun _ _ => ?_)
    | with_reducible apply Only.foldl_fst _ (fun _ _ => ?_)
    | fail_if_no_progress refine Only.mk (k := ?_)

theorem State.quadOff_only (s : State) (q : Nat) (retain : Bool) :
    Only [.sys, .str, .evt, .cst, .tbl, .fbk, .stw, .quads, .lanes, .out, .freeIdx] s (State.quadOff s q retain) := by
  simp only [State.quadOff]
  repeat' first
    | with_reducible apply Only.refl
    | with_reducible assumption
    | ((with_reducible apply Only.step (State.applyBroken_only _ _)); rfl)
    | ((with_reducible apply Only.step (State.quadDiscard_only _ _)); rfl)
    | ((with_reducible apply Only.step (State.quadReset_only _ _)); rfl)
    | with_reducible apply Only.ite
    | with_reducible apply Only.ite_snd
    | with_reducible apply Only.ite_fst
    | split
    | with_reducible apply Only.foldl _ (fun _ _ => ?_)
    | with_reducible apply Only.foldl_fst _ (fun _ _ => ?_)
    | fail_if_no_progress refine Only.mk (k := ?_)

theorem State.leaveOn_only (s : State) (d : Nat) (retain : Bool) :
    Only [.sys, .str, .evt, .tim, .hif, .cst, .tbl, .fbk, .stw, .quads, .cores, .lanes, .out, .freeIdx] s (State.leaveOn s d retain) := by
  simp only [State.leaveOn]
  repeat' first
    | with_reducible apply Only.refl
    | with_reducible assumption
    | ((with_reducible apply Only.step (State.coresOff_only _ _ _)); rfl)
    | ((with_reducible apply Only.step (State.cstOff_only _ _)); rfl)
    | ((with_reducible apply Only.step (State.fbkOff_only _ _)); rfl)
    | ((with_reducible apply Only.step (State.hifOff_only _)); rfl)
    | ((with_reducible apply Only.step (State.modLane_only _ _ _)); rfl)
    | ((with_reducible apply Only.step (State.quadOff_only _ _ _)); rfl)
    | ((with_reducible apply Only.step (State.rxOff_only _ _ _)); rfl)
    | ((with_reducible apply Only.step (State.timOff_only _ _)); rfl)
    | ((with_reducible apply Only.step (State.txOff_only _ _ _)); rfl)
    | with_reducible apply Only.ite
    | with_reducible apply Only.ite_snd
    | with_reducible apply Only.ite_fst
    | split
    | with_reducible apply Only.foldl _ (fun _ _ => ?_)
    | with_reducible apply Only.foldl_fst _ (fun _ _ => ?_)
    | fail_if_no_progress refine Only.mk (k := ?_)

theorem State.markDom_only (s : State) (d : Nat) (on ret : Bool) :
    Only [.pwr] s (State.markDom s d on ret) := by
  simp only [State.markDom]
  repeat' first
    | with_reducible apply Only.refl
    | with_reducible assumption
    | with_reducible apply Only.ite
    | with_reducible apply Only.ite_snd
    | with_reducible apply Only.ite_fst
    | split
    | with_reducible apply Only.foldl _ (fun _ _ => ?_)
    | with_reducible apply Only.foldl_fst _ (fun _ _ => ?_)
    | fail_if_no_progress refine Only.mk (k := ?_)

theorem State.dropDom_only (s : State) (d : Nat) :
    Only [.sys, .str, .pwr, .evt, .tim, .hif, .cst, .tbl, .fbk, .stw, .quads, .cores, .lanes, .out, .freeIdx] s (State.dropDom s d) := by
  simp only [State.dropDom]
  repeat' first
    | with_reducible apply Only.refl
    | with_reducible assumption
    | ((with_reducible apply Only.step (State.leaveOn_only _ _ _)); rfl)
    | ((with_reducible apply Only.step (State.markDom_only _ _ _ _)); rfl)
    | with_reducible apply Only.ite
    | with_reducible apply Only.ite_snd
    | with_reducible apply Only.ite_fst
    | split
    | with_reducible apply Only.foldl _ (fun _ _ => ?_)
    | with_reducible apply Only.foldl_fst _ (fun _ _ => ?_)
    | fail_if_no_progress refine Only.mk (k := ?_)

theorem State.retainOff_only (s : State) (d : Nat) :
    Only [.sys, .pwr, .evt, .hif, .cst, .tbl, .fbk, .stw, .quads, .cores, .lanes, .out, .freeIdx] s (State.retainOff s d) := by
  simp only [State.retainOff]
  repeat' first
    | with_reducible apply Only.refl
    | with_reducible assumption
    | ((with_reducible apply Only.step (State.coresOff_only _ _ _)); rfl)
    | ((with_reducible apply Only.step (State.fbkOff_only _ _)); rfl)
    | ((with_reducible apply Only.step (State.markDom_only _ _ _ _)); rfl)
    | ((with_reducible apply Only.step (State.modLane_only _ _ _)); rfl)
    | ((with_reducible apply Only.step (State.quadReset_only _ _)); rfl)
    | with_reducible apply Only.ite
    | with_reducible apply Only.ite_snd
    | with_reducible apply Only.ite_fst
    | split
    | with_reducible apply Only.foldl _ (fun _ _ => ?_)
    | with_reducible apply Only.foldl_fst _ (fun _ _ => ?_)
    | fail_if_no_progress refine Only.mk (k := ?_)

theorem State.drops_only (s : State) :
    Only [.sys, .str, .pwr, .evt, .tim, .hif, .cst, .tbl, .fbk, .stw, .quads, .cores, .lanes, .out, .freeIdx] s (State.drops s) := by
  simp only [State.drops]
  repeat' first
    | with_reducible apply Only.refl
    | with_reducible assumption
    | ((with_reducible apply Only.step (State.discardBursts_only _ _)); rfl)
    | ((with_reducible apply Only.step (State.dropDom_only _ _)); rfl)
    | ((with_reducible apply Only.step (State.retainOff_only _ _)); rfl)
    | with_reducible apply Only.ite
    | with_reducible apply Only.ite_snd
    | with_reducible apply Only.ite_fst
    | split
    | with_reducible apply Only.foldl _ (fun _ _ => ?_)
    | with_reducible apply Only.foldl_fst _ (fun _ _ => ?_)
    | fail_if_no_progress refine Only.mk (k := ?_)

theorem State.wakeEvent_only (s : State) :
    Only [.evt] s (State.wakeEvent s) := by
  simp only [State.wakeEvent]
  repeat' first
    | with_reducible apply Only.refl
    | with_reducible assumption
    | ((with_reducible apply Only.step (State.report_only _ _ _ _)); rfl)
    | with_reducible apply Only.ite
    | with_reducible apply Only.ite_snd
    | with_reducible apply Only.ite_fst
    | split
    | with_reducible apply Only.foldl _ (fun _ _ => ?_)
    | with_reducible apply Only.foldl_fst _ (fun _ _ => ?_)
    | fail_if_no_progress refine Only.mk (k := ?_)

theorem State.powerSettle_only (s : State) :
    Only [.sys, .str, .pwr, .evt, .tim, .hif, .cst, .tbl, .fbk, .stw, .quads, .cores, .lanes, .out, .freeIdx] s (State.powerSettle s) := by
  simp only [State.powerSettle]
  repeat' first
    | with_reducible apply Only.refl
    | with_reducible assumption
    | ((with_reducible apply Only.step (State.drops_only _)); rfl)
    | ((with_reducible apply Only.step (State.wakeEvent_only _)); rfl)
    | with_reducible apply Only.ite
    | with_reducible apply Only.ite_snd
    | with_reducible apply Only.ite_fst
    | split
    | with_reducible apply Only.foldl _ (fun _ _ => ?_)
    | with_reducible apply Only.foldl_fst _ (fun _ _ => ?_)
    | fail_if_no_progress refine Only.mk (k := ?_)

theorem State.cstOn_only (s : State) (d : Nat) (kept : Bool) :
    Only [.sys, .evt, .cst, .tbl, .quads, .freeIdx] s (State.cstOn s d kept) := by
  simp only [State.cstOn]
  repeat' first
    | with_reducible apply Only.refl
    | with_reducible assumption
    | ((with_reducible apply Only.step (State.cstEnter_only _ _)); rfl)
    | ((with_reducible apply Only.step (State.loseBuckets_only _ _)); rfl)
    | ((with_reducible apply Only.step (State.loseLines_only _)); rfl)
    | ((with_reducible apply Only.step (State.request_only _ _ _ _)); rfl)
    | with_reducible apply Only.ite
    | with_reducible apply Only.ite_snd
    | with_reducible apply Only.ite_fst
    | split
    | with_reducible apply Only.foldl _ (fun _ _ => ?_)
    | with_reducible apply Only.foldl_fst _ (fun _ _ => ?_)
    | fail_if_no_progress refine Only.mk (k := ?_)

theorem State.rxOn_only (s : State) (n : LaneId) (kept : Bool) :
    Only [.sys, .evt, .cst, .stw, .quads, .lanes, .out, .freeIdx] s (State.rxOn s n kept) := by
  simp only [State.rxOn]
  repeat' first
    | with_reducible apply Only.refl
    | with_reducible assumption
    | ((with_reducible apply Only.step (State.hbOffer_only _ _ _)); rfl)
    | ((with_reducible apply Only.step (State.pmStart_only _ _)); rfl)
    | ((with_reducible apply Only.step (State.rxSeed_only _ _)); rfl)
    | ((with_reducible apply Only.step (State.rxWait_only _ _)); rfl)
    | with_reducible apply Only.ite
    | with_reducible apply Only.ite_snd
    | with_reducible apply Only.ite_fst
    | split
    | with_reducible apply Only.foldl _ (fun _ _ => ?_)
    | with_reducible apply Only.foldl_fst _ (fun _ _ => ?_)
    | fail_if_no_progress refine Only.mk (k := ?_)

theorem State.enterOn_only (s : State) (d : Nat) (kept : Bool) :
    Only [.sys, .evt, .tim, .hif, .cst, .tbl, .stw, .quads, .lanes, .out, .freeIdx] s (State.enterOn s d kept) := by
  simp only [State.enterOn]
  repeat' first
    | with_reducible apply Only.refl
    | with_reducible assumption
    | ((with_reducible apply Only.step (State.cstOn_only _ _ _)); rfl)
    | ((with_reducible apply Only.step (State.restartLine_only _ _)); rfl)
    | ((with_reducible apply Only.step (State.rxOn_only _ _ _)); rfl)
    | ((with_reducible apply Only.step (State.txBegins_only _ _)); rfl)
    | with_reducible apply Only.ite
    | with_reducible apply Only.ite_snd
    | with_reducible apply Only.ite_fst
    | split
    | with_reducible apply Only.foldl _ (fun _ _ => ?_)
    | with_reducible apply Only.foldl_fst _ (fun _ _ => ?_)
    | fail_if_no_progress refine Only.mk (k := ?_)

theorem State.domGood_only (s : State) (d : Nat) :
    Only [.sys, .str, .pwr, .evt, .tim, .hif, .cst, .tbl, .fbk, .stw, .quads, .cores, .lanes, .out, .freeIdx] s (State.domGood s d) := by
  simp only [State.domGood]
  repeat' first
    | with_reducible apply Only.refl
    | with_reducible assumption
    | ((with_reducible apply Only.step (State.enterOn_only _ _ _)); rfl)
    | ((with_reducible apply Only.step (State.markDom_only _ _ _ _)); rfl)
    | ((with_reducible apply Only.step (State.powerSettle_only _)); rfl)
    | with_reducible apply Only.ite
    | with_reducible apply Only.ite_snd
    | with_reducible apply Only.ite_fst
    | split
    | with_reducible apply Only.foldl _ (fun _ _ => ?_)
    | with_reducible apply Only.foldl_fst _ (fun _ _ => ?_)
    | fail_if_no_progress refine Only.mk (k := ?_)

theorem State.wake_only (s : State) (code : Nat) (lane : BitVec 7) :
    Only [.sys, .str, .pwr, .evt, .tim, .hif, .cst, .tbl, .fbk, .stw, .quads, .cores, .lanes, .out, .freeIdx] s (State.wake s code lane) := by
  simp only [State.wake]
  repeat' first
    | with_reducible apply Only.refl
    | with_reducible assumption
    | ((with_reducible apply Only.step (State.powerSettle_only _)); rfl)
    | with_reducible apply Only.ite
    | with_reducible apply Only.ite_snd
    | with_reducible apply Only.ite_fst
    | split
    | with_reducible apply Only.foldl _ (fun _ _ => ?_)
    | with_reducible apply Only.foldl_fst _ (fun _ _ => ?_)
    | fail_if_no_progress refine Only.mk (k := ?_)

theorem State.fire_only (s : State) (code : Nat) (lane : BitVec 7) :
    Only [.sys, .str, .pwr, .evt, .tim, .hif, .cst, .tbl, .fbk, .stw, .quads, .cores, .lanes, .out, .freeIdx] s (State.fire s code lane) := by
  simp only [State.fire]
  repeat' first
    | with_reducible apply Only.refl
    | with_reducible assumption
    | ((with_reducible apply Only.step (State.wake_only _ _ _)); rfl)
    | with_reducible apply Only.ite
    | with_reducible apply Only.ite_snd
    | with_reducible apply Only.ite_fst
    | split
    | with_reducible apply Only.foldl _ (fun _ _ => ?_)
    | with_reducible apply Only.foldl_fst _ (fun _ _ => ?_)
    | fail_if_no_progress refine Only.mk (k := ?_)

end Sys2Proof.Machine
end

