-- ==== Sys2Proof/Laws/OnlyPower.lean ====
section
/-!
SUPPORT. What the operations of Machine/Power.lean may change.
-/
namespace Sys2Proof.Machine

set_option Elab.async false
set_option linter.unusedTactic false
set_option linter.unreachableTactic false

theorem State.modPwr_only (s : State) (f : Power → Power) :
    Only [.pwr] s (State.modPwr s f) := by
  simp only [State.modPwr]
  repeat' first
    | with_reducible apply Only.refl
    | with_reducible assumption
    | with_reducible apply Only.ite
    | with_reducible apply Only.ite_snd
    | with_reducible apply Only.ite_fst
    | split
    | with_reducible apply Only.foldl _ (fun _ _ => ?_)
    | with_reducible apply Only.foldl_fst _ (fun _ _ => ?_)
    | fail_if_no_progress refine Only.mk (k := ?_)

theorem State.sleepCancelled_only (s : State) (op : BitVec 2) :
    Only [.pwr, .evt] s (State.sleepCancelled s op) := by
  simp only [State.sleepCancelled]
  repeat' first
    | with_reducible apply Only.refl
    | with_reducible assumption
    | ((with_reducible apply Only.step (State.modPwr_only _ _)); rfl)
    | ((with_reducible apply Only.step (State.wakeEvent_only _)); rfl)
    | with_reducible apply Only.ite
    | with_reducible apply Only.ite_snd
    | with_reducible apply Only.ite_fst
    | split
    | with_reducible apply Only.foldl _ (fun _ _ => ?_)
    | with_reducible apply Only.foldl_fst _ (fun _ _ => ?_)
    | fail_if_no_progress refine Only.mk (k := ?_)

theorem State.sleepTo_only (s : State) (op : BitVec 2) (dest : DevState) :
    Only [.sys, .str, .pwr, .evt, .tim, .hif, .cst, .tbl, .fbk, .stw, .quads, .cores, .lanes, .out, .freeIdx] s (State.sleepTo s op dest) := by
  simp only [State.sleepTo]
  repeat' first
    | with_reducible apply Only.refl
    | with_reducible assumption
    | ((with_reducible apply Only.step (State.modPwr_only _ _)); rfl)
    | ((with_reducible apply Only.step (State.powerSettle_only _)); rfl)
    | ((with_reducible apply Only.step (State.sleepCancelled_only _ _)); rfl)
    | with_reducible apply Only.ite
    | with_reducible apply Only.ite_snd
    | with_reducible apply Only.ite_fst
    | split
    | with_reducible apply Only.foldl _ (fun _ _ => ?_)
    | with_reducible apply Only.foldl_fst _ (fun _ _ => ?_)
    | fail_if_no_progress refine Only.mk (k := ?_)

theorem State.pwrErr_only (s : State) (e : BitVec 4) :
    Only [.pwr] s (State.pwrErr s e) := by
  simp only [State.pwrErr]
  repeat' first
    | with_reducible apply Only.refl
    | with_reducible assumption
    | ((with_reducible apply Only.step (State.modPwr_only _ _)); rfl)
    | with_reducible apply Only.ite
    | with_reducible apply Only.ite_snd
    | with_reducible apply Only.ite_fst
    | split
    | with_reducible apply Only.foldl _ (fun _ _ => ?_)
    | with_reducible apply Only.foldl_fst _ (fun _ _ => ?_)
    | fail_if_no_progress refine Only.mk (k := ?_)

theorem State.doze_only (s : State) :
    Only [.sys, .str, .pwr, .evt, .tim, .hif, .cst, .tbl, .fbk, .stw, .quads, .cores, .lanes, .out, .freeIdx] s (State.doze s) := by
  simp only [State.doze]
  repeat' first
    | with_reducible apply Only.refl
    | with_reducible assumption
    | ((with_reducible apply Only.step (State.pwrErr_only _ _)); rfl)
    | ((with_reducible apply Only.step (State.sleepTo_only _ _ _)); rfl)
    | with_reducible apply Only.ite
    | with_reducible apply Only.ite_snd
    | with_reducible apply Only.ite_fst
    | split
    | with_reducible apply Only.foldl _ (fun _ _ => ?_)
    | with_reducible apply Only.foldl_fst _ (fun _ _ => ?_)
    | fail_if_no_progress refine Only.mk (k := ?_)

theorem State.standby_only (s : State) :
    Only [.sys, .str, .pwr, .evt, .tim, .hif, .cst, .tbl, .fbk, .stw, .quads, .cores, .lanes, .out, .freeIdx] s (State.standby s) := by
  simp only [State.standby]
  repeat' first
    | with_reducible apply Only.refl
    | with_reducible assumption
    | ((with_reducible apply Only.step (State.pwrErr_only _ _)); rfl)
    | ((with_reducible apply Only.step (State.sleepTo_only _ _ _)); rfl)
    | with_reducible apply Only.ite
    | with_reducible apply Only.ite_snd
    | with_reducible apply Only.ite_fst
    | split
    | with_reducible apply Only.foldl _ (fun _ _ => ?_)
    | with_reducible apply Only.foldl_fst _ (fun _ _ => ?_)
    | fail_if_no_progress refine Only.mk (k := ?_)

theorem State.runCmd_only (s : State) :
    Only [.sys, .str, .pwr, .evt, .tim, .hif, .cst, .tbl, .fbk, .stw, .quads, .cores, .lanes, .out, .freeIdx] s (State.runCmd s) := by
  simp only [State.runCmd]
  repeat' first
    | with_reducible apply Only.refl
    | with_reducible assumption
    | ((with_reducible apply Only.step (State.fire_only _ _ _)); rfl)
    | ((with_reducible apply Only.step (State.pwrErr_only _ _)); rfl)
    | with_reducible apply Only.ite
    | with_reducible apply Only.ite_snd
    | with_reducible apply Only.ite_fst
    | split
    | with_reducible apply Only.foldl _ (fun _ _ => ?_)
    | with_reducible apply Only.foldl_fst _ (fun _ _ => ?_)
    | fail_if_no_progress refine Only.mk (k := ?_)

theorem State.pwrCmd_only (s : State) (w : W32) :
    Only [.sys, .str, .pwr, .evt, .tim, .hif, .cst, .tbl, .fbk, .stw, .quads, .cores, .lanes, .out, .freeIdx] s (State.pwrCmd s w) := by
  simp only [State.pwrCmd]
  repeat' first
    | with_reducible apply Only.refl
    | with_reducible assumption
    | ((with_reducible apply Only.step (State.doze_only _)); rfl)
    | ((with_reducible apply Only.step (State.pwrErr_only _ _)); rfl)
    | ((with_reducible apply Only.step (State.runCmd_only _)); rfl)
    | ((with_reducible apply Only.step (State.standby_only _)); rfl)
    | with_reducible apply Only.ite
    | with_reducible apply Only.ite_snd
    | with_reducible apply Only.ite_fst
    | split
    | with_reducible apply Only.foldl _ (fun _ _ => ?_)
    | with_reducible apply Only.foldl_fst _ (fun _ _ => ?_)
    | fail_if_no_progress refine Only.mk (k := ?_)

theorem execRun_only (p : Port) (s : State) :
    ∃ v, (execRun p s) = .next v ∧ Only [.sys, .str, .pwr, .evt, .tim, .hif, .cst, .tbl, .fbk, .stw, .quads, .cores, .lanes, .out, .freeIdx] s v := by
  refine ⟨_, rfl, ?_⟩
  try dsimp only
  repeat' first
    | with_reducible apply Only.refl
    | with_reducible assumption
    | ((with_reducible apply Only.step (State.runCmd_only _)); rfl)
    | ((with_reducible apply State.writeIsl_only); rfl)
    | with_reducible apply Only.ite
    | with_reducible apply Only.ite_snd
    | with_reducible apply Only.ite_fst
    | with_reducible intro _
    | split
    | with_reducible apply Only.foldl _ (fun _ _ => ?_)
    | with_reducible apply Only.foldl_fst _ (fun _ _ => ?_)
    | fail_if_no_progress refine Only.mk (k := ?_)

theorem execDoze_only (p : Port) (s : State) :
    ∃ v, (execDoze p s) = .next v ∧ Only [.sys, .str, .pwr, .evt, .tim, .hif, .cst, .tbl, .fbk, .stw, .quads, .cores, .lanes, .out, .freeIdx] s v := by
  refine ⟨_, rfl, ?_⟩
  try dsimp only
  repeat' first
    | with_reducible apply Only.refl
    | with_reducible assumption
    | ((with_reducible apply Only.step (State.doze_only _)); rfl)
    | ((with_reducible apply State.writeIsl_only); rfl)
    | with_reducible apply Only.ite
    | with_reducible apply Only.ite_snd
    | with_reducible apply Only.ite_fst
    | with_reducible intro _
    | split
    | with_reducible apply Only.foldl _ (fun _ _ => ?_)
    | with_reducible apply Only.foldl_fst _ (fun _ _ => ?_)
    | fail_if_no_progress refine Only.mk (k := ?_)

theorem execStandby_only (p : Port) (s : State) :
    ∃ v, (execStandby p s) = .next v ∧ Only [.sys, .str, .pwr, .evt, .tim, .hif, .cst, .tbl, .fbk, .stw, .quads, .cores, .lanes, .out, .freeIdx] s v := by
  refine ⟨_, rfl, ?_⟩
  try dsimp only
  repeat' first
    | with_reducible apply Only.refl
    | with_reducible assumption
    | ((with_reducible apply Only.step (State.standby_only _)); rfl)
    | ((with_reducible apply State.writeIsl_only); rfl)
    | with_reducible apply Only.ite
    | with_reducible apply Only.ite_snd
    | with_reducible apply Only.ite_fst
    | with_reducible intro _
    | split
    | with_reducible apply Only.foldl _ (fun _ _ => ?_)
    | with_reducible apply Only.foldl_fst _ (fun _ _ => ?_)
    | fail_if_no_progress refine Only.mk (k := ?_)

theorem execEnterDone_only (s : State) :
    ∃ v, (execEnterDone s) = .next v ∧ Only [.pwr] s v := by
  refine ⟨_, rfl, ?_⟩
  try dsimp only
  repeat' first
    | with_reducible apply Only.refl
    | with_reducible assumption
    | ((with_reducible apply Only.step (State.modPwr_only _ _)); rfl)
    | with_reducible apply Only.ite
    | with_reducible apply Only.ite_snd
    | with_reducible apply Only.ite_fst
    | split
    | with_reducible apply Only.foldl _ (fun _ _ => ?_)
    | with_reducible apply Only.foldl_fst _ (fun _ _ => ?_)
    | fail_if_no_progress refine Only.mk (k := ?_)

theorem execRtcAlarm_only (s : State) :
    ∃ v, (execRtcAlarm s) = .next v ∧ Only [.sys, .str, .pwr, .evt, .tim, .hif, .cst, .tbl, .fbk, .stw, .quads, .cores, .lanes, .out, .freeIdx] s v := by
  refine ⟨_, rfl, ?_⟩
  try dsimp only
  repeat' first
    | with_reducible apply Only.refl
    | with_reducible assumption
    | ((with_reducible apply Only.step (State.fire_only _ _ _)); rfl)
    | ((with_reducible apply Only.step (State.modPwr_only _ _)); rfl)
    | with_reducible apply Only.ite
    | with_reducible apply Only.ite_snd
    | with_reducible apply Only.ite_fst
    | split
    | with_reducible apply Only.foldl _ (fun _ _ => ?_)
    | with_reducible apply Only.foldl_fst _ (fun _ _ => ?_)
    | fail_if_no_progress refine Only.mk (k := ?_)

theorem execWakeNLow_only (s : State) :
    ∃ v, (execWakeNLow s) = .next v ∧ Only [.sys, .str, .pwr, .evt, .tim, .hif, .cst, .tbl, .fbk, .stw, .quads, .cores, .lanes, .out, .freeIdx] s v := by
  refine ⟨_, rfl, ?_⟩
  try dsimp only
  repeat' first
    | with_reducible apply Only.refl
    | with_reducible assumption
    | ((with_reducible apply Only.step (State.fire_only _ _ _)); rfl)
    | with_reducible apply Only.ite
    | with_reducible apply Only.ite_snd
    | with_reducible apply Only.ite_fst
    | split
    | with_reducible apply Only.foldl _ (fun _ _ => ?_)
    | with_reducible apply Only.foldl_fst _ (fun _ _ => ?_)
    | fail_if_no_progress refine Only.mk (k := ?_)

theorem execPcieWake_only (perstRise : Bool) (s : State) :
    ∃ v, (execPcieWake perstRise s) = .next v ∧ Only [.sys, .str, .pwr, .evt, .tim, .hif, .cst, .tbl, .fbk, .stw, .quads, .cores, .lanes, .pins, .out, .freeIdx] s v := by
  refine ⟨_, rfl, ?_⟩
  try dsimp only
  repeat' first
    | with_reducible apply Only.refl
    | with_reducible assumption
    | ((with_reducible apply Only.step (State.fire_only _ _ _)); rfl)
    | with_reducible apply Only.ite
    | with_reducible apply Only.ite_snd
    | with_reducible apply Only.ite_fst
    | split
    | with_reducible apply Only.foldl _ (fun _ _ => ?_)
    | with_reducible apply Only.foldl_fst _ (fun _ _ => ?_)
    | fail_if_no_progress refine Only.mk (k := ?_)

theorem execEnergyDetect_only (n : LaneId) (level : Nat) (s : State) :
    ∃ v, (execEnergyDetect n level s) = .next v ∧ Only [.sys, .str, .pwr, .evt, .tim, .hif, .cst, .tbl, .fbk, .stw, .quads, .cores, .lanes, .out, .freeIdx] s v := by
  refine ⟨_, rfl, ?_⟩
  try dsimp only
  repeat' first
    | with_reducible apply Only.refl
    | with_reducible assumption
    | ((with_reducible apply Only.step (State.fire_only _ _ _)); rfl)
    | with_reducible apply Only.ite
    | with_reducible apply Only.ite_snd
    | with_reducible apply Only.ite_fst
    | split
    | with_reducible apply Only.foldl _ (fun _ _ => ?_)
    | with_reducible apply Only.foldl_fst _ (fun _ _ => ?_)
    | fail_if_no_progress refine Only.mk (k := ?_)

theorem execDomainPowerGood_only (d : DomainId) (s : State) :
    ∃ v, (execDomainPowerGood d s) = .next v ∧ Only [.sys, .str, .pwr, .evt, .tim, .hif, .cst, .tbl, .fbk, .stw, .quads, .cores, .lanes, .out, .freeIdx] s v := by
  refine ⟨_, rfl, ?_⟩
  try dsimp only
  repeat' first
    | with_reducible apply Only.refl
    | with_reducible assumption
    | ((with_reducible apply Only.step (State.domGood_only _ _)); rfl)
    | with_reducible apply Only.ite
    | with_reducible apply Only.ite_snd
    | with_reducible apply Only.ite_fst
    | split
    | with_reducible apply Only.foldl _ (fun _ _ => ?_)
    | with_reducible apply Only.foldl_fst _ (fun _ _ => ?_)
    | fail_if_no_progress refine Only.mk (k := ?_)

theorem execDomainPgTimeout_only (d : DomainId) (s : State) :
    ∃ v, (execDomainPgTimeout d s) = .next v ∧ Only [.sys, .str, .pwr, .evt, .tim, .hif, .cst, .tbl, .fbk, .stw, .quads, .cores, .lanes, .out, .freeIdx] s v := by
  refine ⟨_, rfl, ?_⟩
  try dsimp only
  repeat' first
    | with_reducible apply Only.refl
    | with_reducible assumption
    | ((with_reducible apply Only.step (State.applyBroken_only _ _)); rfl)
    | ((with_reducible apply Only.step (State.modPwr_only _ _)); rfl)
    | ((with_reducible apply Only.step (State.powerSettle_only _)); rfl)
    | ((with_reducible apply Only.step (State.report_only _ _ _ _)); rfl)
    | with_reducible apply Only.ite
    | with_reducible apply Only.ite_snd
    | with_reducible apply Only.ite_fst
    | split
    | with_reducible apply Only.foldl _ (fun _ _ => ?_)
    | with_reducible apply Only.foldl_fst _ (fun _ _ => ?_)
    | fail_if_no_progress refine Only.mk (k := ?_)

theorem State.voteHostWrite_only (s : State) (i : Nat) (w : W32) :
    Only [.sys, .str, .pwr, .evt, .tim, .hif, .cst, .tbl, .fbk, .stw, .quads, .cores, .lanes, .out, .freeIdx] s (State.voteHostWrite s i w) := by
  simp only [State.voteHostWrite]
  repeat' first
    | with_reducible apply Only.refl
    | with_reducible assumption
    | ((with_reducible apply Only.step (State.modPwr_only _ _)); rfl)
    | ((with_reducible apply Only.step (State.powerSettle_only _)); rfl)
    | with_reducible apply Only.ite
    | with_reducible apply Only.ite_snd
    | with_reducible apply Only.ite_fst
    | split
    | with_reducible apply Only.foldl _ (fun _ _ => ?_)
    | with_reducible apply Only.foldl_fst _ (fun _ _ => ?_)
    | fail_if_no_progress refine Only.mk (k := ?_)

theorem State.voteTestWrite_only (s : State) (i : Nat) (w : W32) :
    Only [.sys, .str, .pwr, .evt, .tim, .hif, .cst, .tbl, .fbk, .stw, .quads, .cores, .lanes, .out, .freeIdx] s (State.voteTestWrite s i w) := by
  simp only [State.voteTestWrite]
  repeat' first
    | with_reducible apply Only.refl
    | with_reducible assumption
    | ((with_reducible apply Only.step (State.modPwr_only _ _)); rfl)
    | ((with_reducible apply Only.step (State.powerSettle_only _)); rfl)
    | with_reducible apply Only.ite
    | with_reducible apply Only.ite_snd
    | with_reducible apply Only.ite_fst
    | split
    | with_reducible apply Only.foldl _ (fun _ _ => ?_)
    | with_reducible apply Only.foldl_fst _ (fun _ _ => ?_)
    | fail_if_no_progress refine Only.mk (k := ?_)

theorem State.domFaultClear_only (s : State) (i : Nat) (w : W32) :
    Only [.sys, .str, .pwr, .evt, .tim, .hif, .cst, .tbl, .fbk, .stw, .quads, .cores, .lanes, .out, .freeIdx] s (State.domFaultClear s i w) := by
  simp only [State.domFaultClear]
  repeat' first
    | with_reducible apply Only.refl
    | with_reducible assumption
    | ((with_reducible apply Only.step (State.modPwr_only _ _)); rfl)
    | ((with_reducible apply Only.step (State.powerSettle_only _)); rfl)
    | with_reducible apply Only.ite
    | with_reducible apply Only.ite_snd
    | with_reducible apply Only.ite_fst
    | split
    | with_reducible apply Only.foldl _ (fun _ _ => ?_)
    | with_reducible apply Only.foldl_fst _ (fun _ _ => ?_)
    | fail_if_no_progress refine Only.mk (k := ?_)

theorem execVoteHostWrite_only (p : Port) (i : Fin 7) (w : W32) (s : State) :
    ∃ v, (execVoteHostWrite p i w s) = .next v ∧ Only [.sys, .str, .pwr, .evt, .tim, .hif, .cst, .tbl, .fbk, .stw, .quads, .cores, .lanes, .out, .freeIdx] s v := by
  refine ⟨_, rfl, ?_⟩
  try dsimp only
  repeat' first
    | with_reducible apply Only.refl
    | with_reducible assumption
    | ((with_reducible apply Only.step (State.voteHostWrite_only _ _ _)); rfl)
    | ((with_reducible apply State.writeIsl_only); rfl)
    | with_reducible apply Only.ite
    | with_reducible apply Only.ite_snd
    | with_reducible apply Only.ite_fst
    | with_reducible intro _
    | split
    | with_reducible apply Only.foldl _ (fun _ _ => ?_)
    | with_reducible apply Only.foldl_fst _ (fun _ _ => ?_)
    | fail_if_no_progress refine Only.mk (k := ?_)

theorem execVoteTestWrite_only (p : Port) (i : Fin 7) (w : W32) (s : State) :
    ∃ v, (execVoteTestWrite p i w s) = .next v ∧ Only [.sys, .str, .pwr, .evt, .tim, .hif, .cst, .tbl, .fbk, .stw, .quads, .cores, .lanes, .out, .freeIdx] s v := by
  refine ⟨_, rfl, ?_⟩
  try dsimp only
  repeat' first
    | with_reducible apply Only.refl
    | with_reducible assumption
    | ((with_reducible apply Only.step (State.voteTestWrite_only _ _ _)); rfl)
    | ((with_reducible apply State.writeIsl_only); rfl)
    | with_reducible apply Only.ite
    | with_reducible apply Only.ite_snd
    | with_reducible apply Only.ite_fst
    | with_reducible intro _
    | split
    | with_reducible apply Only.foldl _ (fun _ _ => ?_)
    | with_reducible apply Only.foldl_fst _ (fun _ _ => ?_)
    | fail_if_no_progress refine Only.mk (k := ?_)

theorem execDomFaultClear_only (p : Port) (i : Fin 7) (w : W32) (s : State) :
    ∃ v, (execDomFaultClear p i w s) = .next v ∧ Only [.sys, .str, .pwr, .evt, .tim, .hif, .cst, .tbl, .fbk, .stw, .quads, .cores, .lanes, .out, .freeIdx] s v := by
  refine ⟨_, rfl, ?_⟩
  try dsimp only
  repeat' first
    | with_reducible apply Only.refl
    | with_reducible assumption
    | ((with_reducible apply Only.step (State.domFaultClear_only _ _ _)); rfl)
    | ((with_reducible apply State.writeIsl_only); rfl)
    | with_reducible apply Only.ite
    | with_reducible apply Only.ite_snd
    | with_reducible apply Only.ite_fst
    | with_reducible intro _
    | split
    | with_reducible apply Only.foldl _ (fun _ _ => ?_)
    | with_reducible apply Only.foldl_fst _ (fun _ _ => ?_)
    | fail_if_no_progress refine Only.mk (k := ?_)

theorem State.rtcWrite_only (s : State) (w : W32) :
    Only [.pwr] s (State.rtcWrite s w) := by
  simp only [State.rtcWrite]
  repeat' first
    | with_reducible apply Only.refl
    | with_reducible assumption
    | ((with_reducible apply Only.step (State.modPwr_only _ _)); rfl)
    | with_reducible apply Only.ite
    | with_reducible apply Only.ite_snd
    | with_reducible apply Only.ite_fst
    | split
    | with_reducible apply Only.foldl _ (fun _ _ => ?_)
    | with_reducible apply Only.foldl_fst _ (fun _ _ => ?_)
    | fail_if_no_progress refine Only.mk (k := ?_)

theorem execRtcWrite_only (p : Port) (w : W32) (s : State) :
    ∃ v, (execRtcWrite p w s) = .next v ∧ Only [.pwr, .evt, .hif] s v := by
  refine ⟨_, rfl, ?_⟩
  try dsimp only
  repeat' first
    | with_reducible apply Only.refl
    | with_reducible assumption
    | ((with_reducible apply Only.step (State.rtcWrite_only _ _)); rfl)
    | ((with_reducible apply State.writeIsl_only); rfl)
    | with_reducible apply Only.ite
    | with_reducible apply Only.ite_snd
    | with_reducible apply Only.ite_fst
    | with_reducible intro _
    | split
    | with_reducible apply Only.foldl _ (fun _ _ => ?_)
    | with_reducible apply Only.foldl_fst _ (fun _ _ => ?_)
    | fail_if_no_progress refine Only.mk (k := ?_)

theorem State.pwrRead_only (s : State) (p : Port) (off : Nat) :
    Only [.latches] s (State.pwrRead s p off).2 := by
  simp only [State.pwrRead]
  repeat' first
    | with_reducible apply Only.refl
    | with_reducible assumption
    | ((with_reducible apply Only.step (State.readLow_only _ _ _ _)); rfl)
    | with_reducible apply Only.ite
    | with_reducible apply Only.ite_snd
    | with_reducible apply Only.ite_fst
    | split
    | with_reducible apply Only.foldl _ (fun _ _ => ?_)
    | with_reducible apply Only.foldl_fst _ (fun _ _ => ?_)
    | fail_if_no_progress refine Only.mk (k := ?_)

theorem State.pwrWrite_only (s : State) (off : Nat) (w : W32) :
    Only [.sys, .str, .pwr, .evt, .tim, .hif, .cst, .tbl, .fbk, .stw, .quads, .cores, .lanes, .out, .freeIdx] s (State.pwrWrite s off w) := by
  simp only [State.pwrWrite]
  repeat' first
    | with_reducible apply Only.refl
    | with_reducible assumption
    | ((with_reducible apply Only.step (State.domFaultClear_only _ _ _)); rfl)
    | ((with_reducible apply Only.step (State.modPwr_only _ _)); rfl)
    | ((with_reducible apply Only.step (State.pwrCmd_only _ _)); rfl)
    | ((with_reducible apply Only.step (State.rtcWrite_only _ _)); rfl)
    | ((with_reducible apply Only.step (State.voteHostWrite_only _ _ _)); rfl)
    | ((with_reducible apply Only.step (State.voteTestWrite_only _ _ _)); rfl)
    | with_reducible apply Only.ite
    | with_reducible apply Only.ite_snd
    | with_reducible apply Only.ite_fst
    | split
    | with_reducible apply Only.foldl _ (fun _ _ => ?_)
    | with_reducible apply Only.foldl_fst _ (fun _ _ => ?_)
    | fail_if_no_progress refine Only.mk (k := ?_)

end Sys2Proof.Machine
end

