-- ==== Sys2Proof/Laws/OnlyActivation.lean ====
section
/-!
SUPPORT. What the operations of Machine/Activation.lean may change.
-/
namespace Sys2Proof.Machine

set_option Elab.async false
set_option linter.unusedTactic false
set_option linter.unreachableTactic false

theorem State.deriveTc_only (s : State) (n : LaneId) :
    Only [.key] s (State.deriveTc s n) := by
  simp only [State.deriveTc]
  repeat' first
    | with_reducible apply Only.refl
    | with_reducible assumption
    | with_reducible apply Only.ite
    | with_reducible apply Only.ite_snd
    | with_reducible apply Only.ite_fst
    | split
    | with_reducible apply Only.foldl _ (fun _ _ => ?_)
    | with_reducible apply Only.foldl_fst _ (fun _ _ => ?_)
    | fail_if_no_progress refine Only.mk (k := ?_)

theorem State.popPloam_only (s : State) (n : LaneId) :
    Only [.lanes] s (State.popPloam s n) := by
  simp only [State.popPloam]
  repeat' first
    | with_reducible apply Only.refl
    | with_reducible assumption
    | ((with_reducible apply Only.step (State.modDs_only _ _ _)); rfl)
    | with_reducible apply Only.ite
    | with_reducible apply Only.ite_snd
    | with_reducible apply Only.ite_fst
    | split
    | with_reducible apply Only.foldl _ (fun _ _ => ?_)
    | with_reducible apply Only.foldl_fst _ (fun _ _ => ?_)
    | fail_if_no_progress refine Only.mk (k := ?_)

theorem State.micFail_only (s : State) (n : LaneId) :
    Only [.evt, .lanes] s (State.micFail s n) := by
  simp only [State.micFail]
  repeat' first
    | with_reducible apply Only.refl
    | with_reducible assumption
    | ((with_reducible apply Only.step (State.actCnt_only _ _ _)); rfl)
    | ((with_reducible apply Only.step (State.reportIf_only _ _ _ _ _)); rfl)
    | with_reducible apply Only.ite
    | with_reducible apply Only.ite_snd
    | with_reducible apply Only.ite_fst
    | split
    | with_reducible apply Only.foldl _ (fun _ _ => ?_)
    | with_reducible apply Only.foldl_fst _ (fun _ _ => ?_)
    | fail_if_no_progress refine Only.mk (k := ?_)

theorem State.tunedIn_only (s : State) (n : LaneId) :
    Only [.evt, .cst, .stw, .lanes, .out, .freeIdx] s (State.tunedIn s n) := by
  simp only [State.tunedIn]
  repeat' first
    | with_reducible apply Only.refl
    | with_reducible assumption
    | ((with_reducible apply Only.step (State.modAct_only _ _ _)); rfl)
    | ((with_reducible apply Only.step (State.setAct_only _ _ _)); rfl)
    | with_reducible apply Only.ite
    | with_reducible apply Only.ite_snd
    | with_reducible apply Only.ite_fst
    | split
    | with_reducible apply Only.foldl _ (fun _ _ => ?_)
    | with_reducible apply Only.foldl_fst _ (fun _ _ => ?_)
    | fail_if_no_progress refine Only.mk (k := ?_)

theorem State.onBurstProfile_only (s : State) (n : LaneId) (i : BitVec 2) (p : Profile) :
    Only [.evt, .cst, .stw, .lanes, .out, .freeIdx] s (State.onBurstProfile s n i p) := by
  simp only [State.onBurstProfile]
  repeat' first
    | with_reducible apply Only.refl
    | with_reducible assumption
    | ((with_reducible apply Only.step (State.modAct_only _ _ _)); rfl)
    | ((with_reducible apply Only.step (State.modPump_only _ _ _)); rfl)
    | ((with_reducible apply Only.step (State.setAct_only _ _ _)); rfl)
    | with_reducible apply Only.ite
    | with_reducible apply Only.ite_snd
    | with_reducible apply Only.ite_fst
    | split
    | with_reducible apply Only.foldl _ (fun _ _ => ?_)
    | with_reducible apply Only.foldl_fst _ (fun _ _ => ?_)
    | fail_if_no_progress refine Only.mk (k := ?_)

theorem State.onAssignOnuId_only (s : State) (n : LaneId) (sn : W64) (id : BitVec 10) :
    Only [.evt, .cst, .stw, .lanes, .out, .freeIdx] s (State.onAssignOnuId s n sn id) := by
  simp only [State.onAssignOnuId]
  repeat' first
    | with_reducible apply Only.refl
    | with_reducible assumption
    | ((with_reducible apply Only.step (State.modAct_only _ _ _)); rfl)
    | ((with_reducible apply Only.step (State.modDs_only _ _ _)); rfl)
    | ((with_reducible apply Only.step (State.modPump_only _ _ _)); rfl)
    | ((with_reducible apply Only.step (State.setAct_only _ _ _)); rfl)
    | with_reducible apply Only.ite
    | with_reducible apply Only.ite_snd
    | with_reducible apply Only.ite_fst
    | split
    | with_reducible apply Only.foldl _ (fun _ _ => ?_)
    | with_reducible apply Only.foldl_fst _ (fun _ _ => ?_)
    | fail_if_no_progress refine Only.mk (k := ?_)

theorem State.onRangingAbs_only (s : State) (n : LaneId) (e : W32) :
    Only [.evt, .key, .cst, .stw, .lanes, .out, .freeIdx] s (State.onRangingAbs s n e) := by
  simp only [State.onRangingAbs]
  repeat' first
    | with_reducible apply Only.refl
    | with_reducible assumption
    | ((with_reducible apply Only.step (State.deriveTc_only _ _)); rfl)
    | ((with_reducible apply Only.step (State.modAct_only _ _ _)); rfl)
    | ((with_reducible apply Only.step (State.setAct_only _ _ _)); rfl)
    | ((with_reducible apply Only.step (State.tunedIn_only _ _)); rfl)
    | with_reducible apply Only.ite
    | with_reducible apply Only.ite_snd
    | with_reducible apply Only.ite_fst
    | split
    | with_reducible apply Only.foldl _ (fun _ _ => ?_)
    | with_reducible apply Only.foldl_fst _ (fun _ _ => ?_)
    | fail_if_no_progress refine Only.mk (k := ?_)

theorem State.onRangingRel_only (s : State) (n : LaneId) (d : Int) :
    Only [.evt, .cst, .stw, .lanes, .out, .freeIdx] s (State.onRangingRel s n d) := by
  simp only [State.onRangingRel]
  repeat' first
    | with_reducible apply Only.refl
    | with_reducible assumption
    | ((with_reducible apply Only.step (State.actCnt_only _ _ _)); rfl)
    | ((with_reducible apply Only.step (State.modAct_only _ _ _)); rfl)
    | ((with_reducible apply Only.step (State.tunedIn_only _ _)); rfl)
    | with_reducible apply Only.ite
    | with_reducible apply Only.ite_snd
    | with_reducible apply Only.ite_fst
    | split
    | with_reducible apply Only.foldl _ (fun _ _ => ?_)
    | with_reducible apply Only.foldl_fst _ (fun _ _ => ?_)
    | fail_if_no_progress refine Only.mk (k := ?_)

theorem State.onTuningControl_only (s : State) (n : LaneId) (ds us : BitVec 4) (sched : BitVec 51) :
    Only [.evt, .cst, .stw, .lanes, .out, .freeIdx] s (State.onTuningControl s n ds us sched) := by
  simp only [State.onTuningControl]
  repeat' first
    | with_reducible apply Only.refl
    | with_reducible assumption
    | ((with_reducible apply Only.step (State.actCnt_only _ _ _)); rfl)
    | ((with_reducible apply Only.step (State.modAct_only _ _ _)); rfl)
    | ((with_reducible apply Only.step (State.queuePloam_only _ _ _)); rfl)
    | ((with_reducible apply Only.step (State.setAct_only _ _ _)); rfl)
    | with_reducible apply Only.ite
    | with_reducible apply Only.ite_snd
    | with_reducible apply Only.ite_fst
    | split
    | with_reducible apply Only.foldl _ (fun _ _ => ?_)
    | with_reducible apply Only.foldl_fst _ (fun _ _ => ?_)
    | fail_if_no_progress refine Only.mk (k := ?_)

theorem State.onChannelProfile_only (s : State) (n : LaneId) (ds : BitVec 4) (this : Bool) :
    Only [.evt, .cst, .stw, .lanes, .out, .freeIdx] s (State.onChannelProfile s n ds this) := by
  simp only [State.onChannelProfile]
  repeat' first
    | with_reducible apply Only.refl
    | with_reducible assumption
    | ((with_reducible apply Only.step (State.fromO8_only _ _)); rfl)
    | ((with_reducible apply Only.step (State.modAct_only _ _ _)); rfl)
    | with_reducible apply Only.ite
    | with_reducible apply Only.ite_snd
    | with_reducible apply Only.ite_fst
    | split
    | with_reducible apply Only.foldl _ (fun _ _ => ?_)
    | with_reducible apply Only.foldl_fst _ (fun _ _ => ?_)
    | fail_if_no_progress refine Only.mk (k := ?_)

theorem State.setDisabled_only (s : State) (n : LaneId) (on : Bool) :
    Only [.vault] s (State.setDisabled s n on) := by
  simp only [State.setDisabled]
  repeat' first
    | with_reducible apply Only.refl
    | with_reducible assumption
    | with_reducible apply Only.ite
    | with_reducible apply Only.ite_snd
    | with_reducible apply Only.ite_fst
    | split
    | with_reducible apply Only.foldl _ (fun _ _ => ?_)
    | with_reducible apply Only.foldl_fst _ (fun _ _ => ?_)
    | fail_if_no_progress refine Only.mk (k := ?_)

theorem State.onDisableSn_only (s : State) (n : LaneId) (all enable : Bool) (sn : W64) :
    Only [.evt, .vault, .cst, .stw, .lanes, .out, .freeIdx] s (State.onDisableSn s n all enable sn) := by
  simp only [State.onDisableSn]
  repeat' first
    | with_reducible apply Only.refl
    | with_reducible assumption
    | ((with_reducible apply Only.step (State.modAct_only _ _ _)); rfl)
    | ((with_reducible apply Only.step (State.setAct_only _ _ _)); rfl)
    | ((with_reducible apply Only.step (State.setDisabled_only _ _ _)); rfl)
    | ((with_reducible apply Only.step (State.toO11_only _ _)); rfl)
    | with_reducible apply Only.ite
    | with_reducible apply Only.ite_snd
    | with_reducible apply Only.ite_fst
    | split
    | with_reducible apply Only.foldl _ (fun _ _ => ?_)
    | with_reducible apply Only.foldl_fst _ (fun _ _ => ?_)
    | fail_if_no_progress refine Only.mk (k := ?_)

theorem State.onAssignAllocId_only (s : State) (n : LaneId) (alloc : BitVec 14) (add : Bool) :
    Only [.quads, .lanes] s (State.onAssignAllocId s n alloc add) := by
  simp only [State.onAssignAllocId]
  repeat' first
    | with_reducible apply Only.refl
    | with_reducible assumption
    | ((with_reducible apply Only.step (State.actCnt_only _ _ _)); rfl)
    | ((with_reducible apply Only.step (State.clearMiss_only _ _ _)); rfl)
    | ((with_reducible apply Only.step (State.modPump_only _ _ _)); rfl)
    | ((with_reducible apply Only.step (State.queuePloam_only _ _ _)); rfl)
    | with_reducible apply Only.ite
    | with_reducible apply Only.ite_snd
    | with_reducible apply Only.ite_fst
    | split
    | with_reducible apply Only.foldl _ (fun _ _ => ?_)
    | with_reducible apply Only.foldl_fst _ (fun _ _ => ?_)
    | fail_if_no_progress refine Only.mk (k := ?_)

theorem State.drawKey_only (s : State) (n : LaneId) (k : BitVec 2) :
    Only [.lanes, .freeIdx] s (State.drawKey s n k) := by
  simp only [State.drawKey]
  repeat' first
    | with_reducible apply Only.refl
    | with_reducible assumption
    | ((with_reducible apply Only.step (State.modAct_only _ _ _)); rfl)
    | ((with_reducible apply Only.step (State.queuePloam_only _ _ _)); rfl)
    | ((with_reducible apply Only.step (State.tookFree_only _)); rfl)
    | with_reducible apply Only.ite
    | with_reducible apply Only.ite_snd
    | with_reducible apply Only.ite_fst
    | split
    | with_reducible apply Only.foldl _ (fun _ _ => ?_)
    | with_reducible apply Only.foldl_fst _ (fun _ _ => ?_)
    | fail_if_no_progress refine Only.mk (k := ?_)

theorem State.onKeyControl_only (s : State) (n : LaneId) (newKey : Bool) (k : BitVec 2) :
    Only [.lanes, .freeIdx] s (State.onKeyControl s n newKey k) := by
  simp only [State.onKeyControl]
  repeat' first
    | with_reducible apply Only.refl
    | with_reducible assumption
    | ((with_reducible apply Only.step (State.drawKey_only _ _ _)); rfl)
    | ((with_reducible apply Only.step (State.emptyKey_only _ _ _)); rfl)
    | ((with_reducible apply Only.step (State.modAct_only _ _ _)); rfl)
    | with_reducible apply Only.ite
    | with_reducible apply Only.ite_snd
    | with_reducible apply Only.ite_fst
    | split
    | with_reducible apply Only.foldl _ (fun _ _ => ?_)
    | with_reducible apply Only.foldl_fst _ (fun _ _ => ?_)
    | fail_if_no_progress refine Only.mk (k := ?_)

theorem State.answerKeys_only (s : State) (n : LaneId) :
    Only [.lanes, .freeIdx] s (State.answerKeys s n) := by
  simp only [State.answerKeys]
  repeat' first
    | with_reducible apply Only.refl
    | with_reducible assumption
    | ((with_reducible apply Only.step (State.drawKey_only _ _ _)); rfl)
    | ((with_reducible apply Only.step (State.modAct_only _ _ _)); rfl)
    | with_reducible apply Only.ite
    | with_reducible apply Only.ite_snd
    | with_reducible apply Only.ite_fst
    | split
    | with_reducible apply Only.foldl _ (fun _ _ => ?_)
    | with_reducible apply Only.foldl_fst _ (fun _ _ => ?_)
    | fail_if_no_progress refine Only.mk (k := ?_)

theorem State.onPloam_only (s : State) (n : LaneId) (m : Ploam) :
    Only [.evt, .key, .vault, .cst, .stw, .quads, .lanes, .out, .freeIdx] s (State.onPloam s n m) := by
  simp only [State.onPloam]
  repeat' first
    | with_reducible apply Only.refl
    | with_reducible assumption
    | ((with_reducible apply Only.step (State.exitTo11_only _ _ _)); rfl)
    | ((with_reducible apply Only.step (State.onAssignAllocId_only _ _ _ _)); rfl)
    | ((with_reducible apply Only.step (State.onAssignOnuId_only _ _ _ _)); rfl)
    | ((with_reducible apply Only.step (State.onBurstProfile_only _ _ _ _)); rfl)
    | ((with_reducible apply Only.step (State.onChannelProfile_only _ _ _ _)); rfl)
    | ((with_reducible apply Only.step (State.onDisableSn_only _ _ _ _ _)); rfl)
    | ((with_reducible apply Only.step (State.onKeyControl_only _ _ _ _)); rfl)
    | ((with_reducible apply Only.step (State.onRangingAbs_only _ _ _)); rfl)
    | ((with_reducible apply Only.step (State.onRangingRel_only _ _ _)); rfl)
    | ((with_reducible apply Only.step (State.onTuningControl_only _ _ _ _ _)); rfl)
    | with_reducible apply Only.ite
    | with_reducible apply Only.ite_snd
    | with_reducible apply Only.ite_fst
    | split
    | with_reducible apply Only.foldl _ (fun _ _ => ?_)
    | with_reducible apply Only.foldl_fst _ (fun _ _ => ?_)
    | fail_if_no_progress refine Only.mk (k := ?_)

theorem State.ploamActs_only (s : State) (n : LaneId) (m : Ploam) :
    Only [.evt, .key, .vault, .cst, .stw, .quads, .lanes, .out, .freeIdx] s (State.ploamActs s n m) := by
  simp only [State.ploamActs]
  repeat' first
    | with_reducible apply Only.refl
    | with_reducible assumption
    | ((with_reducible apply Only.step (State.actCnt_only _ _ _)); rfl)
    | ((with_reducible apply Only.step (State.onPloam_only _ _ _)); rfl)
    | ((with_reducible apply Only.step (State.tunedIn_only _ _)); rfl)
    | with_reducible apply Only.ite
    | with_reducible apply Only.ite_snd
    | with_reducible apply Only.ite_fst
    | split
    | with_reducible apply Only.foldl _ (fun _ _ => ?_)
    | with_reducible apply Only.foldl_fst _ (fun _ _ => ?_)
    | fail_if_no_progress refine Only.mk (k := ?_)

theorem State.handle_only (s : State) (n : LaneId) (kind : Ploam → Bool) :
    Only [.evt, .key, .vault, .cst, .stw, .quads, .lanes, .out, .freeIdx] s (State.handle s n kind) := by
  simp only [State.handle]
  repeat' first
    | with_reducible apply Only.refl
    | with_reducible assumption
    | ((with_reducible apply Only.step (State.micFail_only _ _)); rfl)
    | ((with_reducible apply Only.step (State.ploamActs_only _ _ _)); rfl)
    | ((with_reducible apply Only.step (State.popPloam_only _ _)); rfl)
    | with_reducible apply Only.ite
    | with_reducible apply Only.ite_snd
    | with_reducible apply Only.ite_fst
    | split
    | with_reducible apply Only.foldl _ (fun _ _ => ?_)
    | with_reducible apply Only.foldl_fst _ (fun _ _ => ?_)
    | fail_if_no_progress refine Only.mk (k := ?_)

theorem execBurstProfileMsg_only (n : LaneId) (s : State) :
    ∃ v, (execBurstProfileMsg n s) = .next v ∧ Only [.evt, .key, .vault, .cst, .stw, .quads, .lanes, .out, .freeIdx] s v := by
  refine ⟨_, rfl, ?_⟩
  try dsimp only
  repeat' first
    | with_reducible apply Only.refl
    | with_reducible assumption
    | ((with_reducible apply Only.step (State.handle_only _ _ _)); rfl)
    | with_reducible apply Only.ite
    | with_reducible apply Only.ite_snd
    | with_reducible apply Only.ite_fst
    | split
    | with_reducible apply Only.foldl _ (fun _ _ => ?_)
    | with_reducible apply Only.foldl_fst _ (fun _ _ => ?_)
    | fail_if_no_progress refine Only.mk (k := ?_)

theorem execAssignOnuId_only (n : LaneId) (s : State) :
    ∃ v, (execAssignOnuId n s) = .next v ∧ Only [.evt, .key, .vault, .cst, .stw, .quads, .lanes, .out, .freeIdx] s v := by
  refine ⟨_, rfl, ?_⟩
  try dsimp only
  repeat' first
    | with_reducible apply Only.refl
    | with_reducible assumption
    | ((with_reducible apply Only.step (State.handle_only _ _ _)); rfl)
    | with_reducible apply Only.ite
    | with_reducible apply Only.ite_snd
    | with_reducible apply Only.ite_fst
    | split
    | with_reducible apply Only.foldl _ (fun _ _ => ?_)
    | with_reducible apply Only.foldl_fst _ (fun _ _ => ?_)
    | fail_if_no_progress refine Only.mk (k := ?_)

theorem execRangingTime_only (n : LaneId) (s : State) :
    ∃ v, (execRangingTime n s) = .next v ∧ Only [.evt, .key, .vault, .cst, .stw, .quads, .lanes, .out, .freeIdx] s v := by
  refine ⟨_, rfl, ?_⟩
  try dsimp only
  repeat' first
    | with_reducible apply Only.refl
    | with_reducible assumption
    | ((with_reducible apply Only.step (State.handle_only _ _ _)); rfl)
    | with_reducible apply Only.ite
    | with_reducible apply Only.ite_snd
    | with_reducible apply Only.ite_fst
    | split
    | with_reducible apply Only.foldl _ (fun _ _ => ?_)
    | with_reducible apply Only.foldl_fst _ (fun _ _ => ?_)
    | fail_if_no_progress refine Only.mk (k := ?_)

theorem execTuningControl_only (n : LaneId) (s : State) :
    ∃ v, (execTuningControl n s) = .next v ∧ Only [.evt, .key, .vault, .cst, .stw, .quads, .lanes, .out, .freeIdx] s v := by
  refine ⟨_, rfl, ?_⟩
  try dsimp only
  repeat' first
    | with_reducible apply Only.refl
    | with_reducible assumption
    | ((with_reducible apply Only.step (State.handle_only _ _ _)); rfl)
    | with_reducible apply Only.ite
    | with_reducible apply Only.ite_snd
    | with_reducible apply Only.ite_fst
    | split
    | with_reducible apply Only.foldl _ (fun _ _ => ?_)
    | with_reducible apply Only.foldl_fst _ (fun _ _ => ?_)
    | fail_if_no_progress refine Only.mk (k := ?_)

theorem execChannelProfile_only (n : LaneId) (s : State) :
    ∃ v, (execChannelProfile n s) = .next v ∧ Only [.evt, .key, .vault, .cst, .stw, .quads, .lanes, .out, .freeIdx] s v := by
  refine ⟨_, rfl, ?_⟩
  try dsimp only
  repeat' first
    | with_reducible apply Only.refl
    | with_reducible assumption
    | ((with_reducible apply Only.step (State.handle_only _ _ _)); rfl)
    | with_reducible apply Only.ite
    | with_reducible apply Only.ite_snd
    | with_reducible apply Only.ite_fst
    | split
    | with_reducible apply Only.foldl _ (fun _ _ => ?_)
    | with_reducible apply Only.foldl_fst _ (fun _ _ => ?_)
    | fail_if_no_progress refine Only.mk (k := ?_)

theorem execDeactivateOnuId_only (n : LaneId) (s : State) :
    ∃ v, (execDeactivateOnuId n s) = .next v ∧ Only [.evt, .key, .vault, .cst, .stw, .quads, .lanes, .out, .freeIdx] s v := by
  refine ⟨_, rfl, ?_⟩
  try dsimp only
  repeat' first
    | with_reducible apply Only.refl
    | with_reducible assumption
    | ((with_reducible apply Only.step (State.handle_only _ _ _)); rfl)
    | with_reducible apply Only.ite
    | with_reducible apply Only.ite_snd
    | with_reducible apply Only.ite_fst
    | split
    | with_reducible apply Only.foldl _ (fun _ _ => ?_)
    | with_reducible apply Only.foldl_fst _ (fun _ _ => ?_)
    | fail_if_no_progress refine Only.mk (k := ?_)

theorem execDisableSerialNumber_only (n : LaneId) (s : State) :
    ∃ v, (execDisableSerialNumber n s) = .next v ∧ Only [.evt, .key, .vault, .cst, .stw, .quads, .lanes, .out, .freeIdx] s v := by
  refine ⟨_, rfl, ?_⟩
  try dsimp only
  repeat' first
    | with_reducible apply Only.refl
    | with_reducible assumption
    | ((with_reducible apply Only.step (State.handle_only _ _ _)); rfl)
    | with_reducible apply Only.ite
    | with_reducible apply Only.ite_snd
    | with_reducible apply Only.ite_fst
    | split
    | with_reducible apply Only.foldl _ (fun _ _ => ?_)
    | with_reducible apply Only.foldl_fst _ (fun _ _ => ?_)
    | fail_if_no_progress refine Only.mk (k := ?_)

theorem execAssignAllocId_only (n : LaneId) (s : State) :
    ∃ v, (execAssignAllocId n s) = .next v ∧ Only [.evt, .key, .vault, .cst, .stw, .quads, .lanes, .out, .freeIdx] s v := by
  refine ⟨_, rfl, ?_⟩
  try dsimp only
  repeat' first
    | with_reducible apply Only.refl
    | with_reducible assumption
    | ((with_reducible apply Only.step (State.handle_only _ _ _)); rfl)
    | with_reducible apply Only.ite
    | with_reducible apply Only.ite_snd
    | with_reducible apply Only.ite_fst
    | split
    | with_reducible apply Only.foldl _ (fun _ _ => ?_)
    | with_reducible apply Only.foldl_fst _ (fun _ _ => ?_)
    | fail_if_no_progress refine Only.mk (k := ?_)

theorem execKeyControl_only (n : LaneId) (s : State) :
    ∃ v, (execKeyControl n s) = .next v ∧ Only [.evt, .key, .vault, .cst, .stw, .quads, .lanes, .out, .freeIdx] s v := by
  refine ⟨_, rfl, ?_⟩
  try dsimp only
  repeat' first
    | with_reducible apply Only.refl
    | with_reducible assumption
    | ((with_reducible apply Only.step (State.handle_only _ _ _)); rfl)
    | with_reducible apply Only.ite
    | with_reducible apply Only.ite_snd
    | with_reducible apply Only.ite_fst
    | split
    | with_reducible apply Only.foldl _ (fun _ _ => ?_)
    | with_reducible apply Only.foldl_fst _ (fun _ _ => ?_)
    | fail_if_no_progress refine Only.mk (k := ?_)

theorem execPloamUnexpected_only (n : LaneId) (s : State) :
    ∃ v, (execPloamUnexpected n s) = .next v ∧ Only [.evt, .key, .vault, .cst, .stw, .quads, .lanes, .out, .freeIdx] s v := by
  refine ⟨_, rfl, ?_⟩
  try dsimp only
  repeat' first
    | with_reducible apply Only.refl
    | with_reducible assumption
    | ((with_reducible apply Only.step (State.handle_only _ _ _)); rfl)
    | with_reducible apply Only.ite
    | with_reducible apply Only.ite_snd
    | with_reducible apply Only.ite_fst
    | split
    | with_reducible apply Only.foldl _ (fun _ _ => ?_)
    | with_reducible apply Only.foldl_fst _ (fun _ _ => ?_)
    | fail_if_no_progress refine Only.mk (k := ?_)

theorem execCompleteUAcknowledged_only (n : LaneId) (s : State) :
    ∃ v, (execCompleteUAcknowledged n s) = .next v ∧ Only [.evt, .key, .vault, .cst, .stw, .quads, .lanes, .out, .freeIdx] s v := by
  refine ⟨_, rfl, ?_⟩
  try dsimp only
  repeat' first
    | with_reducible apply Only.refl
    | with_reducible assumption
    | ((with_reducible apply Only.step (State.handle_only _ _ _)); rfl)
    | with_reducible apply Only.ite
    | with_reducible apply Only.ite_snd
    | with_reducible apply Only.ite_fst
    | split
    | with_reducible apply Only.foldl _ (fun _ _ => ?_)
    | with_reducible apply Only.foldl_fst _ (fun _ _ => ?_)
    | fail_if_no_progress refine Only.mk (k := ?_)

theorem execKeyReportHandoff_only (n : LaneId) (s : State) :
    ∃ v, (execKeyReportHandoff n s) = .next v ∧ Only [.lanes, .freeIdx] s v := by
  refine ⟨_, rfl, ?_⟩
  try dsimp only
  repeat' first
    | with_reducible apply Only.refl
    | with_reducible assumption
    | ((with_reducible apply Only.step (State.actCnt_only _ _ _)); rfl)
    | ((with_reducible apply Only.step (State.installKey_only _ _ _ _)); rfl)
    | ((with_reducible apply Only.step (State.modAct_only _ _ _)); rfl)
    | with_reducible apply Only.ite
    | with_reducible apply Only.ite_snd
    | with_reducible apply Only.ite_fst
    | split
    | with_reducible apply Only.foldl _ (fun _ _ => ?_)
    | with_reducible apply Only.foldl_fst _ (fun _ _ => ?_)
    | fail_if_no_progress refine Only.mk (k := ?_)

theorem execTo1Expire_only (n : LaneId) (s : State) :
    ∃ v, (execTo1Expire n s) = .next v ∧ Only [.evt, .cst, .stw, .quads, .lanes, .out, .freeIdx] s v := by
  refine ⟨_, rfl, ?_⟩
  try dsimp only
  repeat' first
    | with_reducible apply Only.refl
    | with_reducible assumption
    | ((with_reducible apply Only.step (State.exitTo11_only _ _ _)); rfl)
    | with_reducible apply Only.ite
    | with_reducible apply Only.ite_snd
    | with_reducible apply Only.ite_fst
    | split
    | with_reducible apply Only.foldl _ (fun _ _ => ?_)
    | with_reducible apply Only.foldl_fst _ (fun _ _ => ?_)
    | fail_if_no_progress refine Only.mk (k := ?_)

theorem execTo2Expire_only (n : LaneId) (s : State) :
    ∃ v, (execTo2Expire n s) = .next v ∧ Only [.evt, .cst, .stw, .quads, .lanes, .out, .freeIdx] s v := by
  refine ⟨_, rfl, ?_⟩
  try dsimp only
  repeat' first
    | with_reducible apply Only.refl
    | with_reducible assumption
    | ((with_reducible apply Only.step (State.exitTo11_only _ _ _)); rfl)
    | with_reducible apply Only.ite
    | with_reducible apply Only.ite_snd
    | with_reducible apply Only.ite_fst
    | split
    | with_reducible apply Only.foldl _ (fun _ _ => ?_)
    | with_reducible apply Only.foldl_fst _ (fun _ _ => ?_)
    | fail_if_no_progress refine Only.mk (k := ?_)

theorem execTo4Expire_only (n : LaneId) (s : State) :
    ∃ v, (execTo4Expire n s) = .next v ∧ Only [.evt, .cst, .stw, .quads, .lanes, .out, .freeIdx] s v := by
  refine ⟨_, rfl, ?_⟩
  try dsimp only
  repeat' first
    | with_reducible apply Only.refl
    | with_reducible assumption
    | ((with_reducible apply Only.step (State.exitTo11_only _ _ _)); rfl)
    | with_reducible apply Only.ite
    | with_reducible apply Only.ite_snd
    | with_reducible apply Only.ite_fst
    | split
    | with_reducible apply Only.foldl _ (fun _ _ => ?_)
    | with_reducible apply Only.foldl_fst _ (fun _ _ => ?_)
    | fail_if_no_progress refine Only.mk (k := ?_)

theorem execTo5Expire_only (n : LaneId) (s : State) :
    ∃ v, (execTo5Expire n s) = .next v ∧ Only [.evt, .cst, .stw, .quads, .lanes, .out, .freeIdx] s v := by
  refine ⟨_, rfl, ?_⟩
  try dsimp only
  repeat' first
    | with_reducible apply Only.refl
    | with_reducible assumption
    | ((with_reducible apply Only.step (State.exitTo11_only _ _ _)); rfl)
    | with_reducible apply Only.ite
    | with_reducible apply Only.ite_snd
    | with_reducible apply Only.ite_fst
    | split
    | with_reducible apply Only.foldl _ (fun _ _ => ?_)
    | with_reducible apply Only.foldl_fst _ (fun _ _ => ?_)
    | fail_if_no_progress refine Only.mk (k := ?_)

theorem State.postTune_only (s : State) (n : LaneId) (ds us : BitVec 4) (scan : Bool) :
    Only [.evt, .stw] s (State.postTune s n ds us scan) := by
  simp only [State.postTune]
  repeat' first
    | with_reducible apply Only.refl
    | with_reducible assumption
    | ((with_reducible apply Only.step (State.modStw_only _ _ _)); rfl)
    | ((with_reducible apply Only.step (State.report_only _ _ _ _)); rfl)
    | with_reducible apply Only.ite
    | with_reducible apply Only.ite_snd
    | with_reducible apply Only.ite_fst
    | split
    | with_reducible apply Only.foldl _ (fun _ _ => ?_)
    | with_reducible apply Only.foldl_fst _ (fun _ _ => ?_)
    | fail_if_no_progress refine Only.mk (k := ?_)

theorem execTuneScheduledCount_only (n : LaneId) (s : State) :
    ∃ v, (execTuneScheduledCount n s) = .next v ∧ Only [.evt, .cst, .stw, .lanes, .out, .freeIdx] s v := by
  refine ⟨_, rfl, ?_⟩
  try dsimp only
  repeat' first
    | with_reducible apply Only.refl
    | with_reducible assumption
    | ((with_reducible apply Only.step (State.modAct_only _ _ _)); rfl)
    | ((with_reducible apply Only.step (State.postTune_only _ _ _ _ _)); rfl)
    | ((with_reducible apply Only.step (State.setAct_only _ _ _)); rfl)
    | with_reducible apply Only.ite
    | with_reducible apply Only.ite_snd
    | with_reducible apply Only.ite_fst
    | split
    | with_reducible apply Only.foldl _ (fun _ _ => ?_)
    | with_reducible apply Only.foldl_fst _ (fun _ _ => ?_)
    | fail_if_no_progress refine Only.mk (k := ?_)

theorem State.tuneAcked_only (s : State) (n : LaneId) (r : TuneReq) (ok : Bool) :
    Only [.sys, .evt, .cst, .stw, .quads, .lanes, .out, .freeIdx] s (State.tuneAcked s n r ok) := by
  simp only [State.tuneAcked]
  repeat' first
    | with_reducible apply Only.refl
    | with_reducible assumption
    | ((with_reducible apply Only.step (State.exitTo11_only _ _ _)); rfl)
    | ((with_reducible apply Only.step (State.fromO8_only _ _)); rfl)
    | ((with_reducible apply Only.step (State.huntLine_only _ _)); rfl)
    | ((with_reducible apply Only.step (State.modAct_only _ _ _)); rfl)
    | ((with_reducible apply Only.step (State.modStw_only _ _ _)); rfl)
    | with_reducible apply Only.ite
    | with_reducible apply Only.ite_snd
    | with_reducible apply Only.ite_fst
    | split
    | with_reducible apply Only.foldl _ (fun _ _ => ?_)
    | with_reducible apply Only.foldl_fst _ (fun _ _ => ?_)
    | fail_if_no_progress refine Only.mk (k := ?_)

theorem State.tuneAck_only (s : State) (q : QuadId) (w : W32) :
    Only [.sys, .evt, .cst, .stw, .quads, .lanes, .out, .freeIdx] s (State.tuneAck s q w) := by
  simp only [State.tuneAck]
  repeat' first
    | with_reducible apply Only.refl
    | with_reducible assumption
    | ((with_reducible apply Only.step (State.actCnt_only _ _ _)); rfl)
    | ((with_reducible apply Only.step (State.tuneAcked_only _ _ _ _)); rfl)
    | with_reducible apply Only.ite
    | with_reducible apply Only.ite_snd
    | with_reducible apply Only.ite_fst
    | split
    | with_reducible apply Only.foldl _ (fun _ _ => ?_)
    | with_reducible apply Only.foldl_fst _ (fun _ _ => ?_)
    | fail_if_no_progress refine Only.mk (k := ?_)

theorem execTuneAck_only (p : Port) (q : QuadId) (w : W32) (s : State) :
    ∃ v, (execTuneAck p q w s) = .next v ∧ Only [.sys, .evt, .hif, .cst, .stw, .quads, .lanes, .out, .freeIdx] s v := by
  refine ⟨_, rfl, ?_⟩
  try dsimp only
  repeat' first
    | with_reducible apply Only.refl
    | with_reducible assumption
    | ((with_reducible apply Only.step (State.tuneAck_only _ _ _)); rfl)
    | ((with_reducible apply State.writeIsl_only); rfl)
    | with_reducible apply Only.ite
    | with_reducible apply Only.ite_snd
    | with_reducible apply Only.ite_fst
    | with_reducible intro _
    | split
    | with_reducible apply Only.foldl _ (fun _ _ => ?_)
    | with_reducible apply Only.foldl_fst _ (fun _ _ => ?_)
    | fail_if_no_progress refine Only.mk (k := ?_)

theorem execScanDwell_only (n : LaneId) (s : State) :
    ∃ v, (execScanDwell n s) = .next v ∧ Only [.evt, .stw, .lanes, .freeIdx] s v := by
  refine ⟨_, rfl, ?_⟩
  try dsimp only
  repeat' first
    | with_reducible apply Only.refl
    | with_reducible assumption
    | ((with_reducible apply Only.step (State.modAct_only _ _ _)); rfl)
    | ((with_reducible apply Only.step (State.modCom_only _ _ _)); rfl)
    | ((with_reducible apply Only.step (State.postTune_only _ _ _ _ _)); rfl)
    | ((with_reducible apply Only.step (State.tookFree_only _)); rfl)
    | with_reducible apply Only.ite
    | with_reducible apply Only.ite_snd
    | with_reducible apply Only.ite_fst
    | split
    | with_reducible apply Only.foldl _ (fun _ _ => ?_)
    | with_reducible apply Only.foldl_fst _ (fun _ _ => ?_)
    | fail_if_no_progress refine Only.mk (k := ?_)

theorem execRogueTrip_only (n : LaneId) (s : State) :
    ∃ v, (execRogueTrip n s) = .next v ∧ Only [.sys, .evt, .cst, .stw, .quads, .lanes, .out, .freeIdx] s v := by
  refine ⟨_, rfl, ?_⟩
  try dsimp only
  repeat' first
    | with_reducible apply Only.refl
    | with_reducible assumption
    | ((with_reducible apply Only.step (State.rogueTrip_only _ _)); rfl)
    | with_reducible apply Only.ite
    | with_reducible apply Only.ite_snd
    | with_reducible apply Only.ite_fst
    | split
    | with_reducible apply Only.foldl _ (fun _ _ => ?_)
    | with_reducible apply Only.foldl_fst _ (fun _ _ => ?_)
    | fail_if_no_progress refine Only.mk (k := ?_)

theorem State.setAdmin_only (s : State) (n : LaneId) (on : Bool) :
    Only [.sys, .str, .pwr, .evt, .tim, .hif, .cst, .tbl, .fbk, .stw, .quads, .cores, .lanes, .out, .freeIdx] s (State.setAdmin s n on) := by
  simp only [State.setAdmin]
  repeat' first
    | with_reducible apply Only.refl
    | with_reducible assumption
    | ((with_reducible apply Only.step (State.exitTo11_only _ _ _)); rfl)
    | ((with_reducible apply Only.step (State.fromO11_only _ _)); rfl)
    | ((with_reducible apply Only.step (State.modAct_only _ _ _)); rfl)
    | ((with_reducible apply Only.step (State.powerSettle_only _)); rfl)
    | with_reducible apply Only.ite
    | with_reducible apply Only.ite_snd
    | with_reducible apply Only.ite_fst
    | split
    | with_reducible apply Only.foldl _ (fun _ _ => ?_)
    | with_reducible apply Only.foldl_fst _ (fun _ _ => ?_)
    | fail_if_no_progress refine Only.mk (k := ?_)

theorem State.actItemWrite_only (s : State) (n : LaneId) (i : Nat) (w : W32) :
    Only [.sys, .str, .pwr, .evt, .tim, .hif, .cst, .tbl, .fbk, .stw, .quads, .cores, .lanes, .out, .freeIdx] s (State.actItemWrite s n i w) := by
  simp only [State.actItemWrite]
  repeat' first
    | with_reducible apply Only.refl
    | with_reducible assumption
    | ((with_reducible apply Only.step (State.modAct_only _ _ _)); rfl)
    | ((with_reducible apply Only.step (State.setAdmin_only _ _ _)); rfl)
    | with_reducible apply Only.ite
    | with_reducible apply Only.ite_snd
    | with_reducible apply Only.ite_fst
    | split
    | with_reducible apply Only.foldl _ (fun _ _ => ?_)
    | with_reducible apply Only.foldl_fst _ (fun _ _ => ?_)
    | fail_if_no_progress refine Only.mk (k := ?_)

theorem State.stwSelStep_only (s : State) (q : QuadId) :
    Only [.stw] s (State.stwSelStep s q) := by
  simp only [State.stwSelStep]
  repeat' first
    | with_reducible apply Only.refl
    | with_reducible assumption
    | ((with_reducible apply Only.step (State.modStw_only _ _ _)); rfl)
    | with_reducible apply Only.ite
    | with_reducible apply Only.ite_snd
    | with_reducible apply Only.ite_fst
    | split
    | with_reducible apply Only.foldl _ (fun _ _ => ?_)
    | with_reducible apply Only.foldl_fst _ (fun _ _ => ?_)
    | fail_if_no_progress refine Only.mk (k := ?_)

theorem State.stwLaneRead_only (s : State) (q : QuadId) :
    Only [.stw] s (State.stwLaneRead s q).2 := by
  simp only [State.stwLaneRead]
  repeat' first
    | with_reducible apply Only.refl
    | with_reducible assumption
    | ((with_reducible apply Only.step (State.stwSelStep_only _ _)); rfl)
    | with_reducible apply Only.ite
    | with_reducible apply Only.ite_snd
    | with_reducible apply Only.ite_fst
    | split
    | with_reducible apply Only.foldl _ (fun _ _ => ?_)
    | with_reducible apply Only.foldl_fst _ (fun _ _ => ?_)
    | fail_if_no_progress refine Only.mk (k := ?_)

theorem State.stwLaneWrite_only (s : State) (q : QuadId) (w : W32) :
    Only [.sys, .str, .pwr, .evt, .tim, .hif, .cst, .tbl, .fbk, .stw, .quads, .cores, .lanes, .out, .freeIdx] s (State.stwLaneWrite s q w) := by
  simp only [State.stwLaneWrite]
  repeat' first
    | with_reducible apply Only.refl
    | with_reducible assumption
    | ((with_reducible apply Only.step (State.actItemWrite_only _ _ _ _)); rfl)
    | ((with_reducible apply Only.step (State.stwSelStep_only _ _)); rfl)
    | with_reducible apply Only.ite
    | with_reducible apply Only.ite_snd
    | with_reducible apply Only.ite_fst
    | split
    | with_reducible apply Only.foldl _ (fun _ _ => ?_)
    | with_reducible apply Only.foldl_fst _ (fun _ _ => ?_)
    | fail_if_no_progress refine Only.mk (k := ?_)

theorem execStwLaneData_only (p : Port) (q : QuadId) (acc : Option W32) (s : State) :
    ∃ v, (execStwLaneData p q acc s) = .next v ∧ Only [.sys, .str, .pwr, .evt, .tim, .hif, .cst, .tbl, .fbk, .stw, .quads, .cores, .lanes, .out, .freeIdx] s v := by
  refine ⟨_, rfl, ?_⟩
  try dsimp only
  repeat' first
    | with_reducible apply Only.refl
    | with_reducible assumption
    | ((with_reducible apply Only.step (State.stwLaneRead_only _ _)); rfl)
    | ((with_reducible apply Only.step (State.stwLaneWrite_only _ _ _)); rfl)
    | ((with_reducible apply State.readIsl_only); rfl)
    | ((with_reducible apply State.writeIsl_only); rfl)
    | with_reducible apply Only.ite
    | with_reducible apply Only.ite_snd
    | with_reducible apply Only.ite_fst
    | with_reducible intro _
    | split
    | with_reducible apply Only.foldl _ (fun _ _ => ?_)
    | with_reducible apply Only.foldl_fst _ (fun _ _ => ?_)
    | fail_if_no_progress refine Only.mk (k := ?_)

end Sys2Proof.Machine
end

