-- ==== Sys2Proof/Laws/OnlyPumpOps.lean ====
section
/-!
SUPPORT. What the operations of Machine/PumpOps.lean may change.
-/
namespace Sys2Proof.Machine

set_option Elab.async false
set_option linter.unusedTactic false
set_option linter.unreachableTactic false

theorem State.grantError_only (s : State) (n : LaneId) (c k : Nat) (cause : BitVec 3) :
    Only [.evt, .lanes] s (State.grantError s n c k cause) := by
  simp only [State.grantError]
  repeat' first
    | with_reducible apply Only.refl
    | with_reducible assumption
    | ((with_reducible apply Only.step (State.modPump_only _ _ _)); rfl)
    | ((with_reducible apply Only.step (State.reportIf_only _ _ _ _ _)); rfl)
    | ((with_reducible apply Only.step (State.usCnt_only _ _ _ _)); rfl)
    | with_reducible apply Only.ite
    | with_reducible apply Only.ite_snd
    | with_reducible apply Only.ite_fst
    | split
    | with_reducible apply Only.foldl _ (fun _ _ => ?_)
    | with_reducible apply Only.foldl_fst _ (fun _ _ => ?_)
    | fail_if_no_progress refine Only.mk (k := ?_)

theorem State.discardBurst_only (s : State) (n : LaneId) (id c : Nat) :
    Only [.quads, .lanes] s (State.discardBurst s n id c) := by
  simp only [State.discardBurst]
  repeat' first
    | with_reducible apply Only.refl
    | with_reducible assumption
    | ((with_reducible apply Only.step (State.dropBursts_only _ _ _)); rfl)
    | ((with_reducible apply Only.step (State.usCnt_only _ _ _ _)); rfl)
    | with_reducible apply Only.ite
    | with_reducible apply Only.ite_snd
    | with_reducible apply Only.ite_fst
    | split
    | with_reducible apply Only.foldl _ (fun _ _ => ?_)
    | with_reducible apply Only.foldl_fst _ (fun _ _ => ?_)
    | fail_if_no_progress refine Only.mk (k := ?_)

theorem State.nextQueue_only (s : State) (n : LaneId) (alloc : BitVec 14) :
    Only [.quads] s (State.nextQueue s n alloc).1 := by
  simp only [State.nextQueue]
  repeat' first
    | with_reducible apply Only.refl
    | with_reducible assumption
    | ((with_reducible apply Only.step (State.pick_only _ _ _ _ _ _)); rfl)
    | with_reducible apply Only.ite
    | with_reducible apply Only.ite_snd
    | with_reducible apply Only.ite_fst
    | split
    | with_reducible apply Only.foldl _ (fun _ _ => ?_)
    | with_reducible apply Only.foldl_fst _ (fun _ _ => ?_)
    | fail_if_no_progress refine Only.mk (k := ?_)

theorem State.dropHead_only (s : State) (n : LaneId) (j c : Nat) (e : Queued) :
    Only [.sys, .quads, .lanes] s (State.dropHead s n j c e) := by
  simp only [State.dropHead]
  repeat' first
    | with_reducible apply Only.refl
    | with_reducible assumption
    | ((with_reducible apply Only.step (State.modTm_only _ _ _ _)); rfl)
    | ((with_reducible apply Only.step (State.toSump_only _ _ _ _)); rfl)
    | ((with_reducible apply Only.step (State.usCnt_only _ _ _ _)); rfl)
    | with_reducible apply Only.ite
    | with_reducible apply Only.ite_snd
    | with_reducible apply Only.ite_fst
    | split
    | with_reducible apply Only.foldl _ (fun _ _ => ?_)
    | with_reducible apply Only.foldl_fst _ (fun _ _ => ?_)
    | fail_if_no_progress refine Only.mk (k := ?_)

theorem State.defer_only (s : State) (n : LaneId) (j k : Nat) :
    Only [.quads, .lanes] s (State.defer s n j k) := by
  simp only [State.defer]
  repeat' first
    | with_reducible apply Only.refl
    | with_reducible assumption
    | ((with_reducible apply Only.step (State.modTm_only _ _ _ _)); rfl)
    | ((with_reducible apply Only.step (State.usCnt_only _ _ _ _)); rfl)
    | with_reducible apply Only.ite
    | with_reducible apply Only.ite_snd
    | with_reducible apply Only.ite_fst
    | split
    | with_reducible apply Only.foldl _ (fun _ _ => ?_)
    | with_reducible apply Only.foldl_fst _ (fun _ _ => ?_)
    | fail_if_no_progress refine Only.mk (k := ?_)

theorem State.takePiece_only (s : State) (n : LaneId) (j len : Nat) (e : Queued) (enc : Bool) :
    Only [.quads] s (State.takePiece s n j len e enc).1 := by
  simp only [State.takePiece]
  repeat' first
    | with_reducible apply Only.refl
    | with_reducible assumption
    | ((with_reducible apply Only.step (State.charge_only _ _ _ _ _ _ _)); rfl)
    | ((with_reducible apply Only.step (State.modTm_only _ _ _ _)); rfl)
    | with_reducible apply Only.ite
    | with_reducible apply Only.ite_snd
    | with_reducible apply Only.ite_fst
    | split
    | with_reducible apply Only.foldl _ (fun _ _ => ?_)
    | with_reducible apply Only.foldl_fst _ (fun _ _ => ?_)
    | fail_if_no_progress refine Only.mk (k := ?_)

theorem State.fillFrames_only (n : LaneId) (alloc : BitVec 14) (nofrag : Bool) (full fuel : Nat) (s : State) (space : Nat)
    (l : List Piece) : Only [.sys, .quads, .lanes] s (State.fillFrames n alloc nofrag full fuel s space l).1 := by
  induction fuel generalizing s space l with
  | zero => exact Only.refl _ _
  | succ fuel ih =>
    simp only [State.fillFrames]
    repeat' first
      | with_reducible apply Only.refl
      | ((with_reducible apply Only.step (ih _ _ _)); rfl)
      | with_reducible assumption
      | ((with_reducible apply Only.step (State.defer_only _ _ _ _)); rfl)
      | ((with_reducible apply Only.step (State.dropHead_only _ _ _ _ _)); rfl)
      | ((with_reducible apply Only.step (State.nextQueue_only _ _ _)); rfl)
      | ((with_reducible apply Only.step (State.takePiece_only _ _ _ _ _ _)); rfl)
      | ((with_reducible apply Only.step (State.usCnt_only _ _ _ _)); rfl)
      | (rename_i hh; with_reducible apply triple_eq at hh; obtain ⟨rfl, rfl, rfl⟩ := hh)
      | (rename_i hh; with_reducible apply pair_eq at hh; obtain ⟨rfl, rfl⟩ := hh)
      | (rename_i hh; with_reducible apply pair_eq at hh; obtain ⟨-, rfl⟩ := hh)
      | (rename_i hh; with_reducible apply pair_eq at hh; obtain ⟨rfl, -⟩ := hh)
      | with_reducible apply Only.ite
      | with_reducible apply Only.ite_snd
      | with_reducible apply Only.ite_fst
      | split
      | with_reducible apply Only.foldl _ (fun _ _ => ?_)
      | with_reducible apply Only.foldl_fst _ (fun _ _ => ?_)
      | fail_if_no_progress refine Only.mk (k := ?_)

theorem State.fillGrant_only (s : State) (n : LaneId) (data : Bool) (b : Burst) (g : Grant) :
    Only [.sys, .quads, .lanes] s (State.fillGrant s n data b g).1 := by
  simp only [State.fillGrant]
  repeat' first
    | with_reducible apply Only.refl
    | with_reducible assumption
    | ((with_reducible apply Only.step (State.fillFrames_only _ _ _ _ _ _ _ _)); rfl)
    | ((with_reducible apply Only.step (State.modPump_only _ _ _)); rfl)
    | (rename_i hh; with_reducible apply triple_eq at hh; obtain ⟨rfl, rfl, rfl⟩ := hh)
    | (rename_i hh; with_reducible apply pair_eq at hh; obtain ⟨rfl, rfl⟩ := hh)
    | (rename_i hh; with_reducible apply pair_eq at hh; obtain ⟨-, rfl⟩ := hh)
    | (rename_i hh; with_reducible apply pair_eq at hh; obtain ⟨rfl, -⟩ := hh)
    | with_reducible apply Only.ite
    | with_reducible apply Only.ite_snd
    | with_reducible apply Only.ite_fst
    | split
    | with_reducible apply Only.foldl _ (fun _ _ => ?_)
    | with_reducible apply Only.foldl_fst _ (fun _ _ => ?_)
    | fail_if_no_progress refine Only.mk (k := ?_)

theorem State.fillBurst_only (n : LaneId) (data : Bool) (l : List Grant) (s : State) (b : Burst) :
    Only [.sys, .quads, .lanes] s (State.fillBurst n data l s b).1 := by
  induction l generalizing s b with
  | nil => exact Only.refl _ _
  | cons g t ih => exact Only.step (ih _ _) rfl (State.fillGrant_only _ _ _ _ _)

end Sys2Proof.Machine
end

