-- ==== Sys2Proof/Laws/OnlyBond.lean ====
section
/-!
SUPPORT. What the operations of Machine/Bond.lean may change.
-/
namespace Sys2Proof.Machine

set_option Elab.async false
set_option linter.unusedTactic false
set_option linter.unreachableTactic false

theorem State.onBond_only {ps : List Part} {s t : State} {n : LaneId} {ty : Byte} {k : State → BondMsg → State}
    (hs : subParts [.lanes] ps = true) (hk : ∀ u m, Only ps u (k u m)) (h : Only ps s t) : Only ps s (t.onBond n ty k) := by
  unfold State.onBond
  repeat' first
    | exact h
    | split
    | exact fun q hq => Part.same_trans (Only.step (State.modDs_only _ _ _) hs h q hq) (hk _ _ q hq)

theorem execBondMessageDrop_only (n : LaneId) (s : State) :
    ∃ v, (execBondMessageDrop n s) = .next v ∧ Only [.cst, .lanes] s v := by
  refine ⟨_, rfl, ?_⟩
  try dsimp only
  repeat' first
    | with_reducible apply Only.refl
    | with_reducible assumption
    | ((with_reducible apply Only.step (State.grpCnt_only _ _ _ _)); rfl)
    | ((with_reducible apply Only.step (State.modDs_only _ _ _)); rfl)
    | with_reducible apply Only.ite
    | with_reducible apply Only.ite_snd
    | with_reducible apply Only.ite_fst
    | split
    | with_reducible apply Only.foldl _ (fun _ _ => ?_)
    | with_reducible apply Only.foldl_fst _ (fun _ _ => ?_)
    | fail_if_no_progress refine Only.mk (k := ?_)

theorem execBondJoin_only (n : LaneId) (s : State) :
    ∃ v, (execBondJoin n s) = .next v ∧ Only [.evt, .cst, .lanes, .out, .freeIdx] s v := by
  refine ⟨_, rfl, ?_⟩
  try dsimp only
  repeat' first
    | with_reducible apply Only.refl
    | with_reducible assumption
    | ((with_reducible apply Only.step (State.modBond_only _ _ _)); rfl)
    | ((with_reducible apply Only.step (State.modGroup_only _ _ _)); rfl)
    | ((with_reducible apply Only.step (State.sendBond_only _ _ _ _ _ _ _)); rfl)
    | ((with_reducible apply Only.step (State.setMember_only _ _ _)); rfl)
    | ((with_reducible apply State.onBond_only); rfl)
    | with_reducible apply Only.ite
    | with_reducible apply Only.ite_snd
    | with_reducible apply Only.ite_fst
    | with_reducible intro _
    | split
    | with_reducible apply Only.foldl _ (fun _ _ => ?_)
    | with_reducible apply Only.foldl_fst _ (fun _ _ => ?_)
    | fail_if_no_progress refine Only.mk (k := ?_)

theorem State.memberUp_only (s : State) (n : LaneId) (g : Nat) :
    Only [.evt, .cst, .lanes, .freeIdx] s (State.memberUp s n g) := by
  simp only [State.memberUp]
  repeat' first
    | with_reducible apply Only.refl
    | with_reducible assumption
    | ((with_reducible apply Only.step (State.modBond_only _ _ _)); rfl)
    | ((with_reducible apply Only.step (State.modGroup_only _ _ _)); rfl)
    | ((with_reducible apply Only.step (State.setMember_only _ _ _)); rfl)
    | with_reducible apply Only.ite
    | with_reducible apply Only.ite_snd
    | with_reducible apply Only.ite_fst
    | split
    | with_reducible apply Only.foldl _ (fun _ _ => ?_)
    | with_reducible apply Only.foldl_fst _ (fun _ _ => ?_)
    | fail_if_no_progress refine Only.mk (k := ?_)

theorem execBondHello_only (n : LaneId) (s : State) :
    ∃ v, (execBondHello n s) = .next v ∧ Only [.evt, .cst, .lanes, .freeIdx] s v := by
  refine ⟨_, rfl, ?_⟩
  try dsimp only
  repeat' first
    | with_reducible apply Only.refl
    | with_reducible assumption
    | ((with_reducible apply Only.step (State.memberUp_only _ _ _)); rfl)
    | ((with_reducible apply State.onBond_only); rfl)
    | with_reducible apply Only.ite
    | with_reducible apply Only.ite_snd
    | with_reducible apply Only.ite_fst
    | with_reducible intro _
    | split
    | with_reducible apply Only.foldl _ (fun _ _ => ?_)
    | with_reducible apply Only.foldl_fst _ (fun _ _ => ?_)
    | fail_if_no_progress refine Only.mk (k := ?_)

theorem execBondLeave_only (n : LaneId) (s : State) :
    ∃ v, (execBondLeave n s) = .next v ∧ Only [.evt, .cst, .lanes, .freeIdx] s v := by
  refine ⟨_, rfl, ?_⟩
  try dsimp only
  repeat' first
    | with_reducible apply Only.refl
    | with_reducible assumption
    | ((with_reducible apply Only.step (State.freePos_only _ _)); rfl)
    | ((with_reducible apply Only.step (State.modBond_only _ _ _)); rfl)
    | ((with_reducible apply Only.step (State.setMember_only _ _ _)); rfl)
    | ((with_reducible apply State.onBond_only); rfl)
    | with_reducible apply Only.ite
    | with_reducible apply Only.ite_snd
    | with_reducible apply Only.ite_fst
    | with_reducible intro _
    | split
    | with_reducible apply Only.foldl _ (fun _ _ => ?_)
    | with_reducible apply Only.foldl_fst _ (fun _ _ => ?_)
    | fail_if_no_progress refine Only.mk (k := ?_)

theorem execBondIndep_only (n : LaneId) (s : State) :
    ∃ v, (execBondIndep n s) = .next v ∧ Only [.evt, .cst, .lanes, .freeIdx] s v := by
  refine ⟨_, rfl, ?_⟩
  try dsimp only
  repeat' first
    | with_reducible apply Only.refl
    | with_reducible assumption
    | ((with_reducible apply Only.step (State.setMember_only _ _ _)); rfl)
    | ((with_reducible apply State.onBond_only); rfl)
    | with_reducible apply Only.ite
    | with_reducible apply Only.ite_snd
    | with_reducible apply Only.ite_fst
    | with_reducible intro _
    | split
    | with_reducible apply Only.foldl _ (fun _ _ => ?_)
    | with_reducible apply Only.foldl_fst _ (fun _ _ => ?_)
    | fail_if_no_progress refine Only.mk (k := ?_)

theorem execBondCapsTimer_only (n : LaneId) (s : State) :
    ∃ v, (execBondCapsTimer n s) = .next v ∧ Only [.evt, .cst, .lanes, .out, .freeIdx] s v := by
  refine ⟨_, rfl, ?_⟩
  try dsimp only
  repeat' first
    | with_reducible apply Only.refl
    | with_reducible assumption
    | ((with_reducible apply Only.step (State.sendCaps_only _ _)); rfl)
    | ((with_reducible apply Only.step (State.setMember_only _ _ _)); rfl)
    | with_reducible apply Only.ite
    | with_reducible apply Only.ite_snd
    | with_reducible apply Only.ite_fst
    | split
    | with_reducible apply Only.foldl _ (fun _ _ => ?_)
    | with_reducible apply Only.foldl_fst _ (fun _ _ => ?_)
    | fail_if_no_progress refine Only.mk (k := ?_)

theorem execBondHelloTx_only (n : LaneId) (s : State) :
    ∃ v, (execBondHelloTx n s) = .next v ∧ Only [.lanes, .out] s v := by
  refine ⟨_, rfl, ?_⟩
  try dsimp only
  repeat' first
    | with_reducible apply Only.refl
    | with_reducible assumption
    | ((with_reducible apply Only.step (State.sendBond_only _ _ _ _ _ _ _)); rfl)
    | with_reducible apply Only.ite
    | with_reducible apply Only.ite_snd
    | with_reducible apply Only.ite_fst
    | split
    | with_reducible apply Only.foldl _ (fun _ _ => ?_)
    | with_reducible apply Only.foldl_fst _ (fun _ _ => ?_)
    | fail_if_no_progress refine Only.mk (k := ?_)

theorem execBondHelloTimeout_only (n : LaneId) (s : State) :
    ∃ v, (execBondHelloTimeout n s) = .next v ∧ Only [.evt, .cst, .lanes, .out, .freeIdx] s v := by
  refine ⟨_, rfl, ?_⟩
  try dsimp only
  repeat' first
    | with_reducible apply Only.refl
    | with_reducible assumption
    | ((with_reducible apply Only.step (State.freePos_only _ _)); rfl)
    | ((with_reducible apply Only.step (State.memberLost_only _ _)); rfl)
    | ((with_reducible apply Only.step (State.modBond_only _ _ _)); rfl)
    | ((with_reducible apply Only.step (State.sendCaps_only _ _)); rfl)
    | ((with_reducible apply Only.step (State.setMember_only _ _ _)); rfl)
    | with_reducible apply Only.ite
    | with_reducible apply Only.ite_snd
    | with_reducible apply Only.ite_fst
    | split
    | with_reducible apply Only.foldl _ (fun _ _ => ?_)
    | with_reducible apply Only.foldl_fst _ (fun _ _ => ?_)
    | fail_if_no_progress refine Only.mk (k := ?_)

theorem execBondProbeTimeout_only (n : LaneId) (s : State) :
    ∃ v, (execBondProbeTimeout n s) = .next v ∧ Only [.evt, .cst, .lanes, .freeIdx] s v := by
  refine ⟨_, rfl, ?_⟩
  try dsimp only
  repeat' first
    | with_reducible apply Only.refl
    | with_reducible assumption
    | ((with_reducible apply Only.step (State.setMember_only _ _ _)); rfl)
    | with_reducible apply Only.ite
    | with_reducible apply Only.ite_snd
    | with_reducible apply Only.ite_fst
    | split
    | with_reducible apply Only.foldl _ (fun _ _ => ?_)
    | with_reducible apply Only.foldl_fst _ (fun _ _ => ?_)
    | fail_if_no_progress refine Only.mk (k := ?_)

theorem State.groupSkew_only (s : State) (g : Nat) :
    Only [.cst] s (State.groupSkew s g) := by
  simp only [State.groupSkew]
  repeat' first
    | with_reducible apply Only.refl
    | with_reducible assumption
    | ((with_reducible apply Only.step (State.modGroup_only _ _ _)); rfl)
    | with_reducible apply Only.ite
    | with_reducible apply Only.ite_snd
    | with_reducible apply Only.ite_fst
    | split
    | with_reducible apply Only.foldl _ (fun _ _ => ?_)
    | with_reducible apply Only.foldl_fst _ (fun _ _ => ?_)
    | fail_if_no_progress refine Only.mk (k := ?_)

theorem State.judgeLag_only (s : State) (n : LaneId) (g : Nat) (lag : Int) :
    Only [.evt, .cst, .lanes, .freeIdx] s (State.judgeLag s n g lag) := by
  simp only [State.judgeLag]
  repeat' first
    | with_reducible apply Only.refl
    | with_reducible assumption
    | ((with_reducible apply Only.step (State.grpCnt_only _ _ _ _)); rfl)
    | ((with_reducible apply Only.step (State.modBond_only _ _ _)); rfl)
    | ((with_reducible apply Only.step (State.reportFreeSev_only _ _ _)); rfl)
    | ((with_reducible apply Only.step (State.setMember_only _ _ _)); rfl)
    | with_reducible apply Only.ite
    | with_reducible apply Only.ite_snd
    | with_reducible apply Only.ite_fst
    | split
    | with_reducible apply Only.foldl _ (fun _ _ => ?_)
    | with_reducible apply Only.foldl_fst _ (fun _ _ => ?_)
    | fail_if_no_progress refine Only.mk (k := ?_)

theorem execBondPsyncStamp_only (n : LaneId) (s : State) :
    ∃ v, (execBondPsyncStamp n s) = .next v ∧ Only [.evt, .cst, .lanes, .freeIdx] s v := by
  refine ⟨_, rfl, ?_⟩
  try dsimp only
  repeat' first
    | with_reducible apply Only.refl
    | with_reducible assumption
    | ((with_reducible apply Only.step (State.groupSkew_only _ _)); rfl)
    | ((with_reducible apply Only.step (State.judgeLag_only _ _ _ _)); rfl)
    | ((with_reducible apply Only.step (State.modBond_only _ _ _)); rfl)
    | ((with_reducible apply Only.step (State.modGroup_only _ _ _)); rfl)
    | with_reducible apply Only.ite
    | with_reducible apply Only.ite_snd
    | with_reducible apply Only.ite_fst
    | split
    | with_reducible apply Only.foldl _ (fun _ _ => ?_)
    | with_reducible apply Only.foldl_fst _ (fun _ _ => ?_)
    | fail_if_no_progress refine Only.mk (k := ?_)

end Sys2Proof.Machine
end

