-- ==== Sys2Proof/Laws/OnlySkew.lean ====
section
/-!
SUPPORT. What the operations of Machine/Skew.lean may change.
-/
namespace Sys2Proof.Machine

set_option Elab.async false
set_option linter.unusedTactic false
set_option linter.unreachableTactic false

theorem State.skewDrop_only (s : State) (u : Sdu) :
    Only [.sys] s (State.skewDrop s u) := by
  simp only [State.skewDrop]
  repeat' first
    | with_reducible apply Only.refl
    | with_reducible assumption
    | ((with_reducible apply Only.step (State.toSump_only _ _ _ _)); rfl)
    | with_reducible apply Only.ite
    | with_reducible apply Only.ite_snd
    | with_reducible apply Only.ite_fst
    | split
    | with_reducible apply Only.foldl _ (fun _ _ => ?_)
    | with_reducible apply Only.foldl_fst _ (fun _ _ => ?_)
    | fail_if_no_progress refine Only.mk (k := ?_)

theorem State.skewWrite_only (s : State) (n : LaneId) (g : Nat) (u : Sdu) :
    Only [.sys, .cst, .lanes] s (State.skewWrite s n g u) := by
  simp only [State.skewWrite]
  repeat' first
    | with_reducible apply Only.refl
    | with_reducible assumption
    | ((with_reducible apply Only.step (State.grpCnt_only _ _ _ _)); rfl)
    | ((with_reducible apply Only.step (State.modBond_only _ _ _)); rfl)
    | ((with_reducible apply Only.step (State.modGroup_only _ _ _)); rfl)
    | ((with_reducible apply Only.step (State.request_only _ _ _ _)); rfl)
    | ((with_reducible apply Only.step (State.skewDrop_only _ _)); rfl)
    | with_reducible apply Only.ite
    | with_reducible apply Only.ite_snd
    | with_reducible apply Only.ite_fst
    | split
    | with_reducible apply Only.foldl _ (fun _ _ => ?_)
    | with_reducible apply Only.foldl_fst _ (fun _ _ => ?_)
    | fail_if_no_progress refine Only.mk (k := ?_)

theorem execSkewSduWrite_only (n : LaneId) (s : State) :
    ∃ v, (execSkewSduWrite n s) = .next v ∧ Only [.sys, .cst, .lanes] s v := by
  refine ⟨_, rfl, ?_⟩
  try dsimp only
  repeat' first
    | with_reducible apply Only.refl
    | with_reducible assumption
    | ((with_reducible apply Only.step (State.modDs_only _ _ _)); rfl)
    | ((with_reducible apply Only.step (State.skewDrop_only _ _)); rfl)
    | ((with_reducible apply Only.step (State.skewWrite_only _ _ _ _)); rfl)
    | with_reducible apply Only.ite
    | with_reducible apply Only.ite_snd
    | with_reducible apply Only.ite_fst
    | split
    | with_reducible apply Only.foldl _ (fun _ _ => ?_)
    | with_reducible apply Only.foldl_fst _ (fun _ _ => ?_)
    | fail_if_no_progress refine Only.mk (k := ?_)

theorem State.releaseSdu_only (s : State) (g : Nat) (u : Sdu) :
    Only [.sys, .cst, .quads] s (State.releaseSdu s g u) := by
  simp only [State.releaseSdu]
  repeat' first
    | with_reducible apply Only.refl
    | with_reducible assumption
    | ((with_reducible apply Only.step (State.request_only _ _ _ _)); rfl)
    | ((with_reducible apply Only.step (State.toParser_only _ _ _)); rfl)
    | ((with_reducible apply Only.step (State.toSump_only _ _ _ _)); rfl)
    | with_reducible apply Only.ite
    | with_reducible apply Only.ite_snd
    | with_reducible apply Only.ite_fst
    | split
    | with_reducible apply Only.foldl _ (fun _ _ => ?_)
    | with_reducible apply Only.foldl_fst _ (fun _ _ => ?_)
    | fail_if_no_progress refine Only.mk (k := ?_)

theorem execSkewSlotRelease_only (g : GroupId) (s : State) :
    ∃ v, (execSkewSlotRelease g s) = .next v ∧ Only [.sys, .cst, .quads] s v := by
  refine ⟨_, rfl, ?_⟩
  try dsimp only
  repeat' first
    | with_reducible apply Only.refl
    | with_reducible assumption
    | ((with_reducible apply Only.step (State.grpCnt_only _ _ _ _)); rfl)
    | ((with_reducible apply Only.step (State.modGroup_only _ _ _)); rfl)
    | ((with_reducible apply Only.step (State.releaseSdu_only _ _ _)); rfl)
    | with_reducible apply Only.ite
    | with_reducible apply Only.ite_snd
    | with_reducible apply Only.ite_fst
    | split
    | with_reducible apply Only.foldl _ (fun _ _ => ?_)
    | with_reducible apply Only.foldl_fst _ (fun _ _ => ?_)
    | fail_if_no_progress refine Only.mk (k := ?_)

theorem State.skewRefuse_only (s : State) (cause : BitVec 3) :
    Only [.cst] s (State.skewRefuse s cause) := by
  simp only [State.skewRefuse]
  repeat' first
    | with_reducible apply Only.refl
    | with_reducible assumption
    | with_reducible apply Only.ite
    | with_reducible apply Only.ite_snd
    | with_reducible apply Only.ite_fst
    | split
    | with_reducible apply Only.foldl _ (fun _ _ => ?_)
    | with_reducible apply Only.foldl_fst _ (fun _ _ => ?_)
    | fail_if_no_progress refine Only.mk (k := ?_)

theorem State.groupUp_only (s : State) (g : Nat) :
    Only [.evt, .cst, .lanes, .out, .freeIdx] s (State.groupUp s g) := by
  simp only [State.groupUp]
  repeat' first
    | with_reducible apply Only.refl
    | with_reducible assumption
    | ((with_reducible apply Only.step (State.judgeVcat_only _ _ _)); rfl)
    | ((with_reducible apply Only.step (State.modGroup_only _ _ _)); rfl)
    | ((with_reducible apply Only.step (State.probe_only _ _)); rfl)
    | with_reducible apply Only.ite
    | with_reducible apply Only.ite_snd
    | with_reducible apply Only.ite_fst
    | split
    | with_reducible apply Only.foldl _ (fun _ _ => ?_)
    | with_reducible apply Only.foldl_fst _ (fun _ _ => ?_)
    | fail_if_no_progress refine Only.mk (k := ?_)

theorem State.memberLeave_only (s : State) (n : LaneId) (token : W32) :
    Only [.lanes, .out] s (State.memberLeave s n token) := by
  simp only [State.memberLeave]
  repeat' first
    | with_reducible apply Only.refl
    | with_reducible assumption
    | ((with_reducible apply Only.step (State.modBond_only _ _ _)); rfl)
    | ((with_reducible apply Only.step (State.sendBond_only _ _ _ _ _ _ _)); rfl)
    | with_reducible apply Only.ite
    | with_reducible apply Only.ite_snd
    | with_reducible apply Only.ite_fst
    | split
    | with_reducible apply Only.foldl _ (fun _ _ => ?_)
    | with_reducible apply Only.foldl_fst _ (fun _ _ => ?_)
    | fail_if_no_progress refine Only.mk (k := ?_)

theorem State.groupDown_only (s : State) (g : Nat) :
    Only [.sys, .cst, .lanes, .out] s (State.groupDown s g) := by
  simp only [State.groupDown]
  repeat' first
    | with_reducible apply Only.refl
    | with_reducible assumption
    | ((with_reducible apply Only.step (State.grpCnt_only _ _ _ _)); rfl)
    | ((with_reducible apply Only.step (State.memberLeave_only _ _ _)); rfl)
    | ((with_reducible apply Only.step (State.modGroup_only _ _ _)); rfl)
    | ((with_reducible apply Only.step (State.toSump_only _ _ _ _)); rfl)
    | with_reducible apply Only.ite
    | with_reducible apply Only.ite_snd
    | with_reducible apply Only.ite_fst
    | split
    | with_reducible apply Only.foldl _ (fun _ _ => ?_)
    | with_reducible apply Only.foldl_fst _ (fun _ _ => ?_)
    | fail_if_no_progress refine Only.mk (k := ?_)

theorem State.seqWrite_only (s : State) (g i : Nat) (w : BitVec 16) :
    Only [.cst, .lanes] s (State.seqWrite s g i w) := by
  simp only [State.seqWrite]
  repeat' first
    | with_reducible apply Only.refl
    | with_reducible assumption
    | ((with_reducible apply Only.step (State.modGroup_only _ _ _)); rfl)
    | ((with_reducible apply Only.step (State.modSdh_only _ _ _)); rfl)
    | with_reducible apply Only.ite
    | with_reducible apply Only.ite_snd
    | with_reducible apply Only.ite_fst
    | split
    | with_reducible apply Only.foldl _ (fun _ _ => ?_)
    | with_reducible apply Only.foldl_fst _ (fun _ _ => ?_)
    | fail_if_no_progress refine Only.mk (k := ?_)

theorem State.groupCtl_only (s : State) (g : Nat) (w : W32) :
    Only [.sys, .evt, .cst, .lanes, .out, .freeIdx] s (State.groupCtl s g w) := by
  simp only [State.groupCtl]
  repeat' first
    | with_reducible apply Only.refl
    | with_reducible assumption
    | ((with_reducible apply Only.step (State.groupDown_only _ _)); rfl)
    | ((with_reducible apply Only.step (State.groupUp_only _ _)); rfl)
    | ((with_reducible apply Only.step (State.modGroup_only _ _ _)); rfl)
    | ((with_reducible apply Only.step (State.skewRefuse_only _ _)); rfl)
    | with_reducible apply Only.ite
    | with_reducible apply Only.ite_snd
    | with_reducible apply Only.ite_fst
    | split
    | with_reducible apply Only.foldl _ (fun _ _ => ?_)
    | with_reducible apply Only.foldl_fst _ (fun _ _ => ?_)
    | fail_if_no_progress refine Only.mk (k := ?_)

theorem State.groupWrite_only (s : State) (g i : Nat) (w : W32) :
    Only [.sys, .evt, .cst, .lanes, .out, .freeIdx] s (State.groupWrite s g i w) := by
  simp only [State.groupWrite]
  repeat' first
    | with_reducible apply Only.refl
    | with_reducible assumption
    | ((with_reducible apply Only.step (State.groupCtl_only _ _ _)); rfl)
    | ((with_reducible apply Only.step (State.modGroup_only _ _ _)); rfl)
    | ((with_reducible apply Only.step (State.seqWrite_only _ _ _ _)); rfl)
    | ((with_reducible apply Only.step (State.skewRefuse_only _ _)); rfl)
    | with_reducible apply Only.ite
    | with_reducible apply Only.ite_snd
    | with_reducible apply Only.ite_fst
    | split
    | with_reducible apply Only.foldl _ (fun _ _ => ?_)
    | with_reducible apply Only.foldl_fst _ (fun _ _ => ?_)
    | fail_if_no_progress refine Only.mk (k := ?_)

theorem State.grpDataRead_only (s : State) :
    Only [.cst] s (State.grpDataRead s).2 := by
  simp only [State.grpDataRead]
  repeat' first
    | with_reducible apply Only.refl
    | with_reducible assumption
    | with_reducible apply Only.ite
    | with_reducible apply Only.ite_snd
    | with_reducible apply Only.ite_fst
    | split
    | with_reducible apply Only.foldl _ (fun _ _ => ?_)
    | with_reducible apply Only.foldl_fst _ (fun _ _ => ?_)
    | fail_if_no_progress refine Only.mk (k := ?_)

theorem State.grpDataWrite_only (s : State) (w : W32) :
    Only [.sys, .evt, .cst, .lanes, .out, .freeIdx] s (State.grpDataWrite s w) := by
  simp only [State.grpDataWrite]
  repeat' first
    | with_reducible apply Only.refl
    | with_reducible assumption
    | ((with_reducible apply Only.step (State.groupWrite_only _ _ _ _)); rfl)
    | with_reducible apply Only.ite
    | with_reducible apply Only.ite_snd
    | with_reducible apply Only.ite_fst
    | split
    | with_reducible apply Only.foldl _ (fun _ _ => ?_)
    | with_reducible apply Only.foldl_fst _ (fun _ _ => ?_)
    | fail_if_no_progress refine Only.mk (k := ?_)

theorem State.skwCmd_only (s : State) (w : W32) :
    Only [.evt, .cst, .lanes, .out, .freeIdx] s (State.skwCmd s w) := by
  simp only [State.skwCmd]
  repeat' first
    | with_reducible apply Only.refl
    | with_reducible assumption
    | ((with_reducible apply Only.step (State.probe_only _ _)); rfl)
    | ((with_reducible apply Only.step (State.setMember_only _ _ _)); rfl)
    | with_reducible apply Only.ite
    | with_reducible apply Only.ite_snd
    | with_reducible apply Only.ite_fst
    | split
    | with_reducible apply Only.foldl _ (fun _ _ => ?_)
    | with_reducible apply Only.foldl_fst _ (fun _ _ => ?_)
    | fail_if_no_progress refine Only.mk (k := ?_)

theorem State.skwRead_only (s : State) (off : Nat) :
    Only [.cst] s (State.skwRead s off).2 := by
  simp only [State.skwRead]
  repeat' first
    | with_reducible apply Only.refl
    | with_reducible assumption
    | ((with_reducible apply Only.step (State.grpDataRead_only _)); rfl)
    | with_reducible apply Only.ite
    | with_reducible apply Only.ite_snd
    | with_reducible apply Only.ite_fst
    | split
    | with_reducible apply Only.foldl _ (fun _ _ => ?_)
    | with_reducible apply Only.foldl_fst _ (fun _ _ => ?_)
    | fail_if_no_progress refine Only.mk (k := ?_)

theorem State.skwWrite_only (s : State) (off : Nat) (w : W32) :
    Only [.sys, .evt, .cst, .lanes, .out, .freeIdx] s (State.skwWrite s off w) := by
  simp only [State.skwWrite]
  repeat' first
    | with_reducible apply Only.refl
    | with_reducible assumption
    | ((with_reducible apply Only.step (State.grpDataWrite_only _ _)); rfl)
    | ((with_reducible apply Only.step (State.skwCmd_only _ _)); rfl)
    | with_reducible apply Only.ite
    | with_reducible apply Only.ite_snd
    | with_reducible apply Only.ite_fst
    | split
    | with_reducible apply Only.foldl _ (fun _ _ => ?_)
    | with_reducible apply Only.foldl_fst _ (fun _ _ => ?_)
    | fail_if_no_progress refine Only.mk (k := ?_)

theorem execGroupEnable_only (p : Port) (g : GroupId) (w : W32) (s : State) :
    ∃ v, (execGroupEnable p g w s) = .next v ∧ Only [.sys, .evt, .hif, .cst, .lanes, .out, .freeIdx] s v := by
  refine ⟨_, rfl, ?_⟩
  try dsimp only
  repeat' first
    | with_reducible apply Only.refl
    | with_reducible assumption
    | ((with_reducible apply Only.step (State.grpDataWrite_only _ _)); rfl)
    | ((with_reducible apply State.writeIsl_only); rfl)
    | with_reducible apply Only.ite
    | with_reducible apply Only.ite_snd
    | with_reducible apply Only.ite_fst
    | with_reducible intro _
    | split
    | with_reducible apply Only.foldl _ (fun _ _ => ?_)
    | with_reducible apply Only.foldl_fst _ (fun _ _ => ?_)
    | fail_if_no_progress refine Only.mk (k := ?_)

theorem execGroupDisable_only (p : Port) (g : GroupId) (w : W32) (s : State) :
    ∃ v, (execGroupDisable p g w s) = .next v ∧ Only [.sys, .evt, .hif, .cst, .lanes, .out, .freeIdx] s v := by
  refine ⟨_, rfl, ?_⟩
  try dsimp only
  repeat' first
    | with_reducible apply Only.refl
    | with_reducible assumption
    | ((with_reducible apply Only.step (State.grpDataWrite_only _ _)); rfl)
    | ((with_reducible apply State.writeIsl_only); rfl)
    | with_reducible apply Only.ite
    | with_reducible apply Only.ite_snd
    | with_reducible apply Only.ite_fst
    | with_reducible intro _
    | split
    | with_reducible apply Only.foldl _ (fun _ _ => ?_)
    | with_reducible apply Only.foldl_fst _ (fun _ _ => ?_)
    | fail_if_no_progress refine Only.mk (k := ?_)

theorem execGrpDataAccess_only (p : Port) (acc : Option W32) (s : State) :
    ∃ v, (execGrpDataAccess p acc s) = .next v ∧ Only [.sys, .evt, .hif, .cst, .lanes, .out, .freeIdx] s v := by
  refine ⟨_, rfl, ?_⟩
  try dsimp only
  repeat' first
    | with_reducible apply Only.refl
    | with_reducible assumption
    | ((with_reducible apply Only.step (State.grpDataRead_only _)); rfl)
    | ((with_reducible apply Only.step (State.grpDataWrite_only _ _)); rfl)
    | ((with_reducible apply State.readIsl_only); rfl)
    | ((with_reducible apply State.writeIsl_only); rfl)
    | with_reducible apply Only.ite
    | with_reducible apply Only.ite_snd
    | with_reducible apply Only.ite_fst
    | with_reducible intro _
    | split
    | with_reducible apply Only.foldl _ (fun _ _ => ?_)
    | with_reducible apply Only.foldl_fst _ (fun _ _ => ?_)
    | fail_if_no_progress refine Only.mk (k := ?_)

theorem execSkwRestart_only (p : Port) (w : W32) (s : State) :
    ∃ v, (execSkwRestart p w s) = .next v ∧ Only [.evt, .hif, .cst, .lanes, .out, .freeIdx] s v := by
  refine ⟨_, rfl, ?_⟩
  try dsimp only
  repeat' first
    | with_reducible apply Only.refl
    | with_reducible assumption
    | ((with_reducible apply Only.step (State.skwCmd_only _ _)); rfl)
    | ((with_reducible apply State.writeIsl_only); rfl)
    | with_reducible apply Only.ite
    | with_reducible apply Only.ite_snd
    | with_reducible apply Only.ite_fst
    | with_reducible intro _
    | split
    | with_reducible apply Only.foldl _ (fun _ _ => ?_)
    | with_reducible apply Only.foldl_fst _ (fun _ _ => ?_)
    | fail_if_no_progress refine Only.mk (k := ?_)

end Sys2Proof.Machine
end

