-- ==== Sys2Proof/Laws/OnlyCistern.lean ====
section
/-!
SUPPORT. What the operations of Machine/Cistern.lean may change.
-/
namespace Sys2Proof.Machine

set_option Elab.async false
set_option linter.unusedTactic false
set_option linter.unreachableTactic false

theorem State.cstErr_only (s : State) (e : BitVec 4) :
    Only [.cst] s (State.cstErr s e) := by
  simp only [State.cstErr]
  repeat' first
    | with_reducible apply Only.refl
    | with_reducible assumption
    | ((with_reducible apply Only.step (State.modCst_only _ _)); rfl)
    | with_reducible apply Only.ite
    | with_reducible apply Only.ite_snd
    | with_reducible apply Only.ite_fst
    | split
    | with_reducible apply Only.foldl _ (fun _ _ => ?_)
    | with_reducible apply Only.foldl_fst _ (fun _ _ => ?_)
    | fail_if_no_progress refine Only.mk (k := ?_)

theorem State.cstDrain_only (s : State) (d : BitVec 2) (retire : Bool) :
    Only [.sys, .str, .pwr, .evt, .tim, .hif, .cst, .tbl, .fbk, .stw, .quads, .cores, .lanes, .out, .freeIdx] s (State.cstDrain s d retire) := by
  simp only [State.cstDrain]
  repeat' first
    | with_reducible apply Only.refl
    | with_reducible assumption
    | ((with_reducible apply Only.step (State.cstEnter_only _ _)); rfl)
    | ((with_reducible apply Only.step (State.loseShadows_only _)); rfl)
    | ((with_reducible apply Only.step (State.modCst_only _ _)); rfl)
    | ((with_reducible apply Only.step (State.powerSettle_only _)); rfl)
    | ((with_reducible apply Only.step (State.request_only _ _ _ _)); rfl)
    | with_reducible apply Only.ite
    | with_reducible apply Only.ite_snd
    | with_reducible apply Only.ite_fst
    | split
    | with_reducible apply Only.foldl _ (fun _ _ => ?_)
    | with_reducible apply Only.foldl_fst _ (fun _ _ => ?_)
    | fail_if_no_progress refine Only.mk (k := ?_)

theorem State.cstRetrain_only (s : State) (d : BitVec 2) :
    Only [.sys, .str, .pwr, .evt, .tim, .hif, .cst, .tbl, .fbk, .stw, .quads, .cores, .lanes, .out, .freeIdx] s (State.cstRetrain s d) := by
  simp only [State.cstRetrain]
  repeat' first
    | with_reducible apply Only.refl
    | with_reducible assumption
    | ((with_reducible apply Only.step (State.cstDrain_only _ _ _)); rfl)
    | ((with_reducible apply Only.step (State.cstEnter_only _ _)); rfl)
    | ((with_reducible apply Only.step (State.cstErr_only _ _)); rfl)
    | ((with_reducible apply Only.step (State.powerSettle_only _)); rfl)
    | ((with_reducible apply Only.step (State.request_only _ _ _ _)); rfl)
    | with_reducible apply Only.ite
    | with_reducible apply Only.ite_snd
    | with_reducible apply Only.ite_fst
    | split
    | with_reducible apply Only.foldl _ (fun _ _ => ?_)
    | with_reducible apply Only.foldl_fst _ (fun _ _ => ?_)
    | fail_if_no_progress refine Only.mk (k := ?_)

theorem State.cstRetire_only (s : State) (d : BitVec 2) :
    Only [.sys, .str, .pwr, .evt, .tim, .hif, .cst, .tbl, .fbk, .stw, .quads, .cores, .lanes, .out, .freeIdx] s (State.cstRetire s d) := by
  simp only [State.cstRetire]
  repeat' first
    | with_reducible apply Only.refl
    | with_reducible assumption
    | ((with_reducible apply Only.step (State.cstDrain_only _ _ _)); rfl)
    | ((with_reducible apply Only.step (State.cstErr_only _ _)); rfl)
    | with_reducible apply Only.ite
    | with_reducible apply Only.ite_snd
    | with_reducible apply Only.ite_fst
    | split
    | with_reducible apply Only.foldl _ (fun _ _ => ?_)
    | with_reducible apply Only.foldl_fst _ (fun _ _ => ?_)
    | fail_if_no_progress refine Only.mk (k := ?_)

theorem State.cstScrub_only (s : State) :
    Only [.cst] s (State.cstScrub s) := by
  simp only [State.cstScrub]
  repeat' first
    | with_reducible apply Only.refl
    | with_reducible assumption
    | ((with_reducible apply Only.step (State.cstErr_only _ _)); rfl)
    | ((with_reducible apply Only.step (State.modCst_only _ _)); rfl)
    | ((with_reducible apply Only.step (State.request_only _ _ _ _)); rfl)
    | with_reducible apply Only.ite
    | with_reducible apply Only.ite_snd
    | with_reducible apply Only.ite_fst
    | split
    | with_reducible apply Only.foldl _ (fun _ _ => ?_)
    | with_reducible apply Only.foldl_fst _ (fun _ _ => ?_)
    | fail_if_no_progress refine Only.mk (k := ?_)

theorem State.cstCmd_only (s : State) (op : Nat) (d : BitVec 2) :
    Only [.sys, .str, .pwr, .evt, .tim, .hif, .cst, .tbl, .fbk, .stw, .quads, .cores, .lanes, .out, .freeIdx] s (State.cstCmd s op d) := by
  simp only [State.cstCmd]
  repeat' first
    | with_reducible apply Only.refl
    | with_reducible assumption
    | ((with_reducible apply Only.step (State.cstErr_only _ _)); rfl)
    | ((with_reducible apply Only.step (State.cstRetire_only _ _)); rfl)
    | ((with_reducible apply Only.step (State.cstRetrain_only _ _)); rfl)
    | ((with_reducible apply Only.step (State.cstScrub_only _)); rfl)
    | with_reducible apply Only.ite
    | with_reducible apply Only.ite_snd
    | with_reducible apply Only.ite_fst
    | split
    | with_reducible apply Only.foldl _ (fun _ _ => ?_)
    | with_reducible apply Only.foldl_fst _ (fun _ _ => ?_)
    | fail_if_no_progress refine Only.mk (k := ?_)

theorem execRetrain_only (p : Port) (d : Fin 4) (s : State) :
    ∃ v, (execRetrain p d s) = .next v ∧ Only [.sys, .str, .pwr, .evt, .tim, .hif, .cst, .tbl, .fbk, .stw, .quads, .cores, .lanes, .out, .freeIdx] s v := by
  refine ⟨_, rfl, ?_⟩
  try dsimp only
  repeat' first
    | with_reducible apply Only.refl
    | with_reducible assumption
    | ((with_reducible apply Only.step (State.cstCmd_only _ _ _)); rfl)
    | ((with_reducible apply State.writeIsl_only); rfl)
    | with_reducible apply Only.ite
    | with_reducible apply Only.ite_snd
    | with_reducible apply Only.ite_fst
    | with_reducible intro _
    | split
    | with_reducible apply Only.foldl _ (fun _ _ => ?_)
    | with_reducible apply Only.foldl_fst _ (fun _ _ => ?_)
    | fail_if_no_progress refine Only.mk (k := ?_)

theorem execRetire_only (p : Port) (d : Fin 4) (s : State) :
    ∃ v, (execRetire p d s) = .next v ∧ Only [.sys, .str, .pwr, .evt, .tim, .hif, .cst, .tbl, .fbk, .stw, .quads, .cores, .lanes, .out, .freeIdx] s v := by
  refine ⟨_, rfl, ?_⟩
  try dsimp only
  repeat' first
    | with_reducible apply Only.refl
    | with_reducible assumption
    | ((with_reducible apply Only.step (State.cstCmd_only _ _ _)); rfl)
    | ((with_reducible apply State.writeIsl_only); rfl)
    | with_reducible apply Only.ite
    | with_reducible apply Only.ite_snd
    | with_reducible apply Only.ite_fst
    | with_reducible intro _
    | split
    | with_reducible apply Only.foldl _ (fun _ _ => ?_)
    | with_reducible apply Only.foldl_fst _ (fun _ _ => ?_)
    | fail_if_no_progress refine Only.mk (k := ?_)

theorem execScrubNow_only (p : Port) (s : State) :
    ∃ v, (execScrubNow p s) = .next v ∧ Only [.sys, .str, .pwr, .evt, .tim, .hif, .cst, .tbl, .fbk, .stw, .quads, .cores, .lanes, .out, .freeIdx] s v := by
  refine ⟨_, rfl, ?_⟩
  try dsimp only
  repeat' first
    | with_reducible apply Only.refl
    | with_reducible assumption
    | ((with_reducible apply Only.step (State.cstCmd_only _ _ _)); rfl)
    | ((with_reducible apply State.writeIsl_only); rfl)
    | with_reducible apply Only.ite
    | with_reducible apply Only.ite_snd
    | with_reducible apply Only.ite_fst
    | with_reducible intro _
    | split
    | with_reducible apply Only.foldl _ (fun _ _ => ?_)
    | with_reducible apply Only.foldl_fst _ (fun _ _ => ?_)
    | fail_if_no_progress refine Only.mk (k := ?_)

theorem State.trainFailed_only (s : State) (d : Nat) :
    Only [.evt] s (State.trainFailed s d) := by
  simp only [State.trainFailed]
  repeat' first
    | with_reducible apply Only.refl
    | with_reducible assumption
    | ((with_reducible apply Only.step (State.report_only _ _ _ _)); rfl)
    | with_reducible apply Only.ite
    | with_reducible apply Only.ite_snd
    | with_reducible apply Only.ite_fst
    | split
    | with_reducible apply Only.foldl _ (fun _ _ => ?_)
    | with_reducible apply Only.foldl_fst _ (fun _ _ => ?_)
    | fail_if_no_progress refine Only.mk (k := ?_)

theorem State.deviceLost_only (s : State) (d : Nat) :
    Only [.sys, .cst, .tbl, .quads, .freeIdx] s (State.deviceLost s d) := by
  simp only [State.deviceLost]
  repeat' first
    | with_reducible apply Only.refl
    | with_reducible assumption
    | ((with_reducible apply Only.step (State.loseBuckets_only _ _)); rfl)
    | ((with_reducible apply Only.step (State.loseLines_only _)); rfl)
    | with_reducible apply Only.ite
    | with_reducible apply Only.ite_snd
    | with_reducible apply Only.ite_fst
    | split
    | with_reducible apply Only.foldl _ (fun _ _ => ?_)
    | with_reducible apply Only.foldl_fst _ (fun _ _ => ?_)
    | fail_if_no_progress refine Only.mk (k := ?_)

theorem State.buffersLost_only (s : State) :
    Only [.sys, .cst] s (State.buffersLost s) := by
  simp only [State.buffersLost]
  repeat' first
    | with_reducible apply Only.refl
    | with_reducible assumption
    | ((with_reducible apply Only.step (State.grpCnt_only _ _ _ _)); rfl)
    | ((with_reducible apply Only.step (State.modGroup_only _ _ _)); rfl)
    | ((with_reducible apply Only.step (State.skewDrop_only _ _)); rfl)
    | with_reducible apply Only.ite
    | with_reducible apply Only.ite_snd
    | with_reducible apply Only.ite_fst
    | split
    | with_reducible apply Only.foldl _ (fun _ _ => ?_)
    | with_reducible apply Only.foldl_fst _ (fun _ _ => ?_)
    | fail_if_no_progress refine Only.mk (k := ?_)

theorem State.trained_only (s : State) (failed : BitVec 4) :
    Only [.sys, .evt, .cst, .tbl, .quads, .freeIdx] s (State.trained s failed) := by
  simp only [State.trained]
  repeat' first
    | with_reducible apply Only.refl
    | with_reducible assumption
    | ((with_reducible apply Only.step (State.buffersLost_only _)); rfl)
    | ((with_reducible apply Only.step (State.cstEnter_only _ _)); rfl)
    | ((with_reducible apply Only.step (State.deviceLost_only _ _)); rfl)
    | ((with_reducible apply Only.step (State.loseShadows_only _)); rfl)
    | ((with_reducible apply Only.step (State.modCst_only _ _)); rfl)
    | ((with_reducible apply Only.step (State.trainFailed_only _ _)); rfl)
    | with_reducible apply Only.ite
    | with_reducible apply Only.ite_snd
    | with_reducible apply Only.ite_fst
    | split
    | with_reducible apply Only.foldl _ (fun _ _ => ?_)
    | with_reducible apply Only.foldl_fst _ (fun _ _ => ?_)
    | fail_if_no_progress refine Only.mk (k := ?_)

theorem execCstTrainDone_only (failed : BitVec 4) (s : State) :
    ∃ v, (execCstTrainDone failed s) = .next v ∧ Only [.sys, .str, .pwr, .evt, .tim, .hif, .cst, .tbl, .fbk, .stw, .quads, .cores, .lanes, .out, .freeIdx] s v := by
  refine ⟨_, rfl, ?_⟩
  try dsimp only
  repeat' first
    | with_reducible apply Only.refl
    | with_reducible assumption
    | ((with_reducible apply Only.step (State.cstEnter_only _ _)); rfl)
    | ((with_reducible apply Only.step (State.maintServed_only _)); rfl)
    | ((with_reducible apply Only.step (State.modCst_only _ _)); rfl)
    | ((with_reducible apply Only.step (State.powerSettle_only _)); rfl)
    | ((with_reducible apply Only.step (State.request_only _ _ _ _)); rfl)
    | ((with_reducible apply Only.step (State.trainFailed_only _ _)); rfl)
    | ((with_reducible apply Only.step (State.trained_only _ _)); rfl)
    | with_reducible apply Only.ite
    | with_reducible apply Only.ite_snd
    | with_reducible apply Only.ite_fst
    | split
    | with_reducible apply Only.foldl _ (fun _ _ => ?_)
    | with_reducible apply Only.foldl_fst _ (fun _ _ => ?_)
    | fail_if_no_progress refine Only.mk (k := ?_)

theorem execRedirectCopyDone_only (s : State) :
    ∃ v, (execRedirectCopyDone s) = .next v ∧ Only [.cst, .freeIdx] s v := by
  refine ⟨_, rfl, ?_⟩
  try dsimp only
  repeat' first
    | with_reducible apply Only.refl
    | with_reducible assumption
    | ((with_reducible apply Only.step (State.maintServed_only _)); rfl)
    | ((with_reducible apply Only.step (State.modCst_only _ _)); rfl)
    | with_reducible apply Only.ite
    | with_reducible apply Only.ite_snd
    | with_reducible apply Only.ite_fst
    | split
    | with_reducible apply Only.foldl _ (fun _ _ => ?_)
    | with_reducible apply Only.foldl_fst _ (fun _ _ => ?_)
    | fail_if_no_progress refine Only.mk (k := ?_)

theorem execDrainDone_only (timeout : Bool) (s : State) :
    ∃ v, (execDrainDone timeout s) = .next v ∧ Only [.sys, .str, .pwr, .evt, .tim, .hif, .cst, .tbl, .fbk, .stw, .quads, .cores, .lanes, .out, .freeIdx] s v := by
  refine ⟨_, rfl, ?_⟩
  try dsimp only
  repeat' first
    | with_reducible apply Only.refl
    | with_reducible assumption
    | ((with_reducible apply Only.step (State.cstCnt_only _ _ _)); rfl)
    | ((with_reducible apply Only.step (State.cstEnter_only _ _)); rfl)
    | ((with_reducible apply Only.step (State.loseLines_only _)); rfl)
    | ((with_reducible apply Only.step (State.modCst_only _ _)); rfl)
    | ((with_reducible apply Only.step (State.powerSettle_only _)); rfl)
    | ((with_reducible apply Only.step (State.request_only _ _ _ _)); rfl)
    | with_reducible apply Only.ite
    | with_reducible apply Only.ite_snd
    | with_reducible apply Only.ite_fst
    | split
    | with_reducible apply Only.foldl _ (fun _ _ => ?_)
    | with_reducible apply Only.foldl_fst _ (fun _ _ => ?_)
    | fail_if_no_progress refine Only.mk (k := ?_)

theorem execRestoreDone_only (s : State) :
    ∃ v, (execRestoreDone s) = .next v ∧ Only [.sys, .str, .pwr, .evt, .tim, .hif, .cst, .tbl, .fbk, .stw, .quads, .cores, .lanes, .out, .freeIdx] s v := by
  refine ⟨_, rfl, ?_⟩
  try dsimp only
  repeat' first
    | with_reducible apply Only.refl
    | with_reducible assumption
    | ((with_reducible apply Only.step (State.cstCnt_only _ _ _)); rfl)
    | ((with_reducible apply Only.step (State.cstEnter_only _ _)); rfl)
    | ((with_reducible apply Only.step (State.maintServed_only _)); rfl)
    | ((with_reducible apply Only.step (State.powerSettle_only _)); rfl)
    | with_reducible apply Only.ite
    | with_reducible apply Only.ite_snd
    | with_reducible apply Only.ite_fst
    | split
    | with_reducible apply Only.foldl _ (fun _ _ => ?_)
    | with_reducible apply Only.foldl_fst _ (fun _ _ => ?_)
    | fail_if_no_progress refine Only.mk (k := ?_)

theorem State.correctedEvent_only (s : State) (ch : Nat) :
    Only [.evt, .cst] s (State.correctedEvent s ch) := by
  simp only [State.correctedEvent]
  repeat' first
    | with_reducible apply Only.refl
    | with_reducible assumption
    | ((with_reducible apply Only.step (State.modCst_only _ _)); rfl)
    | ((with_reducible apply Only.step (State.report_only _ _ _ _)); rfl)
    | with_reducible apply Only.ite
    | with_reducible apply Only.ite_snd
    | with_reducible apply Only.ite_fst
    | split
    | with_reducible apply Only.foldl _ (fun _ _ => ?_)
    | with_reducible apply Only.foldl_fst _ (fun _ _ => ?_)
    | fail_if_no_progress refine Only.mk (k := ?_)

theorem State.linesCorrected_only (s : State) (ch k : Nat) :
    Only [.evt, .cst] s (State.linesCorrected s ch k) := by
  simp only [State.linesCorrected]
  repeat' first
    | with_reducible apply Only.refl
    | with_reducible assumption
    | ((with_reducible apply Only.step (State.correctedEvent_only _ _)); rfl)
    | ((with_reducible apply Only.step (State.cstCnt_only _ _ _)); rfl)
    | with_reducible apply Only.ite
    | with_reducible apply Only.ite_snd
    | with_reducible apply Only.ite_fst
    | split
    | with_reducible apply Only.foldl _ (fun _ _ => ?_)
    | with_reducible apply Only.foldl_fst _ (fun _ _ => ?_)
    | fail_if_no_progress refine Only.mk (k := ?_)

theorem execScrubPass_only (corrected : Vector Nat 8) (s : State) :
    ∃ v, (execScrubPass corrected s) = .next v ∧ Only [.evt, .cst, .freeIdx] s v := by
  refine ⟨_, rfl, ?_⟩
  try dsimp only
  repeat' first
    | with_reducible apply Only.refl
    | with_reducible assumption
    | ((with_reducible apply Only.step (State.cstCnt_only _ _ _)); rfl)
    | ((with_reducible apply Only.step (State.linesCorrected_only _ _ _)); rfl)
    | ((with_reducible apply Only.step (State.maintServed_only _)); rfl)
    | ((with_reducible apply Only.step (State.modCst_only _ _)); rfl)
    | ((with_reducible apply Only.step (State.request_only _ _ _ _)); rfl)
    | with_reducible apply Only.ite
    | with_reducible apply Only.ite_snd
    | with_reducible apply Only.ite_fst
    | split
    | with_reducible apply Only.foldl _ (fun _ _ => ?_)
    | with_reducible apply Only.foldl_fst _ (fun _ _ => ?_)
    | fail_if_no_progress refine Only.mk (k := ?_)

theorem State.loseSpilled_only (s : State) :
    Only [.sys, .quads, .freeIdx] s (State.loseSpilled s) := by
  simp only [State.loseSpilled]
  repeat' first
    | with_reducible apply Only.refl
    | with_reducible assumption
    | ((with_reducible apply Only.step (State.modTm_only _ _ _ _)); rfl)
    | ((with_reducible apply Only.step (State.toSump_only _ _ _ _)); rfl)
    | ((with_reducible apply Only.step (State.tookFree_only _)); rfl)
    | with_reducible apply Only.ite
    | with_reducible apply Only.ite_snd
    | with_reducible apply Only.ite_fst
    | split
    | with_reducible apply Only.foldl _ (fun _ _ => ?_)
    | with_reducible apply Only.foldl_fst _ (fun _ _ => ?_)
    | fail_if_no_progress refine Only.mk (k := ?_)

theorem State.loseSdu_only (s : State) :
    Only [.sys, .cst, .freeIdx] s (State.loseSdu s) := by
  simp only [State.loseSdu]
  repeat' first
    | with_reducible apply Only.refl
    | with_reducible assumption
    | ((with_reducible apply Only.step (State.grpCnt_only _ _ _ _)); rfl)
    | ((with_reducible apply Only.step (State.modGroup_only _ _ _)); rfl)
    | ((with_reducible apply Only.step (State.skewDrop_only _ _)); rfl)
    | ((with_reducible apply Only.step (State.tookFree_only _)); rfl)
    | with_reducible apply Only.ite
    | with_reducible apply Only.ite_snd
    | with_reducible apply Only.ite_fst
    | split
    | with_reducible apply Only.foldl _ (fun _ _ => ?_)
    | with_reducible apply Only.foldl_fst _ (fun _ _ => ?_)
    | fail_if_no_progress refine Only.mk (k := ?_)

theorem State.lineLost_only (s : State) (ch : Nat) (line : BitVec 24) (user : CstUser) :
    Only [.sys, .evt, .cst, .quads, .freeIdx] s (State.lineLost s ch line user) := by
  simp only [State.lineLost]
  repeat' first
    | with_reducible apply Only.refl
    | with_reducible assumption
    | ((with_reducible apply Only.step (State.cstCnt_only _ _ _)); rfl)
    | ((with_reducible apply Only.step (State.loseSdu_only _)); rfl)
    | ((with_reducible apply Only.step (State.loseSpilled_only _)); rfl)
    | ((with_reducible apply Only.step (State.modCst_only _ _)); rfl)
    | ((with_reducible apply Only.step (State.report_only _ _ _ _)); rfl)
    | with_reducible apply Only.ite
    | with_reducible apply Only.ite_snd
    | with_reducible apply Only.ite_fst
    | split
    | with_reducible apply Only.foldl _ (fun _ _ => ?_)
    | with_reducible apply Only.foldl_fst _ (fun _ _ => ?_)
    | fail_if_no_progress refine Only.mk (k := ?_)

theorem execCstLineError_only (ch : Fin 8) (line : BitVec 24) (e : LineError) (user : CstUser) (s : State) :
    ∃ v, (execCstLineError ch line e user s) = .next v ∧ Only [.sys, .evt, .cst, .quads, .freeIdx] s v := by
  refine ⟨_, rfl, ?_⟩
  try dsimp only
  repeat' first
    | with_reducible apply Only.refl
    | with_reducible assumption
    | ((with_reducible apply Only.step (State.cstCnt_only _ _ _)); rfl)
    | ((with_reducible apply Only.step (State.lineLost_only _ _ _ _)); rfl)
    | ((with_reducible apply Only.step (State.linesCorrected_only _ _ _)); rfl)
    | with_reducible apply Only.ite
    | with_reducible apply Only.ite_snd
    | with_reducible apply Only.ite_fst
    | split
    | with_reducible apply Only.foldl _ (fun _ _ => ?_)
    | with_reducible apply Only.foldl_fst _ (fun _ _ => ?_)
    | fail_if_no_progress refine Only.mk (k := ?_)

theorem State.cstCntRead_only (s : State) (p : Port) :
    Only [.latches] s (State.cstCntRead s p).2 := by
  simp only [State.cstCntRead]
  repeat' first
    | with_reducible apply Only.refl
    | with_reducible assumption
    | ((with_reducible apply Only.step (State.readPair_only _ _ _ _ _)); rfl)
    | with_reducible apply Only.ite
    | with_reducible apply Only.ite_snd
    | with_reducible apply Only.ite_fst
    | split
    | with_reducible apply Only.foldl _ (fun _ _ => ?_)
    | with_reducible apply Only.foldl_fst _ (fun _ _ => ?_)
    | fail_if_no_progress refine Only.mk (k := ?_)

theorem execCstCntRead_only (p : Port) (s : State) :
    ∃ v, (execCstCntRead p s) = .next v ∧ Only [.evt, .hif, .latches, .out] s v := by
  refine ⟨_, rfl, ?_⟩
  try dsimp only
  repeat' first
    | with_reducible apply Only.refl
    | with_reducible assumption
    | ((with_reducible apply Only.step (State.cstCntRead_only _ _)); rfl)
    | ((with_reducible apply State.readIsl_only); rfl)
    | with_reducible apply Only.ite
    | with_reducible apply Only.ite_snd
    | with_reducible apply Only.ite_fst
    | with_reducible intro _
    | split
    | with_reducible apply Only.foldl _ (fun _ _ => ?_)
    | with_reducible apply Only.foldl_fst _ (fun _ _ => ?_)
    | fail_if_no_progress refine Only.mk (k := ?_)

theorem State.cstRead_only (s : State) (p : Port) (off : Nat) :
    Only [.latches] s (State.cstRead s p off).2 := by
  simp only [State.cstRead]
  repeat' first
    | with_reducible apply Only.refl
    | with_reducible assumption
    | ((with_reducible apply Only.step (State.cstCntRead_only _ _)); rfl)
    | with_reducible apply Only.ite
    | with_reducible apply Only.ite_snd
    | with_reducible apply Only.ite_fst
    | split
    | with_reducible apply Only.foldl _ (fun _ _ => ?_)
    | with_reducible apply Only.foldl_fst _ (fun _ _ => ?_)
    | fail_if_no_progress refine Only.mk (k := ?_)

theorem State.cstWrite_only (s : State) (off : Nat) (w : W32) :
    Only [.sys, .str, .pwr, .evt, .tim, .hif, .cst, .tbl, .fbk, .stw, .quads, .cores, .lanes, .out, .freeIdx] s (State.cstWrite s off w) := by
  simp only [State.cstWrite]
  repeat' first
    | with_reducible apply Only.refl
    | with_reducible assumption
    | ((with_reducible apply Only.step (State.cstCmd_only _ _ _)); rfl)
    | ((with_reducible apply Only.step (State.modCst_only _ _)); rfl)
    | with_reducible apply Only.ite
    | with_reducible apply Only.ite_snd
    | with_reducible apply Only.ite_fst
    | split
    | with_reducible apply Only.foldl _ (fun _ _ => ?_)
    | with_reducible apply Only.foldl_fst _ (fun _ _ => ?_)
    | fail_if_no_progress refine Only.mk (k := ?_)

end Sys2Proof.Machine
end

