-- ==== Sys2Proof/Laws/OnlyKeys.lean ====
section
/-!
SUPPORT. What the operations of Machine/Keys.lean may change.
-/
namespace Sys2Proof.Machine

set_option Elab.async false
set_option linter.unusedTactic false
set_option linter.unreachableTactic false

theorem State.modKey_only (s : State) (f : KeyIsland → KeyIsland) :
    Only [.key] s (State.modKey s f) := by
  simp only [State.modKey]
  repeat' first
    | with_reducible apply Only.refl
    | with_reducible assumption
    | with_reducible apply Only.ite
    | with_reducible apply Only.ite_snd
    | with_reducible apply Only.ite_fst
    | split
    | with_reducible apply Only.foldl _ (fun _ _ => ?_)
    | with_reducible apply Only.foldl_fst _ (fun _ _ => ?_)
    | fail_if_no_progress refine Only.mk (k := ?_)

theorem State.modVault_only (s : State) (f : Vault → Vault) :
    Only [.vault] s (State.modVault s f) := by
  simp only [State.modVault]
  repeat' first
    | with_reducible apply Only.refl
    | with_reducible assumption
    | with_reducible apply Only.ite
    | with_reducible apply Only.ite_snd
    | with_reducible apply Only.ite_fst
    | split
    | with_reducible apply Only.foldl _ (fun _ _ => ?_)
    | with_reducible apply Only.foldl_fst _ (fun _ _ => ?_)
    | fail_if_no_progress refine Only.mk (k := ?_)

theorem State.modSlot_only (s : State) (i : Nat) (f : RootSlot → RootSlot) :
    Only [.vault] s (State.modSlot s i f) := by
  simp only [State.modSlot]
  repeat' first
    | with_reducible apply Only.refl
    | with_reducible assumption
    | ((with_reducible apply Only.step (State.modVault_only _ _)); rfl)
    | with_reducible apply Only.ite
    | with_reducible apply Only.ite_snd
    | with_reducible apply Only.ite_fst
    | split
    | with_reducible apply Only.foldl _ (fun _ _ => ?_)
    | with_reducible apply Only.foldl_fst _ (fun _ _ => ?_)
    | fail_if_no_progress refine Only.mk (k := ?_)

theorem State.modCopy_only (s : State) (i : Nat) (f : RootCopy → RootCopy) :
    Only [.key] s (State.modCopy s i f) := by
  simp only [State.modCopy]
  repeat' first
    | with_reducible apply Only.refl
    | with_reducible assumption
    | ((with_reducible apply Only.step (State.modKey_only _ _)); rfl)
    | with_reducible apply Only.ite
    | with_reducible apply Only.ite_snd
    | with_reducible apply Only.ite_fst
    | split
    | with_reducible apply Only.foldl _ (fun _ _ => ?_)
    | with_reducible apply Only.foldl_fst _ (fun _ _ => ?_)
    | fail_if_no_progress refine Only.mk (k := ?_)

theorem State.keyEnd_only (s : State) (e : BitVec 4) :
    Only [.key] s (State.keyEnd s e) := by
  simp only [State.keyEnd]
  repeat' first
    | with_reducible apply Only.refl
    | with_reducible assumption
    | ((with_reducible apply Only.step (State.modKey_only _ _)); rfl)
    | with_reducible apply Only.ite
    | with_reducible apply Only.ite_snd
    | with_reducible apply Only.ite_fst
    | split
    | with_reducible apply Only.foldl _ (fun _ _ => ?_)
    | with_reducible apply Only.foldl_fst _ (fun _ _ => ?_)
    | fail_if_no_progress refine Only.mk (k := ?_)

theorem State.keyRefuse_only (s : State) (e : BitVec 4) :
    Only [.key] s (State.keyRefuse s e) := by
  simp only [State.keyRefuse]
  repeat' first
    | with_reducible apply Only.refl
    | with_reducible assumption
    | ((with_reducible apply Only.step (State.keyEnd_only _ _)); rfl)
    | with_reducible apply Only.ite
    | with_reducible apply Only.ite_snd
    | with_reducible apply Only.ite_fst
    | split
    | with_reducible apply Only.foldl _ (fun _ _ => ?_)
    | with_reducible apply Only.foldl_fst _ (fun _ _ => ?_)
    | fail_if_no_progress refine Only.mk (k := ?_)

theorem State.keyStart_only (s : State) (o : KeyOp) :
    Only [.key] s (State.keyStart s o) := by
  simp only [State.keyStart]
  repeat' first
    | with_reducible apply Only.refl
    | with_reducible assumption
    | ((with_reducible apply Only.step (State.modKey_only _ _)); rfl)
    | with_reducible apply Only.ite
    | with_reducible apply Only.ite_snd
    | with_reducible apply Only.ite_fst
    | split
    | with_reducible apply Only.foldl _ (fun _ _ => ?_)
    | with_reducible apply Only.foldl_fst _ (fun _ _ => ?_)
    | fail_if_no_progress refine Only.mk (k := ?_)

theorem State.vaultFail_only (s : State) :
    Only [.evt] s (State.vaultFail s) := by
  simp only [State.vaultFail]
  repeat' first
    | with_reducible apply Only.refl
    | with_reducible assumption
    | ((with_reducible apply Only.step (State.report_only _ _ _ _)); rfl)
    | with_reducible apply Only.ite
    | with_reducible apply Only.ite_snd
    | with_reducible apply Only.ite_fst
    | split
    | with_reducible apply Only.foldl _ (fun _ _ => ?_)
    | with_reducible apply Only.foldl_fst _ (fun _ _ => ?_)
    | fail_if_no_progress refine Only.mk (k := ?_)

theorem State.slotEvent_only (s : State) (i : Nat) :
    Only [.evt] s (State.slotEvent s i) := by
  simp only [State.slotEvent]
  repeat' first
    | with_reducible apply Only.refl
    | with_reducible assumption
    | ((with_reducible apply Only.step (State.report_only _ _ _ _)); rfl)
    | with_reducible apply Only.ite
    | with_reducible apply Only.ite_snd
    | with_reducible apply Only.ite_fst
    | split
    | with_reducible apply Only.foldl _ (fun _ _ => ?_)
    | with_reducible apply Only.foldl_fst _ (fun _ _ => ?_)
    | fail_if_no_progress refine Only.mk (k := ?_)

theorem State.importClear_only (s : State) (c : KeyCmdWord) :
    Only [.key] s (State.importClear s c) := by
  simp only [State.importClear]
  repeat' first
    | with_reducible apply Only.refl
    | with_reducible assumption
    | ((with_reducible apply Only.step (State.keyRefuse_only _ _)); rfl)
    | ((with_reducible apply Only.step (State.keyStart_only _ _)); rfl)
    | with_reducible apply Only.ite
    | with_reducible apply Only.ite_snd
    | with_reducible apply Only.ite_fst
    | split
    | with_reducible apply Only.foldl _ (fun _ _ => ?_)
    | with_reducible apply Only.foldl_fst _ (fun _ _ => ?_)
    | fail_if_no_progress refine Only.mk (k := ?_)

theorem State.importWrapped_only (s : State) (c : KeyCmdWord) :
    Only [.key] s (State.importWrapped s c) := by
  simp only [State.importWrapped]
  repeat' first
    | with_reducible apply Only.refl
    | with_reducible assumption
    | ((with_reducible apply Only.step (State.keyCnt_only _ _ _)); rfl)
    | ((with_reducible apply Only.step (State.keyRefuse_only _ _)); rfl)
    | ((with_reducible apply Only.step (State.keyStart_only _ _)); rfl)
    | with_reducible apply Only.ite
    | with_reducible apply Only.ite_snd
    | with_reducible apply Only.ite_fst
    | split
    | with_reducible apply Only.foldl _ (fun _ _ => ?_)
    | with_reducible apply Only.foldl_fst _ (fun _ _ => ?_)
    | fail_if_no_progress refine Only.mk (k := ?_)

theorem State.wipeOld_only (s : State) (i : Nat) :
    Only [.key] s (State.wipeOld s i) := by
  simp only [State.wipeOld]
  repeat' first
    | with_reducible apply Only.refl
    | with_reducible assumption
    | ((with_reducible apply Only.step (State.modCopy_only _ _ _)); rfl)
    | ((with_reducible apply Only.step (State.modKey_only _ _)); rfl)
    | with_reducible apply Only.ite
    | with_reducible apply Only.ite_snd
    | with_reducible apply Only.ite_fst
    | split
    | with_reducible apply Only.foldl _ (fun _ _ => ?_)
    | with_reducible apply Only.foldl_fst _ (fun _ _ => ?_)
    | fail_if_no_progress refine Only.mk (k := ?_)

theorem execOldGenWipe_only (slot : Fin 16) (s : State) :
    ∃ v, (execOldGenWipe slot s) = .next v ∧ Only [.key] s v := by
  refine ⟨_, rfl, ?_⟩
  try dsimp only
  repeat' first
    | with_reducible apply Only.refl
    | with_reducible assumption
    | ((with_reducible apply Only.step (State.wipeOld_only _ _)); rfl)
    | with_reducible apply Only.ite
    | with_reducible apply Only.ite_snd
    | with_reducible apply Only.ite_fst
    | split
    | with_reducible apply Only.foldl _ (fun _ _ => ?_)
    | with_reducible apply Only.foldl_fst _ (fun _ _ => ?_)
    | fail_if_no_progress refine Only.mk (k := ?_)

theorem State.importTake_only (s : State) (i : Nat) (side : Bool) (purposes : BitVec 5) (key : List Byte) :
    Only [.evt, .key, .vault] s (State.importTake s i side purposes key) := by
  simp only [State.importTake]
  repeat' first
    | with_reducible apply Only.refl
    | with_reducible assumption
    | ((with_reducible apply Only.step (State.modCopy_only _ _ _)); rfl)
    | ((with_reducible apply Only.step (State.modSlot_only _ _ _)); rfl)
    | ((with_reducible apply Only.step (State.slotEvent_only _ _)); rfl)
    | ((with_reducible apply Only.step (State.wipeOld_only _ _)); rfl)
    | with_reducible apply Only.ite
    | with_reducible apply Only.ite_snd
    | with_reducible apply Only.ite_fst
    | split
    | with_reducible apply Only.foldl _ (fun _ _ => ?_)
    | with_reducible apply Only.foldl_fst _ (fun _ _ => ?_)
    | fail_if_no_progress refine Only.mk (k := ?_)

theorem execImportDone_only (ok : Bool) (s : State) :
    ∃ v, (execImportDone ok s) = .next v ∧ Only [.evt, .key, .vault] s v := by
  refine ⟨_, rfl, ?_⟩
  try dsimp only
  repeat' first
    | with_reducible apply Only.refl
    | with_reducible assumption
    | ((with_reducible apply Only.step (State.importTake_only _ _ _ _ _)); rfl)
    | ((with_reducible apply Only.step (State.keyEnd_only _ _)); rfl)
    | ((with_reducible apply Only.step (State.vaultFail_only _)); rfl)
    | with_reducible apply Only.ite
    | with_reducible apply Only.ite_snd
    | with_reducible apply Only.ite_fst
    | split
    | with_reducible apply Only.foldl _ (fun _ _ => ?_)
    | with_reducible apply Only.foldl_fst _ (fun _ _ => ?_)
    | fail_if_no_progress refine Only.mk (k := ?_)

theorem State.eraseSlot_only (s : State) (i : Nat) :
    Only [.sys, .key, .vault, .tbl, .fbk, .quads, .cores, .lanes] s (State.eraseSlot s i) := by
  simp only [State.eraseSlot]
  repeat' first
    | with_reducible apply Only.refl
    | with_reducible assumption
    | ((with_reducible apply Only.step (State.abandon_only _ _)); rfl)
    | ((with_reducible apply Only.step (State.modCopy_only _ _ _)); rfl)
    | ((with_reducible apply Only.step (State.modSlot_only _ _ _)); rfl)
    | with_reducible apply Only.ite
    | with_reducible apply Only.ite_snd
    | with_reducible apply Only.ite_fst
    | split
    | with_reducible apply Only.foldl _ (fun _ _ => ?_)
    | with_reducible apply Only.foldl_fst _ (fun _ _ => ?_)
    | fail_if_no_progress refine Only.mk (k := ?_)

theorem State.eraseCmd_only (s : State) (c : KeyCmdWord) :
    Only [.sys, .key, .vault, .tbl, .fbk, .quads, .cores, .lanes] s (State.eraseCmd s c) := by
  simp only [State.eraseCmd]
  repeat' first
    | with_reducible apply Only.refl
    | with_reducible assumption
    | ((with_reducible apply Only.step (State.eraseSlot_only _ _)); rfl)
    | ((with_reducible apply Only.step (State.keyStart_only _ _)); rfl)
    | with_reducible apply Only.ite
    | with_reducible apply Only.ite_snd
    | with_reducible apply Only.ite_fst
    | split
    | with_reducible apply Only.foldl _ (fun _ _ => ?_)
    | with_reducible apply Only.foldl_fst _ (fun _ _ => ?_)
    | fail_if_no_progress refine Only.mk (k := ?_)

theorem State.slotErased_only (s : State) (i : Nat) :
    Only [.evt, .vault] s (State.slotErased s i) := by
  simp only [State.slotErased]
  repeat' first
    | with_reducible apply Only.refl
    | with_reducible assumption
    | ((with_reducible apply Only.step (State.modSlot_only _ _ _)); rfl)
    | ((with_reducible apply Only.step (State.slotEvent_only _ _)); rfl)
    | with_reducible apply Only.ite
    | with_reducible apply Only.ite_snd
    | with_reducible apply Only.ite_fst
    | split
    | with_reducible apply Only.foldl _ (fun _ _ => ?_)
    | with_reducible apply Only.foldl_fst _ (fun _ _ => ?_)
    | fail_if_no_progress refine Only.mk (k := ?_)

theorem execEraseDone_only (ok : Bool) (s : State) :
    ∃ v, (execEraseDone ok s) = .next v ∧ Only [.evt, .key, .vault] s v := by
  refine ⟨_, rfl, ?_⟩
  try dsimp only
  repeat' first
    | with_reducible apply Only.refl
    | with_reducible assumption
    | ((with_reducible apply Only.step (State.keyEnd_only _ _)); rfl)
    | ((with_reducible apply Only.step (State.modKey_only _ _)); rfl)
    | ((with_reducible apply Only.step (State.slotErased_only _ _)); rfl)
    | ((with_reducible apply Only.step (State.vaultFail_only _)); rfl)
    | with_reducible apply Only.ite
    | with_reducible apply Only.ite_snd
    | with_reducible apply Only.ite_fst
    | split
    | with_reducible apply Only.foldl _ (fun _ _ => ?_)
    | with_reducible apply Only.foldl_fst _ (fun _ _ => ?_)
    | fail_if_no_progress refine Only.mk (k := ?_)

theorem State.vkTake_only (s : State) (r : List Byte) :
    Only [.vault] s (State.vkTake s r) := by
  simp only [State.vkTake]
  repeat' first
    | with_reducible apply Only.refl
    | with_reducible assumption
    | ((with_reducible apply Only.step (State.modVault_only _ _)); rfl)
    | with_reducible apply Only.ite
    | with_reducible apply Only.ite_snd
    | with_reducible apply Only.ite_fst
    | split
    | with_reducible apply Only.foldl _ (fun _ _ => ?_)
    | with_reducible apply Only.foldl_fst _ (fun _ _ => ?_)
    | fail_if_no_progress refine Only.mk (k := ?_)

theorem State.mskSet_only (s : State) (c : KeyCmdWord) :
    Only [.key] s (State.mskSet s c) := by
  simp only [State.mskSet]
  repeat' first
    | with_reducible apply Only.refl
    | with_reducible assumption
    | ((with_reducible apply Only.step (State.keyRefuse_only _ _)); rfl)
    | ((with_reducible apply Only.step (State.keyStart_only _ _)); rfl)
    | with_reducible apply Only.ite
    | with_reducible apply Only.ite_snd
    | with_reducible apply Only.ite_fst
    | split
    | with_reducible apply Only.foldl _ (fun _ _ => ?_)
    | with_reducible apply Only.foldl_fst _ (fun _ _ => ?_)
    | fail_if_no_progress refine Only.mk (k := ?_)

theorem State.mskClear_only (s : State) (c : KeyCmdWord) :
    Only [.key] s (State.mskClear s c) := by
  simp only [State.mskClear]
  repeat' first
    | with_reducible apply Only.refl
    | with_reducible assumption
    | ((with_reducible apply Only.step (State.keyRefuse_only _ _)); rfl)
    | ((with_reducible apply Only.step (State.keyStart_only _ _)); rfl)
    | with_reducible apply Only.ite
    | with_reducible apply Only.ite_snd
    | with_reducible apply Only.ite_fst
    | split
    | with_reducible apply Only.foldl _ (fun _ _ => ?_)
    | with_reducible apply Only.foldl_fst _ (fun _ _ => ?_)
    | fail_if_no_progress refine Only.mk (k := ?_)

theorem State.mskPut_only (s : State) (lane : BitVec 7) (key : Option (List Byte)) :
    Only [.key] s (State.mskPut s lane key) := by
  simp only [State.mskPut]
  repeat' first
    | with_reducible apply Only.refl
    | with_reducible assumption
    | ((with_reducible apply Only.step (State.deriveTc_only _ _)); rfl)
    | ((with_reducible apply Only.step (State.modKey_only _ _)); rfl)
    | with_reducible apply Only.ite
    | with_reducible apply Only.ite_snd
    | with_reducible apply Only.ite_fst
    | split
    | with_reducible apply Only.foldl _ (fun _ _ => ?_)
    | with_reducible apply Only.foldl_fst _ (fun _ _ => ?_)
    | fail_if_no_progress refine Only.mk (k := ?_)

theorem State.prefetchAll_only (s : State) :
    Only [.key] s (State.prefetchAll s) := by
  simp only [State.prefetchAll]
  repeat' first
    | with_reducible apply Only.refl
    | with_reducible assumption
    | ((with_reducible apply Only.step (State.modKey_only _ _)); rfl)
    | with_reducible apply Only.ite
    | with_reducible apply Only.ite_snd
    | with_reducible apply Only.ite_fst
    | split
    | with_reducible apply Only.foldl _ (fun _ _ => ?_)
    | with_reducible apply Only.foldl_fst _ (fun _ _ => ?_)
    | fail_if_no_progress refine Only.mk (k := ?_)

theorem State.monoIncr_only (s : State) (c : KeyCmdWord) :
    Only [.evt, .key] s (State.monoIncr s c) := by
  simp only [State.monoIncr]
  repeat' first
    | with_reducible apply Only.refl
    | with_reducible assumption
    | ((with_reducible apply Only.step (State.keyRefuse_only _ _)); rfl)
    | ((with_reducible apply Only.step (State.keyStart_only _ _)); rfl)
    | ((with_reducible apply Only.step (State.report_only _ _ _ _)); rfl)
    | with_reducible apply Only.ite
    | with_reducible apply Only.ite_snd
    | with_reducible apply Only.ite_fst
    | split
    | with_reducible apply Only.foldl _ (fun _ _ => ?_)
    | with_reducible apply Only.foldl_fst _ (fun _ _ => ?_)
    | fail_if_no_progress refine Only.mk (k := ?_)

theorem State.tamperClear_only (s : State) (present : Bool) :
    Only [.key] s (State.tamperClear s present) := by
  simp only [State.tamperClear]
  repeat' first
    | with_reducible apply Only.refl
    | with_reducible assumption
    | ((with_reducible apply Only.step (State.keyRefuse_only _ _)); rfl)
    | ((with_reducible apply Only.step (State.keyStart_only _ _)); rfl)
    | with_reducible apply Only.ite
    | with_reducible apply Only.ite_snd
    | with_reducible apply Only.ite_fst
    | split
    | with_reducible apply Only.foldl _ (fun _ _ => ?_)
    | with_reducible apply Only.foldl_fst _ (fun _ _ => ?_)
    | fail_if_no_progress refine Only.mk (k := ?_)

theorem State.keyCmd_only (s : State) (op : Nat) (c : KeyCmdWord) (present : Bool) :
    Only [.sys, .evt, .key, .vault, .tbl, .fbk, .quads, .cores, .lanes] s (State.keyCmd s op c present) := by
  simp only [State.keyCmd]
  repeat' first
    | with_reducible apply Only.refl
    | with_reducible assumption
    | ((with_reducible apply Only.step (State.eraseCmd_only _ _)); rfl)
    | ((with_reducible apply Only.step (State.importClear_only _ _)); rfl)
    | ((with_reducible apply Only.step (State.importWrapped_only _ _)); rfl)
    | ((with_reducible apply Only.step (State.keyRefuse_only _ _)); rfl)
    | ((with_reducible apply Only.step (State.keyStart_only _ _)); rfl)
    | ((with_reducible apply Only.step (State.modKey_only _ _)); rfl)
    | ((with_reducible apply Only.step (State.monoIncr_only _ _)); rfl)
    | ((with_reducible apply Only.step (State.mskClear_only _ _)); rfl)
    | ((with_reducible apply Only.step (State.mskSet_only _ _)); rfl)
    | ((with_reducible apply Only.step (State.prefetchAll_only _)); rfl)
    | ((with_reducible apply Only.step (State.tamperClear_only _ _)); rfl)
    | with_reducible apply Only.ite
    | with_reducible apply Only.ite_snd
    | with_reducible apply Only.ite_fst
    | split
    | with_reducible apply Only.foldl _ (fun _ _ => ?_)
    | with_reducible apply Only.foldl_fst _ (fun _ _ => ?_)
    | fail_if_no_progress refine Only.mk (k := ?_)

theorem State.keyCmdWrite_only (s : State) (w : W32) :
    Only [.sys, .evt, .key, .vault, .tbl, .fbk, .quads, .cores, .lanes, .freeIdx] s (State.keyCmdWrite s w) := by
  simp only [State.keyCmdWrite]
  repeat' first
    | with_reducible apply Only.refl
    | with_reducible assumption
    | ((with_reducible apply Only.step (State.keyCmd_only _ _ _ _)); rfl)
    | ((with_reducible apply Only.step (State.tookFree_only _)); rfl)
    | with_reducible apply Only.ite
    | with_reducible apply Only.ite_snd
    | with_reducible apply Only.ite_fst
    | split
    | with_reducible apply Only.foldl _ (fun _ _ => ?_)
    | with_reducible apply Only.foldl_fst _ (fun _ _ => ?_)
    | fail_if_no_progress refine Only.mk (k := ?_)

theorem State.keyCmdAt_only (s : State) (p : Port) (op : Nat) (c : KeyCmdWord) (present : Bool) :
    Only [.sys, .evt, .key, .hif, .vault, .tbl, .fbk, .quads, .cores, .lanes] s (State.keyCmdAt s p op c present) := by
  simp only [State.keyCmdAt]
  repeat' first
    | with_reducible apply Only.refl
    | with_reducible assumption
    | ((with_reducible apply Only.step (State.keyCmd_only _ _ _ _)); rfl)
    | ((with_reducible apply State.writeIsl_only); rfl)
    | with_reducible apply Only.ite
    | with_reducible apply Only.ite_snd
    | with_reducible apply Only.ite_fst
    | with_reducible intro _
    | split
    | with_reducible apply Only.foldl _ (fun _ _ => ?_)
    | with_reducible apply Only.foldl_fst _ (fun _ _ => ?_)
    | fail_if_no_progress refine Only.mk (k := ?_)

theorem execImportClear_only (p : Port) (c : KeyCmdWord) (s : State) :
    ∃ v, (execImportClear p c s) = .next v ∧ Only [.sys, .evt, .key, .hif, .vault, .tbl, .fbk, .quads, .cores, .lanes] s v := by
  refine ⟨_, rfl, ?_⟩
  try dsimp only
  repeat' first
    | with_reducible apply Only.refl
    | with_reducible assumption
    | ((with_reducible apply Only.step (State.keyCmdAt_only _ _ _ _ _)); rfl)
    | with_reducible apply Only.ite
    | with_reducible apply Only.ite_snd
    | with_reducible apply Only.ite_fst
    | split
    | with_reducible apply Only.foldl _ (fun _ _ => ?_)
    | with_reducible apply Only.foldl_fst _ (fun _ _ => ?_)
    | fail_if_no_progress refine Only.mk (k := ?_)

theorem execImportWrapped_only (p : Port) (c : KeyCmdWord) (s : State) :
    ∃ v, (execImportWrapped p c s) = .next v ∧ Only [.sys, .evt, .key, .hif, .vault, .tbl, .fbk, .quads, .cores, .lanes] s v := by
  refine ⟨_, rfl, ?_⟩
  try dsimp only
  repeat' first
    | with_reducible apply Only.refl
    | with_reducible assumption
    | ((with_reducible apply Only.step (State.keyCmdAt_only _ _ _ _ _)); rfl)
    | with_reducible apply Only.ite
    | with_reducible apply Only.ite_snd
    | with_reducible apply Only.ite_fst
    | split
    | with_reducible apply Only.foldl _ (fun _ _ => ?_)
    | with_reducible apply Only.foldl_fst _ (fun _ _ => ?_)
    | fail_if_no_progress refine Only.mk (k := ?_)

theorem execErase_only (p : Port) (c : KeyCmdWord) (s : State) :
    ∃ v, (execErase p c s) = .next v ∧ Only [.sys, .evt, .key, .hif, .vault, .tbl, .fbk, .quads, .cores, .lanes] s v := by
  refine ⟨_, rfl, ?_⟩
  try dsimp only
  repeat' first
    | with_reducible apply Only.refl
    | with_reducible assumption
    | ((with_reducible apply Only.step (State.keyCmdAt_only _ _ _ _ _)); rfl)
    | with_reducible apply Only.ite
    | with_reducible apply Only.ite_snd
    | with_reducible apply Only.ite_fst
    | split
    | with_reducible apply Only.foldl _ (fun _ _ => ?_)
    | with_reducible apply Only.foldl_fst _ (fun _ _ => ?_)
    | fail_if_no_progress refine Only.mk (k := ?_)

theorem execCloseProv_only (p : Port) (s : State) :
    ∃ v, (execCloseProv p s) = .next v ∧ Only [.sys, .evt, .key, .hif, .vault, .tbl, .fbk, .quads, .cores, .lanes] s v := by
  refine ⟨_, rfl, ?_⟩
  try dsimp only
  repeat' first
    | with_reducible apply Only.refl
    | with_reducible assumption
    | ((with_reducible apply Only.step (State.keyCmdAt_only _ _ _ _ _)); rfl)
    | with_reducible apply Only.ite
    | with_reducible apply Only.ite_snd
    | with_reducible apply Only.ite_fst
    | split
    | with_reducible apply Only.foldl _ (fun _ _ => ?_)
    | with_reducible apply Only.foldl_fst _ (fun _ _ => ?_)
    | fail_if_no_progress refine Only.mk (k := ?_)

theorem execVkInstall_only (p : Port) (s : State) :
    ∃ v, (execVkInstall p s) = .next v ∧ Only [.sys, .evt, .key, .hif, .vault, .tbl, .fbk, .quads, .cores, .lanes] s v := by
  refine ⟨_, rfl, ?_⟩
  try dsimp only
  repeat' first
    | with_reducible apply Only.refl
    | with_reducible assumption
    | ((with_reducible apply Only.step (State.keyCmdAt_only _ _ _ _ _)); rfl)
    | with_reducible apply Only.ite
    | with_reducible apply Only.ite_snd
    | with_reducible apply Only.ite_fst
    | split
    | with_reducible apply Only.foldl _ (fun _ _ => ?_)
    | with_reducible apply Only.foldl_fst _ (fun _ _ => ?_)
    | fail_if_no_progress refine Only.mk (k := ?_)

theorem execMskSet_only (p : Port) (c : KeyCmdWord) (s : State) :
    ∃ v, (execMskSet p c s) = .next v ∧ Only [.sys, .evt, .key, .hif, .vault, .tbl, .fbk, .quads, .cores, .lanes] s v := by
  refine ⟨_, rfl, ?_⟩
  try dsimp only
  repeat' first
    | with_reducible apply Only.refl
    | with_reducible assumption
    | ((with_reducible apply Only.step (State.keyCmdAt_only _ _ _ _ _)); rfl)
    | with_reducible apply Only.ite
    | with_reducible apply Only.ite_snd
    | with_reducible apply Only.ite_fst
    | split
    | with_reducible apply Only.foldl _ (fun _ _ => ?_)
    | with_reducible apply Only.foldl_fst _ (fun _ _ => ?_)
    | fail_if_no_progress refine Only.mk (k := ?_)

theorem execMskClear_only (p : Port) (c : KeyCmdWord) (s : State) :
    ∃ v, (execMskClear p c s) = .next v ∧ Only [.sys, .evt, .key, .hif, .vault, .tbl, .fbk, .quads, .cores, .lanes] s v := by
  refine ⟨_, rfl, ?_⟩
  try dsimp only
  repeat' first
    | with_reducible apply Only.refl
    | with_reducible assumption
    | ((with_reducible apply Only.step (State.keyCmdAt_only _ _ _ _ _)); rfl)
    | with_reducible apply Only.ite
    | with_reducible apply Only.ite_snd
    | with_reducible apply Only.ite_fst
    | split
    | with_reducible apply Only.foldl _ (fun _ _ => ?_)
    | with_reducible apply Only.foldl_fst _ (fun _ _ => ?_)
    | fail_if_no_progress refine Only.mk (k := ?_)

theorem execPrefetch_only (p : Port) (s : State) :
    ∃ v, (execPrefetch p s) = .next v ∧ Only [.sys, .evt, .key, .hif, .vault, .tbl, .fbk, .quads, .cores, .lanes] s v := by
  refine ⟨_, rfl, ?_⟩
  try dsimp only
  repeat' first
    | with_reducible apply Only.refl
    | with_reducible assumption
    | ((with_reducible apply Only.step (State.keyCmdAt_only _ _ _ _ _)); rfl)
    | with_reducible apply Only.ite
    | with_reducible apply Only.ite_snd
    | with_reducible apply Only.ite_fst
    | split
    | with_reducible apply Only.foldl _ (fun _ _ => ?_)
    | with_reducible apply Only.foldl_fst _ (fun _ _ => ?_)
    | fail_if_no_progress refine Only.mk (k := ?_)

theorem execTamperClear_only (p : Port) (present : Bool) (s : State) :
    ∃ v, (execTamperClear p present s) = .next v ∧ Only [.sys, .evt, .key, .hif, .vault, .tbl, .fbk, .quads, .cores, .lanes] s v := by
  refine ⟨_, rfl, ?_⟩
  try dsimp only
  repeat' first
    | with_reducible apply Only.refl
    | with_reducible assumption
    | ((with_reducible apply Only.step (State.keyCmdAt_only _ _ _ _ _)); rfl)
    | with_reducible apply Only.ite
    | with_reducible apply Only.ite_snd
    | with_reducible apply Only.ite_fst
    | split
    | with_reducible apply Only.foldl _ (fun _ _ => ?_)
    | with_reducible apply Only.foldl_fst _ (fun _ _ => ?_)
    | fail_if_no_progress refine Only.mk (k := ?_)

theorem execMonoIncr_only (p : Port) (c : KeyCmdWord) (s : State) :
    ∃ v, (execMonoIncr p c s) = .next v ∧ Only [.sys, .evt, .key, .hif, .vault, .tbl, .fbk, .quads, .cores, .lanes] s v := by
  refine ⟨_, rfl, ?_⟩
  try dsimp only
  repeat' first
    | with_reducible apply Only.refl
    | with_reducible assumption
    | ((with_reducible apply Only.step (State.keyCmdAt_only _ _ _ _ _)); rfl)
    | with_reducible apply Only.ite
    | with_reducible apply Only.ite_snd
    | with_reducible apply Only.ite_fst
    | split
    | with_reducible apply Only.foldl _ (fun _ _ => ?_)
    | with_reducible apply Only.foldl_fst _ (fun _ _ => ?_)
    | fail_if_no_progress refine Only.mk (k := ?_)

theorem State.keyWritten_only (s : State) (ok : Bool) (f : Vault → Vault) :
    Only [.evt, .key, .vault] s (State.keyWritten s ok f) := by
  simp only [State.keyWritten]
  repeat' first
    | with_reducible apply Only.refl
    | with_reducible assumption
    | ((with_reducible apply Only.step (State.keyEnd_only _ _)); rfl)
    | ((with_reducible apply Only.step (State.modVault_only _ _)); rfl)
    | ((with_reducible apply Only.step (State.vaultFail_only _)); rfl)
    | with_reducible apply Only.ite
    | with_reducible apply Only.ite_snd
    | with_reducible apply Only.ite_fst
    | split
    | with_reducible apply Only.foldl _ (fun _ _ => ?_)
    | with_reducible apply Only.foldl_fst _ (fun _ _ => ?_)
    | fail_if_no_progress refine Only.mk (k := ?_)

theorem execKeyCmdDone_only (bytes : List Byte) (ok : Bool) (s : State) :
    ∃ v, (execKeyCmdDone bytes ok s) = .next v ∧ Only [.evt, .key, .vault] s v := by
  refine ⟨_, rfl, ?_⟩
  try dsimp only
  repeat' first
    | with_reducible apply Only.refl
    | with_reducible assumption
    | ((with_reducible apply Only.step (State.endCond_only _ _)); rfl)
    | ((with_reducible apply Only.step (State.keyEnd_only _ _)); rfl)
    | ((with_reducible apply Only.step (State.keyWritten_only _ _ _)); rfl)
    | ((with_reducible apply Only.step (State.modVault_only _ _)); rfl)
    | ((with_reducible apply Only.step (State.mskPut_only _ _ _)); rfl)
    | ((with_reducible apply Only.step (State.vaultFail_only _)); rfl)
    | ((with_reducible apply Only.step (State.vkTake_only _ _)); rfl)
    | with_reducible apply Only.ite
    | with_reducible apply Only.ite_snd
    | with_reducible apply Only.ite_fst
    | split
    | with_reducible apply Only.foldl _ (fun _ _ => ?_)
    | with_reducible apply Only.foldl_fst _ (fun _ _ => ?_)
    | fail_if_no_progress refine Only.mk (k := ?_)

theorem State.keyArrives_only (s : State) (e : CacheEntry) :
    Only [.fbk, .quads, .cores] s (State.keyArrives s e) := by
  simp only [State.keyArrives]
  repeat' first
    | with_reducible apply Only.refl
    | with_reducible assumption
    | ((with_reducible apply Only.step (State.loadCopy_only _ _ _ _)); rfl)
    | with_reducible apply Only.ite
    | with_reducible apply Only.ite_snd
    | with_reducible apply Only.ite_fst
    | split
    | with_reducible apply Only.foldl _ (fun _ _ => ?_)
    | with_reducible apply Only.foldl_fst _ (fun _ _ => ?_)
    | fail_if_no_progress refine Only.mk (k := ?_)

theorem execKeyDerive_only (s : State) :
    ∃ v, (execKeyDerive s) = .next v ∧ Only [.key, .fbk, .quads, .cores] s v := by
  refine ⟨_, rfl, ?_⟩
  try dsimp only
  repeat' first
    | with_reducible apply Only.refl
    | with_reducible assumption
    | ((with_reducible apply Only.step (State.cacheEnter_only _ _)); rfl)
    | ((with_reducible apply Only.step (State.keyArrives_only _ _)); rfl)
    | ((with_reducible apply Only.step (State.keyCnt_only _ _ _)); rfl)
    | ((with_reducible apply Only.step (State.modKey_only _ _)); rfl)
    | (rename_i hh; with_reducible apply triple_eq at hh; obtain ⟨rfl, rfl, rfl⟩ := hh)
    | (rename_i hh; with_reducible apply pair_eq at hh; obtain ⟨rfl, rfl⟩ := hh)
    | (rename_i hh; with_reducible apply pair_eq at hh; obtain ⟨-, rfl⟩ := hh)
    | (rename_i hh; with_reducible apply pair_eq at hh; obtain ⟨rfl, -⟩ := hh)
    | with_reducible apply Only.ite
    | with_reducible apply Only.ite_snd
    | with_reducible apply Only.ite_fst
    | split
    | with_reducible apply Only.foldl _ (fun _ _ => ?_)
    | with_reducible apply Only.foldl_fst _ (fun _ _ => ?_)
    | fail_if_no_progress refine Only.mk (k := ?_)

theorem State.noKeyJob_only (s : State) (q i : Nat) :
    Only [.sys, .key, .tbl, .fbk, .quads, .cores, .lanes] s (State.noKeyJob s q i) := by
  simp only [State.noKeyJob]
  repeat' first
    | with_reducible apply Only.refl
    | with_reducible assumption
    | ((with_reducible apply Only.step (State.keyCnt_only _ _ _)); rfl)
    | ((with_reducible apply Only.step (State.modQuadN_only _ _ _)); rfl)
    | ((with_reducible apply Only.step (State.release_only _ _)); rfl)
    | with_reducible apply Only.ite
    | with_reducible apply Only.ite_snd
    | with_reducible apply Only.ite_fst
    | split
    | with_reducible apply Only.foldl _ (fun _ _ => ?_)
    | with_reducible apply Only.foldl_fst _ (fun _ _ => ?_)
    | fail_if_no_progress refine Only.mk (k := ?_)

theorem execKeyRequestTimeout_only (u : CipherUnit) (s : State) :
    ∃ v, (execKeyRequestTimeout u s) = .next v ∧ Only [.sys, .key, .tbl, .fbk, .quads, .cores, .lanes] s v := by
  refine ⟨_, rfl, ?_⟩
  try dsimp only
  repeat' first
    | with_reducible apply Only.refl
    | with_reducible assumption
    | ((with_reducible apply Only.step (State.keyCnt_only _ _ _)); rfl)
    | ((with_reducible apply Only.step (State.noKeyJob_only _ _ _)); rfl)
    | with_reducible apply Only.ite
    | with_reducible apply Only.ite_snd
    | with_reducible apply Only.ite_fst
    | split
    | with_reducible apply Only.foldl _ (fun _ _ => ?_)
    | with_reducible apply Only.foldl_fst _ (fun _ _ => ?_)
    | fail_if_no_progress refine Only.mk (k := ?_)

theorem State.keyRng_only (s : State) :
    Only [.key, .freeIdx] s (State.keyRng s).2 := by
  simp only [State.keyRng]
  repeat' first
    | with_reducible apply Only.refl
    | with_reducible assumption
    | ((with_reducible apply Only.step (State.drawWord_only _)); rfl)
    | with_reducible apply Only.ite
    | with_reducible apply Only.ite_snd
    | with_reducible apply Only.ite_fst
    | split
    | with_reducible apply Only.foldl _ (fun _ _ => ?_)
    | with_reducible apply Only.foldl_fst _ (fun _ _ => ?_)
    | fail_if_no_progress refine Only.mk (k := ?_)

theorem State.keyCntRead_only (s : State) (p : Port) :
    Only [.latches] s (State.keyCntRead s p).2 := by
  simp only [State.keyCntRead]
  repeat' first
    | with_reducible apply Only.refl
    | with_reducible assumption
    | ((with_reducible apply Only.step (State.readPair_only _ _ _ _ _)); rfl)
    | with_reducible apply Only.ite
    | with_reducible apply Only.ite_snd
    | with_reducible apply Only.ite_fst
    | split
    | with_reducible apply Only.foldl _ (fun _ _ => ?_)
    | with_reducible apply Only.foldl_fst _ (fun _ _ => ?_)
    | fail_if_no_progress refine Only.mk (k := ?_)

theorem State.keyRead_only (s : State) (p : Port) (off : Nat) :
    Only [.key, .latches, .freeIdx] s (State.keyRead s p off).2 := by
  simp only [State.keyRead]
  repeat' first
    | with_reducible apply Only.refl
    | with_reducible assumption
    | ((with_reducible apply Only.step (State.keyCntRead_only _ _)); rfl)
    | ((with_reducible apply Only.step (State.keyRng_only _)); rfl)
    | with_reducible apply Only.ite
    | with_reducible apply Only.ite_snd
    | with_reducible apply Only.ite_fst
    | split
    | with_reducible apply Only.foldl _ (fun _ _ => ?_)
    | with_reducible apply Only.foldl_fst _ (fun _ _ => ?_)
    | fail_if_no_progress refine Only.mk (k := ?_)

theorem State.keyWrite_only (s : State) (off : Nat) (w : W32) :
    Only [.sys, .evt, .key, .vault, .tbl, .fbk, .quads, .cores, .lanes, .freeIdx] s (State.keyWrite s off w) := by
  simp only [State.keyWrite]
  repeat' first
    | with_reducible apply Only.refl
    | with_reducible assumption
    | ((with_reducible apply Only.step (State.keyCmdWrite_only _ _)); rfl)
    | ((with_reducible apply Only.step (State.modKey_only _ _)); rfl)
    | with_reducible apply Only.ite
    | with_reducible apply Only.ite_snd
    | with_reducible apply Only.ite_fst
    | split
    | with_reducible apply Only.foldl _ (fun _ _ => ?_)
    | with_reducible apply Only.foldl_fst _ (fun _ _ => ?_)
    | fail_if_no_progress refine Only.mk (k := ?_)

theorem execKeyRngRead_only (p : Port) (s : State) :
    ∃ v, (execKeyRngRead p s) = .next v ∧ Only [.evt, .key, .hif, .out, .freeIdx] s v := by
  refine ⟨_, rfl, ?_⟩
  try dsimp only
  repeat' first
    | with_reducible apply Only.refl
    | with_reducible assumption
    | ((with_reducible apply Only.step (State.keyRng_only _)); rfl)
    | ((with_reducible apply State.readIsl_only); rfl)
    | with_reducible apply Only.ite
    | with_reducible apply Only.ite_snd
    | with_reducible apply Only.ite_fst
    | with_reducible intro _
    | split
    | with_reducible apply Only.foldl _ (fun _ _ => ?_)
    | with_reducible apply Only.foldl_fst _ (fun _ _ => ?_)
    | fail_if_no_progress refine Only.mk (k := ?_)

theorem execKeyCntRead_only (p : Port) (s : State) :
    ∃ v, (execKeyCntRead p s) = .next v ∧ Only [.evt, .hif, .latches, .out] s v := by
  refine ⟨_, rfl, ?_⟩
  try dsimp only
  repeat' first
    | with_reducible apply Only.refl
    | with_reducible assumption
    | ((with_reducible apply Only.step (State.keyCntRead_only _ _)); rfl)
    | ((with_reducible apply State.readIsl_only); rfl)
    | with_reducible apply Only.ite
    | with_reducible apply Only.ite_snd
    | with_reducible apply Only.ite_fst
    | with_reducible intro _
    | split
    | with_reducible apply Only.foldl _ (fun _ _ => ?_)
    | with_reducible apply Only.foldl_fst _ (fun _ _ => ?_)
    | fail_if_no_progress refine Only.mk (k := ?_)

end Sys2Proof.Machine
end

