-- ==== Sys2Proof/Laws/OnlySteward.lean ====
section
/-!
SUPPORT. What the operations of Machine/Steward.lean may change.
-/
namespace Sys2Proof.Machine

set_option Elab.async false
set_option linter.unusedTactic false
set_option linter.unreachableTactic false

theorem State.stwErr_only (s : State) (q : QuadId) (e : Byte) :
    Only [.stw] s (State.stwErr s q e) := by
  simp only [State.stwErr]
  repeat' first
    | with_reducible apply Only.refl
    | with_reducible assumption
    | ((with_reducible apply Only.step (State.modStw_only _ _ _)); rfl)
    | with_reducible apply Only.ite
    | with_reducible apply Only.ite_snd
    | with_reducible apply Only.ite_fst
    | split
    | with_reducible apply Only.foldl _ (fun _ _ => ?_)
    | with_reducible apply Only.foldl_fst _ (fun _ _ => ?_)
    | fail_if_no_progress refine Only.mk (k := ?_)

theorem State.stwCmd_only {ps : List Part} {s t : State} {q : QuadId} {k : State → State}
    (hs : subParts [.stw] ps = true) (hk : ∀ u, Only ps u (k u)) (h : Only ps s t) : Only ps s (t.stwCmd q k) := by
  unfold State.stwCmd
  split
  · exact Only.step (State.stwErr_only _ _ _) hs h
  · exact fun p hp => Part.same_trans (Only.step (State.stwErr_only _ _ _) hs h p hp) (hk _ p hp)

theorem State.stwLaneCmd_only {ps : List Part} {s t : State} {q : QuadId} {slice : BitVec 5} {k : State → LaneId → State}
    (hs : subParts [.stw] ps = true) (hk : ∀ u n, Only ps u (k u n)) (h : Only ps s t) : Only ps s (t.stwLaneCmd q slice k) := by
  unfold State.stwLaneCmd
  refine State.stwCmd_only hs (fun u => ?_) h
  repeat' first
    | split
    | exact hk _ _
    | exact Only.step (State.stwErr_only _ _ _) hs (Only.refl _ _)

theorem State.bcastKey_only (s : State) (q : QuadId) (slice : BitVec 5) (k : BitVec 2) :
    Only [.stw] s (State.bcastKey s q slice k) := by
  simp only [State.bcastKey]
  repeat' first
    | with_reducible apply Only.refl
    | with_reducible assumption
    | ((with_reducible apply Only.step (State.modStw_only _ _ _)); rfl)
    | ((with_reducible apply Only.step (State.stwErr_only _ _ _)); rfl)
    | ((with_reducible apply State.stwLaneCmd_only); rfl)
    | with_reducible apply Only.ite
    | with_reducible apply Only.ite_snd
    | with_reducible apply Only.ite_fst
    | with_reducible intro _
    | split
    | with_reducible apply Only.foldl _ (fun _ _ => ?_)
    | with_reducible apply Only.foldl_fst _ (fun _ _ => ?_)
    | fail_if_no_progress refine Only.mk (k := ?_)

theorem State.clearRogue_only (s : State) (q : QuadId) (slice : BitVec 5) :
    Only [.evt, .cst, .stw, .lanes, .out, .freeIdx] s (State.clearRogue s q slice) := by
  simp only [State.clearRogue]
  repeat' first
    | with_reducible apply Only.refl
    | with_reducible assumption
    | ((with_reducible apply Only.step (State.fromO11_only _ _)); rfl)
    | ((with_reducible apply Only.step (State.modAct_only _ _ _)); rfl)
    | ((with_reducible apply Only.step (State.toO11_only _ _)); rfl)
    | ((with_reducible apply State.stwLaneCmd_only); rfl)
    | with_reducible apply Only.ite
    | with_reducible apply Only.ite_snd
    | with_reducible apply Only.ite_fst
    | with_reducible intro _
    | split
    | with_reducible apply Only.foldl _ (fun _ _ => ?_)
    | with_reducible apply Only.foldl_fst _ (fun _ _ => ?_)
    | fail_if_no_progress refine Only.mk (k := ?_)

theorem State.clearDisableRecord_only (s : State) (n : LaneId) :
    Only [.evt, .wel, .freeIdx] s (State.clearDisableRecord s n) := by
  simp only [State.clearDisableRecord]
  repeat' first
    | with_reducible apply Only.refl
    | with_reducible assumption
    | ((with_reducible apply Only.step (State.tookFree_only _)); rfl)
    | ((with_reducible apply Only.step (State.wellWrite_only _ _)); rfl)
    | with_reducible apply Only.ite
    | with_reducible apply Only.ite_snd
    | with_reducible apply Only.ite_fst
    | split
    | with_reducible apply Only.foldl _ (fun _ _ => ?_)
    | with_reducible apply Only.foldl_fst _ (fun _ _ => ?_)
    | fail_if_no_progress refine Only.mk (k := ?_)

theorem State.clearDisable_only (s : State) (q : QuadId) (slice : BitVec 5) :
    Only [.evt, .wel, .vault, .cst, .stw, .lanes, .out, .freeIdx] s (State.clearDisable s q slice) := by
  simp only [State.clearDisable]
  repeat' first
    | with_reducible apply Only.refl
    | with_reducible assumption
    | ((with_reducible apply Only.step (State.clearDisableRecord_only _ _)); rfl)
    | ((with_reducible apply Only.step (State.setDisabled_only _ _ _)); rfl)
    | ((with_reducible apply Only.step (State.toO11_only _ _)); rfl)
    | ((with_reducible apply State.stwLaneCmd_only); rfl)
    | with_reducible apply Only.ite
    | with_reducible apply Only.ite_snd
    | with_reducible apply Only.ite_fst
    | with_reducible intro _
    | split
    | with_reducible apply Only.foldl _ (fun _ _ => ?_)
    | with_reducible apply Only.foldl_fst _ (fun _ _ => ?_)
    | fail_if_no_progress refine Only.mk (k := ?_)

theorem State.restartLane_only (s : State) (q : QuadId) (slice : BitVec 5) :
    Only [.evt, .cst, .stw, .quads, .lanes, .out, .freeIdx] s (State.restartLane s q slice) := by
  simp only [State.restartLane]
  repeat' first
    | with_reducible apply Only.refl
    | with_reducible assumption
    | ((with_reducible apply Only.step (State.exitTo11_only _ _ _)); rfl)
    | ((with_reducible apply State.stwLaneCmd_only); rfl)
    | with_reducible apply Only.ite
    | with_reducible apply Only.ite_snd
    | with_reducible apply Only.ite_fst
    | with_reducible intro _
    | split
    | with_reducible apply Only.foldl _ (fun _ _ => ?_)
    | with_reducible apply Only.foldl_fst _ (fun _ _ => ?_)
    | fail_if_no_progress refine Only.mk (k := ?_)

theorem execBcastKey_only (p : Port) (q : QuadId) (slice : BitVec 5) (k : BitVec 2) (s : State) :
    ∃ v, (execBcastKey p q slice k s) = .next v ∧ Only [.evt, .hif, .stw] s v := by
  refine ⟨_, rfl, ?_⟩
  try dsimp only
  repeat' first
    | with_reducible apply Only.refl
    | with_reducible assumption
    | ((with_reducible apply Only.step (State.bcastKey_only _ _ _ _)); rfl)
    | ((with_reducible apply State.writeIsl_only); rfl)
    | with_reducible apply Only.ite
    | with_reducible apply Only.ite_snd
    | with_reducible apply Only.ite_fst
    | with_reducible intro _
    | split
    | with_reducible apply Only.foldl _ (fun _ _ => ?_)
    | with_reducible apply Only.foldl_fst _ (fun _ _ => ?_)
    | fail_if_no_progress refine Only.mk (k := ?_)

theorem execClearRogue_only (p : Port) (q : QuadId) (slice : BitVec 5) (s : State) :
    ∃ v, (execClearRogue p q slice s) = .next v ∧ Only [.evt, .hif, .cst, .stw, .lanes, .out, .freeIdx] s v := by
  refine ⟨_, rfl, ?_⟩
  try dsimp only
  repeat' first
    | with_reducible apply Only.refl
    | with_reducible assumption
    | ((with_reducible apply Only.step (State.clearRogue_only _ _ _)); rfl)
    | ((with_reducible apply State.writeIsl_only); rfl)
    | with_reducible apply Only.ite
    | with_reducible apply Only.ite_snd
    | with_reducible apply Only.ite_fst
    | with_reducible intro _
    | split
    | with_reducible apply Only.foldl _ (fun _ _ => ?_)
    | with_reducible apply Only.foldl_fst _ (fun _ _ => ?_)
    | fail_if_no_progress refine Only.mk (k := ?_)

theorem execClearDisable_only (p : Port) (q : QuadId) (slice : BitVec 5) (s : State) :
    ∃ v, (execClearDisable p q slice s) = .next v ∧ Only [.evt, .wel, .hif, .vault, .cst, .stw, .lanes, .out, .freeIdx] s v := by
  refine ⟨_, rfl, ?_⟩
  try dsimp only
  repeat' first
    | with_reducible apply Only.refl
    | with_reducible assumption
    | ((with_reducible apply Only.step (State.clearDisable_only _ _ _)); rfl)
    | ((with_reducible apply State.writeIsl_only); rfl)
    | with_reducible apply Only.ite
    | with_reducible apply Only.ite_snd
    | with_reducible apply Only.ite_fst
    | with_reducible intro _
    | split
    | with_reducible apply Only.foldl _ (fun _ _ => ?_)
    | with_reducible apply Only.foldl_fst _ (fun _ _ => ?_)
    | fail_if_no_progress refine Only.mk (k := ?_)

theorem execRestartLane_only (p : Port) (q : QuadId) (slice : BitVec 5) (s : State) :
    ∃ v, (execRestartLane p q slice s) = .next v ∧ Only [.evt, .hif, .cst, .stw, .quads, .lanes, .out, .freeIdx] s v := by
  refine ⟨_, rfl, ?_⟩
  try dsimp only
  repeat' first
    | with_reducible apply Only.refl
    | with_reducible assumption
    | ((with_reducible apply Only.step (State.restartLane_only _ _ _)); rfl)
    | ((with_reducible apply State.writeIsl_only); rfl)
    | with_reducible apply Only.ite
    | with_reducible apply Only.ite_snd
    | with_reducible apply Only.ite_fst
    | with_reducible intro _
    | split
    | with_reducible apply Only.foldl _ (fun _ _ => ?_)
    | with_reducible apply Only.foldl_fst _ (fun _ _ => ?_)
    | fail_if_no_progress refine Only.mk (k := ?_)

theorem State.loadFw_only (s : State) (q : QuadId) :
    Only [.stw] s (State.loadFw s q) := by
  simp only [State.loadFw]
  repeat' first
    | with_reducible apply Only.refl
    | with_reducible assumption
    | ((with_reducible apply Only.step (State.modStw_only _ _ _)); rfl)
    | ((with_reducible apply State.stwCmd_only); rfl)
    | with_reducible apply Only.ite
    | with_reducible apply Only.ite_snd
    | with_reducible apply Only.ite_fst
    | with_reducible intro _
    | split
    | with_reducible apply Only.foldl _ (fun _ _ => ?_)
    | with_reducible apply Only.foldl_fst _ (fun _ _ => ?_)
    | fail_if_no_progress refine Only.mk (k := ?_)

theorem execLoadFw_only (p : Port) (q : QuadId) (s : State) :
    ∃ v, (execLoadFw p q s) = .next v ∧ Only [.evt, .hif, .stw] s v := by
  refine ⟨_, rfl, ?_⟩
  try dsimp only
  repeat' first
    | with_reducible apply Only.refl
    | with_reducible assumption
    | ((with_reducible apply Only.step (State.loadFw_only _ _)); rfl)
    | ((with_reducible apply State.writeIsl_only); rfl)
    | with_reducible apply Only.ite
    | with_reducible apply Only.ite_snd
    | with_reducible apply Only.ite_fst
    | with_reducible intro _
    | split
    | with_reducible apply Only.foldl _ (fun _ _ => ?_)
    | with_reducible apply Only.foldl_fst _ (fun _ _ => ?_)
    | fail_if_no_progress refine Only.mk (k := ?_)

theorem State.swapFw_only (s : State) (q : QuadId) (force : Bool) :
    Only [.stw] s (State.swapFw s q force) := by
  simp only [State.swapFw]
  repeat' first
    | with_reducible apply Only.refl
    | with_reducible assumption
    | ((with_reducible apply Only.step (State.modStw_only _ _ _)); rfl)
    | ((with_reducible apply Only.step (State.stwErr_only _ _ _)); rfl)
    | ((with_reducible apply State.stwCmd_only); rfl)
    | with_reducible apply Only.ite
    | with_reducible apply Only.ite_snd
    | with_reducible apply Only.ite_fst
    | with_reducible intro _
    | split
    | with_reducible apply Only.foldl _ (fun _ _ => ?_)
    | with_reducible apply Only.foldl_fst _ (fun _ _ => ?_)
    | fail_if_no_progress refine Only.mk (k := ?_)

theorem execSwapFw_only (p : Port) (q : QuadId) (force : Bool) (s : State) :
    ∃ v, (execSwapFw p q force s) = .next v ∧ Only [.evt, .hif, .stw] s v := by
  refine ⟨_, rfl, ?_⟩
  try dsimp only
  repeat' first
    | with_reducible apply Only.refl
    | with_reducible assumption
    | ((with_reducible apply Only.step (State.swapFw_only _ _ _)); rfl)
    | ((with_reducible apply State.writeIsl_only); rfl)
    | with_reducible apply Only.ite
    | with_reducible apply Only.ite_snd
    | with_reducible apply Only.ite_fst
    | with_reducible intro _
    | split
    | with_reducible apply Only.foldl _ (fun _ _ => ?_)
    | with_reducible apply Only.foldl_fst _ (fun _ _ => ?_)
    | fail_if_no_progress refine Only.mk (k := ?_)

theorem State.restartLines_only (s : State) (q : QuadId) :
    Only [.evt, .cst, .stw, .quads, .lanes, .out, .freeIdx] s (State.restartLines s q) := by
  simp only [State.restartLines]
  repeat' first
    | with_reducible apply Only.refl
    | with_reducible assumption
    | ((with_reducible apply Only.step (State.restartLine_only _ _)); rfl)
    | with_reducible apply Only.ite
    | with_reducible apply Only.ite_snd
    | with_reducible apply Only.ite_fst
    | split
    | with_reducible apply Only.foldl _ (fun _ _ => ?_)
    | with_reducible apply Only.foldl_fst _ (fun _ _ => ?_)
    | fail_if_no_progress refine Only.mk (k := ?_)

theorem execSwapFwHalt_only (q : QuadId) (s : State) :
    ∃ v, (execSwapFwHalt q s) = .next v ∧ Only [.evt, .cst, .stw, .quads, .lanes, .out, .freeIdx] s v := by
  refine ⟨_, rfl, ?_⟩
  try dsimp only
  repeat' first
    | with_reducible apply Only.refl
    | with_reducible assumption
    | ((with_reducible apply Only.step (State.modStw_only _ _ _)); rfl)
    | ((with_reducible apply Only.step (State.restartLines_only _ _)); rfl)
    | with_reducible apply Only.ite
    | with_reducible apply Only.ite_snd
    | with_reducible apply Only.ite_fst
    | split
    | with_reducible apply Only.foldl _ (fun _ _ => ?_)
    | with_reducible apply Only.foldl_fst _ (fun _ _ => ?_)
    | fail_if_no_progress refine Only.mk (k := ?_)

theorem execSwapFwCheck_only (q : QuadId) (pass : Bool) (s : State) :
    ∃ v, (execSwapFwCheck q pass s) = .next v ∧ Only [.evt, .stw] s v := by
  refine ⟨_, rfl, ?_⟩
  try dsimp only
  repeat' first
    | with_reducible apply Only.refl
    | with_reducible assumption
    | ((with_reducible apply Only.step (State.modStw_only _ _ _)); rfl)
    | ((with_reducible apply Only.step (State.report_only _ _ _ _)); rfl)
    | with_reducible apply Only.ite
    | with_reducible apply Only.ite_snd
    | with_reducible apply Only.ite_fst
    | split
    | with_reducible apply Only.foldl _ (fun _ _ => ?_)
    | with_reducible apply Only.foldl_fst _ (fun _ _ => ?_)
    | fail_if_no_progress refine Only.mk (k := ?_)

theorem State.commitFw_only (s : State) (q : QuadId) :
    Only [.stw] s (State.commitFw s q) := by
  simp only [State.commitFw]
  repeat' first
    | with_reducible apply Only.refl
    | with_reducible assumption
    | ((with_reducible apply Only.step (State.modStw_only _ _ _)); rfl)
    | ((with_reducible apply State.stwCmd_only); rfl)
    | with_reducible apply Only.ite
    | with_reducible apply Only.ite_snd
    | with_reducible apply Only.ite_fst
    | with_reducible intro _
    | split
    | with_reducible apply Only.foldl _ (fun _ _ => ?_)
    | with_reducible apply Only.foldl_fst _ (fun _ _ => ?_)
    | fail_if_no_progress refine Only.mk (k := ?_)

theorem execCommitFw_only (p : Port) (q : QuadId) (s : State) :
    ∃ v, (execCommitFw p q s) = .next v ∧ Only [.evt, .hif, .stw] s v := by
  refine ⟨_, rfl, ?_⟩
  try dsimp only
  repeat' first
    | with_reducible apply Only.refl
    | with_reducible assumption
    | ((with_reducible apply Only.step (State.commitFw_only _ _)); rfl)
    | ((with_reducible apply State.writeIsl_only); rfl)
    | with_reducible apply Only.ite
    | with_reducible apply Only.ite_snd
    | with_reducible apply Only.ite_fst
    | with_reducible intro _
    | split
    | with_reducible apply Only.foldl _ (fun _ _ => ?_)
    | with_reducible apply Only.foldl_fst _ (fun _ _ => ?_)
    | fail_if_no_progress refine Only.mk (k := ?_)

theorem execStewardHeartbeatMiss_only (q : QuadId) (s : State) :
    ∃ v, (execStewardHeartbeatMiss q s) = .next v ∧ Only [.evt, .cst, .stw, .quads, .lanes, .out, .freeIdx] s v := by
  refine ⟨_, rfl, ?_⟩
  try dsimp only
  repeat' first
    | with_reducible apply Only.refl
    | with_reducible assumption
    | ((with_reducible apply Only.step (State.modStw_only _ _ _)); rfl)
    | ((with_reducible apply Only.step (State.report_only _ _ _ _)); rfl)
    | ((with_reducible apply Only.step (State.restartLines_only _ _)); rfl)
    | with_reducible apply Only.ite
    | with_reducible apply Only.ite_snd
    | with_reducible apply Only.ite_fst
    | split
    | with_reducible apply Only.foldl _ (fun _ _ => ?_)
    | with_reducible apply Only.foldl_fst _ (fun _ _ => ?_)
    | fail_if_no_progress refine Only.mk (k := ?_)

theorem State.stwEnd_only (s : State) (q : QuadId) (err : Byte) :
    Only [.stw] s (State.stwEnd s q err) := by
  simp only [State.stwEnd]
  repeat' first
    | with_reducible apply Only.refl
    | with_reducible assumption
    | ((with_reducible apply Only.step (State.modStw_only _ _ _)); rfl)
    | with_reducible apply Only.ite
    | with_reducible apply Only.ite_snd
    | with_reducible apply Only.ite_fst
    | split
    | with_reducible apply Only.foldl _ (fun _ _ => ?_)
    | with_reducible apply Only.foldl_fst _ (fun _ _ => ?_)
    | fail_if_no_progress refine Only.mk (k := ?_)

theorem State.loadFwDone_only (s : State) (q : QuadId) (bytes : List Byte) (ok : Bool) :
    Only [.stw] s (State.loadFwDone s q bytes ok) := by
  simp only [State.loadFwDone]
  repeat' first
    | with_reducible apply Only.refl
    | with_reducible assumption
    | ((with_reducible apply Only.step (State.modStw_only _ _ _)); rfl)
    | ((with_reducible apply Only.step (State.stwEnd_only _ _ _)); rfl)
    | with_reducible apply Only.ite
    | with_reducible apply Only.ite_snd
    | with_reducible apply Only.ite_fst
    | split
    | with_reducible apply Only.foldl _ (fun _ _ => ?_)
    | with_reducible apply Only.foldl_fst _ (fun _ _ => ?_)
    | fail_if_no_progress refine Only.mk (k := ?_)

theorem State.bcastKeyDone_only (s : State) (q : QuadId) (slice : BitVec 5) (k : BitVec 2) :
    Only [.stw, .lanes, .freeIdx] s (State.bcastKeyDone s q slice k) := by
  simp only [State.bcastKeyDone]
  repeat' first
    | with_reducible apply Only.refl
    | with_reducible assumption
    | ((with_reducible apply Only.step (State.installKey_only _ _ _ _)); rfl)
    | ((with_reducible apply Only.step (State.stwEnd_only _ _ _)); rfl)
    | with_reducible apply Only.ite
    | with_reducible apply Only.ite_snd
    | with_reducible apply Only.ite_fst
    | split
    | with_reducible apply Only.foldl _ (fun _ _ => ?_)
    | with_reducible apply Only.foldl_fst _ (fun _ _ => ?_)
    | fail_if_no_progress refine Only.mk (k := ?_)

theorem execStwCmdDone_only (q : QuadId) (bytes : List Byte) (ok : Bool) (s : State) :
    ∃ v, (execStwCmdDone q bytes ok s) = .next v ∧ Only [.vault, .stw, .lanes, .freeIdx] s v := by
  refine ⟨_, rfl, ?_⟩
  try dsimp only
  repeat' first
    | with_reducible apply Only.refl
    | with_reducible assumption
    | ((with_reducible apply Only.step (State.bcastKeyDone_only _ _ _ _)); rfl)
    | ((with_reducible apply Only.step (State.loadFwDone_only _ _ _ _)); rfl)
    | ((with_reducible apply Only.step (State.stwEnd_only _ _ _)); rfl)
    | with_reducible apply Only.ite
    | with_reducible apply Only.ite_snd
    | with_reducible apply Only.ite_fst
    | split
    | with_reducible apply Only.foldl _ (fun _ _ => ?_)
    | with_reducible apply Only.foldl_fst _ (fun _ _ => ?_)
    | fail_if_no_progress refine Only.mk (k := ?_)

theorem State.optWrite_only (s : State) (q : QuadId) (w : W32) :
    Only [.stw, .out] s (State.optWrite s q w) := by
  simp only [State.optWrite]
  repeat' first
    | with_reducible apply Only.refl
    | with_reducible assumption
    | ((with_reducible apply Only.step (State.emit_only _ _)); rfl)
    | ((with_reducible apply Only.step (State.modStw_only _ _ _)); rfl)
    | with_reducible apply Only.ite
    | with_reducible apply Only.ite_snd
    | with_reducible apply Only.ite_fst
    | split
    | with_reducible apply Only.foldl _ (fun _ _ => ?_)
    | with_reducible apply Only.foldl_fst _ (fun _ _ => ?_)
    | fail_if_no_progress refine Only.mk (k := ?_)

theorem execOptGo_only (p : Port) (q : QuadId) (w : W32) (s : State) :
    ∃ v, (execOptGo p q w s) = .next v ∧ Only [.evt, .hif, .stw, .out] s v := by
  refine ⟨_, rfl, ?_⟩
  try dsimp only
  repeat' first
    | with_reducible apply Only.refl
    | with_reducible assumption
    | ((with_reducible apply Only.step (State.optWrite_only _ _ _)); rfl)
    | ((with_reducible apply State.writeIsl_only); rfl)
    | with_reducible apply Only.ite
    | with_reducible apply Only.ite_snd
    | with_reducible apply Only.ite_fst
    | with_reducible intro _
    | split
    | with_reducible apply Only.foldl _ (fun _ _ => ?_)
    | with_reducible apply Only.foldl_fst _ (fun _ _ => ?_)
    | fail_if_no_progress refine Only.mk (k := ?_)

theorem execOptDone_only (q : QuadId) (nack : Bool) (rdata : W32) (s : State) :
    ∃ v, (execOptDone q nack rdata s) = .next v ∧ Only [.stw, .freeIdx] s v := by
  refine ⟨_, rfl, ?_⟩
  try dsimp only
  repeat' first
    | with_reducible apply Only.refl
    | with_reducible assumption
    | ((with_reducible apply Only.step (State.modStw_only _ _ _)); rfl)
    | ((with_reducible apply Only.step (State.tookFree_only _)); rfl)
    | with_reducible apply Only.ite
    | with_reducible apply Only.ite_snd
    | with_reducible apply Only.ite_fst
    | split
    | with_reducible apply Only.foldl _ (fun _ _ => ?_)
    | with_reducible apply Only.foldl_fst _ (fun _ _ => ?_)
    | fail_if_no_progress refine Only.mk (k := ?_)

theorem execOptTimeout_only (q : QuadId) (s : State) :
    ∃ v, (execOptTimeout q s) = .next v ∧ Only [.stw] s v := by
  refine ⟨_, rfl, ?_⟩
  try dsimp only
  repeat' first
    | with_reducible apply Only.refl
    | with_reducible assumption
    | ((with_reducible apply Only.step (State.modStw_only _ _ _)); rfl)
    | with_reducible apply Only.ite
    | with_reducible apply Only.ite_snd
    | with_reducible apply Only.ite_fst
    | split
    | with_reducible apply Only.foldl _ (fun _ _ => ?_)
    | with_reducible apply Only.foldl_fst _ (fun _ _ => ?_)
    | fail_if_no_progress refine Only.mk (k := ?_)

theorem State.stwCmdWrite_only (s : State) (q : QuadId) (w : W32) :
    Only [.evt, .wel, .vault, .cst, .stw, .quads, .lanes, .out, .freeIdx] s (State.stwCmdWrite s q w) := by
  simp only [State.stwCmdWrite]
  repeat' first
    | with_reducible apply Only.refl
    | with_reducible assumption
    | ((with_reducible apply Only.step (State.bcastKey_only _ _ _ _)); rfl)
    | ((with_reducible apply Only.step (State.clearDisable_only _ _ _)); rfl)
    | ((with_reducible apply Only.step (State.clearRogue_only _ _ _)); rfl)
    | ((with_reducible apply Only.step (State.commitFw_only _ _)); rfl)
    | ((with_reducible apply Only.step (State.loadFw_only _ _)); rfl)
    | ((with_reducible apply Only.step (State.restartLane_only _ _ _)); rfl)
    | ((with_reducible apply Only.step (State.stwErr_only _ _ _)); rfl)
    | ((with_reducible apply Only.step (State.swapFw_only _ _ _)); rfl)
    | with_reducible apply Only.ite
    | with_reducible apply Only.ite_snd
    | with_reducible apply Only.ite_fst
    | split
    | with_reducible apply Only.foldl _ (fun _ _ => ?_)
    | with_reducible apply Only.foldl_fst _ (fun _ _ => ?_)
    | fail_if_no_progress refine Only.mk (k := ?_)

theorem State.stwRead_only (s : State) (q : QuadId) (off : Nat) :
    Only [.stw] s (State.stwRead s q off).2 := by
  simp only [State.stwRead]
  repeat' first
    | with_reducible apply Only.refl
    | with_reducible assumption
    | ((with_reducible apply Only.step (State.stwLaneRead_only _ _)); rfl)
    | with_reducible apply Only.ite
    | with_reducible apply Only.ite_snd
    | with_reducible apply Only.ite_fst
    | split
    | with_reducible apply Only.foldl _ (fun _ _ => ?_)
    | with_reducible apply Only.foldl_fst _ (fun _ _ => ?_)
    | fail_if_no_progress refine Only.mk (k := ?_)

theorem State.stwWrite_only (s : State) (q : QuadId) (off : Nat) (w : W32) :
    Only [.sys, .str, .pwr, .evt, .wel, .tim, .hif, .vault, .cst, .tbl, .fbk, .stw, .quads, .cores, .lanes, .out, .freeIdx] s (State.stwWrite s q off w) := by
  simp only [State.stwWrite]
  repeat' first
    | with_reducible apply Only.refl
    | with_reducible assumption
    | ((with_reducible apply Only.step (State.modStw_only _ _ _)); rfl)
    | ((with_reducible apply Only.step (State.optWrite_only _ _ _)); rfl)
    | ((with_reducible apply Only.step (State.stwCmdWrite_only _ _ _)); rfl)
    | ((with_reducible apply Only.step (State.stwLaneWrite_only _ _ _)); rfl)
    | ((with_reducible apply Only.step (State.tuneAck_only _ _ _)); rfl)
    | with_reducible apply Only.ite
    | with_reducible apply Only.ite_snd
    | with_reducible apply Only.ite_fst
    | split
    | with_reducible apply Only.foldl _ (fun _ _ => ?_)
    | with_reducible apply Only.foldl_fst _ (fun _ _ => ?_)
    | fail_if_no_progress refine Only.mk (k := ?_)

end Sys2Proof.Machine
end

