-- ==== Sys2Proof/Laws/OnlyLoader.lean ====
section
/-!
SUPPORT. What the operations of Machine/Loader.lean may change.
-/
namespace Sys2Proof.Machine

set_option Elab.async false
set_option linter.unusedTactic false
set_option linter.unreachableTactic false

theorem State.modStr_only (s : State) (f : Loader → Loader) :
    Only [.str] s (State.modStr s f) := by
  simp only [State.modStr]
  repeat' first
    | with_reducible apply Only.refl
    | with_reducible assumption
    | with_reducible apply Only.ite
    | with_reducible apply Only.ite_snd
    | with_reducible apply Only.ite_fst
    | split
    | with_reducible apply Only.foldl _ (fun _ _ => ?_)
    | with_reducible apply Only.foldl_fst _ (fun _ _ => ?_)
    | fail_if_no_progress refine Only.mk (k := ?_)

theorem State.strErr_only (s : State) (e : Byte) :
    Only [.str] s (State.strErr s e) := by
  simp only [State.strErr]
  repeat' first
    | with_reducible apply Only.refl
    | with_reducible assumption
    | ((with_reducible apply Only.step (State.modStr_only _ _)); rfl)
    | with_reducible apply Only.ite
    | with_reducible apply Only.ite_snd
    | with_reducible apply Only.ite_fst
    | split
    | with_reducible apply Only.foldl _ (fun _ _ => ?_)
    | with_reducible apply Only.foldl_fst _ (fun _ _ => ?_)
    | fail_if_no_progress refine Only.mk (k := ?_)

theorem State.strCmd_only {ps : List Part} {s t : State} {k : State → State}
    (hs : subParts [.str] ps = true) (hk : ∀ u, Only ps u (k u)) (h : Only ps s t) : Only ps s (t.strCmd k) := by
  unfold State.strCmd
  split
  · exact Only.step (State.strErr_only _ _) hs h
  · exact fun q hq => Part.same_trans (h q hq) (hk t q hq)

theorem State.strDone_only (s : State) (f : Loader → Loader) :
    Only [.str, .evt] s (State.strDone s f) := by
  simp only [State.strDone]
  repeat' first
    | with_reducible apply Only.refl
    | with_reducible assumption
    | ((with_reducible apply Only.step (State.modStr_only _ _)); rfl)
    | ((with_reducible apply Only.step (State.report_only _ _ _ _)); rfl)
    | with_reducible apply Only.ite
    | with_reducible apply Only.ite_snd
    | with_reducible apply Only.ite_fst
    | split
    | with_reducible apply Only.foldl _ (fun _ _ => ?_)
    | with_reducible apply Only.foldl_fst _ (fun _ _ => ?_)
    | fail_if_no_progress refine Only.mk (k := ?_)

theorem State.strFail_only (s : State) (e : Byte) :
    Only [.str, .evt] s (State.strFail s e) := by
  simp only [State.strFail]
  repeat' first
    | with_reducible apply Only.refl
    | with_reducible assumption
    | ((with_reducible apply Only.step (State.modStr_only _ _)); rfl)
    | ((with_reducible apply Only.step (State.report_only _ _ _ _)); rfl)
    | with_reducible apply Only.ite
    | with_reducible apply Only.ite_snd
    | with_reducible apply Only.ite_fst
    | split
    | with_reducible apply Only.foldl _ (fun _ _ => ?_)
    | with_reducible apply Only.foldl_fst _ (fun _ _ => ?_)
    | fail_if_no_progress refine Only.mk (k := ?_)

theorem State.load_only (s : State) (src : BitVec 2) :
    Only [.str, .evt] s (State.load s src) := by
  simp only [State.load]
  repeat' first
    | with_reducible apply Only.refl
    | with_reducible assumption
    | ((with_reducible apply Only.step (State.modStr_only _ _)); rfl)
    | ((with_reducible apply Only.step (State.strErr_only _ _)); rfl)
    | ((with_reducible apply Only.step (State.strFail_only _ _)); rfl)
    | ((with_reducible apply State.strCmd_only); rfl)
    | with_reducible apply Only.ite
    | with_reducible apply Only.ite_snd
    | with_reducible apply Only.ite_fst
    | with_reducible intro _
    | split
    | with_reducible apply Only.foldl _ (fun _ _ => ?_)
    | with_reducible apply Only.foldl_fst _ (fun _ _ => ?_)
    | fail_if_no_progress refine Only.mk (k := ?_)

theorem execLoad_only (p : Port) (src : BitVec 2) (s : State) :
    ∃ v, (execLoad p src s) = .next v ∧ Only [.str, .evt, .hif] s v := by
  refine ⟨_, rfl, ?_⟩
  try dsimp only
  repeat' first
    | with_reducible apply Only.refl
    | with_reducible assumption
    | ((with_reducible apply Only.step (State.load_only _ _)); rfl)
    | ((with_reducible apply State.writeIsl_only); rfl)
    | with_reducible apply Only.ite
    | with_reducible apply Only.ite_snd
    | with_reducible apply Only.ite_fst
    | with_reducible intro _
    | split
    | with_reducible apply Only.foldl _ (fun _ _ => ?_)
    | with_reducible apply Only.foldl_fst _ (fun _ _ => ?_)
    | fail_if_no_progress refine Only.mk (k := ?_)

theorem State.autoLoad_only (s : State) (r : AutoRun) :
    Only [.str] s (State.autoLoad s r) := by
  simp only [State.autoLoad]
  repeat' first
    | with_reducible apply Only.refl
    | with_reducible assumption
    | ((with_reducible apply Only.step (State.modStr_only _ _)); rfl)
    | with_reducible apply Only.ite
    | with_reducible apply Only.ite_snd
    | with_reducible apply Only.ite_fst
    | split
    | with_reducible apply Only.foldl _ (fun _ _ => ?_)
    | with_reducible apply Only.foldl_fst _ (fun _ _ => ?_)
    | fail_if_no_progress refine Only.mk (k := ?_)

theorem State.autoNext_only (s : State) (r : AutoRun) (e : Byte) :
    Only [.sys, .str, .pwr, .evt, .tim, .hif, .cst, .tbl, .fbk, .stw, .quads, .cores, .lanes, .out, .freeIdx] s (State.autoNext s r e) := by
  simp only [State.autoNext]
  repeat' first
    | with_reducible apply Only.refl
    | with_reducible assumption
    | ((with_reducible apply Only.step (State.autoLoad_only _ _)); rfl)
    | ((with_reducible apply Only.step (State.loaderFail_only _ _)); rfl)
    | ((with_reducible apply Only.step (State.powerSettle_only _)); rfl)
    | with_reducible apply Only.ite
    | with_reducible apply Only.ite_snd
    | with_reducible apply Only.ite_fst
    | split
    | with_reducible apply Only.foldl _ (fun _ _ => ?_)
    | with_reducible apply Only.foldl_fst _ (fun _ _ => ?_)
    | fail_if_no_progress refine Only.mk (k := ?_)

theorem execLoadDone_only (ok : Bool) (bytes : List Byte) (s : State) :
    ∃ v, (execLoadDone ok bytes s) = .next v ∧ Only [.sys, .str, .pwr, .evt, .tim, .hif, .cst, .tbl, .fbk, .stw, .quads, .cores, .lanes, .out, .freeIdx] s v := by
  refine ⟨_, rfl, ?_⟩
  try dsimp only
  repeat' first
    | with_reducible apply Only.refl
    | with_reducible assumption
    | ((with_reducible apply Only.step (State.autoNext_only _ _ _)); rfl)
    | ((with_reducible apply Only.step (State.modStr_only _ _)); rfl)
    | ((with_reducible apply Only.step (State.strDone_only _ _)); rfl)
    | ((with_reducible apply Only.step (State.strFail_only _ _)); rfl)
    | with_reducible apply Only.ite
    | with_reducible apply Only.ite_snd
    | with_reducible apply Only.ite_fst
    | split
    | with_reducible apply Only.foldl _ (fun _ _ => ?_)
    | with_reducible apply Only.foldl_fst _ (fun _ _ => ?_)
    | fail_if_no_progress refine Only.mk (k := ?_)

theorem State.verify_only (s : State) :
    Only [.str] s (State.verify s) := by
  simp only [State.verify]
  repeat' first
    | with_reducible apply Only.refl
    | with_reducible assumption
    | ((with_reducible apply Only.step (State.modStr_only _ _)); rfl)
    | ((with_reducible apply Only.step (State.strErr_only _ _)); rfl)
    | ((with_reducible apply State.strCmd_only); rfl)
    | with_reducible apply Only.ite
    | with_reducible apply Only.ite_snd
    | with_reducible apply Only.ite_fst
    | with_reducible intro _
    | split
    | with_reducible apply Only.foldl _ (fun _ _ => ?_)
    | with_reducible apply Only.foldl_fst _ (fun _ _ => ?_)
    | fail_if_no_progress refine Only.mk (k := ?_)

theorem execVerify_only (p : Port) (s : State) :
    ∃ v, (execVerify p s) = .next v ∧ Only [.str, .evt, .hif] s v := by
  refine ⟨_, rfl, ?_⟩
  try dsimp only
  repeat' first
    | with_reducible apply Only.refl
    | with_reducible assumption
    | ((with_reducible apply Only.step (State.verify_only _)); rfl)
    | ((with_reducible apply State.writeIsl_only); rfl)
    | with_reducible apply Only.ite
    | with_reducible apply Only.ite_snd
    | with_reducible apply Only.ite_fst
    | with_reducible intro _
    | split
    | with_reducible apply Only.foldl _ (fun _ _ => ?_)
    | with_reducible apply Only.foldl_fst _ (fun _ _ => ?_)
    | fail_if_no_progress refine Only.mk (k := ?_)

theorem State.cancelSwap_only (s : State) (q : Nat) :
    Only [.stw] s (State.cancelSwap s q) := by
  simp only [State.cancelSwap]
  repeat' first
    | with_reducible apply Only.refl
    | with_reducible assumption
    | with_reducible apply Only.ite
    | with_reducible apply Only.ite_snd
    | with_reducible apply Only.ite_fst
    | split
    | with_reducible apply Only.foldl _ (fun _ _ => ?_)
    | with_reducible apply Only.foldl_fst _ (fun _ _ => ?_)
    | fail_if_no_progress refine Only.mk (k := ?_)

theorem State.darken_only (s : State) (q : Nat) :
    Only [.sys, .evt, .fbk, .stw, .quads, .lanes] s (State.darken s q) := by
  simp only [State.darken]
  repeat' first
    | with_reducible apply Only.refl
    | with_reducible assumption
    | ((with_reducible apply Only.step (State.cancelSwap_only _ _)); rfl)
    | ((with_reducible apply Only.step (State.discardBursts_only _ _)); rfl)
    | ((with_reducible apply Only.step (State.quadDiscard_only _ _)); rfl)
    | ((with_reducible apply Only.step (State.sdhTiming_only _ _ _)); rfl)
    | with_reducible apply Only.ite
    | with_reducible apply Only.ite_snd
    | with_reducible apply Only.ite_fst
    | split
    | with_reducible apply Only.foldl _ (fun _ _ => ?_)
    | with_reducible apply Only.foldl_fst _ (fun _ _ => ?_)
    | fail_if_no_progress refine Only.mk (k := ?_)

theorem State.darkWindow_only (s : State) (mask : BitVec 4) :
    Only [.sys, .str, .pwr, .evt, .tim, .hif, .cst, .tbl, .fbk, .stw, .quads, .cores, .lanes, .out, .freeIdx] s (State.darkWindow s mask) := by
  simp only [State.darkWindow]
  repeat' first
    | with_reducible apply Only.refl
    | with_reducible assumption
    | ((with_reducible apply Only.step (State.darken_only _ _)); rfl)
    | ((with_reducible apply Only.step (State.modStr_only _ _)); rfl)
    | ((with_reducible apply Only.step (State.powerSettle_only _)); rfl)
    | with_reducible apply Only.ite
    | with_reducible apply Only.ite_snd
    | with_reducible apply Only.ite_fst
    | split
    | with_reducible apply Only.foldl _ (fun _ _ => ?_)
    | with_reducible apply Only.foldl_fst _ (fun _ _ => ?_)
    | fail_if_no_progress refine Only.mk (k := ?_)

theorem State.autoApply_only (s : State) (b : List Byte) (mask : BitVec 4) :
    Only [.sys, .str, .pwr, .evt, .tim, .hif, .cst, .tbl, .fbk, .stw, .quads, .cores, .lanes, .out, .freeIdx] s (State.autoApply s b mask) := by
  simp only [State.autoApply]
  repeat' first
    | with_reducible apply Only.refl
    | with_reducible assumption
    | ((with_reducible apply Only.step (State.darkWindow_only _ _)); rfl)
    | ((with_reducible apply Only.step (State.loaderFail_only _ _)); rfl)
    | ((with_reducible apply Only.step (State.modStr_only _ _)); rfl)
    | ((with_reducible apply Only.step (State.powerSettle_only _)); rfl)
    | with_reducible apply Only.ite
    | with_reducible apply Only.ite_snd
    | with_reducible apply Only.ite_fst
    | split
    | with_reducible apply Only.foldl _ (fun _ _ => ?_)
    | with_reducible apply Only.foldl_fst _ (fun _ _ => ?_)
    | fail_if_no_progress refine Only.mk (k := ?_)

theorem State.autoPassed_only (s : State) (r : AutoRun) (b : List Byte) :
    Only [.sys, .str, .pwr, .evt, .tim, .hif, .cst, .tbl, .fbk, .stw, .quads, .cores, .lanes, .out, .freeIdx] s (State.autoPassed s r b) := by
  simp only [State.autoPassed]
  repeat' first
    | with_reducible apply Only.refl
    | with_reducible assumption
    | ((with_reducible apply Only.step (State.autoApply_only _ _ _)); rfl)
    | ((with_reducible apply Only.step (State.modStr_only _ _)); rfl)
    | with_reducible apply Only.ite
    | with_reducible apply Only.ite_snd
    | with_reducible apply Only.ite_fst
    | split
    | with_reducible apply Only.foldl _ (fun _ _ => ?_)
    | with_reducible apply Only.foldl_fst _ (fun _ _ => ?_)
    | fail_if_no_progress refine Only.mk (k := ?_)

theorem execVerifyDone_only (s : State) :
    ∃ v, (execVerifyDone s) = .next v ∧ Only [.sys, .str, .pwr, .evt, .tim, .hif, .cst, .tbl, .fbk, .stw, .quads, .cores, .lanes, .out, .freeIdx] s v := by
  refine ⟨_, rfl, ?_⟩
  try dsimp only
  repeat' first
    | with_reducible apply Only.refl
    | with_reducible assumption
    | ((with_reducible apply Only.step (State.autoNext_only _ _ _)); rfl)
    | ((with_reducible apply Only.step (State.autoPassed_only _ _ _)); rfl)
    | ((with_reducible apply Only.step (State.loaderFail_only _ _)); rfl)
    | ((with_reducible apply Only.step (State.modStr_only _ _)); rfl)
    | ((with_reducible apply Only.step (State.strDone_only _ _)); rfl)
    | with_reducible apply Only.ite
    | with_reducible apply Only.ite_snd
    | with_reducible apply Only.ite_fst
    | split
    | with_reducible apply Only.foldl _ (fun _ _ => ?_)
    | with_reducible apply Only.foldl_fst _ (fun _ _ => ?_)
    | fail_if_no_progress refine Only.mk (k := ?_)

theorem State.apply_only (s : State) (mask : BitVec 4) :
    Only [.sys, .str, .pwr, .evt, .tim, .hif, .cst, .tbl, .fbk, .stw, .quads, .cores, .lanes, .out, .freeIdx] s (State.apply s mask) := by
  simp only [State.apply]
  repeat' first
    | with_reducible apply Only.refl
    | with_reducible assumption
    | ((with_reducible apply Only.step (State.darkWindow_only _ _)); rfl)
    | ((with_reducible apply Only.step (State.modStr_only _ _)); rfl)
    | ((with_reducible apply Only.step (State.strErr_only _ _)); rfl)
    | ((with_reducible apply State.strCmd_only); rfl)
    | with_reducible apply Only.ite
    | with_reducible apply Only.ite_snd
    | with_reducible apply Only.ite_fst
    | with_reducible intro _
    | split
    | with_reducible apply Only.foldl _ (fun _ _ => ?_)
    | with_reducible apply Only.foldl_fst _ (fun _ _ => ?_)
    | fail_if_no_progress refine Only.mk (k := ?_)

theorem execApply_only (p : Port) (mask : BitVec 4) (s : State) :
    ∃ v, (execApply p mask s) = .next v ∧ Only [.sys, .str, .pwr, .evt, .tim, .hif, .cst, .tbl, .fbk, .stw, .quads, .cores, .lanes, .out, .freeIdx] s v := by
  refine ⟨_, rfl, ?_⟩
  try dsimp only
  repeat' first
    | with_reducible apply Only.refl
    | with_reducible assumption
    | ((with_reducible apply Only.step (State.apply_only _ _)); rfl)
    | ((with_reducible apply State.writeIsl_only); rfl)
    | with_reducible apply Only.ite
    | with_reducible apply Only.ite_snd
    | with_reducible apply Only.ite_fst
    | with_reducible intro _
    | split
    | with_reducible apply Only.foldl _ (fun _ _ => ?_)
    | with_reducible apply Only.foldl_fst _ (fun _ _ => ?_)
    | fail_if_no_progress refine Only.mk (k := ?_)

theorem State.laneAfresh_only (s : State) (n : LaneId) :
    Only [.evt, .lanes] s (State.laneAfresh s n) := by
  simp only [State.laneAfresh]
  repeat' first
    | with_reducible apply Only.refl
    | with_reducible assumption
    | ((with_reducible apply Only.step (State.endCond_only _ _)); rfl)
    | ((with_reducible apply Only.step (State.modLane_only _ _ _)); rfl)
    | with_reducible apply Only.ite
    | with_reducible apply Only.ite_snd
    | with_reducible apply Only.ite_fst
    | split
    | with_reducible apply Only.foldl _ (fun _ _ => ?_)
    | with_reducible apply Only.foldl_fst _ (fun _ _ => ?_)
    | fail_if_no_progress refine Only.mk (k := ?_)

theorem State.laneRestart_only (s : State) (changed : Bool) (n : LaneId) :
    Only [.sys, .evt, .cst, .stw, .quads, .lanes, .out, .freeIdx] s (State.laneRestart s changed n) := by
  simp only [State.laneRestart]
  repeat' first
    | with_reducible apply Only.refl
    | with_reducible assumption
    | ((with_reducible apply Only.step (State.ethDown_only _ _)); rfl)
    | ((with_reducible apply Only.step (State.freshAct_only _ _ _)); rfl)
    | ((with_reducible apply Only.step (State.hbOffer_only _ _ _)); rfl)
    | ((with_reducible apply Only.step (State.laneAfresh_only _ _)); rfl)
    | ((with_reducible apply Only.step (State.modSdh_only _ _ _)); rfl)
    | ((with_reducible apply Only.step (State.pmStart_only _ _)); rfl)
    | ((with_reducible apply Only.step (State.rxSeed_only _ _)); rfl)
    | with_reducible apply Only.ite
    | with_reducible apply Only.ite_snd
    | with_reducible apply Only.ite_fst
    | split
    | with_reducible apply Only.foldl _ (fun _ _ => ?_)
    | with_reducible apply Only.foldl_fst _ (fun _ _ => ?_)
    | fail_if_no_progress refine Only.mk (k := ?_)

theorem State.loaderVotes_only (s : State) (q : Nat) :
    Only [.pwr] s (State.loaderVotes s q) := by
  simp only [State.loaderVotes]
  repeat' first
    | with_reducible apply Only.refl
    | with_reducible assumption
    | with_reducible apply Only.ite
    | with_reducible apply Only.ite_snd
    | with_reducible apply Only.ite_fst
    | split
    | with_reducible apply Only.foldl _ (fun _ _ => ?_)
    | with_reducible apply Only.foldl_fst _ (fun _ _ => ?_)
    | fail_if_no_progress refine Only.mk (k := ?_)

theorem State.flushQuads_only (s : State) (mask : BitVec 4) :
    Only [.tbl] s (State.flushQuads s mask) := by
  simp only [State.flushQuads]
  repeat' first
    | with_reducible apply Only.refl
    | with_reducible assumption
    | with_reducible apply Only.ite
    | with_reducible apply Only.ite_snd
    | with_reducible apply Only.ite_fst
    | split
    | with_reducible apply Only.foldl _ (fun _ _ => ?_)
    | with_reducible apply Only.foldl_fst _ (fun _ _ => ?_)
    | fail_if_no_progress refine Only.mk (k := ?_)

theorem State.replaceEntries_only (s : State) (old : Nat) :
    Only [.tbl] s (State.replaceEntries s old) := by
  simp only [State.replaceEntries]
  repeat' first
    | with_reducible apply Only.refl
    | with_reducible assumption
    | with_reducible apply Only.ite
    | with_reducible apply Only.ite_snd
    | with_reducible apply Only.ite_fst
    | split
    | with_reducible apply Only.foldl _ (fun _ _ => ?_)
    | with_reducible apply Only.foldl_fst _ (fun _ _ => ?_)
    | fail_if_no_progress refine Only.mk (k := ?_)

theorem State.regionsLost_only (s : State) :
    Only [.sys, .evt, .cst, .tbl] s (State.regionsLost s) := by
  simp only [State.regionsLost]
  repeat' first
    | with_reducible apply Only.refl
    | with_reducible assumption
    | ((with_reducible apply Only.step (State.buffersLost_only _)); rfl)
    | ((with_reducible apply Only.step (State.cstEnter_only _ _)); rfl)
    | ((with_reducible apply Only.step (State.modCst_only _ _)); rfl)
    | with_reducible apply Only.ite
    | with_reducible apply Only.ite_snd
    | with_reducible apply Only.ite_fst
    | split
    | with_reducible apply Only.foldl _ (fun _ _ => ?_)
    | with_reducible apply Only.foldl_fst _ (fun _ _ => ?_)
    | fail_if_no_progress refine Only.mk (k := ?_)

theorem State.quadApply_only (s : State) (q : Nat) :
    Only [.sys, .evt, .cst, .tbl, .fbk, .stw, .quads, .lanes, .out, .freeIdx] s (State.quadApply s q) := by
  simp only [State.quadApply]
  repeat' first
    | with_reducible apply Only.refl
    | with_reducible assumption
    | ((with_reducible apply Only.step (State.quadReset_only _ _)); rfl)
    | with_reducible apply Only.ite
    | with_reducible apply Only.ite_snd
    | with_reducible apply Only.ite_fst
    | split
    | with_reducible apply Only.foldl _ (fun _ _ => ?_)
    | with_reducible apply Only.foldl_fst _ (fun _ _ => ?_)
    | fail_if_no_progress refine Only.mk (k := ?_)

theorem State.install_only (s : State) (b : List Byte) (mask : BitVec 4) :
    Only [.str] s (State.install s b mask) := by
  simp only [State.install]
  repeat' first
    | with_reducible apply Only.refl
    | with_reducible assumption
    | ((with_reducible apply Only.step (State.modStr_only _ _)); rfl)
    | with_reducible apply Only.ite
    | with_reducible apply Only.ite_snd
    | with_reducible apply Only.ite_fst
    | split
    | with_reducible apply Only.foldl _ (fun _ _ => ?_)
    | with_reducible apply Only.foldl_fst _ (fun _ _ => ?_)
    | fail_if_no_progress refine Only.mk (k := ?_)

theorem State.digests_only (s : State) (mask : BitVec 4) :
    Only [.str] s (State.digests s mask) := by
  simp only [State.digests]
  repeat' first
    | with_reducible apply Only.refl
    | with_reducible assumption
    | ((with_reducible apply Only.step (State.modStr_only _ _)); rfl)
    | with_reducible apply Only.ite
    | with_reducible apply Only.ite_snd
    | with_reducible apply Only.ite_fst
    | split
    | with_reducible apply Only.foldl _ (fun _ _ => ?_)
    | with_reducible apply Only.foldl_fst _ (fun _ _ => ?_)
    | fail_if_no_progress refine Only.mk (k := ?_)

theorem State.timeSdh_only (s : State) (mask : BitVec 4) :
    Only [.lanes] s (State.timeSdh s mask) := by
  simp only [State.timeSdh]
  repeat' first
    | with_reducible apply Only.refl
    | with_reducible assumption
    | ((with_reducible apply Only.step (State.modSdhQuad_only _ _ _)); rfl)
    | with_reducible apply Only.ite
    | with_reducible apply Only.ite_snd
    | with_reducible apply Only.ite_fst
    | split
    | with_reducible apply Only.foldl _ (fun _ _ => ?_)
    | with_reducible apply Only.foldl_fst _ (fun _ _ => ?_)
    | fail_if_no_progress refine Only.mk (k := ?_)

theorem State.applied_only (s : State) (b : List Byte) (mask : BitVec 4) (us : W32) :
    Only [.sys, .str, .pwr, .evt, .tim, .hif, .cst, .tbl, .fbk, .stw, .quads, .cores, .lanes, .out, .freeIdx] s (State.applied s b mask us) := by
  simp only [State.applied]
  repeat' first
    | with_reducible apply Only.refl
    | with_reducible assumption
    | ((with_reducible apply Only.step (State.digests_only _ _)); rfl)
    | ((with_reducible apply Only.step (State.flushQuads_only _ _)); rfl)
    | ((with_reducible apply Only.step (State.install_only _ _ _)); rfl)
    | ((with_reducible apply Only.step (State.judgeVcats_only _ _)); rfl)
    | ((with_reducible apply Only.step (State.laneRestart_only _ _ _)); rfl)
    | ((with_reducible apply Only.step (State.loaderVotes_only _ _)); rfl)
    | ((with_reducible apply Only.step (State.modStr_only _ _)); rfl)
    | ((with_reducible apply Only.step (State.powerSettle_only _)); rfl)
    | ((with_reducible apply Only.step (State.quadApply_only _ _)); rfl)
    | ((with_reducible apply Only.step (State.regionsLost_only _)); rfl)
    | ((with_reducible apply Only.step (State.replaceEntries_only _ _)); rfl)
    | ((with_reducible apply Only.step (State.resubst_only _)); rfl)
    | ((with_reducible apply Only.step (State.tblDone_only _ _)); rfl)
    | ((with_reducible apply Only.step (State.timeSdh_only _ _)); rfl)
    | with_reducible apply Only.ite
    | with_reducible apply Only.ite_snd
    | with_reducible apply Only.ite_fst
    | split
    | with_reducible apply Only.foldl _ (fun _ _ => ?_)
    | with_reducible apply Only.foldl_fst _ (fun _ _ => ?_)
    | fail_if_no_progress refine Only.mk (k := ?_)

theorem State.raiseFloor_only (s : State) (b : List Byte) :
    Only [.vault] s (State.raiseFloor s b) := by
  simp only [State.raiseFloor]
  repeat' first
    | with_reducible apply Only.refl
    | with_reducible assumption
    | ((with_reducible apply Only.step (State.modVault_only _ _)); rfl)
    | with_reducible apply Only.ite
    | with_reducible apply Only.ite_snd
    | with_reducible apply Only.ite_fst
    | split
    | with_reducible apply Only.foldl _ (fun _ _ => ?_)
    | with_reducible apply Only.foldl_fst _ (fun _ _ => ?_)
    | fail_if_no_progress refine Only.mk (k := ?_)

theorem State.bootApplied_only (s : State) (b : List Byte) :
    Only [.sys, .str, .vault] s (State.bootApplied s b) := by
  simp only [State.bootApplied]
  repeat' first
    | with_reducible apply Only.refl
    | with_reducible assumption
    | ((with_reducible apply Only.step (State.bootDone_only _)); rfl)
    | ((with_reducible apply Only.step (State.modStr_only _ _)); rfl)
    | ((with_reducible apply Only.step (State.raiseFloor_only _ _)); rfl)
    | with_reducible apply Only.ite
    | with_reducible apply Only.ite_snd
    | with_reducible apply Only.ite_fst
    | split
    | with_reducible apply Only.foldl _ (fun _ _ => ?_)
    | with_reducible apply Only.foldl_fst _ (fun _ _ => ?_)
    | fail_if_no_progress refine Only.mk (k := ?_)

theorem execApplyDone_only (us : W32) (s : State) :
    ∃ v, (execApplyDone us s) = .next v ∧ Only [.sys, .str, .pwr, .evt, .tim, .hif, .vault, .cst, .tbl, .fbk, .stw, .quads, .cores, .lanes, .out, .freeIdx] s v := by
  refine ⟨_, rfl, ?_⟩
  try dsimp only
  repeat' first
    | with_reducible apply Only.refl
    | with_reducible assumption
    | ((with_reducible apply Only.step (State.applied_only _ _ _ _)); rfl)
    | ((with_reducible apply Only.step (State.bootApplied_only _ _)); rfl)
    | ((with_reducible apply Only.step (State.modStr_only _ _)); rfl)
    | ((with_reducible apply Only.step (State.report_only _ _ _ _)); rfl)
    | with_reducible apply Only.ite
    | with_reducible apply Only.ite_snd
    | with_reducible apply Only.ite_fst
    | split
    | with_reducible apply Only.foldl _ (fun _ _ => ?_)
    | with_reducible apply Only.foldl_fst _ (fun _ _ => ?_)
    | fail_if_no_progress refine Only.mk (k := ?_)

theorem execApplyFail_only (q : QuadId) (s : State) :
    ∃ v, (execApplyFail q s) = .next v ∧ Only [.sys, .str, .pwr, .evt, .tim, .hif, .cst, .tbl, .fbk, .stw, .quads, .cores, .lanes, .out, .freeIdx] s v := by
  refine ⟨_, rfl, ?_⟩
  try dsimp only
  repeat' first
    | with_reducible apply Only.refl
    | with_reducible assumption
    | ((with_reducible apply Only.step (State.applyBroken_only _ _)); rfl)
    | ((with_reducible apply Only.step (State.powerSettle_only _)); rfl)
    | with_reducible apply Only.ite
    | with_reducible apply Only.ite_snd
    | with_reducible apply Only.ite_fst
    | split
    | with_reducible apply Only.foldl _ (fun _ _ => ?_)
    | with_reducible apply Only.foldl_fst _ (fun _ _ => ?_)
    | fail_if_no_progress refine Only.mk (k := ?_)

theorem State.commit_only (s : State) :
    Only [.str] s (State.commit s) := by
  simp only [State.commit]
  repeat' first
    | with_reducible apply Only.refl
    | with_reducible assumption
    | ((with_reducible apply Only.step (State.modStr_only _ _)); rfl)
    | ((with_reducible apply Only.step (State.strErr_only _ _)); rfl)
    | ((with_reducible apply State.strCmd_only); rfl)
    | with_reducible apply Only.ite
    | with_reducible apply Only.ite_snd
    | with_reducible apply Only.ite_fst
    | with_reducible intro _
    | split
    | with_reducible apply Only.foldl _ (fun _ _ => ?_)
    | with_reducible apply Only.foldl_fst _ (fun _ _ => ?_)
    | fail_if_no_progress refine Only.mk (k := ?_)

theorem execCommit_only (p : Port) (s : State) :
    ∃ v, (execCommit p s) = .next v ∧ Only [.str, .evt, .hif] s v := by
  refine ⟨_, rfl, ?_⟩
  try dsimp only
  repeat' first
    | with_reducible apply Only.refl
    | with_reducible assumption
    | ((with_reducible apply Only.step (State.commit_only _)); rfl)
    | ((with_reducible apply State.writeIsl_only); rfl)
    | with_reducible apply Only.ite
    | with_reducible apply Only.ite_snd
    | with_reducible apply Only.ite_fst
    | with_reducible intro _
    | split
    | with_reducible apply Only.foldl _ (fun _ _ => ?_)
    | with_reducible apply Only.foldl_fst _ (fun _ _ => ?_)
    | fail_if_no_progress refine Only.mk (k := ?_)

theorem State.commitFails_only (s : State) :
    Only [.str, .evt] s (State.commitFails s) := by
  simp only [State.commitFails]
  repeat' first
    | with_reducible apply Only.refl
    | with_reducible assumption
    | ((with_reducible apply Only.step (State.strFail_only _ _)); rfl)
    | ((with_reducible apply Only.step (State.vaultFail_only _)); rfl)
    | with_reducible apply Only.ite
    | with_reducible apply Only.ite_snd
    | with_reducible apply Only.ite_fst
    | split
    | with_reducible apply Only.foldl _ (fun _ _ => ?_)
    | with_reducible apply Only.foldl_fst _ (fun _ _ => ?_)
    | fail_if_no_progress refine Only.mk (k := ?_)

theorem State.copied_only (s : State) (slot : Bool) :
    Only [.str, .vault] s (State.copied s slot) := by
  simp only [State.copied]
  repeat' first
    | with_reducible apply Only.refl
    | with_reducible assumption
    | ((with_reducible apply Only.step (State.modStr_only _ _)); rfl)
    | ((with_reducible apply Only.step (State.modVault_only _ _)); rfl)
    | with_reducible apply Only.ite
    | with_reducible apply Only.ite_snd
    | with_reducible apply Only.ite_fst
    | split
    | with_reducible apply Only.foldl _ (fun _ _ => ?_)
    | with_reducible apply Only.foldl_fst _ (fun _ _ => ?_)
    | fail_if_no_progress refine Only.mk (k := ?_)

theorem State.commitWord_only (s : State) (slot : Bool) (res : CommitResult) :
    Only [.str, .evt, .vault] s (State.commitWord s slot res) := by
  simp only [State.commitWord]
  repeat' first
    | with_reducible apply Only.refl
    | with_reducible assumption
    | ((with_reducible apply Only.step (State.commitFails_only _)); rfl)
    | ((with_reducible apply Only.step (State.modVault_only _ _)); rfl)
    | ((with_reducible apply Only.step (State.strDone_only _ _)); rfl)
    | with_reducible apply Only.ite
    | with_reducible apply Only.ite_snd
    | with_reducible apply Only.ite_fst
    | split
    | with_reducible apply Only.foldl _ (fun _ _ => ?_)
    | with_reducible apply Only.foldl_fst _ (fun _ _ => ?_)
    | fail_if_no_progress refine Only.mk (k := ?_)

theorem execCommitDone_only (res : CommitResult) (s : State) :
    ∃ v, (execCommitDone res s) = .next v ∧ Only [.str, .evt, .vault, .freeIdx] s v := by
  refine ⟨_, rfl, ?_⟩
  try dsimp only
  repeat' first
    | with_reducible apply Only.refl
    | with_reducible assumption
    | ((with_reducible apply Only.step (State.commitFails_only _)); rfl)
    | ((with_reducible apply Only.step (State.commitWord_only _ _ _)); rfl)
    | ((with_reducible apply Only.step (State.copied_only _ _)); rfl)
    | ((with_reducible apply Only.step (State.modVault_only _ _)); rfl)
    | ((with_reducible apply Only.step (State.tookFree_only _)); rfl)
    | with_reducible apply Only.ite
    | with_reducible apply Only.ite_snd
    | with_reducible apply Only.ite_fst
    | split
    | with_reducible apply Only.foldl _ (fun _ _ => ?_)
    | with_reducible apply Only.foldl_fst _ (fun _ _ => ?_)
    | fail_if_no_progress refine Only.mk (k := ?_)

theorem State.abandonCmd_only (s : State) :
    Only [.str] s (State.abandonCmd s) := by
  simp only [State.abandonCmd]
  repeat' first
    | with_reducible apply Only.refl
    | with_reducible assumption
    | ((with_reducible apply Only.step (State.autoLoad_only _ _)); rfl)
    | ((with_reducible apply Only.step (State.modStr_only _ _)); rfl)
    | ((with_reducible apply Only.step (State.strErr_only _ _)); rfl)
    | ((with_reducible apply State.strCmd_only); rfl)
    | with_reducible apply Only.ite
    | with_reducible apply Only.ite_snd
    | with_reducible apply Only.ite_fst
    | with_reducible intro _
    | split
    | with_reducible apply Only.foldl _ (fun _ _ => ?_)
    | with_reducible apply Only.foldl_fst _ (fun _ _ => ?_)
    | fail_if_no_progress refine Only.mk (k := ?_)

theorem execAbandon_only (p : Port) (s : State) :
    ∃ v, (execAbandon p s) = .next v ∧ Only [.str, .evt, .hif] s v := by
  refine ⟨_, rfl, ?_⟩
  try dsimp only
  repeat' first
    | with_reducible apply Only.refl
    | with_reducible assumption
    | ((with_reducible apply Only.step (State.abandonCmd_only _)); rfl)
    | ((with_reducible apply State.writeIsl_only); rfl)
    | with_reducible apply Only.ite
    | with_reducible apply Only.ite_snd
    | with_reducible apply Only.ite_fst
    | with_reducible intro _
    | split
    | with_reducible apply Only.foldl _ (fun _ _ => ?_)
    | with_reducible apply Only.foldl_fst _ (fun _ _ => ?_)
    | fail_if_no_progress refine Only.mk (k := ?_)

theorem execAbandonDone_only (applyOk : Bool) (us : W32) (s : State) :
    ∃ v, (execAbandonDone applyOk us s) = .next v ∧ Only [.sys, .str, .pwr, .evt, .tim, .hif, .cst, .tbl, .fbk, .stw, .quads, .cores, .lanes, .out, .freeIdx] s v := by
  refine ⟨_, rfl, ?_⟩
  try dsimp only
  repeat' first
    | with_reducible apply Only.refl
    | with_reducible assumption
    | ((with_reducible apply Only.step (State.applied_only _ _ _ _)); rfl)
    | ((with_reducible apply Only.step (State.loaderFail_only _ _)); rfl)
    | ((with_reducible apply Only.step (State.modStr_only _ _)); rfl)
    | ((with_reducible apply Only.step (State.powerSettle_only _)); rfl)
    | ((with_reducible apply Only.step (State.report_only _ _ _ _)); rfl)
    | ((with_reducible apply Only.step (State.strDone_only _ _)); rfl)
    | with_reducible apply Only.ite
    | with_reducible apply Only.ite_snd
    | with_reducible apply Only.ite_fst
    | split
    | with_reducible apply Only.foldl _ (fun _ _ => ?_)
    | with_reducible apply Only.foldl_fst _ (fun _ _ => ?_)
    | fail_if_no_progress refine Only.mk (k := ?_)

theorem State.strCmdWrite_only (s : State) (w : W32) :
    Only [.sys, .str, .pwr, .evt, .tim, .hif, .cst, .tbl, .fbk, .stw, .quads, .cores, .lanes, .out, .freeIdx] s (State.strCmdWrite s w) := by
  simp only [State.strCmdWrite]
  repeat' first
    | with_reducible apply Only.refl
    | with_reducible assumption
    | ((with_reducible apply Only.step (State.abandonCmd_only _)); rfl)
    | ((with_reducible apply Only.step (State.apply_only _ _)); rfl)
    | ((with_reducible apply Only.step (State.commit_only _)); rfl)
    | ((with_reducible apply Only.step (State.load_only _ _)); rfl)
    | ((with_reducible apply Only.step (State.strErr_only _ _)); rfl)
    | ((with_reducible apply Only.step (State.verify_only _)); rfl)
    | ((with_reducible apply State.strCmd_only); rfl)
    | with_reducible apply Only.ite
    | with_reducible apply Only.ite_snd
    | with_reducible apply Only.ite_fst
    | with_reducible intro _
    | split
    | with_reducible apply Only.foldl _ (fun _ _ => ?_)
    | with_reducible apply Only.foldl_fst _ (fun _ _ => ?_)
    | fail_if_no_progress refine Only.mk (k := ?_)

theorem State.strRead_only (s : State) (off : Nat) :
    Only [] s (State.strRead s off).2 := by
  simp only [State.strRead]
  repeat' first
    | with_reducible apply Only.refl
    | with_reducible assumption
    | with_reducible apply Only.ite
    | with_reducible apply Only.ite_snd
    | with_reducible apply Only.ite_fst
    | split
    | with_reducible apply Only.foldl _ (fun _ _ => ?_)
    | with_reducible apply Only.foldl_fst _ (fun _ _ => ?_)
    | fail_if_no_progress refine Only.mk (k := ?_)

theorem State.strWrite_only (s : State) (off : Nat) (w : W32) :
    Only [.sys, .str, .pwr, .evt, .tim, .hif, .cst, .tbl, .fbk, .stw, .quads, .cores, .lanes, .out, .freeIdx] s (State.strWrite s off w) := by
  simp only [State.strWrite]
  repeat' first
    | with_reducible apply Only.refl
    | with_reducible assumption
    | ((with_reducible apply Only.step (State.modStr_only _ _)); rfl)
    | ((with_reducible apply Only.step (State.strCmdWrite_only _ _)); rfl)
    | with_reducible apply Only.ite
    | with_reducible apply Only.ite_snd
    | with_reducible apply Only.ite_fst
    | split
    | with_reducible apply Only.foldl _ (fun _ _ => ?_)
    | with_reducible apply Only.foldl_fst _ (fun _ _ => ?_)
    | fail_if_no_progress refine Only.mk (k := ?_)

end Sys2Proof.Machine
end

