-- ==== Sys2Proof/Laws/OnlyForward.lean ====
section
/-!
SUPPORT. What the operations of Machine/Forward.lean may change.
-/
namespace Sys2Proof.Machine

set_option Elab.async false
set_option linter.unusedTactic false
set_option linter.unreachableTactic false

theorem State.policeFrame_only (s : State) (q : Nat) (f : Frame) :
    Only [.sys, .tbl, .quads] s (State.policeFrame s q f).1 := by
  simp only [State.policeFrame]
  repeat' first
    | with_reducible apply Only.refl
    | with_reducible assumption
    | ((with_reducible apply Only.step (State.dropFrame_only _ _ _ _)); rfl)
    | ((with_reducible apply Only.step (State.police_only _ _ _ _)); rfl)
    | (rename_i hh; with_reducible apply triple_eq at hh; obtain ⟨rfl, rfl, rfl⟩ := hh)
    | (rename_i hh; with_reducible apply pair_eq at hh; obtain ⟨rfl, rfl⟩ := hh)
    | (rename_i hh; with_reducible apply pair_eq at hh; obtain ⟨-, rfl⟩ := hh)
    | (rename_i hh; with_reducible apply pair_eq at hh; obtain ⟨rfl, -⟩ := hh)
    | with_reducible apply Only.ite
    | with_reducible apply Only.ite_snd
    | with_reducible apply Only.ite_fst
    | split
    | with_reducible apply Only.foldl _ (fun _ _ => ?_)
    | with_reducible apply Only.foldl_fst _ (fun _ _ => ?_)
    | fail_if_no_progress refine Only.mk (k := ?_)

theorem State.sendOn_only (s : State) (q : Nat) (f : Frame) :
    Only [.sys, .tbl, .quads] s (State.sendOn s q f) := by
  simp only [State.sendOn]
  repeat' first
    | with_reducible apply Only.refl
    | with_reducible assumption
    | ((with_reducible apply Only.step (State.toCipher_only _ _ _)); rfl)
    | ((with_reducible apply Only.step (State.toEnqueue_only _ _ _)); rfl)
    | with_reducible apply Only.ite
    | with_reducible apply Only.ite_snd
    | with_reducible apply Only.ite_fst
    | split
    | with_reducible apply Only.foldl _ (fun _ _ => ?_)
    | with_reducible apply Only.foldl_fst _ (fun _ _ => ?_)
    | fail_if_no_progress refine Only.mk (k := ?_)

theorem State.sendReplica_only (s : State) (q : Nat) (f : Frame) :
    Only [.sys, .tbl, .quads] s (State.sendReplica s q f) := by
  simp only [State.sendReplica]
  repeat' first
    | with_reducible apply Only.refl
    | with_reducible assumption
    | ((with_reducible apply Only.step (State.dropFrame_only _ _ _ _)); rfl)
    | ((with_reducible apply Only.step (State.sendOn_only _ _ _)); rfl)
    | with_reducible apply Only.ite
    | with_reducible apply Only.ite_snd
    | with_reducible apply Only.ite_fst
    | split
    | with_reducible apply Only.foldl _ (fun _ _ => ?_)
    | with_reducible apply Only.foldl_fst _ (fun _ _ => ?_)
    | fail_if_no_progress refine Only.mk (k := ?_)

theorem State.deliver_only (s : State) (q : Nat) (f : Frame) (d : Dest) (hash : W32) (dec : Option Decision) :
    Only [.sys, .tbl, .quads] s (State.deliver s q f d hash dec) := by
  simp only [State.deliver]
  repeat' first
    | with_reducible apply Only.refl
    | with_reducible assumption
    | ((with_reducible apply Only.step (State.dropFrame_only _ _ _ _)); rfl)
    | ((with_reducible apply Only.step (State.fragRecord_only _ _ _)); rfl)
    | ((with_reducible apply Only.step (State.policeFrame_only _ _ _)); rfl)
    | ((with_reducible apply Only.step (State.sendOn_only _ _ _)); rfl)
    | ((with_reducible apply Only.step (State.sendReplica_only _ _ _)); rfl)
    | (rename_i hh; with_reducible apply triple_eq at hh; obtain ⟨rfl, rfl, rfl⟩ := hh)
    | (rename_i hh; with_reducible apply pair_eq at hh; obtain ⟨rfl, rfl⟩ := hh)
    | (rename_i hh; with_reducible apply pair_eq at hh; obtain ⟨-, rfl⟩ := hh)
    | (rename_i hh; with_reducible apply pair_eq at hh; obtain ⟨rfl, -⟩ := hh)
    | with_reducible apply Only.ite
    | with_reducible apply Only.ite_snd
    | with_reducible apply Only.ite_fst
    | split
    | with_reducible apply Only.foldl _ (fun _ _ => ?_)
    | with_reducible apply Only.foldl_fst _ (fun _ _ => ?_)
    | fail_if_no_progress refine Only.mk (k := ?_)

theorem State.puntHere_only (s : State) (q : Nat) (reason : Byte) (f : Frame) :
    Only [.hif, .tbl] s (State.puntHere s q reason f) := by
  simp only [State.puntHere]
  repeat' first
    | with_reducible apply Only.refl
    | with_reducible assumption
    | ((with_reducible apply Only.step (State.fragRecord_only _ _ _)); rfl)
    | ((with_reducible apply Only.step (State.punt_only _ _ _ _ _ _)); rfl)
    | with_reducible apply Only.ite
    | with_reducible apply Only.ite_snd
    | with_reducible apply Only.ite_fst
    | split
    | with_reducible apply Only.foldl _ (fun _ _ => ?_)
    | with_reducible apply Only.foldl_fst _ (fun _ _ => ?_)
    | fail_if_no_progress refine Only.mk (k := ?_)

theorem State.dropStray_only (s : State) (q : Nat) (f : Frame) :
    Only [.sys, .tbl, .lanes] s (State.dropStray s q f) := by
  simp only [State.dropStray]
  repeat' first
    | with_reducible apply Only.refl
    | with_reducible assumption
    | ((with_reducible apply Only.step (State.dropFrame_only _ _ _ _)); rfl)
    | ((with_reducible apply Only.step (State.sdhCnt_only _ _ _ _)); rfl)
    | with_reducible apply Only.ite
    | with_reducible apply Only.ite_snd
    | with_reducible apply Only.ite_fst
    | split
    | with_reducible apply Only.foldl _ (fun _ _ => ?_)
    | with_reducible apply Only.foldl_fst _ (fun _ _ => ?_)
    | fail_if_no_progress refine Only.mk (k := ?_)

theorem State.deliverOpened_only (s : State) (q : Nat) (f : Frame) :
    Only [.sys, .tbl, .quads, .lanes] s (State.deliverOpened s q f) := by
  simp only [State.deliverOpened]
  repeat' first
    | with_reducible apply Only.refl
    | with_reducible assumption
    | ((with_reducible apply Only.step (State.dropStray_only _ _ _)); rfl)
    | ((with_reducible apply Only.step (State.policeFrame_only _ _ _)); rfl)
    | ((with_reducible apply Only.step (State.toEnqueue_only _ _ _)); rfl)
    | (rename_i hh; with_reducible apply triple_eq at hh; obtain ⟨rfl, rfl, rfl⟩ := hh)
    | (rename_i hh; with_reducible apply pair_eq at hh; obtain ⟨rfl, rfl⟩ := hh)
    | (rename_i hh; with_reducible apply pair_eq at hh; obtain ⟨-, rfl⟩ := hh)
    | (rename_i hh; with_reducible apply pair_eq at hh; obtain ⟨rfl, -⟩ := hh)
    | with_reducible apply Only.ite
    | with_reducible apply Only.ite_snd
    | with_reducible apply Only.ite_fst
    | split
    | with_reducible apply Only.foldl _ (fun _ _ => ?_)
    | with_reducible apply Only.foldl_fst _ (fun _ _ => ?_)
    | fail_if_no_progress refine Only.mk (k := ?_)

theorem State.takeDecision_only (s : State) (q : Nat) (f : Frame) (d : Decision) :
    Only [.sys, .hif, .tbl, .quads] s (State.takeDecision s q f d) := by
  simp only [State.takeDecision]
  repeat' first
    | with_reducible apply Only.refl
    | with_reducible assumption
    | ((with_reducible apply Only.step (State.deliver_only _ _ _ _ _ _)); rfl)
    | ((with_reducible apply Only.step (State.dropFrame_only _ _ _ _)); rfl)
    | ((with_reducible apply Only.step (State.punt_only _ _ _ _ _ _)); rfl)
    | with_reducible apply Only.ite
    | with_reducible apply Only.ite_snd
    | with_reducible apply Only.ite_fst
    | split
    | with_reducible apply Only.foldl _ (fun _ _ => ?_)
    | with_reducible apply Only.foldl_fst _ (fun _ _ => ?_)
    | fail_if_no_progress refine Only.mk (k := ?_)

theorem State.learnRefused_only (s : State) (port : Byte) :
    Only [.evt, .tbl] s (State.learnRefused s port).1 := by
  simp only [State.learnRefused]
  repeat' first
    | with_reducible apply Only.refl
    | with_reducible assumption
    | ((with_reducible apply Only.step (State.reportIf_only _ _ _ _ _)); rfl)
    | with_reducible apply Only.ite
    | with_reducible apply Only.ite_snd
    | with_reducible apply Only.ite_fst
    | split
    | with_reducible apply Only.foldl _ (fun _ _ => ?_)
    | with_reducible apply Only.foldl_fst _ (fun _ _ => ?_)
    | fail_if_no_progress refine Only.mk (k := ?_)

theorem State.learn_only (s : State) (q : Nat) (f : Frame) :
    Only [.evt, .tbl, .quads] s (State.learn s q f).1 := by
  simp only [State.learn]
  repeat' first
    | with_reducible apply Only.refl
    | with_reducible assumption
    | ((with_reducible apply Only.step (State.learnRefused_only _ _)); rfl)
    | ((with_reducible apply Only.step (State.modQuadN_only _ _ _)); rfl)
    | ((with_reducible apply Only.step (State.onCopies_only _ _ _ _)); rfl)
    | (rename_i hh; with_reducible apply triple_eq at hh; obtain ⟨rfl, rfl, rfl⟩ := hh)
    | (rename_i hh; with_reducible apply pair_eq at hh; obtain ⟨rfl, rfl⟩ := hh)
    | (rename_i hh; with_reducible apply pair_eq at hh; obtain ⟨-, rfl⟩ := hh)
    | (rename_i hh; with_reducible apply pair_eq at hh; obtain ⟨rfl, -⟩ := hh)
    | with_reducible apply Only.ite
    | with_reducible apply Only.ite_snd
    | with_reducible apply Only.ite_fst
    | split
    | with_reducible apply Only.foldl _ (fun _ _ => ?_)
    | with_reducible apply Only.foldl_fst _ (fun _ _ => ?_)
    | fail_if_no_progress refine Only.mk (k := ?_)

theorem State.flowLookup_only (s : State) (a : Act) (h : Hdr) :
    Only [.evt, .tbl] s (State.flowLookup s a h).1 := by
  simp only [State.flowLookup]
  repeat' first
    | with_reducible apply Only.refl
    | with_reducible assumption
    | ((with_reducible apply Only.step (State.lookupCheck_only _ _ _)); rfl)
    | ((with_reducible apply Only.step (State.onCopies_only _ _ _ _)); rfl)
    | with_reducible apply Only.ite
    | with_reducible apply Only.ite_snd
    | with_reducible apply Only.ite_fst
    | split
    | with_reducible apply Only.foldl _ (fun _ _ => ?_)
    | with_reducible apply Only.foldl_fst _ (fun _ _ => ?_)
    | fail_if_no_progress refine Only.mk (k := ?_)

theorem State.byHit_only (s : State) (q : Nat) (f : Frame) (a : Act) (w : W32) (pol : Option (BitVec 14)) :
    Only [.sys, .hif, .tbl, .quads] s (State.byHit s q f a w pol) := by
  simp only [State.byHit]
  repeat' first
    | with_reducible apply Only.refl
    | with_reducible assumption
    | ((with_reducible apply Only.step (State.deliver_only _ _ _ _ _ _)); rfl)
    | ((with_reducible apply Only.step (State.puntHere_only _ _ _ _)); rfl)
    | with_reducible apply Only.ite
    | with_reducible apply Only.ite_snd
    | with_reducible apply Only.ite_fst
    | split
    | with_reducible apply Only.foldl _ (fun _ _ => ?_)
    | with_reducible apply Only.foldl_fst _ (fun _ _ => ?_)
    | fail_if_no_progress refine Only.mk (k := ?_)

theorem State.byFlood_only (s : State) (q : Nat) (f : Frame) (a : Act) :
    Only [.sys, .tbl, .quads] s (State.byFlood s q f a) := by
  simp only [State.byFlood]
  repeat' first
    | with_reducible apply Only.refl
    | with_reducible assumption
    | ((with_reducible apply Only.step (State.deliver_only _ _ _ _ _ _)); rfl)
    | with_reducible apply Only.ite
    | with_reducible apply Only.ite_snd
    | with_reducible apply Only.ite_fst
    | split
    | with_reducible apply Only.foldl _ (fun _ _ => ?_)
    | with_reducible apply Only.foldl_fst _ (fun _ _ => ?_)
    | fail_if_no_progress refine Only.mk (k := ?_)

theorem State.byMiss_only (s : State) (q : Nat) (f : Frame) (a : Act) :
    Only [.sys, .hif, .tbl, .quads] s (State.byMiss s q f a) := by
  simp only [State.byMiss]
  repeat' first
    | with_reducible apply Only.refl
    | with_reducible assumption
    | ((with_reducible apply Only.step (State.byFlood_only _ _ _ _)); rfl)
    | ((with_reducible apply Only.step (State.dropFrame_only _ _ _ _)); rfl)
    | ((with_reducible apply Only.step (State.puntHere_only _ _ _ _)); rfl)
    | with_reducible apply Only.ite
    | with_reducible apply Only.ite_snd
    | with_reducible apply Only.ite_fst
    | split
    | with_reducible apply Only.foldl _ (fun _ _ => ?_)
    | with_reducible apply Only.foldl_fst _ (fun _ _ => ?_)
    | fail_if_no_progress refine Only.mk (k := ?_)

theorem State.byAction_only (s : State) (q : Nat) (f : Frame) (a : Act) :
    Only [.sys, .tbl, .quads] s (State.byAction s q f a) := by
  simp only [State.byAction]
  repeat' first
    | with_reducible apply Only.refl
    | with_reducible assumption
    | ((with_reducible apply Only.step (State.deliver_only _ _ _ _ _ _)); rfl)
    | ((with_reducible apply Only.step (State.dropFrame_only _ _ _ _)); rfl)
    | ((with_reducible apply Only.step (State.fragRecord_only _ _ _)); rfl)
    | ((with_reducible apply Only.step (State.policeFrame_only _ _ _)); rfl)
    | ((with_reducible apply Only.step (State.sendOn_only _ _ _)); rfl)
    | (rename_i hh; with_reducible apply triple_eq at hh; obtain ⟨rfl, rfl, rfl⟩ := hh)
    | (rename_i hh; with_reducible apply pair_eq at hh; obtain ⟨rfl, rfl⟩ := hh)
    | (rename_i hh; with_reducible apply pair_eq at hh; obtain ⟨-, rfl⟩ := hh)
    | (rename_i hh; with_reducible apply pair_eq at hh; obtain ⟨rfl, -⟩ := hh)
    | with_reducible apply Only.ite
    | with_reducible apply Only.ite_snd
    | with_reducible apply Only.ite_fst
    | split
    | with_reducible apply Only.foldl _ (fun _ _ => ?_)
    | with_reducible apply Only.foldl_fst _ (fun _ _ => ?_)
    | fail_if_no_progress refine Only.mk (k := ?_)

theorem State.settleDest_only (s : State) (q : Nat) (f : Frame) (a : Act) (flow : Option TblEntry) (lpm : Option W32) (bridge : Option W32) (ex : Excess) :
    Only [.sys, .hif, .tbl, .quads] s (State.settleDest s q f a flow lpm bridge ex) := by
  simp only [State.settleDest]
  repeat' first
    | with_reducible apply Only.refl
    | with_reducible assumption
    | ((with_reducible apply Only.step (State.byAction_only _ _ _ _)); rfl)
    | ((with_reducible apply Only.step (State.byFlood_only _ _ _ _)); rfl)
    | ((with_reducible apply Only.step (State.byHit_only _ _ _ _ _ _)); rfl)
    | ((with_reducible apply Only.step (State.byMiss_only _ _ _ _)); rfl)
    | ((with_reducible apply Only.step (State.dropFrame_only _ _ _ _)); rfl)
    | with_reducible apply Only.ite
    | with_reducible apply Only.ite_snd
    | with_reducible apply Only.ite_fst
    | split
    | with_reducible apply Only.foldl _ (fun _ _ => ?_)
    | with_reducible apply Only.foldl_fst _ (fun _ _ => ?_)
    | fail_if_no_progress refine Only.mk (k := ?_)

theorem State.settleFrame_only (s : State) (q : Nat) (f : Frame) (a : Act) :
    Only [.sys, .evt, .hif, .tbl, .quads] s (State.settleFrame s q f a) := by
  simp only [State.settleFrame]
  repeat' first
    | with_reducible apply Only.refl
    | with_reducible assumption
    | ((with_reducible apply Only.step (State.flowLookup_only _ _ _)); rfl)
    | ((with_reducible apply Only.step (State.learn_only _ _ _)); rfl)
    | ((with_reducible apply Only.step (State.lookupCheck_only _ _ _)); rfl)
    | ((with_reducible apply Only.step (State.settleDest_only _ _ _ _ _ _ _ _)); rfl)
    | (rename_i hh; with_reducible apply triple_eq at hh; obtain ⟨rfl, rfl, rfl⟩ := hh)
    | (rename_i hh; with_reducible apply pair_eq at hh; obtain ⟨rfl, rfl⟩ := hh)
    | (rename_i hh; with_reducible apply pair_eq at hh; obtain ⟨-, rfl⟩ := hh)
    | (rename_i hh; with_reducible apply pair_eq at hh; obtain ⟨rfl, -⟩ := hh)
    | with_reducible apply Only.ite
    | with_reducible apply Only.ite_snd
    | with_reducible apply Only.ite_fst
    | split
    | with_reducible apply Only.foldl _ (fun _ _ => ?_)
    | with_reducible apply Only.foldl_fst _ (fun _ _ => ?_)
    | fail_if_no_progress refine Only.mk (k := ?_)

theorem State.lookups_only (s : State) (q : Nat) (f : Frame) (a : Act) :
    Only [.sys, .evt, .hif, .tbl, .quads] s (State.lookups s q f a) := by
  simp only [State.lookups]
  repeat' first
    | with_reducible apply Only.refl
    | with_reducible assumption
    | ((with_reducible apply Only.step (State.modQuadN_only _ _ _)); rfl)
    | ((with_reducible apply Only.step (State.settleFrame_only _ _ _ _)); rfl)
    | with_reducible apply Only.ite
    | with_reducible apply Only.ite_snd
    | with_reducible apply Only.ite_fst
    | split
    | with_reducible apply Only.foldl _ (fun _ _ => ?_)
    | with_reducible apply Only.foldl_fst _ (fun _ _ => ?_)
    | fail_if_no_progress refine Only.mk (k := ?_)

theorem State.forward_only (s : State) (q : Nat) (f : Frame) :
    Only [.sys, .evt, .hif, .tbl, .quads, .lanes] s (State.forward s q f) := by
  simp only [State.forward]
  repeat' first
    | with_reducible apply Only.refl
    | with_reducible assumption
    | ((with_reducible apply Only.step (State.deliverOpened_only _ _ _)); rfl)
    | ((with_reducible apply Only.step (State.dropFrame_only _ _ _ _)); rfl)
    | ((with_reducible apply Only.step (State.lookups_only _ _ _ _)); rfl)
    | ((with_reducible apply Only.step (State.takeDecision_only _ _ _ _)); rfl)
    | with_reducible apply Only.ite
    | with_reducible apply Only.ite_snd
    | with_reducible apply Only.ite_fst
    | split
    | with_reducible apply Only.foldl _ (fun _ _ => ?_)
    | with_reducible apply Only.foldl_fst _ (fun _ _ => ?_)
    | fail_if_no_progress refine Only.mk (k := ?_)

theorem execForwardLookup_only (q : QuadId) (upsets : List Upset) (s : State) :
    ∃ v, (execForwardLookup q upsets s) = .next v ∧ Only [.sys, .evt, .hif, .tbl, .quads, .lanes] s v := by
  refine ⟨_, rfl, ?_⟩
  try dsimp only
  repeat' first
    | with_reducible apply Only.refl
    | with_reducible assumption
    | ((with_reducible apply Only.step (State.floatsAll_only _)); rfl)
    | ((with_reducible apply Only.step (State.forward_only _ _ _)); rfl)
    | ((with_reducible apply Only.step (State.modQuad_only _ _ _)); rfl)
    | ((with_reducible apply Only.step (State.upsets_only _ _)); rfl)
    | with_reducible apply Only.ite
    | with_reducible apply Only.ite_snd
    | with_reducible apply Only.ite_fst
    | split
    | with_reducible apply Only.foldl _ (fun _ _ => ?_)
    | with_reducible apply Only.foldl_fst _ (fun _ _ => ?_)
    | fail_if_no_progress refine Only.mk (k := ?_)

theorem execLpmLookup_only (q : QuadId) (served : Bool) (s : State) :
    ∃ v, (execLpmLookup q served s) = .next v ∧ Only [.sys, .evt, .hif, .cst, .tbl, .quads, .lanes] s v := by
  refine ⟨_, rfl, ?_⟩
  try dsimp only
  repeat' first
    | with_reducible apply Only.refl
    | with_reducible assumption
    | ((with_reducible apply Only.step (State.dropFrame_only _ _ _ _)); rfl)
    | ((with_reducible apply Only.step (State.floatsAll_only _)); rfl)
    | ((with_reducible apply Only.step (State.modQuad_only _ _ _)); rfl)
    | ((with_reducible apply Only.step (State.request_only _ _ _ _)); rfl)
    | ((with_reducible apply Only.step (State.settleFrame_only _ _ _ _)); rfl)
    | with_reducible apply Only.ite
    | with_reducible apply Only.ite_snd
    | with_reducible apply Only.ite_fst
    | split
    | with_reducible apply Only.foldl _ (fun _ _ => ?_)
    | with_reducible apply Only.foldl_fst _ (fun _ _ => ?_)
    | fail_if_no_progress refine Only.mk (k := ?_)

end Sys2Proof.Machine
end

