-- ==== Sys2Proof/Laws/OnlyIdle.lean ====
section
/-!
SUPPORT. What the operations of Machine/Idle.lean may change.
-/
namespace Sys2Proof.Machine

set_option Elab.async false
set_option linter.unusedTactic false
set_option linter.unreachableTactic false

theorem State.hbTicks_only (s : State) :
    Only [.lanes, .out] s (State.hbTicks s) := by
  simp only [State.hbTicks]
  repeat' first
    | with_reducible apply Only.refl
    | with_reducible assumption
    | ((with_reducible apply Only.step (State.hbTick_only _ _)); rfl)
    | with_reducible apply Only.ite
    | with_reducible apply Only.ite_snd
    | with_reducible apply Only.ite_fst
    | split
    | with_reducible apply Only.foldl _ (fun _ _ => ?_)
    | with_reducible apply Only.foldl_fst _ (fun _ _ => ?_)
    | fail_if_no_progress refine Only.mk (k := ?_)

theorem State.ethBlock_only (s : State) (n : LaneId) :
    Only [.lanes, .out] s (State.ethBlock s n) := by
  simp only [State.ethBlock]
  repeat' first
    | with_reducible apply Only.refl
    | with_reducible assumption
    | ((with_reducible apply Only.step (State.faultEnds_only _ _)); rfl)
    | ((with_reducible apply Only.step (State.modEth_only _ _ _)); rfl)
    | with_reducible apply Only.ite
    | with_reducible apply Only.ite_snd
    | with_reducible apply Only.ite_fst
    | split
    | with_reducible apply Only.foldl _ (fun _ _ => ?_)
    | with_reducible apply Only.foldl_fst _ (fun _ _ => ?_)
    | fail_if_no_progress refine Only.mk (k := ?_)

theorem State.ethTicks_only (s : State) :
    Only [.lanes, .out] s (State.ethTicks s) := by
  simp only [State.ethTicks]
  repeat' first
    | with_reducible apply Only.refl
    | with_reducible assumption
    | ((with_reducible apply Only.step (State.ethBlock_only _ _)); rfl)
    | with_reducible apply Only.ite
    | with_reducible apply Only.ite_snd
    | with_reducible apply Only.ite_fst
    | split
    | with_reducible apply Only.foldl _ (fun _ _ => ?_)
    | with_reducible apply Only.foldl_fst _ (fun _ _ => ?_)
    | fail_if_no_progress refine Only.mk (k := ?_)

theorem State.idle_only (s : State) :
    Only [.pwr, .evt, .wel, .tal, .tim, .cst, .lanes, .out, .freeIdx, .now] s (State.idle s) := by
  simp only [State.idle]
  repeat' first
    | with_reducible apply Only.refl
    | with_reducible assumption
    | ((with_reducible apply Only.step (State.cstTick_only _)); rfl)
    | ((with_reducible apply Only.step (State.ethTicks_only _)); rfl)
    | ((with_reducible apply Only.step (State.hbTicks_only _)); rfl)
    | with_reducible apply Only.ite
    | with_reducible apply Only.ite_snd
    | with_reducible apply Only.ite_fst
    | split
    | with_reducible apply Only.foldl _ (fun _ _ => ?_)
    | with_reducible apply Only.foldl_fst _ (fun _ _ => ?_)
    | fail_if_no_progress refine Only.mk (k := ?_)

end Sys2Proof.Machine
end

