-- ==== Sys2Proof/Laws/OnlyPump.lean ====
section
/-!
SUPPORT. What the operations of Machine/Pump.lean may change.
-/
namespace Sys2Proof.Machine

set_option Elab.async false
set_option linter.unusedTactic false
set_option linter.unreachableTactic false

theorem State.acceptBurst_only (s : State) (n : LaneId) (ploamu : Bool) (b : Burst) :
    Only [.quads, .lanes] s (State.acceptBurst s n ploamu b) := by
  simp only [State.acceptBurst]
  repeat' first
    | with_reducible apply Only.refl
    | with_reducible assumption
    | ((with_reducible apply Only.step (State.discardBurst_only _ _ _ _)); rfl)
    | ((with_reducible apply Only.step (State.modPump_only _ _ _)); rfl)
    | ((with_reducible apply Only.step (State.queuePloam_only _ _ _)); rfl)
    | ((with_reducible apply Only.step (State.usCnt_only _ _ _ _)); rfl)
    | with_reducible apply Only.ite
    | with_reducible apply Only.ite_snd
    | with_reducible apply Only.ite_fst
    | split
    | with_reducible apply Only.foldl _ (fun _ _ => ?_)
    | with_reducible apply Only.foldl_fst _ (fun _ _ => ?_)
    | fail_if_no_progress refine Only.mk (k := ?_)

theorem execGrant_only (n : LaneId) (ns : Nat) (s : State) :
    ∃ v, (execGrant n ns s) = .next v ∧ Only [.evt, .key, .quads, .lanes, .freeIdx] s v := by
  refine ⟨_, rfl, ?_⟩
  try dsimp only
  repeat' first
    | with_reducible apply Only.refl
    | with_reducible assumption
    | ((with_reducible apply Only.step (State.acceptBurst_only _ _ _ _)); rfl)
    | ((with_reducible apply Only.step (State.drawWord_only _)); rfl)
    | ((with_reducible apply Only.step (State.grantError_only _ _ _ _ _)); rfl)
    | ((with_reducible apply Only.step (State.modPump_only _ _ _)); rfl)
    | ((with_reducible apply Only.step (State.usCnt_only _ _ _ _)); rfl)
    | with_reducible apply Only.ite
    | with_reducible apply Only.ite_snd
    | with_reducible apply Only.ite_fst
    | split
    | with_reducible apply Only.foldl _ (fun _ _ => ?_)
    | with_reducible apply Only.foldl_fst _ (fun _ _ => ?_)
    | fail_if_no_progress refine Only.mk (k := ?_)

theorem execCisternToTroughMove_only (n : LaneId) (queue : Nat) (s : State) :
    ∃ v, (execCisternToTroughMove n queue s) = .next v ∧ Only [.cst, .quads, .lanes] s v := by
  refine ⟨_, rfl, ?_⟩
  try dsimp only
  repeat' first
    | with_reducible apply Only.refl
    | with_reducible assumption
    | ((with_reducible apply Only.step (State.floatsAll_only _)); rfl)
    | ((with_reducible apply Only.step (State.modTm_only _ _ _ _)); rfl)
    | ((with_reducible apply Only.step (State.request_only _ _ _ _)); rfl)
    | with_reducible apply Only.ite
    | with_reducible apply Only.ite_snd
    | with_reducible apply Only.ite_fst
    | split
    | with_reducible apply Only.foldl _ (fun _ _ => ?_)
    | with_reducible apply Only.foldl_fst _ (fun _ _ => ?_)
    | fail_if_no_progress refine Only.mk (k := ?_)

theorem State.putBurst_only (s : State) (n : LaneId) (b : Burst) :
    Only [.lanes] s (State.putBurst s n b) := by
  simp only [State.putBurst]
  repeat' first
    | with_reducible apply Only.refl
    | with_reducible assumption
    | ((with_reducible apply Only.step (State.modPump_only _ _ _)); rfl)
    | with_reducible apply Only.ite
    | with_reducible apply Only.ite_snd
    | with_reducible apply Only.ite_fst
    | split
    | with_reducible apply Only.foldl _ (fun _ _ => ?_)
    | with_reducible apply Only.foldl_fst _ (fun _ _ => ?_)
    | fail_if_no_progress refine Only.mk (k := ?_)

theorem State.takeMsg_only (s : State) (n : LaneId) (b : Burst) :
    Only [.lanes] s (State.takeMsg s n b).1 := by
  simp only [State.takeMsg]
  repeat' first
    | with_reducible apply Only.refl
    | with_reducible assumption
    | ((with_reducible apply Only.step (State.modAct_only _ _ _)); rfl)
    | with_reducible apply Only.ite
    | with_reducible apply Only.ite_snd
    | with_reducible apply Only.ite_fst
    | split
    | with_reducible apply Only.foldl _ (fun _ _ => ?_)
    | with_reducible apply Only.foldl_fst _ (fun _ _ => ?_)
    | fail_if_no_progress refine Only.mk (k := ?_)

theorem State.assemble_only (s : State) (n : LaneId) (b : Burst) (pr : Profile) :
    Only [.sys, .quads, .lanes] s (State.assemble s n b pr) := by
  simp only [State.assemble]
  repeat' first
    | with_reducible apply Only.refl
    | with_reducible assumption
    | ((with_reducible apply Only.step (State.fillBurst_only _ _ _ _ _)); rfl)
    | ((with_reducible apply Only.step (State.floats_only _ _)); rfl)
    | ((with_reducible apply Only.step (State.putBurst_only _ _ _)); rfl)
    | ((with_reducible apply Only.step (State.takeMsg_only _ _ _)); rfl)
    | (rename_i hh; with_reducible apply triple_eq at hh; obtain ⟨rfl, rfl, rfl⟩ := hh)
    | (rename_i hh; with_reducible apply pair_eq at hh; obtain ⟨rfl, rfl⟩ := hh)
    | (rename_i hh; with_reducible apply pair_eq at hh; obtain ⟨-, rfl⟩ := hh)
    | (rename_i hh; with_reducible apply pair_eq at hh; obtain ⟨rfl, -⟩ := hh)
    | with_reducible apply Only.ite
    | with_reducible apply Only.ite_snd
    | with_reducible apply Only.ite_fst
    | split
    | with_reducible apply Only.foldl _ (fun _ _ => ?_)
    | with_reducible apply Only.foldl_fst _ (fun _ _ => ?_)
    | fail_if_no_progress refine Only.mk (k := ?_)

theorem execBurstAssemble_only (n : LaneId) (s : State) :
    ∃ v, (execBurstAssemble n s) = .next v ∧ Only [.sys, .quads, .lanes] s v := by
  refine ⟨_, rfl, ?_⟩
  try dsimp only
  repeat' first
    | with_reducible apply Only.refl
    | with_reducible assumption
    | ((with_reducible apply Only.step (State.assemble_only _ _ _ _)); rfl)
    | ((with_reducible apply Only.step (State.discardBurst_only _ _ _ _)); rfl)
    | with_reducible apply Only.ite
    | with_reducible apply Only.ite_snd
    | with_reducible apply Only.ite_fst
    | split
    | with_reducible apply Only.foldl _ (fun _ _ => ?_)
    | with_reducible apply Only.foldl_fst _ (fun _ _ => ?_)
    | fail_if_no_progress refine Only.mk (k := ?_)

theorem execLateCisternFrame_only (n : LaneId) (queue : Nat) (s : State) :
    ∃ v, (execLateCisternFrame n queue s) = .next v ∧ Only [.quads, .lanes] s v := by
  refine ⟨_, rfl, ?_⟩
  try dsimp only
  repeat' first
    | with_reducible apply Only.refl
    | with_reducible assumption
    | ((with_reducible apply Only.step (State.modPump_only _ _ _)); rfl)
    | ((with_reducible apply Only.step (State.modTm_only _ _ _ _)); rfl)
    | ((with_reducible apply Only.step (State.usCnt_only _ _ _ _)); rfl)
    | with_reducible apply Only.ite
    | with_reducible apply Only.ite_snd
    | with_reducible apply Only.ite_fst
    | split
    | with_reducible apply Only.foldl _ (fun _ _ => ?_)
    | with_reducible apply Only.foldl_fst _ (fun _ _ => ?_)
    | fail_if_no_progress refine Only.mk (k := ?_)

theorem execBurstServe_only (n : LaneId) (s : State) :
    ∃ v, (execBurstServe n s) = .next v ∧ Only [.sys, .evt, .cst, .stw, .quads, .lanes, .out, .freeIdx] s v := by
  refine ⟨_, rfl, ?_⟩
  try dsimp only
  repeat' first
    | with_reducible apply Only.refl
    | with_reducible assumption
    | ((with_reducible apply Only.step (State.discardBurst_only _ _ _ _)); rfl)
    | ((with_reducible apply Only.step (State.modCom_only _ _ _)); rfl)
    | ((with_reducible apply Only.step (State.putBurst_only _ _ _)); rfl)
    | ((with_reducible apply Only.step (State.rogueTrip_only _ _)); rfl)
    | with_reducible apply Only.ite
    | with_reducible apply Only.ite_snd
    | with_reducible apply Only.ite_fst
    | split
    | with_reducible apply Only.foldl _ (fun _ _ => ?_)
    | with_reducible apply Only.foldl_fst _ (fun _ _ => ?_)
    | fail_if_no_progress refine Only.mk (k := ?_)

theorem State.sendPiece_only (s : State) (n : LaneId) (b : Burst) (pos : Nat) (p : Piece) :
    Only [.sys, .quads, .lanes] s (State.sendPiece s n b pos p).1 := by
  simp only [State.sendPiece]
  repeat' first
    | with_reducible apply Only.refl
    | with_reducible assumption
    | ((with_reducible apply Only.step (State.modTm_only _ _ _ _)); rfl)
    | ((with_reducible apply Only.step (State.noteTag_only _ _ _)); rfl)
    | ((with_reducible apply Only.step (State.toSump_only _ _ _ _)); rfl)
    | ((with_reducible apply Only.step (State.usCnt_only _ _ _ _)); rfl)
    | with_reducible apply Only.ite
    | with_reducible apply Only.ite_snd
    | with_reducible apply Only.ite_fst
    | split
    | with_reducible apply Only.foldl _ (fun _ _ => ?_)
    | with_reducible apply Only.foldl_fst _ (fun _ _ => ?_)
    | fail_if_no_progress refine Only.mk (k := ?_)

theorem State.sendPieces_only (n : LaneId) (b : Burst) (l : List Piece) (s : State) (pos : Nat) :
    Only [.sys, .quads, .lanes] s (State.sendPieces n b l s pos).1 := by
  induction l generalizing s pos with
  | nil => exact Only.refl _ _
  | cons g t ih => exact Only.step (ih _ _) rfl (State.sendPiece_only _ _ _ _ _)

theorem State.sendGrants_only (n : LaneId) (b : Burst) (l : List Filled) (s : State) (pos : Nat) :
    Only [.sys, .quads, .lanes] s (State.sendGrants n b l s pos).1 := by
  induction l generalizing s pos with
  | nil => exact Only.refl _ _
  | cons g t ih =>
    refine Only.step (ih _ _) rfl (Only.step (State.sendPieces_only _ _ _ _ _) rfl ?_)
    split
    · exact Only.step (State.usCnt_only _ _ _ _) rfl (Only.refl _ _)
    · exact Only.refl _ _

theorem execBurstEnd_only (n : LaneId) (s : State) :
    ∃ v, (execBurstEnd n s) = .next v ∧ Only [.sys, .str, .pwr, .evt, .tim, .hif, .cst, .tbl, .fbk, .stw, .quads, .cores, .lanes, .out, .freeIdx] s v := by
  refine ⟨_, rfl, ?_⟩
  try dsimp only
  repeat' first
    | with_reducible apply Only.refl
    | with_reducible assumption
    | ((with_reducible apply Only.step (State.darkLeft_only _ _)); rfl)
    | ((with_reducible apply Only.step (State.emit_only _ _)); rfl)
    | ((with_reducible apply Only.step (State.floatsAll_only _)); rfl)
    | ((with_reducible apply Only.step (State.modCom_only _ _ _)); rfl)
    | ((with_reducible apply Only.step (State.modPump_only _ _ _)); rfl)
    | ((with_reducible apply Only.step (State.ploamuLeft_only _ _ _)); rfl)
    | ((with_reducible apply Only.step (State.powerSettle_only _)); rfl)
    | ((with_reducible apply Only.step (State.sendGrants_only _ _ _ _ _)); rfl)
    | ((with_reducible apply Only.step (State.sendInverted_only _ _ _)); rfl)
    | ((with_reducible apply Only.step (State.usCnt_only _ _ _ _)); rfl)
    | (rename_i hh; with_reducible apply triple_eq at hh; obtain ⟨rfl, rfl, rfl⟩ := hh)
    | (rename_i hh; with_reducible apply pair_eq at hh; obtain ⟨rfl, rfl⟩ := hh)
    | (rename_i hh; with_reducible apply pair_eq at hh; obtain ⟨-, rfl⟩ := hh)
    | (rename_i hh; with_reducible apply pair_eq at hh; obtain ⟨rfl, -⟩ := hh)
    | with_reducible apply Only.ite
    | with_reducible apply Only.ite_snd
    | with_reducible apply Only.ite_fst
    | split
    | with_reducible apply Only.foldl _ (fun _ _ => ?_)
    | with_reducible apply Only.foldl_fst _ (fun _ _ => ?_)
    | fail_if_no_progress refine Only.mk (k := ?_)

theorem State.usItem_only (s : State) (p : Port) (n : LaneId) (i : Nat) :
    Only [.latches] s (State.usItem s p n i).2 := by
  simp only [State.usItem]
  repeat' first
    | with_reducible apply Only.refl
    | with_reducible assumption
    | ((with_reducible apply Only.step (State.readPair_only _ _ _ _ _)); rfl)
    | with_reducible apply Only.ite
    | with_reducible apply Only.ite_snd
    | with_reducible apply Only.ite_fst
    | split
    | with_reducible apply Only.foldl _ (fun _ _ => ?_)
    | with_reducible apply Only.foldl_fst _ (fun _ _ => ?_)
    | fail_if_no_progress refine Only.mk (k := ?_)

theorem State.usWinRead_only (s : State) (p : Port) (n : LaneId) :
    Only [.lanes, .latches] s (State.usWinRead s p n).2 := by
  simp only [State.usWinRead]
  repeat' first
    | with_reducible apply Only.refl
    | with_reducible assumption
    | ((with_reducible apply Only.step (State.modPump_only _ _ _)); rfl)
    | ((with_reducible apply Only.step (State.usItem_only _ _ _ _)); rfl)
    | (rename_i hh; with_reducible apply triple_eq at hh; obtain ⟨rfl, rfl, rfl⟩ := hh)
    | (rename_i hh; with_reducible apply pair_eq at hh; obtain ⟨rfl, rfl⟩ := hh)
    | (rename_i hh; with_reducible apply pair_eq at hh; obtain ⟨-, rfl⟩ := hh)
    | (rename_i hh; with_reducible apply pair_eq at hh; obtain ⟨rfl, -⟩ := hh)
    | with_reducible apply Only.ite
    | with_reducible apply Only.ite_snd
    | with_reducible apply Only.ite_fst
    | split
    | with_reducible apply Only.foldl _ (fun _ _ => ?_)
    | with_reducible apply Only.foldl_fst _ (fun _ _ => ?_)
    | fail_if_no_progress refine Only.mk (k := ?_)

theorem State.usWinWrite_only (s : State) (n : LaneId) (w : W32) :
    Only [.lanes] s (State.usWinWrite s n w) := by
  simp only [State.usWinWrite]
  repeat' first
    | with_reducible apply Only.refl
    | with_reducible assumption
    | ((with_reducible apply Only.step (State.modPump_only _ _ _)); rfl)
    | with_reducible apply Only.ite
    | with_reducible apply Only.ite_snd
    | with_reducible apply Only.ite_fst
    | split
    | with_reducible apply Only.foldl _ (fun _ _ => ?_)
    | with_reducible apply Only.foldl_fst _ (fun _ _ => ?_)
    | fail_if_no_progress refine Only.mk (k := ?_)

theorem State.usCntClr_only (s : State) (n : LaneId) :
    Only [.lanes] s (State.usCntClr s n) := by
  simp only [State.usCntClr]
  repeat' first
    | with_reducible apply Only.refl
    | with_reducible assumption
    | ((with_reducible apply Only.step (State.modPump_only _ _ _)); rfl)
    | with_reducible apply Only.ite
    | with_reducible apply Only.ite_snd
    | with_reducible apply Only.ite_fst
    | split
    | with_reducible apply Only.foldl _ (fun _ _ => ?_)
    | with_reducible apply Only.foldl_fst _ (fun _ _ => ?_)
    | fail_if_no_progress refine Only.mk (k := ?_)

theorem State.usRead_only (s : State) (p : Port) (n : LaneId) (off : Nat) :
    Only [.lanes, .latches] s (State.usRead s p n off).2 := by
  simp only [State.usRead]
  repeat' first
    | with_reducible apply Only.refl
    | with_reducible assumption
    | ((with_reducible apply Only.step (State.usWinRead_only _ _ _)); rfl)
    | with_reducible apply Only.ite
    | with_reducible apply Only.ite_snd
    | with_reducible apply Only.ite_fst
    | split
    | with_reducible apply Only.foldl _ (fun _ _ => ?_)
    | with_reducible apply Only.foldl_fst _ (fun _ _ => ?_)
    | fail_if_no_progress refine Only.mk (k := ?_)

theorem State.usWrite_only (s : State) (n : LaneId) (off : Nat) (w : W32) :
    Only [.lanes] s (State.usWrite s n off w) := by
  simp only [State.usWrite]
  repeat' first
    | with_reducible apply Only.refl
    | with_reducible assumption
    | ((with_reducible apply Only.step (State.modPump_only _ _ _)); rfl)
    | ((with_reducible apply Only.step (State.usCntClr_only _ _)); rfl)
    | ((with_reducible apply Only.step (State.usWinWrite_only _ _ _)); rfl)
    | with_reducible apply Only.ite
    | with_reducible apply Only.ite_snd
    | with_reducible apply Only.ite_fst
    | split
    | with_reducible apply Only.foldl _ (fun _ _ => ?_)
    | with_reducible apply Only.foldl_fst _ (fun _ _ => ?_)
    | fail_if_no_progress refine Only.mk (k := ?_)

theorem execUsCntClr_only (p : Port) (n : LaneId) (s : State) :
    ∃ v, (execUsCntClr p n s) = .next v ∧ Only [.evt, .hif, .lanes] s v := by
  refine ⟨_, rfl, ?_⟩
  try dsimp only
  repeat' first
    | with_reducible apply Only.refl
    | with_reducible assumption
    | ((with_reducible apply Only.step (State.usCntClr_only _ _)); rfl)
    | ((with_reducible apply State.writeLane_only); rfl)
    | with_reducible apply Only.ite
    | with_reducible apply Only.ite_snd
    | with_reducible apply Only.ite_fst
    | with_reducible intro _
    | split
    | with_reducible apply Only.foldl _ (fun _ _ => ?_)
    | with_reducible apply Only.foldl_fst _ (fun _ _ => ?_)
    | fail_if_no_progress refine Only.mk (k := ?_)

theorem execUsWinAccess_only (p : Port) (n : LaneId) (acc : Option W32) (s : State) :
    ∃ v, (execUsWinAccess p n acc s) = .next v ∧ Only [.evt, .hif, .lanes, .latches, .out] s v := by
  refine ⟨_, rfl, ?_⟩
  try dsimp only
  repeat' first
    | with_reducible apply Only.refl
    | with_reducible assumption
    | ((with_reducible apply Only.step (State.usWinRead_only _ _ _)); rfl)
    | ((with_reducible apply Only.step (State.usWinWrite_only _ _ _)); rfl)
    | ((with_reducible apply State.readLane_only); rfl)
    | ((with_reducible apply State.writeLane_only); rfl)
    | with_reducible apply Only.ite
    | with_reducible apply Only.ite_snd
    | with_reducible apply Only.ite_fst
    | with_reducible intro _
    | split
    | with_reducible apply Only.foldl _ (fun _ _ => ?_)
    | with_reducible apply Only.foldl_fst _ (fun _ _ => ?_)
    | fail_if_no_progress refine Only.mk (k := ?_)

end Sys2Proof.Machine
end

