-- ==== Sys2Proof/Laws/OnlyServo.lean ====
section
/-!
SUPPORT. What the operations of Machine/Servo.lean may change.
-/
namespace Sys2Proof.Machine

set_option Elab.async false
set_option linter.unusedTactic false
set_option linter.unreachableTactic false

theorem State.retau_only (s : State) :
    Only [.tim] s (State.retau s) := by
  simp only [State.retau]
  repeat' first
    | with_reducible apply Only.refl
    | with_reducible assumption
    | ((with_reducible apply Only.step (State.modTim_only _ _)); rfl)
    | with_reducible apply Only.ite
    | with_reducible apply Only.ite_snd
    | with_reducible apply Only.ite_fst
    | split
    | with_reducible apply Only.foldl _ (fun _ _ => ?_)
    | with_reducible apply Only.foldl_fst _ (fun _ _ => ?_)
    | fail_if_no_progress refine Only.mk (k := ?_)

theorem State.refChange_only (s : State) :
    Only [.evt, .tim, .freeIdx] s (State.refChange s) := by
  simp only [State.refChange]
  repeat' first
    | with_reducible apply Only.refl
    | with_reducible assumption
    | ((with_reducible apply Only.step (State.modTim_only _ _)); rfl)
    | ((with_reducible apply Only.step (State.refLoss_only _)); rfl)
    | with_reducible apply Only.ite
    | with_reducible apply Only.ite_snd
    | with_reducible apply Only.ite_fst
    | split
    | with_reducible apply Only.foldl _ (fun _ _ => ?_)
    | with_reducible apply Only.foldl_fst _ (fun _ _ => ?_)
    | fail_if_no_progress refine Only.mk (k := ?_)

theorem execTauDsRecompute_only (s : State) :
    ∃ v, (execTauDsRecompute s) = .next v ∧ Only [.evt, .tim, .freeIdx] s v := by
  refine ⟨_, rfl, ?_⟩
  try dsimp only
  repeat' first
    | with_reducible apply Only.refl
    | with_reducible assumption
    | ((with_reducible apply Only.step (State.refChange_only _)); rfl)
    | ((with_reducible apply Only.step (State.retau_only _)); rfl)
    | with_reducible apply Only.ite
    | with_reducible apply Only.ite_snd
    | with_reducible apply Only.ite_fst
    | split
    | with_reducible apply Only.foldl _ (fun _ _ => ?_)
    | with_reducible apply Only.foldl_fst _ (fun _ _ => ?_)
    | fail_if_no_progress refine Only.mk (k := ?_)

theorem execRefLost_only (s : State) :
    ∃ v, (execRefLost s) = .next v ∧ Only [.evt, .tim, .freeIdx] s v := by
  refine ⟨_, rfl, ?_⟩
  try dsimp only
  repeat' first
    | with_reducible apply Only.refl
    | with_reducible assumption
    | ((with_reducible apply Only.step (State.modTim_only _ _)); rfl)
    | ((with_reducible apply Only.step (State.refLoss_only _)); rfl)
    | with_reducible apply Only.ite
    | with_reducible apply Only.ite_snd
    | with_reducible apply Only.ite_fst
    | split
    | with_reducible apply Only.foldl _ (fun _ _ => ?_)
    | with_reducible apply Only.foldl_fst _ (fun _ _ => ?_)
    | fail_if_no_progress refine Only.mk (k := ?_)

theorem execTodLatch_only (s : State) :
    ∃ v, (execTodLatch s) = .next v ∧ Only [.evt, .tim, .lanes] s v := by
  refine ⟨_, rfl, ?_⟩
  try dsimp only
  repeat' first
    | with_reducible apply Only.refl
    | with_reducible assumption
    | ((with_reducible apply Only.step (State.disarmTod_only _)); rfl)
    | ((with_reducible apply Only.step (State.modTim_only _ _)); rfl)
    | ((with_reducible apply Only.step (State.report_only _ _ _ _)); rfl)
    | ((with_reducible apply Only.step (State.stepBy_only _ _)); rfl)
    | ((with_reducible apply Only.step (State.timErr_only _ _)); rfl)
    | with_reducible apply Only.ite
    | with_reducible apply Only.ite_snd
    | with_reducible apply Only.ite_fst
    | split
    | with_reducible apply Only.foldl _ (fun _ _ => ?_)
    | with_reducible apply Only.foldl_fst _ (fun _ _ => ?_)
    | fail_if_no_progress refine Only.mk (k := ?_)

theorem State.takeSample_only (s : State) {e : Int} {t : State} (h : s.takeSample = some (e, t)) : Only [.tim] s t := by
  unfold State.takeSample at h
  split at h
  · split at h
    · cases h
    · simp only [Option.some.injEq, Prod.mk.injEq] at h
      obtain ⟨-, rfl⟩ := h
      exact State.modTim_only _ _
  · split at h
    · cases hp : s.tim.ppsSample with
      | none => simp [hp] at h
      | some v =>
        simp only [hp, Option.map_some, Option.some.injEq, Prod.mk.injEq] at h
        obtain ⟨-, rfl⟩ := h
        exact State.modTim_only _ _
    · cases h

theorem State.steer_only (s : State) (e : Int) :
    Only [.tim, .freeIdx] s (State.steer s e) := by
  simp only [State.steer]
  repeat' first
    | with_reducible apply Only.refl
    | with_reducible assumption
    | ((with_reducible apply Only.step (State.modTim_only _ _)); rfl)
    | ((with_reducible apply Only.step (State.setIncr_only _ _)); rfl)
    | ((with_reducible apply Only.step (State.tookFree_only _)); rfl)
    | with_reducible apply Only.ite
    | with_reducible apply Only.ite_snd
    | with_reducible apply Only.ite_fst
    | split
    | with_reducible apply Only.foldl _ (fun _ _ => ?_)
    | with_reducible apply Only.foldl_fst _ (fun _ _ => ?_)
    | fail_if_no_progress refine Only.mk (k := ?_)

theorem State.steered_only (s : State) (e : Int) :
    Only [.evt, .tim, .lanes, .freeIdx] s (State.steered s e) := by
  simp only [State.steered]
  repeat' first
    | with_reducible apply Only.refl
    | with_reducible assumption
    | ((with_reducible apply Only.step (State.modTim_only _ _)); rfl)
    | ((with_reducible apply Only.step (State.refChange_only _)); rfl)
    | ((with_reducible apply Only.step (State.steer_only _ _)); rfl)
    | ((with_reducible apply Only.step (State.stepBy_only _ _)); rfl)
    | with_reducible apply Only.ite
    | with_reducible apply Only.ite_snd
    | with_reducible apply Only.ite_fst
    | split
    | with_reducible apply Only.foldl _ (fun _ _ => ?_)
    | with_reducible apply Only.foldl_fst _ (fun _ _ => ?_)
    | fail_if_no_progress refine Only.mk (k := ?_)

theorem execServoSample_only (s : State) :
    ∃ v, (execServoSample s) = .next v ∧ Only [.evt, .tim, .lanes, .freeIdx] s v := by
  refine ⟨_, rfl, ?_⟩
  try dsimp only
  repeat' first
    | with_reducible apply Only.refl
    | with_reducible assumption
    | ((with_reducible apply Only.step (State.endCond_only _ _)); rfl)
    | ((with_reducible apply Only.step (State.modTim_only _ _)); rfl)
    | ((with_reducible apply Only.step (State.steered_only _ _)); rfl)
    | exact Only.step (State.takeSample_only _ (by assumption)) rfl (Only.refl _ _)
    | with_reducible apply Only.ite
    | with_reducible apply Only.ite_snd
    | with_reducible apply Only.ite_fst
    | split
    | with_reducible apply Only.foldl _ (fun _ _ => ?_)
    | with_reducible apply Only.foldl_fst _ (fun _ _ => ?_)
    | fail_if_no_progress refine Only.mk (k := ?_)

theorem State.timCtlWrite_only (s : State) (w : W32) :
    Only [.evt, .tim, .freeIdx] s (State.timCtlWrite s w) := by
  simp only [State.timCtlWrite]
  repeat' first
    | with_reducible apply Only.refl
    | with_reducible assumption
    | ((with_reducible apply Only.step (State.disarmTod_only _)); rfl)
    | ((with_reducible apply Only.step (State.modTim_only _ _)); rfl)
    | ((with_reducible apply Only.step (State.refChange_only _)); rfl)
    | ((with_reducible apply Only.step (State.refLoss_only _)); rfl)
    | ((with_reducible apply Only.step (State.retau_only _)); rfl)
    | with_reducible apply Only.ite
    | with_reducible apply Only.ite_snd
    | with_reducible apply Only.ite_fst
    | split
    | with_reducible apply Only.foldl _ (fun _ _ => ?_)
    | with_reducible apply Only.foldl_fst _ (fun _ _ => ?_)
    | fail_if_no_progress refine Only.mk (k := ?_)

theorem execTimCtlWrite_only (p : Port) (w : W32) (s : State) :
    ∃ v, (execTimCtlWrite p w s) = .next v ∧ Only [.evt, .tim, .hif, .freeIdx] s v := by
  refine ⟨_, rfl, ?_⟩
  try dsimp only
  repeat' first
    | with_reducible apply Only.refl
    | with_reducible assumption
    | ((with_reducible apply Only.step (State.timCtlWrite_only _ _)); rfl)
    | ((with_reducible apply State.writeIsl_only); rfl)
    | with_reducible apply Only.ite
    | with_reducible apply Only.ite_snd
    | with_reducible apply Only.ite_fst
    | with_reducible intro _
    | split
    | with_reducible apply Only.foldl _ (fun _ _ => ?_)
    | with_reducible apply Only.foldl_fst _ (fun _ _ => ?_)
    | fail_if_no_progress refine Only.mk (k := ?_)

theorem execPpsInEdge_only (sub : Fin 16) (s : State) :
    ∃ v, (execPpsInEdge sub s) = .next v ∧ Only [.evt, .tim] s v := by
  refine ⟨_, rfl, ?_⟩
  try dsimp only
  repeat' first
    | with_reducible apply Only.refl
    | with_reducible assumption
    | ((with_reducible apply Only.step (State.endCond_only _ _)); rfl)
    | ((with_reducible apply Only.step (State.modTim_only _ _)); rfl)
    | with_reducible apply Only.ite
    | with_reducible apply Only.ite_snd
    | with_reducible apply Only.ite_fst
    | split
    | with_reducible apply Only.foldl _ (fun _ _ => ?_)
    | with_reducible apply Only.foldl_fst _ (fun _ _ => ?_)
    | fail_if_no_progress refine Only.mk (k := ?_)

theorem State.lastERead_only (s : State) :
    Only [.freeIdx] s (State.lastERead s).2 := by
  simp only [State.lastERead]
  repeat' first
    | with_reducible apply Only.refl
    | with_reducible assumption
    | ((with_reducible apply Only.step (State.tookFree_only _)); rfl)
    | with_reducible apply Only.ite
    | with_reducible apply Only.ite_snd
    | with_reducible apply Only.ite_fst
    | split
    | with_reducible apply Only.foldl _ (fun _ _ => ?_)
    | with_reducible apply Only.foldl_fst _ (fun _ _ => ?_)
    | fail_if_no_progress refine Only.mk (k := ?_)

theorem State.ppsStampRead_only (s : State) (p : Port) :
    Only [.latches] s (State.ppsStampRead s p).2 := by
  simp only [State.ppsStampRead]
  repeat' first
    | with_reducible apply Only.refl
    | with_reducible assumption
    | ((with_reducible apply Only.step (State.latch_only _ _ _ _)); rfl)
    | with_reducible apply Only.ite
    | with_reducible apply Only.ite_snd
    | with_reducible apply Only.ite_fst
    | split
    | with_reducible apply Only.foldl _ (fun _ _ => ?_)
    | with_reducible apply Only.foldl_fst _ (fun _ _ => ?_)
    | fail_if_no_progress refine Only.mk (k := ?_)

theorem State.timRead_only (s : State) (p : Port) (off : Nat) :
    Only [.tim, .latches, .freeIdx] s (State.timRead s p off).2 := by
  simp only [State.timRead]
  repeat' first
    | with_reducible apply Only.refl
    | with_reducible assumption
    | ((with_reducible apply Only.step (State.lastERead_only _)); rfl)
    | ((with_reducible apply Only.step (State.nowRead_only _ _)); rfl)
    | ((with_reducible apply Only.step (State.ppsStampRead_only _ _)); rfl)
    | ((with_reducible apply Only.step (State.txqDropsRead_only _)); rfl)
    | ((with_reducible apply Only.step (State.txqRead_only _ _)); rfl)
    | with_reducible apply Only.ite
    | with_reducible apply Only.ite_snd
    | with_reducible apply Only.ite_fst
    | split
    | with_reducible apply Only.foldl _ (fun _ _ => ?_)
    | with_reducible apply Only.foldl_fst _ (fun _ _ => ?_)
    | fail_if_no_progress refine Only.mk (k := ?_)

theorem State.timWrite_only (s : State) (off : Nat) (w : W32) :
    Only [.evt, .tim, .lanes, .freeIdx] s (State.timWrite s off w) := by
  simp only [State.timWrite]
  repeat' first
    | with_reducible apply Only.refl
    | with_reducible assumption
    | ((with_reducible apply Only.step (State.incrWrite_only _ _)); rfl)
    | ((with_reducible apply Only.step (State.modCmp_only _ _ _)); rfl)
    | ((with_reducible apply Only.step (State.modTim_only _ _)); rfl)
    | ((with_reducible apply Only.step (State.timCmd_only _ _ _)); rfl)
    | ((with_reducible apply Only.step (State.timCtlWrite_only _ _)); rfl)
    | ((with_reducible apply Only.step (State.timErr_only _ _)); rfl)
    | with_reducible apply Only.ite
    | with_reducible apply Only.ite_snd
    | with_reducible apply Only.ite_fst
    | split
    | with_reducible apply Only.foldl _ (fun _ _ => ?_)
    | with_reducible apply Only.foldl_fst _ (fun _ _ => ?_)
    | fail_if_no_progress refine Only.mk (k := ?_)

end Sys2Proof.Machine
end

