-- ==== Sys2Proof/Laws/OnlyRegisters.lean ====
section
/-!
SUPPORT. What the operations of Machine/Registers.lean may change.
-/
namespace Sys2Proof.Machine

set_option Elab.async false
set_option linter.unusedTactic false
set_option linter.unreachableTactic false

theorem State.sysRead_only (s : State) (p : Port) (off : Nat) :
    Only [.sys, .latches] s (State.sysRead s p off).2 := by
  simp only [State.sysRead]
  repeat' first
    | with_reducible apply Only.refl
    | with_reducible assumption
    | ((with_reducible apply Only.step (State.sumpRead_only _ _)); rfl)
    | with_reducible apply Only.ite
    | with_reducible apply Only.ite_snd
    | with_reducible apply Only.ite_fst
    | split
    | with_reducible apply Only.foldl _ (fun _ _ => ?_)
    | with_reducible apply Only.foldl_fst _ (fun _ _ => ?_)
    | fail_if_no_progress refine Only.mk (k := ?_)

theorem State.sysWrite_only (s : State) (off : Nat) (w : W32) :
    Only [.sys, .str, .pwr, .evt, .tim, .hif, .cst, .tbl, .fbk, .stw, .quads, .cores, .lanes, .out, .freeIdx] s (State.sysWrite s off w) := by
  simp only [State.sysWrite]
  repeat' first
    | with_reducible apply Only.refl
    | with_reducible assumption
    | ((with_reducible apply Only.step (State.bootCtl_only _ _)); rfl)
    | ((with_reducible apply Only.step (State.featAccept_only _ _ _)); rfl)
    | ((with_reducible apply Only.step (State.featLock_only _ _)); rfl)
    | ((with_reducible apply Only.step (State.modSys_only _ _)); rfl)
    | ((with_reducible apply Only.step (State.refclkClear_only _ _)); rfl)
    | ((with_reducible apply Only.step (State.sumpClr_only _ _)); rfl)
    | with_reducible apply Only.ite
    | with_reducible apply Only.ite_snd
    | with_reducible apply Only.ite_fst
    | split
    | with_reducible apply Only.foldl _ (fun _ _ => ?_)
    | with_reducible apply Only.foldl_fst _ (fun _ _ => ?_)
    | fail_if_no_progress refine Only.mk (k := ?_)

theorem State.keyIslRead_only (s : State) (p : Port) (off : Nat) :
    Only [.key, .latches, .freeIdx] s (State.keyIslRead s p off).2 := by
  simp only [State.keyIslRead]
  repeat' first
    | with_reducible apply Only.refl
    | with_reducible assumption
    | ((with_reducible apply Only.step (State.ctxRead_only _ _)); rfl)
    | ((with_reducible apply Only.step (State.keyRead_only _ _ _)); rfl)
    | ((with_reducible apply Only.step (State.laRead_only _)); rfl)
    | with_reducible apply Only.ite
    | with_reducible apply Only.ite_snd
    | with_reducible apply Only.ite_fst
    | split
    | with_reducible apply Only.foldl _ (fun _ _ => ?_)
    | with_reducible apply Only.foldl_fst _ (fun _ _ => ?_)
    | fail_if_no_progress refine Only.mk (k := ?_)

theorem State.keyIslWrite_only (s : State) (off : Nat) (w : W32) :
    Only [.sys, .evt, .key, .vault, .tbl, .fbk, .quads, .cores, .lanes, .freeIdx] s (State.keyIslWrite s off w) := by
  simp only [State.keyIslWrite]
  repeat' first
    | with_reducible apply Only.refl
    | with_reducible assumption
    | ((with_reducible apply Only.step (State.ctxWrite_only _ _)); rfl)
    | ((with_reducible apply Only.step (State.keyWrite_only _ _ _)); rfl)
    | ((with_reducible apply Only.step (State.laWrite_only _ _)); rfl)
    | ((with_reducible apply Only.step (State.modKey_only _ _)); rfl)
    | with_reducible apply Only.ite
    | with_reducible apply Only.ite_snd
    | with_reducible apply Only.ite_fst
    | split
    | with_reducible apply Only.foldl _ (fun _ _ => ?_)
    | with_reducible apply Only.foldl_fst _ (fun _ _ => ?_)
    | fail_if_no_progress refine Only.mk (k := ?_)

theorem State.tblIslRead_only (s : State) (p : Port) (off : Nat) :
    Only [.tbl, .quads, .latches] s (State.tblIslRead s p off).2 := by
  simp only [State.tblIslRead]
  repeat' first
    | with_reducible apply Only.refl
    | with_reducible assumption
    | ((with_reducible apply Only.step (State.frgRead_only _ _)); rfl)
    | ((with_reducible apply Only.step (State.sprRead_only _ _)); rfl)
    | ((with_reducible apply Only.step (State.tblRead_only _ _ _)); rfl)
    | with_reducible apply Only.ite
    | with_reducible apply Only.ite_snd
    | with_reducible apply Only.ite_fst
    | split
    | with_reducible apply Only.foldl _ (fun _ _ => ?_)
    | with_reducible apply Only.foldl_fst _ (fun _ _ => ?_)
    | fail_if_no_progress refine Only.mk (k := ?_)

theorem State.tblIslWrite_only (s : State) (off : Nat) (w : W32) :
    Only [.key, .tbl, .quads] s (State.tblIslWrite s off w) := by
  simp only [State.tblIslWrite]
  repeat' first
    | with_reducible apply Only.refl
    | with_reducible assumption
    | ((with_reducible apply Only.step (State.fragFlush_only _)); rfl)
    | ((with_reducible apply Only.step (State.sprWrite_only _ _ _)); rfl)
    | ((with_reducible apply Only.step (State.tblWrite_only _ _ _)); rfl)
    | with_reducible apply Only.ite
    | with_reducible apply Only.ite_snd
    | with_reducible apply Only.ite_fst
    | split
    | with_reducible apply Only.foldl _ (fun _ _ => ?_)
    | with_reducible apply Only.foldl_fst _ (fun _ _ => ?_)
    | fail_if_no_progress refine Only.mk (k := ?_)

theorem State.quadIslRead_only (s : State) (p : Port) (q off : Nat) :
    Only [.stw, .quads, .latches] s (State.quadIslRead s p q off).2 := by
  simp only [State.quadIslRead]
  repeat' first
    | with_reducible apply Only.refl
    | with_reducible assumption
    | ((with_reducible apply Only.step (State.clsRead_only _ _ _)); rfl)
    | ((with_reducible apply Only.step (State.cphRead_only _ _ _ _)); rfl)
    | ((with_reducible apply Only.step (State.stwRead_only _ _ _)); rfl)
    | ((with_reducible apply Only.step (State.trafficRead_only _ _ _ _)); rfl)
    | with_reducible apply Only.ite
    | with_reducible apply Only.ite_snd
    | with_reducible apply Only.ite_fst
    | split
    | with_reducible apply Only.foldl _ (fun _ _ => ?_)
    | with_reducible apply Only.foldl_fst _ (fun _ _ => ?_)
    | fail_if_no_progress refine Only.mk (k := ?_)

theorem State.quadIslWrite_only (s : State) (q off : Nat) (w : W32) :
    Only [.sys, .str, .pwr, .evt, .wel, .tim, .hif, .vault, .cst, .tbl, .fbk, .stw, .quads, .cores, .lanes, .out, .freeIdx] s (State.quadIslWrite s q off w) := by
  simp only [State.quadIslWrite]
  repeat' first
    | with_reducible apply Only.refl
    | with_reducible assumption
    | ((with_reducible apply Only.step (State.clsWrite_only _ _ _ _)); rfl)
    | ((with_reducible apply Only.step (State.cphWrite_only _ _ _ _)); rfl)
    | ((with_reducible apply Only.step (State.floatWrite_only _ _ _ _)); rfl)
    | ((with_reducible apply Only.step (State.stwWrite_only _ _ _ _)); rfl)
    | ((with_reducible apply Only.step (State.trafficWrite_only _ _ _ _)); rfl)
    | with_reducible apply Only.ite
    | with_reducible apply Only.ite_snd
    | with_reducible apply Only.ite_fst
    | split
    | with_reducible apply Only.foldl _ (fun _ _ => ?_)
    | with_reducible apply Only.foldl_fst _ (fun _ _ => ?_)
    | fail_if_no_progress refine Only.mk (k := ?_)

theorem State.laneIslRead_only (s : State) (p : Port) (n : LaneId) (off : Nat) :
    Only [.lanes, .latches] s (State.laneIslRead s p n off).2 := by
  simp only [State.laneIslRead]
  repeat' first
    | with_reducible apply Only.refl
    | with_reducible assumption
    | ((with_reducible apply Only.step (State.dsRead_only _ _ _ _)); rfl)
    | ((with_reducible apply Only.step (State.ethRead_only _ _ _ _)); rfl)
    | ((with_reducible apply Only.step (State.laneRead_only _ _ _)); rfl)
    | ((with_reducible apply Only.step (State.sdhRead_only _ _ _ _)); rfl)
    | ((with_reducible apply Only.step (State.usRead_only _ _ _ _)); rfl)
    | with_reducible apply Only.ite
    | with_reducible apply Only.ite_snd
    | with_reducible apply Only.ite_fst
    | split
    | with_reducible apply Only.foldl _ (fun _ _ => ?_)
    | with_reducible apply Only.foldl_fst _ (fun _ _ => ?_)
    | fail_if_no_progress refine Only.mk (k := ?_)

theorem State.laneIslWrite_only (s : State) (n : LaneId) (off : Nat) (w : W32) :
    Only [.sys, .evt, .cst, .stw, .quads, .lanes, .out, .freeIdx] s (State.laneIslWrite s n off w) := by
  simp only [State.laneIslWrite]
  repeat' first
    | with_reducible apply Only.refl
    | with_reducible assumption
    | ((with_reducible apply Only.step (State.dsWrite_only _ _ _ _)); rfl)
    | ((with_reducible apply Only.step (State.ethWrite_only _ _ _ _)); rfl)
    | ((with_reducible apply Only.step (State.laneWrite_only _ _ _ _)); rfl)
    | ((with_reducible apply Only.step (State.sdhWrite_only _ _ _ _)); rfl)
    | ((with_reducible apply Only.step (State.tsWrite_only _ _ _ _)); rfl)
    | ((with_reducible apply Only.step (State.usWrite_only _ _ _ _)); rfl)
    | with_reducible apply Only.ite
    | with_reducible apply Only.ite_snd
    | with_reducible apply Only.ite_fst
    | split
    | with_reducible apply Only.foldl _ (fun _ _ => ?_)
    | with_reducible apply Only.foldl_fst _ (fun _ _ => ?_)
    | fail_if_no_progress refine Only.mk (k := ?_)

theorem State.regRead_only (s : State) (p : Port) (a : Nat) :
    Only [.sys, .evt, .tim, .key, .hif, .cst, .tbl, .stw, .quads, .cores, .lanes, .latches, .freeIdx] s (State.regRead s p a).2 := by
  simp only [State.regRead]
  repeat' first
    | with_reducible apply Only.refl
    | with_reducible assumption
    | ((with_reducible apply Only.step (State.coreRead_only _ _ _)); rfl)
    | ((with_reducible apply Only.step (State.cstRead_only _ _ _)); rfl)
    | ((with_reducible apply Only.step (State.evtRead_only _ _)); rfl)
    | ((with_reducible apply Only.step (State.fbkRead_only _ _ _)); rfl)
    | ((with_reducible apply Only.step (State.hifRead_only _ _)); rfl)
    | ((with_reducible apply Only.step (State.keyIslRead_only _ _ _)); rfl)
    | ((with_reducible apply Only.step (State.laneIslRead_only _ _ _ _)); rfl)
    | ((with_reducible apply Only.step (State.pwrRead_only _ _ _)); rfl)
    | ((with_reducible apply Only.step (State.quadIslRead_only _ _ _ _)); rfl)
    | ((with_reducible apply Only.step (State.skwRead_only _ _)); rfl)
    | ((with_reducible apply Only.step (State.strRead_only _ _)); rfl)
    | ((with_reducible apply Only.step (State.sysRead_only _ _ _)); rfl)
    | ((with_reducible apply Only.step (State.talRead_only _ _ _)); rfl)
    | ((with_reducible apply Only.step (State.tblIslRead_only _ _ _)); rfl)
    | ((with_reducible apply Only.step (State.timRead_only _ _ _)); rfl)
    | ((with_reducible apply Only.step (State.welRead_only _ _)); rfl)
    | with_reducible apply Only.ite
    | with_reducible apply Only.ite_snd
    | with_reducible apply Only.ite_fst
    | split
    | with_reducible apply Only.foldl _ (fun _ _ => ?_)
    | with_reducible apply Only.foldl_fst _ (fun _ _ => ?_)
    | fail_if_no_progress refine Only.mk (k := ?_)

theorem State.regWrite_only (s : State) (a : Nat) (w : W32) :
    Only [.sys, .str, .pwr, .evt, .wel, .tal, .tim, .key, .hif, .vault, .cst, .tbl, .fbk, .stw, .quads, .cores, .lanes, .out, .freeIdx] s (State.regWrite s a w) := by
  simp only [State.regWrite]
  repeat' first
    | with_reducible apply Only.refl
    | with_reducible assumption
    | ((with_reducible apply Only.step (State.coreWrite_only _ _ _ _)); rfl)
    | ((with_reducible apply Only.step (State.cstWrite_only _ _ _)); rfl)
    | ((with_reducible apply Only.step (State.evtWrite_only _ _ _)); rfl)
    | ((with_reducible apply Only.step (State.fbkWrite_only _ _ _)); rfl)
    | ((with_reducible apply Only.step (State.hifWrite_only _ _ _)); rfl)
    | ((with_reducible apply Only.step (State.keyIslWrite_only _ _ _)); rfl)
    | ((with_reducible apply Only.step (State.laneIslWrite_only _ _ _ _)); rfl)
    | ((with_reducible apply Only.step (State.pwrWrite_only _ _ _)); rfl)
    | ((with_reducible apply Only.step (State.quadIslWrite_only _ _ _ _)); rfl)
    | ((with_reducible apply Only.step (State.skwWrite_only _ _ _)); rfl)
    | ((with_reducible apply Only.step (State.strWrite_only _ _ _)); rfl)
    | ((with_reducible apply Only.step (State.sysWrite_only _ _ _)); rfl)
    | ((with_reducible apply Only.step (State.talWrite_only _ _ _)); rfl)
    | ((with_reducible apply Only.step (State.tblIslWrite_only _ _ _)); rfl)
    | ((with_reducible apply Only.step (State.timWrite_only _ _ _)); rfl)
    | ((with_reducible apply Only.step (State.welWrite_only _ _ _)); rfl)
    | with_reducible apply Only.ite
    | with_reducible apply Only.ite_snd
    | with_reducible apply Only.ite_fst
    | split
    | with_reducible apply Only.foldl _ (fun _ _ => ?_)
    | with_reducible apply Only.foldl_fst _ (fun _ _ => ?_)
    | fail_if_no_progress refine Only.mk (k := ?_)

theorem State.bar0Read_only (s : State) (p : Port) (a : Nat) :
    Only [.sys, .evt, .tim, .key, .hif, .cst, .tbl, .stw, .quads, .cores, .lanes, .latches, .freeIdx] s (State.bar0Read s p a).2.1 := by
  simp only [State.bar0Read]
  repeat' first
    | with_reducible apply Only.refl
    | with_reducible assumption
    | ((with_reducible apply Only.step (State.gatedRecord_only _ _ _ _)); rfl)
    | ((with_reducible apply Only.step (State.regRead_only _ _ _)); rfl)
    | with_reducible apply Only.ite
    | with_reducible apply Only.ite_snd
    | with_reducible apply Only.ite_fst
    | split
    | with_reducible apply Only.foldl _ (fun _ _ => ?_)
    | with_reducible apply Only.foldl_fst _ (fun _ _ => ?_)
    | fail_if_no_progress refine Only.mk (k := ?_)

theorem State.bar0Write_only (s : State) (p : Port) (a : Nat) (w : W32) :
    Only [.sys, .str, .pwr, .evt, .wel, .tal, .tim, .key, .hif, .vault, .cst, .tbl, .fbk, .stw, .quads, .cores, .lanes, .out, .freeIdx] s (State.bar0Write s p a w) := by
  simp only [State.bar0Write]
  repeat' first
    | with_reducible apply Only.refl
    | with_reducible assumption
    | ((with_reducible apply Only.step (State.gatedRecord_only _ _ _ _)); rfl)
    | ((with_reducible apply Only.step (State.regWrite_only _ _ _)); rfl)
    | with_reducible apply Only.ite
    | with_reducible apply Only.ite_snd
    | with_reducible apply Only.ite_fst
    | split
    | with_reducible apply Only.foldl _ (fun _ _ => ?_)
    | with_reducible apply Only.foldl_fst _ (fun _ _ => ?_)
    | fail_if_no_progress refine Only.mk (k := ?_)

theorem State.bar2Any_only (s : State) (a : Nat) (w : W32) :
    Only [.tal, .hif] s (State.bar2Any s a w) := by
  simp only [State.bar2Any]
  repeat' first
    | with_reducible apply Only.refl
    | with_reducible assumption
    | ((with_reducible apply Only.step (State.bar2Write_only _ _ _)); rfl)
    | ((with_reducible apply Only.step (State.pageSnap_only _)); rfl)
    | with_reducible apply Only.ite
    | with_reducible apply Only.ite_snd
    | with_reducible apply Only.ite_fst
    | split
    | with_reducible apply Only.foldl _ (fun _ _ => ?_)
    | with_reducible apply Only.foldl_fst _ (fun _ _ => ?_)
    | fail_if_no_progress refine Only.mk (k := ?_)

theorem execRegisterWrite_only (p : Port) (a : RegAddr) (w : W32) (s : State) :
    ∃ v, (execRegisterWrite p a w s) = .next v ∧ Only [.sys, .str, .pwr, .evt, .wel, .tal, .tim, .key, .hif, .vault, .cst, .tbl, .fbk, .stw, .quads, .cores, .lanes, .out, .freeIdx] s v := by
  refine ⟨_, rfl, ?_⟩
  try dsimp only
  repeat' first
    | with_reducible apply Only.refl
    | with_reducible assumption
    | ((with_reducible apply Only.step (State.bar0Write_only _ _ _ _)); rfl)
    | ((with_reducible apply Only.step (State.bar2Any_only _ _ _)); rfl)
    | ((with_reducible apply Only.step (State.bar4Write_only _ _ _)); rfl)
    | with_reducible apply Only.ite
    | with_reducible apply Only.ite_snd
    | with_reducible apply Only.ite_fst
    | split
    | with_reducible apply Only.foldl _ (fun _ _ => ?_)
    | with_reducible apply Only.foldl_fst _ (fun _ _ => ?_)
    | fail_if_no_progress refine Only.mk (k := ?_)

theorem execGatedAccess_only (p : Port) (a : BitVec 25) (write : Bool) (s : State) :
    ∃ v, (execGatedAccess p a write s) = .next v ∧ Only [.evt, .hif, .out] s v := by
  refine ⟨_, rfl, ?_⟩
  try dsimp only
  repeat' first
    | with_reducible apply Only.refl
    | with_reducible assumption
    | ((with_reducible apply Only.step (State.emit_only _ _)); rfl)
    | ((with_reducible apply Only.step (State.gatedRecord_only _ _ _ _)); rfl)
    | with_reducible apply Only.ite
    | with_reducible apply Only.ite_snd
    | with_reducible apply Only.ite_fst
    | split
    | with_reducible apply Only.foldl _ (fun _ _ => ?_)
    | with_reducible apply Only.foldl_fst _ (fun _ _ => ?_)
    | fail_if_no_progress refine Only.mk (k := ?_)

end Sys2Proof.Machine
end

