-- ==== Sys2Proof/Laws/PerInstr.lean ====
section
/-!
SUPPORT. The family Queue, stated of commands as syntax: the parts that a command may touch hold neither the waiting commands nor the
model time, so that only the step moves the queue and only an empty queue lets time pass.
-/
namespace Sys2Proof.Laws.Queue

set_option Elab.async false

open Sys2Proof.Machine

/-- The row of `touches` of a command names neither the waiting commands nor the model time. -/
def Statement (c : Instr) : Prop := (touches c).contains .pending = false ∧ (touches c).contains .now = false

theorem powerUp : Statement .powerUp := ⟨rfl, rfl⟩
theorem railUndervolt : Statement .railUndervolt := ⟨rfl, rfl⟩
theorem reset (straps : BitVec 2) : Statement (.reset straps) := ⟨rfl, rfl⟩
theorem bootGo (p : Port) : Statement (.bootGo p) := ⟨rfl, rfl⟩
theorem bootApply : Statement .bootApply := ⟨rfl, rfl⟩
theorem keyReady : Statement .keyReady := ⟨rfl, rfl⟩
theorem load (p : Port) (src : BitVec 2) : Statement (.load p src) := ⟨rfl, rfl⟩
theorem loadDone (ok : Bool) (bytes : List Byte) : Statement (.loadDone ok bytes) := ⟨rfl, rfl⟩
theorem verify (p : Port) : Statement (.verify p) := ⟨rfl, rfl⟩
theorem verifyDone : Statement .verifyDone := ⟨rfl, rfl⟩
theorem apply (p : Port) (mask : BitVec 4) : Statement (.apply p mask) := ⟨rfl, rfl⟩
theorem applyDone (us : W32) : Statement (.applyDone us) := ⟨rfl, rfl⟩
theorem applyFail (q : QuadId) : Statement (.applyFail q) := ⟨rfl, rfl⟩
theorem commit (p : Port) : Statement (.commit p) := ⟨rfl, rfl⟩
theorem commitDone (res : CommitResult) : Statement (.commitDone res) := ⟨rfl, rfl⟩
theorem abandon (p : Port) : Statement (.abandon p) := ⟨rfl, rfl⟩
theorem abandonDone (applyOk : Bool) (us : W32) : Statement (.abandonDone applyOk us) := ⟨rfl, rfl⟩
theorem registerWrite (p : Port) (a : RegAddr) (w : W32) : Statement (.registerWrite p a w) := ⟨rfl, rfl⟩
theorem eqUpdate (n : LaneId) (x : Vector (BitVec 6) 16) (prev : Vector Bool 6) : Statement (.eqUpdate n x prev) := ⟨rfl, rfl⟩
theorem eqLimit (n : LaneId) : Statement (.eqLimit n) := ⟨rfl, rfl⟩
theorem seedLoaded (n : LaneId) : Statement (.seedLoaded n) := ⟨rfl, rfl⟩
theorem rxRestart (p : Port) (n : LaneId) : Statement (.rxRestart p n) := ⟨rfl, rfl⟩
theorem eqFreeze (p : Port) (n : LaneId) (on : Bool) : Statement (.eqFreeze p n on) := ⟨rfl, rfl⟩
theorem tapWrite (p : Port) (n : LaneId) (w : W32) : Statement (.tapWrite p n w) := ⟨rfl, rfl⟩
theorem signalDetectSet (n : LaneId) (rms : Nat) : Statement (.signalDetectSet n rms) := ⟨rfl, rfl⟩
theorem signalDetectClear (n : LaneId) (rms : Vector Nat 4) : Statement (.signalDetectClear n rms) := ⟨rfl, rfl⟩
theorem cdrLock (n : LaneId) : Statement (.cdrLock n) := ⟨rfl, rfl⟩
theorem cdrLockLost (n : LaneId) : Statement (.cdrLockLost n) := ⟨rfl, rfl⟩
theorem adaptFastDone (n : LaneId) : Statement (.adaptFastDone n) := ⟨rfl, rfl⟩
theorem noiseReport (n : LaneId) (sumSq : Nat) : Statement (.noiseReport n sumSq) := ⟨rfl, rfl⟩
theorem refclkLoss (q : QuadId) : Statement (.refclkLoss q) := ⟨rfl, rfl⟩
theorem refclkReturn (q : QuadId) : Statement (.refclkReturn q) := ⟨rfl, rfl⟩
theorem refclkGate (q : QuadId) (ppm : Int) : Statement (.refclkGate q ppm) := ⟨rfl, rfl⟩
theorem txinhFall (lowPs : Nat) : Statement (.txinhFall lowPs) := ⟨rfl, rfl⟩
theorem txinhRise : Statement .txinhRise := ⟨rfl, rfl⟩
theorem txSquelch (p : Port) (n : LaneId) (on : Bool) : Statement (.txSquelch p n on) := ⟨rfl, rfl⟩
theorem genEn (p : Port) (n : LaneId) (on : Bool) : Statement (.genEn p n on) := ⟨rfl, rfl⟩
theorem checkerLock (n : LaneId) (bits : List Bool) : Statement (.checkerLock n bits) := ⟨rfl, rfl⟩
theorem checkerLockLoss (n : LaneId) (bits : List Bool) : Statement (.checkerLockLoss n bits) := ⟨rfl, rfl⟩
theorem prbsErrRead (p : Port) (n : LaneId) (bits : List Bool) : Statement (.prbsErrRead p n bits) := ⟨rfl, rfl⟩
theorem injSingle (p : Port) (n : LaneId) : Statement (.injSingle p n) := ⟨rfl, rfl⟩
theorem injBurst (p : Port) (n : LaneId) : Statement (.injBurst p n) := ⟨rfl, rfl⟩
theorem seedDataWrite (p : Port) (w : W32) : Statement (.seedDataWrite p w) := ⟨rfl, rfl⟩
theorem hbMarkerRx (n : LaneId) (blk : Nat) (b : Vector Byte 8) : Statement (.hbMarkerRx n blk b) := ⟨rfl, rfl⟩
theorem hbHandshakeRx (n : LaneId) (blockLock : Bool) (b : Vector Byte 8) : Statement (.hbHandshakeRx n blockLock b) := ⟨rfl, rfl⟩
theorem hbHandshakeTx (n : LaneId) : Statement (.hbHandshakeTx n) := ⟨rfl, rfl⟩
theorem hbCommitDone (n : LaneId) : Statement (.hbCommitDone n) := ⟨rfl, rfl⟩
theorem hbTimeout (n : LaneId) (zeroN : Bool) : Statement (.hbTimeout n zeroN) := ⟨rfl, rfl⟩
theorem hbAlignTimeout (n : LaneId) : Statement (.hbAlignTimeout n) := ⟨rfl, rfl⟩
theorem hbRestart (p : Port) (n : LaneId) : Statement (.hbRestart p n) := ⟨rfl, rfl⟩
theorem psyncCandidate (n : LaneId) (pos : Nat) : Statement (.psyncCandidate n pos) := ⟨rfl, rfl⟩
theorem candidateCheckPoint (n : LaneId) (pos : Nat) (bitErrs : Nat) (sfc ponId : Hec (BitVec 51)) (hlend : Hec HlEnd) : Statement (.candidateCheckPoint n pos bitErrs sfc ponId hlend) := ⟨rfl, rfl⟩
theorem dsFrame (n : LaneId) (bitErrs : Nat) (sfc ponId : Hec (BitVec 51)) (hlend : Hec HlEnd) : Statement (.dsFrame n bitErrs sfc ponId hlend) := ⟨rfl, rfl⟩
theorem huntRestart (p : Port) (n : LaneId) : Statement (.huntRestart p n) := ⟨rfl, rfl⟩
theorem fecCodeword (n : LaneId) (byteErrs : Nat) : Statement (.fecCodeword n byteErrs) := ⟨rfl, rfl⟩
theorem fecWindowEnd (n : LaneId) : Statement (.fecWindowEnd n) := ⟨rfl, rfl⟩
theorem fecThWrite (p : Port) (n : LaneId) (w : W32) : Statement (.fecThWrite p n w) := ⟨rfl, rfl⟩
theorem allocStructure (n : LaneId) (idx : Nat) (a : Hec AllocStruct) : Statement (.allocStructure n idx a) := ⟨rfl, rfl⟩
theorem dsPloam (n : LaneId) (m : Ploam) : Statement (.dsPloam n m) := ⟨rfl, rfl⟩
theorem xgemFrameRx (n : LaneId) (h : Hec XgemHdr) (idle : Bool) (payload : List Byte) : Statement (.xgemFrameRx n h idle payload) := ⟨rfl, rfl⟩
theorem reassemblyTimeout (n : LaneId) (port : BitVec 16) : Statement (.reassemblyTimeout n port) := ⟨rfl, rfl⟩
theorem portTableWrite (p : Port) (n : LaneId) (w : W32) : Statement (.portTableWrite p n w) := ⟨rfl, rfl⟩
theorem dsCntClr (p : Port) (n : LaneId) : Statement (.dsCntClr p n) := ⟨rfl, rfl⟩
theorem dsWinAccess (p : Port) (n : LaneId) (acc : Option W32) : Statement (.dsWinAccess p n acc) := ⟨rfl, rfl⟩
theorem burstProfileMsg (n : LaneId) : Statement (.burstProfileMsg n) := ⟨rfl, rfl⟩
theorem assignOnuId (n : LaneId) : Statement (.assignOnuId n) := ⟨rfl, rfl⟩
theorem rangingTime (n : LaneId) : Statement (.rangingTime n) := ⟨rfl, rfl⟩
theorem tuningControl (n : LaneId) : Statement (.tuningControl n) := ⟨rfl, rfl⟩
theorem channelProfile (n : LaneId) : Statement (.channelProfile n) := ⟨rfl, rfl⟩
theorem deactivateOnuId (n : LaneId) : Statement (.deactivateOnuId n) := ⟨rfl, rfl⟩
theorem disableSerialNumber (n : LaneId) : Statement (.disableSerialNumber n) := ⟨rfl, rfl⟩
theorem assignAllocId (n : LaneId) : Statement (.assignAllocId n) := ⟨rfl, rfl⟩
theorem keyControl (n : LaneId) : Statement (.keyControl n) := ⟨rfl, rfl⟩
theorem ploamUnexpected (n : LaneId) : Statement (.ploamUnexpected n) := ⟨rfl, rfl⟩
theorem keyReportHandoff (n : LaneId) : Statement (.keyReportHandoff n) := ⟨rfl, rfl⟩
theorem to1Expire (n : LaneId) : Statement (.to1Expire n) := ⟨rfl, rfl⟩
theorem to2Expire (n : LaneId) : Statement (.to2Expire n) := ⟨rfl, rfl⟩
theorem to4Expire (n : LaneId) : Statement (.to4Expire n) := ⟨rfl, rfl⟩
theorem to5Expire (n : LaneId) : Statement (.to5Expire n) := ⟨rfl, rfl⟩
theorem tuneScheduledCount (n : LaneId) : Statement (.tuneScheduledCount n) := ⟨rfl, rfl⟩
theorem tuneAck (p : Port) (q : QuadId) (w : W32) : Statement (.tuneAck p q w) := ⟨rfl, rfl⟩
theorem scanDwell (n : LaneId) : Statement (.scanDwell n) := ⟨rfl, rfl⟩
theorem stwLaneData (p : Port) (q : QuadId) (acc : Option W32) : Statement (.stwLaneData p q acc) := ⟨rfl, rfl⟩
theorem bcastKey (p : Port) (q : QuadId) (slice : BitVec 5) (keyIdx : BitVec 2) : Statement (.bcastKey p q slice keyIdx) := ⟨rfl, rfl⟩
theorem clearRogue (p : Port) (q : QuadId) (slice : BitVec 5) : Statement (.clearRogue p q slice) := ⟨rfl, rfl⟩
theorem clearDisable (p : Port) (q : QuadId) (slice : BitVec 5) : Statement (.clearDisable p q slice) := ⟨rfl, rfl⟩
theorem restartLane (p : Port) (q : QuadId) (slice : BitVec 5) : Statement (.restartLane p q slice) := ⟨rfl, rfl⟩
theorem rogueTrip (n : LaneId) : Statement (.rogueTrip n) := ⟨rfl, rfl⟩
theorem loadFw (p : Port) (q : QuadId) : Statement (.loadFw p q) := ⟨rfl, rfl⟩
theorem swapFw (p : Port) (q : QuadId) (force : Bool) : Statement (.swapFw p q force) := ⟨rfl, rfl⟩
theorem swapFwHalt (q : QuadId) : Statement (.swapFwHalt q) := ⟨rfl, rfl⟩
theorem swapFwCheck (q : QuadId) (pass : Bool) : Statement (.swapFwCheck q pass) := ⟨rfl, rfl⟩
theorem commitFw (p : Port) (q : QuadId) : Statement (.commitFw p q) := ⟨rfl, rfl⟩
theorem stewardHeartbeatMiss (q : QuadId) : Statement (.stewardHeartbeatMiss q) := ⟨rfl, rfl⟩
theorem optGo (p : Port) (q : QuadId) (w : W32) : Statement (.optGo p q w) := ⟨rfl, rfl⟩
theorem optDone (q : QuadId) (nack : Bool) (rdata : W32) : Statement (.optDone q nack rdata) := ⟨rfl, rfl⟩
theorem optTimeout (q : QuadId) : Statement (.optTimeout q) := ⟨rfl, rfl⟩
theorem grant (n : LaneId) (ns : Nat) : Statement (.grant n ns) := ⟨rfl, rfl⟩
theorem cisternToTroughMove (n : LaneId) (queue : Nat) : Statement (.cisternToTroughMove n queue) := ⟨rfl, rfl⟩
theorem burstAssemble (n : LaneId) : Statement (.burstAssemble n) := ⟨rfl, rfl⟩
theorem lateCisternFrame (n : LaneId) (queue : Nat) : Statement (.lateCisternFrame n queue) := ⟨rfl, rfl⟩
theorem burstServe (n : LaneId) : Statement (.burstServe n) := ⟨rfl, rfl⟩
theorem burstEnd (n : LaneId) : Statement (.burstEnd n) := ⟨rfl, rfl⟩
theorem usCntClr (p : Port) (n : LaneId) : Statement (.usCntClr p n) := ⟨rfl, rfl⟩
theorem usWinAccess (p : Port) (n : LaneId) (acc : Option W32) : Statement (.usWinAccess p n acc) := ⟨rfl, rfl⟩
theorem bondCapsTimer (n : LaneId) : Statement (.bondCapsTimer n) := ⟨rfl, rfl⟩
theorem bondJoin (n : LaneId) : Statement (.bondJoin n) := ⟨rfl, rfl⟩
theorem bondHello (n : LaneId) : Statement (.bondHello n) := ⟨rfl, rfl⟩
theorem bondLeave (n : LaneId) : Statement (.bondLeave n) := ⟨rfl, rfl⟩
theorem bondIndep (n : LaneId) : Statement (.bondIndep n) := ⟨rfl, rfl⟩
theorem bondMessageDrop (n : LaneId) : Statement (.bondMessageDrop n) := ⟨rfl, rfl⟩
theorem bondHelloTx (n : LaneId) : Statement (.bondHelloTx n) := ⟨rfl, rfl⟩
theorem bondHelloTimeout (n : LaneId) : Statement (.bondHelloTimeout n) := ⟨rfl, rfl⟩
theorem bondProbeTimeout (n : LaneId) : Statement (.bondProbeTimeout n) := ⟨rfl, rfl⟩
theorem bondPsyncStamp (n : LaneId) : Statement (.bondPsyncStamp n) := ⟨rfl, rfl⟩
theorem skewSduWrite (n : LaneId) : Statement (.skewSduWrite n) := ⟨rfl, rfl⟩
theorem skewSlotRelease (g : GroupId) : Statement (.skewSlotRelease g) := ⟨rfl, rfl⟩
theorem groupEnable (p : Port) (g : GroupId) (w : W32) : Statement (.groupEnable p g w) := ⟨rfl, rfl⟩
theorem groupDisable (p : Port) (g : GroupId) (w : W32) : Statement (.groupDisable p g w) := ⟨rfl, rfl⟩
theorem grpDataAccess (p : Port) (acc : Option W32) : Statement (.grpDataAccess p acc) := ⟨rfl, rfl⟩
theorem skwRestart (p : Port) (w : W32) : Statement (.skwRestart p w) := ⟨rfl, rfl⟩
theorem spreadRemap (p : Port) (from_ to_ : BitVec 7) : Statement (.spreadRemap p from_ to_) := ⟨rfl, rfl⟩
theorem spreadFill (p : Port) (dom : BitVec 6) (g : BitVec 4) : Statement (.spreadFill p dom g) := ⟨rfl, rfl⟩
theorem spreadCmdDone : Statement .spreadCmdDone := ⟨rfl, rfl⟩
theorem sprDataAccess (p : Port) (acc : Option W32) : Statement (.sprDataAccess p acc) := ⟨rfl, rfl⟩
theorem vcatMemberFrame (g : GroupId) (pos : Fin 64) (f : VcatFrame) : Statement (.vcatMemberFrame g pos f) := ⟨rfl, rfl⟩
theorem vcatRecover (g : GroupId) : Statement (.vcatRecover g) := ⟨rfl, rfl⟩
theorem anComplete (n : LaneId) (kr f0 f1 : Bool) : Statement (.anComplete n kr f0 f1) := ⟨rfl, rfl⟩
theorem linkUpTimer (n : LaneId) : Statement (.linkUpTimer n) := ⟨rfl, rfl⟩
theorem blockLockLost (n : LaneId) (hiBer : Bool) : Statement (.blockLockLost n hiBer) := ⟨rfl, rfl⟩
theorem faultOrderedSet (n : LaneId) (localF remoteF : Bool) : Statement (.faultOrderedSet n localF remoteF) := ⟨rfl, rfl⟩
theorem anRestart (p : Port) (n : LaneId) : Statement (.anRestart p n) := ⟨rfl, rfl⟩
theorem ethFrameRx (n : LaneId) (f : EthRx) : Statement (.ethFrameRx n f) := ⟨rfl, rfl⟩
theorem pauseTx (n : LaneId) : Statement (.pauseTx n) := ⟨rfl, rfl⟩
theorem pauseRefresh (n : LaneId) : Statement (.pauseRefresh n) := ⟨rfl, rfl⟩
theorem pauseExpire (n : LaneId) (cls : Option (Fin 8)) : Statement (.pauseExpire n cls) := ⟨rfl, rfl⟩
theorem pauseCfgWrite (p : Port) (n : LaneId) (w : W32) : Statement (.pauseCfgWrite p n w) := ⟨rfl, rfl⟩
theorem ethFecWindow (n : LaneId) (corrected uncorrected : Nat) : Statement (.ethFecWindow n corrected uncorrected) := ⟨rfl, rfl⟩
theorem ethTxFrame (n : LaneId) : Statement (.ethTxFrame n) := ⟨rfl, rfl⟩
theorem ethCntClr (p : Port) (n : LaneId) : Statement (.ethCntClr p n) := ⟨rfl, rfl⟩
theorem ethWinAccess (p : Port) (n : LaneId) (acc : Option W32) : Statement (.ethWinAccess p n acc) := ⟨rfl, rfl⟩
theorem sdhCandidate (n : LaneId) (pos : Nat) (pattern : BitVec 48) : Statement (.sdhCandidate n pos pattern) := ⟨rfl, rfl⟩
theorem sdhCheckPoint (n : LaneId) (pos : Nat) (pattern : BitVec 48) : Statement (.sdhCheckPoint n pos pattern) := ⟨rfl, rfl⟩
theorem sdhFrame (n : LaneId) (bytes : List Byte) : Statement (.sdhFrame n bytes) := ⟨rfl, rfl⟩
theorem sdhLofTimer (n : LaneId) : Statement (.sdhLofTimer n) := ⟨rfl, rfl⟩
theorem sdhHuntRestart (p : Port) (n : LaneId) : Statement (.sdhHuntRestart p n) := ⟨rfl, rfl⟩
theorem sdhSdWindow (n : LaneId) : Statement (.sdhSdWindow n) := ⟨rfl, rfl⟩
theorem tribSeal (n : LaneId) (t : Fin 64) : Statement (.tribSeal n t) := ⟨rfl, rfl⟩
theorem tribBlockRx (n : LaneId) : Statement (.tribBlockRx n) := ⟨rfl, rfl⟩
theorem sdhTxFrame (n : LaneId) : Statement (.sdhTxFrame n) := ⟨rfl, rfl⟩
theorem tribEntryWrite (p : Port) (n : LaneId) (w : W32) : Statement (.tribEntryWrite p n w) := ⟨rfl, rfl⟩
theorem pmSecond (n : LaneId) (point : Fin 65) : Statement (.pmSecond n point) := ⟨rfl, rfl⟩
theorem pmBinClose (n : LaneId) (day : Bool) (secondNow : BitVec 48) : Statement (.pmBinClose n day secondNow) := ⟨rfl, rfl⟩
theorem sdhCntClr (p : Port) (n : LaneId) : Statement (.sdhCntClr p n) := ⟨rfl, rfl⟩
theorem pmClr (p : Port) (n : LaneId) : Statement (.pmClr p n) := ⟨rfl, rfl⟩
theorem sdhWinAccess (p : Port) (n : LaneId) (acc : Option W32) : Statement (.sdhWinAccess p n acc) := ⟨rfl, rfl⟩
theorem classify (q : QuadId) : Statement (.classify q) := ⟨rfl, rfl⟩
theorem rallyPass (q : QuadId) : Statement (.rallyPass q) := ⟨rfl, rfl⟩
theorem clsSwap (p : Port) (q : QuadId) : Statement (.clsSwap p q) := ⟨rfl, rfl⟩
theorem clsSwapDrained (q : QuadId) : Statement (.clsSwapDrained q) := ⟨rfl, rfl⟩
theorem epochRetire (q : QuadId) : Statement (.epochRetire q) := ⟨rfl, rfl⟩
theorem clsCopy (p : Port) (q : QuadId) : Statement (.clsCopy p q) := ⟨rfl, rfl⟩
theorem clsClear (p : Port) (q : QuadId) : Statement (.clsClear p q) := ⟨rfl, rfl⟩
theorem clsCmdDone (q : QuadId) : Statement (.clsCmdDone q) := ⟨rfl, rfl⟩
theorem ruleWrite (p : Port) (q : QuadId) (acc : Option W32) : Statement (.ruleWrite p q acc) := ⟨rfl, rfl⟩
theorem fragTimeout (k : FragKey) : Statement (.fragTimeout k) := ⟨rfl, rfl⟩
theorem fragFlush (p : Port) : Statement (.fragFlush p) := ⟨rfl, rfl⟩
theorem sumpClr (p : Port) (mask : BitVec 4) : Statement (.sumpClr p mask) := ⟨rfl, rfl⟩
theorem sumpDataRead (p : Port) : Statement (.sumpDataRead p) := ⟨rfl, rfl⟩
theorem prsDeepCntRead (p : Port) (q : QuadId) : Statement (.prsDeepCntRead p q) := ⟨rfl, rfl⟩
theorem prsSkipCntRead (p : Port) (q : QuadId) : Statement (.prsSkipCntRead p q) := ⟨rfl, rfl⟩
theorem rlyStatusRead (p : Port) (q : QuadId) : Statement (.rlyStatusRead p q) := ⟨rfl, rfl⟩
theorem frgCntRead (p : Port) (which : Fin 3) : Statement (.frgCntRead p which) := ⟨rfl, rfl⟩
theorem forwardLookup (q : QuadId) (upsets : List Upset) : Statement (.forwardLookup q upsets) := ⟨rfl, rfl⟩
theorem lpmLookup (q : QuadId) (served : Bool) : Statement (.lpmLookup q served) := ⟨rfl, rfl⟩
theorem learnInsert (q : QuadId) : Statement (.learnInsert q) := ⟨rfl, rfl⟩
theorem agePass (flow : Bool) (hits : List Nat) (upsets : List Upset) : Statement (.agePass flow hits upsets) := ⟨rfl, rfl⟩
theorem search (p : Port) (tbl : BitVec 3) : Statement (.search p tbl) := ⟨rfl, rfl⟩
theorem next (p : Port) (tbl : BitVec 3) : Statement (.next p tbl) := ⟨rfl, rfl⟩
theorem insert (p : Port) (tbl : BitVec 3) (shadow : Bool) : Statement (.insert p tbl shadow) := ⟨rfl, rfl⟩
theorem delete (p : Port) (tbl : BitVec 3) (shadow byLoc : Bool) : Statement (.delete p tbl shadow byLoc) := ⟨rfl, rfl⟩
theorem flushPort (p : Port) (tbl : BitVec 3) (port : BitVec 8) (static : Bool) : Statement (.flushPort p tbl port static) := ⟨rfl, rfl⟩
theorem ageNow (p : Port) (tbl : BitVec 3) : Statement (.ageNow p tbl) := ⟨rfl, rfl⟩
theorem lpmSwap (p : Port) (tbl : BitVec 3) : Statement (.lpmSwap p tbl) := ⟨rfl, rfl⟩
theorem rebuild (p : Port) (tbl : BitVec 3) : Statement (.rebuild p tbl) := ⟨rfl, rfl⟩
theorem repair (p : Port) (tbl : BitVec 3) : Statement (.repair p tbl) := ⟨rfl, rfl⟩
theorem tblCmdDone (hits : List Nat) (upsets : List Upset) : Statement (.tblCmdDone hits upsets) := ⟨rfl, rfl⟩
theorem tblPortAccess (p : Port) (acc : Option W32) : Statement (.tblPortAccess p acc) := ⟨rfl, rfl⟩
theorem tblCntRead (p : Port) : Statement (.tblCntRead p) := ⟨rfl, rfl⟩
theorem enqueue (q : QuadId) : Statement (.enqueue q) := ⟨rfl, rfl⟩
theorem calendarSlot (q : QuadId) (down : Bool) (sh : Nat) : Statement (.calendarSlot q down sh) := ⟨rfl, rfl⟩
theorem wheelRevolution (q : QuadId) (down : Bool) : Statement (.wheelRevolution q down) := ⟨rfl, rfl⟩
theorem shaperWrite (p : Port) (q : QuadId) (down : Bool) (w : W32) : Statement (.shaperWrite p q down w) := ⟨rfl, rfl⟩
theorem policerWrite (p : Port) (q : QuadId) (w : W32) : Statement (.policerWrite p q w) := ⟨rfl, rfl⟩
theorem tmPortWrite (p : Port) (q : QuadId) (down : Bool) (w : W32) : Statement (.tmPortWrite p q down w) := ⟨rfl, rfl⟩
theorem tmWinAccess (p : Port) (q : QuadId) (win : TmWin) (acc : Option W32) : Statement (.tmWinAccess p q win acc) := ⟨rfl, rfl⟩
theorem badOffsetRead (p : Port) (q : QuadId) (down : Bool) (slice : BitVec 5) : Statement (.badOffsetRead p q down slice) := ⟨rfl, rfl⟩
theorem cipherDispatch (q : QuadId) : Statement (.cipherDispatch q) := ⟨rfl, rfl⟩
theorem coreJobDone (u : CipherUnit) : Statement (.coreJobDone u) := ⟨rfl, rfl⟩
theorem katDue (u : CipherUnit) (pass : Bool) : Statement (.katDue u pass) := ⟨rfl, rfl⟩
theorem katOverdue (k : CoreId) : Statement (.katOverdue k) := ⟨rfl, rfl⟩
theorem firstKat (u : CipherUnit) (pass : Bool) : Statement (.firstKat u pass) := ⟨rfl, rfl⟩
theorem katNow (p : Port) (k : CoreId) (pass : Bool) : Statement (.katNow p k pass) := ⟨rfl, rfl⟩
theorem integrityFault (u : CipherUnit) (cause : UnitFault) : Statement (.integrityFault u cause) := ⟨rfl, rfl⟩
theorem quarForce (p : Port) (k : CoreId) (on : Bool) : Statement (.quarForce p k on) := ⟨rfl, rfl⟩
theorem retest (p : Port) (u : CipherUnit) (pass : Bool) : Statement (.retest p u pass) := ⟨rfl, rfl⟩
theorem afWindow (u : CipherUnit) : Statement (.afWindow u) := ⟨rfl, rfl⟩
theorem cphJobsRead (p : Port) (k : CoreId) : Statement (.cphJobsRead p k) := ⟨rfl, rfl⟩
theorem cphAfRead (p : Port) (k : CoreId) : Statement (.cphAfRead p k) := ⟨rfl, rfl⟩
theorem cphCntRead (p : Port) (q : Option QuadId) : Statement (.cphCntRead p q) := ⟨rfl, rfl⟩
theorem lookasideFetch (d : LaDesc) : Statement (.lookasideFetch d) := ⟨rfl, rfl⟩
theorem lookasideComplete (input aad tag : List Byte) : Statement (.lookasideComplete input aad tag) := ⟨rfl, rfl⟩
theorem keyCtxAccess (p : Port) (acc : Option W32) : Statement (.keyCtxAccess p acc) := ⟨rfl, rfl⟩
theorem importClear (p : Port) (c : KeyCmdWord) : Statement (.importClear p c) := ⟨rfl, rfl⟩
theorem importWrapped (p : Port) (c : KeyCmdWord) : Statement (.importWrapped p c) := ⟨rfl, rfl⟩
theorem importDone (ok : Bool) : Statement (.importDone ok) := ⟨rfl, rfl⟩
theorem oldGenWipe (slot : Fin 16) : Statement (.oldGenWipe slot) := ⟨rfl, rfl⟩
theorem erase (p : Port) (c : KeyCmdWord) : Statement (.erase p c) := ⟨rfl, rfl⟩
theorem eraseDone (ok : Bool) : Statement (.eraseDone ok) := ⟨rfl, rfl⟩
theorem closeProv (p : Port) : Statement (.closeProv p) := ⟨rfl, rfl⟩
theorem vkInstall (p : Port) : Statement (.vkInstall p) := ⟨rfl, rfl⟩
theorem mskSet (p : Port) (c : KeyCmdWord) : Statement (.mskSet p c) := ⟨rfl, rfl⟩
theorem mskClear (p : Port) (c : KeyCmdWord) : Statement (.mskClear p c) := ⟨rfl, rfl⟩
theorem prefetch (p : Port) : Statement (.prefetch p) := ⟨rfl, rfl⟩
theorem tamperClear (p : Port) (present : Bool) : Statement (.tamperClear p present) := ⟨rfl, rfl⟩
theorem monoIncr (p : Port) (c : KeyCmdWord) : Statement (.monoIncr p c) := ⟨rfl, rfl⟩
theorem keyDerive : Statement .keyDerive := ⟨rfl, rfl⟩
theorem keyRequestTimeout (u : CipherUnit) : Statement (.keyRequestTimeout u) := ⟨rfl, rfl⟩
theorem zeroise (lowNs : Nat) : Statement (.zeroise lowNs) := ⟨rfl, rfl⟩
theorem tamper (cause : TamperCause) : Statement (.tamper cause) := ⟨rfl, rfl⟩
theorem zeroNRise : Statement .zeroNRise := ⟨rfl, rfl⟩
theorem trngFail (raw : List Bool) : Statement (.trngFail raw) := ⟨rfl, rfl⟩
theorem trngRecover (passed : Nat) : Statement (.trngRecover passed) := ⟨rfl, rfl⟩
theorem drbgReseed : Statement .drbgReseed := ⟨rfl, rfl⟩
theorem keyRngRead (p : Port) : Statement (.keyRngRead p) := ⟨rfl, rfl⟩
theorem operatingMinute : Statement .operatingMinute := ⟨rfl, rfl⟩
theorem keyCntRead (p : Port) : Statement (.keyCntRead p) := ⟨rfl, rfl⟩
theorem keyLaAccess (p : Port) (acc : Option W32) : Statement (.keyLaAccess p acc) := ⟨rfl, rfl⟩
theorem timIncrWrite (p : Port) (w : W32) : Statement (.timIncrWrite p w) := ⟨rfl, rfl⟩
theorem timNowRead (p : Port) : Statement (.timNowRead p) := ⟨rfl, rfl⟩
theorem set (p : Port) : Statement (.set p) := ⟨rfl, rfl⟩
theorem step (p : Port) : Statement (.step p) := ⟨rfl, rfl⟩
theorem slew (p : Port) (ppm : BitVec 8) : Statement (.slew p ppm) := ⟨rfl, rfl⟩
theorem tod (p : Port) : Statement (.tod p) := ⟨rfl, rfl⟩
theorem todCancel (p : Port) : Statement (.todCancel p) := ⟨rfl, rfl⟩
theorem todLatch : Statement .todLatch := ⟨rfl, rfl⟩
theorem replicaUpdate : Statement .replicaUpdate := ⟨rfl, rfl⟩
theorem replicaStale (n : LaneId) : Statement (.replicaStale n) := ⟨rfl, rfl⟩
theorem tsCal (p : Port) (n : LaneId) : Statement (.tsCal p n) := ⟨rfl, rfl⟩
theorem tsCalDone (n : LaneId) (rx tx : BitVec 16) : Statement (.tsCalDone n rx tx) := ⟨rfl, rfl⟩
theorem txStamp (n : LaneId) (tag : BitVec 16) : Statement (.txStamp n tag) := ⟨rfl, rfl⟩
theorem txqRead (p : Port) : Statement (.txqRead p) := ⟨rfl, rfl⟩
theorem txqDropsRead (p : Port) : Statement (.txqDropsRead p) := ⟨rfl, rfl⟩
theorem tauDsRecompute : Statement .tauDsRecompute := ⟨rfl, rfl⟩
theorem servoSample : Statement .servoSample := ⟨rfl, rfl⟩
theorem refLost : Statement .refLost := ⟨rfl, rfl⟩
theorem timCtlWrite (p : Port) (w : W32) : Statement (.timCtlWrite p w) := ⟨rfl, rfl⟩
theorem cmpArm (p : Port) (c : Fin 8) : Statement (.cmpArm p c) := ⟨rfl, rfl⟩
theorem cmpFire (c : Fin 8) : Statement (.cmpFire c) := ⟨rfl, rfl⟩
theorem ppsOutPulse : Statement .ppsOutPulse := ⟨rfl, rfl⟩
theorem ppsOutEnd : Statement .ppsOutEnd := ⟨rfl, rfl⟩
theorem ppsInEdge (sub : Fin 16) : Statement (.ppsInEdge sub) := ⟨rfl, rfl⟩
theorem retrain (p : Port) (d : Fin 4) : Statement (.retrain p d) := ⟨rfl, rfl⟩
theorem retire (p : Port) (d : Fin 4) : Statement (.retire p d) := ⟨rfl, rfl⟩
theorem scrubNow (p : Port) : Statement (.scrubNow p) := ⟨rfl, rfl⟩
theorem scrubPass (corrected : Vector Nat 8) : Statement (.scrubPass corrected) := ⟨rfl, rfl⟩
theorem cstTrainDone (failed : BitVec 4) : Statement (.cstTrainDone failed) := ⟨rfl, rfl⟩
theorem redirectCopyDone : Statement .redirectCopyDone := ⟨rfl, rfl⟩
theorem drainDone (timeout : Bool) : Statement (.drainDone timeout) := ⟨rfl, rfl⟩
theorem restoreDone : Statement .restoreDone := ⟨rfl, rfl⟩
theorem cstLineError (ch : Fin 8) (line : BitVec 24) (e : LineError) (user : CstUser) : Statement (.cstLineError ch line e user) := ⟨rfl, rfl⟩
theorem cstCntRead (p : Port) : Statement (.cstCntRead p) := ⟨rfl, rfl⟩
theorem perst (rise : Bool) : Statement (.perst rise) := ⟨rfl, rfl⟩
theorem hotReset : Statement .hotReset := ⟨rfl, rfl⟩
theorem functionLevelReset : Statement .functionLevelReset := ⟨rfl, rfl⟩
theorem linkChange (speed : BitVec 4) (width : BitVec 5) : Statement (.linkChange speed width) := ⟨rfl, rfl⟩
theorem gatedAccess (p : Port) (a : BitVec 25) (write : Bool) : Statement (.gatedAccess p a write) := ⟨rfl, rfl⟩
theorem partialWrite (p : Port) (a : BitVec 25) : Statement (.partialWrite p a) := ⟨rfl, rfl⟩
theorem hifCountRead (p : Port) (partial_ : Bool) : Statement (.hifCountRead p partial_) := ⟨rfl, rfl⟩
theorem twCtlWrite (p : Port) (w : W32) : Statement (.twCtlWrite p w) := ⟨rfl, rfl⟩
theorem featAcceptWrite (p : Port) (i : Fin 4) (w : W32) : Statement (.featAcceptWrite p i w) := ⟨rfl, rfl⟩
theorem featLock (p : Port) (w : W32) : Statement (.featLock p w) := ⟨rfl, rfl⟩
theorem doorbell (r : RingId) (w : W32) : Statement (.doorbell r w) := ⟨rfl, rfl⟩
theorem ringEnable (r : RingId) : Statement (.ringEnable r) := ⟨rfl, rfl⟩
theorem ringDisable (r : RingId) : Statement (.ringDisable r) := ⟨rfl, rfl⟩
theorem ringStopped (r : RingId) : Statement (.ringStopped r) := ⟨rfl, rfl⟩
theorem ringDmaError (r : RingId) (k : Nat) : Statement (.ringDmaError r k) := ⟨rfl, rfl⟩
theorem ringCoalTimer (r : RingId) : Statement (.ringCoalTimer r) := ⟨rfl, rfl⟩
theorem ringDropsRead (r : RingId) : Statement (.ringDropsRead r) := ⟨rfl, rfl⟩
theorem punt (bufs : List (W64 × BitVec 16)) : Statement (.punt bufs) := ⟨rfl, rfl⟩
theorem inject (descs : List InjDesc) : Statement (.inject descs) := ⟨rfl, rfl⟩
theorem eventRingPost : Statement .eventRingPost := ⟨rfl, rfl⟩
theorem twWrite (addr : BitVec 7) (off data : W32) (pec : Option Byte) : Statement (.twWrite addr off data pec) := ⟨rfl, rfl⟩
theorem twRead (addr : BitVec 7) (off : W32) : Statement (.twRead addr off) := ⟨rfl, rfl⟩
theorem eventReport (e : EventId) (sev : BitVec 3) (detail : List Byte) : Statement (.eventReport e sev detail) := ⟨rfl, rfl⟩
theorem settleEnd (e : EventId) : Statement (.settleEnd e) := ⟨rfl, rfl⟩
theorem gatherEnd (e : EventId) : Statement (.gatherEnd e) := ⟨rfl, rfl⟩
theorem holdEnd (e : EventId) : Statement (.holdEnd e) := ⟨rfl, rfl⟩
theorem lastingExpire (e : EventId) : Statement (.lastingExpire e) := ⟨rfl, rfl⟩
theorem evtStatusWrite (p : Port) (g : Fin 32) (w : W32) : Statement (.evtStatusWrite p g w) := ⟨rfl, rfl⟩
theorem evtMaskWrite (p : Port) (g : Fin 32) (w : W32) : Statement (.evtMaskWrite p g w) := ⟨rfl, rfl⟩
theorem evtForce (p : Port) (w : W32) : Statement (.evtForce p w) := ⟨rfl, rfl⟩
theorem evtSrcAccess (p : Port) : Statement (.evtSrcAccess p) := ⟨rfl, rfl⟩
theorem wellScan : Statement .wellScan := ⟨rfl, rfl⟩
theorem wellSeverityFlush : Statement .wellSeverityFlush := ⟨rfl, rfl⟩
theorem wellPeriodicFlush : Statement .wellPeriodicFlush := ⟨rfl, rfl⟩
theorem wellFlushRecord (ok : Bool) : Statement (.wellFlushRecord ok) := ⟨rfl, rfl⟩
theorem wellFlush (p : Port) : Statement (.wellFlush p) := ⟨rfl, rfl⟩
theorem pfailFall : Statement .pfailFall := ⟨rfl, rfl⟩
theorem wellFreeze (p : Port) : Statement (.wellFreeze p) := ⟨rfl, rfl⟩
theorem wellThaw (p : Port) : Statement (.wellThaw p) := ⟨rfl, rfl⟩
theorem freezeTimeout : Statement .freezeTimeout := ⟨rfl, rfl⟩
theorem wellRead (p : Port) : Statement (.wellRead p) := ⟨rfl, rfl⟩
theorem challenge (p : Port) : Statement (.challenge p) := ⟨rfl, rfl⟩
theorem challengeExpire : Statement .challengeExpire := ⟨rfl, rfl⟩
theorem clear (p : Port) : Statement (.clear p) := ⟨rfl, rfl⟩
theorem tallyOccurrence (sel : BitVec 8) (q : Option (BitVec 3)) (s : Option (BitVec 5)) (count : Nat) : Statement (.tallyOccurrence sel q s count) := ⟨rfl, rfl⟩
theorem talCntCfgWrite (p : Port) (c : Fin 8) (w : W32) : Statement (.talCntCfgWrite p c w) := ⟨rfl, rfl⟩
theorem tallyFreeze (p : Port) (on : Bool) : Statement (.tallyFreeze p on) := ⟨rfl, rfl⟩
theorem snap (p : Port) (w : W32) : Statement (.snap p w) := ⟨rfl, rfl⟩
theorem userSnap : Statement .userSnap := ⟨rfl, rfl⟩
theorem run (p : Port) : Statement (.run p) := ⟨rfl, rfl⟩
theorem doze (p : Port) : Statement (.doze p) := ⟨rfl, rfl⟩
theorem standby (p : Port) : Statement (.standby p) := ⟨rfl, rfl⟩
theorem enterDone : Statement .enterDone := ⟨rfl, rfl⟩
theorem rtcAlarm : Statement .rtcAlarm := ⟨rfl, rfl⟩
theorem wakeNLow : Statement .wakeNLow := ⟨rfl, rfl⟩
theorem pcieWake (perstRise : Bool) : Statement (.pcieWake perstRise) := ⟨rfl, rfl⟩
theorem energyDetect (n : LaneId) (level : Nat) : Statement (.energyDetect n level) := ⟨rfl, rfl⟩
theorem domainPowerGood (d : DomainId) : Statement (.domainPowerGood d) := ⟨rfl, rfl⟩
theorem domainPgTimeout (d : DomainId) : Statement (.domainPgTimeout d) := ⟨rfl, rfl⟩
theorem voteHostWrite (p : Port) (i : Fin 7) (w : W32) : Statement (.voteHostWrite p i w) := ⟨rfl, rfl⟩
theorem voteTestWrite (p : Port) (i : Fin 7) (w : W32) : Statement (.voteTestWrite p i w) := ⟨rfl, rfl⟩
theorem domFaultClear (p : Port) (i : Fin 7) (w : W32) : Statement (.domFaultClear p i w) := ⟨rfl, rfl⟩
theorem rtcWrite (p : Port) (w : W32) : Statement (.rtcWrite p w) := ⟨rfl, rfl⟩
theorem thermalLimit : Statement .thermalLimit := ⟨rfl, rfl⟩
theorem thermalTrip : Statement .thermalTrip := ⟨rfl, rfl⟩
theorem thermalResume : Statement .thermalResume := ⟨rfl, rfl⟩
theorem completeUAcknowledged (n : LaneId) : Statement (.completeUAcknowledged n) := ⟨rfl, rfl⟩
theorem hbMarkerMissing (n : LaneId) : Statement (.hbMarkerMissing n) := ⟨rfl, rfl⟩
theorem hbDownHoldExpire (n : LaneId) : Statement (.hbDownHoldExpire n) := ⟨rfl, rfl⟩
theorem shaperEligible (q : QuadId) (down : Bool) (sh : Nat) : Statement (.shaperEligible q down sh) := ⟨rfl, rfl⟩
theorem stwCmdDone (q : QuadId) (bytes : List Byte) (ok : Bool) : Statement (.stwCmdDone q bytes ok) := ⟨rfl, rfl⟩
theorem keyCmdDone (bytes : List Byte) (ok : Bool) : Statement (.keyCmdDone bytes ok) := ⟨rfl, rfl⟩
theorem wellCmdDone : Statement .wellCmdDone := ⟨rfl, rfl⟩
theorem vaultLinkTimeout : Statement .vaultLinkTimeout := ⟨rfl, rfl⟩
theorem thermalLimitRearm : Statement .thermalLimitRearm := ⟨rfl, rfl⟩

end Sys2Proof.Laws.Queue
end

