-- ==== Sys2Proof/Laws/State.lean ====
section
/-!
SUPPORT. The fields of the state after an update: every field that an update does not write is the old one, and a unit that is read
back is the updated one.
-/
namespace Sys2Proof.Machine

set_option Elab.async false

/-! ### Fields that an update leaves as they are -/

@[simp] theorem State.tookFree_sys (s : State) : (s.tookFree).sys = s.sys := rfl
@[simp] theorem State.tookFree_str (s : State) : (s.tookFree).str = s.str := rfl
@[simp] theorem State.tookFree_pwr (s : State) : (s.tookFree).pwr = s.pwr := rfl
@[simp] theorem State.tookFree_evt (s : State) : (s.tookFree).evt = s.evt := rfl
@[simp] theorem State.tookFree_wel (s : State) : (s.tookFree).wel = s.wel := rfl
@[simp] theorem State.tookFree_tal (s : State) : (s.tookFree).tal = s.tal := rfl
@[simp] theorem State.tookFree_tim (s : State) : (s.tookFree).tim = s.tim := rfl
@[simp] theorem State.tookFree_key (s : State) : (s.tookFree).key = s.key := rfl
@[simp] theorem State.tookFree_hif (s : State) : (s.tookFree).hif = s.hif := rfl
@[simp] theorem State.tookFree_vault (s : State) : (s.tookFree).vault = s.vault := rfl
@[simp] theorem State.tookFree_cst (s : State) : (s.tookFree).cst = s.cst := rfl
@[simp] theorem State.tookFree_tbl (s : State) : (s.tookFree).tbl = s.tbl := rfl
@[simp] theorem State.tookFree_fbk (s : State) : (s.tookFree).fbk = s.fbk := rfl
@[simp] theorem State.tookFree_stw (s : State) : (s.tookFree).stw = s.stw := rfl
@[simp] theorem State.tookFree_quads (s : State) : (s.tookFree).quads = s.quads := rfl
@[simp] theorem State.tookFree_cores (s : State) : (s.tookFree).cores = s.cores := rfl
@[simp] theorem State.tookFree_lanes (s : State) : (s.tookFree).lanes = s.lanes := rfl
@[simp] theorem State.tookFree_pins (s : State) : (s.tookFree).pins = s.pins := rfl
@[simp] theorem State.tookFree_latchPcie (s : State) : (s.tookFree).latchPcie = s.latchPcie := rfl
@[simp] theorem State.tookFree_latchTw (s : State) : (s.tookFree).latchTw = s.latchTw := rfl
@[simp] theorem State.tookFree_out (s : State) : (s.tookFree).out = s.out := rfl
@[simp] theorem State.tookFree_now (s : State) : (s.tookFree).now = s.now := rfl
@[simp] theorem State.tookFree_pending (s : State) : (s.tookFree).pending = s.pending := rfl

@[simp] theorem State.emit_sys (s : State) (o : Out) : (s.emit o).sys = s.sys := rfl
@[simp] theorem State.emit_str (s : State) (o : Out) : (s.emit o).str = s.str := rfl
@[simp] theorem State.emit_pwr (s : State) (o : Out) : (s.emit o).pwr = s.pwr := rfl
@[simp] theorem State.emit_evt (s : State) (o : Out) : (s.emit o).evt = s.evt := rfl
@[simp] theorem State.emit_wel (s : State) (o : Out) : (s.emit o).wel = s.wel := rfl
@[simp] theorem State.emit_tal (s : State) (o : Out) : (s.emit o).tal = s.tal := rfl
@[simp] theorem State.emit_tim (s : State) (o : Out) : (s.emit o).tim = s.tim := rfl
@[simp] theorem State.emit_key (s : State) (o : Out) : (s.emit o).key = s.key := rfl
@[simp] theorem State.emit_hif (s : State) (o : Out) : (s.emit o).hif = s.hif := rfl
@[simp] theorem State.emit_vault (s : State) (o : Out) : (s.emit o).vault = s.vault := rfl
@[simp] theorem State.emit_cst (s : State) (o : Out) : (s.emit o).cst = s.cst := rfl
@[simp] theorem State.emit_tbl (s : State) (o : Out) : (s.emit o).tbl = s.tbl := rfl
@[simp] theorem State.emit_fbk (s : State) (o : Out) : (s.emit o).fbk = s.fbk := rfl
@[simp] theorem State.emit_stw (s : State) (o : Out) : (s.emit o).stw = s.stw := rfl
@[simp] theorem State.emit_quads (s : State) (o : Out) : (s.emit o).quads = s.quads := rfl
@[simp] theorem State.emit_cores (s : State) (o : Out) : (s.emit o).cores = s.cores := rfl
@[simp] theorem State.emit_lanes (s : State) (o : Out) : (s.emit o).lanes = s.lanes := rfl
@[simp] theorem State.emit_pins (s : State) (o : Out) : (s.emit o).pins = s.pins := rfl
@[simp] theorem State.emit_latchPcie (s : State) (o : Out) : (s.emit o).latchPcie = s.latchPcie := rfl
@[simp] theorem State.emit_latchTw (s : State) (o : Out) : (s.emit o).latchTw = s.latchTw := rfl
@[simp] theorem State.emit_freeIdx (s : State) (o : Out) : (s.emit o).freeIdx = s.freeIdx := rfl
@[simp] theorem State.emit_now (s : State) (o : Out) : (s.emit o).now = s.now := rfl
@[simp] theorem State.emit_pending (s : State) (o : Out) : (s.emit o).pending = s.pending := rfl

@[simp] theorem State.modLane_sys (s : State) (n : LaneId) (f : Lane → Lane) : (s.modLane n f).sys = s.sys := rfl
@[simp] theorem State.modLane_str (s : State) (n : LaneId) (f : Lane → Lane) : (s.modLane n f).str = s.str := rfl
@[simp] theorem State.modLane_pwr (s : State) (n : LaneId) (f : Lane → Lane) : (s.modLane n f).pwr = s.pwr := rfl
@[simp] theorem State.modLane_evt (s : State) (n : LaneId) (f : Lane → Lane) : (s.modLane n f).evt = s.evt := rfl
@[simp] theorem State.modLane_wel (s : State) (n : LaneId) (f : Lane → Lane) : (s.modLane n f).wel = s.wel := rfl
@[simp] theorem State.modLane_tal (s : State) (n : LaneId) (f : Lane → Lane) : (s.modLane n f).tal = s.tal := rfl
@[simp] theorem State.modLane_tim (s : State) (n : LaneId) (f : Lane → Lane) : (s.modLane n f).tim = s.tim := rfl
@[simp] theorem State.modLane_key (s : State) (n : LaneId) (f : Lane → Lane) : (s.modLane n f).key = s.key := rfl
@[simp] theorem State.modLane_hif (s : State) (n : LaneId) (f : Lane → Lane) : (s.modLane n f).hif = s.hif := rfl
@[simp] theorem State.modLane_vault (s : State) (n : LaneId) (f : Lane → Lane) : (s.modLane n f).vault = s.vault := rfl
@[simp] theorem State.modLane_cst (s : State) (n : LaneId) (f : Lane → Lane) : (s.modLane n f).cst = s.cst := rfl
@[simp] theorem State.modLane_tbl (s : State) (n : LaneId) (f : Lane → Lane) : (s.modLane n f).tbl = s.tbl := rfl
@[simp] theorem State.modLane_fbk (s : State) (n : LaneId) (f : Lane → Lane) : (s.modLane n f).fbk = s.fbk := rfl
@[simp] theorem State.modLane_stw (s : State) (n : LaneId) (f : Lane → Lane) : (s.modLane n f).stw = s.stw := rfl
@[simp] theorem State.modLane_quads (s : State) (n : LaneId) (f : Lane → Lane) : (s.modLane n f).quads = s.quads := rfl
@[simp] theorem State.modLane_cores (s : State) (n : LaneId) (f : Lane → Lane) : (s.modLane n f).cores = s.cores := rfl
@[simp] theorem State.modLane_pins (s : State) (n : LaneId) (f : Lane → Lane) : (s.modLane n f).pins = s.pins := rfl
@[simp] theorem State.modLane_latchPcie (s : State) (n : LaneId) (f : Lane → Lane) : (s.modLane n f).latchPcie = s.latchPcie := rfl
@[simp] theorem State.modLane_latchTw (s : State) (n : LaneId) (f : Lane → Lane) : (s.modLane n f).latchTw = s.latchTw := rfl
@[simp] theorem State.modLane_out (s : State) (n : LaneId) (f : Lane → Lane) : (s.modLane n f).out = s.out := rfl
@[simp] theorem State.modLane_freeIdx (s : State) (n : LaneId) (f : Lane → Lane) : (s.modLane n f).freeIdx = s.freeIdx := rfl
@[simp] theorem State.modLane_now (s : State) (n : LaneId) (f : Lane → Lane) : (s.modLane n f).now = s.now := rfl
@[simp] theorem State.modLane_pending (s : State) (n : LaneId) (f : Lane → Lane) : (s.modLane n f).pending = s.pending := rfl

@[simp] theorem State.modQuad_sys (s : State) (q : QuadId) (f : Quad → Quad) : (s.modQuad q f).sys = s.sys := rfl
@[simp] theorem State.modQuad_str (s : State) (q : QuadId) (f : Quad → Quad) : (s.modQuad q f).str = s.str := rfl
@[simp] theorem State.modQuad_pwr (s : State) (q : QuadId) (f : Quad → Quad) : (s.modQuad q f).pwr = s.pwr := rfl
@[simp] theorem State.modQuad_evt (s : State) (q : QuadId) (f : Quad → Quad) : (s.modQuad q f).evt = s.evt := rfl
@[simp] theorem State.modQuad_wel (s : State) (q : QuadId) (f : Quad → Quad) : (s.modQuad q f).wel = s.wel := rfl
@[simp] theorem State.modQuad_tal (s : State) (q : QuadId) (f : Quad → Quad) : (s.modQuad q f).tal = s.tal := rfl
@[simp] theorem State.modQuad_tim (s : State) (q : QuadId) (f : Quad → Quad) : (s.modQuad q f).tim = s.tim := rfl
@[simp] theorem State.modQuad_key (s : State) (q : QuadId) (f : Quad → Quad) : (s.modQuad q f).key = s.key := rfl
@[simp] theorem State.modQuad_hif (s : State) (q : QuadId) (f : Quad → Quad) : (s.modQuad q f).hif = s.hif := rfl
@[simp] theorem State.modQuad_vault (s : State) (q : QuadId) (f : Quad → Quad) : (s.modQuad q f).vault = s.vault := rfl
@[simp] theorem State.modQuad_cst (s : State) (q : QuadId) (f : Quad → Quad) : (s.modQuad q f).cst = s.cst := rfl
@[simp] theorem State.modQuad_tbl (s : State) (q : QuadId) (f : Quad → Quad) : (s.modQuad q f).tbl = s.tbl := rfl
@[simp] theorem State.modQuad_fbk (s : State) (q : QuadId) (f : Quad → Quad) : (s.modQuad q f).fbk = s.fbk := rfl
@[simp] theorem State.modQuad_stw (s : State) (q : QuadId) (f : Quad → Quad) : (s.modQuad q f).stw = s.stw := rfl
@[simp] theorem State.modQuad_cores (s : State) (q : QuadId) (f : Quad → Quad) : (s.modQuad q f).cores = s.cores := rfl
@[simp] theorem State.modQuad_lanes (s : State) (q : QuadId) (f : Quad → Quad) : (s.modQuad q f).lanes = s.lanes := rfl
@[simp] theorem State.modQuad_pins (s : State) (q : QuadId) (f : Quad → Quad) : (s.modQuad q f).pins = s.pins := rfl
@[simp] theorem State.modQuad_latchPcie (s : State) (q : QuadId) (f : Quad → Quad) : (s.modQuad q f).latchPcie = s.latchPcie := rfl
@[simp] theorem State.modQuad_latchTw (s : State) (q : QuadId) (f : Quad → Quad) : (s.modQuad q f).latchTw = s.latchTw := rfl
@[simp] theorem State.modQuad_out (s : State) (q : QuadId) (f : Quad → Quad) : (s.modQuad q f).out = s.out := rfl
@[simp] theorem State.modQuad_freeIdx (s : State) (q : QuadId) (f : Quad → Quad) : (s.modQuad q f).freeIdx = s.freeIdx := rfl
@[simp] theorem State.modQuad_now (s : State) (q : QuadId) (f : Quad → Quad) : (s.modQuad q f).now = s.now := rfl
@[simp] theorem State.modQuad_pending (s : State) (q : QuadId) (f : Quad → Quad) : (s.modQuad q f).pending = s.pending := rfl

@[simp] theorem State.modQuadN_sys (s : State) (q : Nat) (f : Quad → Quad) : (s.modQuadN q f).sys = s.sys := rfl
@[simp] theorem State.modQuadN_str (s : State) (q : Nat) (f : Quad → Quad) : (s.modQuadN q f).str = s.str := rfl
@[simp] theorem State.modQuadN_pwr (s : State) (q : Nat) (f : Quad → Quad) : (s.modQuadN q f).pwr = s.pwr := rfl
@[simp] theorem State.modQuadN_evt (s : State) (q : Nat) (f : Quad → Quad) : (s.modQuadN q f).evt = s.evt := rfl
@[simp] theorem State.modQuadN_wel (s : State) (q : Nat) (f : Quad → Quad) : (s.modQuadN q f).wel = s.wel := rfl
@[simp] theorem State.modQuadN_tal (s : State) (q : Nat) (f : Quad → Quad) : (s.modQuadN q f).tal = s.tal := rfl
@[simp] theorem State.modQuadN_tim (s : State) (q : Nat) (f : Quad → Quad) : (s.modQuadN q f).tim = s.tim := rfl
@[simp] theorem State.modQuadN_key (s : State) (q : Nat) (f : Quad → Quad) : (s.modQuadN q f).key = s.key := rfl
@[simp] theorem State.modQuadN_hif (s : State) (q : Nat) (f : Quad → Quad) : (s.modQuadN q f).hif = s.hif := rfl
@[simp] theorem State.modQuadN_vault (s : State) (q : Nat) (f : Quad → Quad) : (s.modQuadN q f).vault = s.vault := rfl
@[simp] theorem State.modQuadN_cst (s : State) (q : Nat) (f : Quad → Quad) : (s.modQuadN q f).cst = s.cst := rfl
@[simp] theorem State.modQuadN_tbl (s : State) (q : Nat) (f : Quad → Quad) : (s.modQuadN q f).tbl = s.tbl := rfl
@[simp] theorem State.modQuadN_fbk (s : State) (q : Nat) (f : Quad → Quad) : (s.modQuadN q f).fbk = s.fbk := rfl
@[simp] theorem State.modQuadN_stw (s : State) (q : Nat) (f : Quad → Quad) : (s.modQuadN q f).stw = s.stw := rfl
@[simp] theorem State.modQuadN_cores (s : State) (q : Nat) (f : Quad → Quad) : (s.modQuadN q f).cores = s.cores := rfl
@[simp] theorem State.modQuadN_lanes (s : State) (q : Nat) (f : Quad → Quad) : (s.modQuadN q f).lanes = s.lanes := rfl
@[simp] theorem State.modQuadN_pins (s : State) (q : Nat) (f : Quad → Quad) : (s.modQuadN q f).pins = s.pins := rfl
@[simp] theorem State.modQuadN_latchPcie (s : State) (q : Nat) (f : Quad → Quad) : (s.modQuadN q f).latchPcie = s.latchPcie := rfl
@[simp] theorem State.modQuadN_latchTw (s : State) (q : Nat) (f : Quad → Quad) : (s.modQuadN q f).latchTw = s.latchTw := rfl
@[simp] theorem State.modQuadN_out (s : State) (q : Nat) (f : Quad → Quad) : (s.modQuadN q f).out = s.out := rfl
@[simp] theorem State.modQuadN_freeIdx (s : State) (q : Nat) (f : Quad → Quad) : (s.modQuadN q f).freeIdx = s.freeIdx := rfl
@[simp] theorem State.modQuadN_now (s : State) (q : Nat) (f : Quad → Quad) : (s.modQuadN q f).now = s.now := rfl
@[simp] theorem State.modQuadN_pending (s : State) (q : Nat) (f : Quad → Quad) : (s.modQuadN q f).pending = s.pending := rfl

@[simp] theorem State.modCore_sys (s : State) (k : CoreId) (f : Core → Core) : (s.modCore k f).sys = s.sys := rfl
@[simp] theorem State.modCore_str (s : State) (k : CoreId) (f : Core → Core) : (s.modCore k f).str = s.str := rfl
@[simp] theorem State.modCore_pwr (s : State) (k : CoreId) (f : Core → Core) : (s.modCore k f).pwr = s.pwr := rfl
@[simp] theorem State.modCore_evt (s : State) (k : CoreId) (f : Core → Core) : (s.modCore k f).evt = s.evt := rfl
@[simp] theorem State.modCore_wel (s : State) (k : CoreId) (f : Core → Core) : (s.modCore k f).wel = s.wel := rfl
@[simp] theorem State.modCore_tal (s : State) (k : CoreId) (f : Core → Core) : (s.modCore k f).tal = s.tal := rfl
@[simp] theorem State.modCore_tim (s : State) (k : CoreId) (f : Core → Core) : (s.modCore k f).tim = s.tim := rfl
@[simp] theorem State.modCore_key (s : State) (k : CoreId) (f : Core → Core) : (s.modCore k f).key = s.key := rfl
@[simp] theorem State.modCore_hif (s : State) (k : CoreId) (f : Core → Core) : (s.modCore k f).hif = s.hif := rfl
@[simp] theorem State.modCore_vault (s : State) (k : CoreId) (f : Core → Core) : (s.modCore k f).vault = s.vault := rfl
@[simp] theorem State.modCore_cst (s : State) (k : CoreId) (f : Core → Core) : (s.modCore k f).cst = s.cst := rfl
@[simp] theorem State.modCore_tbl (s : State) (k : CoreId) (f : Core → Core) : (s.modCore k f).tbl = s.tbl := rfl
@[simp] theorem State.modCore_fbk (s : State) (k : CoreId) (f : Core → Core) : (s.modCore k f).fbk = s.fbk := rfl
@[simp] theorem State.modCore_stw (s : State) (k : CoreId) (f : Core → Core) : (s.modCore k f).stw = s.stw := rfl
@[simp] theorem State.modCore_quads (s : State) (k : CoreId) (f : Core → Core) : (s.modCore k f).quads = s.quads := rfl
@[simp] theorem State.modCore_lanes (s : State) (k : CoreId) (f : Core → Core) : (s.modCore k f).lanes = s.lanes := rfl
@[simp] theorem State.modCore_pins (s : State) (k : CoreId) (f : Core → Core) : (s.modCore k f).pins = s.pins := rfl
@[simp] theorem State.modCore_latchPcie (s : State) (k : CoreId) (f : Core → Core) : (s.modCore k f).latchPcie = s.latchPcie := rfl
@[simp] theorem State.modCore_latchTw (s : State) (k : CoreId) (f : Core → Core) : (s.modCore k f).latchTw = s.latchTw := rfl
@[simp] theorem State.modCore_out (s : State) (k : CoreId) (f : Core → Core) : (s.modCore k f).out = s.out := rfl
@[simp] theorem State.modCore_freeIdx (s : State) (k : CoreId) (f : Core → Core) : (s.modCore k f).freeIdx = s.freeIdx := rfl
@[simp] theorem State.modCore_now (s : State) (k : CoreId) (f : Core → Core) : (s.modCore k f).now = s.now := rfl
@[simp] theorem State.modCore_pending (s : State) (k : CoreId) (f : Core → Core) : (s.modCore k f).pending = s.pending := rfl

@[simp] theorem State.modCoreN_sys (s : State) (k : Nat) (f : Core → Core) : (s.modCoreN k f).sys = s.sys := rfl
@[simp] theorem State.modCoreN_str (s : State) (k : Nat) (f : Core → Core) : (s.modCoreN k f).str = s.str := rfl
@[simp] theorem State.modCoreN_pwr (s : State) (k : Nat) (f : Core → Core) : (s.modCoreN k f).pwr = s.pwr := rfl
@[simp] theorem State.modCoreN_evt (s : State) (k : Nat) (f : Core → Core) : (s.modCoreN k f).evt = s.evt := rfl
@[simp] theorem State.modCoreN_wel (s : State) (k : Nat) (f : Core → Core) : (s.modCoreN k f).wel = s.wel := rfl
@[simp] theorem State.modCoreN_tal (s : State) (k : Nat) (f : Core → Core) : (s.modCoreN k f).tal = s.tal := rfl
@[simp] theorem State.modCoreN_tim (s : State) (k : Nat) (f : Core → Core) : (s.modCoreN k f).tim = s.tim := rfl
@[simp] theorem State.modCoreN_key (s : State) (k : Nat) (f : Core → Core) : (s.modCoreN k f).key = s.key := rfl
@[simp] theorem State.modCoreN_hif (s : State) (k : Nat) (f : Core → Core) : (s.modCoreN k f).hif = s.hif := rfl
@[simp] theorem State.modCoreN_vault (s : State) (k : Nat) (f : Core → Core) : (s.modCoreN k f).vault = s.vault := rfl
@[simp] theorem State.modCoreN_cst (s : State) (k : Nat) (f : Core → Core) : (s.modCoreN k f).cst = s.cst := rfl
@[simp] theorem State.modCoreN_tbl (s : State) (k : Nat) (f : Core → Core) : (s.modCoreN k f).tbl = s.tbl := rfl
@[simp] theorem State.modCoreN_fbk (s : State) (k : Nat) (f : Core → Core) : (s.modCoreN k f).fbk = s.fbk := rfl
@[simp] theorem State.modCoreN_stw (s : State) (k : Nat) (f : Core → Core) : (s.modCoreN k f).stw = s.stw := rfl
@[simp] theorem State.modCoreN_quads (s : State) (k : Nat) (f : Core → Core) : (s.modCoreN k f).quads = s.quads := rfl
@[simp] theorem State.modCoreN_lanes (s : State) (k : Nat) (f : Core → Core) : (s.modCoreN k f).lanes = s.lanes := rfl
@[simp] theorem State.modCoreN_pins (s : State) (k : Nat) (f : Core → Core) : (s.modCoreN k f).pins = s.pins := rfl
@[simp] theorem State.modCoreN_latchPcie (s : State) (k : Nat) (f : Core → Core) : (s.modCoreN k f).latchPcie = s.latchPcie := rfl
@[simp] theorem State.modCoreN_latchTw (s : State) (k : Nat) (f : Core → Core) : (s.modCoreN k f).latchTw = s.latchTw := rfl
@[simp] theorem State.modCoreN_out (s : State) (k : Nat) (f : Core → Core) : (s.modCoreN k f).out = s.out := rfl
@[simp] theorem State.modCoreN_freeIdx (s : State) (k : Nat) (f : Core → Core) : (s.modCoreN k f).freeIdx = s.freeIdx := rfl
@[simp] theorem State.modCoreN_now (s : State) (k : Nat) (f : Core → Core) : (s.modCoreN k f).now = s.now := rfl
@[simp] theorem State.modCoreN_pending (s : State) (k : Nat) (f : Core → Core) : (s.modCoreN k f).pending = s.pending := rfl

@[simp] theorem State.modStw_sys (s : State) (q : QuadId) (f : Steward → Steward) : (s.modStw q f).sys = s.sys := rfl
@[simp] theorem State.modStw_str (s : State) (q : QuadId) (f : Steward → Steward) : (s.modStw q f).str = s.str := rfl
@[simp] theorem State.modStw_pwr (s : State) (q : QuadId) (f : Steward → Steward) : (s.modStw q f).pwr = s.pwr := rfl
@[simp] theorem State.modStw_evt (s : State) (q : QuadId) (f : Steward → Steward) : (s.modStw q f).evt = s.evt := rfl
@[simp] theorem State.modStw_wel (s : State) (q : QuadId) (f : Steward → Steward) : (s.modStw q f).wel = s.wel := rfl
@[simp] theorem State.modStw_tal (s : State) (q : QuadId) (f : Steward → Steward) : (s.modStw q f).tal = s.tal := rfl
@[simp] theorem State.modStw_tim (s : State) (q : QuadId) (f : Steward → Steward) : (s.modStw q f).tim = s.tim := rfl
@[simp] theorem State.modStw_key (s : State) (q : QuadId) (f : Steward → Steward) : (s.modStw q f).key = s.key := rfl
@[simp] theorem State.modStw_hif (s : State) (q : QuadId) (f : Steward → Steward) : (s.modStw q f).hif = s.hif := rfl
@[simp] theorem State.modStw_vault (s : State) (q : QuadId) (f : Steward → Steward) : (s.modStw q f).vault = s.vault := rfl
@[simp] theorem State.modStw_cst (s : State) (q : QuadId) (f : Steward → Steward) : (s.modStw q f).cst = s.cst := rfl
@[simp] theorem State.modStw_tbl (s : State) (q : QuadId) (f : Steward → Steward) : (s.modStw q f).tbl = s.tbl := rfl
@[simp] theorem State.modStw_fbk (s : State) (q : QuadId) (f : Steward → Steward) : (s.modStw q f).fbk = s.fbk := rfl
@[simp] theorem State.modStw_quads (s : State) (q : QuadId) (f : Steward → Steward) : (s.modStw q f).quads = s.quads := rfl
@[simp] theorem State.modStw_cores (s : State) (q : QuadId) (f : Steward → Steward) : (s.modStw q f).cores = s.cores := rfl
@[simp] theorem State.modStw_lanes (s : State) (q : QuadId) (f : Steward → Steward) : (s.modStw q f).lanes = s.lanes := rfl
@[simp] theorem State.modStw_pins (s : State) (q : QuadId) (f : Steward → Steward) : (s.modStw q f).pins = s.pins := rfl
@[simp] theorem State.modStw_latchPcie (s : State) (q : QuadId) (f : Steward → Steward) : (s.modStw q f).latchPcie = s.latchPcie := rfl
@[simp] theorem State.modStw_latchTw (s : State) (q : QuadId) (f : Steward → Steward) : (s.modStw q f).latchTw = s.latchTw := rfl
@[simp] theorem State.modStw_out (s : State) (q : QuadId) (f : Steward → Steward) : (s.modStw q f).out = s.out := rfl
@[simp] theorem State.modStw_freeIdx (s : State) (q : QuadId) (f : Steward → Steward) : (s.modStw q f).freeIdx = s.freeIdx := rfl
@[simp] theorem State.modStw_now (s : State) (q : QuadId) (f : Steward → Steward) : (s.modStw q f).now = s.now := rfl
@[simp] theorem State.modStw_pending (s : State) (q : QuadId) (f : Steward → Steward) : (s.modStw q f).pending = s.pending := rfl

@[simp] theorem State.modSrc_sys (s : State) (e : Nat) (f : Src → Src) : (s.modSrc e f).sys = s.sys := rfl
@[simp] theorem State.modSrc_str (s : State) (e : Nat) (f : Src → Src) : (s.modSrc e f).str = s.str := rfl
@[simp] theorem State.modSrc_pwr (s : State) (e : Nat) (f : Src → Src) : (s.modSrc e f).pwr = s.pwr := rfl
@[simp] theorem State.modSrc_wel (s : State) (e : Nat) (f : Src → Src) : (s.modSrc e f).wel = s.wel := rfl
@[simp] theorem State.modSrc_tal (s : State) (e : Nat) (f : Src → Src) : (s.modSrc e f).tal = s.tal := rfl
@[simp] theorem State.modSrc_tim (s : State) (e : Nat) (f : Src → Src) : (s.modSrc e f).tim = s.tim := rfl
@[simp] theorem State.modSrc_key (s : State) (e : Nat) (f : Src → Src) : (s.modSrc e f).key = s.key := rfl
@[simp] theorem State.modSrc_hif (s : State) (e : Nat) (f : Src → Src) : (s.modSrc e f).hif = s.hif := rfl
@[simp] theorem State.modSrc_vault (s : State) (e : Nat) (f : Src → Src) : (s.modSrc e f).vault = s.vault := rfl
@[simp] theorem State.modSrc_cst (s : State) (e : Nat) (f : Src → Src) : (s.modSrc e f).cst = s.cst := rfl
@[simp] theorem State.modSrc_tbl (s : State) (e : Nat) (f : Src → Src) : (s.modSrc e f).tbl = s.tbl := rfl
@[simp] theorem State.modSrc_fbk (s : State) (e : Nat) (f : Src → Src) : (s.modSrc e f).fbk = s.fbk := rfl
@[simp] theorem State.modSrc_stw (s : State) (e : Nat) (f : Src → Src) : (s.modSrc e f).stw = s.stw := rfl
@[simp] theorem State.modSrc_quads (s : State) (e : Nat) (f : Src → Src) : (s.modSrc e f).quads = s.quads := rfl
@[simp] theorem State.modSrc_cores (s : State) (e : Nat) (f : Src → Src) : (s.modSrc e f).cores = s.cores := rfl
@[simp] theorem State.modSrc_lanes (s : State) (e : Nat) (f : Src → Src) : (s.modSrc e f).lanes = s.lanes := rfl
@[simp] theorem State.modSrc_pins (s : State) (e : Nat) (f : Src → Src) : (s.modSrc e f).pins = s.pins := rfl
@[simp] theorem State.modSrc_latchPcie (s : State) (e : Nat) (f : Src → Src) : (s.modSrc e f).latchPcie = s.latchPcie := rfl
@[simp] theorem State.modSrc_latchTw (s : State) (e : Nat) (f : Src → Src) : (s.modSrc e f).latchTw = s.latchTw := rfl
@[simp] theorem State.modSrc_out (s : State) (e : Nat) (f : Src → Src) : (s.modSrc e f).out = s.out := rfl
@[simp] theorem State.modSrc_freeIdx (s : State) (e : Nat) (f : Src → Src) : (s.modSrc e f).freeIdx = s.freeIdx := rfl
@[simp] theorem State.modSrc_now (s : State) (e : Nat) (f : Src → Src) : (s.modSrc e f).now = s.now := rfl
@[simp] theorem State.modSrc_pending (s : State) (e : Nat) (f : Src → Src) : (s.modSrc e f).pending = s.pending := rfl

@[simp] theorem State.modGroup_sys (s : State) (g : Nat) (f : Group → Group) : (s.modGroup g f).sys = s.sys := rfl
@[simp] theorem State.modGroup_str (s : State) (g : Nat) (f : Group → Group) : (s.modGroup g f).str = s.str := rfl
@[simp] theorem State.modGroup_pwr (s : State) (g : Nat) (f : Group → Group) : (s.modGroup g f).pwr = s.pwr := rfl
@[simp] theorem State.modGroup_evt (s : State) (g : Nat) (f : Group → Group) : (s.modGroup g f).evt = s.evt := rfl
@[simp] theorem State.modGroup_wel (s : State) (g : Nat) (f : Group → Group) : (s.modGroup g f).wel = s.wel := rfl
@[simp] theorem State.modGroup_tal (s : State) (g : Nat) (f : Group → Group) : (s.modGroup g f).tal = s.tal := rfl
@[simp] theorem State.modGroup_tim (s : State) (g : Nat) (f : Group → Group) : (s.modGroup g f).tim = s.tim := rfl
@[simp] theorem State.modGroup_key (s : State) (g : Nat) (f : Group → Group) : (s.modGroup g f).key = s.key := rfl
@[simp] theorem State.modGroup_hif (s : State) (g : Nat) (f : Group → Group) : (s.modGroup g f).hif = s.hif := rfl
@[simp] theorem State.modGroup_vault (s : State) (g : Nat) (f : Group → Group) : (s.modGroup g f).vault = s.vault := rfl
@[simp] theorem State.modGroup_tbl (s : State) (g : Nat) (f : Group → Group) : (s.modGroup g f).tbl = s.tbl := rfl
@[simp] theorem State.modGroup_fbk (s : State) (g : Nat) (f : Group → Group) : (s.modGroup g f).fbk = s.fbk := rfl
@[simp] theorem State.modGroup_stw (s : State) (g : Nat) (f : Group → Group) : (s.modGroup g f).stw = s.stw := rfl
@[simp] theorem State.modGroup_quads (s : State) (g : Nat) (f : Group → Group) : (s.modGroup g f).quads = s.quads := rfl
@[simp] theorem State.modGroup_cores (s : State) (g : Nat) (f : Group → Group) : (s.modGroup g f).cores = s.cores := rfl
@[simp] theorem State.modGroup_lanes (s : State) (g : Nat) (f : Group → Group) : (s.modGroup g f).lanes = s.lanes := rfl
@[simp] theorem State.modGroup_pins (s : State) (g : Nat) (f : Group → Group) : (s.modGroup g f).pins = s.pins := rfl
@[simp] theorem State.modGroup_latchPcie (s : State) (g : Nat) (f : Group → Group) : (s.modGroup g f).latchPcie = s.latchPcie := rfl
@[simp] theorem State.modGroup_latchTw (s : State) (g : Nat) (f : Group → Group) : (s.modGroup g f).latchTw = s.latchTw := rfl
@[simp] theorem State.modGroup_out (s : State) (g : Nat) (f : Group → Group) : (s.modGroup g f).out = s.out := rfl
@[simp] theorem State.modGroup_freeIdx (s : State) (g : Nat) (f : Group → Group) : (s.modGroup g f).freeIdx = s.freeIdx := rfl
@[simp] theorem State.modGroup_now (s : State) (g : Nat) (f : Group → Group) : (s.modGroup g f).now = s.now := rfl
@[simp] theorem State.modGroup_pending (s : State) (g : Nat) (f : Group → Group) : (s.modGroup g f).pending = s.pending := rfl

@[simp] theorem State.modRing_sys (s : State) (r : Nat) (f : Ring → Ring) : (s.modRing r f).sys = s.sys := rfl
@[simp] theorem State.modRing_str (s : State) (r : Nat) (f : Ring → Ring) : (s.modRing r f).str = s.str := rfl
@[simp] theorem State.modRing_pwr (s : State) (r : Nat) (f : Ring → Ring) : (s.modRing r f).pwr = s.pwr := rfl
@[simp] theorem State.modRing_evt (s : State) (r : Nat) (f : Ring → Ring) : (s.modRing r f).evt = s.evt := rfl
@[simp] theorem State.modRing_wel (s : State) (r : Nat) (f : Ring → Ring) : (s.modRing r f).wel = s.wel := rfl
@[simp] theorem State.modRing_tal (s : State) (r : Nat) (f : Ring → Ring) : (s.modRing r f).tal = s.tal := rfl
@[simp] theorem State.modRing_tim (s : State) (r : Nat) (f : Ring → Ring) : (s.modRing r f).tim = s.tim := rfl
@[simp] theorem State.modRing_key (s : State) (r : Nat) (f : Ring → Ring) : (s.modRing r f).key = s.key := rfl
@[simp] theorem State.modRing_vault (s : State) (r : Nat) (f : Ring → Ring) : (s.modRing r f).vault = s.vault := rfl
@[simp] theorem State.modRing_cst (s : State) (r : Nat) (f : Ring → Ring) : (s.modRing r f).cst = s.cst := rfl
@[simp] theorem State.modRing_tbl (s : State) (r : Nat) (f : Ring → Ring) : (s.modRing r f).tbl = s.tbl := rfl
@[simp] theorem State.modRing_fbk (s : State) (r : Nat) (f : Ring → Ring) : (s.modRing r f).fbk = s.fbk := rfl
@[simp] theorem State.modRing_stw (s : State) (r : Nat) (f : Ring → Ring) : (s.modRing r f).stw = s.stw := rfl
@[simp] theorem State.modRing_quads (s : State) (r : Nat) (f : Ring → Ring) : (s.modRing r f).quads = s.quads := rfl
@[simp] theorem State.modRing_cores (s : State) (r : Nat) (f : Ring → Ring) : (s.modRing r f).cores = s.cores := rfl
@[simp] theorem State.modRing_lanes (s : State) (r : Nat) (f : Ring → Ring) : (s.modRing r f).lanes = s.lanes := rfl
@[simp] theorem State.modRing_pins (s : State) (r : Nat) (f : Ring → Ring) : (s.modRing r f).pins = s.pins := rfl
@[simp] theorem State.modRing_latchPcie (s : State) (r : Nat) (f : Ring → Ring) : (s.modRing r f).latchPcie = s.latchPcie := rfl
@[simp] theorem State.modRing_latchTw (s : State) (r : Nat) (f : Ring → Ring) : (s.modRing r f).latchTw = s.latchTw := rfl
@[simp] theorem State.modRing_out (s : State) (r : Nat) (f : Ring → Ring) : (s.modRing r f).out = s.out := rfl
@[simp] theorem State.modRing_freeIdx (s : State) (r : Nat) (f : Ring → Ring) : (s.modRing r f).freeIdx = s.freeIdx := rfl
@[simp] theorem State.modRing_now (s : State) (r : Nat) (f : Ring → Ring) : (s.modRing r f).now = s.now := rfl
@[simp] theorem State.modRing_pending (s : State) (r : Nat) (f : Ring → Ring) : (s.modRing r f).pending = s.pending := rfl

@[simp] theorem State.modKey_sys (s : State) (f : KeyIsland → KeyIsland) : (s.modKey f).sys = s.sys := rfl
@[simp] theorem State.modKey_str (s : State) (f : KeyIsland → KeyIsland) : (s.modKey f).str = s.str := rfl
@[simp] theorem State.modKey_pwr (s : State) (f : KeyIsland → KeyIsland) : (s.modKey f).pwr = s.pwr := rfl
@[simp] theorem State.modKey_evt (s : State) (f : KeyIsland → KeyIsland) : (s.modKey f).evt = s.evt := rfl
@[simp] theorem State.modKey_wel (s : State) (f : KeyIsland → KeyIsland) : (s.modKey f).wel = s.wel := rfl
@[simp] theorem State.modKey_tal (s : State) (f : KeyIsland → KeyIsland) : (s.modKey f).tal = s.tal := rfl
@[simp] theorem State.modKey_tim (s : State) (f : KeyIsland → KeyIsland) : (s.modKey f).tim = s.tim := rfl
@[simp] theorem State.modKey_hif (s : State) (f : KeyIsland → KeyIsland) : (s.modKey f).hif = s.hif := rfl
@[simp] theorem State.modKey_vault (s : State) (f : KeyIsland → KeyIsland) : (s.modKey f).vault = s.vault := rfl
@[simp] theorem State.modKey_cst (s : State) (f : KeyIsland → KeyIsland) : (s.modKey f).cst = s.cst := rfl
@[simp] theorem State.modKey_tbl (s : State) (f : KeyIsland → KeyIsland) : (s.modKey f).tbl = s.tbl := rfl
@[simp] theorem State.modKey_fbk (s : State) (f : KeyIsland → KeyIsland) : (s.modKey f).fbk = s.fbk := rfl
@[simp] theorem State.modKey_stw (s : State) (f : KeyIsland → KeyIsland) : (s.modKey f).stw = s.stw := rfl
@[simp] theorem State.modKey_quads (s : State) (f : KeyIsland → KeyIsland) : (s.modKey f).quads = s.quads := rfl
@[simp] theorem State.modKey_cores (s : State) (f : KeyIsland → KeyIsland) : (s.modKey f).cores = s.cores := rfl
@[simp] theorem State.modKey_lanes (s : State) (f : KeyIsland → KeyIsland) : (s.modKey f).lanes = s.lanes := rfl
@[simp] theorem State.modKey_pins (s : State) (f : KeyIsland → KeyIsland) : (s.modKey f).pins = s.pins := rfl
@[simp] theorem State.modKey_latchPcie (s : State) (f : KeyIsland → KeyIsland) : (s.modKey f).latchPcie = s.latchPcie := rfl
@[simp] theorem State.modKey_latchTw (s : State) (f : KeyIsland → KeyIsland) : (s.modKey f).latchTw = s.latchTw := rfl
@[simp] theorem State.modKey_out (s : State) (f : KeyIsland → KeyIsland) : (s.modKey f).out = s.out := rfl
@[simp] theorem State.modKey_freeIdx (s : State) (f : KeyIsland → KeyIsland) : (s.modKey f).freeIdx = s.freeIdx := rfl
@[simp] theorem State.modKey_now (s : State) (f : KeyIsland → KeyIsland) : (s.modKey f).now = s.now := rfl
@[simp] theorem State.modKey_pending (s : State) (f : KeyIsland → KeyIsland) : (s.modKey f).pending = s.pending := rfl

@[simp] theorem State.modVault_sys (s : State) (f : Vault → Vault) : (s.modVault f).sys = s.sys := rfl
@[simp] theorem State.modVault_str (s : State) (f : Vault → Vault) : (s.modVault f).str = s.str := rfl
@[simp] theorem State.modVault_pwr (s : State) (f : Vault → Vault) : (s.modVault f).pwr = s.pwr := rfl
@[simp] theorem State.modVault_evt (s : State) (f : Vault → Vault) : (s.modVault f).evt = s.evt := rfl
@[simp] theorem State.modVault_wel (s : State) (f : Vault → Vault) : (s.modVault f).wel = s.wel := rfl
@[simp] theorem State.modVault_tal (s : State) (f : Vault → Vault) : (s.modVault f).tal = s.tal := rfl
@[simp] theorem State.modVault_tim (s : State) (f : Vault → Vault) : (s.modVault f).tim = s.tim := rfl
@[simp] theorem State.modVault_key (s : State) (f : Vault → Vault) : (s.modVault f).key = s.key := rfl
@[simp] theorem State.modVault_hif (s : State) (f : Vault → Vault) : (s.modVault f).hif = s.hif := rfl
@[simp] theorem State.modVault_cst (s : State) (f : Vault → Vault) : (s.modVault f).cst = s.cst := rfl
@[simp] theorem State.modVault_tbl (s : State) (f : Vault → Vault) : (s.modVault f).tbl = s.tbl := rfl
@[simp] theorem State.modVault_fbk (s : State) (f : Vault → Vault) : (s.modVault f).fbk = s.fbk := rfl
@[simp] theorem State.modVault_stw (s : State) (f : Vault → Vault) : (s.modVault f).stw = s.stw := rfl
@[simp] theorem State.modVault_quads (s : State) (f : Vault → Vault) : (s.modVault f).quads = s.quads := rfl
@[simp] theorem State.modVault_cores (s : State) (f : Vault → Vault) : (s.modVault f).cores = s.cores := rfl
@[simp] theorem State.modVault_lanes (s : State) (f : Vault → Vault) : (s.modVault f).lanes = s.lanes := rfl
@[simp] theorem State.modVault_pins (s : State) (f : Vault → Vault) : (s.modVault f).pins = s.pins := rfl
@[simp] theorem State.modVault_latchPcie (s : State) (f : Vault → Vault) : (s.modVault f).latchPcie = s.latchPcie := rfl
@[simp] theorem State.modVault_latchTw (s : State) (f : Vault → Vault) : (s.modVault f).latchTw = s.latchTw := rfl
@[simp] theorem State.modVault_out (s : State) (f : Vault → Vault) : (s.modVault f).out = s.out := rfl
@[simp] theorem State.modVault_freeIdx (s : State) (f : Vault → Vault) : (s.modVault f).freeIdx = s.freeIdx := rfl
@[simp] theorem State.modVault_now (s : State) (f : Vault → Vault) : (s.modVault f).now = s.now := rfl
@[simp] theorem State.modVault_pending (s : State) (f : Vault → Vault) : (s.modVault f).pending = s.pending := rfl

@[simp] theorem State.modHif_sys (s : State) (f : Hif → Hif) : (s.modHif f).sys = s.sys := rfl
@[simp] theorem State.modHif_str (s : State) (f : Hif → Hif) : (s.modHif f).str = s.str := rfl
@[simp] theorem State.modHif_pwr (s : State) (f : Hif → Hif) : (s.modHif f).pwr = s.pwr := rfl
@[simp] theorem State.modHif_evt (s : State) (f : Hif → Hif) : (s.modHif f).evt = s.evt := rfl
@[simp] theorem State.modHif_wel (s : State) (f : Hif → Hif) : (s.modHif f).wel = s.wel := rfl
@[simp] theorem State.modHif_tal (s : State) (f : Hif → Hif) : (s.modHif f).tal = s.tal := rfl
@[simp] theorem State.modHif_tim (s : State) (f : Hif → Hif) : (s.modHif f).tim = s.tim := rfl
@[simp] theorem State.modHif_key (s : State) (f : Hif → Hif) : (s.modHif f).key = s.key := rfl
@[simp] theorem State.modHif_vault (s : State) (f : Hif → Hif) : (s.modHif f).vault = s.vault := rfl
@[simp] theorem State.modHif_cst (s : State) (f : Hif → Hif) : (s.modHif f).cst = s.cst := rfl
@[simp] theorem State.modHif_tbl (s : State) (f : Hif → Hif) : (s.modHif f).tbl = s.tbl := rfl
@[simp] theorem State.modHif_fbk (s : State) (f : Hif → Hif) : (s.modHif f).fbk = s.fbk := rfl
@[simp] theorem State.modHif_stw (s : State) (f : Hif → Hif) : (s.modHif f).stw = s.stw := rfl
@[simp] theorem State.modHif_quads (s : State) (f : Hif → Hif) : (s.modHif f).quads = s.quads := rfl
@[simp] theorem State.modHif_cores (s : State) (f : Hif → Hif) : (s.modHif f).cores = s.cores := rfl
@[simp] theorem State.modHif_lanes (s : State) (f : Hif → Hif) : (s.modHif f).lanes = s.lanes := rfl
@[simp] theorem State.modHif_pins (s : State) (f : Hif → Hif) : (s.modHif f).pins = s.pins := rfl
@[simp] theorem State.modHif_latchPcie (s : State) (f : Hif → Hif) : (s.modHif f).latchPcie = s.latchPcie := rfl
@[simp] theorem State.modHif_latchTw (s : State) (f : Hif → Hif) : (s.modHif f).latchTw = s.latchTw := rfl
@[simp] theorem State.modHif_out (s : State) (f : Hif → Hif) : (s.modHif f).out = s.out := rfl
@[simp] theorem State.modHif_freeIdx (s : State) (f : Hif → Hif) : (s.modHif f).freeIdx = s.freeIdx := rfl
@[simp] theorem State.modHif_now (s : State) (f : Hif → Hif) : (s.modHif f).now = s.now := rfl
@[simp] theorem State.modHif_pending (s : State) (f : Hif → Hif) : (s.modHif f).pending = s.pending := rfl

@[simp] theorem State.modSys_str (s : State) (f : SysCtl → SysCtl) : (s.modSys f).str = s.str := rfl
@[simp] theorem State.modSys_pwr (s : State) (f : SysCtl → SysCtl) : (s.modSys f).pwr = s.pwr := rfl
@[simp] theorem State.modSys_evt (s : State) (f : SysCtl → SysCtl) : (s.modSys f).evt = s.evt := rfl
@[simp] theorem State.modSys_wel (s : State) (f : SysCtl → SysCtl) : (s.modSys f).wel = s.wel := rfl
@[simp] theorem State.modSys_tal (s : State) (f : SysCtl → SysCtl) : (s.modSys f).tal = s.tal := rfl
@[simp] theorem State.modSys_tim (s : State) (f : SysCtl → SysCtl) : (s.modSys f).tim = s.tim := rfl
@[simp] theorem State.modSys_key (s : State) (f : SysCtl → SysCtl) : (s.modSys f).key = s.key := rfl
@[simp] theorem State.modSys_hif (s : State) (f : SysCtl → SysCtl) : (s.modSys f).hif = s.hif := rfl
@[simp] theorem State.modSys_vault (s : State) (f : SysCtl → SysCtl) : (s.modSys f).vault = s.vault := rfl
@[simp] theorem State.modSys_cst (s : State) (f : SysCtl → SysCtl) : (s.modSys f).cst = s.cst := rfl
@[simp] theorem State.modSys_tbl (s : State) (f : SysCtl → SysCtl) : (s.modSys f).tbl = s.tbl := rfl
@[simp] theorem State.modSys_fbk (s : State) (f : SysCtl → SysCtl) : (s.modSys f).fbk = s.fbk := rfl
@[simp] theorem State.modSys_stw (s : State) (f : SysCtl → SysCtl) : (s.modSys f).stw = s.stw := rfl
@[simp] theorem State.modSys_quads (s : State) (f : SysCtl → SysCtl) : (s.modSys f).quads = s.quads := rfl
@[simp] theorem State.modSys_cores (s : State) (f : SysCtl → SysCtl) : (s.modSys f).cores = s.cores := rfl
@[simp] theorem State.modSys_lanes (s : State) (f : SysCtl → SysCtl) : (s.modSys f).lanes = s.lanes := rfl
@[simp] theorem State.modSys_pins (s : State) (f : SysCtl → SysCtl) : (s.modSys f).pins = s.pins := rfl
@[simp] theorem State.modSys_latchPcie (s : State) (f : SysCtl → SysCtl) : (s.modSys f).latchPcie = s.latchPcie := rfl
@[simp] theorem State.modSys_latchTw (s : State) (f : SysCtl → SysCtl) : (s.modSys f).latchTw = s.latchTw := rfl
@[simp] theorem State.modSys_out (s : State) (f : SysCtl → SysCtl) : (s.modSys f).out = s.out := rfl
@[simp] theorem State.modSys_freeIdx (s : State) (f : SysCtl → SysCtl) : (s.modSys f).freeIdx = s.freeIdx := rfl
@[simp] theorem State.modSys_now (s : State) (f : SysCtl → SysCtl) : (s.modSys f).now = s.now := rfl
@[simp] theorem State.modSys_pending (s : State) (f : SysCtl → SysCtl) : (s.modSys f).pending = s.pending := rfl

@[simp] theorem State.modPwr_sys (s : State) (f : Power → Power) : (s.modPwr f).sys = s.sys := rfl
@[simp] theorem State.modPwr_str (s : State) (f : Power → Power) : (s.modPwr f).str = s.str := rfl
@[simp] theorem State.modPwr_evt (s : State) (f : Power → Power) : (s.modPwr f).evt = s.evt := rfl
@[simp] theorem State.modPwr_wel (s : State) (f : Power → Power) : (s.modPwr f).wel = s.wel := rfl
@[simp] theorem State.modPwr_tal (s : State) (f : Power → Power) : (s.modPwr f).tal = s.tal := rfl
@[simp] theorem State.modPwr_tim (s : State) (f : Power → Power) : (s.modPwr f).tim = s.tim := rfl
@[simp] theorem State.modPwr_key (s : State) (f : Power → Power) : (s.modPwr f).key = s.key := rfl
@[simp] theorem State.modPwr_hif (s : State) (f : Power → Power) : (s.modPwr f).hif = s.hif := rfl
@[simp] theorem State.modPwr_vault (s : State) (f : Power → Power) : (s.modPwr f).vault = s.vault := rfl
@[simp] theorem State.modPwr_cst (s : State) (f : Power → Power) : (s.modPwr f).cst = s.cst := rfl
@[simp] theorem State.modPwr_tbl (s : State) (f : Power → Power) : (s.modPwr f).tbl = s.tbl := rfl
@[simp] theorem State.modPwr_fbk (s : State) (f : Power → Power) : (s.modPwr f).fbk = s.fbk := rfl
@[simp] theorem State.modPwr_stw (s : State) (f : Power → Power) : (s.modPwr f).stw = s.stw := rfl
@[simp] theorem State.modPwr_quads (s : State) (f : Power → Power) : (s.modPwr f).quads = s.quads := rfl
@[simp] theorem State.modPwr_cores (s : State) (f : Power → Power) : (s.modPwr f).cores = s.cores := rfl
@[simp] theorem State.modPwr_lanes (s : State) (f : Power → Power) : (s.modPwr f).lanes = s.lanes := rfl
@[simp] theorem State.modPwr_pins (s : State) (f : Power → Power) : (s.modPwr f).pins = s.pins := rfl
@[simp] theorem State.modPwr_latchPcie (s : State) (f : Power → Power) : (s.modPwr f).latchPcie = s.latchPcie := rfl
@[simp] theorem State.modPwr_latchTw (s : State) (f : Power → Power) : (s.modPwr f).latchTw = s.latchTw := rfl
@[simp] theorem State.modPwr_out (s : State) (f : Power → Power) : (s.modPwr f).out = s.out := rfl
@[simp] theorem State.modPwr_freeIdx (s : State) (f : Power → Power) : (s.modPwr f).freeIdx = s.freeIdx := rfl
@[simp] theorem State.modPwr_now (s : State) (f : Power → Power) : (s.modPwr f).now = s.now := rfl
@[simp] theorem State.modPwr_pending (s : State) (f : Power → Power) : (s.modPwr f).pending = s.pending := rfl

@[simp] theorem State.modCst_sys (s : State) (f : Cistern → Cistern) : (s.modCst f).sys = s.sys := rfl
@[simp] theorem State.modCst_str (s : State) (f : Cistern → Cistern) : (s.modCst f).str = s.str := rfl
@[simp] theorem State.modCst_pwr (s : State) (f : Cistern → Cistern) : (s.modCst f).pwr = s.pwr := rfl
@[simp] theorem State.modCst_evt (s : State) (f : Cistern → Cistern) : (s.modCst f).evt = s.evt := rfl
@[simp] theorem State.modCst_wel (s : State) (f : Cistern → Cistern) : (s.modCst f).wel = s.wel := rfl
@[simp] theorem State.modCst_tal (s : State) (f : Cistern → Cistern) : (s.modCst f).tal = s.tal := rfl
@[simp] theorem State.modCst_tim (s : State) (f : Cistern → Cistern) : (s.modCst f).tim = s.tim := rfl
@[simp] theorem State.modCst_key (s : State) (f : Cistern → Cistern) : (s.modCst f).key = s.key := rfl
@[simp] theorem State.modCst_hif (s : State) (f : Cistern → Cistern) : (s.modCst f).hif = s.hif := rfl
@[simp] theorem State.modCst_vault (s : State) (f : Cistern → Cistern) : (s.modCst f).vault = s.vault := rfl
@[simp] theorem State.modCst_tbl (s : State) (f : Cistern → Cistern) : (s.modCst f).tbl = s.tbl := rfl
@[simp] theorem State.modCst_fbk (s : State) (f : Cistern → Cistern) : (s.modCst f).fbk = s.fbk := rfl
@[simp] theorem State.modCst_stw (s : State) (f : Cistern → Cistern) : (s.modCst f).stw = s.stw := rfl
@[simp] theorem State.modCst_quads (s : State) (f : Cistern → Cistern) : (s.modCst f).quads = s.quads := rfl
@[simp] theorem State.modCst_cores (s : State) (f : Cistern → Cistern) : (s.modCst f).cores = s.cores := rfl
@[simp] theorem State.modCst_lanes (s : State) (f : Cistern → Cistern) : (s.modCst f).lanes = s.lanes := rfl
@[simp] theorem State.modCst_pins (s : State) (f : Cistern → Cistern) : (s.modCst f).pins = s.pins := rfl
@[simp] theorem State.modCst_latchPcie (s : State) (f : Cistern → Cistern) : (s.modCst f).latchPcie = s.latchPcie := rfl
@[simp] theorem State.modCst_latchTw (s : State) (f : Cistern → Cistern) : (s.modCst f).latchTw = s.latchTw := rfl
@[simp] theorem State.modCst_out (s : State) (f : Cistern → Cistern) : (s.modCst f).out = s.out := rfl
@[simp] theorem State.modCst_freeIdx (s : State) (f : Cistern → Cistern) : (s.modCst f).freeIdx = s.freeIdx := rfl
@[simp] theorem State.modCst_now (s : State) (f : Cistern → Cistern) : (s.modCst f).now = s.now := rfl
@[simp] theorem State.modCst_pending (s : State) (f : Cistern → Cistern) : (s.modCst f).pending = s.pending := rfl

@[simp] theorem State.modTim_sys (s : State) (f : Time → Time) : (s.modTim f).sys = s.sys := rfl
@[simp] theorem State.modTim_str (s : State) (f : Time → Time) : (s.modTim f).str = s.str := rfl
@[simp] theorem State.modTim_pwr (s : State) (f : Time → Time) : (s.modTim f).pwr = s.pwr := rfl
@[simp] theorem State.modTim_evt (s : State) (f : Time → Time) : (s.modTim f).evt = s.evt := rfl
@[simp] theorem State.modTim_wel (s : State) (f : Time → Time) : (s.modTim f).wel = s.wel := rfl
@[simp] theorem State.modTim_tal (s : State) (f : Time → Time) : (s.modTim f).tal = s.tal := rfl
@[simp] theorem State.modTim_key (s : State) (f : Time → Time) : (s.modTim f).key = s.key := rfl
@[simp] theorem State.modTim_hif (s : State) (f : Time → Time) : (s.modTim f).hif = s.hif := rfl
@[simp] theorem State.modTim_vault (s : State) (f : Time → Time) : (s.modTim f).vault = s.vault := rfl
@[simp] theorem State.modTim_cst (s : State) (f : Time → Time) : (s.modTim f).cst = s.cst := rfl
@[simp] theorem State.modTim_tbl (s : State) (f : Time → Time) : (s.modTim f).tbl = s.tbl := rfl
@[simp] theorem State.modTim_fbk (s : State) (f : Time → Time) : (s.modTim f).fbk = s.fbk := rfl
@[simp] theorem State.modTim_stw (s : State) (f : Time → Time) : (s.modTim f).stw = s.stw := rfl
@[simp] theorem State.modTim_quads (s : State) (f : Time → Time) : (s.modTim f).quads = s.quads := rfl
@[simp] theorem State.modTim_cores (s : State) (f : Time → Time) : (s.modTim f).cores = s.cores := rfl
@[simp] theorem State.modTim_lanes (s : State) (f : Time → Time) : (s.modTim f).lanes = s.lanes := rfl
@[simp] theorem State.modTim_pins (s : State) (f : Time → Time) : (s.modTim f).pins = s.pins := rfl
@[simp] theorem State.modTim_latchPcie (s : State) (f : Time → Time) : (s.modTim f).latchPcie = s.latchPcie := rfl
@[simp] theorem State.modTim_latchTw (s : State) (f : Time → Time) : (s.modTim f).latchTw = s.latchTw := rfl
@[simp] theorem State.modTim_out (s : State) (f : Time → Time) : (s.modTim f).out = s.out := rfl
@[simp] theorem State.modTim_freeIdx (s : State) (f : Time → Time) : (s.modTim f).freeIdx = s.freeIdx := rfl
@[simp] theorem State.modTim_now (s : State) (f : Time → Time) : (s.modTim f).now = s.now := rfl
@[simp] theorem State.modTim_pending (s : State) (f : Time → Time) : (s.modTim f).pending = s.pending := rfl

@[simp] theorem State.modStr_sys (s : State) (f : Loader → Loader) : (s.modStr f).sys = s.sys := rfl
@[simp] theorem State.modStr_pwr (s : State) (f : Loader → Loader) : (s.modStr f).pwr = s.pwr := rfl
@[simp] theorem State.modStr_evt (s : State) (f : Loader → Loader) : (s.modStr f).evt = s.evt := rfl
@[simp] theorem State.modStr_wel (s : State) (f : Loader → Loader) : (s.modStr f).wel = s.wel := rfl
@[simp] theorem State.modStr_tal (s : State) (f : Loader → Loader) : (s.modStr f).tal = s.tal := rfl
@[simp] theorem State.modStr_tim (s : State) (f : Loader → Loader) : (s.modStr f).tim = s.tim := rfl
@[simp] theorem State.modStr_key (s : State) (f : Loader → Loader) : (s.modStr f).key = s.key := rfl
@[simp] theorem State.modStr_hif (s : State) (f : Loader → Loader) : (s.modStr f).hif = s.hif := rfl
@[simp] theorem State.modStr_vault (s : State) (f : Loader → Loader) : (s.modStr f).vault = s.vault := rfl
@[simp] theorem State.modStr_cst (s : State) (f : Loader → Loader) : (s.modStr f).cst = s.cst := rfl
@[simp] theorem State.modStr_tbl (s : State) (f : Loader → Loader) : (s.modStr f).tbl = s.tbl := rfl
@[simp] theorem State.modStr_fbk (s : State) (f : Loader → Loader) : (s.modStr f).fbk = s.fbk := rfl
@[simp] theorem State.modStr_stw (s : State) (f : Loader → Loader) : (s.modStr f).stw = s.stw := rfl
@[simp] theorem State.modStr_quads (s : State) (f : Loader → Loader) : (s.modStr f).quads = s.quads := rfl
@[simp] theorem State.modStr_cores (s : State) (f : Loader → Loader) : (s.modStr f).cores = s.cores := rfl
@[simp] theorem State.modStr_lanes (s : State) (f : Loader → Loader) : (s.modStr f).lanes = s.lanes := rfl
@[simp] theorem State.modStr_pins (s : State) (f : Loader → Loader) : (s.modStr f).pins = s.pins := rfl
@[simp] theorem State.modStr_latchPcie (s : State) (f : Loader → Loader) : (s.modStr f).latchPcie = s.latchPcie := rfl
@[simp] theorem State.modStr_latchTw (s : State) (f : Loader → Loader) : (s.modStr f).latchTw = s.latchTw := rfl
@[simp] theorem State.modStr_out (s : State) (f : Loader → Loader) : (s.modStr f).out = s.out := rfl
@[simp] theorem State.modStr_freeIdx (s : State) (f : Loader → Loader) : (s.modStr f).freeIdx = s.freeIdx := rfl
@[simp] theorem State.modStr_now (s : State) (f : Loader → Loader) : (s.modStr f).now = s.now := rfl
@[simp] theorem State.modStr_pending (s : State) (f : Loader → Loader) : (s.modStr f).pending = s.pending := rfl

/-! ### What is read after an update of one unit -/

@[simp] theorem State.tookFree_freeIdx (s : State) : s.tookFree.freeIdx = s.freeIdx + 1 := rfl
@[simp] theorem State.emit_out (s : State) (o : Out) : (s.emit o).out = o :: s.out := rfl
@[simp] theorem State.modKey_key (s : State) (f : KeyIsland → KeyIsland) : (s.modKey f).key = f s.key := rfl
@[simp] theorem State.modVault_vault (s : State) (f : Vault → Vault) : (s.modVault f).vault = f s.vault := rfl
@[simp] theorem State.modHif_hif (s : State) (f : Hif → Hif) : (s.modHif f).hif = f s.hif := rfl
@[simp] theorem State.modSys_sys (s : State) (f : SysCtl → SysCtl) : (s.modSys f).sys = f s.sys := rfl
@[simp] theorem State.modPwr_pwr (s : State) (f : Power → Power) : (s.modPwr f).pwr = f s.pwr := rfl
@[simp] theorem State.modCst_cst (s : State) (f : Cistern → Cistern) : (s.modCst f).cst = f s.cst := rfl
@[simp] theorem State.modTim_tim (s : State) (f : Time → Time) : (s.modTim f).tim = f s.tim := rfl
@[simp] theorem State.modStr_str (s : State) (f : Loader → Loader) : (s.modStr f).str = f s.str := rfl

@[simp] theorem State.lane_modLane_same (s : State) (n : LaneId) (f : Lane → Lane) : (s.modLane n f).lane n = f (s.lane n) := by
  simp [State.modLane, State.lane]
theorem State.lane_modLane_ne (s : State) {m n : LaneId} (f : Lane → Lane) (h : m ≠ n) : (s.modLane n f).lane m = s.lane m := by
  have : n.val ≠ m.val := fun e => h (Fin.ext e.symm)
  simp [State.modLane, State.lane, this]
@[simp] theorem State.quad_modQuad_same (s : State) (q : QuadId) (f : Quad → Quad) : (s.modQuad q f).quad q = f (s.quad q) := by
  simp [State.modQuad, State.quad]
theorem State.quad_modQuad_ne (s : State) {p q : QuadId} (f : Quad → Quad) (h : p ≠ q) : (s.modQuad q f).quad p = s.quad p := by
  have : q.val ≠ p.val := fun e => h (Fin.ext e.symm)
  simp [State.modQuad, State.quad, this]
@[simp] theorem State.core_modCore_same (s : State) (k : CoreId) (f : Core → Core) : (s.modCore k f).core k = f (s.core k) := by
  simp [State.modCore, State.core]
theorem State.core_modCore_ne (s : State) {j k : CoreId} (f : Core → Core) (h : j ≠ k) : (s.modCore k f).core j = s.core j := by
  have : k.val ≠ j.val := fun e => h (Fin.ext e.symm)
  simp [State.modCore, State.core, this]
@[simp] theorem State.steward_modStw_same (s : State) (q : QuadId) (f : Steward → Steward) :
    (s.modStw q f).steward q = f (s.steward q) := by
  simp [State.modStw, State.steward]
theorem State.steward_modStw_ne (s : State) {p q : QuadId} (f : Steward → Steward) (h : p ≠ q) :
    (s.modStw q f).steward p = s.steward p := by
  have : q.val ≠ p.val := fun e => h (Fin.ext e.symm)
  simp [State.modStw, State.steward, this]

/-- A quadrant's number and its index name the same one. -/
theorem State.modQuadN_val (s : State) (q : QuadId) (f : Quad → Quad) : s.modQuadN q.val f = s.modQuad q f := by
  simp [State.modQuadN, State.modQuad, vmod]
theorem State.vget_quads (s : State) (q : QuadId) : vget {} s.quads q.val = s.quad q := by simp [vget, State.quad]
theorem State.vget_lanes (s : State) (n : LaneId) : vget {} s.lanes n.val = s.lane n := by simp [vget, State.lane]

/-! ### The parts of a lane -/

theorem State.modCom_eq (s : State) (n : LaneId) (f : LaneCommon → LaneCommon) : s.modCom n f = s.modLane n fun l => { l with com := f l.com } := rfl
@[simp] theorem State.lane_modCom_same (s : State) (n : LaneId) (f : LaneCommon → LaneCommon) :
    (s.modCom n f).lane n = { s.lane n with com := f (s.lane n).com } := State.lane_modLane_same s n _
theorem State.lane_modCom_ne (s : State) {m n : LaneId} (f : LaneCommon → LaneCommon) (h : m ≠ n) : (s.modCom n f).lane m = s.lane m :=
  State.lane_modLane_ne s _ h

theorem State.modDs_eq (s : State) (n : LaneId) (f : LineDs → LineDs) : s.modDs n f = s.modLane n fun l => { l with ds := f l.ds } := rfl
@[simp] theorem State.lane_modDs_same (s : State) (n : LaneId) (f : LineDs → LineDs) :
    (s.modDs n f).lane n = { s.lane n with ds := f (s.lane n).ds } := State.lane_modLane_same s n _
theorem State.lane_modDs_ne (s : State) {m n : LaneId} (f : LineDs → LineDs) (h : m ≠ n) : (s.modDs n f).lane m = s.lane m :=
  State.lane_modLane_ne s _ h

theorem State.modAct_eq (s : State) (n : LaneId) (f : Act5 → Act5) : s.modAct n f = s.modLane n fun l => { l with act := f l.act } := rfl
@[simp] theorem State.lane_modAct_same (s : State) (n : LaneId) (f : Act5 → Act5) :
    (s.modAct n f).lane n = { s.lane n with act := f (s.lane n).act } := State.lane_modLane_same s n _
theorem State.lane_modAct_ne (s : State) {m n : LaneId} (f : Act5 → Act5) (h : m ≠ n) : (s.modAct n f).lane m = s.lane m :=
  State.lane_modLane_ne s _ h

theorem State.modPump_eq (s : State) (n : LaneId) (f : Pump → Pump) : s.modPump n f = s.modLane n fun l => { l with pump := f l.pump } := rfl
@[simp] theorem State.lane_modPump_same (s : State) (n : LaneId) (f : Pump → Pump) :
    (s.modPump n f).lane n = { s.lane n with pump := f (s.lane n).pump } := State.lane_modLane_same s n _
theorem State.lane_modPump_ne (s : State) {m n : LaneId} (f : Pump → Pump) (h : m ≠ n) : (s.modPump n f).lane m = s.lane m :=
  State.lane_modLane_ne s _ h

theorem State.modBond_eq (s : State) (n : LaneId) (f : Member → Member) : s.modBond n f = s.modLane n fun l => { l with bond := f l.bond } := rfl
@[simp] theorem State.lane_modBond_same (s : State) (n : LaneId) (f : Member → Member) :
    (s.modBond n f).lane n = { s.lane n with bond := f (s.lane n).bond } := State.lane_modLane_same s n _
theorem State.lane_modBond_ne (s : State) {m n : LaneId} (f : Member → Member) (h : m ≠ n) : (s.modBond n f).lane m = s.lane m :=
  State.lane_modLane_ne s _ h

theorem State.modEth_eq (s : State) (n : LaneId) (f : EthPort → EthPort) : s.modEth n f = s.modLane n fun l => { l with eth := f l.eth } := rfl
@[simp] theorem State.lane_modEth_same (s : State) (n : LaneId) (f : EthPort → EthPort) :
    (s.modEth n f).lane n = { s.lane n with eth := f (s.lane n).eth } := State.lane_modLane_same s n _
theorem State.lane_modEth_ne (s : State) {m n : LaneId} (f : EthPort → EthPort) (h : m ≠ n) : (s.modEth n f).lane m = s.lane m :=
  State.lane_modLane_ne s _ h

theorem State.modSdh_eq (s : State) (n : LaneId) (f : SdhPort → SdhPort) : s.modSdh n f = s.modLane n fun l => { l with sdh := f l.sdh } := rfl
@[simp] theorem State.lane_modSdh_same (s : State) (n : LaneId) (f : SdhPort → SdhPort) :
    (s.modSdh n f).lane n = { s.lane n with sdh := f (s.lane n).sdh } := State.lane_modLane_same s n _
theorem State.lane_modSdh_ne (s : State) {m n : LaneId} (f : SdhPort → SdhPort) (h : m ≠ n) : (s.modSdh n f).lane m = s.lane m :=
  State.lane_modLane_ne s _ h

theorem State.modHb_eq (s : State) (n : LaneId) (f : HostBond → HostBond) : s.modHb n f = s.modLane n fun l => { l with hb := f l.hb } := rfl
@[simp] theorem State.lane_modHb_same (s : State) (n : LaneId) (f : HostBond → HostBond) :
    (s.modHb n f).lane n = { s.lane n with hb := f (s.lane n).hb } := State.lane_modLane_same s n _
theorem State.lane_modHb_ne (s : State) {m n : LaneId} (f : HostBond → HostBond) (h : m ≠ n) : (s.modHb n f).lane m = s.lane m :=
  State.lane_modLane_ne s _ h

theorem State.modTs_eq (s : State) (n : LaneId) (f : LaneTs → LaneTs) : s.modTs n f = s.modLane n fun l => { l with ts := f l.ts } := rfl
@[simp] theorem State.lane_modTs_same (s : State) (n : LaneId) (f : LaneTs → LaneTs) :
    (s.modTs n f).lane n = { s.lane n with ts := f (s.lane n).ts } := State.lane_modLane_same s n _
theorem State.lane_modTs_ne (s : State) {m n : LaneId} (f : LaneTs → LaneTs) (h : m ≠ n) : (s.modTs n f).lane m = s.lane m :=
  State.lane_modLane_ne s _ h

end Sys2Proof.Machine
end

