-- ==== Sys2Proof/Laws/Tab.lean ====
section
/-!
SUPPORT. Sparse tables: the canonical form that every operation keeps, and what an entry reads as after a change.
-/
namespace Sys2Proof.Machine

variable {α : Type}

/-- Keys rise strictly: the first lies below all others. -/
theorem Tab.sorted_cons {j : Nat} {x : α} {t : Tab α} :
    Tab.sorted ((j, x) :: t) = true ↔ (∀ p ∈ t, j < p.1) ∧ Tab.sorted t = true := by
  induction t generalizing j x with
  | nil => simp [Tab.sorted]
  | cons p t ih =>
    obtain ⟨k, y⟩ := p
    simp only [Tab.sorted, Bool.and_eq_true, decide_eq_true_eq]
    constructor
    · rintro ⟨h, hs⟩
      refine ⟨?_, hs⟩
      intro p hp
      rcases List.mem_cons.mp hp with rfl | hp
      · exact h
      · exact Nat.lt_trans h ((ih.mp hs).1 p hp)
    · rintro ⟨h, hs⟩
      exact ⟨h _ (List.mem_cons_self ..), hs⟩

/-- Nothing is found below every key. -/
theorem Tab.find_below {t : Tab α} {k : Nat} (h : ∀ p ∈ t, k < p.1) : Tab.find t k = none := by
  cases t with
  | nil => rfl
  | cons p t =>
    have := h p (List.mem_cons_self ..)
    simp [Tab.find, Nat.ne_of_gt this, this]

theorem Tab.mem_del {t : Tab α} {k : Nat} {p : Nat × α} (h : p ∈ Tab.del t k) : p ∈ t := by
  induction t with
  | nil => exact h
  | cons q t ih =>
    obtain ⟨j, x⟩ := q
    simp only [Tab.del] at h
    split at h
    · exact List.mem_cons_of_mem _ h
    · split at h
      · exact h
      · rcases List.mem_cons.mp h with rfl | h
        · exact List.mem_cons_self ..
        · exact List.mem_cons_of_mem _ (ih h)

theorem Tab.mem_ins {t : Tab α} {k : Nat} {y : α} {p : Nat × α} (h : p ∈ Tab.ins t k y) : p = (k, y) ∨ p ∈ t := by
  induction t with
  | nil => simpa [Tab.ins] using h
  | cons q t ih =>
    obtain ⟨j, x⟩ := q
    simp only [Tab.ins] at h
    split at h
    · rcases List.mem_cons.mp h with rfl | h
      · exact .inl rfl
      · exact .inr (List.mem_cons_of_mem _ h)
    · split at h
      · rcases List.mem_cons.mp h with rfl | h
        · exact .inl rfl
        · exact .inr h
      · rcases List.mem_cons.mp h with rfl | h
        · exact .inr (List.mem_cons_self ..)
        · exact (ih h).imp id (List.mem_cons_of_mem _)

theorem Tab.sorted_del {t : Tab α} (k : Nat) (h : Tab.sorted t = true) : Tab.sorted (Tab.del t k) = true := by
  induction t with
  | nil => rfl
  | cons q t ih =>
    obtain ⟨j, x⟩ := q
    obtain ⟨ha, hs⟩ := Tab.sorted_cons.mp h
    simp only [Tab.del]
    split
    · exact hs
    · split
      · exact h
      · exact Tab.sorted_cons.mpr ⟨fun p hp => ha p (Tab.mem_del hp), ih hs⟩

theorem Tab.sorted_ins {t : Tab α} (k : Nat) (y : α) (h : Tab.sorted t = true) : Tab.sorted (Tab.ins t k y) = true := by
  induction t with
  | nil => rfl
  | cons q t ih =>
    obtain ⟨j, x⟩ := q
    obtain ⟨ha, hs⟩ := Tab.sorted_cons.mp h
    simp only [Tab.ins]
    split
    · next e => subst e; exact Tab.sorted_cons.mpr ⟨ha, hs⟩
    · split
      · next _ hk =>
        refine Tab.sorted_cons.mpr ⟨?_, h⟩
        intro p hp
        rcases List.mem_cons.mp hp with rfl | hp
        · exact hk
        · exact Nat.lt_trans hk (ha p hp)
      · refine Tab.sorted_cons.mpr ⟨?_, ih hs⟩
        intro p hp
        rcases Tab.mem_ins hp with rfl | hp
        · simp only; omega
        · exact ha p hp

theorem Tab.find_ins_same (t : Tab α) (k : Nat) (y : α) : Tab.find (Tab.ins t k y) k = some y := by
  induction t with
  | nil => simp [Tab.ins, Tab.find]
  | cons q t ih =>
    obtain ⟨j, x⟩ := q
    simp only [Tab.ins]
    split
    · simp [Tab.find]
    · split
      · simp [Tab.find]
      · next h1 h2 => simp [Tab.find, h1, h2, ih]

theorem Tab.find_ins_ne {t : Tab α} {k i : Nat} (y : α) (hk : i ≠ k) (h : Tab.sorted t = true) :
    Tab.find (Tab.ins t k y) i = Tab.find t i := by
  induction t with
  | nil => simp [Tab.ins, Tab.find, hk.symm]
  | cons q t ih =>
    obtain ⟨j, x⟩ := q
    obtain ⟨ha, hs⟩ := Tab.sorted_cons.mp h
    simp only [Tab.ins]
    split
    · next e => subst e; simp [Tab.find, hk.symm]
    · split
      · next _ hj =>
        simp only [Tab.find, hk.symm, if_false]
        split
        · next hi => simp [Nat.ne_of_gt (Nat.lt_trans hi hj), Nat.lt_trans hi hj]
        · rfl
      · simp only [Tab.find, ih hs]

theorem Tab.find_del_same {t : Tab α} {k : Nat} (h : Tab.sorted t = true) : Tab.find (Tab.del t k) k = none := by
  induction t with
  | nil => rfl
  | cons q t ih =>
    obtain ⟨j, x⟩ := q
    obtain ⟨ha, hs⟩ := Tab.sorted_cons.mp h
    simp only [Tab.del]
    split
    · next e => subst e; exact Tab.find_below ha
    · split
      · next h1 h2 => simp [Tab.find, h1, h2]
      · next h1 h2 => simp [Tab.find, h1, h2, ih hs]

theorem Tab.find_del_ne {t : Tab α} {k i : Nat} (hk : i ≠ k) (h : Tab.sorted t = true) :
    Tab.find (Tab.del t k) i = Tab.find t i := by
  induction t with
  | nil => rfl
  | cons q t ih =>
    obtain ⟨j, x⟩ := q
    obtain ⟨ha, hs⟩ := Tab.sorted_cons.mp h
    simp only [Tab.del]
    split
    · next e =>
      subst e
      simp only [Tab.find, hk.symm, if_false]
      split
      · next hi => exact Tab.find_below fun p hp => Nat.lt_trans hi (ha p hp)
      · rfl
    · split
      · rfl
      · simp only [Tab.find, ih hs]

variable [DecidableEq α]

theorem Tab.wf_iff {d : α} {t : Tab α} : Tab.wf d t = true ↔ Tab.sorted t = true ∧ ∀ p ∈ t, p.2 ≠ d := by
  simp [Tab.wf]

/-- Setting an entry keeps the canonical form. -/
theorem Tab.wf_put {d : α} {t : Tab α} (k : Nat) (y : α) (h : Tab.wf d t = true) : Tab.wf d (Tab.put d t k y) = true := by
  obtain ⟨hs, hd⟩ := Tab.wf_iff.mp h
  simp only [Tab.put]
  split
  · exact Tab.wf_iff.mpr ⟨Tab.sorted_del k hs, fun p hp => hd p (Tab.mem_del hp)⟩
  · next hy =>
    refine Tab.wf_iff.mpr ⟨Tab.sorted_ins k y hs, fun p hp => ?_⟩
    rcases Tab.mem_ins hp with rfl | hp
    · exact hy
    · exact hd p hp

/-- Changing an entry keeps the canonical form. -/
theorem Tab.wf_mod {d : α} {t : Tab α} (k : Nat) (f : α → α) (h : Tab.wf d t = true) : Tab.wf d (Tab.mod d t k f) = true :=
  Tab.wf_put k _ h

/-- Removing entries keeps the canonical form. -/
theorem Tab.wf_filter {d : α} {t : Tab α} (p : Nat × α → Bool) (h : Tab.wf d t = true) : Tab.wf d (List.filter p t) = true := by
  obtain ⟨hs, hd⟩ := Tab.wf_iff.mp h
  refine Tab.wf_iff.mpr ⟨?_, fun q hq => hd q (List.mem_filter.mp hq).1⟩
  clear h hd
  induction t with
  | nil => rfl
  | cons q t ih =>
    obtain ⟨j, x⟩ := q
    obtain ⟨ha, hs⟩ := Tab.sorted_cons.mp hs
    by_cases hp : p (j, x) = true
    · rw [List.filter_cons_of_pos hp]
      exact Tab.sorted_cons.mpr ⟨fun r hr => ha r (List.mem_filter.mp hr).1, ih hs⟩
    · rw [List.filter_cons_of_neg hp]
      exact ih hs

/-- An entry that has been set reads as set. -/
theorem Tab.get_put_same {d : α} {t : Tab α} (k : Nat) (y : α) (h : Tab.sorted t = true) : Tab.get d (Tab.put d t k y) k = y := by
  simp only [Tab.get, Tab.put]
  split
  · next e => simp [Tab.find_del_same h, e]
  · simp [Tab.find_ins_same]

/-- Every other entry reads as before. -/
theorem Tab.get_put_ne {d : α} {t : Tab α} {k i : Nat} (y : α) (hk : i ≠ k) (h : Tab.sorted t = true) :
    Tab.get d (Tab.put d t k y) i = Tab.get d t i := by
  simp only [Tab.get, Tab.put]
  split
  · rw [Tab.find_del_ne hk h]
  · rw [Tab.find_ins_ne y hk h]

end Sys2Proof.Machine
end

