-- ==== Sys2Proof/WellFormed.lean ====
section
/-!
DEFINITION. Well-formed commands: what a command's operands must satisfy beyond their types, because the spec gives the thing they
stand for a bound or a shape. The meanings are total: they answer ill-formed commands too.
-/
namespace Sys2Proof

/-- A register address is the address of a register word (R15, R472): a multiple of 4. -/
def RegAddr.aligned : RegAddr → Bool
  | .bar0 a => a.toNat % 4 == 0
  | .bar2 a => a.toNat % 4 == 0
  | .bar4 a => a.toNat % 4 == 0

/-- A bit position in a frame of 155,520 bytes (R110, R250). -/
def framePos (pos : Nat) : Bool := decide (pos < 1244160)

/-- The payload of an XGEM frame is as long as its header says, padded to a multiple of 4 bytes (R122). -/
def xgemShape (h : Hec XgemHdr) (payload : List Byte) : Bool :=
  match h.val with
  | some v => decide (payload.length = (v.pli.toNat + 3) / 4 * 4)
  | none => true

/-- A command's operands lie in the ranges that the spec gives them. -/
def Instr.wf : Instr → Bool
  | .loadDone _ bytes => decide (bytes.length ≤ 4194304)
  | .registerWrite _ a _ => a.aligned
  | .gatedAccess _ a _ => a.toNat % 4 == 0
  | .psyncCandidate _ pos => framePos pos
  | .candidateCheckPoint _ pos errs _ _ _ => framePos pos && decide (errs ≤ 64)
  | .dsFrame _ errs _ _ _ => decide (errs ≤ 64)
  | .fecCodeword _ errs => decide (errs ≤ 248)
  | .allocStructure _ idx _ => decide (idx < 2048)
  | .xgemFrameRx _ h _ payload => xgemShape h payload
  | .cisternToTroughMove _ j => decide (j < 4096)
  | .lateCisternFrame _ j => decide (j < 4096)
  | .sdhCandidate _ pos _ => framePos pos
  | .sdhCheckPoint _ pos _ => framePos pos
  | .sdhFrame _ bytes => decide (bytes.length = 155520)
  | .vcatMemberFrame _ _ f => decide (f.payload.length = 2340)
  | .stwCmdDone _ bytes _ => decide (bytes.length ≤ 262336)
  | .linkChange speed width => decide (speed.toNat ≤ 4) && (width == 0 || width == 1 || width == 2 || width == 4)
  | .inject descs => descs.all fun d => decide (d.data.length = d.len.toNat)
  | .eventReport _ sev detail => decide (sev.toNat ≤ 4 ∧ detail.length ≤ 64)
  | .tallyOccurrence sel _ _ _ => decide (sel.toNat ≤ 0x80)
  | .lookasideComplete _ _ tag => decide (tag.length = 16)
  -- every value that the operands' types hold
  | .powerUp => true
  | .railUndervolt => true
  | .reset .. => true
  | .bootGo .. => true
  | .bootApply .. => true
  | .keyReady => true
  | .load .. => true
  | .verify .. => true
  | .verifyDone => true
  | .apply .. => true
  | .applyDone .. => true
  | .applyFail .. => true
  | .commit .. => true
  | .commitDone .. => true
  | .abandon .. => true
  | .abandonDone .. => true
  | .eqUpdate .. => true
  | .eqLimit .. => true
  | .seedLoaded .. => true
  | .rxRestart .. => true
  | .eqFreeze .. => true
  | .tapWrite .. => true
  | .signalDetectSet .. => true
  | .signalDetectClear .. => true
  | .cdrLock .. => true
  | .cdrLockLost .. => true
  | .adaptFastDone .. => true
  | .noiseReport .. => true
  | .refclkLoss .. => true
  | .refclkReturn .. => true
  | .refclkGate .. => true
  | .txinhFall .. => true
  | .txinhRise => true
  | .txSquelch .. => true
  | .genEn .. => true
  | .checkerLock .. => true
  | .checkerLockLoss .. => true
  | .prbsErrRead .. => true
  | .injSingle .. => true
  | .injBurst .. => true
  | .seedDataWrite .. => true
  | .hbMarkerRx .. => true
  | .hbHandshakeRx .. => true
  | .hbHandshakeTx .. => true
  | .hbCommitDone .. => true
  | .hbTimeout .. => true
  | .hbAlignTimeout .. => true
  | .hbRestart .. => true
  | .huntRestart .. => true
  | .fecWindowEnd .. => true
  | .fecThWrite .. => true
  | .dsPloam .. => true
  | .reassemblyTimeout .. => true
  | .portTableWrite .. => true
  | .dsCntClr .. => true
  | .dsWinAccess .. => true
  | .burstProfileMsg .. => true
  | .assignOnuId .. => true
  | .rangingTime .. => true
  | .tuningControl .. => true
  | .channelProfile .. => true
  | .deactivateOnuId .. => true
  | .disableSerialNumber .. => true
  | .assignAllocId .. => true
  | .keyControl .. => true
  | .ploamUnexpected .. => true
  | .keyReportHandoff .. => true
  | .to1Expire .. => true
  | .to2Expire .. => true
  | .to4Expire .. => true
  | .to5Expire .. => true
  | .tuneScheduledCount .. => true
  | .tuneAck .. => true
  | .scanDwell .. => true
  | .stwLaneData .. => true
  | .bcastKey .. => true
  | .clearRogue .. => true
  | .clearDisable .. => true
  | .restartLane .. => true
  | .rogueTrip .. => true
  | .loadFw .. => true
  | .swapFw .. => true
  | .swapFwHalt .. => true
  | .swapFwCheck .. => true
  | .commitFw .. => true
  | .stewardHeartbeatMiss .. => true
  | .optGo .. => true
  | .optDone .. => true
  | .optTimeout .. => true
  | .grant .. => true
  | .burstAssemble .. => true
  | .burstServe .. => true
  | .burstEnd .. => true
  | .usCntClr .. => true
  | .usWinAccess .. => true
  | .bondCapsTimer .. => true
  | .bondJoin .. => true
  | .bondHello .. => true
  | .bondLeave .. => true
  | .bondIndep .. => true
  | .bondMessageDrop .. => true
  | .bondHelloTx .. => true
  | .bondHelloTimeout .. => true
  | .bondProbeTimeout .. => true
  | .bondPsyncStamp .. => true
  | .skewSduWrite .. => true
  | .skewSlotRelease .. => true
  | .groupEnable .. => true
  | .groupDisable .. => true
  | .grpDataAccess .. => true
  | .skwRestart .. => true
  | .spreadRemap .. => true
  | .spreadFill .. => true
  | .spreadCmdDone => true
  | .sprDataAccess .. => true
  | .vcatRecover .. => true
  | .anComplete .. => true
  | .linkUpTimer .. => true
  | .blockLockLost .. => true
  | .faultOrderedSet .. => true
  | .anRestart .. => true
  | .ethFrameRx .. => true
  | .pauseTx .. => true
  | .pauseRefresh .. => true
  | .pauseExpire .. => true
  | .pauseCfgWrite .. => true
  | .ethFecWindow .. => true
  | .ethTxFrame .. => true
  | .ethCntClr .. => true
  | .ethWinAccess .. => true
  | .sdhLofTimer .. => true
  | .sdhHuntRestart .. => true
  | .sdhSdWindow .. => true
  | .tribSeal .. => true
  | .tribBlockRx .. => true
  | .sdhTxFrame .. => true
  | .tribEntryWrite .. => true
  | .pmSecond .. => true
  | .pmBinClose .. => true
  | .sdhCntClr .. => true
  | .pmClr .. => true
  | .sdhWinAccess .. => true
  | .classify .. => true
  | .rallyPass .. => true
  | .clsSwap .. => true
  | .clsSwapDrained .. => true
  | .epochRetire .. => true
  | .clsCopy .. => true
  | .clsClear .. => true
  | .clsCmdDone .. => true
  | .ruleWrite .. => true
  | .fragTimeout .. => true
  | .fragFlush .. => true
  | .sumpClr .. => true
  | .sumpDataRead .. => true
  | .prsDeepCntRead .. => true
  | .prsSkipCntRead .. => true
  | .rlyStatusRead .. => true
  | .frgCntRead .. => true
  | .forwardLookup _ us => us.all fun u => decide (u.slot < 524288)
  | .lpmLookup .. => true
  | .learnInsert .. => true
  | .agePass _ hits us => (hits.all fun i => decide (i < 524288)) && us.all fun u => decide (u.slot < 524288)
  | .search .. => true
  | .next .. => true
  | .insert .. => true
  | .delete .. => true
  | .flushPort .. => true
  | .ageNow .. => true
  | .lpmSwap .. => true
  | .rebuild .. => true
  | .repair .. => true
  | .tblCmdDone hits us => (hits.all fun i => decide (i < 524288)) && us.all fun u => decide (u.slot < 524288)
  | .tblPortAccess .. => true
  | .tblCntRead .. => true
  | .enqueue .. => true
  | .calendarSlot .. => true
  | .wheelRevolution .. => true
  | .shaperWrite .. => true
  | .policerWrite .. => true
  | .tmPortWrite .. => true
  | .tmWinAccess .. => true
  | .badOffsetRead .. => true
  | .cipherDispatch .. => true
  | .coreJobDone .. => true
  | .katDue .. => true
  | .katOverdue .. => true
  | .firstKat .. => true
  | .katNow .. => true
  | .integrityFault .. => true
  | .quarForce .. => true
  | .retest .. => true
  | .afWindow .. => true
  | .cphJobsRead .. => true
  | .cphAfRead .. => true
  | .cphCntRead .. => true
  | .lookasideFetch .. => true
  | .keyCtxAccess .. => true
  | .importClear .. => true
  | .importWrapped .. => true
  | .importDone .. => true
  | .oldGenWipe .. => true
  | .erase .. => true
  | .eraseDone .. => true
  | .closeProv .. => true
  | .vkInstall .. => true
  | .mskSet .. => true
  | .mskClear .. => true
  | .prefetch .. => true
  | .tamperClear .. => true
  | .monoIncr .. => true
  | .keyDerive => true
  | .keyRequestTimeout .. => true
  | .zeroise .. => true
  | .tamper .. => true
  | .zeroNRise => true
  | .trngFail .. => true
  | .trngRecover .. => true
  | .drbgReseed => true
  | .keyRngRead .. => true
  | .operatingMinute => true
  | .keyCntRead .. => true
  | .keyLaAccess .. => true
  | .timIncrWrite .. => true
  | .timNowRead .. => true
  | .set .. => true
  | .step .. => true
  | .slew .. => true
  | .tod .. => true
  | .todCancel .. => true
  | .todLatch => true
  | .replicaUpdate => true
  | .replicaStale .. => true
  | .tsCal .. => true
  | .tsCalDone .. => true
  | .txStamp .. => true
  | .txqRead .. => true
  | .txqDropsRead .. => true
  | .tauDsRecompute => true
  | .servoSample => true
  | .refLost => true
  | .timCtlWrite .. => true
  | .cmpArm .. => true
  | .cmpFire .. => true
  | .ppsOutPulse => true
  | .ppsOutEnd => true
  | .ppsInEdge .. => true
  | .retrain .. => true
  | .retire .. => true
  | .scrubNow .. => true
  | .scrubPass .. => true
  | .cstTrainDone .. => true
  | .redirectCopyDone => true
  | .drainDone .. => true
  | .restoreDone => true
  | .cstLineError .. => true
  | .cstCntRead .. => true
  | .perst .. => true
  | .hotReset => true
  | .functionLevelReset => true
  | .partialWrite .. => true
  | .hifCountRead .. => true
  | .twCtlWrite .. => true
  | .featAcceptWrite .. => true
  | .featLock .. => true
  | .doorbell .. => true
  | .ringEnable .. => true
  | .ringDisable .. => true
  | .ringStopped .. => true
  | .ringDmaError .. => true
  | .ringCoalTimer .. => true
  | .ringDropsRead .. => true
  | .punt .. => true
  | .eventRingPost => true
  | .twWrite .. => true
  | .twRead .. => true
  | .settleEnd .. => true
  | .gatherEnd .. => true
  | .holdEnd .. => true
  | .lastingExpire .. => true
  | .evtStatusWrite .. => true
  | .evtMaskWrite .. => true
  | .evtForce .. => true
  | .evtSrcAccess .. => true
  | .wellScan => true
  | .wellSeverityFlush => true
  | .wellPeriodicFlush => true
  | .wellFlushRecord .. => true
  | .wellFlush .. => true
  | .pfailFall => true
  | .wellFreeze .. => true
  | .wellThaw .. => true
  | .freezeTimeout => true
  | .wellRead .. => true
  | .challenge .. => true
  | .challengeExpire => true
  | .clear .. => true
  | .talCntCfgWrite .. => true
  | .tallyFreeze .. => true
  | .snap .. => true
  | .userSnap => true
  | .run .. => true
  | .doze .. => true
  | .standby .. => true
  | .enterDone => true
  | .rtcAlarm => true
  | .wakeNLow => true
  | .pcieWake .. => true
  | .energyDetect .. => true
  | .domainPowerGood .. => true
  | .domainPgTimeout .. => true
  | .voteHostWrite .. => true
  | .voteTestWrite .. => true
  | .domFaultClear .. => true
  | .rtcWrite .. => true
  | .thermalLimit => true
  | .thermalTrip => true
  | .thermalResume => true
  | .completeUAcknowledged .. => true
  | .hbMarkerMissing .. => true
  | .hbDownHoldExpire .. => true
  | .shaperEligible .. => true
  | .keyCmdDone .. => true
  | .wellCmdDone => true
  | .vaultLinkTimeout => true
  | .thermalLimitRearm => true

end Sys2Proof
end

