-- ==== Sys2Proof/Tests/Slice0.lean ====
section
/-!
SUPPORT. Tests: ill-formed commands are refused by `Instr.wf`, the spec's worked examples come out as the spec gives them, and the
premises of the statements have instances.
-/
namespace Sys2Proof.Tests

open Sys2Proof.Machine
set_option Elab.async false

/-- Every domain is ON, no island is held in reset, every feature is in force, and the references are present and in tolerance. -/
def up : State :=
  { pwr := { on := BitVec.allOnes 224 }
    sys := { accept := BitVec.allOnes 128, lock := true, refclk := Vector.replicate 4 { present := true, inTol := true } } }

/-- Every lane has role byte r and the lane state l. -/
def lanes (r : Byte) (l : Lane) : State := { up with str := { roles := Vector.replicate 96 r }, lanes := Vector.replicate 96 l }

/-- Every quadrant is x, sized for 256 of each thing. -/
def quads (r : Byte) (x : Quad) (l : Lane := {}) : State :=
  let z : RunQuad := { roles := [], sizing := [0, 1, 0, 1, 0, 1, 0, 1, 0, 1, 0, 1, 0, 1] ++ zeros 18, clkQuad := 0, clkCores := 0, opaques := [] }
  let t := lanes r l
  { t with quads := Vector.replicate 4 x, str := { t.str with run := Vector.replicate 4 (some z) } }

/-- The power island is p, with every domain ON. -/
def power (p : Power) : State := { up with pwr := { p with on := BitVec.allOnes 224 } }

/-- A PLOAM message for everyone that passes its checks. -/
def msg (b : PloamBody) (ack : Bool := false) : Ploam :=
  { onuId := 0x3FF, micShared := true, micDefault := true, seqOk := true, acksComplete := ack, body := b }

/-- Line lanes in an activation state with an ONU-ID, and one message waiting. -/
def heard (a : Act5) (m : Ploam) : State := lanes 1 { act := a, ds := { ctl := 0xC00#32, ploamQ := [m] } }

/-- Every steward is x. -/
def stewards (x : Steward) : State := { lanes 1 {} with stw := Vector.replicate 4 x }

/-- Line lanes with pump p in the activation state O5.1. -/
def pumps (p : Pump) : State := lanes 1 { act := { state := .o51, eqdHeld := true }, pump := p }

/-- Line lanes that are members of group 0, which has every lane as a member. -/
def bonded (l : Lane) (g : Group := {}) : State :=
  let t := lanes 1 l
  { t with cst := { mode := .normal, groups := Vector.replicate 16 { g with w0 := 0x101#32, members := BitVec.allOnes 96 } } }

/-- The spec's worked example of a burst (R174 to R190): lane 7 with EqD 970,146 and allocation 0x211, which has a frame of 1,518 bytes,
a PTP event frame of 90 and two frames of 1,500 in its queue; the grant has the DBRu flag and GrantSize 400. -/
def worked : State :=
  let sdu (n : Nat) (ptp : Bool) : Queued := { frame := { bytes := zeros n, ptp := ptp, omci := true, xgemPort := 0x300 } }
  quads 1
    { us := {
        ports := Vector.replicate 24 { w0 := 0x00010000#32 }
        queues := [(0, { w0 := 0, w1 := 0x211#32, frames := [sdu 1518 false, sdu 90 true, sdu 1500 false, sdu 1500 false] })] } }
    { act := { state := .o51, eqd := 970146#32, eqdHeld := true, usKeyIdx := 1 }
      ds := { ports := [(0, 0x90300#20)], keys := Vector.replicate 4 (some (zeros 16)) }
      pump := {
        filter := Vector.replicate 32 (some { alloc := 0x211 })
        profiles := Vector.replicate 4 (some { fec := true, rep := 8, pre := zeros 8, delim := zeros 8 })
        bursts := [{ id := 0, grants := [{ alloc := 0x211, dbru := true, size := 400 }], start := 12000, profile := 1 }] } }

/-- The same with the queue's first frame in the cistern. -/
def late : State :=
  let x : Quad := { us := {
    ports := Vector.replicate 24 { w0 := 0x00010000#32 }
    queues := [(0, { w0 := 0, w1 := 0x211#32, frames := [{ frame := { bytes := zeros 64 }, inCistern := true, chosen := 64 }] })] } }
  { worked with quads := Vector.replicate 4 x }

/-- Ethernet lanes in a state with room in the trough of every quadrant. -/
def roomy (l : Lane) : State :=
  let t := quads 2 {} l
  let z : RunQuad := { roles := [], sizing := List.replicate 32 1, clkQuad := 0, clkCores := 0, opaques := [] }
  { t with str := { t.str with run := Vector.replicate 4 (some z) } }

/-- A burst profile, its PLOAM message, and a grant with the burst it asks for. -/
def prof : Profile := { fec := true, rep := 8, pre := zeros 8, delim := zeros 8 }
def profMsg : Ploam := msg (.burstProfile 1 true 8 (Vector.replicate 8 0) true (Vector.replicate 8 0))
def grantIn : GrantIn :=
  { a := { alloc := 0x211, dbru := true, ploamu := false, start := 12000, size := 400, fwi := false, profile := 1 }, idx := 0, frame := 0,
    sfc := 0 }
def grantBurst : Burst :=
  { id := 0, grants := [{ alloc := 0x211, dbru := true, size := 400 }], profile := 1, start := 12000 }

/-- Line lanes that transmit in an activation state, with a burst assembled. -/
def serving (a : ActState) : State :=
  let t := lanes 1 { com := { cdrLock := true }, act := { state := a }, pump := { bursts := [{ id := 0, state := .assembling }] } }
  { t with pwr := { t.pwr with runSet := BitVec.allOnes _, policyBoot := false } }

/-- An SDU for lane 7, and a bond-control message for it with the right MIC, as it is sent and as it is read. -/
def sdu (b : List Byte) : Sdu := { lane := 7, tag := 5, port := 1, bytes := b, stamp := {} }
def bondHead (t : Byte) : List Byte := [1, t] ++ zeros 38
def bondWord (t : Byte) : List Byte := bondHead t ++ bondMic ((bonded {}).tcKey 7 0) (bondHead t)
def bondHeard (t : Byte) : BondMsg := { type := t, token := 0, pos := 0, txn := 0, body := zeros 28 }
theorem parse_bondWord (t : Byte) (h : t = 2 ∨ t = 4 ∨ t = 5 ∨ t = 6) :
    parseBond ((bonded {}).tcKey 7 0) (bondWord t) = some (bondHeard t) := by
  have l (k m : List Byte) : (bondMic k m).length = 8 := by simp only [bondMic, padTo]; simp; omega
  have e : ∀ m : List Byte, m.length = 8 → (bondHead t ++ m).take 40 = bondHead t ∧ (bondHead t ++ m).drop 40 = m := fun m _ =>
    ⟨by simp [bondHead, zeros], by simp [bondHead, zeros]⟩
  have e := e _ (l ((bonded {}).tcKey 7 0) (bondHead t))
  simp only [parseBond, bondWord, e.1, e.2]
  simp [l, bondHead, zeros, byteAt, bondHeard, beAt, bytesAt, beNat]
  exact ⟨h, by decide⟩
theorem some_getD {α : Type} {o : Option α} {d : α} (h : o.isSome = true) : o = some (o.getD d) := by
  cases o <;> simp_all

/-- A frame as an Ethernet port receives it. -/
def ethRx (b : List Byte) : EthRx :=
  { preamble := List.replicate 6 0x55#8 ++ [0xD5#8], codeErr := false, corrected := 0, uncorrected := 0, bytes := b }

/-- A frame of n bytes waits for lane 0, of role r; a tributary block where entry 0 is v. -/
def toSend (n : Nat) (l : Lane) (r : Byte) : State :=
  quads r { ds := { ports := Vector.replicate 24 { w0 := 0x00010000#32 }, queues := [(0, { frames := [{ frame := { bytes := zeros n } }] })] } } l
def sending (n : Nat) : State := toSend n { eth := { link := .up } } 2
def block (v : W32) : State := toSend 64 { sdh := { trib := Vector.replicate 64 { w0 := v } } } 3

/-- A table command, and an entry with its slot. -/
def tblCmd (op table : Nat) : TblCmd := ⟨op, table, false, 0, false, false, Vector.replicate 10 0, 0, 0, 0, 0⟩
def macEntry : TblEntry := { key := Vector.replicate 10 0, res0 := 0x0E#32 }
def macSlot : Nat := 0

/-- The round trip of lane 0 is known. -/
def ranged (t : Time) : State := { lanes 1 { act := { eqdHeld := true, teqd := 2488320, eqd := 970146 } } with tim := t }

/-- A key name, and a job of core 0 that has a key or waits for one. -/
def name : KeyName :=
  { slot := 0, purpose := 2, direction := false, service := 0, epoch := 0, site := 0, bits256 := false, gen := 0 }
def job (key : Option (List Byte)) : Job :=
  { kind := .open_, frame := {}, ctx := 0, tag := 0, name := name, core := 0, key := key }

/-- A lookaside descriptor of no operation. -/
def desc : LaDesc :=
  { op := 0, flags := 0, keyRef := 0, aadLen := 0, len := 0, cookie := 0, src := 0, dst := 0, aad := 0, tag := 0,
    iv := Vector.replicate 16 0 }

/-- Every ring is enabled and running, and ring r is at x. -/
def rings (r : Nat) (x : Ring) : State :=
  let run (y : Ring) : Ring := { y with ctl := 0x0001400F#32, stopped := false }
  { up with hif := { rings := vset (Vector.replicate 5 (run {})) r (run x) } }

/-- A block to be opened waits in each quadrant while the cores are in service or not; its plan, for which no entry is open. -/
def opener (on : Bool) : State :=
  { quads 0 { cph := { queue := [{ act := some { w41 := 0x80000000#32 } }] } } with
    cores := Vector.replicate 72 { state := if on then .inService else .quarantined } }
def openPlan : Plan :=
  { kind := .open_, ctx := 1024, name := up.tribName {} 0, epoch := 0, counter := 0, blocks := 513, bad := true }

/-- An egress association without extended numbers whose packet numbers are used up. -/
def spentAssoc : Assoc := { w := vset (vset (Vector.replicate 16 0) 0 3#32) 12 1#32, exhSeen := true }

/-- The operands of KEY_CMD for a slot, under slot 0, for lane 0. -/
def word (slot : BitVec 4) : KeyCmdWord := { slot := slot, wrapSlot := 0, lane := 0, side := false, purposes := 0 }

/-- Every slot holds a root key of every purpose, and the key island holds its copy. -/
def loaded : State :=
  { up with
    vault := { slots := Vector.replicate 16 { state := .loaded, purposes := 0x1F, key := zeros 32 } }
    key := { ready := true, copies := Vector.replicate 16 { key := some (zeros 32) } } }

/-- The time island is t. -/
def timed (t : Time) : State := { up with tim := t }

/-- The spec's example of a lost reference: the monitor of quadrant 2 has reported, and lock loss of lane 60 waits to settle. -/
def flapping : State :=
  { up with evt := { srcs := [(481, { settle := [{ cls := 2 }] }), (932, { active := true, cls := 2 })] } }

/-- A challenge is valid and slot 0 holds the clear key. -/
def cleared : State := { loaded with wel := { chalValid := true }, key := { loaded.key with zcfg := 0x101E#32 } }

/-- A MONO_INCR of the last counter is in progress. -/
def raising : State := { up with key := { busy := some (.monoIncr 7) } }

/-- Four bytes written as a word and read back, and eight words. -/
theorem leBytes_word (l : List Byte) (h : l.length = 4) : leBytes 4 (BitVec.ofNat 32 (leNat l)).toNat = l := by
  match l, h with
  | [a, b, c, d], _ =>
    have := a.isLt; have := b.isLt; have := c.isLt; have := d.isLt
    simp only [leBytes, leNat, BitVec.toNat_ofNat, List.cons.injEq, and_true]
    refine ⟨?_, ?_, ?_, ?_⟩ <;> apply BitVec.eq_of_toNat_eq <;> simp only [BitVec.toNat_ofNat] <;> omega
theorem drop_word (l : List Byte) (i : Nat) : l.drop i = bytesAt l i 4 ++ l.drop (i + 4) := by
  rw [bytesAt, ← List.drop_drop, List.take_append_drop]
theorem bytesOf_wordsOf (l : List Byte) (h : l.length = 32) : bytesOf (wordsOf 8 l) = l := by
  have e : l.drop 32 = [] := by simp [h]
  have c : (List.ofFn fun i : Fin 8 => bytesAt l (4 * i.val) 4).flatten = l := by
    have d := drop_word l
    conv_rhs => rw [show l = l.drop 0 from rfl, d 0, d 4, d 8, d 12, d 16, d 20, d 24, d 28, e]
    rfl
  conv_rhs => rw [← c]
  simp only [bytesOf, wordsOf, Vector.toList_ofFn, leAt, List.flatMap_def, List.map_ofFn]
  congr 2
  funext i
  exact leBytes_word _ (by simp [bytesAt]; omega)

/-- The clear key with the token it asks for and a token it does not, as the challenge is 0. -/
def clearKey : List Byte := (cleared.deriveKey cleared.clearName).getD []
def clearToken : List Byte := hmacSha256 clearKey (bytesOf cleared.wel.chal)
def wrongToken : Vector W32 8 := if bytesOf (Vector.replicate 8 0) = clearToken then Vector.replicate 8 1 else Vector.replicate 8 0
def tokened (t : Vector W32 8) : State := { cleared with wel := { cleared.wel with token := t } }
theorem tokened_token (t : Vector W32 8) : (tokened t).wel.token = t := rfl
theorem tokened_key (t : Vector W32 8) : (tokened t).deriveKey (tokened t).clearName = some clearKey := by
  have e : (tokened t).deriveKey (tokened t).clearName = cleared.deriveKey cleared.clearName := by
    simp only [State.deriveKey]
    rw [show (tokened t).keyAvailable = cleared.keyAvailable from rfl, show (tokened t).rootOf = cleared.rootOf from rfl,
      show (tokened t).clearName = cleared.clearName from rfl]
  exact e.trans (some_getD (by decide +kernel))
theorem tokened_hash (t : Vector W32 8) : hmacSha256 clearKey (bytesOf (tokened t).wel.chal) = clearToken := by
  rw [show (tokened t).wel.chal = cleared.wel.chal from rfl, clearToken]
theorem clear_token :
    let s := tokened (wordsOf 8 clearToken)
    bytesOf s.wel.token = hmacSha256 clearKey (bytesOf s.wel.chal) := by
  have l : clearToken.length = 32 := by decide +kernel
  intro s
  rw [tokened_hash, tokened_token, bytesOf_wordsOf _ l]
theorem wrong_token : bytesOf (tokened wrongToken).wel.token ≠ hmacSha256 clearKey (bytesOf (tokened wrongToken).wel.chal) := by
  rw [tokened_hash, tokened_token, wrongToken]
  generalize clearToken = t
  split
  · rename_i e
    exact fun x => absurd (e.trans x.symm) (by decide)
  · assumption

/-- The key under which slot 3 is imported, the tag of 32 zero bytes wrapped with it, and KEY_DATA with their words. -/
def wrapKey : List Byte := (loaded.deriveKey (loaded.keyName 0 4 false 3 1 0 true)).getD []
def wrapTag : List Byte := gcmTag wrapKey (zeros 12) (wrapAad (word 3) 1) (zeros 32)
def dataWith (t : List Byte) : KeyIsland :=
  let w (i : Nat) : W32 := BitVec.ofNat 32 (leNat (bytesAt t i 4))
  { loaded.key with data := #v[0, 0, 0, 0, 0, 0, 0, 0, 0, 0, 0, w 0, w 4, w 8, w 12, 0] }
def wrapped (t : List Byte) : State := { loaded with key := dataWith t }
def unwrapped : List Byte := ctrWith 4 wrapKey (addCounter 4 1 (gcmJ0 wrapKey (zeros 12))) (zeros 32)
theorem dataWith_bytes (t : List Byte) (l : t.length = 16) :
    ((dataWith t).dataBytes 15).take 12 = zeros 12 ∧ bytesAt ((dataWith t).dataBytes 15) 12 32 = zeros 32 ∧
    bytesAt ((dataWith t).dataBytes 15) 44 16 = t := by
  have w (i : Nat) (h : i ≤ 12) := leBytes_word (bytesAt t i 4) (by simp [bytesAt, l]; omega)
  have b : (dataWith t).dataBytes 15 = zeros 44 ++ t := by
    have e : t.drop 16 = [] := by simp [l]
    have d := drop_word t
    conv_rhs =>
      rw [show t = t.drop 0 from rfl, d 0, d 4, d 8, d 12, e, ← w 0 (by omega), ← w 4 (by omega), ← w 8 (by omega), ← w 12 (by omega)]
    rfl
  rw [b]
  exact ⟨by simp [zeros], by simp [bytesAt, zeros], by simp [bytesAt, zeros, l]⟩
theorem wrapped_key (t : List Byte) : (wrapped t).deriveKey ((wrapped t).keyName 0 4 false 3 1 0 true) = some wrapKey := by
  have e : (wrapped t).deriveKey ((wrapped t).keyName 0 4 false 3 1 0 true) = loaded.deriveKey (loaded.keyName 0 4 false 3 1 0 true) := by
    simp only [State.deriveKey]
    rw [show (wrapped t).keyAvailable = loaded.keyAvailable from rfl, show (wrapped t).rootOf = loaded.rootOf from rfl,
      show (wrapped t).keyName 0 4 = loaded.keyName 0 4 from rfl]
  exact e.trans (some_getD (by decide +kernel))
theorem wrapped_free (t : List Byte) : (wrapped t).reaches .pcie 7 ∧ (wrapped t).key.busy = none ∧ (wrapped t).zeroised = false :=
  ⟨show loaded.reaches .pcie 7 from ⟨by decide +kernel, by decide +kernel⟩, rfl, rfl⟩
def otherTag : List Byte := if zeros 16 = wrapTag then List.replicate 16 1 else zeros 16
theorem refuses_wrapped :
    gcmOpen wrapKey (((wrapped otherTag).key.dataBytes 15).take 12) (wrapAad (word 3) 1) (bytesAt ((wrapped otherTag).key.dataBytes 15) 12 32)
      (bytesAt ((wrapped otherTag).key.dataBytes 15) 44 16) = none := by
  have l : otherTag.length = 16 ∧ wrapTag ≠ otherTag := by
    unfold otherTag
    generalize wrapTag = t
    split
    · subst t; decide
    · exact ⟨rfl, Ne.symm ‹_›⟩
  have d := dataWith_bytes otherTag l.1
  rw [show (wrapped otherTag).key = dataWith otherTag from rfl, d.1, d.2.1, d.2.2, gcmOpen]
  exact if_neg l.2
theorem opens_wrapped :
    gcmOpen wrapKey (((wrapped wrapTag).key.dataBytes 15).take 12) (wrapAad (word 3) 1) (bytesAt ((wrapped wrapTag).key.dataBytes 15) 12 32)
      (bytesAt ((wrapped wrapTag).key.dataBytes 15) 44 16) = some unwrapped := by
  have l : wrapTag.length = 16 := by decide +kernel
  have d := dataWith_bytes wrapTag l
  rw [show (wrapped wrapTag).key = dataWith wrapTag from rfl, d.1, d.2.1, d.2.2, gcmOpen, wrapTag, if_pos rfl, unwrapped]

/-- A valid rule of index 5 with the action words a and b and no masks; it matches every key. -/
def anyRule (a b : W32) : Rule := { w := vset (vset (Vector.replicate 44 0) 40 a) 41 b }
theorem matches_anyKey (x : Quad) (r : Rule) (h : x.bank0 = [(5, r)]) (v : bit (vget 0 r.w 40) 0 = true)
    (z : ∀ i < 20, vget 0 r.w (20 + i) = 0) (k : BitVec 640) : x.lookup false k = some (5, r.act 5) := by
  have hit : r.hit k = true := by
    simp only [Rule.hit, Bool.and_eq_true, List.all_eq_true, List.mem_range, beq_iff_eq]
    refine ⟨v, fun i hi => ?_⟩
    rw [z i hi]
    exact (BitVec.and_zero ..).trans (BitVec.and_zero ..).symm
  simp only [Quad.lookup, Quad.bankOf, h, Bool.false_eq_true, if_false]
  rw [List.find?_cons_of_pos (p := fun e : Nat × Rule => e.2.hit k) (a := (5, r)) hit]
  rfl

/-- The premises of BootCommandsTakeEffect, clause by clause, have an instance. -/
theorem test_premises_bootCommandsTakeEffect :
    (∃ (s : State), s.pins.powered = false ∧ s.vault.powerCycles ≠ BitVec.allOnes 32) ∧
    (∃ (s : State), s.pins.powered = true) ∧
    (∃ (s : State) (p : Port), s.reaches p 0 ∧ s.sys.hold = true) ∧
    (∃ (s : State), s.bootDue = true ∧ (s.key.ready = true ∨ s.sys.vaultFail = true)) ∧
    (∃ (s : State) (r : AutoRun), s.str.auto = some r ∧ r.boot = true ∧ s.str.state = LoaderState.verified ∧ s.bootReady = true) ∧
    (∃ (s : State), s.pins.released = true ∧ s.key.ready = false ∧ s.sys.vaultFail = false ∧ s.bootDue = true) := by
  refine ⟨⟨{ up with pins := { powered := false } }, ?_, ?_⟩,
    ⟨up, ?_⟩,
    ⟨{ up with sys := { hold := true } }, .pcie, ?_, ?_⟩,
    ⟨{ up with key := { ready := true }, cst := { mode := .normal } }, ?_, ?_⟩,
    ⟨{ up with cst := { mode := .normal }, str := { state := .verified, auto := some ⟨true, 15, false, false⟩ } }, ⟨true, 15, false, false⟩, ?_, ?_, ?_, ?_⟩,
    ⟨up, ?_, ?_, ?_, ?_⟩⟩ <;>
    first | decide +kernel | rfl | exact ⟨by decide +kernel, by decide +kernel⟩

/-- The premises of LoaderCommandsTakeEffect, clause by clause, have an instance. -/
theorem test_premises_loaderCommandsTakeEffect_1 :
    (∃ (s : State) (p : Port) (src : BitVec 2), s.reaches p 1 ∧ s.str.isBusy = false ∧ s.str.loadable = true ∧ src ≠ 3 ∧ (src = 2 → s.str.hostLen ≠ 0 ∧ BitVec.toNat s.str.hostLen ≤ 4194304)) ∧
    (∃ (s : State) (bytes : List Byte) (b : List Byte) (from_ : ImgSrc), s.str.busy = some (LoaderOp.load from_) ∧ s.str.auto = none ∧ ((match from_ with | ImgSrc.slotA => if s.sys.vaultFail = true then none else s.vault.imageA | ImgSrc.slotB => if s.sys.vaultFail = true then none else s.vault.imageB | ImgSrc.host => some (padTo (BitVec.toNat s.str.hostLen) bytes)) = some b)) ∧
    (∃ (s : State) (p : Port), s.reaches p 1 ∧ s.str.isBusy = false ∧ s.str.state = LoaderState.staged) ∧
    (∃ (s : State), s.str.busy = some LoaderOp.verify ∧ s.str.auto = none) ∧
    (∃ (s : State) (r : AutoRun) (b : List Byte), s.str.auto = some r ∧ s.str.busy = some (LoaderOp.load (slotSrc r.slotB)) ∧ s.vault.imageIn r.slotB = some b ∧ s.sys.vaultFail = false) ∧
    (∃ (s : State) (r : AutoRun), s.str.auto = some r ∧ s.str.busy = some LoaderOp.verify ∧ r.boot = true ∧ r.second = false) ∧
    (∃ (s : State) (p : Port) (mask : BitVec 4), s.reaches p 1 ∧ s.str.isBusy = false ∧ (s.str.state = LoaderState.verified ∨ s.str.state = LoaderState.applied) ∧ s.applyRefused (s.str.staging.getD []) mask = none) ∧
    (∃ (s : State) (mask : BitVec 4), s.str.busy = some (LoaderOp.apply mask) ∧ s.str.auto = none) ∧
    (∃ (s : State) (m : BitVec 4) (q : QuadId), s.str.busy = some (LoaderOp.apply m) ∧ bit m q.val = true ∧ s.str.auto = none) ∧
    (∃ (s : State) (p : Port), s.reaches p 1 ∧ s.str.isBusy = false ∧ (s.str.state = LoaderState.applied ∧ s.str.appliedMask ||| s.str.matchMask = 15 ∨ s.str.state = LoaderState.verified ∧ s.str.matchMask = 15)) ∧
    (∃ (s : State) (b : List Byte), s.str.busy = some LoaderOp.commit ∧ s.str.staging = some b ∧ s.heldSlot = none) ∧
    (∃ (s : State) (p : Port), s.reaches p 1 ∧ s.str.isBusy = false ∧ (s.str.state = LoaderState.staged ∨ s.str.state = LoaderState.verified ∨ s.str.state = LoaderState.failed ∧ s.str.dark = 0)) := by
  refine ⟨⟨{ up with str := { hostLen := 4194304 } }, .pcie, 2, ?_, ?_, ?_, ?_, ?_⟩,
    ⟨{ up with str := { busy := some (.load .slotA) }, vault := { imageA := some [] } }, [], [], .slotA, ?_, ?_, ?_⟩,
    ⟨{ up with str := { state := .staged } }, .pcie, ?_, ?_, ?_⟩,
    ⟨{ up with str := { busy := some .verify } }, ?_, ?_⟩,
    ⟨{ up with str := { busy := some (.load .slotA), auto := some ⟨true, 15, false, false⟩ }, vault := { imageA := some [] } }, ⟨true, 15, false, false⟩, [], ?_, ?_, ?_, ?_⟩,
    ⟨{ up with str := { busy := some .verify, auto := some ⟨true, 15, false, false⟩ } }, ⟨true, 15, false, false⟩, ?_, ?_, ?_, ?_⟩,
    ⟨{ up with str := { state := .verified } }, .pcie, 0xF, ?_, ?_, ?_, ?_⟩,
    ⟨{ up with str := { busy := some (.apply 1) } }, 1, ?_, ?_⟩,
    ⟨{ up with str := { busy := some (.apply 8) } }, 8, 3, ?_, ?_, ?_⟩,
    ⟨{ up with str := { state := .applied, appliedMask := 0x3, matchMask := 0xC } }, .pcie, ?_, ?_, ?_⟩,
    ⟨{ up with str := { busy := some .commit, staging := some [] } }, [], ?_, ?_, ?_⟩,
    ⟨{ up with str := { state := .failed } }, .pcie, ?_, ?_, ?_⟩⟩ <;>
    first | decide +kernel | rfl | exact ⟨by decide +kernel, by decide +kernel⟩

/-- The premises of LoaderCommandsTakeEffect, clause by clause, have an instance. -/
theorem test_premises_loaderCommandsTakeEffect_2 :
    (∃ (s : State), s.str.busy = some LoaderOp.discard) ∧
    (∃ (s : State) (p : Port), s.reaches p 1 ∧ s.str.isBusy = false ∧ s.str.state = LoaderState.applied) ∧
    (∃ (s : State) (mask : BitVec 4), s.str.busy = some (LoaderOp.reapply mask)) := by
  refine ⟨⟨{ up with str := { busy := some .discard } }, ?_⟩,
    ⟨{ up with str := { state := .applied } }, .pcie, ?_, ?_, ?_⟩,
    ⟨{ up with str := { busy := some (.reapply 1) } }, 1, ?_⟩⟩ <;>
    first | decide +kernel | rfl | exact ⟨by decide +kernel, by decide +kernel⟩

/-- The premises of LoaderRefusalChangesErrAlone, clause by clause, have an instance. -/
theorem test_premises_loaderRefusalChangesErrAlone :
    (∃ (s : State) (p : Port) (c : Instr), s.reaches p 1 ∧ ((∃ (x : BitVec 2), c = Instr.load p x) ∨ c = Instr.verify p ∨ (∃ (m : BitVec 4), c = Instr.apply p m) ∨ c = Instr.commit p ∨ c = Instr.abandon p) ∧ s.str.isBusy = true) ∧
    (∃ (s : State) (p : Port) (src : BitVec 2), s.reaches p 1 ∧ s.str.isBusy = false ∧ (s.str.loadable = false ∨ src = 3)) ∧
    (∃ (s : State) (p : Port), s.reaches p 1 ∧ s.str.isBusy = false ∧ s.str.state ≠ LoaderState.staged) ∧
    (∃ (s : State) (p : Port), s.reaches p 1 ∧ s.str.isBusy = false ∧ (s.str.state ≠ LoaderState.verified ∧ s.str.state ≠ LoaderState.applied)) ∧
    (∃ (s : State) (p : Port), s.reaches p 1 ∧ s.str.isBusy = false ∧ (s.str.state = LoaderState.empty ∨ s.str.state = LoaderState.committed)) := by
  refine ⟨⟨{ up with str := { busy := some .commit } }, .pcie, .abandon .pcie, ?_, ?_, ?_⟩,
    ⟨up, .pcie, 3, ?_, ?_, ?_⟩,
    ⟨up, .pcie, ?_, ?_, ?_⟩,
    ⟨up, .pcie, ?_, ?_, ?_⟩,
    ⟨up, .pcie, ?_, ?_, ?_⟩⟩ <;>
    first | decide +kernel | rfl | exact ⟨by decide +kernel, by decide +kernel⟩

/-- The premises of ApplyInstallsTheImage, clause by clause, have an instance. -/
theorem test_premises_applyInstallsTheImage :
    ∃ (s : State) (mask : BitVec 4) (b : List Byte), s.str.busy = some (LoaderOp.apply mask) ∧ s.str.auto = none ∧ s.str.staging = some b := by
  refine ⟨{ up with str := { busy := some (.apply 1), staging := some [] } }, 1, [], ?_, ?_, ?_⟩ <;>
    first | decide +kernel | rfl

/-- The premises of PowerCommandsTakeEffect, clause by clause, have an instance. -/
theorem test_premises_powerCommandsTakeEffect :
    (∃ (s : State) (p : Port), s.reaches p 2 ∧ s.pwr.state ≠ DevState.run ∧ s.pwr.state ≠ DevState.waking) ∧
    (∃ (s : State) (p : Port), s.reaches p 2 ∧ s.pwr.state = DevState.run ∧ s.pwr.firing &&& s.pwr.wakeEn = 0) ∧
    (∃ (s : State) (p : Port), s.reaches p 2 ∧ (s.pwr.state = DevState.run ∨ s.pwr.state = DevState.doze) ∧ s.pwr.firing &&& s.pwr.wakeEn = 0) ∧
    (∃ (s : State), s.pwr.state = DevState.entering ∧ s.pwr.on &&& ~~~s.wantSet = 0) ∧
    (∃ (s : State), s.pwr.almEn = true ∧ s.pwr.alm.toNat ≤ s.pwr.rtc.toNat ∧ bit s.pwr.wakeEn 0 = true ∧ s.pwr.state = DevState.doze) ∧
    (∃ (s : State), bit s.pwr.wakeEn 1 = true ∧ (s.pwr.state = DevState.doze ∨ s.pwr.state = DevState.standby)) ∧
    (∃ (s : State), bit s.pwr.wakeEn 2 = true ∧ s.isOn dHif = false ∧ (s.pwr.state = DevState.doze ∨ s.pwr.state = DevState.standby)) ∧
    (∃ (s : State) (n : LaneId) (level : Nat), s.isLine n.val = true ∧ s.isRetained (dRx n.val) = true ∧ (s.lane n).com.wakeTh < level ∧ bit s.pwr.wakeEn 4 = true ∧ s.pwr.state = DevState.doze) ∧
    (∃ (s : State) (d : DomainId), s.switching d.val = true ∧ (d.val < 6 ∨ 10 ≤ d.val)) ∧
    (∃ (s : State) (p : Port), s.reaches p 2) ∧
    (∃ (s : State), s.pins.thermalArmed = true) ∧
    (∃ (s : State), s.pins.thermalStop = true) := by
  refine ⟨⟨power { state := .doze }, .pcie, ?_, ?_, ?_⟩,
    ⟨up, .pcie, ?_, ?_, ?_⟩,
    ⟨power { state := .doze }, .pcie, ?_, ?_, ?_⟩,
    ⟨{ up with pwr := { state := .entering } }, ?_, ?_⟩,
    ⟨power { state := .doze, almEn := true, wakeEn := 0x1F, alm := 5, rtc := 5 }, ?_, ?_, ?_, ?_⟩,
    ⟨power { state := .standby }, ?_, ?_⟩,
    ⟨{ up with pwr := { state := .doze } }, ?_, ?_, ?_⟩,
    ⟨{ lanes 1 {} with pwr := { state := .doze, ret := BitVec.allOnes 224, wakeEn := 0x1F } }, 0, 26, ?_, ?_, ?_, ?_, ?_⟩,
    ⟨{ up with pwr := {} }, 0, ?_, ?_⟩,
    ⟨up, .twoWire, ?_⟩,
    ⟨up, ?_⟩,
    ⟨{ up with pins := { thermalStop := true } }, ?_⟩⟩ <;>
    first | decide +kernel | rfl | exact ⟨by decide +kernel, by decide +kernel⟩

/-- The premises of WakeCancelsARequestToSleep, clause by clause, have an instance. -/
theorem test_premises_wakeCancelsARequestToSleep :
    ∃ (s : State) (p : Port), s.reaches p 2 ∧ s.pwr.state = DevState.run ∧ s.pwr.firing &&& s.pwr.wakeEn ≠ 0 := by
  refine ⟨power { firing := 2 }, .pcie, ?_, ?_, ?_⟩ <;>
    first | decide +kernel | rfl | exact ⟨by decide +kernel, by decide +kernel⟩

/-- The premises of ReceiverCommandsTakeEffect, clause by clause, have an instance. -/
theorem test_premises_receiverCommandsTakeEffect_1 :
    (∃ (s : State) (n : LaneId), ((s.lane n).com.rxState = RxState.adaptFast ∨ (s.lane n).com.rxState = RxState.track) ∧ (s.lane n).ts.calBusy = false) ∧
    (∃ (s : State) (n : LaneId), (∃ (i : Fin 24), 65536 ≤ (s.lane n).com.limitRun[i.val]) ∧ (s.lane n).com.eqLimit = false) ∧
    (∃ (s : State) (n : LaneId), s.isOn (dRx n.val) = true ∧ (s.lane n).com.rxState = RxState.seed) ∧
    (∃ (c : LaneCommon), bit c.ctl 1 = false) ∧
    (∃ (c : LaneCommon), bit c.ctl 1 = true) ∧
    (∃ (s : State) (p : Port) (n : LaneId), s.reachesLane p n LaneKind.common ∧ (s.lane n).com.cdrLock = false) ∧
    (∃ (s : State) (p : Port) (n : LaneId), s.reachesLane p n LaneKind.common ∧ (s.lane n).com.cdrLock = true) ∧
    (∃ (s : State) (p : Port) (n : LaneId), s.reachesLane p n LaneKind.common ∧ (s.lane n).com.rxState ≠ RxState.off ∧ (s.lane n).com.rxState ≠ RxState.frozen) ∧
    (∃ (s : State) (p : Port) (n : LaneId), s.reachesLane p n LaneKind.common ∧ (s.lane n).com.rxState = RxState.frozen) ∧
    (∃ (s : State) (p : Port) (n : LaneId), s.reachesLane p n LaneKind.common ∧ (s.lane n).com.rxState = RxState.off) ∧
    (∃ (s : State) (p : Port) (n : LaneId), s.reachesLane p n LaneKind.rx) ∧
    (∃ (s : State) (n : LaneId) (rms : Nat), s.isOn (dRx n.val) = true ∧ (s.lane n).com.rxState ≠ RxState.off ∧ (s.lane n).com.sigdet = false ∧ (s.lane n).com.sdOn < rms) := by
  refine ⟨⟨lanes 1 { com := { rxState := .track } }, 0, ?_, ?_⟩,
    ⟨lanes 1 { com := { limitRun := Vector.replicate 24 65536 } }, 0, ?_, ?_⟩,
    ⟨lanes 1 { com := { rxState := .seed } }, 0, ?_, ?_⟩,
    ⟨{}, ?_⟩,
    ⟨{ ctl := 2 }, ?_⟩,
    ⟨lanes 1 {}, .pcie, 0, ?_, ?_⟩,
    ⟨lanes 1 { com := { cdrLock := true } }, .pcie, 0, ?_, ?_⟩,
    ⟨lanes 1 { com := { rxState := .track } }, .pcie, 0, ?_, ?_, ?_⟩,
    ⟨lanes 1 { com := { rxState := .frozen } }, .pcie, 0, ?_, ?_⟩,
    ⟨lanes 1 {}, .pcie, 0, ?_, ?_⟩,
    ⟨lanes 1 {}, .twoWire, 95, ?_⟩,
    ⟨lanes 1 { com := { rxState := .waitSig } }, 0, 4097, ?_, ?_, ?_, ?_⟩⟩ <;>
    first | decide +kernel | rfl | exact ⟨by decide +kernel, by decide +kernel, by decide +kernel⟩

/-- The premises of ReceiverCommandsTakeEffect, clause by clause, have an instance. -/
theorem test_premises_receiverCommandsTakeEffect_2 :
    (∃ (s : State) (n : LaneId) (rms : Vector Nat 4), s.isOn (dRx n.val) = true ∧ (s.lane n).com.sigdet = true ∧ (∀ (i : Fin 4), rms[i.val] < (s.lane n).com.sdOff)) ∧
    (∃ (s : State) (n : LaneId), (s.lane n).com.sigdet = true ∧ (s.lane n).com.cdrLock = false ∧ (s.lane n).com.rxState = RxState.cdrAcq ∧ s.noReference n = false) ∧
    (∃ (s : State) (n : LaneId), (s.lane n).com.sigdet = true ∧ (s.lane n).com.cdrLock = false ∧ (s.lane n).com.rxState = RxState.frozen ∧ (s.lane n).com.frozenFrom ≠ RxState.seed ∧ (s.lane n).com.frozenFrom ≠ RxState.off ∧ s.noReference n = false) ∧
    (∃ (s : State) (n : LaneId), s.noReference n = true) ∧
    (∃ (s : State) (n : LaneId), (s.lane n).com.sigdet = true ∧ (s.lane n).com.cdrLock = true) ∧
    (∃ (s : State) (n : LaneId), (s.lane n).com.rxState = RxState.adaptFast) ∧
    (∃ (s : State) (n : LaneId), s.isOn (dRx n.val) = true) ∧
    (∃ (s : State) (p : Port), s.reaches p 0) := by
  refine ⟨⟨lanes 1 { com := { sigdet := true } }, 0, Vector.replicate 4 3071, ?_, ?_, ?_⟩,
    ⟨lanes 1 { com := { sigdet := true, rxState := .cdrAcq } }, 0, ?_, ?_, ?_, ?_⟩,
    ⟨lanes 1 { com := { sigdet := true, rxState := .frozen, frozenFrom := .track } }, 0, ?_, ?_, ?_, ?_, ?_, ?_⟩,
    ⟨{ lanes 2 {} with sys := {} }, 0, ?_⟩,
    ⟨lanes 1 { com := { sigdet := true, cdrLock := true } }, 0, ?_, ?_⟩,
    ⟨lanes 1 { com := { rxState := .adaptFast } }, 0, ?_⟩,
    ⟨up, 95, ?_⟩,
    ⟨up, .pcie, ?_⟩⟩ <;>
    first | decide +kernel | rfl | exact ⟨by decide +kernel, by decide +kernel⟩

/-- The premises of ReferenceMonitorsJudge, clause by clause, have an instance. -/
theorem test_premises_referenceMonitorsJudge :
    (∃ (s : State) (q : QuadId), (s.refclk q.val).present = true ∧ (s.src (930 + q.val)).active = false) ∧
    (∃ (s : State) (q : QuadId), (s.refclk q.val).inTol = true) ∧
    (∃ (s : State) (q : QuadId) (ppm : Int), (s.refclk q.val).present = true ∧ (if (s.refclk q.val).ssc = true then -5200000 else -200000) ≤ ppm ∧ ppm ≤ 200000) ∧
    (∃ (s : State) (q : QuadId) (ppm : Int), 200000 < ppm ∧ (s.src (930 + q.val)).active = false) := by
  refine ⟨⟨{ up with sys := { refclk := Vector.replicate 4 { present := true } } }, 3, ?_, ?_⟩,
    ⟨{ up with sys := { refclk := Vector.replicate 4 { inTol := true } } }, 0, ?_⟩,
    ⟨{ up with sys := { refclk := Vector.replicate 4 { present := true } } }, 0, -200000, ?_, ?_, ?_⟩,
    ⟨up, 0, 200001, ?_, ?_⟩⟩ <;>
    first | decide +kernel | rfl

/-- The premises of EqualiserItemsStayInRange, clause by clause, have an instance. -/
theorem test_premises_equaliserItemsStayInRange :
    ∃ (s : State) (n : LaneId), ((s.lane n).com.rxState = RxState.adaptFast ∨ (s.lane n).com.rxState = RxState.track) ∧ (s.lane n).ts.calBusy = false := by
  refine ⟨lanes 1 { com := { rxState := .track } }, 0, ?_, ?_⟩ <;>
    first | decide +kernel | rfl

/-- The premises of TransmitterCommandsTakeEffect, clause by clause, have an instance. -/
theorem test_premises_transmitterCommandsTakeEffect :
    (∃ (lowPs : Nat), 1000 ≤ lowPs) ∧
    (∃ (lowPs : Nat), lowPs < 300) ∧
    (∃ (s : State) (p : Port) (n : LaneId), s.reachesLane p n LaneKind.common ∧ s.isLine n.val = false) ∧
    (∃ (s : State) (p : Port) (n : LaneId), s.reachesLane p n LaneKind.common ∧ s.isLine n.val = true) ∧
    (∃ (s : State) (n : LaneId), s.isOn (dRx n.val) = true ∧ bit (s.lane n).com.prbs 6 = true) ∧
    (∃ (s : State) (n : LaneId), s.isOn (dRx n.val) = true ∧ bit (s.lane n).com.prbs 6 = true ∧ bit (s.lane n).com.ctl 4 = false ∧ ((s.lane n).com).chkFill < prbsLen ((s.lane n).com).chkPat) ∧
    (∃ (s : State) (n : LaneId) (b : Bool), s.isOn (dRx n.val) = true ∧ bit (s.lane n).com.prbs 6 = true ∧ bit (s.lane n).com.ctl 4 = false ∧ prbsLen ((s.lane n).com).chkPat ≤ ((s.lane n).com).chkFill ∧ ((s.lane n).com).chkLock = false ∧ ((s.lane n).com).chkRun = 127 ∧ b = (prbsNext ((s.lane n).com).chkPat ((s.lane n).com).chkReg)) ∧
    (∃ (s : State) (n : LaneId) (b : Bool), s.isOn (dRx n.val) = true ∧ bit (s.lane n).com.prbs 6 = true ∧ bit (s.lane n).com.ctl 4 = false ∧ prbsLen ((s.lane n).com).chkPat ≤ ((s.lane n).com).chkFill ∧ ((s.lane n).com).chkLock = true ∧ b ≠ (prbsNext ((s.lane n).com).chkPat ((s.lane n).com).chkReg)) ∧
    (∃ (s : State) (p : Port) (n : LaneId), s.reachesLane p n LaneKind.rx) ∧
    (∃ (s : State) (p : Port) (n : LaneId), s.reachesLane p n LaneKind.common ∧ s.sendsNow n = true) ∧
    (∃ (s : State) (p : Port) (n : LaneId), s.reachesLane p n LaneKind.common ∧ s.sendsNow n = false) := by
  refine ⟨⟨1000, ?_⟩,
    ⟨299, ?_⟩,
    ⟨lanes 2 {}, .pcie, 0, ?_, ?_⟩,
    ⟨lanes 1 {}, .pcie, 0, ?_, ?_⟩,
    ⟨lanes 1 { com := { prbs := 0x00010040#32 } }, 0, ?_, ?_⟩,
    ⟨lanes 1 { com := { prbs := 0x00010040#32 } }, 0, ?_, ?_, ?_, ?_⟩,
    ⟨lanes 1 { com := { prbs := 0x00010040#32, chkFill := 7, chkRun := 127 } }, 0, false, ?_, ?_, ?_, ?_, ?_, ?_, ?_⟩,
    ⟨lanes 1 { com := { prbs := 0x00010040#32, chkFill := 7, chkLock := true } }, 0, true, ?_, ?_, ?_, ?_, ?_, ?_⟩,
    ⟨lanes 1 {}, .pcie, 0, ?_⟩,
    ⟨lanes 2 {}, .pcie, 0, ?_, ?_⟩,
    ⟨lanes 1 {}, .pcie, 0, ?_, ?_⟩⟩ <;>
    first | decide +kernel | rfl | exact ⟨by decide +kernel, by decide +kernel, by decide +kernel⟩

/-- The premises of HostBondCommandsTakeEffect, clause by clause, have an instance. -/
theorem test_premises_hostBondCommandsTakeEffect_1 :
    (∃ (s : State) (n : LaneId), s.isHostBond n.val = true ∧ ((s.link n).state = HbState.offer ∨ (s.link n).state = HbState.agreed ∨ (s.link n).state = HbState.commit) ∧ s.isOn (dTx n.val) = true ∧ (s.lane n).com.genEn = false ∧ s.txIdle n = false) ∧
    (∃ (s : State) (n : LaneId) (b : Vector Byte 8), s.isHostBond n.val = true ∧ b[0] = 165#8 ∧ b[1] = 195#8 ∧ crc8 [b[1], b[2], b[3], b[4], b[5], b[6]] = b[7] ∧ BitVec.toNat b[3] = s.linkOf n.val ∧ 1 ≤ BitVec.toNat b[2] ∧ BitVec.toNat b[2] < 16 ∧ ((s.link n).state = HbState.commit ∨ (s.link n).state = HbState.align ∨ (s.link n).state = HbState.up)) ∧
    (∃ (s : State) (n : LaneId), s.isHostBond n.val = true ∧ (s.link n).state = HbState.commit) ∧
    (∃ (s : State) (n : LaneId), s.isHostBond n.val = true ∧ ((s.link n).state = HbState.offer ∨ (s.link n).state = HbState.agreed)) ∧
    (∃ (s : State) (n : LaneId) (p : HbPeer), s.isHostBond n.val = true ∧ (s.link n).state = HbState.offer ∧ (s.link n).peer = some p ∧ s.hbN n p = 0) ∧
    (∃ (s : State) (n : LaneId), s.isHostBond n.val = true ∧ (s.link n).state = HbState.down ∧ s.feature 8 = true) ∧
    (∃ (s : State) (n : LaneId), s.isHostBond n.val = true ∧ (s.link n).state = HbState.align ∧ s.feature 8 = true) ∧
    (∃ (s : State) (n : LaneId) (blk : Nat) (b : Vector Byte 8), s.isHostBond n.val = true ∧ b[0] = 165#8 ∧ b[1] = 90#8 ∧ BitVec.toNat b[2] < 16 ∧ BitVec.toNat b[3] = s.linkOf n.val ∧ b[5] = ~~~b[4] ∧ b[6] = ~~~b[2] ∧ b[7] = ~~~b[3] ∧ (s.lane n).hb.aligned = true ∧ ((s.lane n).hb.lastMarker == some (blk - 16384) && decide (16384 ≤ blk)) = false) ∧
    (∃ (s : State) (n : LaneId) (blk : Nat) (b : Vector Byte 8), s.isHostBond n.val = true ∧ b[0] = 165#8 ∧ b[1] = 90#8 ∧ BitVec.toNat b[2] < 16 ∧ BitVec.toNat b[3] = s.linkOf n.val ∧ b[5] = ~~~b[4] ∧ b[6] = ~~~b[2] ∧ b[7] = ~~~b[3] ∧ ((s.lane n).hb.aligned = false ∨ ((s.lane n).hb.lastMarker == some (blk - 16384) && decide (16384 ≤ blk)) = true)) ∧
    (∃ (s : State) (n : LaneId), s.isHostBond n.val = true ∧ (s.lane n).hb.aligned = true ∧ (s.lane n).hb.missRun < 3) ∧
    (∃ (s : State) (n : LaneId), s.isHostBond n.val = true ∧ (s.lane n).hb.aligned = true ∧ 3 ≤ (s.lane n).hb.missRun ∧ (s.link n).state ≠ HbState.up) ∧
    (∃ (s : State) (n : LaneId), s.isHostBond n.val = true ∧ (s.lane n).hb.aligned = false) := by
  refine ⟨⟨lanes 4 { hb := { state := .agreed } }, 0, ?_, ?_, ?_, ?_, ?_⟩,
    ⟨lanes 4 { hb := { state := .up } }, 0, #v[0xA5#8, 0xC3#8, 15#8, 0#8, 0#8, 0#8, 0#8, crc8 [0xC3#8, 15#8, 0#8, 0#8, 0#8, 0#8]], ?_, ?_, ?_, ?_, ?_, ?_, ?_, ?_⟩,
    ⟨lanes 4 { hb := { state := .commit } }, 0, ?_, ?_⟩,
    ⟨lanes 4 { hb := { state := .offer } }, 0, ?_, ?_⟩,
    ⟨lanes 4 { hb := { state := .offer, peer := some { maxl := 0, caps := 0, rxok := 0 } } }, 0, { maxl := 0, caps := 0, rxok := 0 }, ?_, ?_, ?_, ?_⟩,
    ⟨lanes 4 {}, 0, ?_, ?_, ?_⟩,
    ⟨lanes 4 { hb := { state := .align } }, 0, ?_, ?_, ?_⟩,
    ⟨lanes 4 { hb := { aligned := true } }, 0, 0, #v[0xA5#8, 0x5A#8, 0#8, 0#8, 0#8, 0xFF#8, 0xFF#8, 0xFF#8], ?_, ?_, ?_, ?_, ?_, ?_, ?_, ?_, ?_, ?_⟩,
    ⟨lanes 4 { hb := { aligned := true, lastMarker := some 7 } }, 0, 16391, #v[0xA5#8, 0x5A#8, 0#8, 0#8, 0#8, 0xFF#8, 0xFF#8, 0xFF#8], ?_, ?_, ?_, ?_, ?_, ?_, ?_, ?_, ?_⟩,
    ⟨lanes 4 { hb := { aligned := true, missRun := 2 } }, 0, ?_, ?_, ?_⟩,
    ⟨lanes 4 { hb := { aligned := true, missRun := 3 } }, 0, ?_, ?_, ?_, ?_⟩,
    ⟨lanes 4 { hb := { missRun := 2 } }, 0, ?_, ?_⟩⟩ <;>
    first | decide +kernel | rfl

/-- The premises of HostBondCommandsTakeEffect, clause by clause, have an instance. -/
theorem test_premises_hostBondCommandsTakeEffect_2 :
    ∃ (s : State) (p : Port) (n : LaneId), s.reachesLane p n LaneKind.common ∧ s.isHead n = true := by
  refine ⟨lanes 4 {}, .pcie, 0, ?_, ?_⟩ <;>
    first | decide +kernel | rfl | exact ⟨by decide +kernel, by decide +kernel, by decide +kernel⟩

/-- The premises of RegisterWritesReachTheirRegister, clause by clause, have an instance. -/
theorem test_premises_registerWritesReachTheirRegister :
    (∃ (s : State) (p : Port) (a : BitVec 25), s.portUp p = true ∧ a.toNat % 4 = 0 ∧ assigned (a.toNat / 131072) = true ∧ s.answersAt a.toNat = true) ∧
    (∃ (s : State) (p : Port) (a : BitVec 25), s.portUp p = true ∧ a.toNat % 4 = 0 ∧ assigned (a.toNat / 131072) = false) ∧
    (∃ (s : State) (p : Port) (a : BitVec 25), s.portUp p = true ∧ a.toNat % 4 = 0 ∧ assigned (a.toNat / 131072) = true ∧ s.answersAt a.toNat = false) ∧
    (∃ (s : State) (p : Port) (a : BitVec 25), s.portUp p = true ∧ a.toNat % 4 = 0) := by
  refine ⟨⟨up, .pcie, 0x4#25, ?_, ?_, ?_, ?_⟩,
    ⟨up, .pcie, 0x180000#25, ?_, ?_, ?_⟩,
    ⟨{ up with pwr := { on := 2 } }, .pcie, 0x400000#25, ?_, ?_, ?_, ?_⟩,
    ⟨up, .pcie, 0, ?_, ?_⟩⟩ <;>
    first | decide +kernel | rfl

/-- The premises of SystemControlRegistersReadBack, clause by clause, have an instance. -/
theorem test_premises_systemControlRegistersReadBack :
    ∃ (s : State) (p : Port), s.reaches p 0 := by
  refine ⟨up, .pcie, ?_⟩ <;>
    first | decide +kernel | rfl | exact ⟨by decide +kernel, by decide +kernel⟩

/-- The premises of DownstreamCommandsTakeEffect, clause by clause, have an instance. -/
theorem test_premises_downstreamCommandsTakeEffect_1 :
    (∃ (s : State) (n : LaneId), s.dsOn n = true ∧ (s.lane n).ds.sync ≠ SyncState.sync ∧ (s.lane n).ds.cands.length < 8) ∧
    (∃ (s : State) (n : LaneId) (pos : Nat), s.dsOn n = true ∧ (s.lane n).ds.sync = SyncState.presync ∧ pos ∈ (s.lane n).ds.cands) ∧
    (∃ (s : State) (n : LaneId) (pos : Nat) (errs : Nat), s.dsOn n = true ∧ (s.lane n).ds.sync = SyncState.presync ∧ pos ∈ (s.lane n).ds.cands ∧ errs ≠ 0) ∧
    (∃ (s : State) (n : LaneId) (errs : Nat), s.inSync n = true ∧ errs < 3 ∧ s.tim.refLane ≠ n.val) ∧
    (∃ (s : State) (n : LaneId) (errs : Nat), s.inSync n = true ∧ errs < 3 ∧ s.tim.refLane = n.val) ∧
    (∃ (s : State) (n : LaneId) (errs : Nat), s.inSync n = true ∧ 3 ≤ errs ∧ (s.lane n).ds.misses = 3) ∧
    (∃ (s : State) (n : LaneId), s.inSync n = true ∧ fld (s.lane n).ds.fecTh 20 10 = 0#10 ∧ fld (s.lane n).ds.fecTh 0 20 ≠ 0#20) ∧
    (∃ (s : State) (n : LaneId), s.inSync n = true ∧ (s.lane n).ds.located = true) ∧
    (∃ (s : State) (n : LaneId) (m : Ploam), s.inSync n = true ∧ (s.lane n).ds.located = true ∧ (m.onuId = (s.lane n).ds.onuId ∧ (s.lane n).ds.onuValid = true ∨ m.onuId = 1023#10 ∧ bit (s.lane n).ds.ctl 11 = true)) ∧
    (∃ (s : State) (n : LaneId) (h : XgemHdr) (e : BitVec 20), s.inSync n = true ∧ (s.lane n).ds.delineated = true ∧ (s.lane n).ds.pos + 8 + pad4 h.pli.toNat ≤ 135432 ∧ (s.lane n).ds.marked (s.lane n).ds.pos ((s.lane n).ds.pos + 8 + h.pli.toNat) = false ∧ (s.lane n).ds.portEntry h.port = some e ∧ h.key = 0#2 ∧ portEnc e = false) ∧
    (∃ (s : State) (n : LaneId) (port : BitVec 16), (∃ r ∈ (s.lane n).ds.reasm, r.port = port)) ∧
    (∃ (s : State) (p : Port) (n : LaneId), s.reachesLane p n LaneKind.rx ∧ s.isLine n.val = true ∧ laneItem (s.lane n).ds.winAddr < 256) := by
  refine ⟨⟨lanes 1 { ds := { sync := .presync, cands := [1, 2, 3, 4, 5, 6, 7] } }, 0, ?_, ?_, ?_⟩,
    ⟨lanes 1 { ds := { sync := .presync, cands := [1243] } }, 0, 1243, ?_, ?_, ?_⟩,
    ⟨lanes 1 { ds := { sync := .presync, cands := [1243] } }, 0, 1243, 29, ?_, ?_, ?_, ?_⟩,
    ⟨lanes 1 { ds := { sync := .sync } }, 7, 2, ?_, ?_, ?_⟩,
    ⟨{ lanes 1 { ds := { sync := .sync } } with tim := { ctl := 0x1D#32 } }, 7, 2, ?_, ?_, ?_⟩,
    ⟨lanes 1 { ds := { sync := .sync, misses := 3 } }, 7, 3, ?_, ?_, ?_⟩,
    ⟨lanes 1 { ds := { sync := .sync, fecTh := 0xC00F2F66#32 } }, 7, ?_, ?_, ?_⟩,
    ⟨lanes 1 { ds := { sync := .sync, located := true } }, 7, ?_, ?_⟩,
    ⟨lanes 1 { ds := { sync := .sync, located := true } }, 7, msg .deactivate, ?_, ?_, ?_⟩,
    ⟨lanes 1 { ds := { sync := .sync, delineated := true, pos := 135420, ports := [(0, 0x10105#20)] } }, 7, { pli := 1, key := 0, port := 0x105, options := 0, lf := true }, 0x10105#20, ?_, ?_, ?_, ?_, ?_, ?_, ?_⟩,
    ⟨lanes 1 { ds := { reasm := [{ port := 5, data := [], stamp := {} }] } }, 7, 5, ?_⟩,
    ⟨lanes 1 { ds := { winAddr := 0xFF#32 } }, .pcie, 7, ?_, ?_, ?_⟩⟩ <;>
    first | decide +kernel | rfl | exact ⟨by decide +kernel, by decide +kernel, by decide +kernel⟩

/-- The premises of DownstreamCommandsTakeEffect, clause by clause, have an instance. -/
theorem test_premises_downstreamCommandsTakeEffect_2 :
    ∃ (s : State) (p : Port) (n : LaneId), s.reachesLane p n LaneKind.rx ∧ s.isLine n.val = true ∧ laneItem (s.lane n).ds.winAddr = 772 := by
  refine ⟨lanes 1 { ds := { winAddr := 0x304#32 } }, .pcie, 7, ?_, ?_, ?_⟩ <;>
    first | decide +kernel | rfl | exact ⟨by decide +kernel, by decide +kernel, by decide +kernel⟩

/-- The premises of PloamMessagesAct, clause by clause, have an instance. -/
theorem test_premises_ploamMessagesAct_1 :
    (∃ (s : State) (n : LaneId) (m : Ploam) (rest : List Ploam) (i : BitVec 2) (fec : Bool) (rep : Byte) (pre : Vector Byte 8) (delim : Vector Byte 8), s.stewardOn n = true ∧ (s.lane n).ds.ploamQ = m :: rest ∧ s.micOk n m = true ∧ m.seqOk = true ∧ m.body = PloamBody.burstProfile i fec rep pre true delim ∧ (s.lane n).act.state ≠ ActState.o11 ∧ (s.lane n).act.state ≠ ActState.o12 ∧ (s.lane n).act.state ≠ ActState.o7) ∧
    (∃ (s : State) (n : LaneId) (m : Ploam) (rest : List Ploam) (i : BitVec 2) (fec : Bool) (rep : Byte) (pre : Vector Byte 8) (d8 : Bool) (delim : Vector Byte 8), s.stewardOn n = true ∧ (s.lane n).ds.ploamQ = m :: rest ∧ s.micOk n m = true ∧ m.seqOk = true ∧ m.body = PloamBody.burstProfile i fec rep pre d8 delim ∧ (s.lane n).act.state = ActState.o12) ∧
    (∃ (s : State) (n : LaneId) (m : Ploam) (rest : List Ploam) (sn : W64) (id : BitVec 10), s.stewardOn n = true ∧ (s.lane n).ds.ploamQ = m :: rest ∧ s.micOk n m = true ∧ m.seqOk = true ∧ m.body = PloamBody.assignOnuId sn id ∧ (s.lane n).act.state = ActState.o23 ∧ sn = s.serial n) ∧
    (∃ (s : State) (n : LaneId) (m : Ploam) (rest : List Ploam) (e : W32), s.stewardOn n = true ∧ (s.lane n).ds.ploamQ = m :: rest ∧ s.micOk n m = true ∧ m.seqOk = true ∧ m.body = PloamBody.rangingAbs e ∧ (s.lane n).act.state = ActState.o4) ∧
    (∃ (s : State) (n : LaneId) (m : Ploam) (rest : List Ploam) (d : Int), s.stewardOn n = true ∧ (s.lane n).ds.ploamQ = m :: rest ∧ s.micOk n m = true ∧ m.seqOk = true ∧ m.body = PloamBody.rangingRel d ∧ (s.lane n).act.state = ActState.o51 ∧ 0 ≤ ↑(BitVec.toNat (s.lane n).act.eqd) + d ∧ ↑(BitVec.toNat (s.lane n).act.eqd) + d < 2 ^ 32) ∧
    (∃ (s : State) (n : LaneId) (m : Ploam) (rest : List Ploam) (ds : BitVec 4) (us : BitVec 4) (sched : BitVec 51) (r : NackReason), s.stewardOn n = true ∧ (s.lane n).ds.ploamQ = m :: rest ∧ s.micOk n m = true ∧ m.seqOk = true ∧ m.body = PloamBody.tuningControl false ds us sched ∧ ((s.lane n).act.state = ActState.o51 ∨ (s.lane n).act.state = ActState.o52) ∧ (s.lane n).tuneRefusal ds sched = some r) ∧
    (∃ (s : State) (n : LaneId) (m : Ploam) (rest : List Ploam) (ds : BitVec 4) (us : BitVec 4) (sched : BitVec 51), s.stewardOn n = true ∧ (s.lane n).ds.ploamQ = m :: rest ∧ s.micOk n m = true ∧ m.seqOk = true ∧ m.body = PloamBody.tuningControl false ds us sched ∧ ((s.lane n).act.state = ActState.o51 ∨ (s.lane n).act.state = ActState.o52) ∧ (s.lane n).tuneRefusal ds sched = none) ∧
    (∃ (s : State) (n : LaneId) (m : Ploam) (rest : List Ploam) (ds : BitVec 4) (us : BitVec 4) (t : Tuning), s.stewardOn n = true ∧ (s.lane n).ds.ploamQ = m :: rest ∧ s.micOk n m = true ∧ m.seqOk = true ∧ m.body = PloamBody.channelProfile ds us true ∧ (s.lane n).act.state = ActState.o8 ∧ (s.lane n).act.tuning = some t ∧ t.ds = ds) ∧
    (∃ (s : State) (n : LaneId) (m : Ploam) (rest : List Ploam), s.stewardOn n = true ∧ (s.lane n).ds.ploamQ = m :: rest ∧ s.micOk n m = true ∧ m.seqOk = true ∧ m.body = PloamBody.deactivate ∧ (s.lane n).act.state ≠ ActState.o7) ∧
    (∃ (s : State) (n : LaneId) (m : Ploam) (rest : List Ploam) (all : Bool) (sn : W64), s.stewardOn n = true ∧ (s.lane n).ds.ploamQ = m :: rest ∧ s.micOk n m = true ∧ m.seqOk = true ∧ m.body = PloamBody.disableSn all false sn ∧ (all = true ∨ sn = s.serial n) ∧ (s.lane n).act.state ≠ ActState.o7) ∧
    (∃ (s : State) (n : LaneId) (m : Ploam) (rest : List Ploam) (all : Bool) (sn : W64), s.stewardOn n = true ∧ (s.lane n).ds.ploamQ = m :: rest ∧ s.micOk n m = true ∧ m.seqOk = true ∧ m.body = PloamBody.disableSn all true sn ∧ (all = true ∨ sn = s.serial n) ∧ (s.lane n).act.state = ActState.o7 ∧ (s.lane n).act.rogue = false) ∧
    (∃ (s : State) (n : LaneId) (m : Ploam) (rest : List Ploam) (alloc : BitVec 14), s.stewardOn n = true ∧ (s.lane n).ds.ploamQ = m :: rest ∧ s.micOk n m = true ∧ m.seqOk = true ∧ m.body = PloamBody.assignAllocId alloc true ∧ (s.lane n).ds.onuValid = true ∧ (s.lane n).act.state ≠ ActState.o7 ∧ (s.lane n).pump.filter = Vector.replicate 32 none ∧ s.quadAllocs (quadOf n.val) < s.allocIds (quadOf n.val) ∧ (s.lane n).act.acked m = false) := by
  refine ⟨⟨heard { state := .o23 } profMsg, 7, profMsg, [], 1, true, 8, Vector.replicate 8 0, Vector.replicate 8 0, ?_, ?_, ?_, ?_, ?_, ?_, ?_, ?_⟩,
    ⟨heard { state := .o12 } profMsg, 7, profMsg, [], 1, true, 8, Vector.replicate 8 0, true, Vector.replicate 8 0, ?_, ?_, ?_, ?_, ?_, ?_⟩,
    ⟨heard { state := .o23, snRead := true, snVendor := 0x504C4656#32, snVssn := 0x00041007#32 } (msg (.assignOnuId 0x504C465600041007#64 3)), 7, msg (.assignOnuId 0x504C465600041007#64 3), [], 0x504C465600041007#64, 3, ?_, ?_, ?_, ?_, ?_, ?_, ?_⟩,
    ⟨heard { state := .o4 } (msg (.rangingAbs 970146)), 7, msg (.rangingAbs 970146), [], 970146, ?_, ?_, ?_, ?_, ?_, ?_⟩,
    ⟨heard { state := .o51, eqd := 4 } (msg (.rangingRel (-4))), 7, msg (.rangingRel (-4)), [], -4, ?_, ?_, ?_, ?_, ?_, ?_, ?_, ?_⟩,
    ⟨heard { state := .o52 } (msg (.tuningControl false 3 3 8000)), 7, msg (.tuningControl false 3 3 8000), [], 3, 3, 8000, .busy, ?_, ?_, ?_, ?_, ?_, ?_, ?_⟩,
    ⟨heard { state := .o51, scanMask := 0xFFFF } (msg (.tuningControl false 3 3 8000)), 7, msg (.tuningControl false 3 3 8000), [], 3, 3, 8000, ?_, ?_, ?_, ?_, ?_, ?_, ?_⟩,
    ⟨heard { state := .o8, tuning := some { ds := 3, us := 3, sched := 0 } } (msg (.channelProfile 3 3 true)), 7, msg (.channelProfile 3 3 true), [], 3, 3, { ds := 3, us := 3, sched := 0 }, ?_, ?_, ?_, ?_, ?_, ?_, ?_, ?_⟩,
    ⟨heard { state := .o51 } (msg .deactivate), 7, msg .deactivate, [], ?_, ?_, ?_, ?_, ?_, ?_⟩,
    ⟨heard { state := .o51 } (msg (.disableSn true false 0)), 7, msg (.disableSn true false 0), [], true, 0, ?_, ?_, ?_, ?_, ?_, ?_, ?_⟩,
    ⟨heard { state := .o7 } (msg (.disableSn true true 0)), 7, msg (.disableSn true true 0), [], true, 0, ?_, ?_, ?_, ?_, ?_, ?_, ?_, ?_⟩,
    ⟨quads 1 {} { act := { state := .o51 }, ds := { ctl := 0xC00#32, ploamQ := [msg (.assignAllocId 0x211 true)] } }, 7, msg (.assignAllocId 0x211 true), [], 0x211, ?_, ?_, ?_, ?_, ?_, ?_, ?_, ?_, ?_, ?_⟩⟩ <;>
    first | decide +kernel | rfl

/-- The premises of PloamMessagesAct, clause by clause, have an instance. -/
theorem test_premises_ploamMessagesAct_2 :
    (∃ (s : State) (n : LaneId) (m : Ploam) (rest : List Ploam) (new : Bool) (k : BitVec 2) (b : Bool), s.stewardOn n = true ∧ (s.lane n).ds.ploamQ = m :: rest ∧ s.micOk n m = true ∧ m.seqOk = true ∧ m.body = PloamBody.keyControl new k b ∧ (k = 1 ∨ k = 2) ∧ (s.lane n).ds.onuValid = true ∧ (s.lane n).act.state ≠ ActState.o7 ∧ (s.lane n).act.acked m = false ∧ new = false) ∧
    (∃ (s : State) (n : LaneId) (m : Ploam) (rest : List Ploam) (new : Bool) (k : BitVec 2) (b : Bool), s.stewardOn n = true ∧ (s.lane n).ds.ploamQ = m :: rest ∧ s.micOk n m = true ∧ m.seqOk = true ∧ m.body = PloamBody.keyControl new k b ∧ (k = 1 ∨ k = 2) ∧ (s.lane n).ds.onuValid = true ∧ (s.lane n).act.state ≠ ActState.o7 ∧ (s.lane n).act.acked m = false ∧ new = true ∧ s.key.trngFail = false) ∧
    (∃ (s : State) (n : LaneId) (m : Ploam) (rest : List Ploam) (new : Bool) (k : BitVec 2) (b : Bool), s.stewardOn n = true ∧ (s.lane n).ds.ploamQ = m :: rest ∧ s.micOk n m = true ∧ m.seqOk = true ∧ m.body = PloamBody.keyControl new k b ∧ (k = 1 ∨ k = 2) ∧ (s.lane n).ds.onuValid = true ∧ (s.lane n).act.state ≠ ActState.o7 ∧ (s.lane n).act.acked m = false ∧ new = true ∧ s.key.trngFail = true) ∧
    (∃ (s : State) (n : LaneId) (m : Ploam) (rest : List Ploam), s.stewardOn n = true ∧ (s.lane n).ds.ploamQ = m :: rest ∧ s.micOk n m = true ∧ m.seqOk = true ∧ (s.lane n).act.lists (s.lane n).ds.onuValid m = false ∧ (s.lane n).act.acked m = false) ∧
    (∃ (s : State) (n : LaneId) (m : Ploam) (rest : List Ploam), s.stewardOn n = true ∧ (s.lane n).ds.ploamQ = m :: rest ∧ s.micOk n m = true ∧ m.seqOk = true ∧ (s.lane n).act.acked m = true ∧ (s.lane n).act.lists (s.lane n).ds.onuValid m = false) ∧
    (∃ (s : State) (n : LaneId) (m : Ploam) (rest : List Ploam), s.stewardOn n = true ∧ (s.lane n).ds.ploamQ = m :: rest ∧ s.micOk n m = true ∧ m.seqOk = true ∧ (s.lane n).act.acked m = true ∧ (s.lane n).act.lists (s.lane n).ds.onuValid m = true ∧ (((s.popPloam n).onPloam n m).lane n).act.state = ActState.o9) ∧
    (∃ (s : State) (n : LaneId) (m : Ploam) (rest : List Ploam), s.stewardOn n = true ∧ (s.lane n).ds.ploamQ = m :: rest ∧ (s.micOk n m = false ∨ m.seqOk = false) ∧ m.body = PloamBody.deactivate) ∧
    (∃ (s : State) (n : LaneId) (m : Ploam) (rest : List Ploam), s.stewardOn n = true ∧ (s.lane n).ds.ploamQ = m :: rest ∧ (s.micOk n m = false ∨ m.seqOk = false) ∧ (∃ (a : Bool) (e : Bool) (sn : W64), m.body = PloamBody.disableSn a e sn)) ∧
    (∃ (s : State) (n : LaneId) (m : Ploam) (rest : List Ploam), s.stewardOn n = true ∧ (s.lane n).ds.ploamQ = m :: rest ∧ (s.micOk n m = false ∨ m.seqOk = false) ∧ (∃ (a : W64) (e : BitVec 10), m.body = PloamBody.assignOnuId a e)) := by
  refine ⟨?_, ?_, ?_, ?_, ?_, ?_, ?_, ?_, ?_⟩
  · refine ⟨heard { state := .o51 } (msg (.keyControl false 2 true)), 7, msg (.keyControl false 2 true), [], false, 2, true, ?_, ?_, ?_, ?_, ?_, ?_, ?_, ?_, ?_, ?_⟩ <;>
      first | decide +kernel | rfl
  · refine ⟨heard { state := .o51 } (msg (.keyControl true 2 true)), 7, msg (.keyControl true 2 true), [], true, 2, true, ?_, ?_, ?_, ?_, ?_, ?_, ?_, ?_, ?_, ?_, ?_⟩ <;>
      first | decide +kernel | rfl
  · refine ⟨{ heard { state := .o51 } (msg (.keyControl true 2 true)) with key := { trngFail := true } }, 7, msg (.keyControl true 2 true), [], true, 2, true, ?_, ?_, ?_, ?_, ?_, ?_, ?_, ?_, ?_, ?_, ?_⟩ <;>
      first | decide +kernel | rfl
  · refine ⟨heard { state := .o11 } (msg (.rangingAbs 0)), 7, msg (.rangingAbs 0), [], ?_, ?_, ?_, ?_, ?_, ?_⟩ <;>
      first | decide +kernel | rfl
  · refine ⟨heard { state := .o9 } (Ploam.mk 0 true true true true .other), 7, Ploam.mk 0 true true true true .other, [], ?_, ?_, ?_, ?_, ?_, ?_⟩ <;>
      first | decide +kernel | rfl
  · refine ⟨heard { state := .o9 } { profMsg with onuId := 0, acksComplete := true }, 7, { profMsg with onuId := 0, acksComplete := true }, [], ?_, ?_, ?_, ?_, ?_, ?_, ?_⟩ <;>
      first | decide +kernel | rfl
  · refine ⟨heard {} (Ploam.mk 0 false false true false .deactivate), 7, Ploam.mk 0 false false true false .deactivate, [], ?_, ?_, ?_, ?_⟩ <;>
      first | decide +kernel | rfl
  · refine ⟨heard {} (Ploam.mk 0 true true false false (.disableSn true false 0)), 7, Ploam.mk 0 true true false false (.disableSn true false 0), [], ?_, ?_, ?_, ?_⟩ <;>
      first | exact ⟨_, _, rfl⟩ | exact ⟨_, _, _, rfl⟩ | decide +kernel
  · refine ⟨heard {} (Ploam.mk 0 true true false false (.assignOnuId 0 0)), 7, Ploam.mk 0 true true false false (.assignOnuId 0 0), [], ?_, ?_, ?_, ?_⟩ <;>
      first | exact ⟨_, _, rfl⟩ | exact ⟨_, _, _, rfl⟩ | decide +kernel

/-- The premises of ActivationConditionsAct, clause by clause, have an instance. -/
theorem test_premises_activationConditionsAct :
    (∃ (s : State) (n : LaneId), s.stewardOn n = true ∧ (s.lane n).act.state = ActState.o4 ∧ (s.lane n).act.to1.isSome = true) ∧
    (∃ (s : State) (n : LaneId), s.stewardOn n = true ∧ (s.lane n).act.state = ActState.o6 ∧ (s.lane n).act.to2.isSome = true) ∧
    (∃ (s : State) (n : LaneId), s.stewardOn n = true ∧ (s.lane n).act.state = ActState.o8 ∧ (s.lane n).act.to4.isSome = true) ∧
    (∃ (s : State) (n : LaneId), s.stewardOn n = true ∧ (s.lane n).act.state = ActState.o9 ∧ (s.lane n).act.to5.isSome = true) ∧
    (∃ (s : State) (n : LaneId) (x : NewKey), s.stewardOn n = true ∧ List.find? (fun (x : NewKey) => !(s.lane n).act.reportWaits x) (s.lane n).act.newKeys = some x) ∧
    (∃ (s : State) (n : LaneId) (t : Tuning), s.stewardOn n = true ∧ (s.lane n).act.tuning = some t ∧ (s.lane n).act.state = ActState.o52 ∧ ((s.lane n).ds.sfc - t.sched).toNat < 2 ^ 50) ∧
    (∃ (s : State) (p : Port) (q : QuadId) (w : W32) (n : LaneId) (r : TuneReq), s.reaches p (16 + q.val) ∧ (fld w 16 2 = 1#2 ∨ fld w 16 2 = 2#2) ∧ laneOf q (fld w 0 5).toNat = some n ∧ s.isLine n.val = true ∧ List.find? (fun (r : TuneReq) => r.slice == fld w 0 5 && r.seq == fld w 8 8) (s.steward q).tuneReqs = some r) ∧
    (∃ (s : State) (n : LaneId) (c : BitVec 4), s.stewardOn n = true ∧ (s.lane n).act.state = ActState.o11 ∧ (s.lane n).act.scan = true ∧ (s.lane n).ds.sync ≠ SyncState.sync ∧ (∀ r ∈ (s.steward (quadFin n)).tuneReqs, r.slice.toNat ≠ n.val % 24) ∧ nextChannel (s.lane n).act.scanMask (s.lane n).act.scanFrom = some c) := by
  refine ⟨⟨lanes 1 { act := { state := .o4, to1 := some 10000 } }, 7, ?_, ?_, ?_⟩,
    ⟨lanes 1 { act := { state := .o6, to2 := some 100 } }, 7, ?_, ?_, ?_⟩,
    ⟨lanes 1 { act := { state := .o8, to4 := some 1000 } }, 7, ?_, ?_, ?_⟩,
    ⟨lanes 1 { act := { state := .o9, to5 := some 1000 } }, 7, ?_, ?_, ?_⟩,
    ⟨lanes 1 { act := { newKeys := [⟨1, [], []⟩] } }, 7, ⟨1, [], []⟩, ?_, ?_⟩,
    ⟨lanes 1 { act := { state := .o52, tuning := some { ds := 3, us := 3, sched := 5 } }, ds := { sfc := 5 } }, 7, { ds := 3, us := 3, sched := 5 }, ?_, ?_, ?_, ?_⟩,
    ⟨stewards { tuneReqs := [{ slice := 7, ds := 3, us := 3, scan := false, seq := 5 }] }, .pcie, 0, 0x00010507#32, 7, { slice := 7, ds := 3, us := 3, scan := false, seq := 5 }, ?_, ?_, ?_, ?_, ?_⟩,
    ⟨lanes 1 { act := { scan := true, scanCh := some 14, scanMask := 0x8001#16 } }, 7, 15, ?_, ?_, ?_, ?_, ?_, ?_⟩⟩ <;>
    first | decide +kernel | rfl | exact ⟨by decide +kernel, by decide +kernel⟩

/-- The premises of StewardCommandsTakeEffect, clause by clause, have an instance. -/
theorem test_premises_stewardCommandsTakeEffect :
    (∃ (s : State) (p : Port) (q : QuadId) (force : Bool), s.reaches p (16 + q.val) ∧ (s.steward q).isBusy = false ∧ (s.steward q).altValid = true ∧ (fwFormat ((s.steward q).image (s.steward q).runBank) = fwFormat ((s.steward q).image !(s.steward q).runBank) ∨ force = true)) ∧
    (∃ (s : State) (p : Port) (q : QuadId) (slice : BitVec 5) (n : LaneId) (k : BitVec 2), s.reaches p (16 + q.val) ∧ (s.steward q).isBusy = false ∧ laneOf q slice.toNat = some n ∧ s.isLine n.val = true ∧ (k = 1 ∨ k = 2)) ∧
    (∃ (s : State) (p : Port) (q : QuadId) (slice : BitVec 5) (n : LaneId), s.reaches p (16 + q.val) ∧ (s.steward q).isBusy = false ∧ laneOf q slice.toNat = some n ∧ s.isLine n.val = true ∧ (s.lane n).act.state = ActState.o7 ∧ s.disabled n = false) ∧
    (∃ (s : State) (p : Port) (q : QuadId) (slice : BitVec 5) (n : LaneId), s.reaches p (16 + q.val) ∧ (s.steward q).isBusy = false ∧ laneOf q slice.toNat = some n ∧ s.isLine n.val = true ∧ s.disabled n = true ∧ (s.lane n).act.state ≠ ActState.o7) ∧
    (∃ (s : State) (p : Port) (q : QuadId) (slice : BitVec 5) (n : LaneId), s.reaches p (16 + q.val) ∧ (s.steward q).isBusy = false ∧ laneOf q slice.toNat = some n ∧ s.isLine n.val = true ∧ s.disabled n = true ∧ (s.lane n).act.state = ActState.o7 ∧ (s.lane n).act.rogue = false) ∧
    (∃ (s : State) (p : Port) (q : QuadId), s.reaches p (16 + q.val) ∧ (s.steward q).isBusy = true) := by
  refine ⟨?_, ?_, ?_, ?_, ?_, ?_⟩
  · refine ⟨stewards { altValid := true }, .pcie, 3, true, ?_, ?_, ?_, ?_⟩ <;>
      first | decide +kernel | exact ⟨by decide +kernel, by decide +kernel⟩ | exact .inr rfl
  · refine ⟨lanes 1 { act := { state := .o7 } }, .pcie, 3, 23, 95, 1, ?_, ?_, ?_, ?_, ?_⟩ <;>
      first | decide +kernel | rfl | exact ⟨by decide +kernel, by decide +kernel⟩
  · refine ⟨lanes 1 { act := { state := .o7 } }, .pcie, 3, 23, 95, ?_, ?_, ?_, ?_, ?_, ?_⟩ <;>
      first | decide +kernel | rfl | exact ⟨by decide +kernel, by decide +kernel⟩
  · refine ⟨{ lanes 1 {} with vault := { disabled := BitVec.allOnes 96 } }, .pcie, 0, 0, 0, ?_, ?_, ?_, ?_, ?_, ?_⟩ <;>
      first | decide +kernel | rfl | exact ⟨by decide +kernel, by decide +kernel⟩
  · refine ⟨{ lanes 1 { act := { state := .o7 } } with vault := { disabled := BitVec.allOnes 96 } }, .pcie, 0, 0, 0, ?_, ?_, ?_, ?_, ?_, ?_, ?_⟩ <;>
      first | decide +kernel | rfl | exact ⟨by decide +kernel, by decide +kernel⟩
  · refine ⟨stewards { busy := some .loadFw }, .pcie, 0, ?_, ?_⟩ <;>
      first | decide +kernel | rfl | exact ⟨by decide +kernel, by decide +kernel⟩

/-- The premises of StewardConditionsAct, clause by clause, have an instance. -/
theorem test_premises_stewardConditionsAct :
    (∃ (s : State) (q : QuadId) (force : Bool), (s.steward q).swap = SwapStage.pending force ∧ (force = false ∨ fwFormat ((s.steward q).image (s.steward q).runBank) = fwFormat ((s.steward q).image !(s.steward q).runBank))) ∧
    (∃ (s : State) (q : QuadId), (s.steward q).swap = SwapStage.pending true ∧ fwFormat ((s.steward q).image (s.steward q).runBank) ≠ fwFormat ((s.steward q).image !(s.steward q).runBank)) ∧
    (∃ (s : State) (q : QuadId), (s.steward q).swap = SwapStage.checking) ∧
    (∃ (s : State) (q : QuadId), s.isOn (dQuad q.val) = true ∧ s.clocked = true ∧ (s.steward q).altValid = true) ∧
    (∃ (s : State) (q : QuadId), s.isOn (dQuad q.val) = true ∧ (s.steward q).busy = some StwCmd.commitFw) ∧
    (∃ (s : State) (q : QuadId) (slice : BitVec 5) (k : BitVec 2) (n : LaneId) (kek : List Byte), s.isOn (dQuad q.val) = true ∧ (s.steward q).busy = some (StwCmd.bcastKey slice k) ∧ laneOf q slice.toNat = some n ∧ s.tcKeyOf n 2 = some kek) ∧
    (∃ (s : State) (q : QuadId), s.isOn (dQuad q.val) = true ∧ (s.steward q).busy = some StwCmd.loadFw) ∧
    (∃ (s : State) (q : QuadId) (p : Port) (w : W32), s.reaches p (16 + q.val) ∧ (s.steward q).optBusy = false ∧ bit w 20 = true) ∧
    (∃ (s : State) (q : QuadId), (s.steward q).optBusy = true ∧ (s.steward q).optRun = none) ∧
    (∃ (s : State) (q : QuadId) (len : Nat), (s.steward q).optBusy = true ∧ (s.steward q).optRun = some len ∧ len ≤ 4) ∧
    (∃ (s : State) (q : QuadId) (p : Port) (n : LaneId), s.reaches p (16 + q.val) ∧ s.stwSel q = some n ∧ s.stwItem q = 3) := by
  refine ⟨⟨stewards { swap := .pending true, bank := Vector.replicate 2 (some { bytes := [], version := 1, stateFmt := 1 }) }, 0, true, ?_, ?_⟩,
    ⟨stewards { swap := .pending true, bank := #v[some { bytes := [], version := 1, stateFmt := 1 }, some { bytes := [], version := 1, stateFmt := 2 }] }, 0, ?_, ?_⟩,
    ⟨stewards { swap := .checking }, 0, ?_⟩,
    ⟨stewards { altValid := true }, 0, ?_, ?_, ?_⟩,
    ⟨stewards { busy := some .commitFw }, 0, ?_, ?_⟩,
    ⟨{ lanes 1 {} with stw := Vector.replicate 4 { busy := some (.bcastKey 7 1) }, key := { tcSk := [(7, [])] } }, 0, 7, 1, 7, Config.tcDerived 2 [], ?_, ?_, ?_, ?_⟩,
    ⟨stewards { busy := some .loadFw }, 0, ?_, ?_⟩,
    ⟨up, 0, .pcie, 0x00100000#32, ?_, ?_, ?_⟩,
    ⟨stewards { optBusy := true }, 0, ?_, ?_⟩,
    ⟨stewards { optBusy := true, optRun := some 4 }, 0, 4, ?_, ?_, ?_⟩,
    ⟨stewards { laneSel := 0x307#32 }, 0, .pcie, 7, ?_, ?_, ?_⟩⟩ <;>
    first | decide +kernel | rfl | exact ⟨by decide +kernel, by decide +kernel⟩

/-- The premises of PumpCommandsTakeEffect, clause by clause, have an instance. -/
theorem test_premises_pumpCommandsTakeEffect_1 :
    (∃ (s : State) (n : LaneId) (g : GrantIn) (t : List GrantIn) (b : Burst), s.isLine n.val = true ∧ (s.lane n).pump.grantQ = g :: t ∧ (s.lane n).act.state ≠ ActState.o23 ∧ b = { g.a with id := (s.lane n).pump.nextId, grants := List.map (fun (x : GrantIn) => x.grant) (g :: contGrants g t), start := g.a.start.toNat, frame := g.frame, sfc := g.sfc } ∧ (s.modPump n fun (p : Pump) => { p with grantQ := List.drop (contGrants g t).length t }).burstAllowed n b = false) ∧
    (∃ (s : State) (n : LaneId) (ns : Nat) (g : GrantIn) (t : List GrantIn) (b : Burst) (c : Nat) (cause : BitVec 3), s.isLine n.val = true ∧ (s.lane n).pump.grantQ = g :: t ∧ (s.lane n).act.state ≠ ActState.o23 ∧ b = { g.a with id := (s.lane n).pump.nextId, grants := List.map (fun (x : GrantIn) => x.grant) (g :: contGrants g t), start := g.a.start.toNat, frame := g.frame, sfc := g.sfc } ∧ (s.modPump n fun (p : Pump) => { p with grantQ := List.drop (contGrants g t).length t }).burstAllowed n b = true ∧ (s.modPump n fun (p : Pump) => { p with grantQ := List.drop (contGrants g t).length t }).refuseBurst n g (contGrants g t) b ns = some (c, cause)) ∧
    (∃ (s : State) (n : LaneId) (ns : Nat) (g : GrantIn) (t : List GrantIn) (b : Burst) (pr : Profile), s.isLine n.val = true ∧ (s.lane n).pump.grantQ = g :: t ∧ (s.lane n).act.state ≠ ActState.o23 ∧ b = { g.a with id := (s.lane n).pump.nextId, grants := List.map (fun (x : GrantIn) => x.grant) (g :: contGrants g t), start := g.a.start.toNat, frame := g.frame, sfc := g.sfc } ∧ (s.modPump n fun (p : Pump) => { p with grantQ := List.drop (contGrants g t).length t }).burstAllowed n b = true ∧ (s.modPump n fun (p : Pump) => { p with grantQ := List.drop (contGrants g t).length t }).refuseBurst n g (contGrants g t) b ns = none ∧ vget none ((s.modPump n fun (p : Pump) => { p with grantQ := List.drop (contGrants g t).length t }).lane n).pump.profiles b.profile.toNat = some pr) ∧
    (∃ (s : State) (n : LaneId) (j : Nat) (e : Queued), s.isLine n.val = true ∧ s.grantedQueue n j = true ∧ s.cstRoom 2 = true ∧ List.find? Queued.inCistern ((s.tm (quadOf n.val) false).queue j).frames = some e) ∧
    (∃ (s : State) (n : LaneId) (b : Burst), (s.lane n).pump.first BurstState.granted = some b ∧ s.burstAllowed n b = false) ∧
    (∃ (s : State) (n : LaneId) (b : Burst), (s.lane n).pump.first BurstState.granted = some b ∧ s.burstAllowed n b = true ∧ vget none (s.lane n).pump.profiles b.profile.toNat = none) ∧
    (∃ (s : State) (n : LaneId) (b : Burst) (pr : Profile), (s.lane n).pump.first BurstState.granted = some b ∧ s.burstAllowed n b = true ∧ vget none (s.lane n).pump.profiles b.profile.toNat = some pr) ∧
    (∃ (s : State) (n : LaneId) (j : Nat) (keep : Nat), s.isLine n.val = true ∧ s.grantedQueue n j = true ∧ bytesBefore ((s.tm (quadOf n.val) false).queue j).frames = some keep) ∧
    (∃ (s : State) (n : LaneId) (b : Burst), (s.lane n).pump.first BurstState.assembling = some b ∧ s.noTx n = true) ∧
    (∃ (s : State) (n : LaneId) (b : Burst), (s.lane n).pump.first BurstState.assembling = some b ∧ s.noTx n = false ∧ s.suppressed n = true) ∧
    (∃ (s : State) (n : LaneId) (b : Burst), (s.lane n).pump.first BurstState.assembling = some b ∧ s.noTx n = false ∧ s.suppressed n = false ∧ (s.lane n).act.state.silent = false) ∧
    (∃ (s : State) (n : LaneId) (b : Burst), (s.lane n).pump.first BurstState.assembling = some b ∧ s.noTx n = false ∧ s.suppressed n = false ∧ (s.lane n).act.state.silent = true) := by
  refine ⟨⟨pumps { grantQ := [grantIn] }, 7, grantIn, [], grantBurst, ?_, ?_, ?_, ?_, ?_⟩,
    ⟨pumps { grantQ := [grantIn], filter := Vector.replicate 32 (some { alloc := 0x211 }) }, 7, 0, grantIn, [], grantBurst, 8, 4, ?_, ?_, ?_, ?_, ?_, ?_⟩,
    ⟨pumps { grantQ := [grantIn], filter := Vector.replicate 32 (some { alloc := 0x211 }), profiles := Vector.replicate 4 (some prof) }, 7, 0, grantIn, [], grantBurst, prof, ?_, ?_, ?_, ?_, ?_, ?_, ?_⟩,
    ⟨late, 7, 0, { frame := { bytes := zeros 64 }, inCistern := true, chosen := 64 }, ?_, ?_, ?_, ?_⟩,
    ⟨pumps { bursts := [grantBurst] }, 7, grantBurst, ?_, ?_⟩,
    ⟨pumps { bursts := [{ id := 0 }] }, 7, { id := 0 }, ?_, ?_, ?_⟩,
    ⟨pumps { bursts := [{ id := 0 }], profiles := Vector.replicate 4 (some prof) }, 7, { id := 0 }, prof, ?_, ?_, ?_⟩,
    ⟨late, 7, 0, 0, ?_, ?_, ?_⟩,
    ⟨pumps { bursts := [{ id := 0, state := .assembling }] }, 7, { id := 0, state := .assembling }, ?_, ?_⟩,
    ⟨{ serving .o51 with pins := { thermalStop := true } }, 7, { id := 0, state := .assembling }, ?_, ?_, ?_⟩,
    ⟨serving .o51, 7, { id := 0, state := .assembling }, ?_, ?_, ?_, ?_⟩,
    ⟨serving .o11, 7, { id := 0, state := .assembling }, ?_, ?_, ?_, ?_⟩⟩ <;>
    first | decide +kernel | rfl | exact decide_eq_true (Nat.zero_le _)

/-- The premises of PumpCommandsTakeEffect, clause by clause, have an instance. -/
theorem test_premises_pumpCommandsTakeEffect_2 :
    (∃ (s : State) (n : LaneId) (b : Burst), (s.lane n).pump.first BurstState.serving = some b) ∧
    (∃ (s : State) (p : Port) (n : LaneId), s.reachesLane p n LaneKind.common ∧ s.isLine n.val = true ∧ laneItem (s.lane n).pump.winAddr < 32) ∧
    (∃ (s : State) (p : Port) (n : LaneId) (e : AllocEntry), s.reachesLane p n LaneKind.common ∧ s.isLine n.val = true ∧ laneItem (s.lane n).pump.winAddr < 32 ∧ vget none (s.lane n).pump.filter (laneItem (s.lane n).pump.winAddr) = some e) := by
  refine ⟨⟨pumps { bursts := [{ id := 0, state := .serving }] }, 7, { id := 0, state := .serving }, ?_⟩,
    ⟨pumps {}, .pcie, 7, ?_, ?_, ?_⟩,
    ⟨pumps { filter := Vector.replicate 32 (some { alloc := 0x211 }), winAddr := 0x1F#32 }, .pcie, 7, { alloc := 0x211 }, ?_, ?_, ?_, ?_⟩⟩ <;>
    first | decide +kernel | rfl | exact ⟨by decide +kernel, by decide +kernel, by decide +kernel⟩

/-- The premises of BondCommandsTakeEffect, clause by clause, have an instance. -/
theorem test_premises_bondCommandsTakeEffect :
    (∃ (s : State) (n : LaneId) (b : List Byte) (rest : List (List Byte)) (g : Nat) (m : BondMsg), s.isLine n.val = true ∧ s.isOn (dQuad (quadOf n.val)) = true ∧ (s.lane n).ds.bondQ = b :: rest ∧ s.groupOf n.val = some g ∧ parseBond (s.tcKey n 0) b = some m ∧ m.type = 2 ∧ s.mstate n = MState.probe ∧ s.joinResult n m ≠ 0) ∧
    (∃ (s : State) (n : LaneId) (b : List Byte) (rest : List (List Byte)) (g : Nat) (m : BondMsg), s.isLine n.val = true ∧ s.isOn (dQuad (quadOf n.val)) = true ∧ (s.lane n).ds.bondQ = b :: rest ∧ s.groupOf n.val = some g ∧ parseBond (s.tcKey n 0) b = some m ∧ m.type = 2 ∧ s.mstate n = MState.probe ∧ s.joinResult n m = 0) ∧
    (∃ (s : State) (n : LaneId) (b : List Byte) (rest : List (List Byte)) (g : Nat) (m : BondMsg), s.isLine n.val = true ∧ s.isOn (dQuad (quadOf n.val)) = true ∧ (s.lane n).ds.bondQ = b :: rest ∧ s.groupOf n.val = some g ∧ parseBond (s.tcKey n 0) b = some m ∧ m.type = 4 ∧ s.mstate n = MState.joined) ∧
    (∃ (s : State) (n : LaneId) (b : List Byte) (rest : List (List Byte)) (g : Nat) (m : BondMsg), s.isLine n.val = true ∧ s.isOn (dQuad (quadOf n.val)) = true ∧ (s.lane n).ds.bondQ = b :: rest ∧ s.groupOf n.val = some g ∧ parseBond (s.tcKey n 0) b = some m ∧ m.type = 5 ∧ s.mstate n ≠ MState.idle) ∧
    (∃ (s : State) (n : LaneId) (b : List Byte) (rest : List (List Byte)) (g : Nat) (m : BondMsg), s.isLine n.val = true ∧ s.isOn (dQuad (quadOf n.val)) = true ∧ (s.lane n).ds.bondQ = b :: rest ∧ s.groupOf n.val = some g ∧ parseBond (s.tcKey n 0) b = some m ∧ m.type = 6 ∧ s.mstate n = MState.probe) ∧
    (∃ (s : State) (n : LaneId) (b : List Byte) (rest : List (List Byte)) (g : Nat), s.isLine n.val = true ∧ s.isOn (dQuad (quadOf n.val)) = true ∧ (s.lane n).ds.bondQ = b :: rest ∧ s.groupOf n.val = some g ∧ b.length ≠ 48) ∧
    (∃ (s : State) (n : LaneId) (g : Nat), s.isOn (dQuad (quadOf n.val)) = true ∧ (s.mstate n = MState.joined ∨ s.mstate n = MState.up ∨ s.mstate n = MState.skewed) ∧ s.groupOf n.val = some g) ∧
    (∃ (s : State) (n : LaneId) (g : Nat), s.isOn (dQuad (quadOf n.val)) = true ∧ (s.mstate n = MState.up ∨ s.mstate n = MState.skewed) ∧ s.groupOf n.val = some g) ∧
    (∃ (s : State) (n : LaneId), s.isOn (dQuad (quadOf n.val)) = true ∧ s.isLine n.val = true ∧ (s.groupOf n.val).isSome = true ∧ s.mstate n = MState.idle ∧ (s.lane n).act.state = ActState.o51 ∧ s.bondPort n = false) ∧
    (∃ (s : State) (n : LaneId) (g : Nat), s.groupOf n.val = some g ∧ s.inSync n = true ∧ s.mstate n ≠ MState.up ∧ s.mstate n ≠ MState.skewed) := by
  refine ⟨⟨bonded { ds := { bondQ := [bondWord 2] }, bond := { state := .probe } } { token := 5 }, 7, bondWord 2, [], 0, bondHeard 2, ?_, ?_, ?_, ?_, ?_, ?_, ?_, ?_⟩,
    ⟨bonded { ds := { bondQ := [bondWord 2] }, bond := { state := .probe } }, 7, bondWord 2, [], 0, bondHeard 2, ?_, ?_, ?_, ?_, ?_, ?_, ?_, ?_⟩,
    ⟨bonded { ds := { bondQ := [bondWord 4] }, bond := { state := .joined } }, 7, bondWord 4, [], 0, bondHeard 4, ?_, ?_, ?_, ?_, ?_, ?_, ?_⟩,
    ⟨bonded { ds := { bondQ := [bondWord 5] }, bond := { state := .joined } }, 7, bondWord 5, [], 0, bondHeard 5, ?_, ?_, ?_, ?_, ?_, ?_, ?_⟩,
    ⟨bonded { ds := { bondQ := [bondWord 6] }, bond := { state := .probe } }, 7, bondWord 6, [], 0, bondHeard 6, ?_, ?_, ?_, ?_, ?_, ?_, ?_⟩,
    ⟨bonded { ds := { bondQ := [[]] }, bond := { state := .probe } }, 7, [], [], 0, ?_, ?_, ?_, ?_, ?_⟩,
    ⟨bonded { bond := { state := .skewed } }, 7, 0, ?_, ?_, ?_⟩,
    ⟨bonded { bond := { state := .up } }, 7, 0, ?_, ?_, ?_⟩,
    ⟨bonded { act := { state := .o51 } }, 7, ?_, ?_, ?_, ?_, ?_, ?_⟩,
    ⟨bonded { ds := { sync := .sync } }, 7, 0, ?_, ?_, ?_, ?_⟩⟩ <;>
    first | decide +kernel | rfl | exact parse_bondWord _ (by decide)

/-- The premises of GroupCommandsTakeEffect, clause by clause, have an instance. -/
theorem test_premises_groupCommandsTakeEffect :
    (∃ (s : State) (n : LaneId) (g : Nat) (u : Sdu) (rest : List Sdu), (s.lane n).ds.sduQ = u :: rest ∧ s.groupOf n.val = some g ∧ s.carries n = true ∧ s.cst.mode ≠ CstMode.offline ∧ ((s.group g).lastReleased = none ∨ ∃ (r : BitVec 51), (s.group g).lastReleased = some r ∧ tagAfter u.tag r = true) ∧ (s.group g).buffered n.val + u.bytes.length ≤ s.skewPart g ∧ s.cstRoom 0 = true) ∧
    (∃ (s : State) (n : LaneId) (g : Nat) (u : Sdu) (rest : List Sdu), (s.lane n).ds.sduQ = u :: rest ∧ s.groupOf n.val = some g ∧ s.carries n = true ∧ s.cst.mode ≠ CstMode.offline ∧ ((s.group g).lastReleased = none ∨ ∃ (r : BitVec 51), (s.group g).lastReleased = some r ∧ tagAfter u.tag r = true) ∧ s.skewPart g < (s.group g).buffered n.val + u.bytes.length) ∧
    (∃ (s : State) (g : GroupId) (r : BitVec 51), g.val < 8 ∧ (s.group g.val).en = true ∧ (s.group g.val).lastReleased = some r ∧ s.allSeen (g.val) (r + 1 + 1) = true ∧ ((s.memberLanes g.val).any fun (n : LaneId) => s.mstate n == MState.up) = true) ∧
    (∃ (s : State) (p : Port) (g : GroupId) (w : W32), s.reaches p 9 ∧ s.cst.grp = g.val ∧ s.cst.grpItem = 0 ∧ bit w 0 = true ∧ s.feature (groupFeature g.val) = false) ∧
    (∃ (s : State) (p : Port) (g : GroupId) (w : W32), s.reaches p 9 ∧ s.cst.grp = g.val ∧ s.cst.grpItem = 0 ∧ bit w 0 = true ∧ (s.group g.val).en = false ∧ s.feature (groupFeature g.val) = true ∧ (s.modGroup g.val fun (x : Machine.Group) => { x with w0 := setBit (w &&& groupMask) 0 false }).refuseGroup (g.val) ((s.modGroup g.val fun (x : Machine.Group) => { x with w0 := setBit (w &&& groupMask) 0 false }).group g.val) = none) ∧
    (∃ (s : State) (p : Port) (g : GroupId) (w : W32) (c : BitVec 3), s.reaches p 9 ∧ s.cst.grp = g.val ∧ s.cst.grpItem = 0 ∧ bit w 0 = true ∧ (s.group g.val).en = false ∧ s.feature (groupFeature g.val) = true ∧ (s.modGroup g.val fun (x : Machine.Group) => { x with w0 := setBit (w &&& groupMask) 0 false }).refuseGroup (g.val) ((s.modGroup g.val fun (x : Machine.Group) => { x with w0 := setBit (w &&& groupMask) 0 false }).group g.val) = some c) ∧
    (∃ (s : State) (p : Port) (g : GroupId) (w : W32), s.reaches p 9 ∧ s.cst.grp = g.val ∧ s.cst.grpItem = 0 ∧ bit w 0 = false ∧ (s.group g.val).en = true) ∧
    (∃ (s : State) (p : Port) (g : GroupId) (w : W32), s.reaches p 9 ∧ s.cst.grp = g.val ∧ s.cst.grpItem = 0 ∧ (bit w 0 = false ∨ s.feature (groupFeature g.val) = true)) ∧
    (∃ (s : State) (p : Port) (g : GroupId), s.reaches p 9 ∧ g.val < 8 ∧ s.cst.grp = g.val ∧ s.cst.grpItem = 8 ∧ bit s.cst.grpSel 17 = true) ∧
    (∃ (s : State) (p : Port) (w : W32) (n : LaneId), s.reaches p 9 ∧ (fld w 0 7).toNat = n.val ∧ bit w 7 = true ∧ s.mstate n = MState.indep) ∧
    (∃ (s : State) (g : GroupId), 8 ≤ g.val ∧ (s.group g.val).en = true ∧ (s.group g.val).gstate = GState.fail ∧ s.anyFailed (s.group g.val) = false) ∧
    (∃ (s : State) (g : GroupId) (pos : Fin 64) (n : LaneId), 8 ≤ g.val ∧ (s.group g.val).en = true ∧ (s.group g.val).seqValid pos.val = true ∧ (s.group g.val).seqLane pos.val = n.val ∧ s.sdhOn n = true ∧ (s.lane n).com.sigdet = true ∧ (s.lane n).sdh.lof = false ∧ (vget {  } (s.lane n).sdh.au ((s.group g.val).seqAu pos.val)).ais.on = false ∧ (vget {  } (s.lane n).sdh.au ((s.group g.val).seqAu pos.val)).lop.on = false) := by
  refine ⟨⟨bonded { ds := { sduQ := [sdu []] }, bond := { state := .up } }, 7, 0, sdu [], [], ?_, ?_, ?_, ?_, ?_, ?_, ?_⟩,
    ⟨bonded { ds := { sduQ := [sdu [0]] }, bond := { state := .up } }, 7, 0, sdu [0], [], ?_, ?_, ?_, ?_, ?_, ?_⟩,
    ⟨bonded { bond := { state := .up, seen := some 7 } } { lastReleased := some 5 }, 0, 5, ?_, ?_, ?_, ?_, ?_⟩,
    ⟨{ up with sys := {}, cst := { grpSel := 8 } }, .pcie, 8, 1#32, ?_, ?_, ?_, ?_, ?_⟩,
    ⟨{ lanes 1 {} with str := { roles := Vector.replicate 96 1, common := some { partition := [], regions := [3, 0, 0, 0, 0, 0, 0, 0, 0, 1, 0, 0], clkTables := 0, opaques := [] } }, cst := { groups := Vector.replicate 16 { w3 := 112, members := 0x80 } } }, .pcie, 0, 1#32, ?_, ?_, ?_, ?_, ?_, ?_, ?_⟩,
    ⟨up, .pcie, 0, 1#32, 2, ?_, ?_, ?_, ?_, ?_, ?_, ?_⟩,
    ⟨bonded {}, .pcie, 0, 0#32, ?_, ?_, ?_, ?_, ?_⟩,
    ⟨{ up with cst := { grpSel := 8 } }, .pcie, 8, 1#32, ?_, ?_, ?_, ?_⟩,
    ⟨{ up with cst := { grpSel := 0x20800#32 } }, .pcie, 0, ?_, ?_, ?_, ?_, ?_⟩,
    ⟨lanes 1 { bond := { state := .indep } }, .pcie, 0x87#32, 7, ?_, ?_, ?_, ?_⟩,
    ⟨bonded {} { gstate := .fail }, 8, ?_, ?_, ?_, ?_⟩,
    ⟨{ lanes 3 { com := { sigdet := true }, sdh := { lof := false } } with cst := { groups := Vector.replicate 16 { w0 := 0x101#32, seqs := Vector.replicate 64 0x8007#16 } } }, 15, 63, 7, ?_, ?_, ?_, ?_, ?_, ?_, ?_, ?_, ?_⟩⟩ <;>
    first | decide +kernel | rfl | exact decide_eq_true (Nat.zero_le _) | exact ⟨by decide +kernel, by decide +kernel⟩

/-- The premises of SpreadCommandsTakeEffect, clause by clause, have an instance. -/
theorem test_premises_spreadCommandsTakeEffect :
    (∃ (s : State) (p : Port) (b : BitVec 7), s.reaches p 10 ∧ s.tbl.sprBusy = none ∧ b.toNat < 96 ∧ s.isLine b.toNat = true) ∧
    (∃ (s : State) (p : Port) (g : BitVec 4), s.reaches p 10 ∧ s.tbl.sprBusy = none ∧ s.fillLanes g.toNat ≠ []) ∧
    (∃ (s : State) (a : BitVec 7) (b : BitVec 7), s.tbl.sprBusy = some (SpreadCmd.remap a b)) ∧
    (∃ (s : State) (d : BitVec 6) (g : BitVec 4), s.tbl.sprBusy = some (SpreadCmd.fill d g) ∧ s.fillLanes g.toNat ≠ []) ∧
    (∃ (s : State) (p : Port), s.reaches p 10 ∧ bit s.tbl.sprAddr 17 = false ∧ bit s.tbl.sprAddr 16 = false ∧ s.tbl.sprBusy = none) ∧
    (∃ (s : State) (p : Port), s.reaches p 10 ∧ bit s.tbl.sprAddr 17 = false ∧ bit s.tbl.sprAddr 16 = false ∧ s.tbl.sprBusy.isSome = true) := by
  refine ⟨⟨lanes 1 {}, .pcie, 95, ?_, ?_, ?_, ?_⟩,
    ⟨bonded { bond := { state := .up, pos := some 1 } }, .pcie, 0, ?_, ?_, ?_⟩,
    ⟨{ up with tbl := { sprBusy := some (.remap 1 2) } }, 1, 2, ?_⟩,
    ⟨{ bonded { bond := { state := .up, pos := some 1 } } with tbl := { sprBusy := some (.fill 1 0) } }, 1, 0, ?_, ?_⟩,
    ⟨up, .pcie, ?_, ?_, ?_, ?_⟩,
    ⟨{ up with tbl := { sprBusy := some (.remap 1 2) } }, .pcie, ?_, ?_, ?_, ?_⟩⟩ <;>
    first | decide +kernel | rfl | exact ⟨by decide +kernel, by decide +kernel⟩

/-- The premises of EthernetCommandsTakeEffect, clause by clause, have an instance. -/
theorem test_premises_ethernetCommandsTakeEffect_1 :
    (∃ (s : State) (n : LaneId), s.ethOn n = true ∧ (s.lane n).eth.link = LinkState.an) ∧
    (∃ (s : State) (n : LaneId), s.ethOn n = true ∧ (s.lane n).eth.link = LinkState.lock ∧ (s.quad (quadFin n)).xoff = false) ∧
    (∃ (s : State) (n : LaneId), s.ethOn n = true ∧ (s.lane n).eth.link = LinkState.up) ∧
    (∃ (s : State) (n : LaneId) (l : Bool) (r : Bool), s.ethOn n = true ∧ (s.lane n).eth.link = LinkState.up ∧ (l = true ∨ r = true)) ∧
    (∃ (s : State) (n : LaneId) (l : Bool) (r : Bool), s.ethOn n = true ∧ (s.lane n).eth.link = LinkState.lock ∧ (l = true ∨ r = true)) ∧
    (∃ (s : State) (n : LaneId), s.ethOn n = true ∧ (s.lane n).eth.link = LinkState.lock) ∧
    (∃ (s : State) (n : LaneId), s.ethOn n = true ∧ (s.lane n).eth.link = LinkState.lock ∧ s.isHead n = false ∧ (s.lane n).eth.fecOn = false) ∧
    (∃ (s : State) (p : Port) (n : LaneId), s.reachesLane p n LaneKind.common ∧ s.isEth n.val = true ∧ s.ethKind n 20 = LaneKind.common) ∧
    (∃ (s : State) (n : LaneId) (f : EthRx) (c : Nat), s.ethOn n = true ∧ s.isHead n = false ∧ (s.lane n).eth.link = LinkState.up ∧ (s.lane n).eth.badFrame f = some c) ∧
    (∃ (s : State) (n : LaneId) (f : EthRx), s.ethOn n = true ∧ s.isHead n = false ∧ (s.lane n).eth.link = LinkState.up ∧ (s.lane n).eth.badFrame f = none ∧ s.wakeTests n = false ∧ f.bytes.length ≤ s.troughRoom (quadOf n.val) ∧ beAt f.bytes 12 2 = 34824) ∧
    (∃ (s : State) (n : LaneId) (f : EthRx), s.ethOn n = true ∧ s.isHead n = false ∧ (s.lane n).eth.link = LinkState.up ∧ (s.lane n).eth.badFrame f = none ∧ s.wakeTests n = false ∧ f.bytes.length ≤ s.troughRoom (quadOf n.val) ∧ beAt f.bytes 12 2 ≠ 34824) ∧
    (∃ (s : State) (n : LaneId) (m : FlowMsg), (s.lane n).eth.link = LinkState.up ∧ s.isOn (dTx n.val) = true ∧ (s.lane n).com.genEn = false ∧ s.txIdle n = false ∧ (s.lane n).eth.pendingFlow = some m) := by
  refine ⟨⟨lanes 2 { eth := { link := .an } }, 12, ?_, ?_⟩,
    ⟨lanes 2 { eth := { link := .lock } }, 12, ?_, ?_, ?_⟩,
    ⟨lanes 2 { eth := { link := .up } }, 12, ?_, ?_⟩,
    ⟨lanes 2 { eth := { link := .up } }, 12, true, false, ?_, ?_, ?_⟩,
    ⟨lanes 2 { eth := { link := .lock } }, 12, true, false, ?_, ?_, ?_⟩,
    ⟨lanes 2 { eth := { link := .lock } }, 12, ?_, ?_⟩,
    ⟨lanes 2 { eth := { link := .lock } }, 12, ?_, ?_, ?_, ?_⟩,
    ⟨lanes 2 {}, .pcie, 12, ?_, ?_, ?_⟩,
    ⟨lanes 2 { eth := { link := .up } }, 12, ethRx (zeros 63), 3, ?_, ?_, ?_, ?_⟩,
    ⟨roomy { eth := { link := .up } }, 12, ethRx (addFcs (zeros 12 ++ [0x88, 0x08] ++ zeros 46)), ?_, ?_, ?_, ?_, ?_, ?_, ?_⟩,
    ⟨roomy { eth := { link := .up } }, 12, ethRx (addFcs (zeros 60)), ?_, ?_, ?_, ?_, ?_, ?_, ?_⟩,
    ⟨lanes 2 { eth := { link := .up, pendingFlow := some { xoff := true, pfc := false } } }, 12, { xoff := true, pfc := false }, ?_, ?_, ?_, ?_, ?_⟩⟩ <;>
    first | decide +kernel | rfl | exact ⟨by decide +kernel, by decide +kernel, by decide +kernel⟩

/-- The premises of EthernetCommandsTakeEffect, clause by clause, have an instance. -/
theorem test_premises_ethernetCommandsTakeEffect_2 :
    (∃ (s : State) (n : LaneId), s.ethOn n = true ∧ (s.quad (quadFin n)).xoff = true ∧ (s.lane n).eth.xoff = true) ∧
    (∃ (s : State) (n : LaneId), s.ethOn n = true ∧ (s.lane n).eth.link = LinkState.up ∧ (s.lane n).eth.fecOn = true) ∧
    (∃ (s : State) (n : LaneId) (x : Nat × Queued), s.isOn (dQuad (quadOf n.val)) = true ∧ s.isEth n.val = true ∧ (s.lane n).com.genEn = false ∧ (s.lane n).eth.link = LinkState.up ∧ s.isOn (dTx n.val) = true ∧ s.txIdle n = false ∧ (s.lane n).eth.pendingFlow = none ∧ (s.pickDown n).2 = some x ∧ (((s.pickDown n).1).lane n).eth.maxFrm < x.2.frame.bytes.length) ∧
    (∃ (s : State) (n : LaneId) (x : Nat × Queued), s.isOn (dQuad (quadOf n.val)) = true ∧ s.isEth n.val = true ∧ (s.lane n).com.genEn = false ∧ (s.lane n).eth.link = LinkState.up ∧ s.isOn (dTx n.val) = true ∧ s.txIdle n = false ∧ (s.lane n).eth.pendingFlow = none ∧ (s.pickDown n).2 = some x ∧ x.2.frame.bytes.length ≤ (((s.pickDown n).1).lane n).eth.maxFrm) ∧
    (∃ (s : State) (n : LaneId), s.isOn (dQuad (quadOf n.val)) = true ∧ s.isEth n.val = true ∧ (s.lane n).com.genEn = false ∧ (s.lane n).eth.link = LinkState.up ∧ s.isOn (dTx n.val) = true ∧ s.txIdle n = false ∧ (s.lane n).eth.pendingFlow.isSome = true) ∧
    (∃ (s : State) (n : LaneId) (j : Nat) (x : Queued) (rest : List (Nat × Queued)), s.isOn (dQuad (quadOf n.val)) = true ∧ s.isEth n.val = true ∧ s.downHeads n = (j, x) :: rest ∧ (s.lane n).eth.link ≠ LinkState.up) ∧
    (∃ (s : State) (n : LaneId) (j : Nat) (x : Queued) (rest : List (Nat × Queued)), s.isOn (dQuad (quadOf n.val)) = true ∧ s.isEth n.val = true ∧ s.downHeads n = (j, x) :: rest ∧ (s.lane n).eth.link = LinkState.up ∧ (s.lane n).com.genEn = true) ∧
    (∃ (s : State) (n : LaneId) (j : Nat) (x : Queued) (rest : List (Nat × Queued)), s.isOn (dQuad (quadOf n.val)) = true ∧ s.isEth n.val = true ∧ s.downHeads n = (j, x) :: rest ∧ (s.lane n).eth.link = LinkState.up ∧ (s.lane n).com.genEn = false ∧ s.txIdle n = true) := by
  refine ⟨⟨quads 2 { xoff := true } { eth := { xoff := true } }, 12, ?_, ?_, ?_⟩,
    ⟨lanes 2 { eth := { link := .up, fecOn := true } }, 12, ?_, ?_, ?_⟩,
    ⟨sending 1519, 0, (0, { frame := { bytes := zeros 1519 } }), ?_, ?_, ?_, ?_, ?_, ?_, ?_, ?_, ?_⟩,
    ⟨sending 64, 0, (0, { frame := { bytes := zeros 64 } }), ?_, ?_, ?_, ?_, ?_, ?_, ?_, ?_, ?_⟩,
    ⟨lanes 2 { eth := { link := .up, pendingFlow := some { xoff := true, pfc := false } } }, 12, ?_, ?_, ?_, ?_, ?_, ?_, ?_⟩,
    ⟨quads 2 { ds := { ports := Vector.replicate 24 { w0 := 0x00010000#32 }, queues := [(0, { frames := [{ frame := { bytes := zeros 64 } }] })] } } { eth := { link := .lock } }, 0, 0, { frame := { bytes := zeros 64 } }, [], ?_, ?_, ?_, ?_⟩,
    ⟨quads 2 { ds := { ports := Vector.replicate 24 { w0 := 0x00010000#32 }, queues := [(0, { frames := [{ frame := { bytes := zeros 64 } }] })] } } { com := { prbs := 4 }, eth := { link := .up } }, 0, 0, { frame := { bytes := zeros 64 } }, [], ?_, ?_, ?_, ?_, ?_⟩,
    ⟨quads 2 { ds := { ports := Vector.replicate 24 { w0 := 0x00010000#32 }, queues := [(0, { frames := [{ frame := { bytes := zeros 64 } }] })] } } { com := { ctl := 8 }, eth := { link := .up } }, 0, 0, { frame := { bytes := zeros 64 } }, [], ?_, ?_, ?_, ?_, ?_, ?_⟩⟩ <;>
    first | decide +kernel | rfl

/-- The premises of SdhCommandsTakeEffect, clause by clause, have an instance. -/
theorem test_premises_sdhCommandsTakeEffect_1 :
    (∃ (s : State) (n : LaneId), s.sdhOn n = true ∧ (s.lane n).com.sigdet = true ∧ (s.lane n).com.cdrLock = true ∧ (s.lane n).sdh.frm ≠ FrmState.inFrame ∧ (s.lane n).sdh.cands.length < 8) ∧
    (∃ (s : State) (n : LaneId), s.sdhOn n = true ∧ (s.lane n).com.sigdet = true ∧ (s.lane n).com.cdrLock = true ∧ (s.lane n).sdh.frm ≠ FrmState.inFrame ∧ 8 ≤ (s.lane n).sdh.cands.length) ∧
    (∃ (s : State) (n : LaneId) (pos : Nat) (bits : BitVec 48), s.sdhOn n = true ∧ (s.lane n).sdh.frm = FrmState.presync ∧ pos ∈ (s.lane n).sdh.cands ∧ bits ≠ 271540552214568#48) ∧
    (∃ (s : State) (n : LaneId) (f : List Byte), s.sdhOn n = true ∧ (s.lane n).sdh.frm = FrmState.inFrame ∧ patternOk f = false ∧ (s.lane n).sdh.misses = 3) ∧
    (∃ (s : State) (n : LaneId) (f : List Byte), s.sdhOn n = true ∧ (s.lane n).sdh.frm = FrmState.inFrame ∧ (patternOk f = true ∨ (s.lane n).sdh.misses ≠ 3)) ∧
    (∃ (s : State) (n : LaneId), s.sdhOn n = true ∧ (s.lane n).com.sigdet = true ∧ (s.lane n).sdh.frm ≠ FrmState.inFrame ∧ (s.lane n).sdh.lof = false) ∧
    (∃ (s : State) (n : LaneId), s.sdhOn n = true ∧ (s.lane n).com.sigdet = true ∧ (s.lane n).sdh.frm = FrmState.inFrame ∧ (s.lane n).sdh.lof = true) ∧
    (∃ (s : State) (n : LaneId), s.sdhOn n = true ∧ fld (s.lane n).sdh.ctl 16 16 ≠ 0#16 ∧ (fld (s.lane n).sdh.ctl 16 16).toNat ≤ (s.lane n).sdh.b2Frames ∧ (s.lane n).sdh.sd = false ∧ (s.lane n).sdh.defSeen = false) ∧
    (∃ (s : State) (n : LaneId), s.sdhOn n = true ∧ (s.lane n).sdh.b2Frames < (fld (s.lane n).sdh.ctl 16 16).toNat) ∧
    (∃ (s : State) (p : Port) (n : LaneId), s.reachesLane p n LaneKind.common ∧ s.isSdh n.val = true ∧ s.isOn (dRx n.val) = true) ∧
    (∃ (s : State) (p : Port) (n : LaneId) (t : Fin 64), s.reachesLane p n LaneKind.rx ∧ s.isSdh n.val = true ∧ laneItem (s.lane n).sdh.winAddr = 257 + 4 * t.val) ∧
    (∃ (s : State) (p : Port) (n : LaneId) (t : Fin 64), s.reachesLane p n LaneKind.rx ∧ s.isSdh n.val = true ∧ laneItem (s.lane n).sdh.winAddr = 256 + 4 * t.val) := by
  refine ⟨⟨lanes 3 { com := { sigdet := true, cdrLock := true } }, 72, ?_, ?_, ?_, ?_, ?_⟩,
    ⟨lanes 3 { com := { sigdet := true, cdrLock := true }, sdh := { cands := [0, 1, 2, 3, 4, 5, 6, 7] } }, 72, ?_, ?_, ?_, ?_, ?_⟩,
    ⟨lanes 3 { sdh := { frm := .presync, cands := [9] } }, 72, 9, 0, ?_, ?_, ?_, ?_⟩,
    ⟨lanes 3 { sdh := { frm := .inFrame, misses := 3 } }, 72, [], ?_, ?_, ?_, ?_⟩,
    ⟨lanes 3 { sdh := { frm := .inFrame } }, 72, [], ?_, ?_, ?_⟩,
    ⟨lanes 3 { com := { sigdet := true }, sdh := { lof := false } }, 72, ?_, ?_, ?_, ?_⟩,
    ⟨lanes 3 { com := { sigdet := true }, sdh := { frm := .inFrame, lof := true } }, 72, ?_, ?_, ?_, ?_⟩,
    ⟨lanes 3 { sdh := { ctl := 0x00050000#32, b2Frames := 5 } }, 72, ?_, ?_, ?_, ?_, ?_⟩,
    ⟨lanes 3 { sdh := { ctl := 0x00050000#32, b2Frames := 4 } }, 72, ?_, ?_⟩,
    ⟨lanes 3 {}, .pcie, 72, ?_, ?_, ?_⟩,
    ⟨lanes 3 { sdh := { winAddr := 0x1FD#32 } }, .pcie, 72, 63, ?_, ?_, ?_⟩,
    ⟨lanes 3 { sdh := { winAddr := 0x1FC#32 } }, .pcie, 72, 63, ?_, ?_, ?_⟩⟩ <;>
    first | decide +kernel | rfl | exact ⟨by decide +kernel, by decide +kernel, by decide +kernel⟩

/-- The premises of SdhCommandsTakeEffect, clause by clause, have an instance. -/
theorem test_premises_sdhCommandsTakeEffect_2 :
    (∃ (s : State) (n : LaneId) (t : Fin 64), s.sdhOn n = true ∧ (s.lane n).sdh.trib[t.val].valid = true) ∧
    (∃ (s : State) (n : LaneId) (x : Nat × Queued), s.isSdh n.val = true ∧ s.isOn (dQuad (quadOf n.val)) = true ∧ s.isOn (dTx n.val) = true ∧ (s.lane n).com.genEn = false ∧ (s.pickDown n).2 = some x ∧ (((s.pickDown n).1).lane n).sdh.rxEntry (BitVec.ofNat 32 (beAt (x.2.frame.bytes) (x.2.frame.hdr.blockAt) 4)) = none) ∧
    (∃ (s : State) (n : LaneId) (x : Nat × Queued) (t : Nat), s.isSdh n.val = true ∧ s.isOn (dQuad (quadOf n.val)) = true ∧ s.isOn (dTx n.val) = true ∧ (s.lane n).com.genEn = false ∧ (s.pickDown n).2 = some x ∧ (((s.pickDown n).1).lane n).sdh.rxEntry (BitVec.ofNat 32 (beAt (x.2.frame.bytes) (x.2.frame.hdr.blockAt) 4)) = some t) ∧
    (∃ (s : State) (n : LaneId), s.isSdh n.val = true ∧ s.isOn (dTx n.val) = true ∧ (s.lane n).com.genEn = false ∧ s.squelched n = false) ∧
    (∃ (s : State) (n : LaneId) (i : Fin 65), s.isSdh n.val = true ∧ s.isOn (dRx n.val) = true ∧ i.val ≠ 0) ∧
    (∃ (s : State) (n : LaneId), s.isSdh n.val = true) := by
  refine ⟨⟨lanes 3 { sdh := { trib := Vector.replicate 64 { w0 := 1#32 } } }, 72, 63, ?_, ?_⟩,
    ⟨block 0, 0, (0, { frame := { bytes := zeros 64 } }), ?_, ?_, ?_, ?_, ?_, ?_⟩,
    ⟨block 1, 0, (0, { frame := { bytes := zeros 64 } }), 0, ?_, ?_, ?_, ?_, ?_, ?_⟩,
    ⟨lanes 3 {}, 72, ?_, ?_, ?_, ?_⟩,
    ⟨lanes 3 {}, 72, 64, ?_, ?_, ?_⟩,
    ⟨lanes 3 {}, 72, ?_⟩⟩ <;>
    first | decide +kernel | rfl

/-- The premises of ClassifierCommandsTakeEffect, clause by clause, have an instance. -/
theorem test_premises_classifierCommandsTakeEffect :
    (∃ (s : State) (q : QuadId) (f : Frame) (rest : List Frame), (s.quad q).parseQ = f :: rest) ∧
    (∃ (s : State) (q : QuadId) (f : Frame) (rest : List Frame), (s.quad q).rallyQ = f :: rest) ∧
    (∃ (s : State) (k : FragKey), (∃ e ∈ s.tbl.frags, e.key = k)) ∧
    (∃ (s : State) (p : Port), s.reaches p 10) ∧
    (∃ (s : State) (p : Port), s.reaches p 0) ∧
    (∃ (s : State) (p : Port) (q : Fin 4) (c : Fin 22), s.reaches p 0 ∧ bit s.sys.sumpAddr 12 = false ∧ (fld s.sys.sumpAddr 0 10).toNat = 256 * q.val + 4 * c.val) ∧
    (∃ (s : State) (p : Port) (q : QuadId), s.reaches p (16 + q.val) ∧ (s.quad q).busy = none ∧ (s.quad q).inflight (s.quad q).active = 0) ∧
    (∃ (s : State) (p : Port) (q : QuadId), s.reaches p (16 + q.val) ∧ (s.quad q).busy = none ∧ (s.quad q).inflight (s.quad q).active ≠ 0) ∧
    (∃ (s : State) (p : Port) (q : QuadId), s.reaches p (16 + q.val) ∧ (s.quad q).busy.isSome = true) ∧
    (∃ (s : State) (q : QuadId), (s.quad q).busy = some ClsCmd.swap ∧ (s.quad q).draining = true ∧ ((s.quad q).inflight !(s.quad q).active) = 0) ∧
    (∃ (s : State) (q : QuadId), (s.quad q).busy = some ClsCmd.clear) ∧
    (∃ (s : State) (q : QuadId), (s.quad q).busy = some ClsCmd.copy) := by
  refine ⟨⟨quads 0 { parseQ := [{}] }, 1, {}, [], ?_⟩,
    ⟨quads 0 { rallyQ := [{}] }, 1, {}, [], ?_⟩,
    ⟨{ up with tbl := { frags := [⟨⟨false, 1, 2, 3, 17⟩, ⟨0, 0, false, none, none, 0, none, false, 0⟩⟩] } }, ⟨false, 1, 2, 3, 17⟩, ?_⟩,
    ⟨up, .pcie, ?_⟩,
    ⟨up, .pcie, ?_⟩,
    ⟨{ up with sys := { sumpAddr := 0x354#32 } }, .twoWire, 3, 21, ?_, ?_, ?_⟩,
    ⟨up, .pcie, 2, ?_, ?_, ?_⟩,
    ⟨quads 0 { rallyQ := [{ first := some { w40 := 0xFFFFFFFF#32 } }] }, .pcie, 2, ?_, ?_, ?_⟩,
    ⟨quads 0 { busy := some .swap }, .pcie, 2, ?_, ?_⟩,
    ⟨quads 0 { busy := some .swap, draining := true }, 2, ?_, ?_, ?_⟩,
    ⟨quads 0 { busy := some .clear }, 2, ?_⟩,
    ⟨quads 0 { busy := some .copy }, 2, ?_⟩⟩ <;>
    first | decide +kernel | rfl | exact ⟨by decide +kernel, by decide +kernel⟩

/-- The premises of ForwardingCommandsTakeEffect, clause by clause, have an instance. -/
theorem test_premises_forwardingCommandsTakeEffect :
    (∃ (s : State) (q : QuadId) (f : Frame) (rest : List Frame) (a : Act), (s.quad q).lookupQ = f :: rest ∧ f.opened = none ∧ f.later = none ∧ f.act = some a) ∧
    (∃ (s : State) (q : QuadId) (f : Frame) (rest : List Frame), (s.quad q).lookupQ = f :: rest ∧ f.opened = none ∧ f.later = none ∧ f.act = none) ∧
    (∃ (s : State) (q : QuadId) (f : Frame) (rest : List Frame) (a : Act), (s.quad q).lpmQ = f :: rest ∧ f.act = some a ∧ s.cst.mode ≠ CstMode.offline) := by
  refine ⟨⟨quads 0 { lookupQ := [{ act := some {} }] }, 1, { act := some {} }, [], {}, ?_, ?_, ?_, ?_⟩,
    ⟨quads 0 { lookupQ := [{}] }, 1, {}, [], ?_, ?_, ?_, ?_⟩,
    ⟨quads 0 { lpmQ := [{ act := some {} }] }, 1, { act := some {} }, [], {}, ?_, ?_, ?_⟩⟩ <;>
    first | decide +kernel | rfl

/-- The premises of TableCommandsTakeEffect, clause by clause, have an instance. -/
theorem test_premises_tableCommandsTakeEffect_1 :
    (∃ (s : State) (p : Port), s.reaches p 10 ∧ s.tbl.busy.isSome = true) ∧
    (∃ (s : State) (p : Port) (t : BitVec 3), s.reaches p 10 ∧ s.tbl.busy = none ∧ t.toNat < 4) ∧
    (∃ (s : State) (p : Port) (t : BitVec 3), s.reaches p 10 ∧ s.tbl.busy = none ∧ t.toNat < 2 ∧ portValid (fld s.tbl.res0 0 8) = true) ∧
    (∃ (s : State) (p : Port) (t : BitVec 3), s.reaches p 10 ∧ s.tbl.busy = none ∧ t.toNat < 2 ∧ portValid (fld s.tbl.res0 0 8) = false) ∧
    (∃ (s : State) (p : Port) (t : BitVec 3), s.reaches p 10 ∧ s.tbl.busy = none ∧ t.toNat < 2) ∧
    (∃ (s : State) (p : Port) (t : BitVec 3) (b : Nat), s.reaches p 10 ∧ s.tbl.busy = none ∧ t.toNat < 2 ∧ s.poolBank (t.toNat == 1) s.tbl.loc.toNat = some b ∧ (vget [] s.tbl.spares b).length < 2) ∧
    (∃ (s : State) (p : Port) (t : BitVec 3), s.reaches p 10 ∧ s.tbl.busy = none ∧ (t.toNat = 2 ∨ t.toNat = 3) ∧ portValid (fld s.tbl.res0 0 8) = true ∧ (s.tbl.cmd 3 t.toNat false 0 false false).badPrefix = false) ∧
    (∃ (s : State) (p : Port) (t : BitVec 3), s.reaches p 10 ∧ s.tbl.busy = none ∧ (t.toNat = 2 ∨ t.toNat = 3) ∧ (s.tbl.fam (t.toNat == 3)).rebuilding = true) ∧
    (∃ (s : State) (p : Port) (t : BitVec 3), s.reaches p 10 ∧ s.tbl.busy = none ∧ (t.toNat = 2 ∨ t.toNat = 3) ∧ (s.tbl.fam (t.toNat == 3)).rebuilding = false) ∧
    (∃ (s : State) (p : Port) (t : BitVec 3), s.reaches p 10 ∧ s.tbl.busy = none ∧ (t.toNat = 2 ∨ t.toNat = 3) ∧ s.cst.degradedMode = false) ∧
    (∃ (s : State) (p : Port) (t : BitVec 3), s.reaches p 10 ∧ s.tbl.busy = none ∧ (t.toNat = 2 ∨ t.toNat = 3) ∧ s.cst.degradedMode = true) ∧
    (∃ (s : State) (c : TblCmd) (i : Nat) (e : TblEntry), s.tbl.busy = some c ∧ c.table < 2 ∧ (∀ x ∈ s.tbl.hash (c.table == 1), x.2.flips = 0) ∧ c.op = 1 ∧ s.tblFind (c.table == 1) c.maskedKey = some (i, e)) := by
  refine ⟨⟨{ up with tbl := { busy := some (tblCmd 1 0) } }, .pcie, ?_, ?_⟩,
    ⟨up, .pcie, 3, ?_, ?_, ?_⟩,
    ⟨up, .pcie, 0, ?_, ?_, ?_, ?_⟩,
    ⟨{ up with tbl := { res0 := 0x60#32 } }, .pcie, 1, ?_, ?_, ?_, ?_⟩,
    ⟨up, .pcie, 1, ?_, ?_, ?_⟩,
    ⟨{ up with str := { common := some ⟨[0, 16] ++ zeros 30, [], 0, []⟩ } }, .pcie, 0, 0, ?_, ?_, ?_, ?_, ?_⟩,
    ⟨up, .pcie, 2, ?_, ?_, ?_, ?_, ?_⟩,
    ⟨{ up with tbl := { v4 := { rebuilding := true } } }, .pcie, 2, ?_, ?_, ?_, ?_⟩,
    ⟨up, .pcie, 2, ?_, ?_, ?_, ?_⟩,
    ⟨{ up with cst := { mode := .normal } }, .pcie, 2, ?_, ?_, ?_, ?_⟩,
    ⟨{ up with cst := { mode := .degraded } }, .pcie, 3, ?_, ?_, ?_, ?_⟩,
    ⟨{ up with tbl := { busy := some (tblCmd 1 0), bridge := [(macSlot, macEntry)] } }, tblCmd 1 0, macSlot, macEntry, ?_, ?_, ?_, ?_, ?_⟩⟩ <;>
    first | decide +kernel | rfl | exact ⟨by decide +kernel, by decide +kernel⟩

/-- The premises of TableCommandsTakeEffect, clause by clause, have an instance. -/
theorem test_premises_tableCommandsTakeEffect_2 :
    (∃ (s : State) (c : TblCmd), s.tbl.busy = some c ∧ c.table < 2 ∧ (∀ x ∈ s.tbl.hash (c.table == 1), x.2.flips = 0) ∧ c.op = 1 ∧ s.tblFind (c.table == 1) c.maskedKey = none) ∧
    (∃ (s : State) (c : TblCmd) (i : Nat) (e : TblEntry), s.tbl.busy = some c ∧ c.table < 2 ∧ (∀ x ∈ s.tbl.hash (c.table == 1), x.2.flips = 0) ∧ c.op = 3 ∧ findKey (c.table == 1) (s.buckets (c.table == 1)) (endMoves (s.tbl.hash (c.table == 1))) c.maskedKey = some (i, e)) ∧
    (∃ (s : State) (c : TblCmd), s.tbl.busy = some c ∧ c.table < 2 ∧ (∀ x ∈ s.tbl.hash (c.table == 1), x.2.flips = 0) ∧ c.op = 5) ∧
    (∃ (s : State) (c : TblCmd), s.tbl.busy = some c ∧ c.op = 8 ∧ 2 ≤ c.table ∧ s.cst.degradedMode = false) ∧
    (∃ (s : State) (c : TblCmd), s.tbl.busy = some c ∧ c.op = 8 ∧ 2 ≤ c.table ∧ s.cst.degradedMode = true) ∧
    (∃ (s : State) (flow : Bool), (∀ x ∈ s.tbl.hash flow, x.2.flips = 0)) ∧
    (∃ (s : State) (q : QuadId) (k0 : W32) (k1 : W32) (port : Byte) (rest : List (W32 × W32 × Byte)), (s.quad q).learnQ = (k0, k1, port) :: rest ∧ (s.tblFind false (#v[k0, k1, 0, 0, 0, 0, 0, 0, 0, 0])).isSome = true) ∧
    (∃ (s : State) (p : Port), s.reaches p 10 ∧ (fld s.tbl.cntAddr 0 5).toNat < 16 ∧ bit s.tbl.cntAddr 5 = false) := by
  refine ⟨⟨{ up with tbl := { busy := some (tblCmd 1 0) } }, tblCmd 1 0, ?_, ?_, ?_, ?_, ?_⟩,
    ⟨{ up with tbl := { busy := some (tblCmd 3 0), bridge := [(macSlot, macEntry)] } }, tblCmd 3 0, macSlot, macEntry, ?_, ?_, ?_, ?_, ?_⟩,
    ⟨{ up with tbl := { busy := some (tblCmd 5 1) } }, tblCmd 5 1, ?_, ?_, ?_, ?_⟩,
    ⟨{ up with tbl := { busy := some (tblCmd 8 2) }, cst := { mode := .normal } }, tblCmd 8 2, ?_, ?_, ?_, ?_⟩,
    ⟨{ up with tbl := { busy := some (tblCmd 8 2) }, cst := { mode := .degraded } }, tblCmd 8 2, ?_, ?_, ?_, ?_⟩,
    ⟨{ up with tbl := { bridge := [(macSlot, macEntry)] } }, false, ?_⟩,
    ⟨{ quads 0 { learnQ := [(0, 0, 14)] } with tbl := { bridge := [(macSlot, macEntry)] } }, 0, 0, 0, 14, [], ?_, ?_⟩,
    ⟨{ up with tbl := { cntAddr := 15#32 } }, .pcie, ?_, ?_, ?_⟩⟩ <;>
    first | decide +kernel | rfl | exact ⟨by decide +kernel, by decide +kernel⟩

/-- The premises of TrafficCommandsTakeEffect, clause by clause, have an instance. -/
theorem test_premises_trafficCommandsTakeEffect :
    (∃ (s : State) (q : QuadId) (f : Frame) (rest : List Frame), (s.quad q).enqueueQ = f :: rest ∧ f.dest = none) ∧
    (∃ (s : State) (q : QuadId) (f : Frame) (rest : List Frame) (n : Fin 96), (s.quad q).enqueueQ = f :: rest ∧ f.dest = some n.val ∧ ((s.modQuad q fun (x : Quad) => { x with enqueueQ := rest }).isDark (quadOf n.val) = true ∨ (s.modQuad q fun (x : Quad) => { x with enqueueQ := rest }).isOn (dQuad (quadOf n.val)) = false)) ∧
    (∃ (s : State) (q : QuadId) (f : Frame) (rest : List Frame) (n : Fin 96) (c : Bool), (s.quad q).enqueueQ = f :: rest ∧ f.dest = some n.val ∧ (s.modQuad q fun (x : Quad) => { x with enqueueQ := rest }).isDark (quadOf n.val) = false ∧ (s.modQuad q fun (x : Quad) => { x with enqueueQ := rest }).isOn (dQuad (quadOf n.val)) = true ∧ bit (vget {  } (s.modQuad q fun (x : Quad) => { x with enqueueQ := rest }).lanes n.val).com.prbs 2 = false ∧ f.spreadLane = none ∧ (vget {  } ((s.modQuad q fun (x : Quad) => { x with enqueueQ := rest }).tm (quadOf n.val) (!(s.modQuad q fun (x : Quad) => { x with enqueueQ := rest }).isLine n.val)).ports (sliceOf n.val)).offset f.queue f.tc < (vget {  } ((s.modQuad q fun (x : Quad) => { x with enqueueQ := rest }).tm (quadOf n.val) (!(s.modQuad q fun (x : Quad) => { x with enqueueQ := rest }).isLine n.val)).ports (sliceOf n.val)).qcount ∧ (s.modQuad q fun (x : Quad) => { x with enqueueQ := rest }).admission (quadOf n.val) (!(s.modQuad q fun (x : Quad) => { x with enqueueQ := rest }).isLine n.val) ((vget {  } ((s.modQuad q fun (x : Quad) => { x with enqueueQ := rest }).tm (quadOf n.val) (!(s.modQuad q fun (x : Quad) => { x with enqueueQ := rest }).isLine n.val)).ports (sliceOf n.val)).qbase + (vget {  } ((s.modQuad q fun (x : Quad) => { x with enqueueQ := rest }).tm (quadOf n.val) (!(s.modQuad q fun (x : Quad) => { x with enqueueQ := rest }).isLine n.val)).ports (sliceOf n.val)).offset f.queue f.tc) f = some c) ∧
    (∃ (s : State) (q : QuadId) (f : Frame) (rest : List Frame) (n : Fin 96), (s.quad q).enqueueQ = f :: rest ∧ f.dest = some n.val ∧ (s.modQuad q fun (x : Quad) => { x with enqueueQ := rest }).isDark (quadOf n.val) = false ∧ (s.modQuad q fun (x : Quad) => { x with enqueueQ := rest }).isOn (dQuad (quadOf n.val)) = true ∧ bit (vget {  } (s.modQuad q fun (x : Quad) => { x with enqueueQ := rest }).lanes n.val).com.prbs 2 = false ∧ f.spreadLane = none ∧ (vget {  } ((s.modQuad q fun (x : Quad) => { x with enqueueQ := rest }).tm (quadOf n.val) (!(s.modQuad q fun (x : Quad) => { x with enqueueQ := rest }).isLine n.val)).ports (sliceOf n.val)).offset f.queue f.tc < (vget {  } ((s.modQuad q fun (x : Quad) => { x with enqueueQ := rest }).tm (quadOf n.val) (!(s.modQuad q fun (x : Quad) => { x with enqueueQ := rest }).isLine n.val)).ports (sliceOf n.val)).qcount ∧ (s.modQuad q fun (x : Quad) => { x with enqueueQ := rest }).admission (quadOf n.val) (!(s.modQuad q fun (x : Quad) => { x with enqueueQ := rest }).isLine n.val) ((vget {  } ((s.modQuad q fun (x : Quad) => { x with enqueueQ := rest }).tm (quadOf n.val) (!(s.modQuad q fun (x : Quad) => { x with enqueueQ := rest }).isLine n.val)).ports (sliceOf n.val)).qbase + (vget {  } ((s.modQuad q fun (x : Quad) => { x with enqueueQ := rest }).tm (quadOf n.val) (!(s.modQuad q fun (x : Quad) => { x with enqueueQ := rest }).isLine n.val)).ports (sliceOf n.val)).offset f.queue f.tc) f = none) ∧
    (∃ (s : State) (q : QuadId) (down : Bool) (sh : Nat), sh < s.shaperCount (q.val) down ∧ ((s.tm (q.val) down).shaper sh).calendar = true ∧ ((s.tm (q.val) down).shaper sh).slotStarts s.now = true) ∧
    (∃ (s : State) (q : QuadId) (down : Bool) (sh : Nat), sh < s.shaperCount (q.val) down ∧ ((s.tm (q.val) down).shaper sh).calendar = false) ∧
    (∃ (s : State) (p : Port) (q : QuadId) (down : Bool), s.reaches p (16 + q.val) ∧ winItem (s.tm (q.val) down).addr / 65536 = 1 ∧ winItem (s.tm (q.val) down).addr % 65536 / 8 < s.shaperCount (q.val) down) ∧
    (∃ (s : State) (p : Port) (q : QuadId) (down : Bool) (w : W32) (k : Fin 24), s.reaches p (16 + q.val) ∧ winItem (s.tm (q.val) down).addr = 131072 + 8 * k.val ∧ s.portAnswers (q.val) (k.val) down = true ∧ s.portRefused (q.val) down (k.val) (w &&& 536809471#32) = true) ∧
    (∃ (s : State) (p : Port) (q : QuadId) (down : Bool) (w : W32) (k : Fin 24), s.reaches p (16 + q.val) ∧ winItem (s.tm (q.val) down).addr = 131072 + 8 * k.val ∧ s.portAnswers (q.val) (k.val) down = true ∧ s.portRefused (q.val) down (k.val) (w &&& 536809471#32) = false) ∧
    (∃ (s : State) (p : Port) (q : QuadId) (down : Bool) (k : Fin 24), s.reaches p (16 + q.val) ∧ winItem (s.tm (q.val) down).addr = 131075 + 8 * k.val ∧ s.portAnswers (q.val) (k.val) down = true) ∧
    (∃ (s : State) (p : Port) (q : QuadId), s.reaches p (16 + q.val) ∧ (winItem (s.quad q).polAddr) / 16 < s.policers q.val ∧ (winItem (s.quad q).polAddr) % 16 < 5) ∧
    (∃ (s : State) (p : Port) (q : QuadId) (down : Bool), s.reaches p (16 + q.val) ∧ (winItem (s.tm (q.val) down).addr) < 65536 ∧ (winItem (s.tm (q.val) down).addr) / 8 < s.queueCount (q.val) down) := by
  refine ⟨⟨quads 2 { enqueueQ := [{}] }, 1, {}, [], ?_, ?_⟩,
    ⟨{ quads 2 { enqueueQ := [{ dest := some 30 }] } with pwr := {} }, 1, { dest := some 30 }, [], 30, ?_, ?_, ?_⟩,
    ⟨quads 2 { enqueueQ := [{ dest := some 30 }], ds := { ports := Vector.replicate 24 { w0 := 0x00010000#32 } } }, 1, { dest := some 30 }, [], 30, false, ?_, ?_, ?_, ?_, ?_, ?_, ?_, ?_⟩,
    ⟨quads 2 { enqueueQ := [{ dest := some 30, bytes := [0] }], ds := { ports := Vector.replicate 24 { w0 := 0x00010000#32 }, queues := [(0, { maxKb := 0 })] } }, 1, { dest := some 30, bytes := [0] }, [], 30, ?_, ?_, ?_, ?_, ?_, ?_, ?_, ?_⟩,
    ⟨quads 2 { ds := { shapers := [(255, { w := #v[1#32, 0, 0, 0, 0], slot := some 0 })] } }, 3, true, 255, ?_, ?_, ?_⟩,
    ⟨quads 1 {}, 3, false, 255, ?_, ?_⟩,
    ⟨quads 2 { ds := { addr := 0x107FF#32 } }, .pcie, 3, true, ?_, ?_, ?_⟩,
    ⟨quads 1 { us := { addr := 0x200B8#32 } }, .pcie, 3, false, 0x01010000#32, 23, ?_, ?_, ?_, ?_⟩,
    ⟨quads 1 { us := { addr := 0x200B8#32 } }, .pcie, 3, false, 0x01000000#32, 23, ?_, ?_, ?_, ?_⟩,
    ⟨quads 2 { ds := { addr := 0x200BB#32 } }, .pcie, 3, true, 23, ?_, ?_, ?_⟩,
    ⟨quads 2 { polAddr := 0xFF4#32 }, .pcie, 3, ?_, ?_, ?_⟩,
    ⟨quads 1 {}, .pcie, 0, false, ?_, ?_, ?_⟩⟩ <;>
    first | decide +kernel | rfl | exact ⟨by decide +kernel, by decide +kernel⟩

/-- The premises of CipherCommandsTakeEffect, clause by clause, have an instance. -/
theorem test_premises_cipherCommandsTakeEffect :
    (∃ (s : State) (q : QuadId) (f : Frame) (rest : List Frame) (p : Plan) (x : Slot), (s.quad q).cph.queue = f :: rest ∧ (s.quad q).cph.rob.length < 4096 ∧ s.plan f = Sum.inl p ∧ s.chooseSlot (q.val) p.name (jobCost p.name.bits256 (s.quad q).cph.density p.blocks) = some x) ∧
    (∃ (s : State) (q : QuadId) (f : Frame) (rest : List Frame) (p : Plan), (s.quad q).cph.queue = f :: rest ∧ (s.quad q).cph.rob.length < 4096 ∧ s.plan f = Sum.inl p ∧ s.chooseSlot (q.val) p.name (jobCost p.name.bits256 (s.quad q).cph.density p.blocks) = none) ∧
    (∃ (s : State) (q : QuadId) (f : Frame) (rest : List Frame), (s.quad q).cph.queue = f :: rest ∧ (s.quad q).cph.rob.length < 4096 ∧ f.cipherOp = 2 ∧ s.egressAssoc f.ctx = none) ∧
    (∃ (s : State) (q : QuadId) (f : Frame) (rest : List Frame) (i : Nat), (s.quad q).cph.queue = f :: rest ∧ (s.quad q).cph.rob.length < 4096 ∧ f.cipherOp = 2 ∧ s.egressAssoc f.ctx = some i ∧ (s.assoc i).xpn = false ∧ 2 ^ 32 ≤ BitVec.toNat (s.assoc i).pn ∧ (s.assoc i).exhSeen = true) ∧
    (∃ (s : State) (k : CoreId) (q : Fin 4) (i : Nat), s.coreRuns k.val = true ∧ List.findSome? (fun (c : ℕ) => Option.map (fun (j : ℕ) => (c, j)) (runnable (some k.val) (vget {  } s.quads c).cph.rob)) (List.range 4) = some (q.val, i)) ∧
    (∃ (s : State), s.isOn dHif = true ∧ s.clocked = true ∧ (s.ring 3).en = true ∧ (s.ring 3).stopped = false ∧ 0 < (s.ring 3).posted ∧ s.fbk.la.length < (s.ring 4).room ∧ (s.ring 4).en = true ∧ (s.fbk.laEn = false ∨ s.fbk.inService = false)) ∧
    (∃ (s : State) (d : LaDesc), s.isOn dHif = true ∧ s.clocked = true ∧ (s.ring 3).en = true ∧ (s.ring 3).stopped = false ∧ 0 < (s.ring 3).posted ∧ s.fbk.la.length < (s.ring 4).room ∧ (s.ring 4).en = true ∧ s.fbk.laEn = true ∧ s.fbk.inService = true ∧ d.op = 0) ∧
    (∃ (s : State) (j : LaJob) (rest : List LaJob) (st : BitVec 3), s.fbk.la = j :: rest ∧ j.status = some st ∧ (st = 2 ∨ st = 4)) := by
  refine ⟨⟨opener true, 0, { act := some { w41 := 0x80000000#32 } }, [], openPlan, ((opener true).chooseSlot 0 openPlan.name (jobCost openPlan.name.bits256 ((opener true).quad 0).cph.density openPlan.blocks)).getD ⟨0, false, 0⟩, ?_, ?_, ?_, ?_⟩,
    ⟨opener false, 0, { act := some { w41 := 0x80000000#32 } }, [], openPlan, ?_, ?_, ?_, ?_⟩,
    ⟨quads 0 { cph := { queue := [{ act := some { w41 := 0x40000000#32 } }] } }, 0, { act := some { w41 := 0x40000000#32 } }, [], ?_, ?_, ?_, ?_⟩,
    ⟨{ quads 0 { cph := { queue := [{ act := some { w41 := 0x40000000#32 } }] } } with key := { assoc := [(0, spentAssoc)] } }, 0, { act := some { w41 := 0x40000000#32 } }, [], 0, ?_, ?_, ?_, ?_, ?_, ?_, ?_⟩,
    ⟨{ quads 0 { cph := { rob := [job (some [])] } } with cores := Vector.replicate 72 { state := .inService } }, 0, 0, 0, ?_, ?_⟩,
    ⟨rings 3 { hostIdx := 1 }, ?_, ?_, ?_, ?_, ?_, ?_, ?_, ?_⟩,
    ⟨{ rings 3 { hostIdx := 1 } with fbk := { inService := true } }, desc, ?_, ?_, ?_, ?_, ?_, ?_, ?_, ?_, ?_, ?_⟩,
    ⟨{ up with fbk := { la := [{ desc := desc, status := some 2 }] } }, { desc := desc, status := some 2 }, [], 2, ?_, ?_, ?_⟩⟩ <;>
    first | decide +kernel | rfl | exact some_getD (by decide +kernel)

/-- The premises of KeyWindowsAndRequestsTakeEffect, clause by clause, have an instance. -/
theorem test_premises_keyWindowsAndRequestsTakeEffect :
    (∃ (s : State) (p : Port), s.reaches p 7 ∧ s.key.ctxTrb = false ∧ bit s.key.ctxAddr 18 = false ∧ (s.key.ctxItem % 32) < 16) ∧
    (∃ (s : State) (p : Port) (w : W32), s.reaches p 7 ∧ s.key.ctxTrb = false ∧ bit s.key.ctxAddr 18 = false ∧ (s.key.ctxItem % 32) = 0 ∧ (s.assoc (s.key.ctxItem / 32)).valid = true ∧ fld (s.assoc (s.key.ctxItem / 32)).w0 1 3 ≠ fld w 1 3) ∧
    (∃ (s : State) (p : Port), s.reaches p 7 ∧ s.key.ctxTrb = false ∧ bit s.key.ctxAddr 18 = false ∧ 0 < (s.key.ctxItem % 32) ∧ (s.key.ctxItem % 32) < 11) ∧
    (∃ (s : State) (p : Port) (w : W32), s.reaches p 7 ∧ s.key.ctxTrb = true ∧ bit s.key.ctxAddr 18 = false ∧ s.key.ctxItem < 16384 ∧ s.key.ctxItem % 16 = 0 ∧ (s.tribCtx (s.key.ctxItem / 16)).valid = false ∧ bit w 0 = true ∧ bit w 1 = false ∧ (List.any s.key.trib fun (e : ℕ × TribCtx) => e.1 != (s.key.ctxItem / 16) && e.2.valid && !e.2.open_ && e.2.ctxId == (s.tribCtx (s.key.ctxItem / 16)).ctxId) = false ∧ s.vault.sealStart ≠ BitVec.allOnes 24) ∧
    (∃ (s : State) (p : Port), s.reaches p 7 ∧ bit s.key.laAddr 10 = false) ∧
    (∃ (s : State) (p : Port), s.reaches p 7 ∧ bit s.key.laAddr 10 = true) ∧
    (∃ (s : State) (n : KeyName) (rest : List KeyName), s.key.demand ++ s.key.prefetch = n :: rest ∧ s.rootOf n = none) ∧
    (∃ (s : State) (n : KeyName) (rest : List KeyName) (root : List Byte), s.key.demand ++ s.key.prefetch = n :: rest ∧ s.rootOf n = some root ∧ s.key.cache.length < 16384) ∧
    (∃ (s : State) (k : CoreId) (q : Fin 4) (i : Nat), List.findSome? (fun (c : ℕ) => Option.map (fun (j : ℕ) => (c, j)) (waiting (some k.val) (vget {  } s.quads c).cph.rob)) (List.range 4) = some (q.val, i)) ∧
    (∃ (s : State) (i : Nat), (∀ (q : QuadId), waiting none (s.quad q).cph.rob = none) ∧ List.findIdx? (fun (j : LaJob) => j.key.isNone && j.status.isNone) s.fbk.la = some i) := by
  refine ⟨⟨{ up with key := { ctxAddr := 10#32 } }, .pcie, ?_, ?_, ?_, ?_⟩,
    ⟨{ up with key := { assoc := [(0, { w := Vector.replicate 16 1#32 })] } }, .pcie, 0xE#32, ?_, ?_, ?_, ?_, ?_, ?_⟩,
    ⟨{ up with key := { ctxAddr := 10#32 } }, .pcie, ?_, ?_, ?_, ?_, ?_⟩,
    ⟨{ up with key := { ctxAddr := 0x83FF0#32 } }, .pcie, 1#32, ?_, ?_, ?_, ?_, ?_, ?_, ?_, ?_, ?_, ?_⟩,
    ⟨up, .pcie, ?_, ?_⟩,
    ⟨{ up with key := { laAddr := 0x7FF#32 } }, .pcie, ?_, ?_⟩,
    ⟨{ up with key := { prefetch := [name] } }, name, [], ?_, ?_⟩,
    ⟨{ up with key := { demand := [name], copies := Vector.replicate 16 { key := some [] } } }, name, [], [], ?_, ?_, ?_⟩,
    ⟨quads 0 { cph := { rob := [job none] } }, 0, 0, 0, ?_⟩,
    ⟨{ up with fbk := { la := [{ desc := desc }] } }, 0, ?_, ?_⟩⟩ <;>
    first | decide +kernel | rfl | exact ⟨by decide +kernel, by decide +kernel⟩

/-- The premises of CipherTestCommandsTakeEffect, clause by clause, have an instance. -/
theorem test_premises_cipherTestCommandsTakeEffect :
    (∃ (s : State) (k : CoreId), s.coreRuns k.val = true ∧ s.assignedTo k.val < 4 ∧ ((vget {  } s.quads (s.assignedTo k.val)).jobsOf (k.val) false).isEmpty = true) ∧
    (∃ (s : State) (k : CoreId), s.coreRuns k.val = true ∧ s.assignedTo k.val < 4 ∧ ((vget {  } s.quads (s.assignedTo k.val)).jobsOf (k.val) false).isEmpty = false) ∧
    (∃ (s : State) (k : CoreId) (pass : Bool), (s.core k).katDue = some pass) ∧
    (∃ (s : State) (k : CoreId), s.isOn (dCores (k.val / 18)) = true ∧ (s.core k).state = CoreState.quarantined ∧ (s.core k).cause = 0) ∧
    (∃ (s : State), s.isOn dFbk = true ∧ s.fbk.inService = false ∧ s.fbk.failed = false) ∧
    (∃ (s : State) (p : Port) (k : CoreId), s.reaches p (128 + k.val) ∧ (s.core k).quarForce = false ∧ (s.core k).state = CoreState.quarantined) ∧
    (∃ (s : State) (k : CoreId), s.isOn (dCores (k.val / 18)) = true) ∧
    (∃ (s : State), s.isOn dFbk = true) ∧
    (∃ (s : State) (k : CoreId), (s.core k).afTh ≠ 0 ∧ BitVec.toNat (s.core k).afTh ≤ (s.core k).afWin ∧ (s.core k).afOver = false ∧ s.isIdle k.val = false) ∧
    (∃ (s : State) (k : CoreId), (s.core k).afWin < BitVec.toNat (s.core k).afTh) ∧
    (∃ (s : State) (p : Port) (q : QuadId), s.reaches p (16 + q.val) ∧ (s.quad q).cph.cntAddr.toNat % 2 = 0 ∧ (s.quad q).cph.cntAddr.toNat / 2 < 12) := by
  refine ⟨⟨{ up with cores := Vector.replicate 72 { state := .inService } }, 71, ?_, ?_, ?_⟩,
    ⟨{ quads 0 { cph := { rob := [job (some [])] } } with cores := Vector.replicate 72 { state := .inService } }, 0, ?_, ?_, ?_⟩,
    ⟨{ up with cores := Vector.replicate 72 { katDue := some true } }, 0, true, ?_⟩,
    ⟨up, 71, ?_, ?_, ?_⟩,
    ⟨up, ?_, ?_, ?_⟩,
    ⟨up, .pcie, 71, ?_, ?_, ?_⟩,
    ⟨up, 71, ?_⟩,
    ⟨up, ?_⟩,
    ⟨{ up with cores := Vector.replicate 72 { afWin := 16 } }, 0, ?_, ?_, ?_, ?_⟩,
    ⟨{ up with cores := Vector.replicate 72 { afWin := 15 } }, 0, ?_⟩,
    ⟨quads 0 { cph := { cntAddr := 22 } }, .pcie, 3, ?_, ?_, ?_⟩⟩ <;>
    first | decide +kernel | rfl | exact ⟨by decide +kernel, by decide +kernel⟩

/-- The premises of KeyCommandsTakeEffect, clause by clause, have an instance. -/
theorem test_premises_keyCommandsTakeEffect_1 :
    (∃ (s : State) (p : Port), s.reaches p 7 ∧ s.key.busy = none ∧ s.zeroised = true) ∧
    (∃ (s : State) (p : Port), s.reaches p 7 ∧ s.key.busy = none ∧ s.zeroised = false ∧ s.vault.provOpen = false) ∧
    (∃ (s : State) (p : Port), s.reaches p 7 ∧ s.key.busy = none ∧ s.zeroised = false ∧ s.vault.provOpen = true) ∧
    (∃ (s : State) (p : Port) (c : KeyCmdWord), s.reaches p 7 ∧ s.key.busy = none ∧ s.zeroised = false ∧ s.slotAllows c.wrapSlot.toNat 4 = false) ∧
    (∃ (s : State) (p : Port) (c : KeyCmdWord) (key : List Byte), s.reaches p 7 ∧ s.key.busy = none ∧ s.deriveKey (s.keyName c.wrapSlot.toNat 4 false (BitVec.setWidth 32 c.slot) ((s.slot c.slot.toNat).gen + 1) 0 true) = some key ∧ s.zeroised = false ∧ (gcmOpen key (List.take 12 (s.key.dataBytes 15)) (wrapAad c ((s.slot c.slot.toNat).gen + 1)) (bytesAt (s.key.dataBytes 15) 12 32) (bytesAt (s.key.dataBytes 15) 44 16)) = none) ∧
    (∃ (s : State) (p : Port) (c : KeyCmdWord) (key : List Byte) (k : List Byte), s.reaches p 7 ∧ s.key.busy = none ∧ s.deriveKey (s.keyName c.wrapSlot.toNat 4 false (BitVec.setWidth 32 c.slot) ((s.slot c.slot.toNat).gen + 1) 0 true) = some key ∧ s.zeroised = false ∧ (gcmOpen key (List.take 12 (s.key.dataBytes 15)) (wrapAad c ((s.slot c.slot.toNat).gen + 1)) (bytesAt (s.key.dataBytes 15) 12 32) (bytesAt (s.key.dataBytes 15) 44 16)) = some k) ∧
    (∃ (s : State) (p : Port) (c : KeyCmdWord), s.reaches p 7 ∧ s.key.busy = none ∧ s.lineLane c.lane = none ∧ s.zeroised = false) ∧
    (∃ (s : State) (p : Port) (c : KeyCmdWord), s.reaches p 7 ∧ s.key.busy = none ∧ (s.lineLane c.lane).isSome = true ∧ s.zeroised = false) ∧
    (∃ (s : State) (p : Port) (c : KeyCmdWord), s.reaches p 7 ∧ s.key.busy = none ∧ (c.slot.toNat < 4 ∨ 7 < c.slot.toNat)) ∧
    (∃ (s : State) (p : Port) (c : KeyCmdWord), s.reaches p 7 ∧ s.key.busy = none ∧ 4 ≤ c.slot.toNat ∧ c.slot.toNat ≤ 7 ∧ vget 0 s.vault.mono (c.slot.toNat - 4) = BitVec.allOnes 32) ∧
    (∃ (s : State) (p : Port) (c : KeyCmdWord), s.reaches p 7 ∧ s.key.busy = none ∧ 4 ≤ c.slot.toNat ∧ c.slot.toNat ≤ 7 ∧ vget 0 s.vault.mono (c.slot.toNat - 4) ≠ BitVec.allOnes 32) ∧
    (∃ (s : State) (p : Port) (c : KeyCmdWord) (present : Bool) (i : Instr), s.reaches p 7 ∧ s.key.busy.isSome = true ∧ i ∈ [Instr.importClear p c, Instr.importWrapped p c, Instr.erase p c, Instr.closeProv p, Instr.vkInstall p, Instr.mskSet p c, Instr.mskClear p c, Instr.prefetch p, Instr.tamperClear p present, Instr.monoIncr p c]) := by
  refine ⟨?_, ?_, ?_, ?_, ?_, ?_, ?_, ?_, ?_, ?_, ?_, ?_⟩
  · refine ⟨{ up with key := { zeroNLow := true } }, .pcie, ?_, ?_, ?_⟩ <;>
      first | decide +kernel | rfl | exact ⟨by decide +kernel, by decide +kernel⟩
  · refine ⟨{ up with vault := { provOpen := false } }, .pcie, ?_, ?_, ?_, ?_⟩ <;>
      first | decide +kernel | rfl | exact ⟨by decide +kernel, by decide +kernel⟩
  · refine ⟨up, .pcie, ?_, ?_, ?_, ?_⟩ <;>
      first | decide +kernel | rfl | exact ⟨by decide +kernel, by decide +kernel⟩
  · refine ⟨up, .pcie, word 0, ?_, ?_, ?_, ?_⟩ <;>
      first | decide +kernel | rfl | exact ⟨by decide +kernel, by decide +kernel⟩
  · refine ⟨wrapped otherTag, .pcie, word 3, wrapKey, ?_, ?_, ?_, ?_, ?_⟩ <;>
      first | exact refuses_wrapped | exact wrapped_key _ | exact (wrapped_free _).1 | exact (wrapped_free _).2.1 | exact (wrapped_free _).2.2 | decide +kernel
  · refine ⟨wrapped wrapTag, .pcie, word 3, wrapKey, unwrapped, ?_, ?_, ?_, ?_, ?_⟩ <;>
      first | exact opens_wrapped | exact wrapped_key _ | exact (wrapped_free _).1 | exact (wrapped_free _).2.1 | exact (wrapped_free _).2.2 | decide +kernel | exact ⟨by decide +kernel, by decide +kernel⟩
  · refine ⟨up, .pcie, word 0, ?_, ?_, ?_, ?_⟩ <;>
      first | decide +kernel | rfl | exact ⟨by decide +kernel, by decide +kernel⟩
  · refine ⟨lanes 1 {}, .pcie, word 0, ?_, ?_, ?_, ?_⟩ <;>
      first | decide +kernel | rfl | exact ⟨by decide +kernel, by decide +kernel⟩
  · refine ⟨up, .pcie, word 3, ?_, ?_, ?_⟩ <;>
      first | decide +kernel | rfl | exact ⟨by decide +kernel, by decide +kernel⟩
  · refine ⟨{ up with vault := { mono := Vector.replicate 4 (BitVec.allOnes 32) } }, .pcie, word 7, ?_, ?_, ?_, ?_, ?_⟩ <;>
      first | decide +kernel | rfl | exact ⟨by decide +kernel, by decide +kernel⟩
  · refine ⟨up, .pcie, word 7, ?_, ?_, ?_, ?_, ?_⟩ <;>
      first | decide +kernel | rfl | exact ⟨by decide +kernel, by decide +kernel⟩
  · refine ⟨{ up with key := { busy := some .closeProv } }, .pcie, word 0, false, .closeProv .pcie, ?_, ?_, ?_⟩ <;>
      first | decide +kernel | rfl | exact ⟨by decide +kernel, by decide +kernel⟩

/-- The premises of KeyCommandsTakeEffect, clause by clause, have an instance. -/
theorem test_premises_keyCommandsTakeEffect_2 :
    (∃ (s : State) (slot : BitVec 4) (side : Bool) (purposes : BitVec 5) (key : List Byte), s.key.busy = some (KeyOp.importSlot slot side purposes key) ∧ (s.copy slot.toNat).oldKey = none) ∧
    (∃ (s : State) (slot : BitVec 4) (side : Bool) (purposes : BitVec 5) (key : List Byte), s.key.busy = some (KeyOp.importSlot slot side purposes key) ∧ (s.copy slot.toNat).oldKey.isSome = true) ∧
    (∃ (s : State) (slot : Fin 16), (s.copy slot.val).oldKey.isSome = true ∧ s.genInUse (slot.val) (s.copy slot.val).oldGen = false) ∧
    (∃ (s : State) (slot : BitVec 4), s.key.busy = some (KeyOp.erase slot)) ∧
    (∃ (s : State), s.key.busy = some KeyOp.closeProv) ∧
    (∃ (s : State) (bytes : List Byte), s.key.busy = some KeyOp.vkInstall ∧ s.vkValid bytes = false) ∧
    (∃ (s : State) (lane : BitVec 7) (key : List Byte), s.key.busy = some (KeyOp.mskSet lane key)) ∧
    (∃ (s : State), s.key.busy = some KeyOp.prefetch) ∧
    (∃ (s : State), s.key.busy = some KeyOp.tamperClear) ∧
    (∃ (s : State) (c : BitVec 4), s.key.busy = some (KeyOp.monoIncr c)) := by
  refine ⟨⟨{ up with key := { busy := some (.importSlot 3 false 0 []) } }, 3, false, 0, [], ?_, ?_⟩,
    ⟨{ up with key := { busy := some (.importSlot 3 false 0 []), copies := Vector.replicate 16 { oldKey := some [] } } }, 3, false, 0, [], ?_, ?_⟩,
    ⟨{ up with key := { copies := Vector.replicate 16 { oldKey := some [] } } }, 15, ?_, ?_⟩,
    ⟨{ up with key := { busy := some (.erase 15) } }, 15, ?_⟩,
    ⟨{ up with key := { busy := some .closeProv } }, ?_⟩,
    ⟨{ up with key := { busy := some .vkInstall } }, [], ?_, ?_⟩,
    ⟨{ up with key := { busy := some (.mskSet 1 []) } }, 1, [], ?_⟩,
    ⟨{ up with key := { busy := some .prefetch } }, ?_⟩,
    ⟨{ up with key := { busy := some .tamperClear } }, ?_⟩,
    ⟨{ up with key := { busy := some (.monoIncr 7) } }, 7, ?_⟩⟩ <;>
    first | decide +kernel | rfl

/-- The premises of VaultCommandsTakeEffect, clause by clause, have an instance. -/
theorem test_premises_vaultCommandsTakeEffect_1 :
    (∃ (s : State) (ns : Nat), 100 ≤ ns ∧ s.key.zeroNLow = false ∧ bit ({ s with key := { s.key with zeroNLow := true } }.zeroiseSteps).key.zcfg 0 = false) ∧
    (∃ (s : State) (ns : Nat), 100 ≤ ns ∧ s.key.zeroNLow = false ∧ bit ({ s with key := { s.key with zeroNLow := true } }.zeroiseSteps).key.zcfg 0 = true) ∧
    (∃ (ns : Nat), ns < 100) ∧
    (∃ (s : State) (c : TamperCause), s.key.senses c = false) ∧
    (∃ (s : State) (c : TamperCause), s.key.senses c = true ∧ bit ({ s with vault := { s.vault with tamperLatched := true, tamperCauses := setBit s.vault.tamperCauses c.index true } }.zeroiseSteps).key.zcfg 1 = false) ∧
    (∃ (s : State) (c : TamperCause), s.key.senses c = true ∧ bit ({ s with vault := { s.vault with tamperLatched := true, tamperCauses := setBit s.vault.tamperCauses c.index true } }.zeroiseSteps).key.zcfg 1 = true) ∧
    (∃ (s : State), s.key.zeroNLow = true) ∧
    (∃ (s : State) (raw : List Bool), s.key.trngFail = false ∧ trngFails raw = true) ∧
    (∃ (s : State) (raw : List Bool), s.key.trngFail = false ∧ trngFails raw = false) ∧
    (∃ (s : State) (passed : Nat), s.key.trngFail = true ∧ 1048576 ≤ passed) ∧
    (∃ (s : State) (passed : Nat), s.key.trngFail = true ∧ passed < 1048576) ∧
    (∃ (s : State), BitVec.toNat s.vault.operatingS + 60 < 2 ^ 32) := by
  refine ⟨⟨{ up with key := { zcfg := 0 } }, 100, ?_, ?_, ?_⟩,
    ⟨{ up with key := { zcfg := 0x1F#32 } }, 100, ?_, ?_, ?_⟩,
    ⟨99, ?_⟩,
    ⟨up, .pin 99, ?_⟩,
    ⟨{ up with key := { zcfg := 0 } }, .shield, ?_, ?_⟩,
    ⟨{ up with key := { zcfg := 2 } }, .shield, ?_, ?_⟩,
    ⟨{ up with key := { zeroNLow := true } }, ?_⟩,
    ⟨up, List.replicate 40 true, ?_, ?_⟩,
    ⟨up, [], ?_, ?_⟩,
    ⟨{ up with key := { trngFail := true } }, 1048576, ?_, ?_⟩,
    ⟨{ up with key := { trngFail := true } }, 1048575, ?_, ?_⟩,
    ⟨{ up with vault := { operatingS := 0xFFFFFFC3#32 } }, ?_⟩⟩ <;>
    first | decide +kernel | rfl

/-- The premises of VaultCommandsTakeEffect, clause by clause, have an instance. -/
theorem test_premises_vaultCommandsTakeEffect_2 :
    (∃ (s : State) (p : Port), s.reaches p 7 ∧ s.key.ready = true) ∧
    (∃ (s : State) (p : Port), s.reaches p 7 ∧ s.key.ready = false) ∧
    (∃ (s : State) (p : Port), s.reaches p 7 ∧ s.key.cntAddr.toNat % 2 = 0) := by
  refine ⟨⟨{ up with key := { ready := true } }, .pcie, ?_, ?_⟩,
    ⟨up, .pcie, ?_, ?_⟩,
    ⟨{ up with key := { ready := true } }, .pcie, ?_, ?_⟩⟩ <;>
    first | decide +kernel | rfl | exact ⟨by decide +kernel, by decide +kernel⟩

/-- The premises of TimeCommandsTakeEffect, clause by clause, have an instance. -/
theorem test_premises_timeCommandsTakeEffect_1 :
    (∃ (s : State) (p : Port), s.reaches p 6 ∧ s.tim.srcField ≠ 0) ∧
    (∃ (s : State) (p : Port), s.reaches p 6 ∧ s.tim.srcField ≠ 1) ∧
    (∃ (s : State) (p : Port), s.reaches p 6 ∧ s.tim.srcField = 1 ∧ s.refLaneId = none) ∧
    (∃ (s : State) (p : Port) (n : LaneId), s.reaches p 6 ∧ s.tim.srcField = 1 ∧ s.refLaneId = some n ∧ s.inSync n = true ∧ 0 < (s.tim.todSfc - (s.lane n).ds.sfc).toNat ∧ (s.tim.todSfc - (s.lane n).ds.sfc).toNat ≤ 2 ^ 20) ∧
    (∃ (s : State) (p : Port) (w : W32), s.reaches p 6 ∧ s.tim.srcField = 0 ∧ ((fld w 0 8 ++ s.tim.incrLo).toNat < 6865075726 ∨ 6878819622 < (fld w 0 8 ++ s.tim.incrLo).toNat)) ∧
    (∃ (s : State) (p : Port) (w : W32), s.reaches p 6 ∧ s.tim.srcField = 0 ∧ 6865075726 ≤ (fld w 0 8 ++ s.tim.incrLo).toNat ∧ (fld w 0 8 ++ s.tim.incrLo).toNat ≤ 6878819622 ∧ s.tim.state ≠ ServoState.priming) ∧
    (∃ (s : State) (p : Port) (e : TxStamp) (rest : List TxStamp), s.reaches p 6 ∧ s.tim.txq = e :: rest) ∧
    (∃ (s : State), s.isOn dTim = true ∧ s.clocked = true ∧ (∀ (n : LaneId), s.isLine n.val = true → (s.lane n).ts.stale = false)) ∧
    (∃ (s : State) (n : LaneId), (s.lane n).ts.stale = false ∧ s.isLine n.val = true) ∧
    (∃ (s : State) (p : Port) (n : LaneId), s.reachesLane p n LaneKind.common ∧ (s.role n.val = 0 ∨ (s.lane n).com.genEn = true) ∧ s.isOn (dRx n.val) = true ∧ s.isOn (dTx n.val) = true) ∧
    (∃ (s : State) (p : Port) (n : LaneId), s.reachesLane p n LaneKind.common ∧ s.isOn (dTx n.val) = false) ∧
    (∃ (s : State) (n : LaneId) (rx : BitVec 16) (tx : BitVec 16), (s.lane n).ts.calBusy = true ∧ near rx (fld s.vault.cal[n.val] 0 16) = true ∧ near tx (fld s.vault.cal[n.val] 16 16) = true) := by
  refine ⟨⟨timed { ctl := 2#32 }, .pcie, ?_, ?_⟩,
    ⟨timed { ctl := 0 }, .pcie, ?_, ?_⟩,
    ⟨timed { ctl := 0x181#32 }, .pcie, ?_, ?_, ?_⟩,
    ⟨{ lanes 1 { ds := { sync := .sync, sfc := 0x12C4A8000#51 } } with tim := { ctl := 0x1D#32, todSfc := 0x12C4AA000#51 } }, .pcie, 7, ?_, ?_, ?_, ?_, ?_, ?_⟩,
    ⟨timed { ctl := 0, incrLo := 0x9930be0d#32 }, .pcie, 1, ?_, ?_, ?_⟩,
    ⟨timed { ctl := 0, incrLo := 0x9930be0e#32, state := .host }, .pcie, 1, ?_, ?_, ?_, ?_, ?_⟩,
    ⟨timed { txq := [{}] }, .pcie, {}, [], ?_, ?_⟩,
    ⟨lanes 1 {}, ?_, ?_, ?_⟩,
    ⟨lanes 1 {}, 0, ?_, ?_⟩,
    ⟨up, .pcie, 50, ?_, ?_, ?_, ?_⟩,
    ⟨{ up with pwr := { on := BitVec.ofNat 224 (2 ^ 112 - 1) } }, .pcie, 50, ?_, ?_⟩,
    ⟨{ lanes 1 { ts := { calBusy := true } } with vault := { cal := Vector.replicate 96 0x0190019C#32 } }, 50, 418, 400, ?_, ?_, ?_⟩⟩ <;>
    first | decide +kernel | rfl | exact ⟨by decide +kernel, by decide +kernel⟩ | exact ⟨by decide +kernel, by decide +kernel, by decide +kernel⟩

/-- The premises of TimeCommandsTakeEffect, clause by clause, have an instance. -/
theorem test_premises_timeCommandsTakeEffect_2 :
    (∃ (s : State) (n : LaneId) (rx : BitVec 16) (tx : BitVec 16), (s.lane n).ts.calBusy = true ∧ (near rx (fld s.vault.cal[n.val] 0 16) = false ∨ near tx (fld s.vault.cal[n.val] 16 16) = false)) ∧
    (∃ (s : State) (n : LaneId) (tag : BitVec 16), (s.isLine n.val = true ∨ s.isEth n.val = true) ∧ tag ∈ (s.lane n).ts.tags ∧ s.isOn dTim = true ∧ s.tim.txq.length < 64) ∧
    (∃ (s : State) (n : LaneId) (tag : BitVec 16), (s.isLine n.val = true ∨ s.isEth n.val = true) ∧ tag ∈ (s.lane n).ts.tags ∧ s.isOn dTim = true ∧ 64 ≤ s.tim.txq.length ∧ s.tim.txqOvf = false) ∧
    (∃ (s : State) (n : LaneId) (tag : BitVec 16), (s.isLine n.val = true ∨ s.isEth n.val = true) ∧ tag ∈ (s.lane n).ts.tags ∧ s.isOn dTim = false) ∧
    (∃ (s : State) (c : Fin 8), s.isOn dTim = true ∧ s.tim.cmp[c.val].armed = true ∧ s.tim.cmp[c.val].reached s.tim.ns = true) ∧
    (∃ (s : State) (k : Nat), s.isOn dTim = true ∧ s.tim.ppsDue = some k ∧ bit s.tim.ppsCtl 0 = true ∧ (s.tim.valid = true ∨ bit s.tim.ppsCtl 1 = true)) ∧
    (∃ (s : State) (k : Nat), s.isOn dTim = true ∧ s.tim.ppsDue = some k ∧ (bit s.tim.ppsCtl 0 = false ∨ s.tim.valid = false ∧ bit s.tim.ppsCtl 1 = false)) := by
  refine ⟨⟨{ lanes 1 { ts := { calBusy := true } } with vault := { cal := Vector.replicate 96 0x0190019C#32 } }, 50, 445, 400, ?_, ?_⟩,
    ⟨{ lanes 2 { ts := { tags := [5] } } with tim := { txq := List.replicate 63 {} } }, 12, 5, ?_, ?_, ?_, ?_⟩,
    ⟨{ lanes 2 { ts := { tags := [5] } } with tim := { txq := List.replicate 64 {} } }, 12, 5, ?_, ?_, ?_, ?_, ?_⟩,
    ⟨{ lanes 2 { ts := { tags := [5] } } with pwr := {} }, 12, 5, ?_, ?_, ?_⟩,
    ⟨timed { cmp := Vector.replicate 8 { armed := true } }, 7, ?_, ?_, ?_⟩,
    ⟨timed { ppsCtl := 3#32, ppsDue := some 5 }, 5, ?_, ?_, ?_, ?_⟩,
    ⟨timed { ppsCtl := 0, ppsDue := some 5 }, 5, ?_, ?_, ?_⟩⟩ <;>
    first | decide +kernel | rfl

/-- The premises of FiredComparatorsAdvance, clause by clause, have an instance. -/
theorem test_premises_firedComparatorsAdvance :
    ∃ (c : Cmp) (ns : W64), c.armed = true ∧ c.per ≠ 0 ∧ 0 ≤ (fld ns 0 40 - c.target).toInt := by
  refine ⟨{ armed := true, per := 1000#32, target := 5 }, 5, ?_, ?_, ?_⟩ <;>
    first | decide +kernel | rfl

/-- The premises of ServoCommandsTakeEffect, clause by clause, have an instance. -/
theorem test_premises_servoCommandsTakeEffect_1 :
    (∃ (s : State), s.isOn dTim = true ∧ s.tim.srcField ≠ 1) ∧
    (∃ (s : State), s.isOn dTim = true ∧ s.tim.srcField = 1 ∧ s.tim.steers = true ∧ s.tim.stepTh < s.retau.tim.tau.getD 0 - s.tim.tau.getD 0) ∧
    (∃ (s : State), s.isOn dTim = true ∧ s.tim.srcField = 1 ∧ s.refPresent = false ∧ s.tim.steers = true) ∧
    (∃ (s : State), s.isOn dTim = true ∧ s.tim.srcField = 1 ∧ s.refPresent = false ∧ s.tim.steers = false) ∧
    (∃ (s : State), s.isOn dTim = true ∧ s.tim.srcField = 2 ∧ s.tim.steers = false) ∧
    (∃ (s : State) (ps : PsyncStamp), s.isOn dTim = true ∧ s.tim.srcField = 1 ∧ s.tim.todArmed = true ∧ s.tim.psync = some ps ∧ ps.sfc = s.tim.latchN ∧ s.tauNow = none) ∧
    (∃ (s : State) (ps : PsyncStamp) (tau : Int × W32), s.isOn dTim = true ∧ s.tim.srcField = 1 ∧ s.tim.todArmed = true ∧ s.tim.psync = some ps ∧ ps.sfc = s.tim.latchN ∧ s.tauNow = some tau ∧ s.tim.timeSet = true) ∧
    (∃ (s : State) (ps : PsyncStamp) (tau : Int × W32), s.isOn dTim = true ∧ s.tim.srcField = 1 ∧ s.tim.todArmed = true ∧ s.tim.psync = some ps ∧ ps.sfc = s.tim.latchN ∧ s.tauNow = some tau ∧ s.tim.timeSet = false) ∧
    (∃ (s : State) (u : State) (e : Int), s.isOn dTim = true ∧ s.refPresent = true ∧ s.takeSample = some (e, u) ∧ ({ u with tim := { u.tim with lastE := e } }.endCond 1008).tim.state = ServoState.host) ∧
    (∃ (s : State) (u : State) (e : Int), s.isOn dTim = true ∧ s.refPresent = true ∧ s.takeSample = some (e, u) ∧ (({ u with tim := { u.tim with lastE := e } }.endCond 1008).tim.state = ServoState.acquire ∨ ({ u with tim := { u.tim with lastE := e } }.endCond 1008).tim.state = ServoState.locked)) ∧
    (∃ (s : State) (u : State) (e : Int), s.isOn dTim = true ∧ s.refPresent = true ∧ s.takeSample = some (e, u) ∧ ({ u with tim := { u.tim with lastE := e } }.endCond 1008).tim.state = ServoState.priming ∧ ({ u with tim := { u.tim with lastE := e } }.endCond 1008).tim.holdBit = true) ∧
    (∃ (s : State) (u : State) (e : Int), s.isOn dTim = true ∧ s.refPresent = true ∧ s.takeSample = some (e, u) ∧ ({ u with tim := { u.tim with lastE := e } }.endCond 1008).tim.state = ServoState.priming ∧ ({ u with tim := { u.tim with lastE := e } }.endCond 1008).tim.holdBit = false) := by
  refine ⟨?_, ?_, ?_, ?_, ?_, ?_, ?_, ?_, ?_, ?_, ?_, ?_⟩
  · refine ⟨timed { ctl := 0 }, ?_, ?_⟩ <;>
      first | decide +kernel | rfl
  · refine ⟨ranged { ctl := 1#32, state := .locked }, ?_, ?_, ?_, ?_⟩ <;>
      first | decide +kernel | rfl
  · refine ⟨timed { ctl := 1#32, state := .locked }, ?_, ?_, ?_, ?_⟩ <;>
      first | decide +kernel | rfl
  · refine ⟨timed { ctl := 1#32 }, ?_, ?_, ?_, ?_⟩ <;>
      first | decide +kernel | rfl
  · refine ⟨timed { ctl := 2#32 }, ?_, ?_, ?_⟩ <;>
      first | decide +kernel | rfl
  · refine ⟨timed { ctl := 0x181#32, todArmed := true, psync := some { time := 0, sfc := 5 }, latchN := 5 }, { time := 0, sfc := 5 }, ?_, ?_, ?_, ?_, ?_, ?_⟩ <;>
      first | decide +kernel | rfl | exact some_getD (by decide +kernel)
  · refine ⟨{ lanes 1 { act := { eqdHeld := true, teqd := 2488320, eqd := 970146 } } with tim := { ctl := 1#32, todArmed := true, timeSet := true, psync := some { time := 0, sfc := 5 }, latchN := 5 } }, { time := 0, sfc := 5 }, (tauOf { ctl := 1#32 } 0 { roundTrip := 1880480#32, channels := none }).getD (0, 0), ?_, ?_, ?_, ?_, ?_, ?_, ?_⟩ <;>
      first | decide +kernel | rfl | exact some_getD (by decide +kernel)
  · refine ⟨ranged { ctl := 1#32, todArmed := true, psync := some { time := 0, sfc := 5 }, latchN := 5 }, { time := 0, sfc := 5 }, ((ranged { ctl := 1#32 }).tauNow).getD (0, 0), ?_, ?_, ?_, ?_, ?_, ?_, ?_⟩ <;>
      first | decide +kernel | rfl | exact some_getD (by decide +kernel)
  · refine ⟨timed { ctl := 2#32, ppsPresent := true, ppsSample := some 5, state := .host }, timed { ctl := 2#32, ppsPresent := true, state := .host }, 5, ?_, ?_, ?_, ?_⟩ <;>
      first | (show State.takeSample _ = some _; rfl) | decide +kernel
  · refine ⟨timed { ctl := 2#32, ppsPresent := true, ppsSample := some 5, state := .locked }, timed { ctl := 2#32, ppsPresent := true, state := .locked }, 5, ?_, ?_, ?_, ?_⟩ <;>
      first | (show State.takeSample _ = some _; rfl) | decide +kernel
  · refine ⟨timed { ctl := 0x802#32, ppsPresent := true, ppsSample := some 5, state := .priming }, timed { ctl := 0x802#32, ppsPresent := true, state := .priming }, 5, ?_, ?_, ?_, ?_, ?_⟩ <;>
      first | (show State.takeSample _ = some _; rfl) | decide +kernel
  · refine ⟨timed { ctl := 2#32, ppsPresent := true, ppsSample := some 5, state := .priming }, timed { ctl := 2#32, ppsPresent := true, state := .priming }, 5, ?_, ?_, ?_, ?_, ?_⟩ <;>
      first | (show State.takeSample _ = some _; rfl) | decide +kernel

/-- The premises of ServoCommandsTakeEffect, clause by clause, have an instance. -/
theorem test_premises_servoCommandsTakeEffect_2 :
    (∃ (s : State) (u : State) (e : Int), s.isOn dTim = true ∧ s.refPresent = true ∧ s.takeSample = some (e, u) ∧ ({ u with tim := { u.tim with lastE := e } }.endCond 1008).tim.state = ServoState.holdover ∧ ({ u with tim := { u.tim with lastE := e } }.endCond 1008).tim.holdBit = false) ∧
    (∃ (s : State) (u : State) (e : Int), s.isOn dTim = true ∧ s.refPresent = true ∧ s.takeSample = some (e, u) ∧ ({ u with tim := { u.tim with lastE := e } }.endCond 1008).tim.state = ServoState.holdover ∧ ({ u with tim := { u.tim with lastE := e } }.endCond 1008).tim.holdBit = true) ∧
    (∃ (s : State) (p : Port) (w : W32), s.reaches p 6 ∧ s.tim.srcField = ({ s.tim with ctl := w }).srcField ∧ s.tim.refLane = ({ s.tim with ctl := w }).refLane ∧ (s.tim.holdBit = true ∨ bit w 11 = false)) ∧
    (∃ (s : State) (p : Port) (w : W32), s.reaches p 6 ∧ s.tim.srcField ≠ 0 ∧ ({ s.tim with ctl := w }).srcField = 0 ∧ s.tim.refLane = ({ s.tim with ctl := w }).refLane) ∧
    (∃ (s : State) (y : Nat), s.isOn dTim = true ∧ s.tim.ppsLastEdge = some y ∧ s.now - y < 9000000000) ∧
    (∃ (s : State) (y : Nat), s.isOn dTim = true ∧ s.tim.ppsLastEdge = some y ∧ 9000000000 ≤ s.now - y ∧ s.now - y ≤ 11000000000 ∧ s.tim.ppsLastUsable = some y ∧ s.tim.srcField = 2) := by
  refine ⟨?_, ?_, ?_, ?_, ?_, ?_⟩
  · refine ⟨timed { ctl := 2#32, ppsPresent := true, ppsSample := some 5, state := .holdover }, timed { ctl := 2#32, ppsPresent := true, state := .holdover }, 5, ?_, ?_, ?_, ?_, ?_⟩ <;>
      first | (show State.takeSample _ = some _; rfl) | decide +kernel
  · refine ⟨timed { ctl := 0x802#32, ppsPresent := true, ppsSample := some 5, state := .holdover }, timed { ctl := 0x802#32, ppsPresent := true, state := .holdover }, 5, ?_, ?_, ?_, ?_, ?_⟩ <;>
      first | (show State.takeSample _ = some _; rfl) | decide +kernel
  · refine ⟨timed { ctl := 1#32 }, .pcie, 1#32, ?_, ?_, ?_, ?_⟩ <;>
      first | decide +kernel | rfl | exact ⟨by decide +kernel, by decide +kernel⟩
  · refine ⟨timed { ctl := 2#32 }, .pcie, 0, ?_, ?_, ?_, ?_⟩ <;>
      first | decide +kernel | rfl | exact ⟨by decide +kernel, by decide +kernel⟩
  · refine ⟨{ timed { ppsLastEdge := some 0 } with now := 8999999999 }, 0, ?_, ?_, ?_⟩ <;>
      first | decide +kernel | rfl
  · refine ⟨{ timed { ctl := 2#32, ppsLastEdge := some 0, ppsLastUsable := some 0 } with now := 10000000000 }, 0, ?_, ?_, ?_, ?_, ?_, ?_⟩ <;>
      first | decide +kernel | rfl

/-- The premises of CisternCommandsTakeEffect, clause by clause, have an instance. -/
theorem test_premises_cisternCommandsTakeEffect_1 :
    (∃ (s : State) (p : Port), s.reaches p 9 ∧ s.cst.mode = CstMode.normal) ∧
    (∃ (s : State) (p : Port) (d : Fin 4), s.reaches p 9 ∧ s.cst.mode = CstMode.degraded ∧ s.cst.dev = { toFin := d }) ∧
    (∃ (s : State) (p : Port) (d : Fin 4), s.reaches p 9 ∧ s.cst.mode = CstMode.degraded ∧ s.cst.dev ≠ { toFin := d }) ∧
    (∃ (s : State) (p : Port), s.reaches p 9 ∧ s.cst.mode ≠ CstMode.normal) ∧
    (∃ (s : State) (p : Port), s.reaches p 9 ∧ (s.cst.mode = CstMode.training ∨ s.cst.mode = CstMode.offline)) ∧
    (∃ (s : State) (p : Port), s.reaches p 9 ∧ s.cst.busy = false) ∧
    (∃ (s : State) (p : Port), s.reaches p 9 ∧ s.cst.busy = true) ∧
    (∃ (s : State), s.cst.mode = CstMode.training ∧ s.cstUp = true) ∧
    (∃ (s : State) (failed : BitVec 4), s.cst.mode = CstMode.retraining ∧ s.isOn (dCst s.cst.dev.toNat) = true ∧ s.cst.waiting 4 = 0 ∧ bit failed s.cst.dev.toNat = true) ∧
    (∃ (s : State) (failed : BitVec 4), s.cst.mode = CstMode.retraining ∧ s.isOn (dCst s.cst.dev.toNat) = true ∧ s.cst.waiting 4 = 0 ∧ bit failed s.cst.dev.toNat = false) ∧
    (∃ (s : State), s.cst.mode = CstMode.draining ∧ s.cst.copied = false) ∧
    (∃ (s : State) (timeout : Bool), s.cst.mode = CstMode.draining ∧ s.cst.copied = true ∧ (if timeout = true then s.loseLines else s).cst.retiring = true) := by
  refine ⟨⟨{ up with cst := { mode := .normal } }, .pcie, ?_, ?_⟩,
    ⟨{ up with cst := { mode := .degraded, dev := 3 } }, .pcie, 3, ?_, ?_, ?_⟩,
    ⟨{ up with cst := { mode := .degraded } }, .pcie, 3, ?_, ?_, ?_⟩,
    ⟨up, .pcie, ?_, ?_⟩,
    ⟨up, .pcie, ?_, ?_⟩,
    ⟨{ up with cst := { mode := .normal } }, .pcie, ?_, ?_⟩,
    ⟨{ up with cst := { mode := .normal, scrubbing := true } }, .pcie, ?_, ?_⟩,
    ⟨up, ?_, ?_⟩,
    ⟨{ up with cst := { mode := .retraining } }, 1, ?_, ?_, ?_, ?_⟩,
    ⟨{ up with cst := { mode := .retraining } }, 0, ?_, ?_, ?_, ?_⟩,
    ⟨{ up with cst := { mode := .draining } }, ?_, ?_⟩,
    ⟨{ up with cst := { mode := .draining, copied := true, retiring := true } }, false, ?_, ?_, ?_⟩⟩ <;>
    first | decide +kernel | rfl | exact ⟨by decide +kernel, by decide +kernel⟩

/-- The premises of CisternCommandsTakeEffect, clause by clause, have an instance. -/
theorem test_premises_cisternCommandsTakeEffect_2 :
    (∃ (s : State) (timeout : Bool), s.cst.mode = CstMode.draining ∧ s.cst.copied = true ∧ (if timeout = true then s.loseLines else s).cst.retiring = false) ∧
    (∃ (s : State), s.cst.mode = CstMode.restoring) ∧
    (∃ (s : State), s.cst.waiting 4 = 0 ∧ s.cst.scrubbing = true) ∧
    (∃ (s : State), s.cst.waiting 4 = 0 ∧ s.cst.scrubbing = false ∧ fld s.cst.ctl 8 8 = 0#8) ∧
    (∃ (s : State) (p : Port), s.reaches p 9 ∧ BitVec.toNat s.cst.cntAddr % 2 = 0) ∧
    (∃ (s : State) (p : Port), s.reaches p 9 ∧ BitVec.toNat s.cst.cntAddr % 2 = 1) := by
  refine ⟨⟨{ up with cst := { mode := .draining, copied := true } }, false, ?_, ?_, ?_⟩,
    ⟨{ up with cst := { mode := .restoring } }, ?_⟩,
    ⟨{ up with cst := { scrubbing := true } }, ?_, ?_⟩,
    ⟨{ up with cst := { ctl := 0 } }, ?_, ?_, ?_⟩,
    ⟨{ up with cst := { mode := .normal, scrubbing := true } }, .pcie, ?_, ?_⟩,
    ⟨{ up with cst := { cntAddr := 1 } }, .pcie, ?_, ?_⟩⟩ <;>
    first | decide +kernel | rfl | exact ⟨by decide +kernel, by decide +kernel⟩

/-- The premises of HostInterfaceCommandsTakeEffect, clause by clause, have an instance. -/
theorem test_premises_hostInterfaceCommandsTakeEffect :
    (∃ (s : State), s.isOn dHif = false ∧ s.pins.perstHigh = false) ∧
    (∃ (s : State) (speed : BitVec 4) (width : BitVec 5), s.isOn dHif = true ∧ s.hif.speed = speed ∧ s.hif.width = width) ∧
    (∃ (s : State) (speed : BitVec 4) (width : BitVec 5), s.isOn dHif = true ∧ (s.hif.speed ≠ speed ∨ s.hif.width ≠ width) ∧ s.hif.changed = false) ∧
    (∃ (s : State) (p : Port) (a : BitVec 25), s.portUp p = true ∧ a.toNat % 4 = 0 ∧ assigned (a.toNat / 131072) = true ∧ s.answersAt a.toNat = false ∧ s.isOn dHif = true ∧ s.clocked = true ∧ bit s.hif.gated 31 = false) ∧
    (∃ (s : State), s.portUp Port.pcie = true) ∧
    (∃ (s : State) (p : Port), s.reaches p 8) ∧
    (∃ (s : State) (p : Port), s.reaches p 0 ∧ s.sys.lock = true) ∧
    (∃ (s : State) (p : Port) (w : W32), s.reaches p 0 ∧ (s.feature 8 = true ∨ bit w 0 = false ∨ bit s.sys.accept 8 = false)) ∧
    (∃ (s : State) (p : Port) (w : W32), s.reaches p 0 ∧ s.sys.lock = false ∧ bit w 0 = true ∧ bit s.sys.accept 8 = true) := by
  refine ⟨⟨{ up with pwr := {}, pins := { perstHigh := false } }, ?_, ?_⟩,
    ⟨up, 0, 0, ?_, ?_, ?_⟩,
    ⟨up, 4, 4, ?_, ?_, ?_⟩,
    ⟨{ up with pwr := { on := 2 } }, .pcie, 0x18E0000#25, ?_, ?_, ?_, ?_, ?_, ?_, ?_⟩,
    ⟨up, ?_⟩,
    ⟨up, .twoWire, ?_⟩,
    ⟨up, .pcie, ?_, ?_⟩,
    ⟨{ up with sys := {} }, .pcie, 1, ?_, ?_⟩,
    ⟨{ up with sys := { accept := BitVec.allOnes 128 } }, .pcie, 1, ?_, ?_, ?_, ?_⟩⟩ <;>
    first | decide +kernel | rfl | exact ⟨by decide +kernel, by decide +kernel⟩

/-- The premises of RingCommandsTakeEffect, clause by clause, have an instance. -/
theorem test_premises_ringCommandsTakeEffect_1 :
    (∃ (s : State) (r : RingId) (w : W32), s.portUp Port.pcie = true ∧ (s.ring r.val).accepts (r.val == 0 || r.val == 1 || r.val == 3) w = true) ∧
    (∃ (s : State) (r : RingId) (w : W32), s.portUp Port.pcie = true ∧ (s.ring r.val).accepts (r.val == 0 || r.val == 1 || r.val == 3) w = false) ∧
    (∃ (s : State) (r : RingId), s.portUp Port.pcie = true ∧ (s.ring r.val).en = false ∧ s.feature (ringFeature r.val) = true) ∧
    (∃ (s : State) (r : RingId), s.portUp Port.pcie = true ∧ s.feature (ringFeature r.val) = false) ∧
    (∃ (s : State) (r : RingId), (s.ring r.val).en = false) ∧
    (∃ (s : State) (r : RingId), (s.ring r.val).stopped = false) ∧
    (∃ (s : State) (r : RingId), 0 < (s.ring r.val).unsig ∧ fld (s.ring r.val).ctl 24 8 ≠ 0#8 ∧ bit (s.ring r.val).ctl 14 = true) ∧
    (∃ (s : State) (f : Punt) (rest : List Punt), s.hif.puntQ = f :: rest ∧ (s.ring 0).en = false) ∧
    (∃ (s : State) (f : Punt) (rest : List Punt) (bufs : List (W64 × BitVec 16)) (l : List (W64 × Nat)), s.hif.puntQ = f :: rest ∧ s.isOn dHif = true ∧ (s.ring 0).en = true ∧ s.feature 0 = true ∧ fillBufs f.bytes.length (List.take (s.ring 0).posted bufs) = some l) ∧
    (∃ (s : State) (d : InjDesc) (rest : List InjDesc), s.isOn dHif = true ∧ (s.ring 1).en = true ∧ s.feature 1 = true ∧ rest.length < (s.ring 1).posted ∧ injShape (d :: rest) = false) ∧
    (∃ (s : State) (d : InjDesc) (rest : List InjDesc), s.isOn dHif = true ∧ (s.ring 1).en = true ∧ s.feature 1 = true ∧ rest.length < (s.ring 1).posted ∧ injShape (d :: rest) = true) ∧
    (∃ (s : State) (q : W32) (x : Raised) (rest : List (W32 × Raised)), s.evt.toRing = (q, x) :: rest ∧ (s.ring 2).en = false) := by
  refine ⟨⟨rings 0 {}, 0, 64, ?_, ?_⟩,
    ⟨{ up with hif := {} }, 0, 65, ?_, ?_⟩,
    ⟨up, 4, ?_, ?_, ?_⟩,
    ⟨{ up with sys := {} }, 4, ?_, ?_⟩,
    ⟨up, 0, ?_⟩,
    ⟨rings 0 {}, 0, ?_⟩,
    ⟨{ up with hif := { rings := Vector.replicate 5 { unsig := 1, ctl := 0x14104115#32 } } }, 0, ?_, ?_, ?_⟩,
    ⟨{ up with hif := { puntQ := [⟨0, 1, 14, false, 0, 0xFFFF#16, [0], none, none, 0⟩] } }, ⟨0, 1, 14, false, 0, 0xFFFF#16, [0], none, none, 0⟩, [], ?_, ?_⟩,
    ⟨{ rings 0 { hostIdx := 1 } with hif := { (rings 0 { hostIdx := 1 }).hif with puntQ := [⟨0, 1, 14, false, 0, 0xFFFF#16, [0], none, none, 0⟩] } }, ⟨0, 1, 14, false, 0, 0xFFFF#16, [0], none, none, 0⟩, [], [(0, 2048)], [(0, 1)], ?_, ?_, ?_, ?_, ?_⟩,
    ⟨rings 1 { hostIdx := 1 }, ⟨64, 0, 14, 0, 0, 0, []⟩, [], ?_, ?_, ?_, ?_, ?_⟩,
    ⟨rings 1 { hostIdx := 1 }, ⟨64, 3, 14, 0, 0, 0, zeros 64⟩, [], ?_, ?_, ?_, ?_, ?_⟩,
    ⟨{ up with evt := { toRing := [(5, {})] } }, 5, {}, [], ?_, ?_⟩⟩ <;>
    first | decide +kernel | rfl

/-- The premises of RingCommandsTakeEffect, clause by clause, have an instance. -/
theorem test_premises_ringCommandsTakeEffect_2 :
    (∃ (s : State) (q : W32) (x : Raised) (rest : List (W32 × Raised)), s.evt.toRing = (q, x) :: rest ∧ s.isOn dHif = true ∧ (s.ring 2).en = true ∧ s.feature 2 = true ∧ 0 < (s.ring 2).room) ∧
    (∃ (s : State) (q : W32) (x : Raised) (rest : List (W32 × Raised)), s.evt.toRing = (q, x) :: rest ∧ s.isOn dHif = true ∧ (s.ring 2).en = true ∧ s.feature 2 = true ∧ (s.ring 2).room = 0 ∧ (s.ring 2).ovf = false) := by
  refine ⟨⟨{ rings 2 {} with evt := { toRing := [(5, {})] } }, 5, {}, [], ?_, ?_, ?_, ?_, ?_⟩,
    ⟨{ rings 2 { devIdx := 32768 } with evt := { toRing := [(5, {})] } }, 5, {}, [], ?_, ?_, ?_, ?_, ?_, ?_⟩⟩ <;>
    first | decide +kernel | rfl

/-- The premises of TwoWireCommandsTakeEffect, clause by clause, have an instance. -/
theorem test_premises_twoWireCommandsTakeEffect :
    (∃ (s : State) (off : W32), s.portUp Port.twoWire = true ∧ BitVec.toNat off < 2 ^ 25 ∧ BitVec.toNat off % 4 = 0 ∧ assigned (BitVec.toNat off / 131072) = true ∧ s.answersAt (BitVec.toNat off) = true ∧ bit s.pwr.twCopy 7 = false) ∧
    (∃ (s : State) (off : W32), s.portUp Port.twoWire = true ∧ BitVec.toNat off < 2 ^ 25 ∧ BitVec.toNat off % 4 = 0 ∧ assigned (BitVec.toNat off / 131072) = true ∧ s.answersAt (BitVec.toNat off) = false) ∧
    (∃ (s : State) (off : W32) (data : W32) (c : Byte), s.portUp Port.twoWire = true ∧ BitVec.toNat off < 2 ^ 25 ∧ BitVec.toNat off % 4 = 0 ∧ assigned (BitVec.toNat off / 131072) = true ∧ s.isOn dHif = true ∧ c ≠ (crc8 ([(fld s.pwr.twCopy 0 7) ++ 0#1, 1#8] ++ leBytes 4 (BitVec.toNat off) ++ leBytes 4 (BitVec.toNat data)))) ∧
    (∃ (s : State) (off : W32), s.portUp Port.twoWire = true ∧ BitVec.toNat off < 2 ^ 25 ∧ BitVec.toNat off % 4 = 0 ∧ assigned (BitVec.toNat off / 131072) = true ∧ s.isOn dHif = true ∧ bit s.pwr.twCopy 7 = true) ∧
    (∃ (s : State) (addr : BitVec 7), addr ≠ fld s.pwr.twCopy 0 7) := by
  refine ⟨⟨up, 0x18FFFFC#32, ?_, ?_, ?_, ?_, ?_, ?_⟩,
    ⟨{ up with pwr := {} }, 0x400000#32, ?_, ?_, ?_, ?_, ?_⟩,
    ⟨up, 4, 0, 0, ?_, ?_, ?_, ?_, ?_, ?_⟩,
    ⟨power { twCopy := 0xD0 }, 4, ?_, ?_, ?_, ?_, ?_, ?_⟩,
    ⟨up, 0, ?_⟩⟩ <;>
    first | decide +kernel | rfl

/-- The premises of RefereeCommandsTakeEffect, clause by clause, have an instance. -/
theorem test_premises_refereeCommandsTakeEffect :
    (∃ (e : EventId), evAssigned e.val = true) ∧
    (∃ (s : State) (e : EventId) (r : Report) (rest : List Report) (p : Nat), s.clocked = true ∧ (s.src e.val).settle = r :: rest ∧ s.absorber (e.val) r.cls = some p) ∧
    (∃ (s : State) (e : EventId) (r : Report) (rest : List Report), s.clocked = true ∧ (s.src e.val).settle = r :: rest ∧ s.absorber (e.val) r.cls = none) ∧
    (∃ (s : State) (e : EventId) (x : Raised) (rest : List Raised), s.clocked = true ∧ (s.src e.val).gather = x :: rest) ∧
    (∃ (s : State) (e : EventId), s.clocked = true ∧ (s.src e.val).hold = true ∧ (s.src e.val).late = 0) ∧
    (∃ (s : State) (e : EventId), s.clocked = true ∧ (s.src e.val).hold = true ∧ (s.src e.val).late ≠ 0) ∧
    (∃ (s : State) (e : EventId) (i : Instr), s.clocked = false ∧ i ∈ [Instr.settleEnd e, Instr.gatherEnd e, Instr.holdEnd e, Instr.lastingExpire e]) := by
  refine ⟨⟨930, ?_⟩,
    ⟨flapping, 481, { cls := 2 }, [], 932, ?_, ?_, ?_⟩,
    ⟨{ up with evt := { srcs := [(240, { settle := [{ cls := 1 }] })] } }, 240, { cls := 1 }, [], ?_, ?_, ?_⟩,
    ⟨{ up with evt := { srcs := [(930, { gather := [{}] })] } }, 930, {}, [], ?_, ?_⟩,
    ⟨{ up with evt := { srcs := [(930, { hold := true })] } }, 930, ?_, ?_, ?_⟩,
    ⟨{ up with evt := { srcs := [(930, { hold := true, late := 1 })] } }, 930, ?_, ?_, ?_⟩,
    ⟨power { state := .standby }, 930, .settleEnd 930, ?_, ?_⟩⟩ <;>
    first | decide +kernel | rfl

/-- The premises of EventRegistersTakeEffect, clause by clause, have an instance. -/
theorem test_premises_eventRegistersTakeEffect :
    (∃ (s : State) (p : Port) (g : Fin 32) (w : W32), s.reaches p 3 ∧ (({ s with evt := { s.evt with status := vmod s.evt.status g.val fun (x : W32) => x &&& ~~~w } }).evt.groupBit g.val = false ∨ bit (vget (0#32) s.evt.map g.val) 8 = false)) ∧
    (∃ (s : State) (p : Port) (g : Fin 32) (w : W32), s.reaches p 3 ∧ ({ s with evt := { s.evt with status := vmod s.evt.status g.val fun (x : W32) => x &&& ~~~w } }).evt.groupBit g.val = true ∧ bit (vget (0#32) s.evt.map g.val) 8 = true) ∧
    (∃ (s : State) (p : Port) (g : Fin 32) (w : W32), s.reaches p 3 ∧ (({ s with evt := { s.evt with mask := vset s.evt.mask (g.val) w } }).evt.groupBit g.val = false ∨ bit (vget (0#32) s.evt.map g.val) 8 = false)) ∧
    (∃ (s : State) (p : Port) (g : Fin 32) (w : W32), s.reaches p 3 ∧ ({ s with evt := { s.evt with mask := vset s.evt.mask (g.val) w } }).evt.groupBit g.val = true ∧ bit (vget (0#32) s.evt.map g.val) 8 = true) ∧
    (∃ (s : State) (p : Port) (w : W32), s.reaches p 3 ∧ bit w 10 = false) ∧
    (∃ (s : State) (p : Port) (w : W32), s.reaches p 3 ∧ bit w 10 = true ∧ classVaries ((fld w 0 10).toNat) = false) ∧
    (∃ (s : State) (p : Port) (w : W32), s.reaches p 3 ∧ bit w 10 = true ∧ classVaries ((fld w 0 10).toNat) = true) ∧
    (∃ (s : State) (p : Port), s.reaches p 3 ∧ ((fld s.evt.srcSel 10 2).toNat) = 1) ∧
    (∃ (s : State) (p : Port), s.reaches p 3 ∧ ((fld s.evt.srcSel 10 2).toNat) = 2) ∧
    (∃ (s : State) (p : Port), s.reaches p 3 ∧ ((fld s.evt.srcSel 10 2).toNat) = 3) := by
  refine ⟨⟨up, .pcie, 31, 1, ?_, ?_⟩,
    ⟨{ up with evt := { status := Vector.replicate 32 3#32, mask := Vector.replicate 32 0, map := Vector.replicate 32 0x103#32 } }, .pcie, 7, 1, ?_, ?_, ?_⟩,
    ⟨up, .pcie, 31, 1, ?_, ?_⟩,
    ⟨{ up with evt := { status := Vector.replicate 32 3#32, map := Vector.replicate 32 0x103#32 } }, .pcie, 7, 1, ?_, ?_, ?_⟩,
    ⟨up, .pcie, 0, ?_, ?_⟩,
    ⟨up, .pcie, 0x400, ?_, ?_, ?_⟩,
    ⟨up, .pcie, 0x407, ?_, ?_, ?_⟩,
    ⟨{ up with evt := { srcSel := 0x400#32 } }, .pcie, ?_, ?_⟩,
    ⟨{ up with evt := { srcSel := 0x800#32 } }, .pcie, ?_, ?_⟩,
    ⟨{ up with evt := { srcSel := 0xC00#32 } }, .pcie, ?_, ?_⟩⟩ <;>
    first | decide +kernel | rfl | exact ⟨by decide +kernel, by decide +kernel⟩

/-- The premises of WellCommandsTakeEffect, clause by clause, have an instance. -/
theorem test_premises_wellCommandsTakeEffect_1 :
    (∃ (s : State), s.wel.scanned = true) ∧
    (∃ (s : State), s.wel.scanned = false ∧ s.wel.preScan = []) ∧
    (∃ (s : State), s.wel.sevDue = true) ∧
    (∃ (s : State) (f : Flush) (q : W32) (rest : List W32) (r : RamRec) (l : List WellRec), s.wel.flush = some f ∧ f.todo = q :: rest ∧ s.wel.find q = some r ∧ vaultPut s.seqOldest s.vault.well r.body = some l) ∧
    (∃ (s : State), s.wel.pfailSeen = true) ∧
    (∃ (s : State), s.wel.pfailSeen = false) ∧
    (∃ (s : State) (p : Port) (i : Instr), s.reaches p 4 ∧ s.wel.busy.isSome = true ∧ i ∈ [Instr.wellFlush p, Instr.wellFreeze p, Instr.wellThaw p, Instr.wellRead p, Instr.challenge p, Instr.clear p]) ∧
    (∃ (s : State) (p : Port), s.reaches p 4 ∧ s.wel.busy = none ∧ s.wel.frozen = true) ∧
    (∃ (s : State) (p : Port), s.reaches p 4 ∧ s.wel.busy = none ∧ s.wel.frozen = false ∧ s.wel.flush = none) ∧
    (∃ (s : State) (p : Port), s.reaches p 4 ∧ s.wel.busy = none ∧ s.wel.frozen = false ∧ s.wel.chalValid = false) ∧
    (∃ (s : State) (p : Port), s.reaches p 4 ∧ s.wel.busy = none ∧ s.wel.frozen = false ∧ s.wel.chalValid = true ∧ bit s.key.zcfg 12 = false) ∧
    (∃ (s : State) (p : Port) (k : List Byte), s.reaches p 4 ∧ s.wel.busy = none ∧ s.wel.frozen = false ∧ s.wel.chalValid = true ∧ bit s.key.zcfg 12 = true ∧ s.deriveKey s.clearName = some k ∧ bytesOf s.wel.token = hmacSha256 k (bytesOf s.wel.chal)) := by
  refine ⟨?_, ?_, ?_, ?_, ?_, ?_, ?_, ?_, ?_, ?_, ?_, ?_⟩
  · refine ⟨{ up with wel := { scanned := true } }, ?_⟩ <;>
      first | decide +kernel | rfl
  · refine ⟨up, ?_, ?_⟩ <;>
      first | decide +kernel | rfl
  · refine ⟨{ up with wel := { sevDue := true } }, ?_⟩ <;>
      first | decide +kernel | rfl
  · refine ⟨{ up with wel := { flush := some { todo := [0] }, ram := [{}] } }, { todo := [0] }, 0, [], {}, [{}], ?_, ?_, ?_, ?_⟩ <;>
      first | decide +kernel | rfl
  · refine ⟨{ up with wel := { pfailSeen := true } }, ?_⟩ <;>
      first | decide +kernel | rfl
  · refine ⟨up, ?_⟩ <;>
      first | decide +kernel | rfl
  · refine ⟨{ up with wel := { busy := some .read } }, .pcie, .clear .pcie, ?_, ?_, ?_⟩ <;>
      first | decide +kernel | rfl | exact ⟨by decide +kernel, by decide +kernel⟩
  · refine ⟨{ up with wel := { frozen := true } }, .pcie, ?_, ?_, ?_⟩ <;>
      first | decide +kernel | rfl | exact ⟨by decide +kernel, by decide +kernel⟩
  · refine ⟨up, .pcie, ?_, ?_, ?_, ?_⟩ <;>
      first | decide +kernel | rfl | exact ⟨by decide +kernel, by decide +kernel⟩
  · refine ⟨up, .pcie, ?_, ?_, ?_, ?_⟩ <;>
      first | decide +kernel | rfl | exact ⟨by decide +kernel, by decide +kernel⟩
  · refine ⟨{ up with wel := { chalValid := true } }, .pcie, ?_, ?_, ?_, ?_, ?_⟩ <;>
      first | decide +kernel | rfl | exact ⟨by decide +kernel, by decide +kernel⟩
  · refine ⟨tokened (wordsOf 8 clearToken), .pcie, clearKey, ?_, ?_, ?_, ?_, ?_, ?_, ?_⟩ <;>
      first | exact clear_token | exact tokened_key _ | decide +kernel | exact ⟨by decide +kernel, by decide +kernel⟩

/-- The premises of WellCommandsTakeEffect, clause by clause, have an instance. -/
theorem test_premises_wellCommandsTakeEffect_2 :
    (∃ (s : State) (p : Port) (k : List Byte), s.reaches p 4 ∧ s.wel.busy = none ∧ s.wel.frozen = false ∧ s.wel.chalValid = true ∧ bit s.key.zcfg 12 = true ∧ s.deriveKey s.clearName = some k ∧ bytesOf s.wel.token ≠ hmacSha256 k (bytesOf s.wel.chal)) ∧
    (∃ (s : State) (r : WellRec), s.wel.busy = some WellCmd.read ∧ s.wellNext = some r) ∧
    (∃ (s : State), s.wel.busy = some WellCmd.read ∧ s.wellNext = none) ∧
    (∃ (s : State), s.wel.busy = some WellCmd.challenge) := by
  refine ⟨?_, ?_, ?_, ?_⟩
  · refine ⟨tokened wrongToken, .pcie, clearKey, ?_, ?_, ?_, ?_, ?_, ?_, ?_⟩ <;>
      first | exact wrong_token | exact tokened_key _ | decide +kernel | exact ⟨by decide +kernel, by decide +kernel⟩
  · refine ⟨{ up with wel := { busy := some .read, ram := [{}], frozenSeq := 1 } }, {}, ?_, ?_⟩ <;>
      first | decide +kernel | rfl
  · refine ⟨{ up with wel := { busy := some .read } }, ?_, ?_⟩ <;>
      first | decide +kernel | rfl
  · refine ⟨{ up with wel := { busy := some .challenge } }, ?_⟩ <;>
      first | decide +kernel | rfl

/-- The premises of SevereRecordsSurvive, clause by clause, have an instance. -/
theorem test_premises_severeRecordsSurvive :
    ∃ (b : W32) (l : List WellRec) (l' : List WellRec) (r : WellRec) (q : WellRec), vaultPut b l r = some l' ∧ q ∈ l ∧ r.isClear = false ∧ q.seq ≠ r.seq ∧ (∀ x ∈ l, x.seq = q.seq → x = q) ∧ (q.raised.rep.sev = 4 ∨ r.raised.rep.sev.toNat < q.raised.rep.sev.toNat) := by
  refine ⟨0, [{ raised := { rep := { sev := 3 } } }], (vaultPut 0 [{ raised := { rep := { sev := 3 } } }] { seq := 1 }).getD [], { seq := 1 }, { raised := { rep := { sev := 3 } } }, ?_, ?_, ?_, ?_, ?_, ?_⟩ <;>
    first | decide +kernel | rfl

/-- The premises of TallyCommandsTakeEffect, clause by clause, have an instance. -/
theorem test_premises_tallyCommandsTakeEffect :
    (∃ (s : State), s.clocked = true ∧ s.tal.freeze = true) ∧
    (∃ (s : State), s.clocked = true ∧ s.tal.freeze = false) ∧
    (∃ (s : State) (p : Port), s.reaches p 5) ∧
    (∃ (s : State), s.portUp Port.pcie = true ∧ s.tal.userEn = true ∧ s.feature 11 = true ∧ s.tal.userSnap = true) ∧
    (∃ (s : State), s.portUp Port.pcie = true ∧ s.tal.userSnap = false) := by
  refine ⟨⟨{ up with tal := { freeze := true } }, ?_, ?_⟩,
    ⟨up, ?_, ?_⟩,
    ⟨up, .pcie, ?_⟩,
    ⟨{ up with tal := { userEn := true, userSnap := true } }, ?_, ?_, ?_, ?_⟩,
    ⟨up, ?_, ?_⟩⟩ <;>
    first | decide +kernel | rfl | exact ⟨by decide +kernel, by decide +kernel⟩

/-- The premises of StepRunsTheFrontCommand, clause by clause, have an instance. -/
theorem test_premises_stepRunsTheFrontCommand :
    ∃ (s : State) (c : Instr) (rest : List Instr), s.pending = c :: rest := by
  refine ⟨{ up with pending := [.thermalTrip, .powerUp] }, .thermalTrip, [.powerUp], ?_⟩ <;>
    first | decide +kernel | rfl

/-- The premises of EmptyQueueTicks, clause by clause, have an instance. -/
theorem test_premises_emptyQueueTicks :
    ∃ (s : State), s.pending = [] := by
  refine ⟨up, ?_⟩ <;>
    first | decide +kernel | rfl

/-- The premises of MonotonicCountersNeverDecrease, clause by clause, have an instance. -/
theorem test_premises_monotonicCountersNeverDecrease :
    ∃ (s : State) (t : State), (∀ (c : BitVec 4), s.key.busy = some (KeyOp.monoIncr c) → vget 0 s.vault.mono (c.toNat - 4) ≠ BitVec.allOnes 32) ∧ step s = Host.Outcome.next t := by
  refine ⟨raising, State.idle raising, ?_, ?_⟩ <;>
    first | decide +kernel | rfl

/-- The premises of AcceptedIncrementsStayPossible, clause by clause, have an instance. -/
theorem test_premises_acceptedIncrementsStayPossible :
    ∃ (s : State) (t : State) (c : BitVec 4), (∀ (c : BitVec 4), s.key.busy = some (KeyOp.monoIncr c) → vget 0 s.vault.mono (c.toNat - 4) ≠ BitVec.allOnes 32) ∧ step s = Host.Outcome.next t ∧ t.key.busy = some (KeyOp.monoIncr c) := by
  refine ⟨raising, State.idle raising, 7, ?_, ?_, ?_⟩ <;>
    first | decide +kernel | rfl

/-- The premises of LaneCommandsLeaveOtherLanes, clause by clause, have an instance. -/
theorem test_premises_laneCommandsLeaveOtherLanes :
    ∃ (s : State) (t : State) (c : Instr) (n : LaneId) (m : LaneId), m ≠ n ∧ ((∃ (x : Vector (BitVec 6) 16) (prev : Vector Bool 6), c = Instr.eqUpdate n x prev) ∨ c = Instr.eqLimit n ∨ (∃ (p : Port) (on : Bool), c = Instr.eqFreeze p n on) ∨ (∃ (p : Port) (w : W32), c = Instr.tapWrite p n w) ∨ c = Instr.adaptFastDone n ∨ (∃ (k : ℕ), c = Instr.noiseReport n k) ∨ (∃ (k : List Bool), c = Instr.checkerLock n k) ∨ (∃ (k : List Bool), c = Instr.checkerLockLoss n k) ∨ (∃ (p : Port) (k : List Bool), c = Instr.prbsErrRead p n k) ∨ (∃ (p : Port), c = Instr.injSingle p n) ∨ (∃ (p : Port), c = Instr.injBurst p n) ∨ (∃ (k : ℕ), c = Instr.fecCodeword n k) ∨ c = Instr.fecWindowEnd n ∨ (∃ (p : Port) (w : W32), c = Instr.fecThWrite p n w) ∨ ∃ (p : Port), c = Instr.dsCntClr p n) ∧ exec c s = Host.Outcome.next t := by
  refine ⟨lanes 1 { com := { rxState := .adaptFast } }, (lanes 1 { com := { rxState := .adaptFast } }).modCom 0 fun c => { c with rxState := .track, priming := false }, .adaptFastDone 0, 0, 95, ?_, ?_, ?_⟩ <;>
    first | decide +kernel | rfl | exact .inr (.inr (.inr (.inr (.inl rfl))))

/-- The premises of MalformedFramesArePuntedOrDropped, clause by clause, have an instance. -/
theorem test_premises_malformedFramesArePuntedOrDropped :
    (∃ (s : State) (q : QuadId) (f : Frame) (rest : List Frame), (s.quad q).parseQ = f :: rest ∧ parseFrame ((s.quad q).prsCfg (s.feature 13)) f.bytes = none ∧ bit (s.quad q).prsCtl 0 = true) ∧
    (∃ (s : State) (q : QuadId) (f : Frame) (rest : List Frame), (s.quad q).parseQ = f :: rest ∧ parseFrame ((s.quad q).prsCfg (s.feature 13)) f.bytes = none ∧ bit (s.quad q).prsCtl 0 = false) := by
  refine ⟨⟨quads 1 { parseQ := [{}], prsCtl := 0x12B50005#32 }, 1, {}, [], ?_, ?_, ?_⟩,
    ⟨quads 1 { parseQ := [{}] }, 1, {}, [], ?_, ?_, ?_⟩⟩ <;>
    first | decide +kernel | rfl

/-- The premises of TheLowestMatchingRuleActs, clause by clause, have an instance. -/
theorem test_premises_theLowestMatchingRuleActs :
    (∃ (x : Quad) (b : Bool), Tab.sorted (x.bankOf b) = true) ∧
    (∃ (s : State) (q : QuadId) (f : Frame) (rest : List Frame) (h : Hdr) (i : Nat) (a : Act), (s.quad q).parseQ = f :: rest ∧ parseFrame ((s.quad q).prsCfg (s.feature 13)) f.bytes = some h ∧ h.frag = none ∧ (((s.modQuad q fun (x : Quad) => { x with deepCnt := if h.deep = true then satAdd x.deepCnt 1 else x.deepCnt, parseQ := rest }).quad q).lookup ({ f with bank := (s.quad q).active, epoch := (s.quad q).epoch, hdr := h }).bank ((s.modQuad q fun (x : Quad) => { x with deepCnt := if h.deep = true then satAdd x.deepCnt 1 else x.deepCnt, parseQ := rest }).classKey (q.val) (keyFields ({ f with bank := (s.quad q).active, epoch := (s.quad q).epoch, hdr := h }).lane ({ f with bank := (s.quad q).active, epoch := (s.quad q).epoch, hdr := h }).down false 0 ({ f with bank := (s.quad q).active, epoch := (s.quad q).epoch, hdr := h }).xgemPort h))) = some (i, a) ∧ a.rally = false) ∧
    (∃ (s : State) (q : QuadId) (f : Frame) (rest : List Frame) (h : Hdr) (i : Nat) (a : Act), (s.quad q).parseQ = f :: rest ∧ parseFrame ((s.quad q).prsCfg (s.feature 13)) f.bytes = some h ∧ h.frag = none ∧ (((s.modQuad q fun (x : Quad) => { x with deepCnt := if h.deep = true then satAdd x.deepCnt 1 else x.deepCnt, parseQ := rest }).quad q).lookup ({ f with bank := (s.quad q).active, epoch := (s.quad q).epoch, hdr := h }).bank ((s.modQuad q fun (x : Quad) => { x with deepCnt := if h.deep = true then satAdd x.deepCnt 1 else x.deepCnt, parseQ := rest }).classKey (q.val) (keyFields ({ f with bank := (s.quad q).active, epoch := (s.quad q).epoch, hdr := h }).lane ({ f with bank := (s.quad q).active, epoch := (s.quad q).epoch, hdr := h }).down false 0 ({ f with bank := (s.quad q).active, epoch := (s.quad q).epoch, hdr := h }).xgemPort h))) = some (i, a) ∧ a.rally = true ∧ a.cipherOp = 1 ∧ s.feature 4 = true) ∧
    (∃ (s : State) (q : QuadId) (f : Frame) (rest : List Frame) (h : Hdr), (s.quad q).parseQ = f :: rest ∧ parseFrame ((s.quad q).prsCfg (s.feature 13)) f.bytes = some h ∧ h.frag = none ∧ (((s.modQuad q fun (x : Quad) => { x with deepCnt := if h.deep = true then satAdd x.deepCnt 1 else x.deepCnt, parseQ := rest }).quad q).lookup ({ f with bank := (s.quad q).active, epoch := (s.quad q).epoch, hdr := h }).bank ((s.modQuad q fun (x : Quad) => { x with deepCnt := if h.deep = true then satAdd x.deepCnt 1 else x.deepCnt, parseQ := rest }).classKey (q.val) (keyFields ({ f with bank := (s.quad q).active, epoch := (s.quad q).epoch, hdr := h }).lane ({ f with bank := (s.quad q).active, epoch := (s.quad q).epoch, hdr := h }).down false 0 ({ f with bank := (s.quad q).active, epoch := (s.quad q).epoch, hdr := h }).xgemPort h))) = none ∧ bit (s.quad q).clsCtl 1 = false) ∧
    (∃ (s : State) (q : QuadId) (f : Frame) (rest : List Frame) (h : Hdr), (s.quad q).parseQ = f :: rest ∧ parseFrame ((s.quad q).prsCfg (s.feature 13)) f.bytes = some h ∧ h.frag = none ∧ (((s.modQuad q fun (x : Quad) => { x with deepCnt := if h.deep = true then satAdd x.deepCnt 1 else x.deepCnt, parseQ := rest }).quad q).lookup ({ f with bank := (s.quad q).active, epoch := (s.quad q).epoch, hdr := h }).bank ((s.modQuad q fun (x : Quad) => { x with deepCnt := if h.deep = true then satAdd x.deepCnt 1 else x.deepCnt, parseQ := rest }).classKey (q.val) (keyFields ({ f with bank := (s.quad q).active, epoch := (s.quad q).epoch, hdr := h }).lane ({ f with bank := (s.quad q).active, epoch := (s.quad q).epoch, hdr := h }).down false 0 ({ f with bank := (s.quad q).active, epoch := (s.quad q).epoch, hdr := h }).xgemPort h))) = none ∧ bit (s.quad q).clsCtl 1 = true) := by
  refine ⟨?_, ?_, ?_, ?_, ?_⟩
  · refine ⟨{ bank0 := [(5, anyRule 1 0), (9, anyRule 1 0)] }, false, ?_⟩ <;>
      first | decide +kernel | rfl
  · refine ⟨quads 1 { parseQ := [{ bytes := zeros 64 }], bank0 := [(5, anyRule 1 0)] }, 1, { bytes := zeros 64 }, [], (parseFrame ((up.quad 0).prsCfg true) (zeros 64)).getD {}, 5, (anyRule 1 0).act 5, ?_, ?_, ?_, ?_, ?_⟩ <;>
      first | decide +kernel | rfl | exact matches_anyKey _ _ rfl (by decide +kernel) (by decide +kernel) _
  · refine ⟨quads 1 { parseQ := [{ bytes := zeros 64 }], bank0 := [(5, anyRule 9 0x20000000)] }, 1, { bytes := zeros 64 }, [], (parseFrame ((up.quad 0).prsCfg true) (zeros 64)).getD {}, 5, (anyRule 9 0x20000000).act 5, ?_, ?_, ?_, ?_, ?_, ?_, ?_⟩ <;>
      first | decide +kernel | rfl | exact matches_anyKey _ _ rfl (by decide +kernel) (by decide +kernel) _
  · refine ⟨quads 1 { parseQ := [{ bytes := zeros 64 }] }, 1, { bytes := zeros 64 }, [], (parseFrame ((up.quad 0).prsCfg true) (zeros 64)).getD {}, ?_, ?_, ?_, ?_, ?_⟩ <;>
      first | decide +kernel | rfl
  · refine ⟨quads 1 { parseQ := [{ bytes := zeros 64 }], clsCtl := 2 }, 1, { bytes := zeros 64 }, [], (parseFrame ((up.quad 0).prsCfg true) (zeros 64)).getD {}, ?_, ?_, ?_, ?_, ?_⟩ <;>
      first | decide +kernel | rfl

/-- The premises of TimNowReadsOneMoment, clause by clause, have an instance. -/
theorem test_premises_timNowReadsOneMoment :
    ∃ (s : State) (p : Port), s.reaches p 6 ∧ Tab.wf (0#32) s.latchPcie = true ∧ Tab.wf (0#32) s.latchTw = true := by
  refine ⟨up, .twoWire, ?_, ?_, ?_⟩ <;>
    first | decide +kernel | rfl | exact ⟨by decide +kernel, by decide +kernel⟩

/-- The premises of LatchesStayCanonical, clause by clause, have an instance. -/
theorem test_premises_latchesStayCanonical :
    ∃ (s : State) (t : State), Tab.wf (0#32) s.latchPcie = true ∧ Tab.wf (0#32) s.latchTw = true ∧ step s = Host.Outcome.next t := by
  refine ⟨{ up with latchPcie := [(4, 1)] }, State.idle { up with latchPcie := [(4, 1)] }, ?_, ?_, ?_⟩ <;>
    first | decide +kernel | rfl

/-! ### Ill-formed commands are refused, one for each check -/

theorem test_wf_loadDone (l : List Byte) (h : l.length = 4194305) : (Instr.loadDone true l).wf = false := by
  simp [Instr.wf, h]
theorem test_wf_registerWrite : (Instr.registerWrite .pcie (.bar0 6) 0).wf = false ∧ (Instr.registerWrite .pcie (.bar2 1) 0).wf = false ∧
    (Instr.registerWrite .twoWire (.bar4 3) 0).wf = false := by decide +kernel
theorem test_wf_gatedAccess : (Instr.gatedAccess .pcie 2 false).wf = false := by decide +kernel
theorem test_wf_framePositions : (Instr.psyncCandidate 0 1244160).wf = false ∧ (Instr.sdhCandidate 0 1244160 0).wf = false ∧
    (Instr.sdhCheckPoint 0 1244160 0).wf = false ∧ (Instr.candidateCheckPoint 0 1244160 0 .bad .bad .bad).wf = false := by decide +kernel
theorem test_wf_bitErrors : (Instr.candidateCheckPoint 0 0 65 .bad .bad .bad).wf = false ∧ (Instr.dsFrame 0 65 .bad .bad .bad).wf = false := by
  decide +kernel
theorem test_wf_fecCodeword : (Instr.fecCodeword 0 249).wf = false := by decide +kernel
theorem test_wf_allocStructure : (Instr.allocStructure 0 2048 .bad).wf = false := by decide +kernel
theorem test_wf_xgemFrameRx : (Instr.xgemFrameRx 0 (.valid ⟨5, 0, 0, 0, true⟩) false (zeros 5)).wf = false := by decide +kernel
theorem test_wf_cisternQueues : (Instr.cisternToTroughMove 0 4096).wf = false ∧ (Instr.lateCisternFrame 0 4096).wf = false := by decide +kernel
theorem test_wf_sdhFrame (l : List Byte) (h : l.length = 155521) : (Instr.sdhFrame 0 l).wf = false := by simp [Instr.wf, h]
theorem test_wf_slots (u : Upset) (h : u.slot = 524288) : (Instr.forwardLookup 0 [u]).wf = false ∧ (Instr.agePass false [] [u]).wf = false ∧
    (Instr.agePass true [524288] []).wf = false ∧ (Instr.tblCmdDone [] [u]).wf = false ∧ (Instr.tblCmdDone [524288] []).wf = false := by
  simp [Instr.wf, h]
theorem test_wf_vcatMemberFrame (f : VcatFrame) (h : f.payload = []) : (Instr.vcatMemberFrame 0 0 f).wf = false := by simp [Instr.wf, h]
theorem test_wf_stwCmdDone (l : List Byte) (h : l.length = 262337) : (Instr.stwCmdDone 0 l true).wf = false := by simp [Instr.wf, h]
theorem test_wf_linkChange : (Instr.linkChange 5 1).wf = false ∧ (Instr.linkChange 1 3).wf = false := by decide +kernel
theorem test_wf_inject : (Instr.inject [⟨64, 3, 14, 0, 0, 0, []⟩]).wf = false := by decide +kernel
theorem test_wf_eventReport : (Instr.eventReport 0 5 []).wf = false ∧ (Instr.eventReport 0 1 (zeros 65)).wf = false := by decide +kernel
theorem test_wf_tallyOccurrence : (Instr.tallyOccurrence 0x81 none none 1).wf = false := by decide +kernel
theorem test_wf_lookasideComplete : (Instr.lookasideComplete [] [] (zeros 15)).wf = false := by decide +kernel

/-! ### Worked examples of the spec -/

/-- What a command leaves. -/
def after (s : State) (c : Instr) : State := match exec c s with
  | .next t => t
  | _ => s

/-- LN_TS_ASYM_77 is at 0x00DA600C (the example of R559), and register 0x01A4 of bank 3 of lane 65 at island offset 0x6690 (R15). -/
theorem test_addresses : laneBase 77 + 0x2000 * 3 + 4 * 3 = 0x00DA600C ∧ laneBase 65 + 0x2000 * 3 + 4 * 0x01A4 = base 0x61 + 0x6690 := by
  decide +kernel
/-- A parked lane with a noise of 0.75 code: field A is 0x00C0, and −32.6 dBFS is −522 sixteenths (the example of R73). -/
theorem test_noise : noiseFields (192 * 192 * 16) false = 0xFDF600C0#32 := by decide +kernel
/-- 112 MiB hold 11 frames of 48 members in degraded mode (the example of R218). -/
theorem test_framesFit : Group.framesFit { w3 := 112, members := (BitVec.allOnes 48).setWidth 96 } false = 11 := by decide +kernel
/-- The steward's request of lane 7 for channels 3 and 3 with SEQ 5 reads 0x05003327 (the example of R152). -/
theorem test_tuneRequest :
    ({ up with stw := Vector.replicate 4 { tuneReqs := [⟨7, 3, 3, false, 5⟩] } }.stwRead 0 0x38).1 = 0x05003327#32 := by decide +kernel
/-- A job of 95 blocks at density 2 takes 0.762 µs, 4 half-cycles and 95 blocks of 16 (the example after R382). -/
theorem test_jobCost : jobCost true 2 95 = 2 * 762 := by decide +kernel
/-- The worked example of a burst: BufOcc counts 779 words, one frame is set offside, and counter 14 counts it (R186 to R190). -/
theorem test_burst :
    let p := ((after worked (.burstAssemble 7)).lane 7).pump
    (p.bursts.map fun x => x.filled.map fun y => y.bufOcc.map (·.toNat)) = [[some 779]] ∧ (after worked (.burstAssemble 7)).offside 7 = true ∧ vget 0 p.cnt 14 = 1 := by
  decide +kernel
/-- Writing 0x0010F7FF to SYS_FEAT_ACCEPT[0] leaves 0x0000F7FF and sets REJECT (the example of R494). -/
theorem test_features :
    let u := (after { up with sys := {} } (.featAcceptWrite .pcie 0 0x0010F7FF)).sys
    fld u.accept 0 32 = 0x0000F7FF#32 ∧ u.reject = true := by decide +kernel
/-- 1,538 bytes at 1,000 kbit/s end after 12,304,000 ns, which is beyond the wheel, so the shaper is parked (the example of R349). -/
theorem test_calendar :
    let x := Shaper.charge { w := #v[0x1403#32, 0, 0, 1000, 0] } 0 1518
    x.nextNum = 12304000 * 10 * 1000 ∧ x.parked = true ∧ x.eligible = false := by decide +kernel

end Sys2Proof.Tests
end

/-!
Parsing and classification (R280, R284): the ends of a malformed frame, and the rule that gives a frame's action.
-/
section
namespace Sys2Proof.Machine

/-! ### Entries of a sparse table -/

section
variable {α : Type} {d x : α} {t : Tab α} {i k : Nat}

theorem Tab.get_cons_self : Tab.get d ((k, x) :: t) k = x := by simp [Tab.get, Tab.find]

theorem Tab.get_below (h : ∀ e ∈ t, k < e.1) : Tab.get d t k = d := by simp [Tab.get, Tab.find_below h]

theorem Tab.get_cons_ne (hs : Tab.sorted ((k, x) :: t) = true) (hi : i ≠ k) : Tab.get d ((k, x) :: t) i = Tab.get d t i := by
  by_cases hlt : i < k
  · have hbelow : ∀ e ∈ (k, x) :: t, i < e.1 := by
      intro e he
      rcases List.mem_cons.mp he with rfl | he
      · exact hlt
      · exact Nat.lt_trans hlt ((Tab.sorted_cons.mp hs).1 e he)
    rw [Tab.get_below hbelow, Tab.get_below fun e he => hbelow e (List.mem_cons_of_mem _ he)]
  · simp [Tab.get, Tab.find, Ne.symm hi, hlt]

/-- The search in a table's order ends at the lowest key whose entry has a property that the default has not. -/
theorem Tab.find?_eq_some_iff_lowest {p : α → Bool} {y : α} (hd : p d = false) (hs : Tab.sorted t = true) :
    t.find? (fun e => p e.2) = some (i, y) ↔
      p (Tab.get d t i) = true ∧ y = Tab.get d t i ∧ ∀ j, j < i → p (Tab.get d t j) = false := by
  induction t with
  | nil => simp [Tab.get, Tab.find, hd]
  | cons e t ih =>
    obtain ⟨k, x⟩ := e
    obtain ⟨hlow, hst⟩ := Tab.sorted_cons.mp hs
    cases hx : p x with
    | true =>
      have hbelow (j : Nat) (hj : j < k) : p (Tab.get d ((k, x) :: t) j) = false := by
        rw [Tab.get_cons_ne hs hj.ne, Tab.get_below fun e he => Nat.lt_trans hj (hlow e he), hd]
      rw [List.find?_cons_of_pos (by exact hx)]
      constructor
      · rintro ⟨rfl, rfl⟩
        exact ⟨by rwa [Tab.get_cons_self], Tab.get_cons_self.symm, hbelow⟩
      · rintro ⟨hi, rfl, hfirst⟩
        have hik : i = k := by
          rcases Nat.lt_trichotomy i k with hlt | heq | hgt
          · simp [hbelow i hlt] at hi
          · exact heq
          · simpa [Tab.get_cons_self, hx] using hfirst k hgt
        rw [hik, Tab.get_cons_self]
    | false =>
      have hsame (j : Nat) : p (Tab.get d ((k, x) :: t) j) = p (Tab.get d t j) := by
        by_cases hj : j = k
        · rw [hj, Tab.get_cons_self, Tab.get_below hlow, hx, hd]
        · rw [Tab.get_cons_ne hs hj]
      rw [List.find?_cons_of_neg (by simp [hx]), ih hst]
      simp only [hsame]
      refine and_congr_right fun hi => ?_
      have hik : i ≠ k := by
        rintro rfl
        simp [Tab.get_below hlow, hd] at hi
      rw [Tab.get_cons_ne hs hik]

end

/-! ### Rules (R284) -/

theorem Rule.hit_iff (r : Rule) (key : BitVec 640) : r.hit key = true ↔
    bit (vget 0 r.w 40) 0 = true ∧
    ∀ i : Fin 20, fld key (32 * i.val) 32 &&& vget 0 r.w (20 + i.val) = vget 0 r.w i.val &&& vget 0 r.w (20 + i.val) := by
  simp only [Rule.hit, Bool.and_eq_true, List.all_eq_true, List.mem_range, beq_iff_eq, Fin.forall_iff]

/-- An unlisted rule has VALID 0, so it matches no key. -/
theorem Rule.hit_default (key : BitVec 640) : ({} : Rule).hit key = false := by
  simp [Rule.hit, vget, bit]

theorem Quad.lookup_eq_some_iff {x : Quad} {b : Bool} {key : BitVec 640} {i : Nat} {a : Act} (hs : Tab.sorted (x.bankOf b) = true) :
    x.lookup b key = some (i, a) ↔
      (Tab.get {} (x.bankOf b) i).hit key = true ∧ a = (Tab.get {} (x.bankOf b) i).act i ∧
      ∀ j, j < i → (Tab.get {} (x.bankOf b) j).hit key = false := by
  have hlow (r : Rule) := Tab.find?_eq_some_iff_lowest (p := fun r => r.hit key) (y := r) (i := i) (Rule.hit_default key) hs
  constructor
  · intro h
    obtain ⟨⟨j, r⟩, hfind, heq⟩ := Option.map_eq_some_iff.mp h
    obtain ⟨rfl, rfl⟩ : j = i ∧ r.act j = a := Prod.mk.inj heq
    obtain ⟨hhit, rfl, hfirst⟩ := (hlow r).mp hfind
    exact ⟨hhit, rfl, hfirst⟩
  · rintro ⟨hhit, rfl, hfirst⟩
    exact Option.map_eq_some_iff.mpr ⟨(i, _), (hlow _).mpr ⟨hhit, rfl, hfirst⟩, rfl⟩

/-! ### The first pass of a frame -/

section
variable {s : State} {q : QuadId} {f : Frame} {rest : List Frame} {h : Hdr} {i : Nat} {a : Act} {rally : Bool}

theorem State.modQuad_modQuad (s : State) (q : QuadId) (f g : Quad → Quad) :
    (s.modQuad q f).modQuad q g = s.modQuad q fun x => g (f x) := by
  simp [State.modQuad]

/-- CLASSIFY takes the oldest frame of the parse queue through its first pass in the active bank (R284, R288). -/
theorem exec_classify_cons (hq : (s.quad q).parseQ = f :: rest) :
    exec (.classify q) s = .next (State.floatsAll ((s.modQuad q fun x => { x with parseQ := rest }).pass q.val
      { f with bank := (s.quad q).active, epoch := (s.quad q).epoch, first := none, act := none } false)) := by
  change execClassify q s = _
  simp only [execClassify, hq]

/-- R280: a malformed frame is punted with reason 2 or goes to the sump with cause 4. -/
theorem State.pass_malformed (hp : parseFrame ((s.quad q).prsCfg (s.feature 13)) f.bytes = none) :
    s.pass q.val f rally = if bit (s.quad q).prsCtl 0 then s.punt q.val 2 2 none f else s.dropFrame q.val 4 f := by
  simp only [State.pass, State.vget_quads, hp]

/-- A frame that is no fragment is classified with its headers, and a deep one is counted (R277, R295). -/
theorem State.pass_unfragmented (hp : parseFrame ((s.quad q).prsCfg (s.feature 13)) f.bytes = some h) (hf : h.frag = none) :
    s.pass q.val f rally =
      (s.modQuad q fun x => { x with deepCnt := if h.deep then satAdd x.deepCnt 1 else x.deepCnt }).classify q.val
        { f with hdr := h } rally := by
  have hdeep (x : Quad) : (if h.deep then { x with deepCnt := satAdd x.deepCnt 1 } else x) =
      { x with deepCnt := if h.deep then satAdd x.deepCnt 1 else x.deepCnt } := by split <;> rfl
  simp only [State.pass, State.vget_quads, hp, State.modQuadN_val, hdeep, State.afterParse, hf]

/-- CLASSIFY on a frame that is no fragment: popped, counted where it is deep, and classified. -/
theorem exec_classify_unfragmented (hq : (s.quad q).parseQ = f :: rest)
    (hp : parseFrame ((s.quad q).prsCfg (s.feature 13)) f.bytes = some h) (hf : h.frag = none) :
    exec (.classify q) s = .next (State.floatsAll
      ((s.modQuad q fun x => { x with parseQ := rest, deepCnt := if h.deep then satAdd x.deepCnt 1 else x.deepCnt }).classify q.val
        { f with bank := (s.quad q).active, epoch := (s.quad q).epoch, first := none, act := none, hdr := h } false)) := by
  have hp' : parseFrame (((s.modQuad q fun x => { x with parseQ := rest }).quad q).prsCfg (s.feature 13)) f.bytes = some h := by
    rw [State.quad_modQuad_same]; exact hp
  rw [exec_classify_cons hq, State.pass_unfragmented (by exact hp') (by exact hf), State.modQuad_modQuad]

/-- The lookup of a frame's first pass: its key has no metadata word. -/
def State.firstLookup (s : State) (q : QuadId) (f : Frame) : Option (Nat × Act) :=
  (s.quad q).lookup f.bank (s.classKey q.val (keyFields f.lane f.down false 0 f.xgemPort f.hdr))

theorem State.classify_miss (hfirst : f.first = none) (hl : s.firstLookup q f = none) :
    s.classify q.val f false = s.missed q.val f := by
  rw [State.firstLookup] at hl
  simp only [State.classify, hfirst, State.vget_quads, hl]

theorem State.classify_hit (hfirst : f.first = none) (hl : s.firstLookup q f = some (i, a)) (hr : a.rally = false) :
    s.classify q.val f false = (s.modQuad q fun x => x.countHit f.bank i).actOn q.val f a := by
  rw [State.firstLookup] at hl
  simp only [State.classify, hfirst, State.vget_quads, hl, hr, State.modQuadN_val, Bool.false_eq_true, false_and, if_false]

theorem State.classify_hit_decrypt (hfirst : f.first = none) (hl : s.firstLookup q f = some (i, a)) (hr : a.rally = true)
    (hop : a.cipherOp = 1) (hmacsec : s.feature 4 = true) :
    s.classify q.val f false = (s.modQuad q fun x => x.countHit f.bank i).toCipher q.val { f with first := some a, act := none } := by
  have hmacsec' : (s.modQuad q fun x => x.countHit f.bank i).feature 4 = true := hmacsec
  rw [State.firstLookup] at hl
  simp only [State.classify, hfirst, State.vget_quads, hl, hr, hop, hmacsec', State.modQuadN_val, Bool.false_eq_true, and_self, if_false,
    if_true]

/-- A frame that is no fragment leaves no decision for later fragments. -/
theorem State.fragRecord_unfragmented {dec : Decision} (hf : f.hdr.frag = none) : s.fragRecord f dec = s := by
  simp only [State.fragRecord, hf]

/-- MISS_VERDICT 0 sends the frame to the sump with cause 5, and 1 punts it with reason 1 (R284). -/
theorem State.missed_unfragmented (hf : f.hdr.frag = none) :
    s.missed q.val f =
      if bit (s.quad q).clsCtl 1 then s.punt q.val 2 1 none { f with ptp := s.ptpAuto q.val f }
      else s.dropFrame q.val 5 { f with ptp := s.ptpAuto q.val f } := by
  simp only [State.missed, State.vget_quads]
  rw [State.fragRecord_unfragmented (by exact hf)]

end

/-! ### The obligations -/

/-- Settles O57: the pass of a frame that does not parse has only the two ends of R280. -/
theorem malformedFramesArePuntedOrDropped : Obligations.MalformedFramesArePuntedOrDropped := by
  intro s q f rest hq hp u g
  have hp' : parseFrame ((u.quad q).prsCfg (u.feature 13)) g.bytes = none := by
    rw [State.quad_modQuad_same]; exact hp
  have hctl : (u.quad q).prsCtl = (s.quad q).prsCtl := by rw [State.quad_modQuad_same]
  rw [exec_classify_cons hq, State.pass_malformed hp', hctl]
  constructor
  · intro hpunt
    rw [if_pos hpunt]
  · intro hdrop
    rw [if_neg (by simp [hdrop])]

/-- Settles O58: a search in a sorted bank ends at the lowest matching index, and the first pass acts on what it finds. -/
theorem theLowestMatchingRuleActs : Obligations.TheLowestMatchingRuleActs := by
  refine ⟨Rule.hit_iff, fun x b key i a hs => Quad.lookup_eq_some_iff hs, ?_⟩
  intro s q f rest h hq hp hf u g hit
  have hexec : exec (.classify q) s = .next (State.floatsAll (u.classify q.val g false)) := exec_classify_unfragmented hq hp hf
  have hfirst : g.first = none := rfl
  have hctl : (u.quad q).clsCtl = (s.quad q).clsCtl := by rw [State.quad_modQuad_same]
  have hmiss (hnone : hit = none) :
      u.classify q.val g false = if bit (s.quad q).clsCtl 1 then u.punt q.val 2 1 none { g with ptp := u.ptpAuto q.val g }
        else u.dropFrame q.val 5 { g with ptp := u.ptpAuto q.val g } := by
    rw [State.classify_miss hfirst hnone, State.missed_unfragmented hf, hctl]
  refine ⟨?acts, ?decrypts, ?dropped, ?punted⟩
  case acts =>
    intro i a hsome hr
    rw [hexec, State.classify_hit hfirst hsome hr]
  case decrypts =>
    intro i a hsome hr hop hmacsec
    rw [hexec, State.classify_hit_decrypt hfirst hsome hr hop hmacsec]
  case dropped =>
    intro hnone hverdict
    rw [hexec, hmiss hnone, if_neg (by simp [hverdict])]
  case punted =>
    intro hnone hverdict
    rw [hexec, hmiss hnone, if_pos hverdict]

end Sys2Proof.Machine
end

/-!
One moment of the count (R427, R562): a port's latch reads back as it was set, and a read of TIM_NOW_LO sets the latches of the words
that TIM_NOW_HI and TIM_NOW_FRAC answer with.
-/
section
namespace Sys2Proof.Machine

/-! ### The latches of low-word reads -/

section
variable {s u : State} {p : Port} {a b : Nat} {w : W32}

theorem State.latches_latch_same (s : State) (p : Port) (a : Nat) (w : W32) :
    (s.latch p a w).latches p = Tab.put 0#32 (s.latches p) a w := by
  cases p <;> rfl

theorem State.wf_latches_latch (h : Tab.wf 0#32 (s.latches p) = true) : Tab.wf 0#32 ((s.latch p a w).latches p) = true := by
  rw [State.latches_latch_same]; exact Tab.wf_put a w h

theorem State.latched_latch_same (h : Tab.wf 0#32 (s.latches p) = true) : (s.latch p a w).latched p a = w := by
  rw [State.latched, State.latches_latch_same]; exact Tab.get_put_same a w (Tab.wf_iff.mp h).1

theorem State.latched_latch_ne (h : Tab.wf 0#32 (s.latches p) = true) (hb : b ≠ a) :
    (s.latch p a w).latched p b = s.latched p b := by
  rw [State.latched, State.latches_latch_same]; exact Tab.get_put_ne w hb (Tab.wf_iff.mp h).1

theorem State.wf_latches (hpcie : Tab.wf 0#32 s.latchPcie = true) (htw : Tab.wf 0#32 s.latchTw = true) (p : Port) :
    Tab.wf 0#32 (s.latches p) = true :=
  match p with
  | .pcie => hpcie
  | .twoWire => htw

/-- What a port's latch holds depends on the two latch tables alone. -/
theorem State.latched_congr (hpcie : u.latchPcie = s.latchPcie) (htw : u.latchTw = s.latchTw) (p : Port) (a : Nat) :
    u.latched p a = s.latched p a := by
  cases p
  case pcie => simp only [State.latched, State.latches, hpcie]
  case twoWire => simp only [State.latched, State.latches, htw]

@[simp] theorem State.latch_tim (s : State) (p : Port) (a : Nat) (w : W32) : (s.latch p a w).tim = s.tim := by cases p <;> rfl

@[simp] theorem State.latch_out (s : State) (p : Port) (a : Nat) (w : W32) : (s.latch p a w).out = s.out := by cases p <;> rfl

end

/-! ### TIM_NOW (R427) -/

section
variable {s : State} {p : Port}

theorem State.regRead_timNowHi (s : State) (p : Port) :
    s.regRead p (base 6 + 0x24) = (s.latched p (base 6 + 0x24), s) := rfl

theorem State.regRead_timNowFrac (s : State) (p : Port) :
    s.regRead p (base 6 + 0x28) = (s.latched p (base 6 + 0x28), s) := rfl

theorem exec_timNowRead_reaches (h : s.reaches p 6) :
    exec (.timNowRead p) s = .next ((s.nowRead p).2.emit (.read p (s.nowRead p).1)) :=
  congrArg Host.Outcome.next (State.readIsl_reaches h rfl)

theorem State.nowRead_latched_hi (h : Tab.wf 0#32 (s.latches p) = true) :
    (s.nowRead p).2.latched p (base 6 + 0x24) = fld s.tim.count 64 32 := by
  rw [State.nowRead, State.latched_latch_ne (State.wf_latches_latch h) (by decide), State.latched_latch_same h]

theorem State.nowRead_latched_frac (h : Tab.wf 0#32 (s.latches p) = true) :
    (s.nowRead p).2.latched p (base 6 + 0x28) = fld s.tim.count 0 32 :=
  State.latched_latch_same (State.wf_latches_latch h)

end

/-- Settles O59: the read sets the port's latches of TIM_NOW_HI and TIM_NOW_FRAC, and those registers read nothing but their latches. -/
theorem timNowReadsOneMoment : Obligations.TimNowReadsOneMoment := by
  intro s p hreach hpcie htw
  have hwf : Tab.wf 0#32 (s.latches p) = true := State.wf_latches hpcie htw p
  refine ⟨_, exec_timNowRead_reaches hreach, ?out, ?tim, fun u hp ht => ⟨?hi, ?frac⟩⟩
  case out => simp [State.nowRead, State.emit]
  case tim => simp [State.nowRead]
  case hi => rw [State.regRead_timNowHi, State.latched_congr hp ht]; exact State.nowRead_latched_hi hwf
  case frac => rw [State.regRead_timNowFrac, State.latched_congr hp ht]; exact State.nowRead_latched_frac hwf

end Sys2Proof.Machine
end

/-!
Entries of vectors that are read with a default and written by position.
-/
section
namespace Sys2Proof.Machine

section
variable {α : Type} {n : Nat} {d : α} {v : Vector α n} {i j : Nat} {x : α} {f : α → α}

theorem vget_eq_getElem (h : i < n) : vget d v i = v[i] := by
  simp [vget, h]

theorem vget_of_le (h : n ≤ i) : vget d v i = d := by
  simp [vget, h]

@[simp] theorem vget_fin (i : Fin n) : vget d v i.val = v[i.val] := vget_eq_getElem i.isLt

theorem vset_of_lt (h : i < n) : vset v i x = v.set i x := by simp [vset, h]

theorem vmod_of_lt (h : i < n) : vmod v i f = v.set i (f v[i]) := by simp [vmod, h]

theorem getElem_vset (hj : j < n) : (vset v i x)[j] = if i = j then x else v[j] := by
  unfold vset
  split
  · exact Vector.getElem_set ..
  · rw [if_neg (by omega)]

theorem getElem_vmod (hj : j < n) : (vmod v i f)[j] = if i = j then f v[j] else v[j] := by
  unfold vmod
  split
  · rw [Vector.getElem_set]
    split
    · subst i; rfl
    · rfl
  · rw [if_neg (by omega)]

theorem vget_vset_same (h : i < n) : vget d (vset v i x) i = x := by
  rw [vget_eq_getElem h, getElem_vset h, if_pos rfl]

theorem vget_vset_ne (h : i ≠ j) : vget d (vset v i x) j = vget d v j := by
  by_cases hj : j < n
  · rw [vget_eq_getElem hj, getElem_vset hj, if_neg h, vget_eq_getElem hj]
  · rw [vget_of_le (by omega), vget_of_le (by omega)]

theorem vget_vmod_same (h : i < n) : vget d (vmod v i f) i = f (vget d v i) := by
  rw [vget_eq_getElem h, getElem_vmod h, if_pos rfl, vget_eq_getElem h]

theorem vget_vmod_ne (h : i ≠ j) : vget d (vmod v i f) j = vget d v j := by
  by_cases hj : j < n
  · rw [vget_eq_getElem hj, getElem_vmod hj, if_neg h, vget_eq_getElem hj]
  · rw [vget_of_le (by omega), vget_of_le (by omega)]

end

end Sys2Proof.Machine
end

/-!
Every command completes, and changes nothing outside its row of `touches`.
-/
section
namespace Sys2Proof.Machine

/-- No row of `touches` names the waiting commands or the model time. -/
theorem touches_queue (c : Instr) : Laws.Queue.Statement c := by cases c <;> exact ⟨rfl, rfl⟩

/-- Each command's own frame, for the command as it is dispatched. -/
theorem exec_only (c : Instr) (s : State) : ∃ t, exec c s = .next t ∧ Only (touches c) s t :=
  match c with
  | .powerUp => execPowerUp_only s
  | .railUndervolt => execRailUndervolt_only s
  | .reset straps => execReset_only straps s
  | .bootGo p => execBootGo_only p s
  | .bootApply => execBootApply_only s
  | .keyReady => execKeyReady_only s
  | .load p src => execLoad_only p src s
  | .loadDone ok bytes => execLoadDone_only ok bytes s
  | .verify p => execVerify_only p s
  | .verifyDone => execVerifyDone_only s
  | .apply p mask => execApply_only p mask s
  | .applyDone us => execApplyDone_only us s
  | .applyFail q => execApplyFail_only q s
  | .commit p => execCommit_only p s
  | .commitDone res => execCommitDone_only res s
  | .abandon p => execAbandon_only p s
  | .abandonDone applyOk us => execAbandonDone_only applyOk us s
  | .registerWrite p a w => execRegisterWrite_only p a w s
  | .eqUpdate n x prev => execEqUpdate_only n x prev s
  | .eqLimit n => execEqLimit_only n s
  | .seedLoaded n => execSeedLoaded_only n s
  | .rxRestart p n => execRxRestart_only p n s
  | .eqFreeze p n on => execEqFreeze_only p n on s
  | .tapWrite p n w => execTapWrite_only p n w s
  | .signalDetectSet n rms => execSignalDetectSet_only n rms s
  | .signalDetectClear n rms => execSignalDetectClear_only n rms s
  | .cdrLock n => execCdrLock_only n s
  | .cdrLockLost n => execCdrLockLost_only n s
  | .adaptFastDone n => execAdaptFastDone_only n s
  | .noiseReport n sumSq => execNoiseReport_only n sumSq s
  | .refclkLoss q => execRefclkLoss_only q s
  | .refclkReturn q => execRefclkReturn_only q s
  | .refclkGate q ppm => execRefclkGate_only q ppm s
  | .txinhFall lowPs => execTxinhFall_only lowPs s
  | .txinhRise => execTxinhRise_only s
  | .txSquelch p n on => execTxSquelch_only p n on s
  | .genEn p n on => execGenEn_only p n on s
  | .checkerLock n bits => execCheckerLock_only n bits s
  | .checkerLockLoss n bits => execCheckerLockLoss_only n bits s
  | .prbsErrRead p n bits => execPrbsErrRead_only p n bits s
  | .injSingle p n => execInjSingle_only p n s
  | .injBurst p n => execInjBurst_only p n s
  | .seedDataWrite p w => execSeedDataWrite_only p w s
  | .hbMarkerRx n blk b => execHbMarkerRx_only n blk b s
  | .hbHandshakeRx n blockLock b => execHbHandshakeRx_only n blockLock b s
  | .hbHandshakeTx n => execHbHandshakeTx_only n s
  | .hbCommitDone n => execHbCommitDone_only n s
  | .hbTimeout n zeroN => execHbTimeout_only n zeroN s
  | .hbAlignTimeout n => execHbAlignTimeout_only n s
  | .hbRestart p n => execHbRestart_only p n s
  | .psyncCandidate n pos => execPsyncCandidate_only n pos s
  | .candidateCheckPoint n pos bitErrs sfc ponId hlend => execCandidateCheckPoint_only n pos bitErrs sfc ponId hlend s
  | .dsFrame n bitErrs sfc ponId hlend => execDsFrame_only n bitErrs sfc ponId hlend s
  | .huntRestart p n => execHuntRestart_only p n s
  | .fecCodeword n byteErrs => execFecCodeword_only n byteErrs s
  | .fecWindowEnd n => execFecWindowEnd_only n s
  | .fecThWrite p n w => execFecThWrite_only p n w s
  | .allocStructure n idx a => execAllocStructure_only n idx a s
  | .dsPloam n m => execDsPloam_only n m s
  | .xgemFrameRx n h idle payload => execXgemFrameRx_only n h idle payload s
  | .reassemblyTimeout n port => execReassemblyTimeout_only n port s
  | .portTableWrite p n w => execPortTableWrite_only p n w s
  | .dsCntClr p n => execDsCntClr_only p n s
  | .dsWinAccess p n acc => execDsWinAccess_only p n acc s
  | .burstProfileMsg n => execBurstProfileMsg_only n s
  | .assignOnuId n => execAssignOnuId_only n s
  | .rangingTime n => execRangingTime_only n s
  | .tuningControl n => execTuningControl_only n s
  | .channelProfile n => execChannelProfile_only n s
  | .deactivateOnuId n => execDeactivateOnuId_only n s
  | .disableSerialNumber n => execDisableSerialNumber_only n s
  | .assignAllocId n => execAssignAllocId_only n s
  | .keyControl n => execKeyControl_only n s
  | .ploamUnexpected n => execPloamUnexpected_only n s
  | .keyReportHandoff n => execKeyReportHandoff_only n s
  | .to1Expire n => execTo1Expire_only n s
  | .to2Expire n => execTo2Expire_only n s
  | .to4Expire n => execTo4Expire_only n s
  | .to5Expire n => execTo5Expire_only n s
  | .tuneScheduledCount n => execTuneScheduledCount_only n s
  | .tuneAck p q w => execTuneAck_only p q w s
  | .scanDwell n => execScanDwell_only n s
  | .stwLaneData p q acc => execStwLaneData_only p q acc s
  | .bcastKey p q slice keyIdx => execBcastKey_only p q slice keyIdx s
  | .clearRogue p q slice => execClearRogue_only p q slice s
  | .clearDisable p q slice => execClearDisable_only p q slice s
  | .restartLane p q slice => execRestartLane_only p q slice s
  | .rogueTrip n => execRogueTrip_only n s
  | .loadFw p q => execLoadFw_only p q s
  | .swapFw p q force => execSwapFw_only p q force s
  | .swapFwHalt q => execSwapFwHalt_only q s
  | .swapFwCheck q pass => execSwapFwCheck_only q pass s
  | .commitFw p q => execCommitFw_only p q s
  | .stewardHeartbeatMiss q => execStewardHeartbeatMiss_only q s
  | .optGo p q w => execOptGo_only p q w s
  | .optDone q nack rdata => execOptDone_only q nack rdata s
  | .optTimeout q => execOptTimeout_only q s
  | .grant n ns => execGrant_only n ns s
  | .cisternToTroughMove n queue => execCisternToTroughMove_only n queue s
  | .burstAssemble n => execBurstAssemble_only n s
  | .lateCisternFrame n queue => execLateCisternFrame_only n queue s
  | .burstServe n => execBurstServe_only n s
  | .burstEnd n => execBurstEnd_only n s
  | .usCntClr p n => execUsCntClr_only p n s
  | .usWinAccess p n acc => execUsWinAccess_only p n acc s
  | .bondCapsTimer n => execBondCapsTimer_only n s
  | .bondJoin n => execBondJoin_only n s
  | .bondHello n => execBondHello_only n s
  | .bondLeave n => execBondLeave_only n s
  | .bondIndep n => execBondIndep_only n s
  | .bondMessageDrop n => execBondMessageDrop_only n s
  | .bondHelloTx n => execBondHelloTx_only n s
  | .bondHelloTimeout n => execBondHelloTimeout_only n s
  | .bondProbeTimeout n => execBondProbeTimeout_only n s
  | .bondPsyncStamp n => execBondPsyncStamp_only n s
  | .skewSduWrite n => execSkewSduWrite_only n s
  | .skewSlotRelease g => execSkewSlotRelease_only g s
  | .groupEnable p g w => execGroupEnable_only p g w s
  | .groupDisable p g w => execGroupDisable_only p g w s
  | .grpDataAccess p acc => execGrpDataAccess_only p acc s
  | .skwRestart p w => execSkwRestart_only p w s
  | .spreadRemap p from_ to_ => execSpreadRemap_only p from_ to_ s
  | .spreadFill p dom g => execSpreadFill_only p dom g s
  | .spreadCmdDone => execSpreadCmdDone_only s
  | .sprDataAccess p acc => execSprDataAccess_only p acc s
  | .vcatMemberFrame g pos f => execVcatMemberFrame_only g pos f s
  | .vcatRecover g => execVcatRecover_only g s
  | .anComplete n kr f0 f1 => execAnComplete_only n kr f0 f1 s
  | .linkUpTimer n => execLinkUpTimer_only n s
  | .blockLockLost n hiBer => execBlockLockLost_only n hiBer s
  | .faultOrderedSet n localF remoteF => execFaultOrderedSet_only n localF remoteF s
  | .anRestart p n => execAnRestart_only p n s
  | .ethFrameRx n f => execEthFrameRx_only n f s
  | .pauseTx n => execPauseTx_only n s
  | .pauseRefresh n => execPauseRefresh_only n s
  | .pauseExpire n cls => execPauseExpire_only n cls s
  | .pauseCfgWrite p n w => execPauseCfgWrite_only p n w s
  | .ethFecWindow n corrected uncorrected => execEthFecWindow_only n corrected uncorrected s
  | .ethTxFrame n => execEthTxFrame_only n s
  | .ethCntClr p n => execEthCntClr_only p n s
  | .ethWinAccess p n acc => execEthWinAccess_only p n acc s
  | .sdhCandidate n pos pattern => execSdhCandidate_only n pos pattern s
  | .sdhCheckPoint n pos pattern => execSdhCheckPoint_only n pos pattern s
  | .sdhFrame n bytes => execSdhFrame_only n bytes s
  | .sdhLofTimer n => execSdhLofTimer_only n s
  | .sdhHuntRestart p n => execSdhHuntRestart_only p n s
  | .sdhSdWindow n => execSdhSdWindow_only n s
  | .tribSeal n t => execTribSeal_only n t s
  | .tribBlockRx n => execTribBlockRx_only n s
  | .sdhTxFrame n => execSdhTxFrame_only n s
  | .tribEntryWrite p n w => execTribEntryWrite_only p n w s
  | .pmSecond n point => execPmSecond_only n point s
  | .pmBinClose n day secondNow => execPmBinClose_only n day secondNow s
  | .sdhCntClr p n => execSdhCntClr_only p n s
  | .pmClr p n => execPmClr_only p n s
  | .sdhWinAccess p n acc => execSdhWinAccess_only p n acc s
  | .classify q => execClassify_only q s
  | .rallyPass q => execRallyPass_only q s
  | .clsSwap p q => execClsSwap_only p q s
  | .clsSwapDrained q => execClsSwapDrained_only q s
  | .epochRetire q => execEpochRetire_only q s
  | .clsCopy p q => execClsCopy_only p q s
  | .clsClear p q => execClsClear_only p q s
  | .clsCmdDone q => execClsCmdDone_only q s
  | .ruleWrite p q acc => execRuleWrite_only p q acc s
  | .fragTimeout k => execFragTimeout_only k s
  | .fragFlush p => execFragFlush_only p s
  | .sumpClr p mask => execSumpClr_only p mask s
  | .sumpDataRead p => execSumpDataRead_only p s
  | .prsDeepCntRead p q => execPrsDeepCntRead_only p q s
  | .prsSkipCntRead p q => execPrsSkipCntRead_only p q s
  | .rlyStatusRead p q => execRlyStatusRead_only p q s
  | .frgCntRead p which => execFrgCntRead_only p which s
  | .forwardLookup q upsets => execForwardLookup_only q upsets s
  | .lpmLookup q served => execLpmLookup_only q served s
  | .learnInsert q => execLearnInsert_only q s
  | .agePass flow hits upsets => execAgePass_only flow hits upsets s
  | .search p tbl => execSearch_only p tbl s
  | .next p tbl => execNext_only p tbl s
  | .insert p tbl shadow => execInsert_only p tbl shadow s
  | .delete p tbl shadow byLoc => execDelete_only p tbl shadow byLoc s
  | .flushPort p tbl port static => execFlushPort_only p tbl port static s
  | .ageNow p tbl => execAgeNow_only p tbl s
  | .lpmSwap p tbl => execLpmSwap_only p tbl s
  | .rebuild p tbl => execRebuild_only p tbl s
  | .repair p tbl => execRepair_only p tbl s
  | .tblCmdDone hits upsets => execTblCmdDone_only hits upsets s
  | .tblPortAccess p acc => execTblPortAccess_only p acc s
  | .tblCntRead p => execTblCntRead_only p s
  | .enqueue q => execEnqueue_only q s
  | .calendarSlot q down sh => execCalendarSlot_only q down sh s
  | .wheelRevolution q down => execWheelRevolution_only q down s
  | .shaperWrite p q down w => execShaperWrite_only p q down w s
  | .policerWrite p q w => execPolicerWrite_only p q w s
  | .tmPortWrite p q down w => execTmPortWrite_only p q down w s
  | .tmWinAccess p q win acc => execTmWinAccess_only p q win acc s
  | .badOffsetRead p q down slice => execBadOffsetRead_only p q down slice s
  | .cipherDispatch q => execCipherDispatch_only q s
  | .coreJobDone u => execCoreJobDone_only u s
  | .katDue u pass => execKatDue_only u pass s
  | .katOverdue k => execKatOverdue_only k s
  | .firstKat u pass => execFirstKat_only u pass s
  | .katNow p k pass => execKatNow_only p k pass s
  | .integrityFault u cause => execIntegrityFault_only u cause s
  | .quarForce p k on => execQuarForce_only p k on s
  | .retest p u pass => execRetest_only p u pass s
  | .afWindow u => execAfWindow_only u s
  | .cphJobsRead p k => execCphJobsRead_only p k s
  | .cphAfRead p k => execCphAfRead_only p k s
  | .cphCntRead p q => execCphCntRead_only p q s
  | .lookasideFetch d => execLookasideFetch_only d s
  | .lookasideComplete input aad tag => execLookasideComplete_only input aad tag s
  | .keyCtxAccess p acc => execKeyCtxAccess_only p acc s
  | .importClear p c => execImportClear_only p c s
  | .importWrapped p c => execImportWrapped_only p c s
  | .importDone ok => execImportDone_only ok s
  | .oldGenWipe slot => execOldGenWipe_only slot s
  | .erase p c => execErase_only p c s
  | .eraseDone ok => execEraseDone_only ok s
  | .closeProv p => execCloseProv_only p s
  | .vkInstall p => execVkInstall_only p s
  | .mskSet p c => execMskSet_only p c s
  | .mskClear p c => execMskClear_only p c s
  | .prefetch p => execPrefetch_only p s
  | .tamperClear p present => execTamperClear_only p present s
  | .monoIncr p c => execMonoIncr_only p c s
  | .keyDerive => execKeyDerive_only s
  | .keyRequestTimeout u => execKeyRequestTimeout_only u s
  | .zeroise lowNs => execZeroise_only lowNs s
  | .tamper cause => execTamper_only cause s
  | .zeroNRise => execZeroNRise_only s
  | .trngFail raw => execTrngFail_only raw s
  | .trngRecover passed => execTrngRecover_only passed s
  | .drbgReseed => execDrbgReseed_only s
  | .keyRngRead p => execKeyRngRead_only p s
  | .operatingMinute => execOperatingMinute_only s
  | .keyCntRead p => execKeyCntRead_only p s
  | .keyLaAccess p acc => execKeyLaAccess_only p acc s
  | .timIncrWrite p w => execTimIncrWrite_only p w s
  | .timNowRead p => execTimNowRead_only p s
  | .set p => execSet_only p s
  | .step p => execStep_only p s
  | .slew p ppm => execSlew_only p ppm s
  | .tod p => execTod_only p s
  | .todCancel p => execTodCancel_only p s
  | .todLatch => execTodLatch_only s
  | .replicaUpdate => execReplicaUpdate_only s
  | .replicaStale n => execReplicaStale_only n s
  | .tsCal p n => execTsCal_only p n s
  | .tsCalDone n rx tx => execTsCalDone_only n rx tx s
  | .txStamp n tag => execTxStamp_only n tag s
  | .txqRead p => execTxqRead_only p s
  | .txqDropsRead p => execTxqDropsRead_only p s
  | .tauDsRecompute => execTauDsRecompute_only s
  | .servoSample => execServoSample_only s
  | .refLost => execRefLost_only s
  | .timCtlWrite p w => execTimCtlWrite_only p w s
  | .cmpArm p c => execCmpArm_only p c s
  | .cmpFire c => execCmpFire_only c s
  | .ppsOutPulse => execPpsOutPulse_only s
  | .ppsOutEnd => execPpsOutEnd_only s
  | .ppsInEdge sub => execPpsInEdge_only sub s
  | .retrain p d => execRetrain_only p d s
  | .retire p d => execRetire_only p d s
  | .scrubNow p => execScrubNow_only p s
  | .scrubPass corrected => execScrubPass_only corrected s
  | .cstTrainDone failed => execCstTrainDone_only failed s
  | .redirectCopyDone => execRedirectCopyDone_only s
  | .drainDone timeout => execDrainDone_only timeout s
  | .restoreDone => execRestoreDone_only s
  | .cstLineError ch line e user => execCstLineError_only ch line e user s
  | .cstCntRead p => execCstCntRead_only p s
  | .perst rise => execPerst_only rise s
  | .hotReset => execHotReset_only s
  | .functionLevelReset => execFunctionLevelReset_only s
  | .linkChange speed width => execLinkChange_only speed width s
  | .gatedAccess p a write => execGatedAccess_only p a write s
  | .partialWrite p a => execPartialWrite_only p a s
  | .hifCountRead p partial_ => execHifCountRead_only p partial_ s
  | .twCtlWrite p w => execTwCtlWrite_only p w s
  | .featAcceptWrite p ix w => execFeatAcceptWrite_only p ix w s
  | .featLock p w => execFeatLock_only p w s
  | .doorbell r w => execDoorbell_only r w s
  | .ringEnable r => execRingEnable_only r s
  | .ringDisable r => execRingDisable_only r s
  | .ringStopped r => execRingStopped_only r s
  | .ringDmaError r k => execRingDmaError_only r k s
  | .ringCoalTimer r => execRingCoalTimer_only r s
  | .ringDropsRead r => execRingDropsRead_only r s
  | .punt bufs => execPunt_only bufs s
  | .inject descs => execInject_only descs s
  | .eventRingPost => execEventRingPost_only s
  | .twWrite addr off data pec => execTwWrite_only addr off data pec s
  | .twRead addr off => execTwRead_only addr off s
  | .eventReport e sev detail => execEventReport_only e sev detail s
  | .settleEnd e => execSettleEnd_only e s
  | .gatherEnd e => execGatherEnd_only e s
  | .holdEnd e => execHoldEnd_only e s
  | .lastingExpire e => execLastingExpire_only e s
  | .evtStatusWrite p g w => execEvtStatusWrite_only p g w s
  | .evtMaskWrite p g w => execEvtMaskWrite_only p g w s
  | .evtForce p w => execEvtForce_only p w s
  | .evtSrcAccess p => execEvtSrcAccess_only p s
  | .wellScan => execWellScan_only s
  | .wellSeverityFlush => execWellSeverityFlush_only s
  | .wellPeriodicFlush => execWellPeriodicFlush_only s
  | .wellFlushRecord ok => execWellFlushRecord_only ok s
  | .wellFlush p => execWellFlush_only p s
  | .pfailFall => execPfailFall_only s
  | .wellFreeze p => execWellFreeze_only p s
  | .wellThaw p => execWellThaw_only p s
  | .freezeTimeout => execFreezeTimeout_only s
  | .wellRead p => execWellRead_only p s
  | .challenge p => execChallenge_only p s
  | .challengeExpire => execChallengeExpire_only s
  | .clear p => execClear_only p s
  | .tallyOccurrence sel q sv count => execTallyOccurrence_only sel q sv count s
  | .talCntCfgWrite p c w => execTalCntCfgWrite_only p c w s
  | .tallyFreeze p on => execTallyFreeze_only p on s
  | .snap p w => execSnap_only p w s
  | .userSnap => execUserSnap_only s
  | .run p => execRun_only p s
  | .doze p => execDoze_only p s
  | .standby p => execStandby_only p s
  | .enterDone => execEnterDone_only s
  | .rtcAlarm => execRtcAlarm_only s
  | .wakeNLow => execWakeNLow_only s
  | .pcieWake perstRise => execPcieWake_only perstRise s
  | .energyDetect n level => execEnergyDetect_only n level s
  | .domainPowerGood d => execDomainPowerGood_only d s
  | .domainPgTimeout d => execDomainPgTimeout_only d s
  | .voteHostWrite p ix w => execVoteHostWrite_only p ix w s
  | .voteTestWrite p ix w => execVoteTestWrite_only p ix w s
  | .domFaultClear p ix w => execDomFaultClear_only p ix w s
  | .rtcWrite p w => execRtcWrite_only p w s
  | .thermalLimit => execThermalLimit_only s
  | .thermalTrip => execThermalTrip_only s
  | .thermalResume => execThermalResume_only s
  | .completeUAcknowledged n => execCompleteUAcknowledged_only n s
  | .hbMarkerMissing n => execHbMarkerMissing_only n s
  | .hbDownHoldExpire n => execHbDownHoldExpire_only n s
  | .shaperEligible q down sh => execShaperEligible_only q down sh s
  | .stwCmdDone q bytes ok => execStwCmdDone_only q bytes ok s
  | .keyCmdDone bytes ok => execKeyCmdDone_only bytes ok s
  | .wellCmdDone => execWellCmdDone_only s
  | .vaultLinkTimeout => execVaultLinkTimeout_only s
  | .thermalLimitRearm => execThermalLimitRearm_only s

theorem exec_next (c : Instr) (s : State) : ∃ t, exec c s = .next t :=
  (exec_only c s).imp fun _ h => h.1

theorem touches_of_exec {c : Instr} {s t : State} (h : exec c s = .next t) : Only (touches c) s t := by
  obtain ⟨u, hu, ho⟩ := exec_only c s
  obtain rfl : u = t := by simpa [hu] using h
  exact ho

/-- Settles O52: each command's frame is the law of its own meaning, and no row of `touches` names the queue or the time. -/
theorem commandsChangeOnlyWhatTheyTouch : Obligations.CommandsChangeOnlyWhatTheyTouch := by
  intro c s
  obtain ⟨t, ht, honly⟩ := exec_only c s
  obtain ⟨hpending, hnow⟩ := touches_queue c
  exact ⟨t, ht, honly, honly .pending hpending, honly .now hnow⟩

/-! ### Runs -/

theorem step_next (s : State) : ∃ t, step s = .next t := by
  unfold step
  split
  · exact ⟨_, rfl⟩
  · exact exec_next _ _

/-- Settles O51: no step stops, so no run of any length does. -/
theorem everyRunGoesOn : Obligations.EveryRunGoesOn := by
  intro n s
  refine ⟨step_next s, ?_⟩
  induction n generalizing s with
  | zero => trivial
  | succ n ih => obtain ⟨t, ht⟩ := step_next s; exact ⟨t, ht, ih t⟩

/-- Settles O49: the step of a waiting command is `exec` on the rest of the queue. -/
theorem stepRunsTheFrontCommand : Obligations.StepRunsTheFrontCommand :=
  ⟨fun s c rest h => by rw [step, h], fun _ _ => rfl⟩

end Sys2Proof.Machine
end

/-!
What leaves the monotonic counters of the vault and the KEY_CMD in progress as they are.
Where an operation's own frame names neither the vault nor the key island, its frame says so; the others are walked through.
-/
section
namespace Sys2Proof.Machine

/-- The monotonic counters of the vault (R415). -/
def Vault.marks (v : Vault) : W32 × BitVec 24 × W32 × W32 × Vector W32 4 := (v.floor, v.sealStart, v.powerCycles, v.operatingS, v.mono)

/-- A vault whose other fields are written. -/
@[simp] theorem Vault.marks_with {v : Vault} {slots provOpen imageA imageB commit well wellBad tamperLatched tamperCauses vk vkSerial fw disabled cal} :
    Vault.marks { v with
      slots := slots, provOpen := provOpen, imageA := imageA, imageB := imageB, commit := commit, well := well, wellBad := wellBad
      tamperLatched := tamperLatched, tamperCauses := tamperCauses, vk := vk, vkSerial := vkSerial, fw := fw, disabled := disabled
      cal := cal } = v.marks := rfl

/-- The counters and the command in progress are the same. -/
@[simp, reducible] def Kept (s t : State) : Prop := t.vault.marks = s.vault.marks ∧ t.key.busy = s.key.busy

theorem Only.kept {ps : List Part} {s t : State} (h : Only ps s t) (hv : ps.contains .vault = false) (hk : ps.contains .key = false) :
    Kept s t := ⟨congrArg Vault.marks (h .vault hv), congrArg KeyIsland.busy (h .key hk)⟩

theorem Kept.ite {s a b : State} {c : Prop} [Decidable c] (ha : Kept s a) (hb : Kept s b) : Kept s (if c then a else b) := by
  split <;> assumption

@[simp] theorem foldl_kept {α : Type} {f : State → α → State} {l : List α} {s : State} (h : ∀ s a, Kept s (f s a)) :
    Kept s (l.foldl f s) := by
  induction l generalizing s with
  | nil => exact ⟨rfl, rfl⟩
  | cons a l ih => exact ⟨(ih (s := f s a)).1.trans (h s a).1, (ih (s := f s a)).2.trans (h s a).2⟩

@[simp] theorem State.loadCopy_kept (s : State) (q k : Nat) (e : CacheEntry) : Kept s (State.loadCopy s q k e) :=
  (State.loadCopy_only _ _ _ _).kept rfl rfl
@[simp] theorem State.afterIngress_kept (s : State) (q : Nat) (f : Frame) : Kept s (State.afterIngress s q f) :=
  (State.afterIngress_only _ _ _).kept rfl rfl
@[simp] theorem State.dropFrame_kept (s : State) (q cause : Nat) (f : Frame) : Kept s (State.dropFrame s q cause f) :=
  (State.dropFrame_only _ _ _ _).kept rfl rfl
@[simp] theorem State.portCnt_kept (s : State) (q c : Nat) : Kept s (State.portCnt s q c) :=
  (State.portCnt_only _ _ _).kept rfl rfl
@[simp] theorem State.deliverBlock_kept (s : State) (q : Nat) (f : Frame) (ok : Bool) : Kept s (State.deliverBlock s q f ok) :=
  (State.deliverBlock_only _ _ _ _).kept rfl rfl
@[simp] theorem State.toEnqueue_kept (s : State) (q : Nat) (f : Frame) : Kept s (State.toEnqueue s q f) :=
  (State.toEnqueue_only _ _ _).kept rfl rfl
@[simp] theorem State.unitFail_kept (s : State) (j : Job) : Kept s (State.unitFail s j) := (State.unitFail_only _ _).kept rfl rfl
@[simp] theorem State.floatsAll_kept (s : State) : Kept s (State.floatsAll s) := (State.floatsAll_only _).kept rfl rfl
@[simp] theorem State.report_kept (s : State) (e : Nat) (sev : BitVec 3) (detail : List Byte) :
    Kept s (State.report s e sev detail) :=
  (State.report_only _ _ _ _).kept rfl rfl
@[simp] theorem State.reportIf_kept (s : State) (c : Bool) (e : Nat) (sev : BitVec 3) (detail : List Byte) :
    Kept s (State.reportIf s c e sev detail) :=
  (State.reportIf_only _ _ _ _ _).kept rfl rfl
@[simp] theorem State.katIfEmpty_kept (s : State) (q k : Nat) : Kept s (State.katIfEmpty s q k) :=
  (State.katIfEmpty_only _ _ _).kept rfl rfl
@[simp] theorem State.resubst_kept (s : State) : Kept s (State.resubst s) := (State.resubst_only _).kept rfl rfl
@[simp] theorem State.modAct_kept (s : State) (n : LaneId) (f : Act5 → Act5) : Kept s (State.modAct s n f) :=
  (State.modAct_only _ _ _).kept rfl rfl
@[simp] theorem State.setAct_kept (s : State) (n : LaneId) (st : ActState) : Kept s (State.setAct s n st) :=
  (State.setAct_only _ _ _).kept rfl rfl
@[simp] theorem State.tunedIn_kept (s : State) (n : LaneId) : Kept s (State.tunedIn s n) := (State.tunedIn_only _ _).kept rfl rfl
@[simp] theorem State.toO11_kept (s : State) (n : LaneId) : Kept s (State.toO11 s n) := (State.toO11_only _ _).kept rfl rfl
@[simp] theorem State.exitTo11_kept (s : State) (n : LaneId) (why : BitVec 3) : Kept s (State.exitTo11 s n why) :=
  (State.exitTo11_only _ _ _).kept rfl rfl
@[simp] theorem State.onAssignAllocId_kept (s : State) (n : LaneId) (alloc : BitVec 14) (add : Bool) :
    Kept s (State.onAssignAllocId s n alloc add) :=
  (State.onAssignAllocId_only _ _ _ _).kept rfl rfl
@[simp] theorem State.onAssignOnuId_kept (s : State) (n : LaneId) (sn : W64) (id : BitVec 10) :
    Kept s (State.onAssignOnuId s n sn id) :=
  (State.onAssignOnuId_only _ _ _ _).kept rfl rfl
@[simp] theorem State.onBurstProfile_kept (s : State) (n : LaneId) (i : BitVec 2) (p : Profile) :
    Kept s (State.onBurstProfile s n i p) :=
  (State.onBurstProfile_only _ _ _ _).kept rfl rfl
@[simp] theorem State.onChannelProfile_kept (s : State) (n : LaneId) (ds : BitVec 4) (this : Bool) :
    Kept s (State.onChannelProfile s n ds this) :=
  (State.onChannelProfile_only _ _ _ _).kept rfl rfl
@[simp] theorem State.onKeyControl_kept (s : State) (n : LaneId) (newKey : Bool) (k : BitVec 2) :
    Kept s (State.onKeyControl s n newKey k) :=
  (State.onKeyControl_only _ _ _ _).kept rfl rfl
@[simp] theorem State.onRangingRel_kept (s : State) (n : LaneId) (d : Int) : Kept s (State.onRangingRel s n d) :=
  (State.onRangingRel_only _ _ _).kept rfl rfl
@[simp] theorem State.onTuningControl_kept (s : State) (n : LaneId) (ds us : BitVec 4) (sched : BitVec 51) :
    Kept s (State.onTuningControl s n ds us sched) :=
  (State.onTuningControl_only _ _ _ _ _).kept rfl rfl
@[simp] theorem State.actCnt_kept (s : State) (n : LaneId) (c : Nat) : Kept s (State.actCnt s n c) :=
  (State.actCnt_only _ _ _).kept rfl rfl
@[simp] theorem State.micFail_kept (s : State) (n : LaneId) : Kept s (State.micFail s n) := (State.micFail_only _ _).kept rfl rfl
@[simp] theorem State.popPloam_kept (s : State) (n : LaneId) : Kept s (State.popPloam s n) :=
  (State.popPloam_only _ _).kept rfl rfl
@[simp] theorem State.slotEvent_kept (s : State) (i : Nat) : Kept s (State.slotEvent s i) :=
  (State.slotEvent_only _ _).kept rfl rfl
@[simp] theorem State.keyCntRead_kept (s : State) (p : Port) : Kept s (State.keyCntRead s p).2 :=
  (State.keyCntRead_only _ _).kept rfl rfl
@[simp] theorem State.clearDisableRecord_kept (s : State) (n : LaneId) : Kept s (State.clearDisableRecord s n) :=
  (State.clearDisableRecord_only _ _).kept rfl rfl
@[simp] theorem State.bcastKey_kept (s : State) (q : QuadId) (slice : BitVec 5) (k : BitVec 2) :
    Kept s (State.bcastKey s q slice k) :=
  (State.bcastKey_only _ _ _ _).kept rfl rfl
@[simp] theorem State.clearRogue_kept (s : State) (q : QuadId) (slice : BitVec 5) : Kept s (State.clearRogue s q slice) :=
  (State.clearRogue_only _ _ _).kept rfl rfl
@[simp] theorem State.commitFw_kept (s : State) (q : QuadId) : Kept s (State.commitFw s q) :=
  (State.commitFw_only _ _).kept rfl rfl
@[simp] theorem State.loadFw_kept (s : State) (q : QuadId) : Kept s (State.loadFw s q) := (State.loadFw_only _ _).kept rfl rfl
@[simp] theorem State.restartLane_kept (s : State) (q : QuadId) (slice : BitVec 5) : Kept s (State.restartLane s q slice) :=
  (State.restartLane_only _ _ _).kept rfl rfl
@[simp] theorem State.stwErr_kept (s : State) (q : QuadId) (e : Byte) : Kept s (State.stwErr s q e) :=
  (State.stwErr_only _ _ _).kept rfl rfl
@[simp] theorem State.swapFw_kept (s : State) (q : QuadId) (force : Bool) : Kept s (State.swapFw s q force) :=
  (State.swapFw_only _ _ _).kept rfl rfl
@[simp] theorem State.optWrite_kept (s : State) (q : QuadId) (w : W32) : Kept s (State.optWrite s q w) :=
  (State.optWrite_only _ _ _).kept rfl rfl
@[simp] theorem State.stwLaneWrite_kept (s : State) (q : QuadId) (w : W32) : Kept s (State.stwLaneWrite s q w) :=
  (State.stwLaneWrite_only _ _ _).kept rfl rfl
@[simp] theorem State.tuneAck_kept (s : State) (q : QuadId) (w : W32) : Kept s (State.tuneAck s q w) :=
  (State.tuneAck_only _ _ _).kept rfl rfl
@[simp] theorem State.portWrite_kept (s : State) (q : Nat) (down : Bool) (k w : Nat) (v : W32) :
    Kept s (State.portWrite s q down k w v) :=
  (State.portWrite_only _ _ _ _ _ _).kept rfl rfl
@[simp] theorem State.tblCmdReg_kept (s : State) (w : W32) : Kept s (State.tblCmdReg s w) :=
  (State.tblCmdReg_only _ _).kept rfl rfl
@[simp] theorem State.assocRead_kept (s : State) (p : Port) (i w : Nat) : Kept s (State.assocRead s p i w).2 :=
  (State.assocRead_only _ _ _ _).kept rfl rfl
@[simp] theorem State.tribRead_kept (s : State) (p : Port) (i w : Nat) : Kept s (State.tribRead s p i w).2 :=
  (State.tribRead_only _ _ _ _).kept rfl rfl
@[simp] theorem State.raiseDone_kept (s : State) (x : Raised) : Kept s (State.raiseDone s x) :=
  (State.raiseDone_only _ _).kept rfl rfl
@[simp] theorem State.wellDiscarded_kept (s : State) : Kept s (State.wellDiscarded s) := (State.wellDiscarded_only _).kept rfl rfl
@[simp] theorem State.clearDone_kept (s : State) : Kept s (State.clearDone s) := (State.clearDone_only _).kept rfl rfl
@[simp] theorem State.wellReadDone_kept (s : State) : Kept s (State.wellReadDone s) := (State.wellReadDone_only _).kept rfl rfl
@[simp] theorem State.sprErr_kept (s : State) (e : BitVec 4) : Kept s (State.sprErr s e) := (State.sprErr_only _ _).kept rfl rfl
@[simp] theorem State.sprCmd_kept (s : State) (w : W32) : Kept s (State.sprCmd s w) := (State.sprCmd_only _ _).kept rfl rfl
@[simp] theorem State.fragFlush_kept (s : State) : Kept s (State.fragFlush s) := (State.fragFlush_only _).kept rfl rfl
@[simp] theorem State.clsWrite_kept (s : State) (q : Nat) (off : Nat) (w : W32) : Kept s (State.clsWrite s q off w) :=
  (State.clsWrite_only _ _ _ _).kept rfl rfl
@[simp] theorem State.cphWrite_kept (s : State) (q off : Nat) (w : W32) : Kept s (State.cphWrite s q off w) :=
  (State.cphWrite_only _ _ _ _).kept rfl rfl
@[simp] theorem State.floatWrite_kept (s : State) (q off : Nat) (w : W32) : Kept s (State.floatWrite s q off w) :=
  (State.floatWrite_only _ _ _ _).kept rfl rfl
@[simp] theorem State.trafficWrite_kept (s : State) (q off : Nat) (w : W32) : Kept s (State.trafficWrite s q off w) :=
  (State.trafficWrite_only _ _ _ _).kept rfl rfl
@[simp] theorem State.coreRead_kept (s : State) (k off : Nat) : Kept s (State.coreRead s k off).2 :=
  (State.coreRead_only _ _ _).kept rfl rfl
@[simp] theorem State.cstRead_kept (s : State) (p : Port) (off : Nat) : Kept s (State.cstRead s p off).2 :=
  (State.cstRead_only _ _ _).kept rfl rfl
@[simp] theorem State.evtRead_kept (s : State) (off : Nat) : Kept s (State.evtRead s off).2 :=
  (State.evtRead_only _ _).kept rfl rfl
@[simp] theorem State.fbkRead_kept (s : State) (p : Port) (off : Nat) : Kept s (State.fbkRead s p off).2 :=
  (State.fbkRead_only _ _ _).kept rfl rfl
@[simp] theorem State.hifRead_kept (s : State) (off : Nat) : Kept s (State.hifRead s off).2 :=
  (State.hifRead_only _ _).kept rfl rfl
@[simp] theorem State.laneIslRead_kept (s : State) (p : Port) (n : LaneId) (off : Nat) : Kept s (State.laneIslRead s p n off).2 :=
  (State.laneIslRead_only _ _ _ _).kept rfl rfl
@[simp] theorem State.pwrRead_kept (s : State) (p : Port) (off : Nat) : Kept s (State.pwrRead s p off).2 :=
  (State.pwrRead_only _ _ _).kept rfl rfl
@[simp] theorem State.quadIslRead_kept (s : State) (p : Port) (q off : Nat) : Kept s (State.quadIslRead s p q off).2 :=
  (State.quadIslRead_only _ _ _ _).kept rfl rfl
@[simp] theorem State.skwRead_kept (s : State) (off : Nat) : Kept s (State.skwRead s off).2 :=
  (State.skwRead_only _ _).kept rfl rfl
@[simp] theorem State.strRead_kept (s : State) (off : Nat) : Kept s (State.strRead s off).2 :=
  (State.strRead_only _ _).kept rfl rfl
@[simp] theorem State.sysRead_kept (s : State) (p : Port) (off : Nat) : Kept s (State.sysRead s p off).2 :=
  (State.sysRead_only _ _ _).kept rfl rfl
@[simp] theorem State.talRead_kept (s : State) (p : Port) (off : Nat) : Kept s (State.talRead s p off).2 :=
  (State.talRead_only _ _ _).kept rfl rfl
@[simp] theorem State.tblIslRead_kept (s : State) (p : Port) (off : Nat) : Kept s (State.tblIslRead s p off).2 :=
  (State.tblIslRead_only _ _ _).kept rfl rfl
@[simp] theorem State.timRead_kept (s : State) (p : Port) (off : Nat) : Kept s (State.timRead s p off).2 :=
  (State.timRead_only _ _ _).kept rfl rfl
@[simp] theorem State.welRead_kept (s : State) (off : Nat) : Kept s (State.welRead s off).2 :=
  (State.welRead_only _ _).kept rfl rfl
@[simp] theorem State.gatedRecord_kept (s : State) (p : Port) (a : Nat) (write : Bool) : Kept s (State.gatedRecord s p a write) :=
  (State.gatedRecord_only _ _ _ _).kept rfl rfl

@[simp] theorem State.drbgStart_kept (s : State) : Kept s (State.drbgStart s) := by
  simp [State.drbgStart]

@[simp] theorem State.drbgReseed_kept (s : State) : Kept s (State.drbgReseed s) := by
  unfold State.drbgReseed; split <;> simp

@[simp] theorem State.draw_kept (s : State) (n : Nat) : Kept s (State.draw s n).2 := by
  unfold State.draw; split <;> simp

@[simp] theorem State.drawWord_kept (s : State) : Kept s (State.drawWord s).2 := by
  simp [State.drawWord]

@[simp] theorem State.modAssoc_kept (s : State) (i : Nat) (f : Assoc → Assoc) : Kept s (State.modAssoc s i f) := by
  simp [State.modAssoc]

@[simp] theorem State.modTrib_kept (s : State) (i : Nat) (f : TribCtx → TribCtx) : Kept s (State.modTrib s i f) := by
  simp [State.modTrib]

@[simp] theorem State.keyCnt_kept (s : State) (c n : Nat) : Kept s (State.keyCnt s c n) := by
  simp [State.keyCnt]

@[simp] theorem State.cacheTouch_kept (s : State) (e : CacheEntry) : Kept s (State.cacheTouch s e) := by
  simp [State.cacheTouch]

@[simp] theorem State.cacheEnter_kept (s : State) (e : CacheEntry) : Kept s (State.cacheEnter s e).1 := by
  unfold State.cacheEnter; (repeat' split) <;> simp

@[simp] theorem State.askKey_kept (s : State) (n : KeyName) : Kept s (State.askKey s n).2 := by
  unfold State.askKey; dsimp only; (repeat' split) <;> simp

theorem State.kept_of_askKey {s t : State} {n : KeyName} {a : KeyAnswer} (h : s.askKey n = (a, t)) : Kept s t := by
  simpa [h] using State.askKey_kept s n

@[simp] theorem State.askFor_kept (s : State) (q k : Nat) (onFallback : Bool) (n : KeyName) :
    Kept s (State.askFor s q k onFallback n).2 := by
  have h := State.askKey_kept s n
  unfold State.askFor
  repeat' split
  all_goals simp_all

@[simp] theorem State.releaseIngress_kept (s : State) (q : Nat) (j : Job) (out : List Byte) :
    Kept s (State.releaseIngress s q j out) := by
  unfold State.releaseIngress; dsimp only; split <;> simp

@[simp] theorem State.releaseJob_kept (s : State) (q : Nat) (j : Job) : Kept s (State.releaseJob s q j) := by
  unfold State.releaseJob; (repeat' split) <;> simp

@[simp] theorem State.release_kept (s : State) (q : Nat) : Kept s (State.release s q) := by
  simp [State.release]

@[simp] theorem State.releaseAll_kept (s : State) : Kept s (State.releaseAll s) := by
  simp [State.releaseAll]

@[simp] theorem State.abandon_kept (s : State) (p : KeyName → Bool) : Kept s (State.abandon s p) := by
  simp [State.abandon]

@[simp] theorem State.trimCounter_kept (s : State) (i : Nat) : Kept s (State.trimCounter s i) := by
  unfold State.trimCounter; dsimp only; split <;> simp

@[simp] theorem State.refuseJob_kept (s : State) (q : Nat) (f : Frame) (j : NoJob) : Kept s (s.refuseJob q f j) := by
  unfold State.refuseJob; split <;> simp

@[simp] theorem State.takeNumber_kept (s : State) (p : Plan) : Kept s (State.takeNumber s p) := by
  unfold State.takeNumber; dsimp only; (repeat' split) <;> simp

@[simp] theorem State.dispatchTo_kept (s : State) (q : Nat) (f : Frame) (p : Plan) (cost : Nat) (x : Slot) :
    Kept s (State.dispatchTo s q f p cost x) := by
  unfold State.dispatchTo; (repeat' split) <;> simp

@[simp] theorem State.finish_kept (s : State) (q i : Nat) : Kept s (State.finish s q i) := by
  unfold State.finish; (repeat' split) <;> simp

@[simp] theorem State.laEnter_kept (s : State) (d : LaDesc) : Kept s (State.laEnter s d) := by
  unfold State.laEnter
  split; · simp
  split; · simp
  split; · simp
  split <;> next hask => simp [State.kept_of_askKey hask]

@[simp] theorem State.deriveTc_kept (s : State) (n : LaneId) : Kept s (State.deriveTc s n) := by
  simp [State.deriveTc]

@[simp] theorem State.onRangingAbs_kept (s : State) (n : LaneId) (e : W32) : Kept s (State.onRangingAbs s n e) := by
  unfold State.onRangingAbs; dsimp only; split <;> simp

@[simp] theorem State.setDisabled_kept (s : State) (n : LaneId) (on : Bool) : Kept s (State.setDisabled s n on) := by
  simp [State.setDisabled]

@[simp] theorem State.onDisableSn_kept (s : State) (n : LaneId) (all enable : Bool) (sn : W64) :
    Kept s (State.onDisableSn s n all enable sn) := by
  unfold State.onDisableSn; dsimp only; (repeat' split) <;> simp

@[simp] theorem State.onPloam_kept (s : State) (n : LaneId) (m : Ploam) : Kept s (State.onPloam s n m) := by
  unfold State.onPloam; split <;> simp

@[simp] theorem State.ploamActs_kept (s : State) (n : LaneId) (m : Ploam) : Kept s (State.ploamActs s n m) := by
  unfold State.ploamActs; dsimp only; (repeat' split) <;> simp

@[simp] theorem State.handle_kept (s : State) (n : LaneId) (kind : Ploam → Bool) : Kept s (State.handle s n kind) := by
  unfold State.handle; (repeat' split) <;> simp

@[simp] theorem State.modCopy_kept (s : State) (i : Nat) (f : RootCopy → RootCopy) : Kept s (State.modCopy s i f) := by
  simp [State.modCopy]

@[simp] theorem State.wipeOld_kept (s : State) (i : Nat) : Kept s (State.wipeOld s i) := by
  simp [State.wipeOld]

@[simp] theorem State.modSlot_kept (s : State) (i : Nat) (f : RootSlot → RootSlot) : Kept s (s.modSlot i f) := by
  simp [State.modSlot]

@[simp] theorem State.importTake_kept (s : State) (i : Nat) (side : Bool) (purposes : BitVec 5) (key : List Byte) :
    Kept s (State.importTake s i side purposes key) := by
  unfold State.importTake; dsimp only; (repeat' split) <;> simp

@[simp] theorem State.eraseSlot_kept (s : State) (i : Nat) : Kept s (State.eraseSlot s i) := by
  simp [State.eraseSlot]

@[simp] theorem State.slotErased_kept (s : State) (i : Nat) : Kept s (State.slotErased s i) := by
  unfold State.slotErased; split <;> simp

@[simp] theorem State.vkTake_kept (s : State) (r : List Byte) : Kept s (State.vkTake s r) := by
  simp [State.vkTake]

@[simp] theorem State.mskPut_kept (s : State) (lane : BitVec 7) (key : Option (List Byte)) :
    Kept s (State.mskPut s lane key) := by
  unfold State.mskPut; dsimp only; (repeat' split) <;> simp

@[simp] theorem State.prefetchAll_kept (s : State) : Kept s (State.prefetchAll s) := by
  simp [State.prefetchAll]

@[simp] theorem State.noKeyJob_kept (s : State) (q i : Nat) : Kept s (State.noKeyJob s q i) := by
  simp [State.noKeyJob]

@[simp] theorem State.keyRng_kept (s : State) : Kept s (State.keyRng s).2 := by
  unfold State.keyRng; split <;> simp

@[simp] theorem State.keyRead_kept (s : State) (p : Port) (off : Nat) : Kept s (State.keyRead s p off).2 := by
  unfold State.keyRead; split <;> simp

theorem State.stwLaneCmd_kept {s : State} {q : QuadId} {slice : BitVec 5} {k : State → LaneId → State} (hk : ∀ u n, Kept u (k u n)) :
    Kept s (s.stwLaneCmd q slice k) := by
  unfold State.stwLaneCmd State.stwCmd; dsimp only; (repeat' split) <;> simp [hk]

@[simp] theorem State.clearDisable_kept (s : State) (q : QuadId) (slice : BitVec 5) : Kept s (State.clearDisable s q slice) := by
  refine State.stwLaneCmd_kept fun u n => ?_
  dsimp only
  (repeat' split) <;> simp

@[simp] theorem State.stwCmdWrite_kept (s : State) (q : QuadId) (w : W32) : Kept s (State.stwCmdWrite s q w) := by
  unfold State.stwCmdWrite; split <;> simp

@[simp] theorem State.stwWrite_kept (s : State) (q : QuadId) (off : Nat) (w : W32) : Kept s (State.stwWrite s q off w) := by
  unfold State.stwWrite; (repeat' with_reducible apply Kept.ite) <;> simp

@[simp] theorem State.tblWrite_kept (s : State) (off : Nat) (w : W32) : Kept s (State.tblWrite s off w) := by
  unfold State.tblWrite; dsimp only; (repeat' with_reducible apply Kept.ite) <;> simp

@[simp] theorem Vault.putImage_marks (v : Vault) (slotB : Bool) (x : Option (List Byte)) : (v.putImage slotB x).marks = v.marks := by
  unfold Vault.putImage; split <;> rfl

@[simp] theorem State.copied_kept (s : State) (slot : Bool) : Kept s (State.copied s slot) := by
  simp [State.copied]

@[simp] theorem State.ctxStep_kept (s : State) : Kept s (State.ctxStep s) := by
  unfold State.ctxStep; split <;> simp

@[simp] theorem State.ctxRefuse_kept (s : State) (c : BitVec 2) : Kept s (State.ctxRefuse s c) := by
  simp [State.ctxRefuse]

@[simp] theorem State.assocWrite_kept (s : State) (i w : Nat) (v : W32) : Kept s (State.assocWrite s i w v) := by
  unfold State.assocWrite; dsimp only; (repeat' split) <;> simp

@[simp] theorem State.ctxRead_kept (s : State) (p : Port) : Kept s (State.ctxRead s p).2 := by
  unfold State.ctxRead; dsimp only; (repeat' split) <;> simp

@[simp] theorem State.laStep_kept (s : State) : Kept s (State.laStep s) := by
  unfold State.laStep; split <;> simp

@[simp] theorem State.laRead_kept (s : State) : Kept s (State.laRead s).2 := by
  simp [State.laRead]

@[simp] theorem State.laWrite_kept (s : State) (v : W32) : Kept s (State.laWrite s v) := by
  simp [State.laWrite]

@[simp] theorem State.wellScan_kept (s : State) : Kept s (State.wellScan s) := by
  unfold State.wellScan; split <;> simp

@[simp] theorem State.flushRecord_kept (s : State) (ok : Bool) : Kept s (State.flushRecord s ok) := by
  unfold State.flushRecord; dsimp only; (repeat' split) <;> simp

@[simp] theorem State.challengeDone_kept (s : State) : Kept s (State.challengeDone s) := by
  simp [State.challengeDone]

@[simp] theorem State.wellDone_kept (s : State) : Kept s (State.wellDone s) := by
  unfold State.wellDone; (repeat' split) <;> simp

@[simp] theorem State.sprDataWrite_kept (s : State) (w : W32) : Kept s (State.sprDataWrite s w) := by
  unfold State.sprDataWrite; dsimp only; split <;> simp

@[simp] theorem State.sprWrite_kept (s : State) (off : Nat) (w : W32) : Kept s (State.sprWrite s off w) := by
  unfold State.sprWrite; (repeat' split) <;> simp

@[simp] theorem State.skipCounter_kept (s : State) (ctx : W32) : Kept s (State.skipCounter s ctx) := by
  unfold State.skipCounter; split <;> simp

@[simp] theorem State.takeGap_kept (s : State) (ctx : W32) : Kept s (State.takeGap s ctx).2 := by
  unfold State.takeGap; split <;> simp

@[simp] theorem State.keyIslRead_kept (s : State) (p : Port) (off : Nat) : Kept s (State.keyIslRead s p off).2 := by
  unfold State.keyIslRead; split <;> simp

@[simp] theorem State.tblIslWrite_kept (s : State) (off : Nat) (w : W32) : Kept s (State.tblIslWrite s off w) := by
  unfold State.tblIslWrite; (repeat' split) <;> simp

@[simp] theorem State.quadIslWrite_kept (s : State) (q off : Nat) (w : W32) : Kept s (State.quadIslWrite s q off w) := by
  unfold State.quadIslWrite; (repeat' split) <;> simp

@[simp] theorem State.regRead_kept (s : State) (p : Port) (a : Nat) : Kept s (State.regRead s p a).2 := by
  unfold State.regRead; dsimp only; (repeat' split) <;> simp

@[simp] theorem State.bar0Read_kept (s : State) (p : Port) (a : Nat) : Kept s (State.bar0Read s p a).2.1 := by
  unfold State.bar0Read; dsimp only; (repeat' split) <;> simp

@[simp] theorem State.eraseRoots_kept (s : State) : Kept s (State.eraseRoots s) := by
  simp [State.eraseRoots]

end Sys2Proof.Machine
end

/-!
The commands that may write the vault or the key island and leave the counters and the KEY_CMD in progress as they are.
-/
section
namespace Sys2Proof.Machine

@[simp] theorem State.ringAdvance_kept (s : State) (r n : Nat) : Kept s (State.ringAdvance s r n) :=
  (State.ringAdvance_only _ _ _).kept rfl rfl
@[simp] theorem State.keyArrives_kept (s : State) (e : CacheEntry) : Kept s (State.keyArrives s e) :=
  (State.keyArrives_only _ _).kept rfl rfl
@[simp] theorem State.bcastKeyDone_kept (s : State) (q : QuadId) (slice : BitVec 5) (k : BitVec 2) :
    Kept s (State.bcastKeyDone s q slice k) :=
  (State.bcastKeyDone_only _ _ _ _).kept rfl rfl
@[simp] theorem State.loadFwDone_kept (s : State) (q : QuadId) (bytes : List Byte) (ok : Bool) :
    Kept s (State.loadFwDone s q bytes ok) :=
  (State.loadFwDone_only _ _ _ _).kept rfl rfl
@[simp] theorem State.stwEnd_kept (s : State) (q : QuadId) (err : Byte) : Kept s (State.stwEnd s q err) :=
  (State.stwEnd_only _ _ _).kept rfl rfl
@[simp] theorem State.acceptBurst_kept (s : State) (n : LaneId) (ploamu : Bool) (b : Burst) :
    Kept s (State.acceptBurst s n ploamu b) :=
  (State.acceptBurst_only _ _ _ _).kept rfl rfl
@[simp] theorem State.grantError_kept (s : State) (n : LaneId) (c k : Nat) (cause : BitVec 3) :
    Kept s (State.grantError s n c k cause) :=
  (State.grantError_only _ _ _ _ _).kept rfl rfl
@[simp] theorem State.modPump_kept (s : State) (n : LaneId) (f : Pump → Pump) : Kept s (State.modPump s n f) :=
  (State.modPump_only _ _ _).kept rfl rfl
@[simp] theorem State.usCnt_kept (s : State) (n : LaneId) (c : Nat) (k : Nat) : Kept s (State.usCnt s n c k) :=
  (State.usCnt_only _ _ _ _).kept rfl rfl
@[simp] theorem State.sprDataRead_kept (s : State) : Kept s (State.sprDataRead s).2 := (State.sprDataRead_only _).kept rfl rfl
@[simp] theorem State.floats_kept (s : State) (q : Nat) : Kept s (State.floats s q) := (State.floats_only _ _).kept rfl rfl
@[simp] theorem State.modEntry_kept (s : State) (n : LaneId) (t : Nat) (f : TribEntry → TribEntry) :
    Kept s (State.modEntry s n t f) :=
  (State.modEntry_only _ _ _ _).kept rfl rfl
@[simp] theorem State.sdhCnt_kept (s : State) (n : LaneId) (c : Nat) (k : Nat) : Kept s (State.sdhCnt s n c k) :=
  (State.sdhCnt_only _ _ _ _).kept rfl rfl
@[simp] theorem State.toParser_kept (s : State) (q : Nat) (f : Frame) : Kept s (State.toParser s q f) :=
  (State.toParser_only _ _ _).kept rfl rfl
@[simp] theorem State.toSump_kept (s : State) (q cause bytes : Nat) : Kept s (State.toSump s q cause bytes) :=
  (State.toSump_only _ _ _ _).kept rfl rfl
@[simp] theorem State.twAnswer_kept (s : State) (addr : BitVec 7) (off w : W32) (gated : Bool) :
    Kept s (State.twAnswer s addr off w gated) :=
  (State.twAnswer_only _ _ _ _ _).kept rfl rfl
@[simp] theorem State.endCond_kept (s : State) (e : Nat) : Kept s (State.endCond s e) := (State.endCond_only _ _).kept rfl rfl
@[simp] theorem State.answerKeys_kept (s : State) (n : LaneId) : Kept s (State.answerKeys s n) :=
  (State.answerKeys_only _ _).kept rfl rfl

theorem Kept.writeAt {s : State} {p : Port} {a : Nat} {ans : Bool} {k : State → State} (hk : ∀ u, Kept u (k u)) :
    Kept s (s.writeAt p a ans k) := by
  unfold State.writeAt; (repeat' split) <;> simp [hk]

theorem Kept.readAt {s : State} {p : Port} {a : Nat} {ans : Bool} {k : State → W32 × State} (hk : ∀ u, Kept u (k u).2) :
    Kept s (s.readAt p a ans k) := by
  unfold State.readAt; (repeat' split) <;> simp [hk]

theorem execCipherDispatch_kept (q : QuadId) (s : State) : ∃ v, (execCipherDispatch q s) = .next v ∧ Kept s v := by
  refine ⟨_, rfl, ?_⟩; dsimp only; (repeat' split) <;> simp

theorem execCoreJobDone_kept (u : CipherUnit) (s : State) : ∃ v, (execCoreJobDone u s) = .next v ∧ Kept s v := by
  refine ⟨_, rfl, ?_⟩; (repeat' split) <;> simp

theorem execLookasideFetch_kept (d : LaDesc) (s : State) : ∃ v, (execLookasideFetch d s) = .next v ∧ Kept s v := by
  refine ⟨_, rfl, ?_⟩; dsimp only; (repeat' split) <;> simp

theorem execBurstProfileMsg_kept (n : LaneId) (s : State) : ∃ v, (execBurstProfileMsg n s) = .next v ∧ Kept s v :=
  ⟨_, rfl, by simp⟩

theorem execAssignOnuId_kept (n : LaneId) (s : State) : ∃ v, (execAssignOnuId n s) = .next v ∧ Kept s v := ⟨_, rfl, by simp⟩

theorem execRangingTime_kept (n : LaneId) (s : State) : ∃ v, (execRangingTime n s) = .next v ∧ Kept s v := ⟨_, rfl, by simp⟩

theorem execTuningControl_kept (n : LaneId) (s : State) : ∃ v, (execTuningControl n s) = .next v ∧ Kept s v := ⟨_, rfl, by simp⟩

theorem execChannelProfile_kept (n : LaneId) (s : State) : ∃ v, (execChannelProfile n s) = .next v ∧ Kept s v := ⟨_, rfl, by simp⟩

theorem execDeactivateOnuId_kept (n : LaneId) (s : State) : ∃ v, (execDeactivateOnuId n s) = .next v ∧ Kept s v :=
  ⟨_, rfl, by simp⟩

theorem execDisableSerialNumber_kept (n : LaneId) (s : State) : ∃ v, (execDisableSerialNumber n s) = .next v ∧ Kept s v :=
  ⟨_, rfl, by simp⟩

theorem execAssignAllocId_kept (n : LaneId) (s : State) : ∃ v, (execAssignAllocId n s) = .next v ∧ Kept s v := ⟨_, rfl, by simp⟩

theorem execKeyControl_kept (n : LaneId) (s : State) : ∃ v, (execKeyControl n s) = .next v ∧ Kept s v := ⟨_, rfl, by simp⟩

theorem execPloamUnexpected_kept (n : LaneId) (s : State) : ∃ v, (execPloamUnexpected n s) = .next v ∧ Kept s v :=
  ⟨_, rfl, by simp⟩

theorem execCompleteUAcknowledged_kept (n : LaneId) (s : State) : ∃ v, (execCompleteUAcknowledged n s) = .next v ∧ Kept s v :=
  ⟨_, rfl, by simp⟩

theorem execOldGenWipe_kept (slot : Fin 16) (s : State) : ∃ v, (execOldGenWipe slot s) = .next v ∧ Kept s v := by
  refine ⟨_, rfl, ?_⟩; dsimp only; (repeat' split) <;> simp

@[simp] theorem KeyIsland.derived_busy (k : KeyIsland) (n : KeyName) : (k.derived n).busy = k.busy := rfl

theorem State.kept_of_cacheEnter {s t : State} {e : CacheEntry} {b : Bool} (h : s.cacheEnter e = (t, b)) : Kept s t := by
  simpa [h] using State.cacheEnter_kept s e

theorem execKeyDerive_kept (s : State) : ∃ v, (execKeyDerive s) = .next v ∧ Kept s v := by
  refine ⟨_, rfl, ?_⟩
  split
  · simp
  split
  · simp
  dsimp only
  split
  · simp
  · next henter => simp [State.kept_of_cacheEnter henter]

theorem execKeyRequestTimeout_kept (u : CipherUnit) (s : State) : ∃ v, (execKeyRequestTimeout u s) = .next v ∧ Kept s v := by
  refine ⟨_, rfl, ?_⟩; dsimp only; (repeat' split) <;> simp

theorem execKeyRngRead_kept (p : Port) (s : State) : ∃ v, (execKeyRngRead p s) = .next v ∧ Kept s v :=
  ⟨_, rfl, Kept.readAt fun _ => by simp⟩

theorem execClearDisable_kept (p : Port) (q : QuadId) (slice : BitVec 5) (s : State) :
    ∃ v, (execClearDisable p q slice s) = .next v ∧ Kept s v :=
  ⟨_, rfl, Kept.writeAt fun _ => by simp⟩

theorem execStwCmdDone_kept (q : QuadId) (bytes : List Byte) (ok : Bool) (s : State) :
    ∃ v, (execStwCmdDone q bytes ok s) = .next v ∧ Kept s v := by
  refine ⟨_, rfl, ?_⟩; (repeat' split) <;> simp

theorem execKeyReady_kept (s : State) : ∃ v, (execKeyReady s) = .next v ∧ Kept s v := by
  refine ⟨_, rfl, ?_⟩; split <;> simp

theorem execKeyLaAccess_kept (p : Port) (acc : Option W32) (s : State) : ∃ v, (execKeyLaAccess p acc s) = .next v ∧ Kept s v := by
  refine ⟨_, rfl, ?_⟩
  split
  · exact Kept.readAt fun _ => by simp
  · exact Kept.writeAt fun _ => by simp

theorem execGrant_kept (n : LaneId) (ns : Nat) (s : State) : ∃ v, (execGrant n ns s) = .next v ∧ Kept s v := by
  refine ⟨_, rfl, ?_⟩; dsimp only; (repeat' split) <;> simp

theorem execWellScan_kept (s : State) : ∃ v, (execWellScan s) = .next v ∧ Kept s v := ⟨_, rfl, by simp⟩

theorem execWellFlushRecord_kept (ok : Bool) (s : State) : ∃ v, (execWellFlushRecord ok s) = .next v ∧ Kept s v :=
  ⟨_, rfl, by simp⟩

theorem execWellCmdDone_kept (s : State) : ∃ v, (execWellCmdDone s) = .next v ∧ Kept s v := ⟨_, rfl, by simp⟩

theorem execSprDataAccess_kept (p : Port) (acc : Option W32) (s : State) :
    ∃ v, (execSprDataAccess p acc s) = .next v ∧ Kept s v := by
  refine ⟨_, rfl, ?_⟩
  split
  · exact Kept.writeAt fun _ => by simp
  · exact Kept.readAt fun _ => by simp

theorem execTribSeal_kept (n : LaneId) (t : Fin 64) (s : State) : ∃ v, (execTribSeal n t s) = .next v ∧ Kept s v := by
  refine ⟨_, rfl, ?_⟩; dsimp only; (repeat' split) <;> simp

@[simp] theorem State.twAddr_kept (s : State) (off : W32) : Kept s (s.twAddr off).2 := (State.twAddr_only _ _).kept rfl rfl

theorem State.kept_of_twAddr {s t : State} {off : W32} {a : Option Nat} (h : s.twAddr off = (a, t)) : Kept s t := by
  simpa [h] using State.twAddr_kept s off

theorem execTwRead_kept (addr : BitVec 7) (off : W32) (s : State) : ∃ v, (execTwRead addr off s) = .next v ∧ Kept s v := by
  refine ⟨_, rfl, ?_⟩
  split
  · simp
  split
  · next haddr => simp [State.kept_of_twAddr haddr]
  · next haddr => simp [State.kept_of_twAddr haddr]

theorem execZeroNRise_kept (s : State) : ∃ v, (execZeroNRise s) = .next v ∧ Kept s v := by
  refine ⟨_, rfl, ?_⟩; split <;> simp

theorem execTrngFail_kept (raw : List Bool) (s : State) : ∃ v, (execTrngFail raw s) = .next v ∧ Kept s v := by
  refine ⟨_, rfl, ?_⟩; split <;> simp

theorem execTrngRecover_kept (passed : Nat) (s : State) : ∃ v, (execTrngRecover passed s) = .next v ∧ Kept s v := by
  refine ⟨_, rfl, ?_⟩; split <;> simp

theorem execDrbgReseed_kept (s : State) : ∃ v, (execDrbgReseed s) = .next v ∧ Kept s v := ⟨_, rfl, by simp⟩

end Sys2Proof.Machine
end

/-!
The monotonic counters of the vault over one step (R415).
-/
section
namespace Sys2Proof.Machine

/-! ### What may happen to the counters and to the command in progress -/

/-- A MONO_INCR in progress names a counter that can still rise (R415). -/
def State.IncrPossible (s : State) : Prop :=
  ∀ c : BitVec 4, s.key.busy = some (.monoIncr c) → vget 0 s.vault.mono (c.toNat - 4) ≠ BitVec.allOnes 32

/-- No counter has fallen, no host counter has moved, and no MONO_INCR has begun that its counter could not take. -/
structure Grows (s t : State) : Prop where
  floor : s.vault.floor.toNat ≤ t.vault.floor.toNat
  sealStart : s.vault.sealStart.toNat ≤ t.vault.sealStart.toNat
  powerCycles : s.vault.powerCycles.toNat ≤ t.vault.powerCycles.toNat
  operatingS : s.vault.operatingS.toNat ≤ t.vault.operatingS.toNat
  mono : t.vault.mono = s.vault.mono
  incr : s.IncrPossible → t.IncrPossible

theorem Grows.trans {s t u : State} (h : Grows s t) (k : Grows t u) : Grows s u where
  floor := h.floor.trans k.floor
  sealStart := h.sealStart.trans k.sealStart
  powerCycles := h.powerCycles.trans k.powerCycles
  operatingS := h.operatingS.trans k.operatingS
  mono := k.mono.trans h.mono
  incr := k.incr ∘ h.incr

/-- Where the counters stay, a command that is not a new MONO_INCR keeps everything. -/
theorem Grows.of_marks {s t : State} (hm : t.vault.marks = s.vault.marks)
    (hb : ∀ c, t.key.busy = some (.monoIncr c) → s.key.busy = some (.monoIncr c)) : Grows s t := by
  simp only [Vault.marks, Prod.mk.injEq] at hm
  obtain ⟨hf, hs, hp, ho, hv⟩ := hm
  exact ⟨by rw [hf], by rw [hs], by rw [hp], by rw [ho], hv, fun h c hc => by rw [hv]; exact h c (hb c hc)⟩

theorem Grows.of_kept {s t : State} (h : Kept s t) : Grows s t := .of_marks h.1 fun _ hc => h.2 ▸ hc

theorem Grows.of_idle {s t : State} (hm : t.vault.marks = s.vault.marks) (hb : t.key.busy = none) : Grows s t :=
  .of_marks hm fun c hc => by simp [hb] at hc

/-- Operations that keep both may follow. -/
theorem Grows.kept {s t u : State} (h : Grows s t) (k : Kept t u) : Grows s u := h.trans (.of_kept k)

theorem Grows.refl (s : State) : Grows s s := .of_kept ⟨rfl, rfl⟩

@[simp] theorem State.sysWrite_kept (s : State) (off : Nat) (w : W32) : Kept s (State.sysWrite s off w) :=
  (State.sysWrite_only _ _ _).kept rfl rfl
@[simp] theorem State.strWrite_kept (s : State) (off : Nat) (w : W32) : Kept s (State.strWrite s off w) :=
  (State.strWrite_only _ _ _).kept rfl rfl
@[simp] theorem State.pwrWrite_kept (s : State) (off : Nat) (w : W32) : Kept s (State.pwrWrite s off w) :=
  (State.pwrWrite_only _ _ _).kept rfl rfl
@[simp] theorem State.evtWrite_kept (s : State) (off : Nat) (w : W32) : Kept s (State.evtWrite s off w) :=
  (State.evtWrite_only _ _ _).kept rfl rfl
@[simp] theorem State.welWrite_kept (s : State) (off : Nat) (v : W32) : Kept s (State.welWrite s off v) :=
  (State.welWrite_only _ _ _).kept rfl rfl
@[simp] theorem State.talWrite_kept (s : State) (off : Nat) (w : W32) : Kept s (State.talWrite s off w) :=
  (State.talWrite_only _ _ _).kept rfl rfl
@[simp] theorem State.timWrite_kept (s : State) (off : Nat) (w : W32) : Kept s (State.timWrite s off w) :=
  (State.timWrite_only _ _ _).kept rfl rfl
@[simp] theorem State.hifWrite_kept (s : State) (off : Nat) (w : W32) : Kept s (State.hifWrite s off w) :=
  (State.hifWrite_only _ _ _).kept rfl rfl
@[simp] theorem State.cstWrite_kept (s : State) (off : Nat) (w : W32) : Kept s (State.cstWrite s off w) :=
  (State.cstWrite_only _ _ _).kept rfl rfl
@[simp] theorem State.skwWrite_kept (s : State) (off : Nat) (w : W32) : Kept s (State.skwWrite s off w) :=
  (State.skwWrite_only _ _ _).kept rfl rfl
@[simp] theorem State.fbkWrite_kept (s : State) (off : Nat) (w : W32) : Kept s (State.fbkWrite s off w) :=
  (State.fbkWrite_only _ _ _).kept rfl rfl
@[simp] theorem State.laneIslWrite_kept (s : State) (n : LaneId) (off : Nat) (w : W32) : Kept s (State.laneIslWrite s n off w) :=
  (State.laneIslWrite_only _ _ _ _).kept rfl rfl
@[simp] theorem State.coreWrite_kept (s : State) (k off : Nat) (w : W32) : Kept s (State.coreWrite s k off w) :=
  (State.coreWrite_only _ _ _ _).kept rfl rfl
@[simp] theorem State.bar2Any_kept (s : State) (a : Nat) (w : W32) : Kept s (State.bar2Any s a w) :=
  (State.bar2Any_only _ _ _).kept rfl rfl
@[simp] theorem State.bar4Write_kept (s : State) (off : Nat) (w : W32) : Kept s (State.bar4Write s off w) :=
  (State.bar4Write_only _ _ _).kept rfl rfl
@[simp] theorem State.vaultFail_kept (s : State) : Kept s (State.vaultFail s) := (State.vaultFail_only _).kept rfl rfl
@[simp] theorem State.strDone_kept (s : State) (f : Loader → Loader) : Kept s (State.strDone s f) :=
  (State.strDone_only _ _).kept rfl rfl
@[simp] theorem State.strFail_kept (s : State) (e : Byte) : Kept s (State.strFail s e) := (State.strFail_only _ _).kept rfl rfl
@[simp] theorem State.commitFails_kept (s : State) : Kept s (State.commitFails s) := (State.commitFails_only _).kept rfl rfl
@[simp] theorem State.twDiscard_kept (s : State) : Kept s (State.twDiscard s) := (State.twDiscard_only _).kept rfl rfl
@[simp] theorem State.zeroiseLane_kept (s : State) (n : LaneId) : Kept s (State.zeroiseLane s n) :=
  (State.zeroiseLane_only _ _).kept rfl rfl
@[simp] theorem State.applied_kept (s : State) (b : List Byte) (mask : BitVec 4) (us : W32) : Kept s (State.applied s b mask us) :=
  (State.applied_only _ _ _ _).kept rfl rfl
@[simp] theorem State.bootDone_kept (s : State) : Kept s (State.bootDone s) := (State.bootDone_only _).kept rfl rfl
@[simp] theorem State.startStewards_kept (s : State) : Kept s (State.startStewards s) := (State.startStewards_only _).kept rfl rfl

theorem Grows.ite {s a b : State} {c : Prop} [Decidable c] (ha : Grows s a) (hb : Grows s b) : Grows s (if c then a else b) := by
  split <;> assumption

/-! ### KEY_CMD (R393) -/

@[simp] theorem State.keyEnd_busy (s : State) (e : BitVec 4) : (s.keyEnd e).key.busy = none := by simp [State.keyEnd]

@[simp] theorem State.keyEnd_marks (s : State) (e : BitVec 4) : (s.keyEnd e).vault.marks = s.vault.marks := by simp [State.keyEnd]

theorem State.keyEnd_grows (s : State) (e : BitVec 4) : Grows s (s.keyEnd e) := .of_idle (by simp) (by simp)

theorem State.keyStart_grows {s : State} {o : KeyOp} (ho : ∀ c, o ≠ .monoIncr c) : Grows s (s.keyStart o) :=
  .of_marks (by simp [State.keyStart]) fun c hc => absurd (by simpa [State.keyStart] using hc) (ho c)

theorem State.importClear_grows (s : State) (c : KeyCmdWord) : Grows s (s.importClear c) := by
  unfold State.importClear
  (repeat' split)
  · exact s.keyEnd_grows _
  · exact s.keyEnd_grows _
  · exact State.keyStart_grows fun _ => by simp

theorem State.importWrapped_grows (s : State) (c : KeyCmdWord) : Grows s (s.importWrapped c) := by
  have hcnt : Grows s (s.keyCnt 0 1) := .of_kept (by simp)
  unfold State.importWrapped
  dsimp only
  (repeat' split)
  · exact s.keyEnd_grows _
  · exact s.keyEnd_grows _
  · exact hcnt.trans (State.keyEnd_grows _ _)
  · exact hcnt.trans (State.keyStart_grows fun _ => by simp)

theorem State.eraseCmd_grows (s : State) (c : KeyCmdWord) : Grows s (s.eraseCmd c) :=
  (State.keyStart_grows fun _ => by simp).trans (.of_kept (State.eraseSlot_kept _ _))

theorem State.mskSet_grows (s : State) (c : KeyCmdWord) : Grows s (s.mskSet c) := by
  unfold State.mskSet
  (repeat' split)
  · exact s.keyEnd_grows _
  · exact s.keyEnd_grows _
  · exact State.keyStart_grows fun _ => by simp

theorem State.mskClear_grows (s : State) (c : KeyCmdWord) : Grows s (s.mskClear c) := by
  unfold State.mskClear
  split
  · exact s.keyEnd_grows _
  · exact State.keyStart_grows fun _ => by simp

theorem State.tamperClear_grows (s : State) (present : Bool) : Grows s (s.tamperClear present) := by
  unfold State.tamperClear
  split
  · exact s.keyEnd_grows _
  · exact State.keyStart_grows fun _ => by simp

/-- MONO_INCR is accepted only for a counter below its largest value. -/
theorem State.monoIncr_grows (s : State) (c : KeyCmdWord) : Grows s (s.monoIncr c) := by
  unfold State.monoIncr
  (repeat' split)
  · exact s.keyEnd_grows _
  · exact (Grows.of_kept (by simp)).trans (State.keyEnd_grows _ _)
  · next hmax =>
    exact ⟨le_rfl, le_rfl, le_rfl, le_rfl, rfl, fun _ d hd => by
      obtain rfl : c.slot = d := by simpa [State.keyStart] using hd
      exact hmax⟩

theorem State.keyCmd_grows (s : State) (op : Nat) (c : KeyCmdWord) (present : Bool) : Grows s (s.keyCmd op c present) := by
  unfold State.keyCmd
  split
  · exact .of_kept (by simp)
  split
  · exact s.importClear_grows c
  · exact s.importWrapped_grows c
  · exact s.eraseCmd_grows c
  · exact State.keyStart_grows fun _ => by simp
  · exact State.keyStart_grows fun _ => by simp
  · exact s.mskSet_grows c
  · exact s.mskClear_grows c
  · exact (State.keyStart_grows fun _ => by simp).trans (.of_kept (State.prefetchAll_kept _))
  · exact s.tamperClear_grows present
  · exact s.monoIncr_grows c
  · exact s.keyEnd_grows 1

theorem State.keyCmdWrite_grows (s : State) (w : W32) : Grows s (s.keyCmdWrite w) :=
  (Grows.of_kept (t := s.tookFree) (by simp)).trans (State.keyCmd_grows _ _ _ _)

/-- An access changes nothing but what its register's write does, or leaves the record of a gated one. -/
theorem Grows.writeAt {s : State} {p : Port} {a : Nat} {ans : Bool} {k : State → State} (hk : ∀ u, Grows u (k u)) :
    Grows s (s.writeAt p a ans k) := by
  unfold State.writeAt
  (repeat' split)
  · exact .refl s
  · exact hk s
  · exact .of_kept (by simp)

theorem State.keyCmdAt_grows (s : State) (p : Port) (op : Nat) (c : KeyCmdWord) (present : Bool) : Grows s (s.keyCmdAt p op c present) :=
  Grows.writeAt fun u => u.keyCmd_grows op c present

/-! ### Register writes -/

theorem State.keyWrite_grows (s : State) (off : Nat) (w : W32) : Grows s (s.keyWrite off w) := by
  unfold State.keyWrite
  (repeat' split)
  · exact s.keyCmdWrite_grows w
  all_goals exact .of_kept (by simp)

theorem toNat_le_add_one {n : Nat} {x : BitVec n} (h : x ≠ BitVec.allOnes n) : x.toNat ≤ (x + 1).toNat := by
  have hx : x.toNat ≠ 2 ^ n - 1 := fun hn => h (BitVec.eq_of_toNat_eq (by simpa using hn))
  have hlt := x.isLt
  have hone : (1#n).toNat ≤ 1 := by simpa using Nat.mod_le 1 (2 ^ n)
  have := BitVec.toNat_add_of_lt (x := x) (y := 1#n) (by omega)
  simp only [BitVec.ofNat_eq_ofNat]
  omega

theorem State.sealStart_grows (s : State) (i : Nat) (t : TribCtx) : Grows s (s.sealStart i t) := by
  unfold State.sealStart
  split
  · exact .of_kept (by simp)
  · next hmax => exact ⟨le_rfl, toNat_le_add_one hmax, le_rfl, le_rfl, rfl, id⟩

theorem State.tribWrite_grows (s : State) (i w : Nat) (v : W32) : Grows s (s.tribWrite i w v) := by
  unfold State.tribWrite
  dsimp only
  split
  · exact .refl s
  generalize (if w = 0 then v &&& 0x7F#32 else v) = v
  (repeat' split)
  · exact .of_kept (by simp)
  · exact .of_kept (by simp)
  · exact s.sealStart_grows _ _
  · exact .of_kept (by simp)

theorem State.ctxWrite_grows (s : State) (v : W32) : Grows s (s.ctxWrite v) := by
  refine Grows.trans ?_ (.of_kept (State.ctxStep_kept _))
  (repeat' split)
  · exact s.tribWrite_grows _ _ v
  · exact .refl s
  · exact .of_kept (by simp)

theorem State.keyIslWrite_grows (s : State) (off : Nat) (w : W32) : Grows s (s.keyIslWrite off w) := by
  unfold State.keyIslWrite
  split
  case h_4 => exact s.ctxWrite_grows w
  case h_6 => exact s.keyWrite_grows _ w
  all_goals exact .of_kept (by simp)

theorem State.regWrite_grows (s : State) (a : Nat) (w : W32) : Grows s (s.regWrite a w) := by
  unfold State.regWrite
  dsimp only
  (repeat' split)
  case h_8 => exact s.keyIslWrite_grows _ w
  all_goals exact .of_kept (by simp)

theorem State.bar0Write_grows (s : State) (p : Port) (a : Nat) (w : W32) : Grows s (s.bar0Write p a w) := by
  unfold State.bar0Write
  dsimp only
  (repeat' split)
  · exact .refl s
  · exact s.regWrite_grows _ w
  · exact .of_kept (by simp)

theorem execRegisterWrite_grows (p : Port) (a : RegAddr) (w : W32) (s : State) :
    ∃ t, execRegisterWrite p a w s = .next t ∧ Grows s t := by
  refine ⟨_, rfl, ?_⟩
  (repeat' split)
  · exact .refl s
  · exact s.bar0Write_grows p _ w
  · exact .of_kept (by simp)
  · exact .of_kept (by simp)
  · exact .refl s

theorem execTwWrite_grows (addr : BitVec 7) (off data : W32) (pec : Option Byte) (s : State) :
    ∃ t, execTwWrite addr off data pec s = .next t ∧ Grows s t := by
  have haddr : Grows s (match s.twAddr off with
      | (some a, s) => s.bar0Write .twoWire a data
      | (none, s) => s) := by
    split
    · next haddr => exact (Grows.of_kept (State.kept_of_twAddr haddr)).trans (State.bar0Write_grows _ _ _ _)
    · next haddr => exact .of_kept (State.kept_of_twAddr haddr)
  exact ⟨_, rfl, .ite (.refl s) (.ite (.of_kept (by simp)) haddr)⟩

/-! ### Boot, reset and the loader (R51, R57) -/

theorem State.toReset_grows (s : State) : Grows s s.toReset := .of_idle rfl rfl

theorem State.raisePowerCycles_grows (s : State) : Grows s s.raisePowerCycles := by
  unfold State.raisePowerCycles
  split
  · exact .of_kept (by simp)
  · next hmax => exact ⟨le_rfl, le_rfl, toNat_le_add_one hmax, le_rfl, rfl, id⟩

/-- The floor is written only with a higher level. -/
theorem State.modVault_floor_grows {s : State} {l : W32} (h : s.vault.floor.toNat < l.toNat) :
    Grows s (s.modVault fun v => { v with floor := l }) :=
  ⟨h.le, le_rfl, le_rfl, le_rfl, rfl, id⟩

theorem State.raiseFloor_grows (s : State) (b : List Byte) : Grows s (s.raiseFloor b) := by
  unfold State.raiseFloor
  split
  · next hlow => exact State.modVault_floor_grows hlow.2
  · exact .refl s

theorem State.bootApplied_grows (s : State) (b : List Byte) : Grows s (s.bootApplied b) := by
  unfold State.bootApplied
  dsimp only
  refine Grows.kept (Grows.kept (Grows.trans (Grows.of_kept (t := s.modStr _) ⟨rfl, rfl⟩) (State.raiseFloor_grows _ b)) ⟨rfl, rfl⟩) (State.bootDone_kept _)

theorem State.commitWord_grows (s : State) (slot : Bool) (res : CommitResult) : Grows s (s.commitWord slot res) := by
  unfold State.commitWord
  split
  · exact .of_kept (by simp)
  dsimp only
  split
  · exact .of_kept (by simp)
  split
  · next hraise =>
    refine .kept (.trans (.of_kept ?_) (State.modVault_floor_grows (of_decide_eq_true hraise))) (State.strDone_kept _ _)
    simp
  · exact .of_kept (by simp)

theorem execPowerUp_grows (s : State) : ∃ t, execPowerUp s = .next t ∧ Grows s t := by
  refine ⟨_, rfl, ?_⟩
  split
  · exact .refl s
  · refine .trans ?_ (State.raisePowerCycles_grows _)
    exact s.toReset_grows.trans (.of_kept ⟨rfl, rfl⟩)

theorem execRailUndervolt_grows (s : State) : ∃ t, execRailUndervolt s = .next t ∧ Grows s t :=
  ⟨_, rfl, s.toReset_grows.trans (.of_kept ⟨rfl, rfl⟩)⟩

theorem execReset_grows (straps : BitVec 2) (s : State) : ∃ t, execReset straps s = .next t ∧ Grows s t := by
  refine ⟨_, rfl, ?_⟩
  split
  · exact .refl s
  refine s.toReset_grows.trans (Grows.of_kept ?_)
  dsimp only
  split <;> simp

theorem execApplyDone_grows (us : W32) (s : State) : ∃ t, execApplyDone us s = .next t ∧ Grows s t := by
  refine ⟨_, rfl, ?_⟩
  dsimp only
  split
  · refine .kept ((Grows.of_kept (State.applied_kept s _ _ us)).trans (.ite (State.bootApplied_grows _ _) (.of_kept ?_)))
      (State.report_kept _ _ _ _)
    simp
  · exact .refl s

theorem execCommitDone_grows (res : CommitResult) (s : State) : ∃ t, execCommitDone res s = .next t ∧ Grows s t := by
  refine ⟨_, rfl, ?_⟩
  (repeat' split)
  · exact s.commitWord_grows _ res
  · exact .of_kept (by simp)
  · exact (Grows.of_kept (State.copied_kept s _)).trans (State.commitWord_grows _ _ res)
  · exact .refl s

/-! ### The vault -/

theorem State.zeroiseSteps_grows (s : State) : Grows s s.zeroiseSteps :=
  .of_idle (by simp [State.zeroiseSteps]) (by simp [State.zeroiseSteps])

/-- Zeroisation, with or without the erasure of the root slots, and its event. -/
theorem State.wiped_grows {s u : State} {erases : Bool} {e : Nat} {sev : BitVec 3} {detail : List Byte} (hu : Kept s u) :
    Grows s ((if erases then u.zeroiseSteps.eraseRoots else u.zeroiseSteps).report e sev detail) :=
  have hz : Grows s u.zeroiseSteps := .trans (.of_kept hu) u.zeroiseSteps_grows
  .kept (.ite (hz.kept (State.eraseRoots_kept _)) hz) (State.report_kept _ _ _ _)

theorem execZeroise_grows (lowNs : Nat) (s : State) : ∃ t, execZeroise lowNs s = .next t ∧ Grows s t := by
  refine ⟨_, rfl, ?_⟩
  split
  · exact .refl s
  exact State.wiped_grows ⟨by simp, by simp⟩

theorem execTamper_grows (cause : TamperCause) (s : State) : ∃ t, execTamper cause s = .next t ∧ Grows s t := by
  refine ⟨_, rfl, ?_⟩
  split
  · exact .refl s
  exact State.wiped_grows ⟨by simp, by simp⟩

theorem State.modVault_operatingS_grows {s : State} (h : s.vault.operatingS.toNat + 60 < 2 ^ 32) :
    Grows s (s.modVault fun v => { v with operatingS := v.operatingS + 60 }) := by
  refine ⟨le_rfl, le_rfl, le_rfl, ?_, rfl, id⟩
  change s.vault.operatingS.toNat ≤ (s.vault.operatingS + 60).toNat
  rw [BitVec.toNat_add_of_lt h]
  exact Nat.le_add_right _ _

theorem execOperatingMinute_grows (s : State) : ∃ t, execOperatingMinute s = .next t ∧ Grows s t := by
  refine ⟨_, rfl, ?_⟩
  dsimp only
  split
  · exact .of_kept (by simp)
  · next hroom =>
    refine .trans ?_ (State.modVault_operatingS_grows (Nat.lt_of_not_le hroom))
    exact .of_kept ⟨rfl, rfl⟩

theorem execKeyCtxAccess_grows (p : Port) (acc : Option W32) (s : State) :
    ∃ t, execKeyCtxAccess p acc s = .next t ∧ Grows s t := by
  refine ⟨_, rfl, ?_⟩
  split
  · exact .of_kept (Kept.readAt fun _ => by simp)
  · exact Grows.writeAt fun u => u.ctxWrite_grows _

theorem execImportDone_grows (ok : Bool) (s : State) : ∃ t, execImportDone ok s = .next t ∧ Grows s t := by
  refine ⟨_, rfl, ?_⟩
  (repeat' split)
  · exact .refl s
  · exact (Grows.of_kept (State.importTake_kept _ _ _ _ _)).trans (State.keyEnd_grows _ _)
  · exact (Grows.of_kept (State.vaultFail_kept _)).trans (State.keyEnd_grows _ _)
  · exact .refl s

theorem execEraseDone_grows (ok : Bool) (s : State) : ∃ t, execEraseDone ok s = .next t ∧ Grows s t := by
  refine ⟨_, rfl, ?_⟩
  have hdone : Kept s (if ok then (List.range 16).foldl State.slotErased s else s.vaultFail) := by
    split <;> simp
  dsimp only
  refine .ite (.refl s) (.ite (.trans (.of_kept hdone) (State.keyEnd_grows _ _)) (.ite (.of_kept hdone) (.kept (.of_kept hdone) ?_)))
  simp

/-! ### Every command but the end of a MONO_INCR -/

theorem Grows.of_next {s t : State} {r : Res} (h : ∃ u, r = .next u ∧ Grows s u) (ht : r = .next t) : Grows s t := by
  obtain ⟨u, hu, hg⟩ := h
  obtain rfl : u = t := by simpa [hu] using ht
  exact hg

theorem Grows.of_next_kept {s t : State} {r : Res} (h : ∃ u, r = .next u ∧ Kept s u) (ht : r = .next t) : Grows s t :=
  .of_next (h.imp fun _ hu => hu.imp_right .of_kept) ht

/-- A command that touches neither the vault nor the key island. -/
theorem Grows.of_touches {c : Instr} {s t : State} (hv : (touches c).contains .vault = false) (hk : (touches c).contains .key = false)
    (h : exec c s = .next t) : Grows s t :=
  .of_kept ((touches_of_exec h).kept hv hk)

theorem exec_grows {c : Instr} {s t : State} (hc : ∀ bytes ok, c ≠ .keyCmdDone bytes ok) (h : exec c s = .next t) : Grows s t := by
  cases c
  case keyCmdDone bytes ok => exact absurd rfl (hc bytes ok)
  case cipherDispatch => exact .of_next_kept (execCipherDispatch_kept _ _) h
  case coreJobDone => exact .of_next_kept (execCoreJobDone_kept _ _) h
  case lookasideFetch => exact .of_next_kept (execLookasideFetch_kept _ _) h
  case burstProfileMsg => exact .of_next_kept (execBurstProfileMsg_kept _ _) h
  case assignOnuId => exact .of_next_kept (execAssignOnuId_kept _ _) h
  case rangingTime => exact .of_next_kept (execRangingTime_kept _ _) h
  case tuningControl => exact .of_next_kept (execTuningControl_kept _ _) h
  case channelProfile => exact .of_next_kept (execChannelProfile_kept _ _) h
  case deactivateOnuId => exact .of_next_kept (execDeactivateOnuId_kept _ _) h
  case disableSerialNumber => exact .of_next_kept (execDisableSerialNumber_kept _ _) h
  case assignAllocId => exact .of_next_kept (execAssignAllocId_kept _ _) h
  case keyControl => exact .of_next_kept (execKeyControl_kept _ _) h
  case ploamUnexpected => exact .of_next_kept (execPloamUnexpected_kept _ _) h
  case completeUAcknowledged => exact .of_next_kept (execCompleteUAcknowledged_kept _ _) h
  case oldGenWipe => exact .of_next_kept (execOldGenWipe_kept _ _) h
  case keyDerive => exact .of_next_kept (execKeyDerive_kept _) h
  case keyRequestTimeout => exact .of_next_kept (execKeyRequestTimeout_kept _ _) h
  case keyRngRead => exact .of_next_kept (execKeyRngRead_kept _ _) h
  case clearDisable => exact .of_next_kept (execClearDisable_kept _ _ _ _) h
  case stwCmdDone => exact .of_next_kept (execStwCmdDone_kept _ _ _ _) h
  case keyReady => exact .of_next_kept (execKeyReady_kept _) h
  case keyLaAccess => exact .of_next_kept (execKeyLaAccess_kept _ _ _) h
  case grant => exact .of_next_kept (execGrant_kept _ _ _) h
  case wellScan => exact .of_next_kept (execWellScan_kept _) h
  case wellFlushRecord => exact .of_next_kept (execWellFlushRecord_kept _ _) h
  case wellCmdDone => exact .of_next_kept (execWellCmdDone_kept _) h
  case sprDataAccess => exact .of_next_kept (execSprDataAccess_kept _ _ _) h
  case tribSeal => exact .of_next_kept (execTribSeal_kept _ _ _) h
  case twRead => exact .of_next_kept (execTwRead_kept _ _ _) h
  case zeroNRise => exact .of_next_kept (execZeroNRise_kept _) h
  case trngFail => exact .of_next_kept (execTrngFail_kept _ _) h
  case trngRecover => exact .of_next_kept (execTrngRecover_kept _ _) h
  case drbgReseed => exact .of_next_kept (execDrbgReseed_kept _) h
  case registerWrite => exact .of_next (execRegisterWrite_grows _ _ _ _) h
  case twWrite => exact .of_next (execTwWrite_grows _ _ _ _ _) h
  case powerUp => exact .of_next (execPowerUp_grows _) h
  case railUndervolt => exact .of_next (execRailUndervolt_grows _) h
  case reset => exact .of_next (execReset_grows _ _) h
  case applyDone => exact .of_next (execApplyDone_grows _ _) h
  case commitDone => exact .of_next (execCommitDone_grows _ _) h
  case zeroise => exact .of_next (execZeroise_grows _ _) h
  case tamper => exact .of_next (execTamper_grows _ _) h
  case operatingMinute => exact .of_next (execOperatingMinute_grows _) h
  case keyCtxAccess => exact .of_next (execKeyCtxAccess_grows _ _ _) h
  case importDone => exact .of_next (execImportDone_grows _ _) h
  case eraseDone => exact .of_next (execEraseDone_grows _ _) h
  case importClear => exact .of_next ⟨_, rfl, State.keyCmdAt_grows _ _ _ _ _⟩ h
  case importWrapped => exact .of_next ⟨_, rfl, State.keyCmdAt_grows _ _ _ _ _⟩ h
  case erase => exact .of_next ⟨_, rfl, State.keyCmdAt_grows _ _ _ _ _⟩ h
  case closeProv => exact .of_next ⟨_, rfl, State.keyCmdAt_grows _ _ _ _ _⟩ h
  case vkInstall => exact .of_next ⟨_, rfl, State.keyCmdAt_grows _ _ _ _ _⟩ h
  case mskSet => exact .of_next ⟨_, rfl, State.keyCmdAt_grows _ _ _ _ _⟩ h
  case mskClear => exact .of_next ⟨_, rfl, State.keyCmdAt_grows _ _ _ _ _⟩ h
  case prefetch => exact .of_next ⟨_, rfl, State.keyCmdAt_grows _ _ _ _ _⟩ h
  case tamperClear => exact .of_next ⟨_, rfl, State.keyCmdAt_grows _ _ _ _ _⟩ h
  case monoIncr => exact .of_next ⟨_, rfl, State.keyCmdAt_grows _ _ _ _ _⟩ h
  all_goals exact .of_touches rfl rfl h

/-! ### The end of a command (R415) -/

theorem State.vaultFail_keyEnd_grows (s : State) (e : BitVec 4) : Grows s (s.vaultFail.keyEnd e) :=
  (Grows.of_kept s.vaultFail_kept).trans (State.keyEnd_grows _ e)

/-- Only the end of a MONO_INCR moves a host counter. -/
theorem execKeyCmdDone_grows {bytes : List Byte} {ok : Bool} {s : State} (hbusy : ∀ c, s.key.busy ≠ some (.monoIncr c)) :
    ∃ t, execKeyCmdDone bytes ok s = .next t ∧ Grows s t := by
  refine ⟨_, rfl, ?_⟩
  split
  · exact .ite (.of_idle (by simp) (by simp)) (s.vaultFail_keyEnd_grows 7)
  · exact .ite (s.keyEnd_grows 8) (.ite (.of_idle (by simp) (by simp)) (s.vaultFail_keyEnd_grows 7))
  · exact .of_idle (by simp) (by simp)
  · exact .of_idle (by simp) (by simp)
  · exact s.keyEnd_grows 0
  · exact .ite (.kept (.of_idle (t := State.keyEnd _ 0) (by simp) (by simp)) (State.endCond_kept _ _)) (s.vaultFail_keyEnd_grows 7)
  · next c hc => exact absurd hc (hbusy c)
  · exact .refl s

theorem exec_keyCmdDone_monoIncr {bytes : List Byte} {ok : Bool} {s : State} {c : BitVec 4} (hbusy : s.key.busy = some (.monoIncr c)) :
    exec (.keyCmdDone bytes ok) s =
      .next (s.keyWritten ok fun v => { v with mono := vmod v.mono (c.toNat - 4) (· + 1) }) := by
  simp only [exec, execKeyCmdDone, hbusy]

/-- A command either lets all counters stand or rise by themselves, or it ends a MONO_INCR with success. -/
theorem exec_grows_or_monoIncr {c : Instr} {s t : State} (h : exec c s = .next t) :
    Grows s t ∨ ∃ k, s.key.busy = some (.monoIncr k) ∧ t.key.busy = none ∧
      t.vault = { s.vault with mono := vmod s.vault.mono (k.toNat - 4) (· + 1) } := by
  by_cases hc : ∃ bytes ok, c = .keyCmdDone bytes ok
  · obtain ⟨bytes, ok, rfl⟩ := hc
    by_cases hbusy : ∃ k, s.key.busy = some (.monoIncr k)
    · obtain ⟨k, hk⟩ := hbusy
      rw [exec_keyCmdDone_monoIncr hk, State.keyWritten] at h
      obtain rfl := Host.Outcome.next.inj h
      cases ok
      · exact .inl (s.vaultFail_keyEnd_grows 7)
      · exact .inr ⟨k, hk, by simp, by simp [State.keyEnd]⟩
    · exact .inl (.of_next (execKeyCmdDone_grows (not_exists.mp hbusy)) h)
  · exact .inl (exec_grows (by simpa using hc) h)

theorem step_grows_or_monoIncr {s t : State} (h : step s = .next t) :
    Grows s t ∨ ∃ k, s.key.busy = some (.monoIncr k) ∧ t.key.busy = none ∧
      t.vault = { s.vault with mono := vmod s.vault.mono (k.toNat - 4) (· + 1) } := by
  unfold step at h
  split at h
  · obtain rfl := Host.Outcome.next.inj h
    exact .inl (.of_kept ((State.idle_only s).kept rfl rfl))
  · next c rest hq =>
    have hrest : Grows s { s with pending := rest } := .of_kept ⟨rfl, rfl⟩
    exact (exec_grows_or_monoIncr h).imp_left hrest.trans

/-- Settles O53: beside the counters that only rise, a host counter moves at the end of a MONO_INCR, which its premise keeps from wrapping. -/
theorem monotonicCountersNeverDecrease : Obligations.MonotonicCountersNeverDecrease := by
  intro s t hincr h
  rcases step_grows_or_monoIncr h with hg | ⟨k, hk, -, hv⟩
  · exact ⟨hg.floor, hg.sealStart, hg.powerCycles, hg.operatingS, fun i => by rw [hg.mono]⟩
  · refine ⟨by rw [hv], by rw [hv], by rw [hv], by rw [hv], fun i => ?_⟩
    rw [hv, getElem_vmod i.isLt]
    split
    · next hi =>
      have hmax := hincr k hk
      rw [hi, vget_fin] at hmax
      exact toNat_le_add_one hmax
    · exact le_rfl

/-- Settles O54: a MONO_INCR begins only on a counter below its largest value, and the counters stand still until it ends. -/
theorem acceptedIncrementsStayPossible : Obligations.AcceptedIncrementsStayPossible := by
  intro s t hincr h c hc
  rcases step_grows_or_monoIncr h with hg | ⟨k, -, hidle, -⟩
  · exact hg.incr hincr c hc
  · simp [hidle] at hc

end Sys2Proof.Machine
end

/-!
The latches of low-word reads (R562): a read that latches puts its word into one port's table, and nothing else moves them.
-/
section
namespace Sys2Proof.Machine

/-- Both ports' latch tables have their canonical form. -/
def State.LatchesWf (s : State) : Prop := Tab.wf 0#32 s.latchPcie = true ∧ Tab.wf 0#32 s.latchTw = true

theorem Only.latchesWf {ps : List Part} {s t : State} (h : Only ps s t) (hp : ps.contains .latches = false) (hs : s.LatchesWf) :
    t.LatchesWf := by
  obtain ⟨hpcie, htw⟩ : t.latchPcie = s.latchPcie ∧ t.latchTw = s.latchTw := h .latches hp
  rwa [State.LatchesWf, hpcie, htw]

@[simp] theorem State.latch_latchesWf {s : State} (p : Port) (a : Nat) (w : W32) (h : s.LatchesWf) : (s.latch p a w).LatchesWf := by
  obtain ⟨hpcie, htw⟩ := h
  cases p
  case pcie => exact ⟨Tab.wf_put a w hpcie, htw⟩
  case twoWire => exact ⟨hpcie, Tab.wf_put a w htw⟩

@[simp] theorem State.readLow_latchesWf {s : State} (p : Port) (hi : Nat) (v : W64) (h : s.LatchesWf) : (s.readLow p hi v).2.LatchesWf :=
  State.latch_latchesWf p hi _ h

@[simp] theorem State.readPair_latchesWf {s : State} (p : Port) (key : Nat) (v : W64) (odd : Bool) (h : s.LatchesWf) :
    (s.readPair p key v odd).2.LatchesWf := by
  cases odd
  case false => exact State.readLow_latchesWf p key v h
  case true => exact h

@[simp] theorem State.half_latchesWf {s : State} (p : Port) (key : Nat) (v : W64) (high : Bool) (h : s.LatchesWf) :
    (s.half p key v high).2.LatchesWf :=
  State.readPair_latchesWf p key v high h

theorem State.latchesWf_snd_ite {c : Prop} [Decidable c] {a b : W32 × State} (ha : a.2.LatchesWf) (hb : b.2.LatchesWf) :
    (if c then a else b).2.LatchesWf := by
  split <;> assumption

theorem State.latchesWf_ite {c : Prop} [Decidable c] {a b : State} (ha : a.LatchesWf) (hb : b.LatchesWf) :
    (if c then a else b).LatchesWf := by
  split <;> assumption

@[simp] theorem State.clsRead_latchesWf {s : State} (q : Nat) (off : Nat) (h : s.LatchesWf) :
    State.LatchesWf (State.clsRead s q off).2 :=
  (State.clsRead_only _ _ _).latchesWf rfl h

@[simp] theorem State.coreRead_latchesWf {s : State} (k off : Nat) (h : s.LatchesWf) :
    State.LatchesWf (State.coreRead s k off).2 :=
  (State.coreRead_only _ _ _).latchesWf rfl h

@[simp] theorem State.ctxStep_latchesWf {s : State}  (h : s.LatchesWf) :
    State.LatchesWf (State.ctxStep s) :=
  (State.ctxStep_only _).latchesWf rfl h

@[simp] theorem State.emit_latchesWf {s : State} (o : Out) (h : s.LatchesWf) :
    State.LatchesWf (State.emit s o) :=
  (State.emit_only _ _).latchesWf rfl h

@[simp] theorem State.evtRead_latchesWf {s : State} (off : Nat) (h : s.LatchesWf) :
    State.LatchesWf (State.evtRead s off).2 :=
  (State.evtRead_only _ _).latchesWf rfl h

@[simp] theorem State.gatedRecord_latchesWf {s : State} (p : Port) (a : Nat) (write : Bool) (h : s.LatchesWf) :
    State.LatchesWf (State.gatedRecord s p a write) :=
  (State.gatedRecord_only _ _ _ _).latchesWf rfl h

@[simp] theorem State.hifRead_latchesWf {s : State} (off : Nat) (h : s.LatchesWf) :
    State.LatchesWf (State.hifRead s off).2 :=
  (State.hifRead_only _ _).latchesWf rfl h

@[simp] theorem State.keyRng_latchesWf {s : State}  (h : s.LatchesWf) :
    State.LatchesWf (State.keyRng s).2 :=
  (State.keyRng_only _).latchesWf rfl h

@[simp] theorem State.lastERead_latchesWf {s : State}  (h : s.LatchesWf) :
    State.LatchesWf (State.lastERead s).2 :=
  (State.lastERead_only _).latchesWf rfl h

@[simp] theorem State.modDs_latchesWf {s : State} (n : LaneId) (f : LineDs → LineDs) (h : s.LatchesWf) :
    State.LatchesWf (State.modDs s n f) :=
  (State.modDs_only _ _ _).latchesWf rfl h

@[simp] theorem State.modEth_latchesWf {s : State} (n : LaneId) (f : EthPort → EthPort) (h : s.LatchesWf) :
    State.LatchesWf (State.modEth s n f) :=
  (State.modEth_only _ _ _).latchesWf rfl h

@[simp] theorem State.modKey_latchesWf {s : State} (f : KeyIsland → KeyIsland) (h : s.LatchesWf) :
    State.LatchesWf (State.modKey s f) :=
  (State.modKey_only _ _).latchesWf rfl h

@[simp] theorem State.modPump_latchesWf {s : State} (n : LaneId) (f : Pump → Pump) (h : s.LatchesWf) :
    State.LatchesWf (State.modPump s n f) :=
  (State.modPump_only _ _ _).latchesWf rfl h

@[simp] theorem State.modSdh_latchesWf {s : State} (n : LaneId) (f : SdhPort → SdhPort) (h : s.LatchesWf) :
    State.LatchesWf (State.modSdh s n f) :=
  (State.modSdh_only _ _ _).latchesWf rfl h

@[simp] theorem State.modTim_latchesWf {s : State} (f : Time → Time) (h : s.LatchesWf) :
    State.LatchesWf (State.modTim s f) :=
  (State.modTim_only _ _).latchesWf rfl h

@[simp] theorem State.polStep_latchesWf {s : State} (q : Nat) (h : s.LatchesWf) :
    State.LatchesWf (State.polStep s q) :=
  (State.polStep_only _ _).latchesWf rfl h

@[simp] theorem State.portRead_latchesWf {s : State} (q : Nat) (down : Bool) (k w : Nat) (h : s.LatchesWf) :
    State.LatchesWf (State.portRead s q down k w).2 :=
  (State.portRead_only _ _ _ _ _).latchesWf rfl h

@[simp] theorem State.skwRead_latchesWf {s : State} (off : Nat) (h : s.LatchesWf) :
    State.LatchesWf (State.skwRead s off).2 :=
  (State.skwRead_only _ _).latchesWf rfl h

@[simp] theorem State.strRead_latchesWf {s : State} (off : Nat) (h : s.LatchesWf) :
    State.LatchesWf (State.strRead s off).2 :=
  (State.strRead_only _ _).latchesWf rfl h

@[simp] theorem State.stwRead_latchesWf {s : State} (q : QuadId) (off : Nat) (h : s.LatchesWf) :
    State.LatchesWf (State.stwRead s q off).2 :=
  (State.stwRead_only _ _ _).latchesWf rfl h

@[simp] theorem State.tmStep_latchesWf {s : State} (q : Nat) (down : Bool) (h : s.LatchesWf) :
    State.LatchesWf (State.tmStep s q down) :=
  (State.tmStep_only _ _ _).latchesWf rfl h

@[simp] theorem State.txqDropsRead_latchesWf {s : State}  (h : s.LatchesWf) :
    State.LatchesWf (State.txqDropsRead s).2 :=
  (State.txqDropsRead_only _).latchesWf rfl h

@[simp] theorem State.welRead_latchesWf {s : State} (off : Nat) (h : s.LatchesWf) :
    State.LatchesWf (State.welRead s off).2 :=
  (State.welRead_only _ _).latchesWf rfl h

@[simp] theorem State.tookFree_latchesWf {s : State}  (h : s.LatchesWf) :
    State.LatchesWf (State.tookFree s) :=
  (State.tookFree_only _).latchesWf rfl h

@[simp] theorem State.laRead_latchesWf {s : State}  (h : s.LatchesWf) :
    State.LatchesWf (State.laRead s).2 :=
  (State.laRead_only _).latchesWf rfl h

@[simp] theorem State.frgRead_latchesWf {s : State} (i : Nat) (h : s.LatchesWf) :
    State.LatchesWf (State.frgRead s i).2 :=
  (State.frgRead_only _ _).latchesWf rfl h

@[simp] theorem State.sprRead_latchesWf {s : State} (off : Nat) (h : s.LatchesWf) :
    State.LatchesWf (State.sprRead s off).2 :=
  (State.sprRead_only _ _).latchesWf rfl h

@[simp] theorem State.laneRead_latchesWf {s : State} (n : LaneId) (off : Nat) (h : s.LatchesWf) :
    State.LatchesWf (State.laneRead s n off).2 :=
  (State.laneRead_only _ _ _).latchesWf rfl h

@[simp] theorem State.dsWinWrite_latchesWf {s : State} (n : LaneId) (w : W32) (h : s.LatchesWf) :
    State.LatchesWf (State.dsWinWrite s n w) :=
  (State.dsWinWrite_only _ _ _).latchesWf rfl h

@[simp] theorem State.polDataWrite_latchesWf {s : State} (q : Nat) (v : W32) (h : s.LatchesWf) :
    State.LatchesWf (State.polDataWrite s q v) :=
  (State.polDataWrite_only _ _ _).latchesWf rfl h

@[simp] theorem State.tmDataWrite_latchesWf {s : State} (q : Nat) (down : Bool) (v : W32) (h : s.LatchesWf) :
    State.LatchesWf (State.tmDataWrite s q down v) :=
  (State.tmDataWrite_only _ _ _ _).latchesWf rfl h

@[simp] theorem State.ctxWrite_latchesWf {s : State} (v : W32) (h : s.LatchesWf) :
    State.LatchesWf (State.ctxWrite s v) :=
  (State.ctxWrite_only _ _).latchesWf rfl h

@[simp] theorem State.usWinWrite_latchesWf {s : State} (n : LaneId) (w : W32) (h : s.LatchesWf) :
    State.LatchesWf (State.usWinWrite s n w) :=
  (State.usWinWrite_only _ _ _).latchesWf rfl h

@[simp] theorem State.ethWinWrite_latchesWf {s : State} (n : LaneId) (w : W32) (h : s.LatchesWf) :
    State.LatchesWf (State.ethWinWrite s n w) :=
  (State.ethWinWrite_only _ _ _).latchesWf rfl h

@[simp] theorem State.sdhWinWrite_latchesWf {s : State} (n : LaneId) (w : W32) (h : s.LatchesWf) :
    State.LatchesWf (State.sdhWinWrite s n w) :=
  (State.sdhWinWrite_only _ _ _).latchesWf rfl h

@[simp] theorem State.raisePowerCycles_latchesWf {s : State}  (h : s.LatchesWf) :
    State.LatchesWf (State.raisePowerCycles s) :=
  (State.raisePowerCycles_only _).latchesWf rfl h

@[simp] theorem State.bootDone_latchesWf {s : State}  (h : s.LatchesWf) :
    State.LatchesWf (State.bootDone s) :=
  (State.bootDone_only _).latchesWf rfl h

@[simp] theorem State.startStewards_latchesWf {s : State}  (h : s.LatchesWf) :
    State.LatchesWf (State.startStewards s) :=
  (State.startStewards_only _).latchesWf rfl h

@[simp] theorem State.twAddr_latchesWf {s : State} (off : W32) (h : s.LatchesWf) :
    State.LatchesWf (State.twAddr s off).2 :=
  (State.twAddr_only _ _).latchesWf rfl h

@[simp] theorem State.sumpRead_latchesWf {s : State} (p : Port) (h : s.LatchesWf) :
    State.LatchesWf (State.sumpRead s p).2 := by
  unfold State.sumpRead
  dsimp only
  apply State.latchesWf_ite <;> exact State.readPair_latchesWf _ _ _ _ h

@[simp] theorem State.cntItem_latchesWf {n : Nat} {s : State} (p : Port) (key item : Nat) (v : Vector W64 n) (h : s.LatchesWf) :
    State.LatchesWf (State.cntItem s p key item v).2 := by
  unfold State.cntItem; split <;> simp [h]

@[simp] theorem State.fbkCntRead_latchesWf {s : State} (p : Port) (h : s.LatchesWf) :
    State.LatchesWf (State.fbkCntRead s p).2 := by
  simp [State.fbkCntRead, h]

@[simp] theorem State.cphCntRead_latchesWf {s : State} (p : Port) (q : Nat) (h : s.LatchesWf) :
    State.LatchesWf (State.cphCntRead s p q).2 := by
  simp [State.cphCntRead, h]

@[simp] theorem State.cphRead_latchesWf {s : State} (p : Port) (q off : Nat) (h : s.LatchesWf) :
    State.LatchesWf (State.cphRead s p q off).2 := by
  unfold State.cphRead; dsimp only; (repeat' apply State.latchesWf_snd_ite) <;> simp [h]

@[simp] theorem State.fbkRead_latchesWf {s : State} (p : Port) (off : Nat) (h : s.LatchesWf) :
    State.LatchesWf (State.fbkRead s p off).2 := by
  unfold State.fbkRead; dsimp only; (repeat' apply State.latchesWf_snd_ite) <;> simp [h]

@[simp] theorem State.dsItem_latchesWf {s : State} (p : Port) (n : LaneId) (i : Nat) (h : s.LatchesWf) :
    State.LatchesWf (State.dsItem s p n i).2 := by
  unfold State.dsItem; dsimp only; (repeat' apply State.latchesWf_snd_ite) <;> simp [h]

@[simp] theorem State.dsWinRead_latchesWf {s : State} (p : Port) (n : LaneId) (h : s.LatchesWf) :
    State.LatchesWf (State.dsWinRead s p n).2 := by
  simp [State.dsWinRead, h]

@[simp] theorem State.dsRead_latchesWf {s : State} (p : Port) (n : LaneId) (off : Nat) (h : s.LatchesWf) :
    State.LatchesWf (State.dsRead s p n off).2 := by
  unfold State.dsRead; dsimp only; (repeat' apply State.latchesWf_snd_ite) <;> simp [h]

@[simp] theorem State.pwrRead_latchesWf {s : State} (p : Port) (off : Nat) (h : s.LatchesWf) :
    State.LatchesWf (State.pwrRead s p off).2 := by
  unfold State.pwrRead; dsimp only; (repeat' apply State.latchesWf_snd_ite) <;> simp [h]

@[simp] theorem State.cstCntRead_latchesWf {s : State} (p : Port) (h : s.LatchesWf) :
    State.LatchesWf (State.cstCntRead s p).2 := by
  simp [State.cstCntRead, h]

@[simp] theorem State.cstRead_latchesWf {s : State} (p : Port) (off : Nat) (h : s.LatchesWf) :
    State.LatchesWf (State.cstRead s p off).2 := by
  unfold State.cstRead; split <;> simp [h]

@[simp] theorem State.keyCntRead_latchesWf {s : State} (p : Port) (h : s.LatchesWf) :
    State.LatchesWf (State.keyCntRead s p).2 := by
  simp [State.keyCntRead, h]

@[simp] theorem State.keyRead_latchesWf {s : State} (p : Port) (off : Nat) (h : s.LatchesWf) :
    State.LatchesWf (State.keyRead s p off).2 := by
  unfold State.keyRead; split <;> simp [h]

@[simp] theorem State.tblCntRead_latchesWf {s : State} (p : Port) (h : s.LatchesWf) :
    State.LatchesWf (State.tblCntRead s p).2 := by
  unfold State.tblCntRead; dsimp only; (repeat' apply State.latchesWf_snd_ite) <;> simp [h]

@[simp] theorem State.tblRead_latchesWf {s : State} (p : Port) (off : Nat) (h : s.LatchesWf) :
    State.LatchesWf (State.tblRead s p off).2 := by
  unfold State.tblRead; dsimp only; (repeat' apply State.latchesWf_snd_ite) <;> simp [h]

@[simp] theorem State.nowRead_latchesWf {s : State} (p : Port) (h : s.LatchesWf) :
    State.LatchesWf (State.nowRead s p).2 := by
  simp [State.nowRead, h]

@[simp] theorem State.txqRead_latchesWf {s : State} (p : Port) (h : s.LatchesWf) :
    State.LatchesWf (State.txqRead s p).2 := by
  unfold State.txqRead
  split
  · exact State.latch_latchesWf _ _ _ (State.latch_latchesWf _ _ _ (State.latch_latchesWf _ _ _ h))
  · exact State.latch_latchesWf _ _ _ (State.latch_latchesWf _ _ _ (State.latch_latchesWf _ _ _ h))

@[simp] theorem State.ethItem_latchesWf {s : State} (p : Port) (n : LaneId) (i : Nat) (h : s.LatchesWf) :
    State.LatchesWf (State.ethItem s p n i).2 := by
  unfold State.ethItem; dsimp only; (repeat' apply State.latchesWf_snd_ite) <;> simp [h]

@[simp] theorem State.ethWinRead_latchesWf {s : State} (p : Port) (n : LaneId) (h : s.LatchesWf) :
    State.LatchesWf (State.ethWinRead s p n).2 := by
  simp [State.ethWinRead, h]

@[simp] theorem State.ethRead_latchesWf {s : State} (p : Port) (n : LaneId) (off : Nat) (h : s.LatchesWf) :
    State.LatchesWf (State.ethRead s p n off).2 := by
  unfold State.ethRead; dsimp only; (repeat' apply State.latchesWf_snd_ite) <;> simp [h]

@[simp] theorem State.assocRead_latchesWf {s : State} (p : Port) (i w : Nat) (h : s.LatchesWf) :
    State.LatchesWf (State.assocRead s p i w).2 := by
  unfold State.assocRead; dsimp only; (repeat' apply State.latchesWf_snd_ite) <;> simp [h]

@[simp] theorem State.tribRead_latchesWf {s : State} (p : Port) (i w : Nat) (h : s.LatchesWf) :
    State.LatchesWf (State.tribRead s p i w).2 := by
  unfold State.tribRead; dsimp only; (repeat' apply State.latchesWf_snd_ite) <;> simp [h]

@[simp] theorem State.ctxRead_latchesWf {s : State} (p : Port) (h : s.LatchesWf) :
    State.LatchesWf (State.ctxRead s p).2 := by
  unfold State.ctxRead; dsimp only; (repeat' split) <;> simp [h]

@[simp] theorem State.usItem_latchesWf {s : State} (p : Port) (n : LaneId) (i : Nat) (h : s.LatchesWf) :
    State.LatchesWf (State.usItem s p n i).2 := by
  unfold State.usItem; dsimp only; (repeat' apply State.latchesWf_snd_ite) <;> simp [h]

@[simp] theorem State.usWinRead_latchesWf {s : State} (p : Port) (n : LaneId) (h : s.LatchesWf) :
    State.LatchesWf (State.usWinRead s p n).2 := by
  simp [State.usWinRead, h]

@[simp] theorem State.usRead_latchesWf {s : State} (p : Port) (n : LaneId) (off : Nat) (h : s.LatchesWf) :
    State.LatchesWf (State.usRead s p n off).2 := by
  unfold State.usRead; dsimp only; (repeat' apply State.latchesWf_snd_ite) <;> simp [h]

@[simp] theorem State.ppsStampRead_latchesWf {s : State} (p : Port) (h : s.LatchesWf) :
    State.LatchesWf (State.ppsStampRead s p).2 := by
  simp [State.ppsStampRead, h]

@[simp] theorem State.timRead_latchesWf {s : State} (p : Port) (off : Nat) (h : s.LatchesWf) :
    State.LatchesWf (State.timRead s p off).2 := by
  unfold State.timRead; extract_lets; (repeat' split) <;> simp [h]

@[simp] theorem State.talRead_latchesWf {s : State} (p : Port) (off : Nat) (h : s.LatchesWf) :
    State.LatchesWf (State.talRead s p off).2 := by
  unfold State.talRead; dsimp only; (repeat' apply State.latchesWf_snd_ite) <;> simp [h]

@[simp] theorem State.polRead_latchesWf {s : State} (p : Port) (q i w : Nat) (h : s.LatchesWf) :
    State.LatchesWf (State.polRead s p q i w).2 := by
  unfold State.polRead; dsimp only; (repeat' apply State.latchesWf_snd_ite) <;> simp [h]

@[simp] theorem State.polDataRead_latchesWf {s : State} (p : Port) (q : Nat) (h : s.LatchesWf) :
    State.LatchesWf (State.polDataRead s p q).2 := by
  simp [State.polDataRead, h]

@[simp] theorem State.tmItemRead_latchesWf {s : State} (p : Port) (q : Nat) (down : Bool) (i : Nat) (h : s.LatchesWf) :
    State.LatchesWf (State.tmItemRead s p q down i).2 := by
  unfold State.tmItemRead; simp only [apply_ite Prod.snd, apply_ite State.LatchesWf]; simp [h]

@[simp] theorem State.tmDataRead_latchesWf {s : State} (p : Port) (q : Nat) (down : Bool) (h : s.LatchesWf) :
    State.LatchesWf (State.tmDataRead s p q down).2 := by
  simp [State.tmDataRead, h]

@[simp] theorem State.trafficRead_latchesWf {s : State} (p : Port) (q off : Nat) (h : s.LatchesWf) :
    State.LatchesWf (State.trafficRead s p q off).2 := by
  unfold State.trafficRead; simp only [apply_ite Prod.snd, apply_ite State.LatchesWf]; simp [h]

@[simp] theorem State.sdhItem_latchesWf {s : State} (p : Port) (n : LaneId) (i : Nat) (h : s.LatchesWf) :
    State.LatchesWf (State.sdhItem s p n i).2 := by
  unfold State.sdhItem; simp only [apply_ite Prod.snd, apply_ite State.LatchesWf]; simp [h]

@[simp] theorem State.sdhWinRead_latchesWf {s : State} (p : Port) (n : LaneId) (h : s.LatchesWf) :
    State.LatchesWf (State.sdhWinRead s p n).2 := by
  simp [State.sdhWinRead, h]

@[simp] theorem State.sdhRead_latchesWf {s : State} (p : Port) (n : LaneId) (off : Nat) (h : s.LatchesWf) :
    State.LatchesWf (State.sdhRead s p n off).2 := by
  unfold State.sdhRead; simp only [apply_ite Prod.snd, apply_ite State.LatchesWf]; simp [h]

@[simp] theorem State.sysRead_latchesWf {s : State} (p : Port) (off : Nat) (h : s.LatchesWf) :
    State.LatchesWf (State.sysRead s p off).2 := by
  unfold State.sysRead; extract_lets; (repeat' split) <;> simp [h]

@[simp] theorem State.keyIslRead_latchesWf {s : State} (p : Port) (off : Nat) (h : s.LatchesWf) :
    State.LatchesWf (State.keyIslRead s p off).2 := by
  unfold State.keyIslRead; split <;> simp [h]

@[simp] theorem State.tblIslRead_latchesWf {s : State} (p : Port) (off : Nat) (h : s.LatchesWf) :
    State.LatchesWf (State.tblIslRead s p off).2 := by
  unfold State.tblIslRead; simp only [apply_ite Prod.snd, apply_ite State.LatchesWf]; simp [h]

@[simp] theorem State.quadIslRead_latchesWf {s : State} (p : Port) (q off : Nat) (h : s.LatchesWf) :
    State.LatchesWf (State.quadIslRead s p q off).2 := by
  unfold State.quadIslRead; (repeat' split) <;> simp [h]

@[simp] theorem State.laneIslRead_latchesWf {s : State} (p : Port) (n : LaneId) (off : Nat) (h : s.LatchesWf) :
    State.LatchesWf (State.laneIslRead s p n off).2 := by
  unfold State.laneIslRead; simp only [apply_ite Prod.snd, apply_ite State.LatchesWf]; simp [h]

@[simp] theorem State.regRead_latchesWf {s : State} (p : Port) (a : Nat) (h : s.LatchesWf) :
    State.LatchesWf (State.regRead s p a).2 := by
  unfold State.regRead; dsimp only; (repeat' split) <;> simp [h]

@[simp] theorem State.bar0Read_latchesWf {s : State} (p : Port) (a : Nat) (h : s.LatchesWf) :
    State.LatchesWf (State.bar0Read s p a).2.1 := by
  unfold State.bar0Read; extract_lets; (repeat' split) <;> simp [h]

theorem State.readAt_latchesWf {s : State} {p : Port} {a : Nat} {ans : Bool} {k : State → W32 × State} (h : s.LatchesWf)
    (hk : ∀ u, u.LatchesWf → (k u).2.LatchesWf) : (s.readAt p a ans k).LatchesWf := by
  unfold State.readAt
  (repeat' split) <;> simp [h, hk]

theorem State.writeAt_latchesWf {s : State} {p : Port} {a : Nat} {ans : Bool} {k : State → State} (h : s.LatchesWf)
    (hk : ∀ u, u.LatchesWf → (k u).LatchesWf) : (s.writeAt p a ans k).LatchesWf := by
  unfold State.writeAt
  (repeat' split) <;> simp [h, hk]

theorem State.toReset_latchesWf (s : State) : s.toReset.LatchesWf := ⟨rfl, rfl⟩

theorem execPowerUp_latchesWf {s : State} (h : s.LatchesWf) : ∃ v, execPowerUp s = .next v ∧ v.LatchesWf := by
  refine ⟨_, rfl, ?_⟩
  split
  · exact h
  · exact State.raisePowerCycles_latchesWf (State.toReset_latchesWf s)

theorem execRailUndervolt_latchesWf (s : State) : ∃ v, execRailUndervolt s = .next v ∧ v.LatchesWf :=
  ⟨_, rfl, State.toReset_latchesWf s⟩

theorem execReset_latchesWf (straps : BitVec 2) {s : State} (h : s.LatchesWf) :
    ∃ v, execReset straps s = .next v ∧ v.LatchesWf := by
  refine ⟨_, rfl, ?_⟩
  split
  · exact h
  dsimp only
  split
  · exact State.bootDone_latchesWf (State.startStewards_latchesWf (State.toReset_latchesWf s))
  · exact State.toReset_latchesWf s

theorem execSumpDataRead_latchesWf (p : Port) {s : State} (h : s.LatchesWf) :
    ∃ v, execSumpDataRead p s = .next v ∧ v.LatchesWf := by
  refine ⟨_, rfl, ?_⟩
  exact State.readAt_latchesWf h fun _ hu => by simp [hu]

theorem execTblCntRead_latchesWf (p : Port) {s : State} (h : s.LatchesWf) : ∃ v, execTblCntRead p s = .next v ∧ v.LatchesWf := by
  refine ⟨_, rfl, ?_⟩
  exact State.readAt_latchesWf h fun _ hu => by simp [hu]

theorem execKeyCntRead_latchesWf (p : Port) {s : State} (h : s.LatchesWf) : ∃ v, execKeyCntRead p s = .next v ∧ v.LatchesWf := by
  refine ⟨_, rfl, ?_⟩
  exact State.readAt_latchesWf h fun _ hu => by simp [hu]

theorem execTimNowRead_latchesWf (p : Port) {s : State} (h : s.LatchesWf) : ∃ v, execTimNowRead p s = .next v ∧ v.LatchesWf := by
  refine ⟨_, rfl, ?_⟩
  exact State.readAt_latchesWf h fun _ hu => by simp [hu]

theorem execTxqRead_latchesWf (p : Port) {s : State} (h : s.LatchesWf) : ∃ v, execTxqRead p s = .next v ∧ v.LatchesWf := by
  refine ⟨_, rfl, ?_⟩
  exact State.readAt_latchesWf h fun _ hu => by simp [hu]

theorem execCstCntRead_latchesWf (p : Port) {s : State} (h : s.LatchesWf) : ∃ v, execCstCntRead p s = .next v ∧ v.LatchesWf := by
  refine ⟨_, rfl, ?_⟩
  exact State.readAt_latchesWf h fun _ hu => by simp [hu]

theorem execCphCntRead_latchesWf (p : Port) (q : Option QuadId) {s : State} (h : s.LatchesWf) :
    ∃ v, execCphCntRead p q s = .next v ∧ v.LatchesWf := by
  refine ⟨_, rfl, ?_⟩
  cases q <;> exact State.readAt_latchesWf h fun _ hu => by simp [hu]

theorem execDsWinAccess_latchesWf (p : Port) (n : LaneId) (acc : Option W32) {s : State} (h : s.LatchesWf) :
    ∃ v, execDsWinAccess p n acc s = .next v ∧ v.LatchesWf := by
  refine ⟨_, rfl, ?_⟩
  split
  · cases acc
    case none => exact State.readAt_latchesWf h fun _ hu => by simp [hu]
    case some => exact State.writeAt_latchesWf h fun _ hu => by simp [hu]
  · exact h

theorem execUsWinAccess_latchesWf (p : Port) (n : LaneId) (acc : Option W32) {s : State} (h : s.LatchesWf) :
    ∃ v, execUsWinAccess p n acc s = .next v ∧ v.LatchesWf := by
  refine ⟨_, rfl, ?_⟩
  split
  · cases acc
    case none => exact State.readAt_latchesWf h fun _ hu => by simp [hu]
    case some => exact State.writeAt_latchesWf h fun _ hu => by simp [hu]
  · exact h

theorem execEthWinAccess_latchesWf (p : Port) (n : LaneId) (acc : Option W32) {s : State} (h : s.LatchesWf) :
    ∃ v, execEthWinAccess p n acc s = .next v ∧ v.LatchesWf := by
  refine ⟨_, rfl, ?_⟩
  split
  · cases acc
    case none => exact State.readAt_latchesWf h fun _ hu => by simp [hu]
    case some => exact State.writeAt_latchesWf h fun _ hu => by simp [hu]
  · exact h

theorem execSdhWinAccess_latchesWf (p : Port) (n : LaneId) (acc : Option W32) {s : State} (h : s.LatchesWf) :
    ∃ v, execSdhWinAccess p n acc s = .next v ∧ v.LatchesWf := by
  refine ⟨_, rfl, ?_⟩
  split
  · cases acc
    case none => exact State.readAt_latchesWf h fun _ hu => by simp [hu]
    case some => exact State.writeAt_latchesWf h fun _ hu => by simp [hu]
  · exact h

theorem execKeyCtxAccess_latchesWf (p : Port) (acc : Option W32) {s : State} (h : s.LatchesWf) :
    ∃ v, execKeyCtxAccess p acc s = .next v ∧ v.LatchesWf := by
  refine ⟨_, rfl, ?_⟩
  cases acc
  case none => exact State.readAt_latchesWf h fun _ hu => by simp [hu]
  case some => exact State.writeAt_latchesWf h fun _ hu => by simp [hu]

theorem execTmWinAccess_latchesWf (p : Port) (q : QuadId) (win : TmWin) (acc : Option W32) {s : State} (h : s.LatchesWf) :
    ∃ v, execTmWinAccess p q win acc s = .next v ∧ v.LatchesWf := by
  refine ⟨_, rfl, ?_⟩
  cases acc
  case none => cases win <;> exact State.readAt_latchesWf h fun _ hu => by simp [hu]
  case some => cases win <;> exact State.writeAt_latchesWf h fun _ hu => by simp [hu]

theorem execBadOffsetRead_latchesWf (p : Port) (q : QuadId) (down : Bool) (slice : BitVec 5) {s : State} (h : s.LatchesWf) :
    ∃ v, execBadOffsetRead p q down slice s = .next v ∧ v.LatchesWf := by
  refine ⟨_, rfl, ?_⟩
  split
  · exact State.readAt_latchesWf h fun _ hu => by simp [hu]
  · exact h

theorem State.latchesWf_of_twAddr {s t : State} {off : W32} {a : Option Nat} (ht : s.twAddr off = (a, t)) (h : s.LatchesWf) :
    t.LatchesWf := by
  simpa [ht] using State.twAddr_latchesWf off h

@[simp] theorem State.twAnswer_latchesWf {s : State} (addr : BitVec 7) (off w : W32) (gated : Bool) (h : s.LatchesWf) :
    (s.twAnswer addr off w gated).LatchesWf := h

theorem execTwRead_latchesWf (addr : BitVec 7) (off : W32) {s : State} (h : s.LatchesWf) :
    ∃ v, execTwRead addr off s = .next v ∧ v.LatchesWf := by
  refine ⟨_, rfl, ?_⟩
  split
  · exact h
  split
  · next haddr => simp [State.latchesWf_of_twAddr haddr h]
  · next haddr => simp [State.latchesWf_of_twAddr haddr h]

/-- A command that does not read through a latch leaves the tables alone; the others put words into one. -/
theorem exec_latchesWf (c : Instr) {s : State} (h : s.LatchesWf) : ∃ v, exec c s = .next v ∧ v.LatchesWf := by
  cases c
  case powerUp => exact execPowerUp_latchesWf h
  case railUndervolt => exact execRailUndervolt_latchesWf s
  case reset straps => exact execReset_latchesWf straps h
  case sumpDataRead p => exact execSumpDataRead_latchesWf p h
  case dsWinAccess p n acc => exact execDsWinAccess_latchesWf p n acc h
  case usWinAccess p n acc => exact execUsWinAccess_latchesWf p n acc h
  case ethWinAccess p n acc => exact execEthWinAccess_latchesWf p n acc h
  case sdhWinAccess p n acc => exact execSdhWinAccess_latchesWf p n acc h
  case tblCntRead p => exact execTblCntRead_latchesWf p h
  case tmWinAccess p q win acc => exact execTmWinAccess_latchesWf p q win acc h
  case badOffsetRead p q down slice => exact execBadOffsetRead_latchesWf p q down slice h
  case cphCntRead p q => exact execCphCntRead_latchesWf p q h
  case keyCtxAccess p acc => exact execKeyCtxAccess_latchesWf p acc h
  case keyCntRead p => exact execKeyCntRead_latchesWf p h
  case timNowRead p => exact execTimNowRead_latchesWf p h
  case txqRead p => exact execTxqRead_latchesWf p h
  case cstCntRead p => exact execCstCntRead_latchesWf p h
  case twRead addr off => exact execTwRead_latchesWf addr off h
  all_goals
    obtain ⟨v, hv, hframe⟩ := exec_only _ s
    exact ⟨v, hv, hframe.latchesWf rfl h⟩

/-- Settles O60: a put keeps a table's canonical form, and nothing else but a reset moves the latches. -/
theorem latchesStayCanonical : Obligations.LatchesStayCanonical := by
  intro s t hpcie htw hstep
  have h : s.LatchesWf := ⟨hpcie, htw⟩
  unfold step at hstep
  split at hstep
  · obtain rfl := Host.Outcome.next.inj hstep
    exact (State.idle_only s).latchesWf rfl h
  · next c rest hq =>
    have hrest : State.LatchesWf { s with pending := rest } := h
    obtain ⟨v, hv, hwf⟩ := exec_latchesWf c hrest
    obtain rfl := Host.Outcome.next.inj (hv.symm.trans hstep)
    exact hwf

end Sys2Proof.Machine
end

/-!
Fields of the state after an event report: a report enters the referee alone.
-/
section
namespace Sys2Proof.Machine

variable (s : State) (e : Nat) (sev : BitVec 3) (detail : List Byte)

@[simp] theorem State.report_sys : (s.report e sev detail).sys = s.sys := rfl
@[simp] theorem State.report_str : (s.report e sev detail).str = s.str := rfl
@[simp] theorem State.report_pwr : (s.report e sev detail).pwr = s.pwr := rfl
@[simp] theorem State.report_wel : (s.report e sev detail).wel = s.wel := rfl
@[simp] theorem State.report_tal : (s.report e sev detail).tal = s.tal := rfl
@[simp] theorem State.report_tim : (s.report e sev detail).tim = s.tim := rfl
@[simp] theorem State.report_key : (s.report e sev detail).key = s.key := rfl
@[simp] theorem State.report_hif : (s.report e sev detail).hif = s.hif := rfl
@[simp] theorem State.report_vault : (s.report e sev detail).vault = s.vault := rfl
@[simp] theorem State.report_cst : (s.report e sev detail).cst = s.cst := rfl
@[simp] theorem State.report_tbl : (s.report e sev detail).tbl = s.tbl := rfl
@[simp] theorem State.report_fbk : (s.report e sev detail).fbk = s.fbk := rfl
@[simp] theorem State.report_stw : (s.report e sev detail).stw = s.stw := rfl
@[simp] theorem State.report_quads : (s.report e sev detail).quads = s.quads := rfl
@[simp] theorem State.report_cores : (s.report e sev detail).cores = s.cores := rfl
@[simp] theorem State.report_lanes : (s.report e sev detail).lanes = s.lanes := rfl
@[simp] theorem State.report_pins : (s.report e sev detail).pins = s.pins := rfl
@[simp] theorem State.report_latchPcie : (s.report e sev detail).latchPcie = s.latchPcie := rfl
@[simp] theorem State.report_latchTw : (s.report e sev detail).latchTw = s.latchTw := rfl
@[simp] theorem State.report_out : (s.report e sev detail).out = s.out := rfl
@[simp] theorem State.report_freeIdx : (s.report e sev detail).freeIdx = s.freeIdx := rfl
@[simp] theorem State.report_now : (s.report e sev detail).now = s.now := rfl
@[simp] theorem State.report_pending : (s.report e sev detail).pending = s.pending := rfl

theorem State.reportIf_true : s.reportIf true e sev detail = s.report e sev detail := rfl
@[simp] theorem State.reportIf_false : s.reportIf false e sev detail = s := rfl

@[simp] theorem State.reportIf_sys (c : Bool) : (s.reportIf c e sev detail).sys = s.sys := by cases c <;> rfl
@[simp] theorem State.reportIf_str (c : Bool) : (s.reportIf c e sev detail).str = s.str := by cases c <;> rfl
@[simp] theorem State.reportIf_pwr (c : Bool) : (s.reportIf c e sev detail).pwr = s.pwr := by cases c <;> rfl
@[simp] theorem State.reportIf_wel (c : Bool) : (s.reportIf c e sev detail).wel = s.wel := by cases c <;> rfl
@[simp] theorem State.reportIf_tal (c : Bool) : (s.reportIf c e sev detail).tal = s.tal := by cases c <;> rfl
@[simp] theorem State.reportIf_tim (c : Bool) : (s.reportIf c e sev detail).tim = s.tim := by cases c <;> rfl
@[simp] theorem State.reportIf_key (c : Bool) : (s.reportIf c e sev detail).key = s.key := by cases c <;> rfl
@[simp] theorem State.reportIf_hif (c : Bool) : (s.reportIf c e sev detail).hif = s.hif := by cases c <;> rfl
@[simp] theorem State.reportIf_vault (c : Bool) : (s.reportIf c e sev detail).vault = s.vault := by cases c <;> rfl
@[simp] theorem State.reportIf_cst (c : Bool) : (s.reportIf c e sev detail).cst = s.cst := by cases c <;> rfl
@[simp] theorem State.reportIf_tbl (c : Bool) : (s.reportIf c e sev detail).tbl = s.tbl := by cases c <;> rfl
@[simp] theorem State.reportIf_fbk (c : Bool) : (s.reportIf c e sev detail).fbk = s.fbk := by cases c <;> rfl
@[simp] theorem State.reportIf_stw (c : Bool) : (s.reportIf c e sev detail).stw = s.stw := by cases c <;> rfl
@[simp] theorem State.reportIf_quads (c : Bool) : (s.reportIf c e sev detail).quads = s.quads := by cases c <;> rfl
@[simp] theorem State.reportIf_cores (c : Bool) : (s.reportIf c e sev detail).cores = s.cores := by cases c <;> rfl
@[simp] theorem State.reportIf_lanes (c : Bool) : (s.reportIf c e sev detail).lanes = s.lanes := by cases c <;> rfl
@[simp] theorem State.reportIf_pins (c : Bool) : (s.reportIf c e sev detail).pins = s.pins := by cases c <;> rfl
@[simp] theorem State.reportIf_latchPcie (c : Bool) : (s.reportIf c e sev detail).latchPcie = s.latchPcie := by cases c <;> rfl
@[simp] theorem State.reportIf_latchTw (c : Bool) : (s.reportIf c e sev detail).latchTw = s.latchTw := by cases c <;> rfl
@[simp] theorem State.reportIf_out (c : Bool) : (s.reportIf c e sev detail).out = s.out := by cases c <;> rfl
@[simp] theorem State.reportIf_freeIdx (c : Bool) : (s.reportIf c e sev detail).freeIdx = s.freeIdx := by cases c <;> rfl
@[simp] theorem State.reportIf_now (c : Bool) : (s.reportIf c e sev detail).now = s.now := by cases c <;> rfl
@[simp] theorem State.reportIf_pending (c : Bool) : (s.reportIf c e sev detail).pending = s.pending := by cases c <;> rfl

@[simp] theorem State.lane_report (n : LaneId) : (s.report e sev detail).lane n = s.lane n := rfl
@[simp] theorem State.lane_reportIf (c : Bool) (n : LaneId) : (s.reportIf c e sev detail).lane n = s.lane n := by cases c <;> rfl
@[simp] theorem State.lane_emit (o : Out) (n : LaneId) : (s.emit o).lane n = s.lane n := rfl
@[simp] theorem State.lane_tookFree (n : LaneId) : s.tookFree.lane n = s.lane n := rfl
@[simp] theorem State.quad_report (q : QuadId) : (s.report e sev detail).quad q = s.quad q := rfl
@[simp] theorem State.quad_reportIf (c : Bool) (q : QuadId) : (s.reportIf c e sev detail).quad q = s.quad q := by cases c <;> rfl
@[simp] theorem State.core_report (k : CoreId) : (s.report e sev detail).core k = s.core k := rfl
@[simp] theorem State.core_reportIf (c : Bool) (k : CoreId) : (s.reportIf c e sev detail).core k = s.core k := by cases c <;> rfl

end Sys2Proof.Machine
end

/-!
Commands of one lane leave the other lanes as they are.
-/
section
namespace Sys2Proof.Machine

/-- Every lane but n is the same. -/
def SparesLanes (n : LaneId) (s t : State) : Prop := ∀ m : LaneId, m ≠ n → t.lane m = s.lane m

namespace SparesLanes

variable {n : LaneId} {s t u : State}

theorem trans (h : SparesLanes n s t) (k : SparesLanes n t u) : SparesLanes n s u := fun m hm => (k m hm).trans (h m hm)

theorem of_lanes (h : t.lanes = s.lanes) : SparesLanes n s t := fun m _ => by simp [State.lane, h]

theorem refl (n : LaneId) (s : State) : SparesLanes n s s := .of_lanes rfl

theorem modCom (f : LaneCommon → LaneCommon) : SparesLanes n s (s.modCom n f) := fun _ hm => s.lane_modCom_ne f hm

theorem modDs (f : LineDs → LineDs) : SparesLanes n s (s.modDs n f) := fun _ hm => s.lane_modDs_ne f hm

theorem ite {c : Prop} [Decidable c] (ht : SparesLanes n s t) (hu : SparesLanes n s u) : SparesLanes n s (if c then t else u) := by
  split <;> assumption

theorem emit (h : SparesLanes n s t) (o : Out) : SparesLanes n s (t.emit o) := h

theorem foldl {α : Type} {f : State → α → State} (hf : ∀ u a, SparesLanes n u (f u a)) (l : List α) : SparesLanes n s (l.foldl f s) := by
  induction l generalizing s with
  | nil => exact .refl n s
  | cons a l ih => exact (hf s a).trans ih

theorem gatedRecord (p : Port) (a : Nat) (w : Bool) : SparesLanes n s (s.gatedRecord p a w) := by
  unfold State.gatedRecord
  split <;> exact .of_lanes (by simp)

theorem writeLane {p : Port} {off : Nat} {kind : LaneKind} {k : State → State} (hk : ∀ u, SparesLanes n u (k u)) :
    SparesLanes n s (s.writeLane p n off kind k) := .ite (.refl n s) (.ite (hk s) (gatedRecord _ _ _))

theorem readLane {p : Port} {off : Nat} {kind : LaneKind} {k : State → W32 × State} (hk : ∀ u, SparesLanes n u (k u).2) :
    SparesLanes n s (s.readLane p n off kind k) :=
  .ite (.refl n s) (.ite ((hk s).emit _) ((gatedRecord _ _ _).emit _))

theorem reportIf (h : SparesLanes n s t) (c : Bool) (e : Nat) (sev : BitVec 3) (detail : List Byte) :
    SparesLanes n s (t.reportIf c e sev detail) := h.trans (.of_lanes (by simp))

theorem prbsErrors (k : Nat) : SparesLanes n s (s.prbsErrors n k) := .ite (.refl n s) ((modCom _).reportIf _ _ _ _)

theorem checkBit (b : Bool) : SparesLanes n s (s.checkBit n b) := .reportIf (.trans (.modCom _) (prbsErrors _)) _ _ _ _

theorem checkBits (bits : List Bool) : SparesLanes n s (s.checkBits n bits) :=
  .ite (.foldl (fun _ _ => checkBit _) bits) (.refl n s)

theorem flushInject : SparesLanes n s (s.flushInject n) := by
  unfold State.flushInject
  split
  · exact .ite ((modCom _).emit _) (.refl n s)
  · exact .refl n s

theorem injectBits (k : Nat) : SparesLanes n s (s.injectBits n k) := (modCom _).trans flushInject

theorem dsCnt (c k : Nat) : SparesLanes n s (s.dsCnt n c k) := modDs _

end SparesLanes

open SparesLanes

variable {n : LaneId} {s : State}

theorem execNoiseReport_spares {k : Nat} : ∃ v, execNoiseReport n k s = .next v ∧ SparesLanes n s v :=
  ⟨_, rfl, .ite (.refl n s) (.trans (.of_lanes rfl) (modCom (s := s.tookFree.tookFree) _))⟩

theorem execFecCodeword_spares {k : Nat} : ∃ v, execFecCodeword n k s = .next v ∧ SparesLanes n s v := by
  refine ⟨_, rfl, .ite (.refl n s) ?_⟩
  have hword : SparesLanes n s ((s.dsCnt n 6).modDs n fun d => { d with
      words := d.words + 1, badWords := if 16 < k then d.words :: d.badWords else d.badWords }) := (dsCnt 6 1).trans (modDs _)
  refine .ite hword (.ite ?_ ?_)
  · exact hword.trans (((dsCnt 7 1).trans (dsCnt 8 k)).trans (modDs _))
  · exact hword.trans ((dsCnt 9 1).trans (modDs _))

/-- Settles O56: each of these commands writes its own lane, the referee or the host interface. -/
theorem laneCommandsLeaveOtherLanes : Obligations.LaneCommandsLeaveOtherLanes := by
  intro s t c n m hm hc h
  suffices hs : ∃ v, exec c s = .next v ∧ SparesLanes n s v by
    obtain ⟨v, hv, hs⟩ := hs
    obtain rfl := Host.Outcome.next.inj (hv.symm.trans h)
    exact hs m hm
  obtain ⟨x, prev, rfl⟩ | rfl | ⟨p, on, rfl⟩ | ⟨p, w, rfl⟩ | rfl | ⟨k, rfl⟩ | ⟨bits, rfl⟩ | ⟨bits, rfl⟩ | ⟨p, bits, rfl⟩ |
    ⟨p, rfl⟩ | ⟨p, rfl⟩ | ⟨k, rfl⟩ | rfl | ⟨p, w, rfl⟩ | ⟨p, rfl⟩ := hc
  · exact ⟨_, rfl, .ite (.trans (.of_lanes rfl) (modCom (s := s.tookFree) _)) (.refl n s)⟩
  · exact ⟨_, rfl, .ite ((modCom _).reportIf _ _ _ _) (.refl n s)⟩
  · exact ⟨_, rfl, writeLane fun _ => modCom _⟩
  · exact ⟨_, rfl, writeLane fun _ => modCom _⟩
  · exact ⟨_, rfl, .ite (modCom _) (.refl n s)⟩
  · exact execNoiseReport_spares
  · exact ⟨_, rfl, checkBits bits⟩
  · exact ⟨_, rfl, checkBits bits⟩
  · exact ⟨_, rfl, (checkBits bits).trans (readLane fun _ => modCom _)⟩
  · exact ⟨_, rfl, writeLane fun _ => injectBits _⟩
  · exact ⟨_, rfl, writeLane fun _ => injectBits _⟩
  · exact execFecCodeword_spares
  · exact ⟨_, rfl, .ite (.refl n s) ((modDs _).reportIf _ _ _ _)⟩
  · exact ⟨_, rfl, writeLane fun _ => modDs _⟩
  · exact ⟨_, rfl, .ite (writeLane fun _ => modDs _) (.refl n s)⟩

end Sys2Proof.Machine
end

section
namespace Sys2Proof.Machine

/-! ### Well records (R517, R523) -/

theorem mem_of_lowestFrom {base : W32} {l : List WellRec} {r : WellRec} (h : lowestFrom base l = some r) : r ∈ l := by
  induction l generalizing r with
  | nil => simp [lowestFrom] at h
  | cons x l ih =>
    simp only [lowestFrom] at h
    split at h
    · next q hq =>
      split at h
      · simp [← Option.some.inj h]
      · exact List.mem_cons_of_mem x (Option.some.inj h ▸ ih hq)
    · simp [← Option.some.inj h]

/-- Settles O47: the record that makes room is one that the new record may replace. -/
theorem severeRecordsSurvive : Obligations.SevereRecordsSurvive := by
  intro b l l' r q hput hq hclear hseq huniq hsev
  have hkeep : mayReplace r q = false := by
    rcases hsev with h | h
    · simp [mayReplace, h]
    · simp [mayReplace, h]
  unfold vaultPut at hput
  split at hput
  · obtain rfl := Option.some.inj hput
    exact List.mem_map.mpr ⟨q, hq, if_neg hseq⟩
  split at hput
  · simp_all
  split at hput
  · obtain rfl := Option.some.inj hput
    exact List.mem_append_left _ hq
  split at hput
  · next x hx =>
    obtain rfl := Option.some.inj hput
    obtain ⟨hxl, hxr⟩ := List.mem_filter.mp (mem_of_lowestFrom hx)
    have hne : q.seq ≠ x.seq := fun h => by
      rw [huniq x hxl h.symm, hkeep] at hxr
      exact absurd hxr (by decide)
    exact List.mem_append_left _ (List.mem_filter.mpr ⟨hq, by simpa using hne⟩)
  · simp at hput

/-! ### The servo (R426) -/

theorem clampIncr_toNat_mem (v : Int) :
    incrMin ≤ (BitVec.ofInt 40 (max (incrMin : Int) (min (incrMax : Int) v))).toNat ∧
      (BitVec.ofInt 40 (max (incrMin : Int) (min (incrMax : Int) v))).toNat ≤ incrMax := by
  rw [BitVec.toNat_ofInt]
  simp only [incrMin, incrMax]
  omega

/-- Settles O39: the increment that a sample sets is clamped, and its 40 bits hold the whole range. -/
theorem steeringStaysInRange : Obligations.SteeringStaysInRange := fun _ _ => clampIncr_toNat_mem _

/-! ### Comparators (R444, R445) -/

theorem Cmp.fire_of_per_ne_zero {c : Cmp} (hper : c.per ≠ 0) (ns : W64) :
    (c.fire ns).fired = true ∧ (c.fire ns).armed = c.armed ∧ (c.fire ns).target = c.target +
      BitVec.ofNat 40 (((fld ns 0 40 - c.target : BitVec 40).toNat / c.per.toNat + 1) * c.per.toNat) := by
  rw [Cmp.fire, if_neg hper]
  exact ⟨rfl, rfl, rfl⟩

/-- The next multiple of a period past a distance, seen from that distance. -/
theorem toNat_nextMultiple_sub {d : BitVec 40} {per : W32} (hper : 0 < per.toNat) (hd : d.toNat < 2 ^ 39) :
    (BitVec.ofNat 40 ((d.toNat / per.toNat + 1) * per.toNat) - d).toNat = per.toNat - d.toNat % per.toNat := by
  have hdiv := Nat.div_add_mod' d.toNat per.toNat
  have hmod := Nat.mod_lt d.toNat hper
  have hlt : per.toNat < 2 ^ 32 := per.isLt
  rw [BitVec.toNat_sub, BitVec.toNat_ofNat, Nat.add_mul, Nat.one_mul]
  omega

/-- Settles O37: the target goes on by the least whole number of periods that passes the count, so by at most one period past it. -/
theorem firedComparatorsAdvance : Obligations.FiredComparatorsAdvance := by
  intro c ns harm hper hpast
  obtain ⟨hfired, harmed, htarget⟩ := Cmp.fire_of_per_ne_zero hper ns
  have hpos : 0 < c.per.toNat := Nat.pos_of_ne_zero fun h => hper (BitVec.eq_of_toNat_eq h)
  have hd : (fld ns 0 40 - c.target : BitVec 40).toNat < 2 ^ 39 := by
    rw [BitVec.toInt_eq_toNat_cond] at hpast
    split at hpast <;> omega
  have hdist : (c.fire ns).target - fld ns 0 40 =
      BitVec.ofNat 40 (((fld ns 0 40 - c.target : BitVec 40).toNat / c.per.toNat + 1) * c.per.toNat) - (fld ns 0 40 - c.target) := by
    rw [htarget]
    generalize BitVec.ofNat 40 _ = x
    generalize fld ns 0 40 = y
    ring
  have hmod := Nat.mod_lt (fld ns 0 40 - c.target : BitVec 40).toNat hpos
  rw [hdist, toNat_nextMultiple_sub hpos hd]
  exact ⟨hfired, harmed.trans harm, by omega, by omega⟩

/-! ### Equaliser items (R65, R66, R67) -/

theorem itemLo_le_itemHi (i : Nat) : itemLo i ≤ itemHi i := by
  unfold itemLo itemHi
  (repeat' split) <;> omega

theorem clampItem_mem (i : Nat) (v : Int) : itemLo i ≤ (clampItem i v).1 ∧ (clampItem i v).1 ≤ itemHi i := by
  have h := itemLo_le_itemHi i
  unfold clampItem
  split
  · exact ⟨le_rfl, h⟩
  split
  · exact ⟨h, le_rfl⟩
  · exact ⟨by omega, by omega⟩

theorem clampItem_of_mem {i : Nat} {v : Int} (hlo : itemLo i ≤ v) (hhi : v ≤ itemHi i) : (clampItem i v).1 = v := by
  rw [clampItem, if_neg (by omega), if_neg (by omega)]

namespace LaneCommon

variable (c : LaneCommon) (x : Vector (BitVec 6) 16) (prev : Vector Bool 6) (ups : BitVec 24) (i : Fin 24)

theorem adapt_items_eq_clampItem : ∃ d : Int, (c.adapt x prev ups).items[i.val] = (clampItem i.val (c.items[i.val] + d)).1 ∧
    (i.val = 23 ∨ (i.val < 16 ∧ i.val = c.cursor) → d = 0) := by
  refine ⟨_, by simp only [adapt, Vector.getElem_ofFn, vget_fin]; rfl, ?_⟩
  rintro (h | ⟨hlt, h⟩)
  · simp [h]
  · rw [if_pos hlt, if_pos h]

theorem adapt_items_mem :
    itemLo i.val ≤ (c.adapt x prev ups).items[i.val] ∧ (c.adapt x prev ups).items[i.val] ≤ itemHi i.val := by
  obtain ⟨d, hd, -⟩ := c.adapt_items_eq_clampItem x prev ups i
  rw [hd]
  exact clampItem_mem _ _

/-- CURSOR and the tap that it names do not adapt. -/
theorem adapt_items_of_fixed (h : i.val = 23 ∨ (i.val < 16 ∧ i.val = c.cursor))
    (hlo : itemLo i.val ≤ c.items[i.val]) (hhi : c.items[i.val] ≤ itemHi i.val) :
    (c.adapt x prev ups).items[i.val] = c.items[i.val] := by
  obtain ⟨d, hd, hfixed⟩ := c.adapt_items_eq_clampItem x prev ups i
  rw [hd, hfixed h, add_zero, clampItem_of_mem hlo hhi]

end LaneCommon

theorem exec_eqUpdate_adapts {s : State} {n : LaneId} (x : Vector (BitVec 6) 16) (prev : Vector Bool 6)
    (hst : (s.lane n).com.rxState = .adaptFast ∨ (s.lane n).com.rxState = .track) (hcal : (s.lane n).ts.calBusy = false) :
    exec (.eqUpdate n x prev) s = .next (s.tookFree.modCom n fun c => c.adapt x prev (s.freeBits 24)) := by
  simp only [exec, execEqUpdate]
  rw [if_pos (by simpa [hcal] using hst)]

theorem State.com_lane_modCom_same (s : State) (n : LaneId) (f : LaneCommon → LaneCommon) :
    ((s.modCom n f).lane n).com = f (s.lane n).com := by
  rw [State.lane_modCom_same]

/-- Settles O9: every item is clamped after its step, and CURSOR and its tap take no step. -/
theorem equaliserItemsStayInRange : Obligations.EqualiserItemsStayInRange := by
  intro s n x prev hst hcal
  refine ⟨_, exec_eqUpdate_adapts x prev hst hcal, fun i => ?_, fun i hfixed hlo hhi => ?_, fun m hm => ?_⟩
  · rw [State.com_lane_modCom_same]
    exact LaneCommon.adapt_items_mem _ x prev _ i
  · rw [State.com_lane_modCom_same]
    exact LaneCommon.adapt_items_of_fixed _ x prev _ i hfixed hlo hhi
  · rw [State.lane_modCom_ne _ _ hm, State.lane_tookFree]

/-! ### Reissue after a core fault (R366, R367) -/

/-- A job of a core in quarantine that has not returned goes to the fallback pipeline. -/
def Job.reissued (k : Nat) (j : Job) : Job :=
  if j.core == k && !j.onFallback && j.fin.isNone then { j with onFallback := true } else j

@[simp] theorem Job.reissued_frame (k : Nat) (j : Job) : (j.reissued k).frame = j.frame := by
  unfold reissued; split <;> rfl

theorem Job.not_waits_reissued (k : Nat) (j : Job) :
    ((j.reissued k).core == k && (j.reissued k).onFallback == false && (j.reissued k).fin.isNone) = false := by
  unfold reissued
  split
  · simp
  · next h => simpa [Option.isSome_iff_ne_none] using h

theorem State.quad_reissue (s : State) (k : Nat) (q : QuadId) :
    (s.reissue k).quad q = { s.quad q with cph := { (s.quad q).cph with
      rob := (s.quad q).cph.rob.map (Job.reissued k)
      cnt := vmod (s.quad q).cph.cnt 7 (· + BitVec.ofNat 64 ((s.quad q).jobsOf k false).length) } } :=
  Vector.getElem_map _ q.isLt

/-- Settles O32: reissue marks the waiting jobs of the core in place, so that none of them waits there any more. -/
theorem reissueKeepsEveryJob : Obligations.ReissueKeepsEveryJob := by
  intro s k q
  rw [State.quad_reissue]
  refine ⟨List.length_map _, ?_, ?_, vget_vmod_same (by decide)⟩
  · rw [List.map_map]
    exact List.map_congr_left fun j _ => j.reissued_frame k
  · refine List.filter_eq_nil_iff.mpr fun j hj => ?_
    obtain ⟨j, -, rfl⟩ := List.mem_map.mp hj
    rw [j.not_waits_reissued k]
    decide

end Sys2Proof.Machine
end

/-!
Zeroisation (R407): the keys of the key island, of the cores and of the lanes' downstream framers.
-/
section
namespace Sys2Proof.Machine

/-! ### A wiped lane stays wiped -/

/-- The downstream keys of lane m are wiped. -/
def State.DsKeysWiped (s : State) (m : LaneId) : Prop := (s.lane m).ds.keys = Vector.replicate 4 none

section
variable {s : State} {m : LaneId} (n : LaneId)

theorem Only.dsKeysWiped {ps : List Part} {t : State} (h : Only ps s t) (hp : ps.contains .lanes = false) (hs : s.DsKeysWiped m) :
    t.DsKeysWiped m := by
  have hl : t.lanes = s.lanes := h .lanes hp
  rwa [State.DsKeysWiped, State.lane, hl]

theorem State.modLane_dsKeysWiped {f : Lane → Lane}
    (hf : ∀ l : Lane, l.ds.keys = Vector.replicate 4 none → (f l).ds.keys = Vector.replicate 4 none) (h : s.DsKeysWiped m) :
    (s.modLane n f).DsKeysWiped m := by
  unfold State.DsKeysWiped
  by_cases hm : m = n
  · subst hm
    rw [State.lane_modLane_same]
    exact hf _ h
  · rwa [State.lane_modLane_ne s f hm]

@[simp] theorem State.modAct_dsKeysWiped (f : Act5 → Act5) (h : s.DsKeysWiped m) : (s.modAct n f).DsKeysWiped m :=
  State.modLane_dsKeysWiped n (fun _ hl => hl) h

@[simp] theorem State.modBond_dsKeysWiped (f : Member → Member) (h : s.DsKeysWiped m) : (s.modBond n f).DsKeysWiped m :=
  State.modLane_dsKeysWiped n (fun _ hl => hl) h

@[simp] theorem State.modPump_dsKeysWiped (f : Pump → Pump) (h : s.DsKeysWiped m) : (s.modPump n f).DsKeysWiped m :=
  State.modLane_dsKeysWiped n (fun _ hl => hl) h

theorem State.modDs_dsKeysWiped {f : LineDs → LineDs} (hf : ∀ d, (f d).keys = Vector.replicate 4 none) (h : s.DsKeysWiped m) :
    (s.modDs n f).DsKeysWiped m :=
  State.modLane_dsKeysWiped n (fun _ _ => hf _) h

theorem State.dsKeysWiped_modDs_same {f : LineDs → LineDs} (hf : ∀ d, (f d).keys = Vector.replicate 4 none) :
    (s.modDs n f).DsKeysWiped n := by
  rw [State.DsKeysWiped, State.lane_modDs_same]
  exact hf _

end

section
variable {s : State} {m : LaneId}

@[simp] theorem State.ageQueues_dsKeysWiped (n : LaneId) (h : s.DsKeysWiped m) : (s.ageQueues n).DsKeysWiped m := 
  (State.ageQueues_only _ _).dsKeysWiped rfl h

@[simp] theorem State.judgeGroup_dsKeysWiped (g : Nat) (left : Bool) (who : Option Nat) (h : s.DsKeysWiped m) : (s.judgeGroup g left who).DsKeysWiped m := 
  (State.judgeGroup_only _ _ _ _).dsKeysWiped rfl h

@[simp] theorem State.judgeToken_dsKeysWiped (g : Nat) (h : s.DsKeysWiped m) : (s.judgeToken g).DsKeysWiped m := 
  (State.judgeToken_only _ _).dsKeysWiped rfl h

@[simp] theorem State.withdrawTune_dsKeysWiped (n : LaneId) (h : s.DsKeysWiped m) : (s.withdrawTune n).DsKeysWiped m := 
  (State.withdrawTune_only _ _).dsKeysWiped rfl h

@[simp] theorem State.keyCnt_dsKeysWiped (c k : Nat) (h : s.DsKeysWiped m) : (s.keyCnt c k).DsKeysWiped m := 
  (State.keyCnt_only _ _ _).dsKeysWiped rfl h

@[simp] theorem State.tookFree_dsKeysWiped (h : s.DsKeysWiped m) : (s.tookFree).DsKeysWiped m := h

@[simp] theorem State.emit_dsKeysWiped (o : Out) (h : s.DsKeysWiped m) : (s.emit o).DsKeysWiped m := h

@[simp] theorem State.reportIf_dsKeysWiped (c : Bool) (e : Nat) (sev : BitVec 3) (detail : List Byte) 
    (h : s.DsKeysWiped m) : (s.reportIf c e sev detail).DsKeysWiped m := by
  rwa [State.DsKeysWiped, State.lane_reportIf]

@[simp] theorem State.freePos_dsKeysWiped (n : LaneId) (h : s.DsKeysWiped m) : (s.freePos n).DsKeysWiped m :=
  State.modBond_dsKeysWiped n _ h

@[simp] theorem State.setMember_dsKeysWiped (n : LaneId) (st : MState) (h : s.DsKeysWiped m) : (s.setMember n st).DsKeysWiped m := by
  have hst := State.modBond_dsKeysWiped n (fun b => { b with state := st }) h
  unfold State.setMember
  dsimp only
  split
  · simp [hst]
  · exact hst

@[simp] theorem State.memberIdle_dsKeysWiped (n : LaneId) (h : s.DsKeysWiped m) : (s.memberIdle n).DsKeysWiped m := by
  unfold State.memberIdle
  split <;> simp [h]

@[simp] theorem State.sendBond_dsKeysWiped (n : LaneId) (type : Byte) (token : W32) (pos : Option (BitVec 6)) (echo : Option Byte) (body : List Byte)
    (h : s.DsKeysWiped m) : (s.sendBond n type token pos echo body).DsKeysWiped m := by
  unfold State.sendBond
  split <;> simp [h]

@[simp] theorem State.sendCaps_dsKeysWiped (n : LaneId) (h : s.DsKeysWiped m) : (s.sendCaps n).DsKeysWiped m := by
  simp [State.sendCaps, h]

@[simp] theorem State.probe_dsKeysWiped (n : LaneId) (h : s.DsKeysWiped m) : (s.probe n).DsKeysWiped m := by
  unfold State.probe
  split
  · exact State.sendCaps_dsKeysWiped n (by simp [h])
  · exact h

@[simp] theorem State.setAct_dsKeysWiped (n : LaneId) (st : ActState) (h : s.DsKeysWiped m) : (s.setAct n st).DsKeysWiped m := by
  have htune : (if (s.lane n).act.state == .o8 && st != .o8 then s.withdrawTune n else s).DsKeysWiped m := by
    split <;> simp [h]
  have hact := fun c => State.reportIf_dsKeysWiped c (laneEv n 6) 1 [2] (State.modAct_dsKeysWiped n
    (fun a => { a with state := st, to1 := none, to2 := none, to4 := none, to5 := none }) htune)
  unfold State.setAct
  dsimp only
  split
  · exact State.probe_dsKeysWiped n (hact _)
  · exact hact _

@[simp] theorem State.fromO11_dsKeysWiped (n : LaneId) (h : s.DsKeysWiped m) : (s.fromO11 n).DsKeysWiped m := by
  unfold State.fromO11
  dsimp only
  (repeat' split) <;> simp [h]

@[simp] theorem State.toO11_dsKeysWiped (n : LaneId) (h : s.DsKeysWiped m) : (s.toO11 n).DsKeysWiped m := by
  exact State.fromO11_dsKeysWiped n (by simp [h])

@[simp] theorem State.encryptBegun_dsKeysWiped (n : LaneId) (h : s.DsKeysWiped m) : (s.encryptBegun n).DsKeysWiped m := by
  unfold State.encryptBegun
  split <;> simp [h]

@[simp] theorem State.releaseOnu_dsKeysWiped (n : LaneId) (h : s.DsKeysWiped m) : (s.releaseOnu n).DsKeysWiped m := by
  have hds := State.modDs_dsKeysWiped n (f := fun d => { d with ctl := setBit d.ctl 10 false, keys := Vector.replicate 4 none })
    (fun _ => rfl) (State.encryptBegun_dsKeysWiped n h)
  exact State.memberIdle_dsKeysWiped n (State.modAct_dsKeysWiped n _ (by simp [hds]))

@[simp] theorem State.exitTo11_dsKeysWiped (n : LaneId) (why : BitVec 3) (h : s.DsKeysWiped m) : (s.exitTo11 n why).DsKeysWiped m := by
  exact State.toO11_dsKeysWiped n (by simp [h])

theorem State.zeroiseLane_dsKeysWiped (n : LaneId) (h : s.DsKeysWiped m) : (s.zeroiseLane n).DsKeysWiped m := by
  have hds := State.modDs_dsKeysWiped n (f := fun d => { d with keys := Vector.replicate 4 none }) (fun _ => rfl)
    (State.encryptBegun_dsKeysWiped n h)
  unfold State.zeroiseLane
  dsimp only
  split <;> simp [hds]

theorem State.dsKeysWiped_zeroiseLane_same (s : State) (n : LaneId) : (s.zeroiseLane n).DsKeysWiped n := by
  have hds : ((s.encryptBegun n).modDs n fun d => { d with keys := Vector.replicate 4 none }).DsKeysWiped n :=
    State.dsKeysWiped_modDs_same n fun _ => rfl
  unfold State.zeroiseLane
  dsimp only
  split <;> simp [hds]

theorem State.dsKeysWiped_foldl_zeroiseLane {l : List LaneId} (h : m ∈ l ∨ s.DsKeysWiped m) : (l.foldl State.zeroiseLane s).DsKeysWiped m := by
  induction l generalizing s with
  | nil => simpa using h
  | cons n l ih =>
    refine ih ?_
    rcases h with hm | hs
    · rcases List.mem_cons.mp hm with rfl | hl
      · exact .inr (s.dsKeysWiped_zeroiseLane_same m)
      · exact .inl hl
    · exact .inr (State.zeroiseLane_dsKeysWiped n hs)

end

theorem State.foldl_zeroiseLane_only (l : List LaneId) (s : State) :
    Only [.evt, .cst, .stw, .quads, .lanes, .out, .freeIdx] s (l.foldl State.zeroiseLane s) :=
  Only.foldl _ (fun u n => State.zeroiseLane_only u n) (.refl _ s)

theorem State.foldl_zeroiseLane_key (l : List LaneId) (s : State) : (l.foldl State.zeroiseLane s).key = s.key :=
  State.foldl_zeroiseLane_only l s .key rfl

theorem State.foldl_zeroiseLane_cores (l : List LaneId) (s : State) : (l.foldl State.zeroiseLane s).cores = s.cores :=
  State.foldl_zeroiseLane_only l s .cores rfl

/-- Settles O35: the key island and the cores are emptied before the lanes are zeroised, one by one. -/
theorem zeroisationWipesEveryKey : Obligations.ZeroisationWipesEveryKey := by
  intro s
  have hlanes (n : LaneId) : s.zeroiseSteps.DsKeysWiped n :=
    State.keyCnt_dsKeysWiped 6 1 (State.dsKeysWiped_foldl_zeroiseLane (.inl (List.mem_finRange n)))
  refine ⟨_, rfl, ?_, ?_, ?_, ?_, ?_, fun k => ?_, ?_, ?_, hlanes⟩
  all_goals
    simp [State.zeroiseSteps, State.keyCnt, State.core, State.foldl_zeroiseLane_key, State.foldl_zeroiseLane_cores, State.drbgStart,
      State.modKey]

end Sys2Proof.Machine
end

/-!
A completed APPLY (R46, R53, R54): what the loader's registers hold after it. The power sequencing that follows may drop quadrants, which
breaks an APPLY in progress; this one has ended by then.
-/
section
namespace Sys2Proof.Machine

/-- A loader at rest stays as it is. -/
def KeepsIdleLoader (s t : State) : Prop := s.str.busy = none → t.str = s.str

namespace KeepsIdleLoader

variable {s t u : State}

theorem trans (h : KeepsIdleLoader s t) (k : KeepsIdleLoader t u) : KeepsIdleLoader s u := fun hs => by
  have ht := h hs
  rw [k (ht ▸ hs), ht]

theorem of_str (h : t.str = s.str) : KeepsIdleLoader s t := fun _ => h

theorem of_only {ps : List Part} (h : Only ps s t) (hp : ps.contains .str = false) : KeepsIdleLoader s t := .of_str (h .str hp)

theorem refl (s : State) : KeepsIdleLoader s s := .of_str rfl

theorem ite {c : Prop} [Decidable c] (ht : KeepsIdleLoader s t) (hu : KeepsIdleLoader s u) : KeepsIdleLoader s (if c then t else u) := by
  split <;> assumption

theorem foldl {α : Type} {f : State → α → State} (hf : ∀ u a, KeepsIdleLoader u (f u a)) (l : List α) :
    KeepsIdleLoader s (l.foldl f s) := by
  induction l generalizing s with
  | nil => exact .refl s
  | cons a l ih => exact (hf s a).trans ih

theorem applyBroken (q : Nat) : KeepsIdleLoader s (s.applyBroken q) := fun hs => by
  rw [State.applyBroken, hs]

theorem quadOff (q : Nat) (retain : Bool) : KeepsIdleLoader s (s.quadOff q retain) := by
  have hbroken : KeepsIdleLoader s ((s.quadDiscard q).applyBroken q) := (of_only (State.quadDiscard_only s q) rfl).trans (applyBroken q)
  exact .ite hbroken (hbroken.trans (of_only (State.quadReset_only _ q) rfl))

theorem leaveOn (d : Nat) (retain : Bool) : KeepsIdleLoader s (s.leaveOn d retain) := by
  unfold State.leaveOn
  refine .ite (of_only (State.timOff_only s retain) rfl) (.ite (of_only (State.hifOff_only s) rfl) (.ite (of_only (State.cstOff_only s _) rfl)
    (.ite (quadOff _ retain) (.ite (of_only (State.coresOff_only s _ retain) rfl) (.ite (of_only (State.fbkOff_only s retain) rfl) ?_)))))
  split
  · next n _ =>
    have hlane : KeepsIdleLoader s (if d < 112 then s.rxOff n retain else s.txOff n retain) :=
      .ite (of_only (State.rxOff_only s n retain) rfl) (of_only (State.txOff_only s n retain) rfl)
    exact .ite hlane (hlane.trans (of_only (State.modLane_only _ _ _) rfl))
  · exact .refl s

theorem dropDom (d : Nat) : KeepsIdleLoader s (s.dropDom d) :=
  (of_only (State.markDom_only s d false _) rfl).trans (leaveOn d _)

theorem drops : KeepsIdleLoader s s.drops := by
  unfold State.drops
  refine .trans (.trans (foldl (fun _ d => dropDom d) _) (foldl (fun u d => ?_) _)) (foldl (fun u n => ?_) _)
  · exact .ite (of_only (State.retainOff_only u d) rfl) (.refl u)
  · exact .ite (of_only (State.discardBursts_only u n) rfl) (.refl u)

theorem powerSettle : KeepsIdleLoader s s.powerSettle := by
  have hdrops : KeepsIdleLoader s s.drops.drops := drops.trans drops
  unfold State.powerSettle
  generalize s.drops.drops = u at hdrops ⊢
  dsimp only
  split
  · exact hdrops.trans (.of_str rfl)
  · exact hdrops.trans (.of_str rfl)

end KeepsIdleLoader

/-- The loader with an image installed in the quadrants of a mask. -/
def Loader.installed (x : Loader) (b : List Byte) (mask : BitVec 4) (us : W32) : Loader :=
  { x with
    run := Vector.ofFn fun q : Fin 4 => if bit mask q.val then some (imgQuad b q.val) else x.run[q.val]
    common := some (imgCommon b)
    cores := imgCoreVec b
    roles := Vector.ofFn fun n : Fin 96 => if bit mask (n.val / 24) then byteAt (imgRoles b) n.val else x.roles[n.val]
    dark := 0, lastApplyUs := us, busy := none }

theorem State.foldl_str {α : Type} {f : State → α → State} (hf : ∀ u a, (f u a).str = u.str) (l : List α) (s : State) :
    (l.foldl f s).str = s.str := by
  induction l generalizing s with
  | nil => rfl
  | cons a l ih => rw [List.foldl_cons, ih, hf]

theorem State.flushes_str (s : State) (mask : BitVec 4) (k : Nat) :
    ((((s.timeSdh mask).tblDone []).flushQuads mask).replaceEntries k).str = s.str := by
  calc _ = (((s.timeSdh mask).tblDone []).flushQuads mask).str := State.replaceEntries_only _ k .str rfl
    _ = ((s.timeSdh mask).tblDone []).str := State.flushQuads_only _ mask .str rfl
    _ = (s.timeSdh mask).str := State.tblDone_only _ [] .str rfl
    _ = s.str := State.timeSdh_only s mask .str rfl

theorem State.judgeVcats_str (s : State) (n : LaneId) : (s.judgeVcats n).str = s.str := State.judgeVcats_only s n .str rfl

theorem State.foldl_judgeVcats_str (l : List (LaneId × Bool)) (s : State) :
    (l.foldl (fun (u : State) (x : LaneId × Bool) => u.judgeVcats x.1) s).str = s.str := by
  induction l generalizing s with
  | nil => rfl
  | cons x l ih => rw [List.foldl_cons, ih, State.judgeVcats_str]

/-- What follows the installation of the image moves the readback digests alone. -/
theorem State.applied_str (s : State) (b : List Byte) (mask : BitVec 4) (us : W32) :
    ∃ d, (s.applied b mask us).str = { s.str.installed b mask us with rbDigest := d } := by
  unfold State.applied
  extract_lets lanes split s1 s2 s3 s4 s5 s6 s7 pwr s8
  have h1 : s1.str = s.str := State.foldl_str (fun u q => State.quadApply_only u q .str rfl) _ s
  have h2 : s2.str = s.str := by
    rw [← h1]
    exact (Only.ite (State.regionsLost_only s1) (.refl _ s1)) .str rfl
  have h3 : s3.str = s.str.installed b mask us := by rw [← h2]; rfl
  have h4 : s4.str = s3.str := State.foldl_str (fun u x => State.laneRestart_only u _ _ .str rfl) _ s3
  have h5 : s5.str = s4.str := State.flushes_str s4 mask split
  have h6 : s6.str = s5.str := State.foldl_str (fun u q => State.loaderVotes_only u q .str rfl) _ s5
  have h7 : s7.str = (s6.digests mask).str := State.foldl_judgeVcats_str lanes _
  have h8 : s8.str = (s6.digests mask).str := h7
  have hinst : s6.str = s.str.installed b mask us := by rw [h6, h5, h4, h3]
  have hdig : (s6.digests mask).str = { s.str.installed b mask us with rbDigest := (s6.digests mask).str.rbDigest } := by
    rw [← hinst]; rfl
  clear_value s8 s7 s6 s5 s4 s3 s2 s1
  have hsettle : s8.resubst.powerSettle.str = s8.str := by
    have hre : s8.resubst.str = s8.str := State.resubst_only s8 .str rfl
    rw [KeepsIdleLoader.powerSettle (by rw [hre, h8, hdig]; rfl), hre]
  exact ⟨_, by rw [hsettle, h8, hdig]⟩

theorem exec_applyDone_host {s : State} {mask : BitVec 4} {b : List Byte} (us : W32) (hbusy : s.str.busy = some (.apply mask))
    (hauto : s.str.auto = none) (hstage : s.str.staging = some b) :
    exec (.applyDone us) s = .next (((s.applied b mask us).modStr fun x => { x with
      state := .applied, appliedMask := x.appliedMask ||| mask }).report 920 1) := by
  simp [exec, execApplyDone, hbusy, hauto, hstage]

theorem State.applied_vault (s : State) (b : List Byte) (mask : BitVec 4) (us : W32) : (s.applied b mask us).vault = s.vault :=
  State.applied_only s b mask us .vault rfl

/-- Settles O4: the image is installed before anything else happens, and a loader at rest stands through what follows. -/
theorem applyInstallsTheImage : Obligations.ApplyInstallsTheImage := by
  intro s mask us b hbusy hauto hstage
  obtain ⟨d, hstr⟩ := s.applied_str b mask us
  refine ⟨_, exec_applyDone_host us hbusy hauto hstage, ?_⟩
  simp only [State.report_str, State.report_vault, State.applied_vault, State.modStr, hstr, Loader.installed, hstage,
    Vector.getElem_ofFn, implies_true, and_self]

end Sys2Proof.Machine
end

/-!
Bursts cut by THERMAL_TRIP: what a cut moves in other lanes is the flow control of Ethernet ports (R53, R233).
-/
section
namespace Sys2Proof.Machine

/-- Every lane but n is the same, but for the flow control of its Ethernet port. -/
def SparesButEth (n : LaneId) (s t : State) : Prop := ∀ m : LaneId, m ≠ n → t.lane m = { s.lane m with eth := (t.lane m).eth }

namespace SparesButEth

variable {n : LaneId} {s t u : State}

theorem trans (h : SparesButEth n s t) (k : SparesButEth n t u) : SparesButEth n s u := fun m hm => by
  rw [k m hm, h m hm]

theorem of_spares (h : SparesLanes n s t) : SparesButEth n s t := fun m hm => by
  rw [h m hm]

theorem of_lanes (h : t.lanes = s.lanes) : SparesButEth n s t := .of_spares (.of_lanes h)

theorem refl (n : LaneId) (s : State) : SparesButEth n s s := .of_lanes rfl

theorem ite {c : Prop} [Decidable c] (ht : SparesButEth n s t) (hu : SparesButEth n s u) : SparesButEth n s (if c then t else u) := by
  split <;> assumption

theorem foldl {α : Type} {f : State → α → State} (hf : ∀ u a, SparesButEth n u (f u a)) (l : List α) : SparesButEth n s (l.foldl f s) := by
  induction l generalizing s with
  | nil => exact .refl n s
  | cons a l ih => exact (hf s a).trans ih

section
variable (h : SparesButEth n s t)
include h

theorem modPump (f : Pump → Pump) : SparesButEth n s (t.modPump n f) := h.trans (.of_spares fun _ hm => t.lane_modPump_ne f hm)

theorem modAct (f : Act5 → Act5) : SparesButEth n s (t.modAct n f) := h.trans (.of_spares fun _ hm => t.lane_modAct_ne f hm)

theorem modCom (f : LaneCommon → LaneCommon) : SparesButEth n s (t.modCom n f) := h.trans (.of_spares (.modCom f))

theorem usCnt (c k : Nat) : SparesButEth n s (t.usCnt n c k) := h.modPump _

theorem modTm (q : Nat) (down : Bool) (f : TrafficMgr → TrafficMgr) : SparesButEth n s (t.modTm q down f) := h.trans (.of_lanes rfl)

theorem modQuadN (q : Nat) (f : Quad → Quad) : SparesButEth n s (t.modQuadN q f) := h.trans (.of_lanes rfl)

theorem toSump (q cause k : Nat) : SparesButEth n s (t.toSump q cause k) := h.trans (.of_lanes rfl)

theorem sumpN (q cause j k : Nat) : SparesButEth n s (t.sumpN q cause j k) := h.trans (.of_lanes rfl)

theorem sendInverted (k : Option Nat) : SparesButEth n s (t.sendInverted n k) :=
  h.trans (.of_lanes (State.sendInverted_only t n k .lanes rfl))

theorem flowAll (q : Nat) (xoff : Bool) : SparesButEth n s (t.flowAll q xoff) := h.trans fun m _ => by
  simp only [State.flowAll, State.lane, Vector.getElem_ofFn]
  split <;> rfl

theorem floats (q : Nat) : SparesButEth n s (t.floats q) :=
  .ite (.ite ((h.modQuadN q _).flowAll q false) h) (.ite ((h.modQuadN q _).flowAll q true) h)

theorem darkLeft (q : Nat) : SparesButEth n s (t.darkLeft q) := .ite (((h.sumpN q 16 _ _).modTm q false _).floats q) h

theorem dropBursts (gone : List Nat) : SparesButEth n s (t.dropBursts n gone) := ((h.modPump _).modTm _ false _).modAct _

theorem msgLeft (id : Nat) : SparesButEth n s (t.msgLeft n id) := (h.modAct _).usCnt 18 1

theorem ploamuLeft (b : Burst) : SparesButEth n s (t.ploamuLeft n b) := by
  have hserial : SparesButEth n s (if b.serial then t.usCnt n 22 else t) := .ite (h.usCnt 22 1) h
  exact .ite hserial (.ite (hserial.msgLeft b.id) (hserial.usCnt 19 1))

theorem losePiece (p : Piece) : SparesButEth n s (t.losePiece n p) := by
  unfold State.losePiece
  split
  · exact h.usCnt 13 _
  · dsimp only
    split
    · exact h
    · exact .ite h (.ite (((((h.usCnt 21 1).toSump _ 17 _).modTm _ false _).usCnt 21 1).toSump _ 17 _)
        (((h.usCnt 21 1).toSump _ 17 _).modTm _ false _))

theorem losePieces (l : List Piece) : SparesButEth n s (l.foldl (fun u p => u.losePiece n p) t) :=
  h.trans (foldl (fun u p => losePiece (.refl n u) p) l)

theorem cutAfter (b : Burst) (k : Nat) : SparesButEth n s (t.cutAfter n b k) := by
  unfold State.cutAfter
  extract_lets u s1 s2 s3
  have h1 : SparesButEth n s s1 := h.usCnt 3 1
  have h2 : SparesButEth n s s2 := .ite (h1.ploamuLeft b) h1
  have h3 : SparesButEth n s s3 := .ite (h2.sendInverted b.inject) h2
  exact (((h3.losePieces _).usCnt 17 _).modPump _).dropBursts _

theorem cutsAfter (l : List Burst) : SparesButEth n s (l.foldl (fun u c => u.cutAfter n c 0) t) :=
  h.trans (foldl (fun u c => cutAfter (.refl n u) c 0) l)

theorem cutBurst : SparesButEth n s (t.cutBurst n) := by
  unfold State.cutBurst
  split
  · exact h
  · next b later _ =>
    have htook : SparesButEth n s t.tookFree := h
    exact (((htook.cutAfter b _).cutsAfter later).modCom _).darkLeft _

end

end SparesButEth

/-- The transmitter of a line lane stops, and what its burst held is discarded (R586). -/
def State.tripLane (s : State) (n : LaneId) : State := (s.cutBurst n).modCom n fun c => { c with txen := false }

theorem State.tripLane_spares (s : State) (n : LaneId) : SparesButEth n s (s.tripLane n) := (SparesButEth.refl n s).cutBurst.modCom _

theorem State.tripLane_txen (s : State) (n m : LaneId) (h : m = n ∨ (s.lane m).com.txen = false) :
    ((s.tripLane n).lane m).com.txen = false := by
  by_cases hm : m = n
  · subst hm
    rw [State.tripLane, State.lane_modCom_same]
  · rw [s.tripLane_spares n m hm]
    exact h.resolve_left hm

theorem State.foldl_tripLane_txen {l : List LaneId} {m : LaneId} {s : State} (h : m ∈ l ∨ (s.lane m).com.txen = false) :
    ((l.foldl State.tripLane s).lane m).com.txen = false := by
  induction l generalizing s with
  | nil => simpa using h
  | cons n l ih =>
    refine ih ?_
    rw [List.mem_cons, or_assoc] at h
    rcases h with hn | hl | hs
    · exact .inr (s.tripLane_txen n m (.inl hn))
    · exact .inl hl
    · exact .inr (s.tripLane_txen n m (.inr hs))

theorem State.foldl_tripLane_lane {l : List LaneId} {m : LaneId} {s : State} (h : m ∉ l) :
    (l.foldl State.tripLane s).lane m = { s.lane m with eth := ((l.foldl State.tripLane s).lane m).eth } := by
  induction l generalizing s with
  | nil => rfl
  | cons n l ih =>
    obtain ⟨hn, hl⟩ := not_or.mp (mt List.mem_cons.mpr h)
    rw [List.foldl_cons, ih hl, s.tripLane_spares n m hn]

theorem State.foldl_tripLane_pins (l : List LaneId) (s : State) : (l.foldl State.tripLane s).pins = s.pins := by
  have h : Only [.sys, .quads, .lanes, .out, .freeIdx] s (l.foldl State.tripLane s) :=
    Only.foldl l (fun u n => (State.modCom_only _ n _).step rfl (State.cutBurst_only u n)) (.refl _ s)
  exact h .pins rfl

end Sys2Proof.Machine
end

/-!
An update of one unit depends on what its function does with the unit as it stands; two updates of the same unit are one.
-/
section
namespace Sys2Proof.Machine

variable {s : State} {n : LaneId}

theorem State.modLane_congr {f g : Lane → Lane} (h : f (s.lane n) = g (s.lane n)) : s.modLane n f = s.modLane n g := by
  simp only [State.lane] at h
  simp only [State.modLane, h]

theorem State.modLane_modLane (s : State) (n : LaneId) (f g : Lane → Lane) : (s.modLane n f).modLane n g = s.modLane n fun l => g (f l) := by
  simp [State.modLane]

theorem State.modLane_eq_self {f : Lane → Lane} (h : f (s.lane n) = s.lane n) : s.modLane n f = s := by
  simp only [State.lane] at h
  simp [State.modLane, h]

theorem State.modLane_id (s : State) (n : LaneId) : (s.modLane n fun l => l) = s := State.modLane_eq_self rfl

theorem State.modCom_congr {f g : LaneCommon → LaneCommon} (h : f (s.lane n).com = g (s.lane n).com) : s.modCom n f = s.modCom n g :=
  State.modLane_congr (congrArg (fun x => { s.lane n with com := x }) h)

theorem State.modCom_modCom (s : State) (n : LaneId) (f g : LaneCommon → LaneCommon) : (s.modCom n f).modCom n g = s.modCom n fun x => g (f x) :=
  s.modLane_modLane n _ _

theorem State.modCom_eq_self {f : LaneCommon → LaneCommon} (h : f (s.lane n).com = (s.lane n).com) : s.modCom n f = s :=
  State.modLane_eq_self (congrArg (fun x => { s.lane n with com := x }) h)

theorem State.modDs_congr {f g : LineDs → LineDs} (h : f (s.lane n).ds = g (s.lane n).ds) : s.modDs n f = s.modDs n g :=
  State.modLane_congr (congrArg (fun x => { s.lane n with ds := x }) h)

theorem State.modDs_modDs (s : State) (n : LaneId) (f g : LineDs → LineDs) : (s.modDs n f).modDs n g = s.modDs n fun x => g (f x) :=
  s.modLane_modLane n _ _

theorem State.modDs_eq_self {f : LineDs → LineDs} (h : f (s.lane n).ds = (s.lane n).ds) : s.modDs n f = s :=
  State.modLane_eq_self (congrArg (fun x => { s.lane n with ds := x }) h)

theorem State.modAct_congr {f g : Act5 → Act5} (h : f (s.lane n).act = g (s.lane n).act) : s.modAct n f = s.modAct n g :=
  State.modLane_congr (congrArg (fun x => { s.lane n with act := x }) h)

theorem State.modAct_modAct (s : State) (n : LaneId) (f g : Act5 → Act5) : (s.modAct n f).modAct n g = s.modAct n fun x => g (f x) :=
  s.modLane_modLane n _ _

theorem State.modAct_eq_self {f : Act5 → Act5} (h : f (s.lane n).act = (s.lane n).act) : s.modAct n f = s :=
  State.modLane_eq_self (congrArg (fun x => { s.lane n with act := x }) h)

theorem State.modPump_congr {f g : Pump → Pump} (h : f (s.lane n).pump = g (s.lane n).pump) : s.modPump n f = s.modPump n g :=
  State.modLane_congr (congrArg (fun x => { s.lane n with pump := x }) h)

theorem State.modPump_modPump (s : State) (n : LaneId) (f g : Pump → Pump) : (s.modPump n f).modPump n g = s.modPump n fun x => g (f x) :=
  s.modLane_modLane n _ _

theorem State.modPump_eq_self {f : Pump → Pump} (h : f (s.lane n).pump = (s.lane n).pump) : s.modPump n f = s :=
  State.modLane_eq_self (congrArg (fun x => { s.lane n with pump := x }) h)

theorem State.modBond_congr {f g : Member → Member} (h : f (s.lane n).bond = g (s.lane n).bond) : s.modBond n f = s.modBond n g :=
  State.modLane_congr (congrArg (fun x => { s.lane n with bond := x }) h)

theorem State.modBond_modBond (s : State) (n : LaneId) (f g : Member → Member) : (s.modBond n f).modBond n g = s.modBond n fun x => g (f x) :=
  s.modLane_modLane n _ _

theorem State.modBond_eq_self {f : Member → Member} (h : f (s.lane n).bond = (s.lane n).bond) : s.modBond n f = s :=
  State.modLane_eq_self (congrArg (fun x => { s.lane n with bond := x }) h)

theorem State.modEth_congr {f g : EthPort → EthPort} (h : f (s.lane n).eth = g (s.lane n).eth) : s.modEth n f = s.modEth n g :=
  State.modLane_congr (congrArg (fun x => { s.lane n with eth := x }) h)

theorem State.modEth_modEth (s : State) (n : LaneId) (f g : EthPort → EthPort) : (s.modEth n f).modEth n g = s.modEth n fun x => g (f x) :=
  s.modLane_modLane n _ _

theorem State.modEth_eq_self {f : EthPort → EthPort} (h : f (s.lane n).eth = (s.lane n).eth) : s.modEth n f = s :=
  State.modLane_eq_self (congrArg (fun x => { s.lane n with eth := x }) h)

theorem State.modSdh_congr {f g : SdhPort → SdhPort} (h : f (s.lane n).sdh = g (s.lane n).sdh) : s.modSdh n f = s.modSdh n g :=
  State.modLane_congr (congrArg (fun x => { s.lane n with sdh := x }) h)

theorem State.modSdh_modSdh (s : State) (n : LaneId) (f g : SdhPort → SdhPort) : (s.modSdh n f).modSdh n g = s.modSdh n fun x => g (f x) :=
  s.modLane_modLane n _ _

theorem State.modSdh_eq_self {f : SdhPort → SdhPort} (h : f (s.lane n).sdh = (s.lane n).sdh) : s.modSdh n f = s :=
  State.modLane_eq_self (congrArg (fun x => { s.lane n with sdh := x }) h)

theorem State.modHb_congr {f g : HostBond → HostBond} (h : f (s.lane n).hb = g (s.lane n).hb) : s.modHb n f = s.modHb n g :=
  State.modLane_congr (congrArg (fun x => { s.lane n with hb := x }) h)

theorem State.modHb_modHb (s : State) (n : LaneId) (f g : HostBond → HostBond) : (s.modHb n f).modHb n g = s.modHb n fun x => g (f x) :=
  s.modLane_modLane n _ _

theorem State.modHb_eq_self {f : HostBond → HostBond} (h : f (s.lane n).hb = (s.lane n).hb) : s.modHb n f = s :=
  State.modLane_eq_self (congrArg (fun x => { s.lane n with hb := x }) h)

theorem State.modTs_congr {f g : LaneTs → LaneTs} (h : f (s.lane n).ts = g (s.lane n).ts) : s.modTs n f = s.modTs n g :=
  State.modLane_congr (congrArg (fun x => { s.lane n with ts := x }) h)

theorem State.modTs_modTs (s : State) (n : LaneId) (f g : LaneTs → LaneTs) : (s.modTs n f).modTs n g = s.modTs n fun x => g (f x) :=
  s.modLane_modLane n _ _

theorem State.modTs_eq_self {f : LaneTs → LaneTs} (h : f (s.lane n).ts = (s.lane n).ts) : s.modTs n f = s :=
  State.modLane_eq_self (congrArg (fun x => { s.lane n with ts := x }) h)

theorem State.modQuad_congr {q : QuadId} {f g : Quad → Quad} (h : f (s.quad q) = g (s.quad q)) : s.modQuad q f = s.modQuad q g := by
  simp only [State.quad] at h
  simp only [State.modQuad, h]

theorem State.modCore_congr {k : CoreId} {f g : Core → Core} (h : f (s.core k) = g (s.core k)) : s.modCore k f = s.modCore k g := by
  simp only [State.core] at h
  simp only [State.modCore, h]

theorem State.modStw_congr {q : QuadId} {f g : Steward → Steward} (h : f (s.steward q) = g (s.steward q)) : s.modStw q f = s.modStw q g := by
  simp only [State.steward] at h
  simp only [State.modStw, h]

/-! ### Roles and domains do not depend on the lanes -/

@[simp] theorem State.isLine_modLane (s : State) (n : LaneId) (f : Lane → Lane) (k : Nat) : (s.modLane n f).isLine k = s.isLine k := rfl
@[simp] theorem State.isEth_modLane (s : State) (n : LaneId) (f : Lane → Lane) (k : Nat) : (s.modLane n f).isEth k = s.isEth k := rfl
@[simp] theorem State.isSdh_modLane (s : State) (n : LaneId) (f : Lane → Lane) (k : Nat) : (s.modLane n f).isSdh k = s.isSdh k := rfl
@[simp] theorem State.isHostBond_modLane (s : State) (n : LaneId) (f : Lane → Lane) (k : Nat) : (s.modLane n f).isHostBond k = s.isHostBond k := rfl
@[simp] theorem State.isOn_modLane (s : State) (n : LaneId) (f : Lane → Lane) (k : Nat) : (s.modLane n f).isOn k = s.isOn k := rfl
@[simp] theorem State.isLine_modCom (s : State) (n : LaneId) (f : LaneCommon → LaneCommon) (k : Nat) : (s.modCom n f).isLine k = s.isLine k := rfl
@[simp] theorem State.isEth_modCom (s : State) (n : LaneId) (f : LaneCommon → LaneCommon) (k : Nat) : (s.modCom n f).isEth k = s.isEth k := rfl
@[simp] theorem State.isSdh_modCom (s : State) (n : LaneId) (f : LaneCommon → LaneCommon) (k : Nat) : (s.modCom n f).isSdh k = s.isSdh k := rfl
@[simp] theorem State.isHostBond_modCom (s : State) (n : LaneId) (f : LaneCommon → LaneCommon) (k : Nat) : (s.modCom n f).isHostBond k = s.isHostBond k := rfl
@[simp] theorem State.isOn_modCom (s : State) (n : LaneId) (f : LaneCommon → LaneCommon) (k : Nat) : (s.modCom n f).isOn k = s.isOn k := rfl
@[simp] theorem State.isLine_modDs (s : State) (n : LaneId) (f : LineDs → LineDs) (k : Nat) : (s.modDs n f).isLine k = s.isLine k := rfl
@[simp] theorem State.isEth_modDs (s : State) (n : LaneId) (f : LineDs → LineDs) (k : Nat) : (s.modDs n f).isEth k = s.isEth k := rfl
@[simp] theorem State.isSdh_modDs (s : State) (n : LaneId) (f : LineDs → LineDs) (k : Nat) : (s.modDs n f).isSdh k = s.isSdh k := rfl
@[simp] theorem State.isHostBond_modDs (s : State) (n : LaneId) (f : LineDs → LineDs) (k : Nat) : (s.modDs n f).isHostBond k = s.isHostBond k := rfl
@[simp] theorem State.isOn_modDs (s : State) (n : LaneId) (f : LineDs → LineDs) (k : Nat) : (s.modDs n f).isOn k = s.isOn k := rfl
@[simp] theorem State.isLine_modAct (s : State) (n : LaneId) (f : Act5 → Act5) (k : Nat) : (s.modAct n f).isLine k = s.isLine k := rfl
@[simp] theorem State.isEth_modAct (s : State) (n : LaneId) (f : Act5 → Act5) (k : Nat) : (s.modAct n f).isEth k = s.isEth k := rfl
@[simp] theorem State.isSdh_modAct (s : State) (n : LaneId) (f : Act5 → Act5) (k : Nat) : (s.modAct n f).isSdh k = s.isSdh k := rfl
@[simp] theorem State.isHostBond_modAct (s : State) (n : LaneId) (f : Act5 → Act5) (k : Nat) : (s.modAct n f).isHostBond k = s.isHostBond k := rfl
@[simp] theorem State.isOn_modAct (s : State) (n : LaneId) (f : Act5 → Act5) (k : Nat) : (s.modAct n f).isOn k = s.isOn k := rfl
@[simp] theorem State.isLine_modPump (s : State) (n : LaneId) (f : Pump → Pump) (k : Nat) : (s.modPump n f).isLine k = s.isLine k := rfl
@[simp] theorem State.isEth_modPump (s : State) (n : LaneId) (f : Pump → Pump) (k : Nat) : (s.modPump n f).isEth k = s.isEth k := rfl
@[simp] theorem State.isSdh_modPump (s : State) (n : LaneId) (f : Pump → Pump) (k : Nat) : (s.modPump n f).isSdh k = s.isSdh k := rfl
@[simp] theorem State.isHostBond_modPump (s : State) (n : LaneId) (f : Pump → Pump) (k : Nat) : (s.modPump n f).isHostBond k = s.isHostBond k := rfl
@[simp] theorem State.isOn_modPump (s : State) (n : LaneId) (f : Pump → Pump) (k : Nat) : (s.modPump n f).isOn k = s.isOn k := rfl
@[simp] theorem State.isLine_modBond (s : State) (n : LaneId) (f : Member → Member) (k : Nat) : (s.modBond n f).isLine k = s.isLine k := rfl
@[simp] theorem State.isEth_modBond (s : State) (n : LaneId) (f : Member → Member) (k : Nat) : (s.modBond n f).isEth k = s.isEth k := rfl
@[simp] theorem State.isSdh_modBond (s : State) (n : LaneId) (f : Member → Member) (k : Nat) : (s.modBond n f).isSdh k = s.isSdh k := rfl
@[simp] theorem State.isHostBond_modBond (s : State) (n : LaneId) (f : Member → Member) (k : Nat) : (s.modBond n f).isHostBond k = s.isHostBond k := rfl
@[simp] theorem State.isOn_modBond (s : State) (n : LaneId) (f : Member → Member) (k : Nat) : (s.modBond n f).isOn k = s.isOn k := rfl
@[simp] theorem State.isLine_modEth (s : State) (n : LaneId) (f : EthPort → EthPort) (k : Nat) : (s.modEth n f).isLine k = s.isLine k := rfl
@[simp] theorem State.isEth_modEth (s : State) (n : LaneId) (f : EthPort → EthPort) (k : Nat) : (s.modEth n f).isEth k = s.isEth k := rfl
@[simp] theorem State.isSdh_modEth (s : State) (n : LaneId) (f : EthPort → EthPort) (k : Nat) : (s.modEth n f).isSdh k = s.isSdh k := rfl
@[simp] theorem State.isHostBond_modEth (s : State) (n : LaneId) (f : EthPort → EthPort) (k : Nat) : (s.modEth n f).isHostBond k = s.isHostBond k := rfl
@[simp] theorem State.isOn_modEth (s : State) (n : LaneId) (f : EthPort → EthPort) (k : Nat) : (s.modEth n f).isOn k = s.isOn k := rfl
@[simp] theorem State.isLine_modSdh (s : State) (n : LaneId) (f : SdhPort → SdhPort) (k : Nat) : (s.modSdh n f).isLine k = s.isLine k := rfl
@[simp] theorem State.isEth_modSdh (s : State) (n : LaneId) (f : SdhPort → SdhPort) (k : Nat) : (s.modSdh n f).isEth k = s.isEth k := rfl
@[simp] theorem State.isSdh_modSdh (s : State) (n : LaneId) (f : SdhPort → SdhPort) (k : Nat) : (s.modSdh n f).isSdh k = s.isSdh k := rfl
@[simp] theorem State.isHostBond_modSdh (s : State) (n : LaneId) (f : SdhPort → SdhPort) (k : Nat) : (s.modSdh n f).isHostBond k = s.isHostBond k := rfl
@[simp] theorem State.isOn_modSdh (s : State) (n : LaneId) (f : SdhPort → SdhPort) (k : Nat) : (s.modSdh n f).isOn k = s.isOn k := rfl
@[simp] theorem State.isLine_modHb (s : State) (n : LaneId) (f : HostBond → HostBond) (k : Nat) : (s.modHb n f).isLine k = s.isLine k := rfl
@[simp] theorem State.isEth_modHb (s : State) (n : LaneId) (f : HostBond → HostBond) (k : Nat) : (s.modHb n f).isEth k = s.isEth k := rfl
@[simp] theorem State.isSdh_modHb (s : State) (n : LaneId) (f : HostBond → HostBond) (k : Nat) : (s.modHb n f).isSdh k = s.isSdh k := rfl
@[simp] theorem State.isHostBond_modHb (s : State) (n : LaneId) (f : HostBond → HostBond) (k : Nat) : (s.modHb n f).isHostBond k = s.isHostBond k := rfl
@[simp] theorem State.isOn_modHb (s : State) (n : LaneId) (f : HostBond → HostBond) (k : Nat) : (s.modHb n f).isOn k = s.isOn k := rfl
@[simp] theorem State.isLine_modTs (s : State) (n : LaneId) (f : LaneTs → LaneTs) (k : Nat) : (s.modTs n f).isLine k = s.isLine k := rfl
@[simp] theorem State.isEth_modTs (s : State) (n : LaneId) (f : LaneTs → LaneTs) (k : Nat) : (s.modTs n f).isEth k = s.isEth k := rfl
@[simp] theorem State.isSdh_modTs (s : State) (n : LaneId) (f : LaneTs → LaneTs) (k : Nat) : (s.modTs n f).isSdh k = s.isSdh k := rfl
@[simp] theorem State.isHostBond_modTs (s : State) (n : LaneId) (f : LaneTs → LaneTs) (k : Nat) : (s.modTs n f).isHostBond k = s.isHostBond k := rfl
@[simp] theorem State.isOn_modTs (s : State) (n : LaneId) (f : LaneTs → LaneTs) (k : Nat) : (s.modTs n f).isOn k = s.isOn k := rfl

end Sys2Proof.Machine
end

/-!
What operations on bursts, patterns and framers leave of the lanes' common registers. A view π of those registers stays as it is where an
operation moves other units of the lanes, or registers that the view does not show.
-/
section
namespace Sys2Proof.Machine

/-- Every lane's common registers look the same through the view π. -/
def ComFrame {α : Type} (π : LaneCommon → α) (s t : State) : Prop := ∀ m : LaneId, π (t.lane m).com = π (s.lane m).com

namespace ComFrame

variable {α : Type} {π : LaneCommon → α} {n : LaneId} {s t u : State}

theorem trans (h : ComFrame π s t) (k : ComFrame π t u) : ComFrame π s u := fun m => (k m).trans (h m)

theorem of_lanes (h : t.lanes = s.lanes) : ComFrame π s t := fun m => by rw [State.lane, h, State.lane]

theorem refl (s : State) : ComFrame π s s := .of_lanes rfl

theorem of_only {ps : List Part} (h : Only ps s t) (hp : ps.contains .lanes = false) : ComFrame π s t := .of_lanes (h .lanes hp)

theorem ite {c : Prop} [Decidable c] (ht : ComFrame π s t) (hu : ComFrame π s u) : ComFrame π s (if c then t else u) := by
  split <;> assumption

theorem foldl {β : Type} {f : State → β → State} (hf : ∀ u b, ComFrame π u (f u b)) (l : List β) : ComFrame π s (l.foldl f s) := by
  induction l generalizing s with
  | nil => exact .refl s
  | cons b l ih => exact (hf s b).trans ih

section
variable (h : ComFrame π s t)
include h

theorem modLane {f : Lane → Lane} (hf : ∀ l, π (f l).com = π l.com) : ComFrame π s (t.modLane n f) := fun m => by
  by_cases hm : m = n
  · subst hm
    rw [State.lane_modLane_same, hf, h m]
  · rw [State.lane_modLane_ne t f hm, h m]

theorem modCom {f : LaneCommon → LaneCommon} (hf : ∀ c, π (f c) = π c) : ComFrame π s (t.modCom n f) := h.modLane fun l => hf l.com

theorem modDs (f : LineDs → LineDs) : ComFrame π s (t.modDs n f) := h.modLane fun _ => rfl

theorem modAct (f : Act5 → Act5) : ComFrame π s (t.modAct n f) := h.modLane fun _ => rfl

theorem modPump (f : Pump → Pump) : ComFrame π s (t.modPump n f) := h.modLane fun _ => rfl

theorem modEth (f : EthPort → EthPort) : ComFrame π s (t.modEth n f) := h.modLane fun _ => rfl

theorem modSdh (f : SdhPort → SdhPort) : ComFrame π s (t.modSdh n f) := h.modLane fun _ => rfl

theorem modHb (f : HostBond → HostBond) : ComFrame π s (t.modHb n f) := h.modLane fun _ => rfl

theorem modSdhQuad (q : Nat) (f : SdhPort → SdhPort) : ComFrame π s (t.modSdhQuad q f) := h.trans fun m => by
  simp only [State.modSdhQuad, State.lane, Vector.getElem_ofFn]
  split <;> rfl

theorem flowAll (q : Nat) (xoff : Bool) : ComFrame π s (t.flowAll q xoff) := h.trans fun m => by
  simp only [State.flowAll, State.lane, Vector.getElem_ofFn]
  split <;> rfl

theorem emit (o : Out) : ComFrame π s (t.emit o) := h

theorem tookFree : ComFrame π s t.tookFree := h

theorem modTm (q : Nat) (down : Bool) (f : TrafficMgr → TrafficMgr) : ComFrame π s (t.modTm q down f) := h.trans (.of_lanes rfl)

theorem modQuadN (q : Nat) (f : Quad → Quad) : ComFrame π s (t.modQuadN q f) := h.trans (.of_lanes rfl)

theorem sumpN (q cause j k : Nat) : ComFrame π s (t.sumpN q cause j k) := h.trans (.of_lanes rfl)

theorem toSump (q cause k : Nat) : ComFrame π s (t.toSump q cause k) := h.trans (.of_lanes rfl)

theorem reportIf (c : Bool) (e : Nat) (sev : BitVec 3) (detail : List Byte) : ComFrame π s (t.reportIf c e sev detail) :=
  h.trans (.of_lanes (by simp))

theorem usCnt (c k : Nat) : ComFrame π s (t.usCnt n c k) := h.modPump _

theorem floats (q : Nat) : ComFrame π s (t.floats q) :=
  .ite (.ite ((h.modQuadN q _).flowAll q false) h) (.ite ((h.modQuadN q _).flowAll q true) h)

theorem darkLeft (q : Nat) : ComFrame π s (t.darkLeft q) := .ite (((h.sumpN q 16 _ _).modTm q false _).floats q) h

theorem sumpQueued : ComFrame π s (t.sumpQueued n) := ((h.sumpN _ 20 _ _).modTm _ false _).floats _

theorem dropBursts (gone : List Nat) : ComFrame π s (t.dropBursts n gone) := ((h.modPump _).modTm _ false _).modAct _

theorem discardBursts : ComFrame π s (t.discardBursts n) := (h.dropBursts _).usCnt 9 _

theorem msgLeft (id : Nat) : ComFrame π s (t.msgLeft n id) := (h.modAct _).usCnt 18 1

theorem ploamuLeft (b : Burst) : ComFrame π s (t.ploamuLeft n b) := by
  have hserial : ComFrame π s (if b.serial then t.usCnt n 22 else t) := .ite (h.usCnt 22 1) h
  exact .ite hserial (.ite (hserial.msgLeft b.id) (hserial.usCnt 19 1))

theorem sendInverted (k : Option Nat) : ComFrame π s (t.sendInverted n k) := h.trans (.of_only (State.sendInverted_only t n k) rfl)

theorem losePiece (p : Piece) : ComFrame π s (t.losePiece n p) := by
  unfold State.losePiece
  split
  · exact h.usCnt 13 _
  · dsimp only
    split
    · exact h
    · exact .ite h (.ite (((((h.usCnt 21 1).toSump _ 17 _).modTm _ false _).usCnt 21 1).toSump _ 17 _)
        (((h.usCnt 21 1).toSump _ 17 _).modTm _ false _))

theorem losePieces (l : List Piece) : ComFrame π s (l.foldl (fun u p => u.losePiece n p) t) :=
  h.trans (foldl (fun u p => losePiece (.refl u) p) l)

theorem cutAfter (b : Burst) (k : Nat) : ComFrame π s (t.cutAfter n b k) := by
  unfold State.cutAfter
  extract_lets u s1 s2 s3
  have h1 : ComFrame π s s1 := h.usCnt 3 1
  have h2 : ComFrame π s s2 := .ite (h1.ploamuLeft b) h1
  have h3 : ComFrame π s s3 := .ite (h2.sendInverted b.inject) h2
  exact (((h3.losePieces _).usCnt 17 _).modPump _).dropBursts _

theorem cutsAfter (l : List Burst) : ComFrame π s (l.foldl (fun u c => u.cutAfter n c 0) t) :=
  h.trans (foldl (fun u c => cutAfter (.refl u) c 0) l)

/-- A view that does not show TXEN survives the end of a burst. -/
theorem cutBurst (hπ : ∀ c : LaneCommon, π { c with txen := false } = π c) : ComFrame π s (t.cutBurst n) := by
  unfold State.cutBurst
  split
  · exact h
  · next b later _ => exact ((((h.tookFree).cutAfter b _).cutsAfter later).modCom hπ).darkLeft _

theorem stopBursts (hπ : ∀ c : LaneCommon, π { c with txen := false } = π c) : ComFrame π s (t.stopBursts n) :=
  (h.discardBursts).cutBurst hπ

/-- A view that does not show a waiting injection survives its sending. -/
theorem flushInject (hπ : ∀ c : LaneCommon, π { c with inject := none } = π c) : ComFrame π s (t.flushInject n) := by
  unfold State.flushInject
  split
  · exact .ite ((h.modCom hπ).emit _) h
  · exact h

theorem driveNow : ComFrame π s (t.driveNow n) := .ite (h.emit _) h

theorem startPattern (hπ : ∀ c : LaneCommon, π { c with inject := none } = π c) : ComFrame π s (t.startPattern n) :=
  .ite (((h.tookFree).emit _).flushInject hπ) h

theorem txBegins (hπ : ∀ c : LaneCommon, π { c with inject := none } = π c) : ComFrame π s (t.txBegins n) :=
  ((h.driveNow).startPattern hπ).flushInject hπ

theorem anBegin : ComFrame π s (t.anBegin n) := .ite ((h.modEth _).emit _) (h.modEth _)

theorem ethStart : ComFrame π s (t.ethStart n) := by
  unfold State.ethStart
  exact .ite h (.ite (.ite h.anBegin h) (.ite (h.modEth _) h))

theorem sdhTiming (locked : Bool) : ComFrame π s (t.sdhTiming n locked) :=
  h.trans (foldl (fun u q => .ite (modSdhQuad (.refl u) q _) (.refl u)) _)

theorem judgeLock : ComFrame π s (t.judgeLock n) := h.trans (.of_only (State.judgeLock_only t n) rfl)

end

end ComFrame

end Sys2Proof.Machine
end

/-!
What an update of one lane leaves: a part that the update keeps, read on any lane; and the registers outside the lanes, read through
the short names of the model.
-/
section
namespace Sys2Proof.Machine

/-- A register's bit after one bit of it was written. -/
theorem bit_setBit {w : Nat} (x : BitVec w) {i j : Nat} (b : Bool) (hj : j < w) : bit (setBit x i b) j = if j = i then b else bit x j := by
  have hone : (1#w <<< i).getLsbD j = decide (j = i) := by
    rw [BitVec.getLsbD_shiftLeft, BitVec.getLsbD_one]
    simp only [hj, decide_true, Bool.true_and, ← Bool.decide_and, ← decide_not]
    exact decide_eq_decide.mpr (by omega)
  cases b <;> simp only [setBit, bit, if_true, Bool.false_eq_true, if_false, BitVec.getLsbD_or, BitVec.getLsbD_and, BitVec.getLsbD_not, hone,
    hj, decide_true, Bool.true_and] <;> by_cases h : j = i <;> simp [h]

theorem fld_and {w : Nat} (x y : BitVec w) (lo n : Nat) : fld (x &&& y) lo n = fld x lo n &&& fld y lo n := BitVec.extractLsb'_and

theorem bit_and {w : Nat} (x y : BitVec w) (i : Nat) : bit (x &&& y) i = (bit x i && bit y i) := BitVec.getLsbD_and

/-- Two changes of an entry that agree on what it holds leave the same table. -/
theorem vmod_congr {α : Type} {k : Nat} (d : α) {v : Vector α k} {i : Nat} {f g : α → α} (h : f (vget d v i) = g (vget d v i)) :
    vmod v i f = vmod v i g := by
  by_cases hi : i < k
  · rw [vmod_of_lt hi, vmod_of_lt hi]
    rw [vget_eq_getElem hi] at h
    rw [h]
  · simp [vmod, hi]

theorem vmod_vmod {α : Type} {k : Nat} (v : Vector α k) (i : Nat) (f g : α → α) : vmod (vmod v i f) i g = vmod v i fun x => g (f x) := by
  by_cases h : i < k
  · rw [vmod_of_lt h, vmod_of_lt h, vmod_of_lt h, Vector.getElem_set_self, Vector.set_set]
  · simp [vmod, h]

theorem length_leBytes (n v : Nat) : (leBytes n v).length = n := by
  induction n generalizing v with
  | zero => rfl
  | succ n ih => rw [leBytes, List.length_cons, ih]

variable {s : State} {n : LaneId}

theorem State.modQuadN_modQuadN (s : State) (q : Nat) (f g : Quad → Quad) :
    (s.modQuadN q f).modQuadN q g = s.modQuadN q fun x => g (f x) := by
  simp only [State.modQuadN, vmod_vmod]

theorem State.modStw_modStw (s : State) (q : QuadId) (f g : Steward → Steward) :
    (s.modStw q f).modStw q g = s.modStw q fun x => g (f x) := by
  simp [State.modStw]

/-- A part of the lanes that an update keeps reads the same on every lane after it. -/
theorem State.part_modLane {α : Type} {f : Lane → Lane} (π : Lane → α) (hf : ∀ l, π (f l) = π l) (m : LaneId) :
    π ((s.modLane n f).lane m) = π (s.lane m) := by
  by_cases h : m = n
  · rw [h, State.lane_modLane_same, hf]
  · rw [State.lane_modLane_ne s f h]

@[simp] theorem State.link_modCom (f : LaneCommon → LaneCommon) (m : LaneId) : (s.modCom n f).link m = s.link m :=
  State.part_modLane (f := fun l => { l with com := f l.com }) Lane.hb (fun _ => rfl) _

@[simp] theorem State.beyondN_modCom (f : LaneCommon → LaneCommon) (m : LaneId) : (s.modCom n f).beyondN m = s.beyondN m := by
  simp only [State.beyondN, State.link_modCom]
  rfl

theorem State.mstate_modDs (s : State) (n m : LaneId) (f : LineDs → LineDs) : (s.modDs n f).mstate m = s.mstate m :=
  State.part_modLane (f := fun l => { l with ds := f l.ds }) (fun l => l.bond.state) (fun _ => rfl) m

theorem State.readQuad_reaches {s : State} {p : Port} {q : QuadId} (h : s.reaches p (0x10 + q.val)) (off : Nat) (hoff : off < 0x10000)
    (k : State → W32 × State) : s.readIsl p (quadBase q + off) k = (k s).2.emit (.read p (k s).1) :=
  State.readIsl_reaches h (by unfold quadBase base; omega)

/-- A change of state outside O5.1, where a lane that is bonded would probe its group. -/
theorem State.lane_setAct {st : ActState} (hst : st ≠ .o51) :
    (s.setAct n st).lane n = { s.lane n with act := { (s.lane n).act with state := st, to1 := none, to2 := none, to4 := none, to5 := none } } := by
  simp only [State.setAct, if_neg hst, State.lane_reportIf, State.lane_modAct_same]
  split <;> rfl

end Sys2Proof.Machine
end

section
namespace Sys2Proof.Machine

@[simp] theorem State.toReset_vault (s : State) : s.toReset.vault = s.vault := rfl
@[simp] theorem State.toReset_pins (s : State) : s.toReset.pins = s.pins := rfl
@[simp] theorem State.toReset_str (s : State) : s.toReset.str = {} := rfl
@[simp] theorem State.toReset_evt (s : State) : s.toReset.evt = {} := rfl
@[simp] theorem State.toReset_hif (s : State) : s.toReset.hif = {} := rfl
@[simp] theorem State.toReset_wel (s : State) : s.toReset.wel = {} := rfl
@[simp] theorem State.toReset_key_ready (s : State) : s.toReset.key.ready = false := rfl
@[simp] theorem State.toReset_sys_done (s : State) : s.toReset.sys.done = false := rfl

theorem State.toReset_pwr (s : State) :
    s.toReset.pwr = { rtc := s.pwr.rtc, rtcFrac := s.pwr.rtcFrac, rtcLoad := s.pwr.rtcLoad } := rfl

theorem State.raisePowerCycles_of_ne {s : State} (h : s.vault.powerCycles ≠ BitVec.allOnes 32) :
    s.raisePowerCycles = s.modVault fun v => { v with powerCycles := v.powerCycles + 1 } := if_neg h

theorem exec_reset_powered {s : State} (straps : BitVec 2) (h : s.pins.powered = true) :
    ∃ t, exec (.reset straps) s = .next t ∧ t.sys.src = straps ∧ t.sys.hold = (straps == 3) ∧ t.sys.done = (straps == 1) ∧
      t.pins = { s.pins with released := true } ∧ t.vault = s.vault ∧ t.str = {} ∧ t.pwr = s.toReset.pwr ∧ t.hif = {} ∧ t.wel = {} := by
  refine ⟨_, rfl, ?_⟩
  rw [if_neg (by simp [h])]
  dsimp only
  split
  · next hs => subst hs; exact ⟨rfl, rfl, rfl, rfl, rfl, rfl, rfl, rfl, rfl⟩
  · next hs => exact ⟨rfl, rfl, (beq_false_of_ne hs).symm, rfl, rfl, rfl, rfl, rfl, rfl⟩

theorem State.bootDue_of_auto {s : State} {r : AutoRun} (h : s.str.auto = some r) : s.bootDue = false := by
  simp [State.bootDue, Loader.isBusy, h]

theorem exec_bootApply_verified {s : State} {r : AutoRun} (hauto : s.str.auto = some r) (hboot : r.boot = true)
    (hstate : s.str.state = .verified) (hready : s.bootReady = true) : exec .bootApply s = .next s.bootApply := by
  simp [exec, execBootApply, State.bootDue_of_auto hauto, hauto, hboot, hstate, hready]

/-- Settles O1: each command is evaluated where it has its effect; a reset keeps what the state after it takes over by definition. -/
theorem bootCommandsTakeEffect : Obligations.BootCommandsTakeEffect := by
  refine ⟨?powerUp, ?railUndervolt, ?reset, ?bootGo, ?keyReady, ?bootApply_1, ?bootApply_2, ?vaultLinkTimeout⟩
  case powerUp =>
    intro s hpowered hpowercycles
    refine ⟨_, rfl, ?_⟩
    rw [if_neg (by simp [hpowered])]
    dsimp only
    rw [State.raisePowerCycles_of_ne (by exact hpowercycles)]
    exact ⟨rfl, rfl, rfl, rfl, rfl⟩
  case railUndervolt =>
    intro s
    exact ⟨_, rfl, rfl, rfl, rfl, rfl, rfl⟩
  case reset =>
    intro s straps hpowered
    obtain ⟨t, ht, hsrc, hhold, hdone, hpins, hvault, hstr, hpwr, hhif, hwel⟩ := exec_reset_powered straps hpowered
    exact ⟨t, ht, hsrc, hhold, hdone, hpins, hvault, hstr, by rw [hpwr]; rfl, by rw [hpwr]; rfl, by rw [hpwr]; rfl, hhif,
      hwel⟩
  case bootGo =>
    intro s p hreach hhold
    rw [exec, execBootGo, State.writeIsl_reaches hreach rfl, State.bootCtl, if_pos (by rw [hhold]; rfl)]
  case keyReady =>
    intro s hreleased hready hvaultfail
    refine ⟨_, rfl, ?_⟩
    rw [if_neg (by simp [hready, hvaultfail, hreleased])]
    refine ⟨rfl, rfl, rfl, fun i hi => ?_⟩
    simp [State.modKey, State.drbgStart, hi]
  case bootApply_1 =>
    intro s hbootdue hready
    have hready : (s.key.ready || s.sys.vaultFail) = true := by simpa using hready
    rw [exec, execBootApply, if_pos hbootdue, if_pos hready]
    rfl
  case bootApply_2 =>
    intro s r hauto hboot hstate hbootready
    rw [exec_bootApply_verified hauto hboot hstate hbootready, State.bootApply]
    cases s.applyRefused (s.str.staging.getD []) 0xF <;> rfl
  case vaultLinkTimeout =>
    intro s hreleased hready hvaultfail hbootdue
    refine ⟨_, rfl, ?_⟩
    rw [if_neg (by simp [hready, hvaultfail, hreleased])]
    dsimp only
    rw [if_pos (by exact hbootdue)]
    exact ⟨rfl, rfl, rfl, rfl, rfl, rfl⟩

end Sys2Proof.Machine
end

section
namespace Sys2Proof.Machine

theorem State.strCmd_of_idle {s : State} (k : State → State) (h : s.str.isBusy = false) : s.strCmd k = k s := by
  simp [State.strCmd, h]

/-- The end of a LOAD that no automatic run asked for (R46, R57). -/
theorem exec_loadDone_host {s : State} {from_ : ImgSrc} (ok : Bool) (bytes : List Byte) (hbusy : s.str.busy = some (.load from_))
    (hauto : s.str.auto = none) :
    exec (.loadDone ok bytes) s = .next (match s.loadSource ok bytes from_ with
      | some b => s.strDone fun x => { x with state := .staged, staging := some b, stagedFrom := from_ }
      | none => (s.modStr Loader.unstage).strFail 0x0E) := by
  simp only [exec, execLoadDone, hbusy, hauto]
  cases s.loadSource ok bytes from_ <;> rfl

theorem Vault.imageIn_putImage_same (v : Vault) (slotB : Bool) (x : Option (List Byte)) : (v.putImage slotB x).imageIn slotB = x := by
  cases slotB <;> rfl

/-- The state after the words of a COMMIT that succeeds (R57): the commit word, and the rollback floor where the image raises it. -/
def State.commitWritten (s : State) (slot : Bool) : State :=
  let b := s.str.staging.getD []
  s.modVault fun v => { v with
    commit := some { slotB := slot, serial := imgSerial b, digest := BitVec.ofNat 64 (beAt (imgDigest b) 0 8) }
    floor := if v.floor.toNat < (imgLevel b).toNat then imgLevel b else v.floor }

theorem State.commitWord_ok (s : State) (slot : Bool) :
    s.commitWord slot .ok = (s.commitWritten slot).strDone fun x => { x with state := .committed, appliedMask := 0, matchMask := 0xF } := by
  by_cases hraise : s.vault.floor.toNat < (imgLevel (s.str.staging.getD [])).toNat <;>
    simp [State.commitWord, State.commitWritten, State.modVault, hraise]

theorem State.commitWritten_floor (s : State) (slot : Bool) :
    (s.commitWritten slot).vault.floor.toNat = max s.vault.floor.toNat (imgLevel (s.str.staging.getD [])).toNat := by
  simp only [State.commitWritten, State.modVault]
  split <;> omega

theorem exec_commitDone_ok {s : State} (hbusy : s.str.busy = some .commit) (hheld : s.heldSlot = none) :
    exec (.commitDone .ok) s = .next (((s.copied s.copySlot).commitWritten s.copySlot).strDone
      fun x => { x with state := .committed, appliedMask := 0, matchMask := 0xF }) := by
  simp [exec, execCommitDone, hbusy, hheld, State.commitWord_ok]

theorem State.copied_floor (s : State) (slot : Bool) : (s.copied slot).vault.floor = s.vault.floor := by
  cases slot <;> rfl

/-- Settles O2: each command and each completion is evaluated in the state that the loader is in; a COMMIT writes its word and then raises
the floor. -/
theorem loaderCommandsTakeEffect : Obligations.LoaderCommandsTakeEffect := by
  refine ⟨?load, ?loadDone_1, ?loadDone_2, ?verify, ?verifyDone, ?loadDone_3, ?apply, ?applyDone, ?applyFail, ?commit,
    ?commitDone, ?abandon_1, ?abandonDone_1, ?abandon_2, ?abandonDone_2⟩
  case load =>
    intro s p src hreach hisbusy hloadable hsrc hsrc2
    rw [exec, execLoad, State.writeIsl_reaches hreach rfl, State.load, State.strCmd_of_idle _ hisbusy]
    by_cases hhost : src = 2
    · obtain ⟨hlen, hmax⟩ := hsrc2 hhost
      have hfits : ¬(s.str.hostLen = 0#32 ∨ 4194304 < s.str.hostLen.toNat) := by
        rintro (h | h)
        · exact hlen h
        · omega
      simp [State.modStr, hloadable, hhost, hfits]
    · have hcases : src = 0 ∨ src = 1 := by bv_omega
      rcases hcases with rfl | rfl <;> simp [State.modStr, hloadable]
  case loadDone_1 =>
    intro s bytes b from_ hbusy hauto hhostlen
    have hsource : s.loadSource true bytes from_ = some b := by
      cases from_ <;> simpa [State.loadSource] using hhostlen
    rw [exec_loadDone_host true bytes hbusy hauto, hsource]
    rfl
  case loadDone_2 =>
    intro s bytes from_ hbusy hauto
    rw [exec_loadDone_host false bytes hbusy hauto]
    cases from_ <;> rfl
  case verify =>
    intro s p hreach hisbusy hstate
    simp [exec, execVerify, State.writeIsl_reaches hreach, State.verify, State.strCmd, base, State.modStr, hisbusy, hstate]
  case verifyDone =>
    intro s hbusy hauto
    simp only [exec, execVerifyDone, hbusy, hauto]
    cases judgeImage s.vault (s.str.staging.getD [])
    · simp [State.strDone, State.modStr, hauto]
    · simp [State.loaderFail, hauto]
  case loadDone_3 =>
    intro s r hauto
    refine ⟨?loadDone, ?verifyDone⟩
    case loadDone =>
      intro bytes b hbusy hslotb hvaultfail
      have hsource : s.loadSource true bytes (slotSrc r.slotB) = some b := by
        cases hslot : r.slotB <;> simp_all [State.loadSource, slotSrc, Vault.imageIn]
      simp only [exec, execLoadDone, hbusy, hauto, hsource, State.modStr]
    case verifyDone =>
      intro hbusy hboot hsecond
      simp only [exec, execVerifyDone, hbusy, hauto]
      cases judgeImage s.vault (s.str.staging.getD [])
      · simp [State.autoPassed, State.modStr, hauto, hboot, hsecond]
      · simp [State.autoNext, State.autoLoad, State.modStr, hboot, hsecond]
  case apply =>
    intro s p mask hreach hisbusy hstate hstaging
    rcases hstate with hstate | hstate <;> simp [exec, execApply, State.writeIsl_reaches hreach, State.apply, State.strCmd,
      State.strErr, State.darkWindow, base, State.modStr, hisbusy, hstate, hstaging]
  case applyDone =>
    intro s mask us hbusy hauto
    simp [exec, execApplyDone, hbusy, hauto]
  case applyFail =>
    intro s m q hbusy hval hauto
    simp [exec, execApplyFail, State.applyBroken, State.loaderFail, hbusy, hval, hauto]
  case commit =>
    intro s p hreach hisbusy hstate
    rcases hstate with hstate | hstate <;> simp [exec, execCommit, State.writeIsl_reaches hreach, State.commit,
      State.strCmd, base, State.modStr, hisbusy, hstate]
  case commitDone =>
    intro s b hbusy hstaging hheldslot
    have hb : s.str.staging.getD [] = b := by rw [hstaging, Option.getD_some]
    refine ⟨_, exec_commitDone_ok hbusy hheldslot, rfl, rfl, rfl, rfl, ?_, ?_, ?_, rfl, rfl⟩
    · exact (Vault.imageIn_putImage_same _ _ _).trans hstaging
    · rw [← hb]; rfl
    · rw [← hb, ← s.copied_floor s.copySlot]
      exact (s.copied s.copySlot).commitWritten_floor s.copySlot
  case abandon_1 =>
    intro s p hreach hisbusy hstate
    rw [exec, execAbandon, State.writeIsl_reaches hreach rfl, State.abandonCmd, State.strCmd_of_idle _ hisbusy]
    rcases hstate with hstate | hstate | ⟨hstate, hdark⟩
    · simp [State.modStr, hstate]
    · simp [State.modStr, hstate]
    · simp [State.modStr, hstate, hdark]
  case abandonDone_1 =>
    intro s applyOk us hbusy
    simp [exec, execAbandonDone, State.strDone, Loader.unstage, Loader.runs, State.modStr, hbusy]
  case abandon_2 =>
    intro s p hreach hisbusy hstate
    simp [exec, execAbandon, State.writeIsl_reaches hreach, State.abandonCmd, State.strCmd, State.autoLoad, base,
      State.modStr, hisbusy, hstate]
  case abandonDone_2 =>
    intro s mask us hbusy
    simp [exec, execAbandonDone, hbusy]

end Sys2Proof.Machine
end

section
namespace Sys2Proof.Machine

/-- Every command of the loader begins with the check for one in progress (R47). -/
theorem State.writeIsl_strCmd_busy {s : State} {p : Port} {k : State → State} (hreach : s.reaches p 1) (hbusy : s.str.isBusy = true) :
    s.writeIsl p (base 1) (fun u => u.strCmd k) = { s with str := { s.str with err := 0x0D } } :=
  (State.writeIsl_reaches hreach rfl).trans (if_pos hbusy)

/-- Settles O3: every command asks first for one in progress, and then for its state. -/
theorem loaderRefusalChangesErrAlone : Obligations.LoaderRefusalChangesErrAlone := by
  intro s p hreach
  refine ⟨?str, ?load⟩
  case str =>
    intro c hc hisbusy
    rcases hc with ⟨x, rfl⟩ | rfl | ⟨m, rfl⟩ | rfl | rfl
    all_goals exact congrArg Host.Outcome.next (State.writeIsl_strCmd_busy hreach hisbusy)
  case load =>
    intro src mask hisbusy
    refine ⟨?load, ?verify, ?apply, ?abandon⟩
    case load =>
      intro hloadable
      rcases hloadable with hloadable | hloadable <;> simp [exec, execLoad, State.writeIsl_reaches hreach, State.load,
        State.strCmd, State.strErr, State.strFail, base, Loader.unstage, State.modStr, hisbusy, hloadable]
    case verify =>
      intro hstate
      simp [exec, execVerify, State.writeIsl_reaches hreach, State.verify, State.strCmd, State.strErr, base, State.modStr,
        hisbusy, hstate]
    case apply =>
      intro hstate
      simp [exec, execApply, State.writeIsl_reaches hreach, State.apply, State.strCmd, State.strErr, State.applyRefused,
        State.darkWindow, base, State.modStr, hisbusy, hstate]
    case abandon =>
      intro hstate
      rcases hstate with hstate | hstate <;> simp [exec, execAbandon, State.writeIsl_reaches hreach, State.abandonCmd,
        State.strCmd, State.strErr, base, State.modStr, hisbusy, hstate]

end Sys2Proof.Machine
end

section
namespace Sys2Proof.Machine

/-- A wake source that wakes in this state, and is enabled or is the command RUN. -/
theorem State.fire_of_wakes {s : State} {code : Nat} {lane : BitVec 7} (hen : code = 6 ∨ bit s.pwr.wakeEn (code - 1) = true)
    (hwakes : s.pwr.wakes code = true) : s.fire code lane = s.wake code lane := by
  have hon : (code != 6 && !bit s.pwr.wakeEn (code - 1)) = false := by
    rcases hen with rfl | h
    · rfl
    · simp [h]
  simp [State.fire, hon, hwakes]

theorem State.runCmd_of_asleep {s : State} (hrun : s.pwr.state ≠ .run) (hwaking : s.pwr.state ≠ .waking) :
    s.runCmd = State.wake { s with pwr := { s.pwr with err := 0 } } 6 0 := by
  have hwakes : (s.pwrErr 0).pwr.wakes 6 = true := by
    cases hst : s.pwr.state <;> simp_all [Power.wakes, State.pwrErr, State.modPwr]
  have hcmd : s.runCmd = (s.pwrErr 0).fire 6 0 := by
    unfold State.runCmd
    split
    · exact absurd ‹_› hrun
    · exact absurd ‹_› hwaking
    · rfl
  rw [hcmd, State.fire_of_wakes (.inl rfl) hwakes]
  rfl

/-- Settles O5: each command is evaluated where its row lists it; only the trip needs an induction, over the line lanes. -/
theorem powerCommandsTakeEffect : Obligations.PowerCommandsTakeEffect := by
  refine ⟨?run, ?doze, ?standby, ?enterDone, ?rtcAlarm, ?wakeNLow, ?pcieWake, ?energyDetect, ?domainPowerGood, ?domainPgTimeout,
    ?voteHostWrite, ?thermalLimit, ?thermalLimitRearm, ?thermalResume, ?thermalTrip⟩
  case run =>
    intro s p hreach hstate hstate2
    rw [exec, execRun, State.writeIsl_reaches hreach rfl, State.runCmd_of_asleep hstate hstate2]
  case doze =>
    intro s p hreach hstate hwakeen
    simp [exec, execDoze, State.writeIsl_reaches hreach, State.doze, State.sleepTo, State.modPwr, hstate, hwakeen]
  case standby =>
    intro s p hreach hstate hwakeen
    rcases hstate with hstate | hstate <;> simp [exec, execStandby, State.writeIsl_reaches hreach, State.standby,
      State.sleepTo, State.modPwr, hstate, hwakeen]
  case enterDone =>
    intro s hstate hwantset
    simp [exec, execEnterDone, State.modPwr, hstate, hwantset]
  case rtcAlarm =>
    intro s halmen halm hwakeen hstate
    simp [exec, execRtcAlarm, State.fire, Power.wakes, State.modPwr, halmen, halm, hwakeen, hstate]
  case wakeNLow =>
    intro s hwakeen hstate
    rcases hstate with hstate | hstate <;> simp [exec, execWakeNLow, State.fire, Power.wakes, hwakeen, hstate]
  case pcieWake =>
    intro s hwakeen hison hstate
    rcases hstate with hstate | hstate <;> simp [exec, execPcieWake, State.fire, Power.wakes, hwakeen, hison, hstate]
  case energyDetect =>
    intro s n level hisline hisretained hwaketh hwakeen hstate
    simp [exec, execEnergyDetect, State.fire, Power.wakes, hisline, hisretained, hwaketh, hwakeen, hstate]
  case domainPowerGood =>
    intro s d hswitching
    simp [exec, execDomainPowerGood, State.domGood, hswitching]
  case domainPgTimeout =>
    intro s d hswitching hval
    have hquad : ¬(6 ≤ d.val ∧ d.val < 10) := by omega
    simp [exec, execDomainPgTimeout, State.modPwr, hswitching, hquad]
  case voteHostWrite =>
    intro s p i w hreach
    refine ⟨?voteHostWrite, ?voteTestWrite, ?domFaultClear, ?rtcWrite⟩
    case voteHostWrite =>
      simp (disch := omega) [exec, execVoteHostWrite, State.writeIsl_reaches hreach, State.voteHostWrite, State.modPwr]
    case voteTestWrite =>
      simp (disch := omega) [exec, execVoteTestWrite, State.writeIsl_reaches hreach, State.voteTestWrite, State.modPwr]
    case domFaultClear =>
      simp (disch := omega) [exec, execDomFaultClear, State.writeIsl_reaches hreach, State.domFaultClear, State.modPwr]
    case rtcWrite =>
      simp [exec, execRtcWrite, State.writeIsl_reaches hreach, State.rtcWrite, State.modPwr]
  case thermalLimit =>
    intro s hthermalarmed
    simp [exec, execThermalLimit, hthermalarmed]
  case thermalLimitRearm =>
    intro s
    rfl
  case thermalResume =>
    intro s hthermalstop
    simp [exec, execThermalResume, hthermalstop]
  case thermalTrip =>
    intro s
    refine ⟨_, rfl, ?_, fun n => ⟨fun hline => ?_, fun hline => ?_⟩⟩
    · exact congrArg (fun x : Pins => { x with thermalStop := true }) (State.foldl_tripLane_pins s.lineLanes s)
    · exact State.foldl_tripLane_txen (.inl (List.mem_filter.mpr ⟨List.mem_finRange n, hline⟩))
    · exact State.foldl_tripLane_lane fun h => absurd hline (by simp [(List.mem_filter.mp h).2])

end Sys2Proof.Machine
end

section
namespace Sys2Proof.Machine

theorem exec_doze_run {s : State} {p : Port} (hreach : s.reaches p 2) (hrun : s.pwr.state = .run) :
    exec (.doze p) s = .next (s.sleepTo 2 .doze) := by
  rw [exec, execDoze, State.writeIsl_reaches hreach rfl, State.doze, hrun]

theorem exec_standby_run {s : State} {p : Port} (hreach : s.reaches p 2) (hrun : s.pwr.state = .run) :
    exec (.standby p) s = .next (s.sleepTo 3 .standby) := by
  rw [exec, execStandby, State.writeIsl_reaches hreach rfl, State.standby, hrun]

theorem State.sleepTo_of_firing {s : State} (op : BitVec 2) (dest : DevState) (h : s.pwr.firing &&& s.pwr.wakeEn ≠ 0) :
    s.sleepTo op dest = s.sleepCancelled op := if_pos h

/-- Where the request came from Run, its R field is 0. -/
theorem Power.from_of_run {x : Power} (h : x.state = .run) : x.from = 0 := by
  simp [Power.from, h]

theorem State.sleepCancelled_pwr (s : State) (op : BitVec 2) :
    (s.sleepCancelled op).pwr = { s.pwr with
      lastReq := op, cancelled := true, err := 0, wakeLast := wakeWord s.pwr.firing true s.pwr.from s.pwr.firingLane } := rfl

/-- Settles O6: both requests find a source that has fired in this cycle, and answer as cancelled. -/
theorem wakeCancelsARequestToSleep : Obligations.WakeCancelsARequestToSleep := by
  intro s p hreach hrun hfiring
  refine ⟨_, _, exec_doze_run hreach hrun, exec_standby_run hreach hrun, ?_⟩
  rw [State.sleepTo_of_firing _ _ hfiring, State.sleepTo_of_firing _ _ hfiring, State.sleepCancelled_pwr, State.sleepCancelled_pwr,
    Power.from_of_run hrun]
  exact ⟨hrun, hrun, rfl, rfl, rfl, rfl, rfl, rfl, rfl⟩

end Sys2Proof.Machine
end

/-!
A tick of 1.6 ns (R427, R526): which units stand still while it passes.
-/
section
namespace Sys2Proof.Machine

theorem foldl_eq_self {α β : Type} {f : β → α → β} {b : β} (h : ∀ a, f b a = b) (l : List α) : l.foldl f b = b := by
  induction l with
  | nil => rfl
  | cons a l ih => rw [List.foldl_cons, h, ih]

theorem State.hbTicks_of_quiet {s : State} (h : ∀ n : LaneId, (s.lane n).hb.dataOn = false) : s.hbTicks = s :=
  foldl_eq_self (fun n => by simp [State.hbTick, h n]) _

theorem State.ethTicks_of_quiet {s : State} (h : ∀ n : LaneId, s.ethOn n = false) : s.ethTicks = s := by
  have hblocks : (List.finRange 96).foldl State.ethBlock s = s := foldl_eq_self (fun n => by simp [State.ethBlock, h n]) _
  rw [State.ethTicks, hblocks, ite_self]

theorem Cistern.nextClass_of_empty {c : Cistern} (h : ∀ k : Fin 5, c.reqs[k.val] = []) : c.nextClass.isNone = true := by
  have hempty (k : Nat) : (vget [] c.reqs k).isEmpty = true := by
    rcases lt_or_ge k 5 with hk | hk
    · rw [vget_eq_getElem hk, h ⟨k, hk⟩]; rfl
    · rw [vget_of_le hk]; rfl
  simp [Cistern.nextClass, hempty]

theorem State.cstTick_of_empty {s : State} (h : ∀ k : Fin 5, s.cst.reqs[k.val] = []) : s.cstTick = s :=
  if_pos (Cistern.nextClass_of_empty h)

/-- What a tick does before markers, blocks and lines go on. -/
def State.clockTick (s : State) : State :=
  { s with
    now := s.now + 16
    tim := if s.isOn dTim then s.tim.tick else s.tim
    tal := if s.isOn dTim && s.clocked then s.tal.tickOne else s.tal
    evt := if s.clocked then { s.evt with clk := s.evt.clk + 16 } else s.evt
    wel := if s.clocked then { s.wel with opsClk := s.wel.opsClk + 16 } else s.wel
    pwr := if s.pins.powered then { s.pwr.rtcStep with firing := 0 } else s.pwr }

theorem State.clockTick_on (s : State) : s.clockTick.pwr.on = s.pwr.on := by
  simp only [State.clockTick, Power.rtcStep]
  (repeat' split) <;> rfl

theorem State.clockTick_ethOn (s : State) (n : LaneId) : s.clockTick.ethOn n = s.ethOn n := by
  simp only [State.ethOn, State.isOn, State.clockTick_on]
  rfl

theorem State.idle_eq (s : State) : s.idle = s.clockTick.hbTicks.ethTicks.cstTick := rfl

theorem State.idle_frame (s : State) : Only [.cst, .lanes, .out, .freeIdx] s.clockTick s.idle := by
  rw [State.idle_eq]
  exact (State.cstTick_only _).step rfl ((State.ethTicks_only _).step rfl ((State.hbTicks_only _).mono rfl))

theorem step_of_no_pending {s : State} (h : s.pending = []) : step s = .next s.idle := by
  rw [step, h]

/-- Settles O50: a tick is the clocks' own step and then markers, blocks and lines, each of which stands still where nothing drives it. -/
theorem emptyQueueTicks : Obligations.EmptyQueueTicks := by
  intro s hpending
  have hclock := s.idle_frame
  have hidle := State.idle_only s
  refine ⟨_, step_of_no_pending hpending, hclock .now rfl, (hidle .pending rfl).trans hpending, hidle .vault rfl, hidle .quads rfl,
    hidle .cores rfl, hidle .key rfl, hidle .hif rfl, hidle .tbl rfl, hidle .sys rfl, hidle .str rfl, fun hhb heth => ?quiet,
    fun hreqs => ?cst, fun hon => ?count, fun hoff => ?timOff, fun hon hclk hfree => ?tick, fun hfreeze => ?frozen⟩
  case quiet =>
    have h : s.idle = s.clockTick.cstTick := by
      rw [State.idle_eq, State.hbTicks_of_quiet (s := s.clockTick) hhb, State.ethTicks_of_quiet fun n => (s.clockTick_ethOn n).trans (heth n)]
    rw [h]
    exact ⟨State.cstTick_only _ .out rfl, State.cstTick_only _ .lanes rfl⟩
  case cst =>
    have hcst : s.clockTick.hbTicks.ethTicks.cst = s.cst := ((State.ethTicks_only _).step rfl (State.hbTicks_only _)) .cst rfl
    rw [State.idle_eq, State.cstTick_of_empty (by rwa [hcst]), hcst]
  case count =>
    have htim : s.idle.tim = s.clockTick.tim := hclock .tim rfl
    simp [htim, State.clockTick, hon, Time.tick]
  case timOff =>
    have htim : s.idle.tim = s.clockTick.tim := hclock .tim rfl
    simp [htim, State.clockTick, hoff]
  case tick =>
    have htal : s.idle.tal = s.clockTick.tal := hclock .tal rfl
    simp [htal, State.clockTick, hon, hclk, Tally.tickOne, hfree]
  case frozen =>
    have htal : s.idle.tal = s.clockTick.tal := hclock .tal rfl
    simp [htal, State.clockTick, Tally.tickOne, hfreeze]

end Sys2Proof.Machine
end

section
namespace Sys2Proof.Machine

/-- Settles O55: each register's value after reset is its default in the model's state. -/
theorem resetLeavesTheTerminalIdle : Obligations.ResetLeavesTheTerminalIdle := by
  refine ⟨rfl, rfl, rfl, rfl, rfl, rfl, rfl, rfl, rfl, rfl, fun n => ?roles, rfl, rfl, fun g => ?status⟩
  case roles => exact Vector.getElem_replicate _
  case status => exact Vector.getElem_replicate _

end Sys2Proof.Machine
end

section
namespace Sys2Proof.Machine

/-- The receiver of a lane that acquires lock (R69). -/
theorem exec_cdrLock_com {s : State} {n : LaneId} (hacq : (s.lane n).com.acquires = true) (href : s.noReference n = false) :
    ∃ t, exec (.cdrLock n) s = .next t ∧ (t.lane n).com = { (s.lane n).com with
      cdrLock := true, lockedOnce := true
      rxState := if (s.lane n).com.rxState = .frozen then .frozen else if (s.lane n).com.priming then .adaptFast else .track } := by
  refine ⟨_, rfl, ?_⟩
  rw [if_pos ⟨hacq, href⟩]
  exact ((((ComFrame.refl (π := id) _).sdhTiming true).ethStart.judgeLock) n).trans (State.com_lane_modCom_same _ _ _)

/-- Settles O7: each command is evaluated where it acts; what else a lock starts leaves the lane's common registers as they are. -/
theorem receiverCommandsTakeEffect : Obligations.ReceiverCommandsTakeEffect := by
  refine ⟨?eqUpdate, ?eqLimit, ?seedLoaded, ?clause, ?rxRestart, ?eqFreeze_1, ?eqFreeze_2, ?eqFreeze_3, ?tapWrite,
    ?signalDetectSet, ?signalDetectClear, ?cdrLock_1, ?cdrLock_2, ?cdrLock_3, ?cdrLockLost, ?adaptFastDone, ?noiseReport,
    ?seedDataWrite⟩
  case eqUpdate =>
    intro s n x prev hrxstate hcalbusy
    simp [exec, execEqUpdate, hrxstate, hcalbusy]
  case eqLimit =>
    intro s n hfin heqlimit
    obtain ⟨i, hi⟩ := hfin
    have hany : ((s.lane n).com.limitRun.any fun k => decide (65536 ≤ k)) = true := Vector.any_eq_true.mpr ⟨i, i.isLt,
      by simpa using hi⟩
    simp [exec, execEqLimit, hany, heqlimit, State.reportIf]
  case seedLoaded =>
    intro s n hison hrxstate
    refine ⟨_, rfl, ?_⟩
    simp [State.rxWait, hison, hrxstate]
  case clause =>
    intro c st
    refine ⟨?clause_1, ?clause_2⟩
    case clause_1 =>
      intro hctl
      simp [LaneCommon.enter, hctl]
    case clause_2 =>
      intro hctl
      simp [LaneCommon.enter, hctl]
  case rxRestart =>
    intro s p n hreach u
    refine ⟨fun hunlocked => ?_, fun hlocked => ?_⟩
    · simp [exec, execRxRestart, State.writeLane_reaches hreach, State.rxRestart, State.rxSeed, hunlocked, u]
    · simp [exec, execRxRestart, State.writeLane_reaches hreach, State.rxRestart, State.rxSeed, hlocked, u]
  case eqFreeze_1 =>
    intro s p n hreach hrxstate hrxstate2
    rw [exec, execEqFreeze, State.writeLane_reaches hreach, State.eqFreeze]
    refine congrArg Host.Outcome.next (State.modCom_congr ?_)
    simp [LaneCommon.enter, bit, setBit, hrxstate, hrxstate2]
  case eqFreeze_2 =>
    intro s p n hreach hrxstate
    rw [exec, execEqFreeze, State.writeLane_reaches hreach, State.eqFreeze]
    refine congrArg Host.Outcome.next (State.modCom_congr ?_)
    simp [LaneCommon.thawed, hrxstate]
  case eqFreeze_3 =>
    intro s p n on hreach hrxstate
    simp only [State.lane] at hrxstate
    simp [exec, execEqFreeze, State.writeLane_reaches hreach, State.eqFreeze, State.modCom, State.modLane, hrxstate]
  case tapWrite =>
    intro s p n w hreach
    rw [exec, execTapWrite, State.writeLane_reaches hreach]
    refine congrArg Host.Outcome.next (State.modCom_congr ?_)
    simp only [LaneCommon.tapWrite]
    split <;> simp_all
  case signalDetectSet =>
    intro s n rms hison hrxstate hsigdet hsdon
    simp [exec, execSignalDetectSet, LaneCommon.judgeMode, State.modCom, State.modLane, hison, hrxstate, hsigdet, hsdon]
  case signalDetectClear =>
    intro s n rms hison hsigdet hval
    have hall : (rms.all fun r => decide (r < (s.lane n).com.sdOff)) = true := Vector.all_eq_true.mpr fun i hi => by simpa using hval ⟨i, hi⟩
    simp [exec, execSignalDetectClear, hison, hsigdet, hall]
  case cdrLock_1 =>
    intro s n hsigdet hcdrlock hrxstate hnoreference
    obtain ⟨t, ht, hcom⟩ := exec_cdrLock_com (n := n) (by simp [LaneCommon.acquires, hsigdet, hcdrlock,
      hrxstate]) hnoreference
    exact ⟨t, ht, by simpa [hrxstate] using hcom⟩
  case cdrLock_2 =>
    intro s n hsigdet hcdrlock hrxstate hfrozenfrom hfrozenfrom2 hnoreference
    obtain ⟨t, ht, hcom⟩ := exec_cdrLock_com (n := n)
      (by simp [LaneCommon.acquires, hsigdet, hcdrlock, hrxstate, hfrozenfrom, hfrozenfrom2]) hnoreference
    exact ⟨t, ht, by rw [hcom, ← hrxstate]; simp [hrxstate]⟩
  case cdrLock_3 =>
    intro s n hnoreference
    simp [exec, execCdrLock, hnoreference]
  case cdrLockLost =>
    intro s n hsigdet hcdrlock
    simp [exec, execCdrLockLost, State.cdrLost, hsigdet, hcdrlock]
  case adaptFastDone =>
    intro s n hrxstate
    simp [exec, execAdaptFastDone, hrxstate]
  case noiseReport =>
    intro s n sumSq hison
    simp [exec, execNoiseReport, hison]
  case seedDataWrite =>
    intro s p w hreach
    simp [exec, execSeedDataWrite, State.writeIsl_reaches hreach]

end Sys2Proof.Machine
end

section
namespace Sys2Proof.Machine

theorem State.modRef_modRef (s : State) (q : QuadId) (f g : RefClk → RefClk) :
    (s.modRef q.val f).modRef q.val g = s.modRef q.val fun r => g (f r) := by
  simp [State.modRef, vmod, q.isLt]

theorem State.refclk_modRef_same (s : State) (q : QuadId) (f : RefClk → RefClk) : (s.modRef q.val f).refclk q.val = f (s.refclk q.val) :=
  vget_vmod_same q.isLt

theorem State.src_modRef (s : State) (q : Nat) (f : RefClk → RefClk) (e : Nat) : (s.modRef q f).src e = s.src e := rfl

theorem State.refFault_of_inactive {s : State} {q : Nat} (h : (s.src (930 + q)).active = false) :
    s.refFault q = ((s.modRef q fun r => { r with fault := true }).report (930 + q) 3).refLocksLost q := by
  rw [State.refFault, h]
  rfl

theorem State.refJudge_of_good {s : State} {q : Nat} (h : (s.refclk q).bad = false) : s.refJudge q = s.endCond (930 + q) := by
  rw [State.refJudge, if_neg (by simp [h])]

/-- Settles O8: the updates of a monitor are one update, after which the fault or the end of its condition is reported. -/
theorem referenceMonitorsJudge : Obligations.ReferenceMonitorsJudge := by
  intro s q ppm
  refine ⟨?refclkLoss, ?refclkReturn, ?refclkGate_1, ?refclkGate_2⟩
  case refclkLoss =>
    intro hpresent hactive
    rw [exec, execRefclkLoss, if_pos hpresent, State.refFault_of_inactive (by rw [State.src_modRef, hactive]),
      State.modRef_modRef]
  case refclkReturn =>
    intro hintol
    rw [exec, execRefclkReturn, State.refJudge_of_good]
    simp [State.refclk_modRef_same, RefClk.bad, hintol]
  case refclkGate_1 =>
    intro hpresent hssc hppm
    rw [exec, execRefclkGate]
    dsimp only
    rw [if_pos ⟨hssc, hppm⟩, State.modRef_modRef, State.refJudge_of_good]
    simp [State.refclk_modRef_same, RefClk.bad, hpresent]
  case refclkGate_2 =>
    intro hppm hactive
    rw [exec, execRefclkGate]
    dsimp only
    rw [if_neg (by omega), State.modRef_modRef, State.refFault_of_inactive (by rw [State.src_modRef, hactive]),
      State.modRef_modRef]

end Sys2Proof.Machine
end

section
namespace Sys2Proof.Machine

/-- Settles O12: the port, the island of the address and the width of the window decide what a write reaches. -/
theorem registerWritesReachTheirRegister : Obligations.RegisterWritesReachTheirRegister := by
  intro s p a w hportup htonat
  refine ⟨?registerWrite_1, ?registerWrite_2, ?registerWrite_3, ?registerWrite_4⟩
  case registerWrite_1 =>
    intro hx20000 hanswersat
    simp [exec, execRegisterWrite, State.bar0Write, alignWord, hportup, htonat, hx20000, hanswersat]
  case registerWrite_2 =>
    intro hx20000
    simp [exec, execRegisterWrite, State.bar0Write, alignWord, hportup, htonat, hx20000]
  case registerWrite_3 =>
    intro hx20000 hanswersat
    simp [exec, execRegisterWrite, State.bar0Write, alignWord, hportup, htonat, hx20000, hanswersat]
  case registerWrite_4 =>
    intro b c
    refine ⟨?registerWrite_1, ?registerWrite_2⟩
    case registerWrite_1 =>
      simp [exec, execRegisterWrite]
    case registerWrite_2 =>
      simp [exec, execRegisterWrite]

end Sys2Proof.Machine
end

section
namespace Sys2Proof.Machine

/-- TXINH_N acts where it has been low for the detection time, which lies between 300 and 1000 ps (R81, R583). -/
theorem exec_txinhFall_long {s : State} {lowPs : Nat} (h : 1000 ≤ lowPs) :
    exec (.txinhFall lowPs) s = .next (
      let u := s.lineLanes.foldl State.tripLane { s.tookFree with pins := { s.pins with txinhHigh := false } }
      State.report { u with pins := { u.pins with inhibited := true } } 940 3) := by
  have hdet : 300 + (s.freeBits 10).toNat % 701 ≤ lowPs := by omega
  exact congrArg Host.Outcome.next (if_pos hdet)

theorem exec_txinhFall_short {s : State} {lowPs : Nat} (h : lowPs < 300) :
    exec (.txinhFall lowPs) s = .next { s.tookFree with pins := { s.pins with txinhHigh := false } } := by
  have hdet : ¬300 + (s.freeBits 10).toNat % 701 ≤ lowPs := by omega
  exact congrArg Host.Outcome.next (if_neg hdet)

theorem State.checkBit_of_kept_lock {s : State} {n : LaneId} {b : Bool} (herr : ((s.lane n).com.checkBit b).2 = false)
    (hlock : (s.lane n).com.chkLock = true → ((s.lane n).com.checkBit b).1.chkLock = true) :
    s.checkBit n b = s.modCom n fun _ => ((s.lane n).com.checkBit b).1 := by
  have hkept : ((s.lane n).com.chkLock && !((s.lane n).com.checkBit b).1.chkLock) = false := by
    cases h : (s.lane n).com.chkLock <;> simp [h] at hlock ⊢
    exact hlock
  simp [State.checkBit, State.prbsErrors, herr, hkept]

theorem exec_checker_bit {s : State} {n : LaneId} (b : Bool) (hon : s.isOn (dRx n.val) = true) (hen : bit (s.lane n).com.prbs 6 = true)
    (hinv : bit (s.lane n).com.ctl 4 = false) :
    exec (.checkerLock n [b]) s = .next (s.checkBit n b) ∧ exec (.checkerLockLoss n [b]) s = .next (s.checkBit n b) := by
  simp [exec, execCheckerLock, execCheckerLockLoss, State.checkBits, hon, hen, hinv]

/-- The checker's registers after a bit: an error is counted beside what the checker itself does (R90). -/
theorem State.checkBit_com (s : State) (n : LaneId) (b : Bool) :
    ((s.checkBit n b).lane n).com =
      let r := (s.lane n).com.checkBit b
      if r.2 then { r.1 with prbsErr := satAdd r.1.prbsErr 1, errArmed := false } else r.1 := by
  simp only [State.checkBit, State.prbsErrors, State.lane_reportIf]
  cases ((s.lane n).com.checkBit b).2 <;> simp

theorem LaneCommon.checkBit_fills {c : LaneCommon} (b : Bool) (h : c.chkFill < prbsLen c.chkPat) :
    c.checkBit b = ({ c with chkReg := prbsPush c.chkReg b, chkFill := c.chkFill + 1 }, false) := if_pos h

theorem LaneCommon.checkBit_locks {c : LaneCommon} (hfill : prbsLen c.chkPat ≤ c.chkFill) (hlock : c.chkLock = false) (hrun : c.chkRun = 127) :
    c.checkBit (prbsNext c.chkPat c.chkReg) = ({ c with
      chkReg := prbsPush c.chkReg (prbsNext c.chkPat c.chkReg), chkLock := true, chkRun := 0, chkWin := [] }, false) := by
  simp [LaneCommon.checkBit, Nat.not_lt.mpr hfill, hlock, hrun]

theorem LaneCommon.checkBit_misses {c : LaneCommon} {b : Bool} (hfill : prbsLen c.chkPat ≤ c.chkFill) (hlock : c.chkLock = true)
    (hb : b ≠ prbsNext c.chkPat c.chkReg) :
    (c.checkBit b).2 = true ∧ (c.checkBit b).1.prbsErr = c.prbsErr ∧
      (c.checkBit b).1.chkLock = decide ((c.chkWin.take 255).count true < 63) := by
  have hmiss : (b != prbsNext c.chkPat c.chkReg) = true := by simpa using hb
  simp only [LaneCommon.checkBit, if_neg (Nat.not_lt.mpr hfill), hlock, hmiss, if_true, List.take_succ_cons, List.count_cons_self]
  split
  · next h => exact ⟨trivial, rfl, (decide_eq_false (by omega)).symm⟩
  · next h => exact ⟨trivial, rfl, (decide_eq_true (by omega)).symm⟩

theorem State.sendsNow_modCom_inject (s : State) (n : LaneId) (k : Nat) :
    (s.modCom n fun c => { c with inject := some k }).sendsNow n = s.sendsNow n := by
  simp only [State.sendsNow, State.squelched, State.txIdle, State.beyondN_modCom, State.lane_modCom_same]
  rfl

theorem State.injectBits_sent {s : State} {n : LaneId} (k : Nat) (h : s.sendsNow n = true) :
    s.injectBits n k = ((s.modCom n fun c => { c with inject := some k }).modCom n fun c => { c with inject := none }).emit (.inverted n k) := by
  simp [State.injectBits, State.flushInject, State.lane_modCom_same, State.sendsNow_modCom_inject, h]

theorem State.injectBits_waits {s : State} {n : LaneId} (k : Nat) (h : s.sendsNow n = false) :
    s.injectBits n k = s.modCom n fun c => { c with inject := some k } := by
  simp [State.injectBits, State.flushInject, State.lane_modCom_same, State.sendsNow_modCom_inject, h]

theorem State.txSquelch_on_line {s : State} {n : LaneId} (h : s.isLine n.val = true) :
    s.txSquelch n true = ((s.modCom n fun c => { c with ctl := setBit c.ctl 3 true }).cutBurst n).modCom n fun c => { c with txen := false } := by
  simp [State.txSquelch, h]

theorem State.genEn_on_line {s : State} {n : LaneId} (h : s.isLine n.val = true) :
    s.genEn n true = ((((s.modCom n fun c => { c with prbs := setBit c.prbs 2 true }).stopBursts n).modCom n fun c =>
      { c with txen := false }).sumpQueued n).txBegins n := by
  simp [State.genEn, h]

theorem State.cutBurst_keeps_ctl (s : State) (n : LaneId) :
    ComFrame LaneCommon.ctl s ((s.cutBurst n).modCom n fun c => { c with txen := false }) :=
  ((ComFrame.refl s).cutBurst fun _ => rfl).modCom fun _ => rfl

theorem State.stopBursts_keeps_prbs (s : State) (n : LaneId) :
    ComFrame LaneCommon.prbs s (((s.stopBursts n).modCom n fun c => { c with txen := false }).sumpQueued n) :=
  (((ComFrame.refl s).stopBursts fun _ => rfl).modCom (f := fun c => { c with txen := false }) fun _ => rfl).sumpQueued

theorem State.txSquelch_on_line_ctl {s : State} {n : LaneId} (h : s.isLine n.val = true) :
    ((s.txSquelch n true).lane n).com.ctl = setBit (s.lane n).com.ctl 3 true := by
  rw [State.txSquelch_on_line h, State.cutBurst_keeps_ctl _ n n, State.com_lane_modCom_same]

theorem State.genEn_on_line_txen {s : State} {n : LaneId} (h : s.isLine n.val = true) : ((s.genEn n true).lane n).com.txen = false := by
  have hkeep (u : State) : ((u.sumpQueued n |>.txBegins n).lane n).com.txen = (u.lane n).com.txen :=
    ((ComFrame.refl (π := LaneCommon.txen) u).sumpQueued.txBegins fun _ => rfl) n
  rw [State.genEn_on_line h, hkeep, State.com_lane_modCom_same]

theorem State.genEn_on_line_prbs {s : State} {n : LaneId} (h : s.isLine n.val = true) :
    ((s.genEn n true).lane n).com.prbs = setBit (s.lane n).com.prbs 2 true := by
  have hkeep (u : State) : ((u.txBegins n).lane n).com.prbs = (u.lane n).com.prbs :=
    ((ComFrame.refl (π := LaneCommon.prbs) u).txBegins fun _ => rfl) n
  rw [State.genEn_on_line h, hkeep, State.stopBursts_keeps_prbs _ n n, State.com_lane_modCom_same]

/-- Settles O10: TXINH_N by the time it has been low, squelch and generator by the kind of lane, the checker bit by bit, an injection by
whether the lane sends. -/
theorem transmitterCommandsTakeEffect : Obligations.TransmitterCommandsTakeEffect := by
  refine ⟨?txinhFall_1, ?txinhFall_2, ?txinhRise, ?txSquelch_1, ?txSquelch_2, ?checkerLock_1, ?checkerLock_2, ?prbsErrRead,
    ?injSingle⟩
  case txinhFall_1 =>
    intro s lowPs hlowps
    refine ⟨_, exec_txinhFall_long hlowps, ?_, fun n => ⟨fun hline => ?_, fun hline => ?_⟩⟩
    · exact congrArg (fun x : Pins => { x with inhibited := true }) (State.foldl_tripLane_pins s.lineLanes _)
    · exact State.foldl_tripLane_txen (.inl (List.mem_filter.mpr ⟨List.mem_finRange n, hline⟩))
    · exact State.foldl_tripLane_lane fun h => absurd hline (by simp [(List.mem_filter.mp h).2])
  case txinhFall_2 =>
    intro s lowPs hlowps
    exact ⟨_, exec_txinhFall_short hlowps, rfl, rfl, rfl⟩
  case txinhRise =>
    intro s
    rfl
  case txSquelch_1 =>
    intro s p n hreach
    refine ⟨?txSquelch_3, ?txSquelch_4, ?genEn⟩
    case txSquelch_3 =>
      intro hisline
      refine ⟨?txSquelch, ?genEn_2⟩
      case txSquelch =>
        simp [exec, execTxSquelch, State.writeLane_reaches hreach, State.txSquelch, hisline]
      case genEn_2 =>
        simp [exec, execGenEn, State.writeLane_reaches hreach, State.genEn, hisline]
    case txSquelch_4 =>
      simp [exec, execTxSquelch, State.writeLane_reaches hreach, State.txSquelch]
    case genEn =>
      simp [exec, execGenEn, State.writeLane_reaches hreach, State.genEn]
  case txSquelch_2 =>
    intro s p n hreach hisline
    refine ⟨?txSquelch_5, ?genEn_3⟩
    case txSquelch_5 =>
      refine ⟨s.txSquelch n true, by rw [exec, execTxSquelch, State.writeLane_reaches hreach], ?_,
        State.txSquelch_on_line_ctl hisline⟩
      rw [State.txSquelch_on_line hisline, State.com_lane_modCom_same]
    case genEn_3 =>
      exact ⟨s.genEn n true, by rw [exec, execGenEn, State.writeLane_reaches hreach],
        State.genEn_on_line_txen hisline, State.genEn_on_line_prbs hisline⟩
  case checkerLock_1 =>
    intro s n bits hison hprbs
    simp [exec, execCheckerLock, execCheckerLockLoss, State.checkBits, hison, hprbs]
  case checkerLock_2 =>
    intro s n b hison hprbs hctl c want
    obtain ⟨hlock, hloss⟩ := exec_checker_bit b hison hprbs hctl
    rw [hlock, hloss]
    refine ⟨fun hfill => ⟨_, rfl, ?_⟩, fun hfill hunlocked hrun hb => ⟨_, rfl, ?_⟩, fun hfill hlocked hb => ⟨_, rfl, ?_⟩⟩
    · have hbit := LaneCommon.checkBit_fills b hfill
      rw [State.checkBit_of_kept_lock (by rw [hbit]) (by rw [hbit]; exact id), hbit, State.com_lane_modCom_same]
      exact ⟨rfl, rfl⟩
    · subst hb
      have hbit := LaneCommon.checkBit_locks hfill hunlocked hrun
      rw [State.checkBit_of_kept_lock (by rw [hbit]) (fun _ => by rw [hbit]), hbit, State.com_lane_modCom_same]
      exact ⟨rfl, rfl, rfl⟩
    · obtain ⟨herr, hcnt, hlk⟩ := LaneCommon.checkBit_misses hfill hlocked hb
      rw [State.checkBit_com]
      dsimp only
      rw [if_pos herr]
      exact ⟨congrArg (satAdd · 1) hcnt, rfl, hlk⟩
  case prbsErrRead =>
    intro s p n hreach
    simp [exec, execPrbsErrRead, State.readLane_reaches hreach, State.checkBits, State.prbsErrRead]
  case injSingle =>
    intro s p n hreach
    refine ⟨?injSingle_1, ?injSingle_2⟩
    case injSingle_1 =>
      intro hsendsnow
      refine ⟨_, _, by rw [exec, execInjSingle, State.writeLane_reaches hreach, State.injectBits_sent _ hsendsnow],
        by rw [exec, execInjBurst, State.writeLane_reaches hreach, State.injectBits_sent _ hsendsnow], rfl, rfl, ?_, ?_⟩
      · rw [State.lane_emit, State.com_lane_modCom_same]
      · rw [State.lane_emit, State.com_lane_modCom_same]
    case injSingle_2 =>
      intro hsendsnow
      refine ⟨?injSingle_3, ?injBurst⟩
      case injSingle_3 =>
        rw [exec, execInjSingle, State.writeLane_reaches hreach, State.injectBits_waits _ hsendsnow]
      case injBurst =>
        rw [exec, execInjBurst, State.writeLane_reaches hreach, State.injectBits_waits _ hsendsnow]

end Sys2Proof.Machine
end

section
namespace Sys2Proof.Machine

theorem State.answersAt_sys {s : State} {p : Port} {a : Nat} (h : s.reaches p 0) (ha : a / 0x20000 = 0) : s.answersAt a = true := by
  rw [State.answersAt, ha]
  exact h.2

/-- A register of the system control island takes a write of BAR0. -/
theorem exec_registerWrite_sys {s : State} {p : Port} {a : BitVec 25} (w : W32) (h : s.reaches p 0) (ha : a.toNat / 0x20000 = 0)
    (haligned : a.toNat % 4 = 0) : exec (.registerWrite p (.bar0 a) w) s = .next (s.sysWrite a.toNat w) := by
  have hwrite := (registerWritesReachTheirRegister s p a w h.1 haligned).1 (by rw [ha]; rfl) (State.answersAt_sys h ha)
  have hoff : a.toNat % 0x20000 = a.toNat := Nat.mod_eq_of_lt (by omega)
  rw [hwrite, State.regWrite, ha, hoff]
  rfl

/-- Settles O13: each of the three registers takes its write, and its read answers the field. -/
theorem systemControlRegistersReadBack : Obligations.SystemControlRegistersReadBack := by
  intro s p w hreach
  exact ⟨_, _, _, exec_registerWrite_sys w hreach rfl rfl, exec_registerWrite_sys w hreach rfl rfl, exec_registerWrite_sys w hreach rfl rfl,
    rfl, rfl, rfl, State.modSys_only s _, State.modSys_only s _, State.modSys_only s _⟩

end Sys2Proof.Machine
end

section
namespace Sys2Proof.Machine

/-- Settles O16: the timers in the state that runs them, the tuning at its count, and the trip by what a change to O7 leaves. -/
theorem activationConditionsAct : Obligations.ActivationConditionsAct := by
  refine ⟨?to1Expire, ?keyReportHandoff, ?tuneScheduledCount, ?tuneAck, ?scanDwell, ?rogueTrip⟩
  case to1Expire =>
    intro s n hstewardon
    refine ⟨?to1Expire_2, ?to2Expire, ?to4Expire, ?to5Expire⟩
    case to1Expire_2 =>
      intro hstate hto1
      simp [exec, execTo1Expire, hstewardon, hstate, hto1]
    case to2Expire =>
      intro hstate hto2
      simp [exec, execTo2Expire, hstewardon, hstate, hto2]
    case to4Expire =>
      intro hstate hto4
      simp [exec, execTo4Expire, hstewardon, hstate, hto4]
    case to5Expire =>
      intro hstate hto5
      simp [exec, execTo5Expire, hstewardon, hstate, hto5]
  case keyReportHandoff =>
    intro s n x hstewardon hreportwaits
    simp [exec, execKeyReportHandoff, hstewardon, hreportwaits]
  case tuneScheduledCount =>
    intro s n t hstewardon htuning hstate hsched
    simp only [exec, execTuneScheduledCount, htuning]
    exact congrArg Host.Outcome.next (if_pos ⟨hstewardon, hstate, hsched⟩)
  case tuneAck =>
    intro s p q w n r hreach hw htonat hisline hseq
    rcases hw with hw | hw <;> simp (disch := omega) [exec, execTuneAck, State.writeIsl_reaches hreach, State.tuneAck,
      State.actCnt, quadBase, base, State.modAct, hw, htonat, hisline, hseq]
  case scanDwell =>
    intro s n c hstewardon hstate hscan hsync hr hscanfrom
    have hlisted : ((s.steward (quadFin n)).tuneReqs.any fun r => r.slice.toNat == n.val % 24) = false := by simpa using hr
    simp [exec, execScanDwell, hstewardon, hstate, hscan, hsync, hlisted, hscanfrom]
  case rogueTrip =>
    intro s n hisline
    refine ⟨s.rogueTrip n, by simp [exec, execRogueTrip, hisline], ?_⟩
    simp [State.rogueTrip, State.actCnt, State.lane_setAct]

end Sys2Proof.Machine
end

section
namespace Sys2Proof.Machine

theorem State.writeStwCmd_reaches {s : State} {p : Port} {q : QuadId} (h : s.reaches p (0x10 + q.val)) (k : State → State) :
    s.writeIsl p (quadBase q.val + 0x12008) k = k s := State.writeIsl_reaches h (by unfold quadBase base; omega)

theorem State.stwCmd_idle {s : State} {q : QuadId} (h : (s.steward q).isBusy = false) (k : State → State) :
    s.stwCmd q k = k (s.modStw q fun x => { x with err := 0 }) := if_neg (by simp [h])

theorem State.stwCmd_busy {s : State} {q : QuadId} (h : (s.steward q).isBusy = true) (k : State → State) :
    s.stwCmd q k = s.modStw q fun x => { x with err := 5 } := if_pos h

theorem State.stwLaneCmd_idle {s : State} {q : QuadId} {slice : BitVec 5} {n : LaneId} (h : (s.steward q).isBusy = false)
    (hn : laneOf q slice.toNat = some n) (hline : s.isLine n.val = true) (k : State → LaneId → State) :
    s.stwLaneCmd q slice k = k (s.modStw q fun x => { x with err := 0 }) n := by
  rw [State.stwLaneCmd, State.stwCmd_idle h]
  simp only [hn]
  exact if_pos hline

/-- The record of a lane that may send again goes to the well: the lanes and the vault's bits stay as they are. -/
theorem State.clearDisableRecord_lane (s : State) (n m : LaneId) : (s.clearDisableRecord n).lane m = s.lane m := by
  rw [State.lane, State.lane, State.clearDisableRecord_only s n .lanes rfl]

theorem State.disabled_clearDisableRecord (s : State) (n m : LaneId) : (s.clearDisableRecord n).disabled m = s.disabled m := by
  rw [State.disabled, State.disabled, State.clearDisableRecord_only s n .vault rfl]

theorem State.disabled_setDisabled (s : State) (n : LaneId) (on : Bool) : (s.setDisabled n on).disabled n = on := by
  simp [State.disabled, State.setDisabled, bit_setBit]

theorem State.disabled_modStw (s : State) (q : QuadId) (f : Steward → Steward) (n : LaneId) : (s.modStw q f).disabled n = s.disabled n := rfl

theorem State.disabled_modAct (s : State) (k : LaneId) (f : Act5 → Act5) (n : LaneId) : (s.modAct k f).disabled n = s.disabled n := rfl

/-- Settles O17: a command is refused while the steward is busy and else acts on the lane that its slice names. -/
theorem stewardCommandsTakeEffect : Obligations.StewardCommandsTakeEffect := by
  intro s p q hreach
  refine ⟨?loadFw, ?bcastKey⟩
  case loadFw =>
    intro hisbusy
    refine ⟨?loadFw_2, ?commitFw, ?swapFw, ?bcastKey_2⟩
    case loadFw_2 =>
      rw [exec, execLoadFw, State.writeStwCmd_reaches hreach, State.loadFw, State.stwCmd_idle hisbusy, State.modStw_modStw]
    case commitFw =>
      rw [exec, execCommitFw, State.writeStwCmd_reaches hreach, State.commitFw, State.stwCmd_idle hisbusy,
        State.modStw_modStw]
    case swapFw =>
      intro force haltvalid hrunbank
      rw [exec, execSwapFw, State.writeStwCmd_reaches hreach, State.swapFw, State.stwCmd_idle hisbusy]
      have hformat : ¬(fwFormat ((s.steward q).image (s.steward q).runBank) ≠ fwFormat ((s.steward q).image !(s.steward q).runBank) ∧ !force) := by
        rcases hrunbank with h | h <;> simp [h]
      simp only [State.steward_modStw_same, State.modStw_modStw]
      exact congrArg Host.Outcome.next ((if_neg (by simp [haltvalid])).trans (if_neg hformat))
    case bcastKey_2 =>
      intro slice n htonat hisline
      refine ⟨?bcastKey_3, ?clearRogue, ?clearDisable_1, ?clearDisable_2, ?restartLane⟩
      case bcastKey_3 =>
        intro k hk
        rw [exec, execBcastKey, State.writeStwCmd_reaches hreach, State.bcastKey, State.stwLaneCmd_idle hisbusy htonat hisline,
          if_pos hk,
          State.modStw_modStw]
      case clearRogue =>
        intro hstate hdisabled
        rw [exec, execClearRogue, State.writeStwCmd_reaches hreach, State.clearRogue,
          State.stwLaneCmd_idle hisbusy htonat hisline]
        exact congrArg Host.Outcome.next (if_pos ⟨by rw [State.lane_modAct_same]; exact hstate, by simp [State.disabled_modAct,
          State.disabled_modStw, hdisabled]⟩)
      case clearDisable_1 =>
        intro hdisabled hstate
        rw [exec, execClearDisable, State.writeStwCmd_reaches hreach, State.clearDisable,
          State.stwLaneCmd_idle hisbusy htonat hisline]
        refine ⟨_, congrArg Host.Outcome.next ((if_neg (by simp [State.disabled_modStw, hdisabled])).trans (if_neg ?_)), ?_, ?_⟩
        · rw [State.clearDisableRecord_lane]
          exact fun h => hstate h.1
        · rw [State.disabled_clearDisableRecord, State.disabled_setDisabled]
        · rw [State.clearDisableRecord_lane]
          rfl
      case clearDisable_2 =>
        intro hdisabled hstate hrogue
        rw [exec, execClearDisable, State.writeStwCmd_reaches hreach, State.clearDisable,
          State.stwLaneCmd_idle hisbusy htonat hisline]
        refine ⟨_, _, congrArg Host.Outcome.next ((if_neg (by simp [State.disabled_modStw, hdisabled])).trans (if_pos ?_)),
          rfl, ?_, ?_⟩
        · rw [State.clearDisableRecord_lane]
          exact ⟨hstate, congrArg (!·) hrogue⟩
        · rw [State.disabled_clearDisableRecord, State.disabled_setDisabled]
        · rw [State.clearDisableRecord_lane]
          rfl
      case restartLane =>
        intro hstate
        rw [exec, execRestartLane, State.writeStwCmd_reaches hreach, State.restartLane,
          State.stwLaneCmd_idle hisbusy htonat hisline]
        exact congrArg Host.Outcome.next (if_neg hstate)
  case bcastKey =>
    intro hisbusy
    refine ⟨?bcastKey_4, ?swapFw_2, ?loadFw_3, ?commitFw_2⟩
    case bcastKey_4 =>
      intro slice k
      refine ⟨?bcastKey_5, ?clearRogue_2, ?clearDisable, ?restartLane_2⟩
      case bcastKey_5 =>
        rw [exec, execBcastKey, State.writeStwCmd_reaches hreach, State.bcastKey, State.stwLaneCmd, State.stwCmd_busy hisbusy]
      case clearRogue_2 =>
        rw [exec, execClearRogue, State.writeStwCmd_reaches hreach, State.clearRogue, State.stwLaneCmd,
          State.stwCmd_busy hisbusy]
      case clearDisable =>
        rw [exec, execClearDisable, State.writeStwCmd_reaches hreach, State.clearDisable, State.stwLaneCmd,
          State.stwCmd_busy hisbusy]
      case restartLane_2 =>
        rw [exec, execRestartLane, State.writeStwCmd_reaches hreach, State.restartLane, State.stwLaneCmd,
          State.stwCmd_busy hisbusy]
    case swapFw_2 =>
      intro force
      rw [exec, execSwapFw, State.writeStwCmd_reaches hreach, State.swapFw, State.stwCmd_busy hisbusy]
    case loadFw_3 =>
      rw [exec, execLoadFw, State.writeStwCmd_reaches hreach, State.loadFw, State.stwCmd_busy hisbusy]
    case commitFw_2 =>
      rw [exec, execCommitFw, State.writeStwCmd_reaches hreach, State.commitFw, State.stwCmd_busy hisbusy]

end Sys2Proof.Machine
end

section
namespace Sys2Proof.Machine

theorem leNat_append_leBytes (n v : Nat) (l : List Byte) : leNat (leBytes n v ++ l) = v % 2 ^ (8 * n) + 2 ^ (8 * n) * leNat l := by
  induction n generalizing v with
  | zero => simp [leBytes, Nat.mod_one]
  | succ n ih =>
    have hpow : 2 ^ (8 * (n + 1)) = 256 * 2 ^ (8 * n) := by rw [Nat.mul_add, Nat.pow_add, Nat.mul_comm]
    rw [leBytes, List.cons_append, leNat, ih, hpow, Nat.mod_mul, BitVec.toNat_ofNat]
    ring

/-- The low bytes of a word that were read stand in its low bits, whatever the others are. -/
theorem bit_ofNat_leAt {len i : Nat} (r : W32) (x : Nat) (hlen : len ≤ 4) (hi : i < 8 * len) :
    bit (BitVec.ofNat 32 (leAt (leBytes len r.toNat ++ leBytes (4 - len) x) 0 4)) i = bit r i := by
  have hall : leAt (leBytes len r.toNat ++ leBytes (4 - len) x) 0 4 = r.toNat % 2 ^ (8 * len) + 2 ^ (8 * len) * leNat (leBytes (4 - len) x) := by
    rw [leAt, bytesAt, List.drop_zero, List.take_of_length_le (by simp [length_leBytes]; omega), leNat_append_leBytes]
  have hlow : ∀ m : Nat, (r.toNat % 2 ^ (8 * len) + 2 ^ (8 * len) * m).testBit i = r.toNat.testBit i := fun m => by
    rw [Nat.add_comm, Nat.testBit_two_pow_mul_add _ (Nat.mod_lt _ (Nat.two_pow_pos _)), if_pos hi, Nat.testBit_mod_two_pow]
    simp [hi]
  rw [hall, bit, BitVec.getLsbD_ofNat, hlow, bit, BitVec.testBit_toNat]
  simp
  omega

/-- The three ends of a load: a bad header, a bad signature, and an image that goes to the other bank. -/
theorem State.loadFwDone_eq (s : State) (q : QuadId) (bytes : List Byte) :
    s.loadFwDone q bytes true =
      if bytes.length ≠ (s.steward q).fwLen.toNat ∨ fwHeaderOk bytes = false then
        s.modStw q fun x => { x with busy := none, err := 1, altValid := false }
      else if fwSigned s.vault bytes = false then s.modStw q fun x => { x with busy := none, err := 2, altValid := false }
      else s.modStw q fun x => { x with
        busy := none, err := 0, altValid := true
        bank := vset x.bank (if x.runBank then 0 else 1) (some (fwImage bytes)) } := by
  have hbad : (!true || bytes.length != (s.steward q).fwLen.toNat || !fwHeaderOk bytes) = true ↔
      bytes.length ≠ (s.steward q).fwLen.toNat ∨ fwHeaderOk bytes = false := by simp
  rw [State.loadFwDone]
  by_cases h : bytes.length ≠ (s.steward q).fwLen.toNat ∨ fwHeaderOk bytes = false
  · simp only [if_pos h, if_pos (hbad.mpr h), State.stwEnd, State.modStw_modStw]
    rfl
  · simp only [if_neg h, if_neg (mt hbad.mp h), State.stwEnd, State.modStw_modStw]
    cases fwSigned s.vault bytes <;> rfl

/-- Settles O18: the swap, the heartbeat, the end of a command and of an access, each by the steward's registers. -/
theorem stewardConditionsAct : Obligations.StewardConditionsAct := by
  intro s q
  refine ⟨?swapFwHalt_1, ?swapFwHalt_2, ?swapFwCheck, ?stewardHeartbeatMiss, ?stwCmdDone, ?optGo, ?optDone, ?stwLaneData⟩
  case swapFwHalt_1 =>
    intro force hswap hforce
    rcases hforce with hforce | hforce <;> simp [exec, execSwapFwHalt, hswap, hforce]
  case swapFwHalt_2 =>
    intro hswap hrunbank
    simp [exec, execSwapFwHalt, hswap, hrunbank]
  case swapFwCheck =>
    intro hswap pass
    have hcheck : ¬(s.steward q).swap ≠ .checking := not_not.mpr hswap
    simp only [exec, execSwapFwCheck, if_neg hcheck, State.steward_modStw_same]
    cases pass <;> rfl
  case stewardHeartbeatMiss =>
    intro hison hclocked haltvalid
    have hacts : ¬(!s.isOn (dQuad q.val) || !s.clocked) = true := by simp [hison, hclocked]
    have hflip : (s.modStw q fun x => { x with runBank := if x.altValid then !x.runBank else x.runBank, swap := .none }) =
        s.modStw q fun x => { x with runBank := !x.runBank, swap := .none } := State.modStw_congr (by rw [if_pos haltvalid])
    rw [exec, execStewardHeartbeatMiss, if_neg hacts, hflip]
    dsimp only
    rw [State.steward_modStw_same]
    rfl
  case stwCmdDone =>
    intro hison
    refine ⟨?stwCmdDone_1, ?stwCmdDone_2, ?stwCmdDone_3⟩
    case stwCmdDone_1 =>
      intro hbusy bytes
      refine ⟨?stwCmdDone_4, ?stwCmdDone_5⟩
      case stwCmdDone_4 =>
        simp [exec, execStwCmdDone, State.stwEnd, hison, hbusy]
      case stwCmdDone_5 =>
        simp [exec, execStwCmdDone, State.stwEnd, hison, hbusy]
    case stwCmdDone_2 =>
      intro slice k n kek bytes ok hbusy htonat htckeyof
      have hrun : exec (.stwCmdDone q bytes ok) s = .next (s.bcastKeyDone q slice k) := by
        simp [exec, execStwCmdDone, hison, hbusy]
      rw [hrun, State.bcastKeyDone]
      simp only [htonat, htckeyof, Option.bind_some]
      rfl
    case stwCmdDone_3 =>
      intro hbusy bytes
      have hrun : exec (.stwCmdDone q bytes true) s = .next (s.loadFwDone q bytes true) := by
        simp [exec, execStwCmdDone, hison, hbusy]
      rw [hrun, State.loadFwDone_eq]
  case optGo =>
    intro p w hreach hoptbusy hw len rd
    rw [exec, execOptGo, State.writeIsl_reaches hreach (by unfold quadBase base; omega), State.optWrite]
    simp only [hw, hoptbusy, Bool.not_false, Bool.and_true, if_true, State.steward_modStw_same, State.modStw_modStw,
      Bool.or_true]
    rfl
  case optDone =>
    intro hoptbusy rdata
    refine ⟨?optDone_1, ?optDone_2, ?optDone_3, ?optTimeout⟩
    case optDone_1 =>
      simp [exec, execOptDone, hoptbusy]
    case optDone_2 =>
      intro hoptrun
      simp [exec, execOptDone, hoptbusy, hoptrun]
    case optDone_3 =>
      intro len hoptrun hlen
      refine ⟨_, by simp only [exec, execOptDone, hoptbusy, hoptrun, Bool.not_true, Bool.false_eq_true, if_false]; rfl, ?_⟩
      simp only [State.steward_modStw_same, true_and]
      exact fun i hi => bit_ofNat_leAt rdata _ hlen hi
    case optTimeout =>
      simp [exec, execOptTimeout, hoptbusy]
  case stwLaneData =>
    intro p w n hreach hstwsel hstwitem
    refine ⟨?stwLaneData_1, ?stwLaneData_2⟩
    case stwLaneData_1 =>
      rw [exec, execStwLaneData]
      have hread := State.readIsl_reaches (k := fun s => s.stwLaneRead q) hreach (a := quadBase q.val + 0x12034) (by unfold quadBase base; omega)
      refine (congrArg Host.Outcome.next hread).trans ?_
      simp only [State.stwLaneRead, hstwsel, hstwitem]
      rfl
    case stwLaneData_2 =>
      simp (disch := omega) [exec, execStwLaneData, State.writeIsl_reaches hreach, State.stwLaneWrite, State.actItemWrite,
        quadBase, base, State.modAct, hstwsel, hstwitem]

end Sys2Proof.Machine
end

section
namespace Sys2Proof.Machine

/-- Settles O19: by the queue of grants, the burst's state and what the lane's registers allow. -/
theorem pumpCommandsTakeEffect : Obligations.PumpCommandsTakeEffect := by
  refine ⟨?grant, ?cisternToTroughMove, ?burstAssemble, ?lateCisternFrame, ?burstServe, ?burstEnd, ?usCntClr⟩
  case grant =>
    intro s n ns g t b hisline hgrantq hstate hb u
    have hserial : (decide ((u.lane n).act.state = .o23 ∧ g.a.alloc = 0x3FF#14) && g.a.ploamu) = false := by simp [u,
      hstate]
    have hid : (u.lane n).pump.nextId = (s.lane n).pump.nextId := by simp [u]
    have hrun : exec (.grant n ns) s = .next (
        if !u.burstAllowed n b then u.usCnt n 4 b.grants.length
        else
          match u.refuseBurst n g (contGrants g t) b ns with
          | some (c, cause) => u.grantError n c b.grants.length cause
          | none =>
            match vget none (u.lane n).pump.profiles b.profile.toNat with
            | some pr => u.acceptBurst n g.a.ploamu (b.timed (u.lane n) pr)
            | none => u) := by
      have hu : (s.modPump n fun p => { p with grantQ := t.drop (contGrants g t).length }) = u := rfl
      rw [hb, ← hid]
      simp only [exec, execGrant, hgrantq, hisline, hu, hserial]
      rfl
    rw [hrun]
    refine ⟨fun hno => by rw [hno]; rfl, fun c cause hyes hrefused => by rw [hyes, hrefused]; rfl,
      fun pr hyes hnot hprofile => ?_⟩
    rw [hyes, hnot, hprofile]
    rfl
  case cisternToTroughMove =>
    intro s n j e hisline hgrantedqueue hcstroom hincistern
    simp [exec, execCisternToTroughMove, State.drains, hisline, hgrantedqueue, hcstroom, hincistern]
  case burstAssemble =>
    intro s n b hgranted
    refine ⟨?burstAssemble_1, ?burstAssemble_2, ?burstAssemble_3⟩
    case burstAssemble_1 =>
      intro hburstallowed
      simp [exec, execBurstAssemble, hgranted, hburstallowed]
    case burstAssemble_2 =>
      intro hburstallowed hprofile
      simp [exec, execBurstAssemble, hgranted, hburstallowed, hprofile]
    case burstAssemble_3 =>
      intro pr hburstallowed hprofile
      simp [exec, execBurstAssemble, hgranted, hburstallowed, hprofile]
  case lateCisternFrame =>
    intro s n j keep hisline hgrantedqueue hframes
    simp [exec, execLateCisternFrame, hisline, hgrantedqueue, hframes]
  case burstServe =>
    intro s n b hassembling
    refine ⟨?burstServe_1, ?burstServe_2, ?burstServe_3⟩
    case burstServe_1 =>
      intro hnotx
      simp [exec, execBurstServe, hassembling, hnotx]
    case burstServe_2 =>
      intro hnotx hsuppressed
      simp [exec, execBurstServe, hassembling, hnotx, hsuppressed]
    case burstServe_3 =>
      intro hnotx hsuppressed u
      have hrun : exec (.burstServe n) s = .next (if (u.lane n).act.state.silent then u.rogueTrip n else u) := by
        simp only [exec, execBurstServe, hassembling, hnotx, hsuppressed]
        rfl
      have hstate : (u.lane n).act.state = (s.lane n).act.state := by simp [u, State.putBurst]
      rw [hrun, hstate]
      exact ⟨fun hs => by rw [hs]; rfl, fun hs => by rw [hs]; rfl⟩
  case burstEnd =>
    intro s n b hserving
    simp [exec, execBurstEnd, hserving]
  case usCntClr =>
    intro s p n hreach hisline
    refine ⟨?usCntClr_2, ?usWinAccess_1, ?usWinAccess_2⟩
    case usCntClr_2 =>
      simp [exec, execUsCntClr, State.writeLane_reaches hreach, State.usCntClr, hisline]
    case usWinAccess_1 =>
      intro w hwinaddr
      simp only [State.lane] at hwinaddr
      simp [exec, execUsWinAccess, State.writeLane_reaches hreach, State.usWinWrite, State.modPump, State.modLane, hisline,
        hwinaddr, State.lane]
    case usWinAccess_2 =>
      intro e hwinaddr hwinaddr2
      simp [exec, execUsWinAccess, State.readLane_reaches hreach, State.usWinRead, State.usItem, State.modPump,
        State.modLane, hisline, hwinaddr, hwinaddr2]

end Sys2Proof.Machine
end

section
namespace Sys2Proof.Machine

section Front
variable {s : State} {n : LaneId} {b : List Byte} {rest : List (List Byte)} (hline : s.isLine n.val = true)
  (hon : s.isOn (dQuad (quadOf n.val)) = true) (hq : (s.lane n).ds.bondQ = b :: rest)
include hline hon hq

theorem State.onBond_front {m : BondMsg} (hm : parseBond (s.tcKey n 0) b = some m) (k : State → BondMsg → State) :
    s.onBond n m.type k = k (s.modDs n fun d => { d with bondQ := rest }) m := by
  simp [State.onBond, hline, hon, hq, hm]

end Front

theorem State.joinResult_modDs (s : State) (n k : LaneId) (f : LineDs → LineDs) (m : BondMsg) :
    (s.modDs k f).joinResult n m = s.joinResult n m := by
  have hbond (j : LaneId) : ((s.modDs k f).lane j).bond = (s.lane j).bond :=
    State.part_modLane (f := fun l => { l with ds := f l.ds }) Lane.bond (fun _ => rfl) j
  simp only [State.joinResult, State.posHolder, hbond]
  rfl

theorem State.modGroup_lane (s : State) (g : Nat) (f : Group → Group) (n : LaneId) : (s.modGroup g f).lane n = s.lane n := rfl

/-- Settles O20: the front message where its type and the member's state match, the timers by the member's state. -/
theorem bondCommandsTakeEffect : Obligations.BondCommandsTakeEffect := by
  refine ⟨?bondJoin, ?bondCapsTimer, ?bondPsyncStamp⟩
  case bondJoin =>
    intro s n b rest g hisline hison hbondq hgroupof
    refine ⟨?bondJoin_2, ?bondMessageDrop⟩
    case bondJoin_2 =>
      intro m htckey u
      have hmst : u.mstate n = s.mstate n := State.mstate_modDs ..
      have hgrp : u.groupOf n.val = some g := hgroupof
      have hfront (k : State → BondMsg → State) : s.onBond n m.type k = k u m := State.onBond_front hisline hison hbondq htckey k
      have hres : u.joinResult n m = s.joinResult n m := State.joinResult_modDs ..
      refine ⟨fun ht hst hr => ?_, fun ht hst hr => ?_, fun ht hst => ?_, fun ht hst => ?_, fun ht hst => ?_⟩
      · have hr' : ¬s.joinResult n m = 0#8 := hr
        simp only [exec, execBondJoin]
        rw [← ht, hfront]
        simp [hgrp, hmst, hst, hres, hr']
      · simp only [exec, execBondJoin]
        rw [← ht, hfront]
        simp [hgrp, hmst, hst, hres, hr]
      · simp only [exec, execBondHello]
        rw [← ht, hfront]
        simp [hgrp, hmst, hst]
      · simp only [exec, execBondLeave]
        rw [← ht, hfront]
        simp [hgrp, hmst, hst]
      · simp only [exec, execBondIndep]
        rw [← ht, hfront]
        simp [hmst, hst]
    case bondMessageDrop =>
      intro hlength
      have hparse : parseBond (s.tcKey n 0) b = none := if_neg fun h => hlength h.1
      have hgrp : (s.modDs n fun d => { d with bondQ := rest }).groupOf n.val = some g := hgroupof
      simp [exec, execBondMessageDrop, hbondq, hisline, hison, hparse, hgrp]
  case bondCapsTimer =>
    intro s n hison
    refine ⟨?bondCapsTimer_2, ?bondHelloTx, ?bondHelloTimeout_1, ?bondHelloTimeout_2, ?bondProbeTimeout⟩
    case bondCapsTimer_2 =>
      intro hmstate
      simp [exec, execBondCapsTimer, hison, hmstate]
    case bondHelloTx =>
      intro g hmstate hgroupof
      simp only [State.mstate] at hmstate
      simp [exec, execBondHelloTx, hison, hmstate, hgroupof]
    case bondHelloTimeout_1 =>
      intro hmstate
      simp [exec, execBondHelloTimeout, hison, hmstate]
    case bondHelloTimeout_2 =>
      intro g hmstate hgroupof
      rcases hmstate with hmstate | hmstate <;> simp [exec, execBondHelloTimeout, State.memberLost, hison, hmstate, hgroupof]
    case bondProbeTimeout =>
      intro hisline hgroupof hmstate hstate hbondport
      simp [exec, execBondProbeTimeout, hison, hisline, hgroupof, hmstate, hstate, hbondport]
  case bondPsyncStamp =>
    intro s n g hgroupof hinsync hmstate hmstate2
    have hcarries (f : Group → Group) : ((s.modBond n fun b => { b with seen := some (s.lane n).ds.sfc }).modGroup g f).carries n = false := by
      rw [State.carries, State.mstate, State.modGroup_lane, State.lane_modBond_same]
      simpa using ⟨hmstate, hmstate2⟩
    simp [exec, execBondPsyncStamp, hgroupof, hinsync, hcarries]

end Sys2Proof.Machine
end

section
namespace Sys2Proof.Machine

/-- The 256 entries of a domain laid over a list of lanes in their order (R210). -/
def filledOver (ls : List LaneId) : Vector Byte 256 :=
  Vector.ofFn fun e => BitVec.ofNat 8 (128 + (ls.map (·.val)).getD (e.val % ls.length) 0)

theorem exec_spreadCmdDone_remap {s : State} {a b : BitVec 7} (h : s.tbl.sprBusy = some (.remap a b)) :
    exec .spreadCmdDone s = .next { s with tbl := { s.tbl with
      spread := s.tbl.spread.map fun d => { d with entries := d.entries.map (remapEntry a b) }, sprBusy := none } } := by
  simp [exec, execSpreadCmdDone, h, State.sprApply]

theorem exec_spreadCmdDone_fill {s : State} {d : BitVec 6} {g : BitVec 4} (h : s.tbl.sprBusy = some (.fill d g))
    (hlanes : s.fillLanes g.toNat ≠ []) :
    exec .spreadCmdDone s = .next { s with tbl := { s.tbl with
      spread := vmod s.tbl.spread d.toNat fun x => { x with entries := filledOver (s.fillLanes g.toNat) }, sprBusy := none } } := by
  simp [exec, execSpreadCmdDone, h, State.sprApply, hlanes, filledOver]

/-- Settles O22: acceptance by the operands' ranges, completion by the two forms of a command, and the data register by whether one runs. -/
theorem spreadCommandsTakeEffect : Obligations.SpreadCommandsTakeEffect := by
  refine ⟨?spreadRemap, ?spreadFill, ?spreadCmdDone_1, ?spreadCmdDone_2, ?sprDataAccess⟩
  case spreadRemap =>
    intro s p a b hreach hsprbusy htonat hisline
    simp (disch := omega) [exec, execSpreadRemap, State.writeIsl_reaches hreach, State.sprRemap, State.sprStart, base,
      hsprbusy, htonat, hisline]
  case spreadFill =>
    intro s p d g hreach hsprbusy hfilllanes
    simp (disch := omega) [exec, execSpreadFill, State.writeIsl_reaches hreach, State.sprFill, State.sprStart, base,
      hsprbusy, hfilllanes]
  case spreadCmdDone_1 =>
    intro s a b hsprbusy
    have hrun := exec_spreadCmdDone_remap hsprbusy
    refine ⟨_, hrun, rfl, touches_of_exec hrun, fun d e => ?_⟩
    simp [remapEntry]
  case spreadCmdDone_2 =>
    intro s d g hsprbusy hfilllanes
    have hrun := exec_spreadCmdDone_fill hsprbusy hfilllanes
    refine ⟨_, hrun, rfl, touches_of_exec hrun, fun e => ?_, fun c hc => ?_⟩
    · simp [getElem_vmod, filledOver]
    · simp [getElem_vmod, Ne.symm hc]
  case sprDataAccess =>
    intro s p w hreach hspraddr hspraddr2
    refine ⟨?sprDataAccess_1, ?sprDataAccess_2, ?sprDataAccess_3⟩
    case sprDataAccess_1 =>
      intro hsprbusy
      simp (disch := omega) [exec, execSprDataAccess, State.writeIsl_reaches hreach, State.sprDataWrite, State.sprErr, base,
        Tables.sprKey, Tables.sprStep, hspraddr, hspraddr2, hsprbusy]
    case sprDataAccess_2 =>
      intro hsprbusy
      simp (disch := omega) [exec, execSprDataAccess, State.writeIsl_reaches hreach, State.sprDataWrite, State.sprErr, base,
        Tables.sprDomain, Tables.sprKey, Tables.sprEntry, Tables.sprStep, hspraddr, hsprbusy]
    case sprDataAccess_3 =>
      simp (disch := omega) [exec, execSprDataAccess, State.readIsl_reaches hreach, State.sprDataRead, base, Tables.sprKey,
        Tables.sprStep, hspraddr, hspraddr2]

end Sys2Proof.Machine
end

section
namespace Sys2Proof.Machine

/-- The port's counters and window after blocks under error correction (R237). -/
def EthPort.fecCounted (e : EthPort) (corrected uncorrected : Nat) : EthPort :=
  if e.fecOn then { e with
    cnt := vmod (vmod e.cnt 17 (· + BitVec.ofNat 64 corrected)) 18 (· + BitVec.ofNat 64 uncorrected)
    fecUnc := if e.link = .up then e.fecUnc + uncorrected else 0 }
  else e

theorem State.fecBlocks_eq (s : State) (n : LaneId) (corrected uncorrected : Nat) :
    s.fecBlocks n corrected uncorrected = s.modEth n fun e => e.fecCounted corrected uncorrected := by
  cases h : (s.lane n).eth.fecOn with
  | false =>
    rw [State.fecBlocks, if_neg (by simp [h])]
    exact (State.modEth_eq_self (by simp [EthPort.fecCounted, h])).symm
  | true =>
    rw [State.fecBlocks, if_pos h, State.ethCnt, State.ethCnt, State.modEth_modEth, State.modEth_modEth]
    exact State.modEth_congr (by simp [EthPort.fecCounted, h])

theorem EthPort.fecCounted_ctl (e : EthPort) (a b : Nat) : (e.fecCounted a b).ctl = e.ctl := by
  unfold EthPort.fecCounted
  split <;> rfl

theorem State.wakeTests_fecBlocks (s : State) (n : LaneId) (a b : Nat) : (s.fecBlocks n a b).wakeTests n = s.wakeTests n := by
  simp only [State.wakeTests, State.fecBlocks_eq, State.lane_modEth_same, EthPort.fecCounted_ctl]
  rfl

theorem State.rxStamp_modEth (s : State) (n : LaneId) (f : EthPort → EthPort) : (s.modEth n f).rxStamp n = s.rxStamp n := by
  simp only [State.rxStamp, State.rxMoment, State.replica, State.lane_modEth_same]
  rfl

/-- Settles O23: by the link's state and the lane's registers; a frame received or sent is followed through its judgements in order. -/
theorem ethernetCommandsTakeEffect : Obligations.EthernetCommandsTakeEffect := by
  refine ⟨?anComplete, ?linkUpTimer, ?blockLockLost, ?faultOrderedSet_1, ?faultOrderedSet_2, ?anRestart, ?ethFrameRx, ?pauseTx,
    ?clause, ?pauseRefresh, ?pauseExpire, ?ethFecWindow, ?ethTxFrame_1, ?ethTxFrame_2⟩
  case anComplete =>
    intro s n f0 f1 hethon hlink
    simp [exec, execAnComplete, hethon, hlink]
  case linkUpTimer =>
    intro s n hethon hlink hxoff
    simp only [State.lane, State.quad] at hlink hxoff
    simp [exec, execLinkUpTimer, State.modEth, State.modLane, hethon, hlink, hxoff, State.lane, State.quad]
  case blockLockLost =>
    intro s n hiBer hethon hlink
    simp [exec, execBlockLockLost, State.modEth, State.modLane, hethon, hlink]
  case faultOrderedSet_1 =>
    intro s n l r hethon hlink hl
    have hany : (l || r) = true := by simpa using hl
    simp only [exec, execFaultOrderedSet, hethon, hlink, hany, State.modEth_modEth]
    rfl
  case faultOrderedSet_2 =>
    intro s n hethon hlink
    refine ⟨?faultOrderedSet, ?blockLockLost_2, ?ethFrameRx_2⟩
    case faultOrderedSet =>
      intro l r hl
      rcases hl with hl | hl <;> simp [exec, execFaultOrderedSet, hethon, hlink, hl]
    case blockLockLost_2 =>
      intro hiBer
      simp [exec, execBlockLockLost, hethon, hlink]
    case ethFrameRx_2 =>
      intro f hishead hfecon
      simp [exec, execEthFrameRx, State.fecBlocks, hethon, hlink, hishead, hfecon]
  case anRestart =>
    intro s p n hreach hiseth
    refine ⟨?anRestart_2, ?pauseCfgWrite, ?ethCntClr, ?ethWinAccess⟩
    case anRestart_2 =>
      simp [exec, execAnRestart, State.writeLane_reaches hreach, State.anRestart, hiseth]
    case pauseCfgWrite =>
      intro w
      simp [exec, execPauseCfgWrite, State.writeLane_reaches hreach, hiseth]
    case ethCntClr =>
      simp [exec, execEthCntClr, State.writeLane_reaches hreach, State.ethCntClr, hiseth]
    case ethWinAccess =>
      intro w hethkind
      simp [exec, execEthWinAccess, State.writeLane_reaches hreach, State.ethWinWrite, hiseth, hethkind]
  case ethFrameRx =>
    intro s n f hethon hishead hlink u
    have hrun : exec (.ethFrameRx n f) s = .next (
        match (s.lane n).eth.badFrame f with
        | some c => (u.ethCnt n c).toSump (quadOf n.val) 0 f.bytes.length
        | none =>
          match (if u.wakeTests n then (s.lane n).eth.wakeMatch f.bytes else none) with
          | some p => u.wakeHit n p
          | none =>
            if beAt f.bytes 12 2 = 0x8808 then
              if u.troughRoom (quadOf n.val) < f.bytes.length then (u.ethCnt n 7).toSump (quadOf n.val) 1 f.bytes.length
              else u.macControl n f.bytes
            else u.intoTrough n f.bytes (fun s => s.ethCnt n 7) fun s => (s.ethCnt n 0).ethCnt n 1 f.bytes.length) := by
      simp only [exec, execEthFrameRx, hishead, hethon, hlink]
      rfl
    rw [hrun]
    refine ⟨fun c hbad => by rw [hbad], fun hbad hwake hroom => ?_⟩
    have hwake' : u.wakeTests n = false := (State.wakeTests_fecBlocks ..).trans hwake
    have hroom' : ¬u.troughRoom (quadOf n.val) < f.bytes.length := by
      rw [show u = _ from State.fecBlocks_eq ..]
      exact Nat.not_lt.mpr hroom
    have hstamp : u.rxStamp n = s.rxStamp n := by rw [show u = _ from State.fecBlocks_eq .., State.rxStamp_modEth]
    refine ⟨fun htype => ?_, fun htype => ?_⟩
    · simp only [hbad, hwake', Bool.false_eq_true, if_false, if_pos htype, if_neg hroom']
    · simp only [hbad, hwake', Bool.false_eq_true, if_false, if_neg htype, State.intoTrough, if_neg hroom', hstamp]
  case pauseTx =>
    intro s n m hlink hison hgenen htxidle hpendingflow
    simp [exec, execPauseTx, hlink, hison, hgenen, htxidle, hpendingflow]
  case clause =>
    intro e pfc time
    rfl
  case pauseRefresh =>
    intro s n hethon hxoff hxoff2
    simp [exec, execPauseRefresh, hethon, hxoff, hxoff2]
  case pauseExpire =>
    intro s n c
    refine ⟨?pauseExpire_1, ?pauseExpire_2⟩
    case pauseExpire_1 =>
      rfl
    case pauseExpire_2 =>
      rfl
  case ethFecWindow =>
    intro s n corr unc hethon hlink hfecon
    have hrun : exec (.ethFecWindow n corr unc) s = .next (((s.fecBlocks n corr unc).modEth n fun e => { e with fecUnc := 0 }).reportIf
        (decide ((fld (s.lane n).eth.ctl 24 8).toNat ≠ 0 ∧ (fld (s.lane n).eth.ctl 24 8).toNat ≤ (s.lane n).eth.fecUnc + unc)) (laneEv n 2) 1) := by
      simp only [exec, execEthFecWindow, hethon, hlink, hfecon]
      rfl
    have hzero : (fld (s.lane n).eth.ctl 24 8).toNat ≠ 0 ↔ fld (s.lane n).eth.ctl 24 8 ≠ 0#8 := by simp [← BitVec.toNat_inj]
    rw [hrun, State.fecBlocks, if_pos hfecon, State.modEth_modEth]
    simp only [hzero]
  case ethTxFrame_1 =>
    intro s n hison hiseth hgenen hlink hison2 htxidle
    refine ⟨?ethTxFrame_3, ?ethTxFrame_4⟩
    case ethTxFrame_3 =>
      intro hpendingflow x hpickdown u out
      have hrun : exec (.ethTxFrame n) s = .next (u.ethSend n x.2.frame) := by
        have hpick : s.pickDown n = (u, some x) := Prod.ext rfl hpickdown
        simp [exec, execEthTxFrame, hison, hiseth, hgenen, hlink, hison2, htxidle, hpendingflow, hpick]
      rw [hrun, State.ethSend]
      refine ⟨fun hlong => by rw [if_pos hlong], fun hfits => by rw [if_neg (Nat.not_lt.mpr hfits)]⟩
    case ethTxFrame_4 =>
      intro hpendingflow
      simp [exec, execEthTxFrame, hison, hiseth, hgenen, hlink, hison2, htxidle, hpendingflow]
  case ethTxFrame_2 =>
    intro s n j x rest hison hiseth hdownheads
    refine ⟨?ethTxFrame_5, ?ethTxFrame_6, ?ethTxFrame_7⟩
    case ethTxFrame_5 =>
      intro hlink
      simp [exec, execEthTxFrame, State.dropDown, hison, hiseth, hdownheads, hlink]
    case ethTxFrame_6 =>
      intro hlink hgenen
      simp [exec, execEthTxFrame, State.dropDown, hison, hiseth, hdownheads, hlink, hgenen]
    case ethTxFrame_7 =>
      intro hlink hgenen htxidle
      simp [exec, execEthTxFrame, hison, hiseth, hlink, hgenen, htxidle]

end Sys2Proof.Machine
end

section
namespace Sys2Proof.Machine

/-- Settles O26: the memory upsets leave the quadrants, so the front frame is the one that is looked up. -/
theorem forwardingCommandsTakeEffect : Obligations.ForwardingCommandsTakeEffect := by
  refine ⟨?forwardLookup, ?lpmLookup⟩
  case forwardLookup =>
    intro s q f rest hlookupq hopened hlater us u
    have hup : (s.upsets us).quads = s.quads := State.upsets_only s us .quads rfl
    have hq : ((s.upsets us).quad q).lookupQ = f :: rest := by rw [State.quad, hup]; exact hlookupq
    refine ⟨fun a hact => ?_, fun hact => ?_⟩
    · simp only [exec, execForwardLookup, hq, State.forward, hopened, hlater, hact]
      rfl
    · simp only [exec, execForwardLookup, hq, State.forward, hopened, hlater, hact]
      rfl
  case lpmLookup =>
    intro s q f rest a hlpmq hact hmode
    refine ⟨?lpmLookup_1, ?lpmLookup_2⟩
    case lpmLookup_1 =>
      simp [exec, execLpmLookup, hlpmq, hact, hmode]
    case lpmLookup_2 =>
      simp [exec, execLpmLookup, hlpmq, hact]

end Sys2Proof.Machine
end

section
namespace Sys2Proof.Machine

theorem State.ctxStep_still {s : State} (h : bit s.key.ctxAddr 18 = false) : s.ctxStep = s := if_neg (by simp [h])

theorem State.laStep_still {s : State} (h : bit s.key.laAddr 10 = false) : s.laStep = s := if_neg (by simp [h])

theorem State.laStep_moves {s : State} (h : bit s.key.laAddr 10 = true) :
    s.laStep.key.laAddr = putFld s.key.laAddr 0 (BitVec.ofNat 10 ((fld s.key.laAddr 0 10).toNat + 1)) := by
  rw [State.laStep, if_pos h]

theorem State.modAssoc_congr {s : State} {i : Nat} {f g : Assoc → Assoc} (h : f (s.assoc i) = g (s.assoc i)) : s.modAssoc i f = s.modAssoc i g :=
  congrArg (fun a => { s with key := { s.key with assoc := Tab.put {} s.key.assoc i a } }) h

/-- The service field of an association's word 0 is kept by the mask of its writable bits. -/
theorem fld_assocMask (w : W32) : fld (w &&& assocMask 0) 1 3 = fld w 1 3 := by
  rw [fld_and, show fld (assocMask 0) 1 3 = BitVec.allOnes 3 by decide, BitVec.and_allOnes]

/-- A write of word 0 that makes an entry valid for sealing, where no valid entry that seals has its context, gives it a new start. -/
theorem State.tribWrite_opens {s : State} {i : Nat} {w : W32} (hfree : (s.tribCtx i).valid = false) (hvalid : bit (w &&& 0x7F#32) 0 = true)
    (hseals : bit (w &&& 0x7F#32) 1 = false)
    (hdup : (s.key.trib.any fun e => e.1 != i && e.2.valid && !e.2.open_ && e.2.ctxId == (s.tribCtx i).ctxId) = false) :
    s.tribWrite i 0 w = s.sealStart i { s.tribCtx i with w := vset (s.tribCtx i).w 0 (w &&& 0x7F#32) } := by
  obtain ⟨b, hb⟩ : ∃ b : TribCtx, { s.tribCtx i with w := vset (s.tribCtx i).w 0 (w &&& 0x7F#32) } = b := ⟨_, rfl⟩
  have hw0 : b.w0 = w &&& 0x7F#32 := hb ▸ vget_vset_same (by decide)
  have hid : b.ctxId = (s.tribCtx i).ctxId := hb ▸ vget_vset_ne (by decide)
  have hbv : b.valid = true := by rw [TribCtx.valid, hw0, hvalid]
  have hbo : b.open_ = false := by rw [TribCtx.open_, hw0, hseals]
  have hdup' : (s.key.trib.any fun e => e.1 != i && e.2.valid && e.2.open_ == false && e.2.ctxId == b.ctxId) = false := by
    simpa [hid] using hdup
  simp only [State.tribWrite, if_true, hb, hfree, hbv, hbo, hdup']
  rfl

/-- Settles O30: the windows by the item that the address names, a request by the key store and the jobs that wait. -/
theorem keyWindowsAndRequestsTakeEffect : Obligations.KeyWindowsAndRequestsTakeEffect := by
  refine ⟨?keyCtxAccess_1, ?keyCtxAccess_2, ?keyLaAccess, ?keyDerive, ?keyRequestTimeout_1, ?keyRequestTimeout_2⟩
  case keyCtxAccess_1 =>
    intro s p w hreach hctxtrb hctxaddr i c
    have hread : exec (.keyCtxAccess p none) s = .next ((s.assocRead p i c).2.ctxStep.emit (.read p (s.assocRead p i c).1)) := by
      rw [exec, execKeyCtxAccess, State.readIsl_reaches hreach rfl, State.ctxRead, hctxtrb]
      rfl
    have hwrite : exec (.keyCtxAccess p (some w)) s = .next (s.assocWrite i c w).ctxStep := by
      rw [exec, execKeyCtxAccess, State.writeIsl_reaches hreach rfl, State.ctxWrite, hctxtrb]
      rfl
    rw [hread, hwrite]
    refine ⟨fun hc => ?_, fun hc hvalid hkind => ?_, fun hpos hc => ?_⟩
    · rw [State.assocRead, if_pos hc, State.ctxStep_still hctxaddr]
    · have hkind' : fld (s.assoc i).w0 1 3 ≠ fld (w &&& assocMask 0) 1 3 := by rwa [fld_assocMask]
      rw [hc, State.assocWrite, if_neg (by decide)]
      dsimp only
      rw [if_pos ⟨rfl, hvalid, hkind'⟩, State.ctxStep_still (by exact hctxaddr), State.ctxRefuse]
    · have hkept : s.assocWrite i c w = s.modAssoc i fun a => { a with w := vset a.w c (w &&& assocMask c) } := by
        rw [State.assocWrite, if_neg (by omega)]
        dsimp only
        rw [if_neg (by omega), if_neg (by omega)]
        exact State.modAssoc_congr (by rw [if_neg (by omega), if_neg (by omega)])
      rw [hkept, State.ctxStep_still (by exact hctxaddr)]
  case keyCtxAccess_2 =>
    intro s p w hreach hctxtrb hctxaddr hctxitem hctxitem2 i hfree hvalid hopen hdup hmore
    have hwrite : exec (.keyCtxAccess p (some w)) s = .next (s.tribWrite i 0 w).ctxStep := by
      rw [exec, execKeyCtxAccess, State.writeIsl_reaches hreach rfl, State.ctxWrite, hctxtrb, ← hctxitem2, if_pos hctxitem]
      rfl
    have hv : bit (w &&& 0x7F#32) 0 = true := by rw [bit_and, hvalid]; rfl
    have ho : bit (w &&& 0x7F#32) 1 = false := by rw [bit_and, hopen]; rfl
    have hstart : s.tribWrite i 0 w = s.sealStart i { s.tribCtx i with w := vset (s.tribCtx i).w 0 (w &&& 0x7F#32) } :=
      State.tribWrite_opens hfree hv ho hdup
    rw [hwrite, hstart, State.sealStart, if_neg hmore]
    exact congrArg Host.Outcome.next (State.ctxStep_still hctxaddr)
  case keyLaAccess =>
    intro s p hreach n
    refine ⟨fun hstill => ⟨?_, fun w => ?_⟩, fun hmoves => ⟨s.laStep.emit (.read p s.laRead.1), ?_,
      State.laStep_moves hmoves⟩⟩
    · rw [exec, execKeyLaAccess, State.readIsl_reaches hreach rfl, State.laRead, State.laStep_still hstill]
    · rw [exec, execKeyLaAccess, State.writeIsl_reaches hreach rfl, State.laWrite, State.laStep_still (by exact hstill)]
    · rw [exec, execKeyLaAccess, State.readIsl_reaches hreach rfl]
      rfl
  case keyDerive =>
    intro s n rest hprefetch
    refine ⟨?keyDerive_1, ?keyDerive_2⟩
    case keyDerive_1 =>
      intro hrootof
      simp [exec, execKeyDerive, KeyIsland.derived, State.modKey, hprefetch, hrootof]
    case keyDerive_2 =>
      intro root hrootof hcache
      have henter : s.cacheEnter { name := n, key := kdf root n } = (s.cacheTouch { name := n, key := kdf root n },
        true) := if_pos hcache
      simp only [exec, execKeyDerive, hprefetch, hrootof, henter]
      rfl
  case keyRequestTimeout_1 =>
    intro s k q i hmap
    simp only [exec, execKeyRequestTimeout, hmap]
  case keyRequestTimeout_2 =>
    intro s i hrob hstatus
    have hnone : (List.range 4).findSome? (fun c => (waiting none (vget {} s.quads c).cph.rob).map fun j => (c,
      j)) = none :=
      List.findSome?_eq_none_iff.mpr fun c hc => by
        have hq := hrob ⟨c, List.mem_range.mp hc⟩
        rw [← State.vget_quads] at hq
        rw [hq, Option.map_none]
    simp only [exec, execKeyRequestTimeout, hnone, hstatus]
    rfl

end Sys2Proof.Machine
end

section
namespace Sys2Proof.Machine

theorem State.keyCmdAt_reaches {s : State} {p : Port} (h : s.reaches p 7) (op : Nat) (c : KeyCmdWord) (present : Bool) :
    s.keyCmdAt p op c present = s.keyCmd op c present := State.writeIsl_reaches h rfl

/-- A slot that does not allow the purpose gives no key. -/
theorem State.deriveKey_of_not_allowed {s : State} {w : BitVec 4} (service epoch site : W32) (bits256 : Bool)
    (h : s.slotAllows w.toNat 4 = false) : s.deriveKey (s.keyName w.toNat 4 false service epoch site bits256) = none :=
  if_neg (by simp [State.keyAvailable, State.keyName, h])

/-- Settles O33: acceptance command by command from the rest state of the engine, refusal while one runs, and each completion. -/
theorem keyCommandsTakeEffect : Obligations.KeyCommandsTakeEffect := by
  refine ⟨?importClear, ?key, ?importDone, ?oldGenWipe, ?eraseDone, ?keyCmdDone⟩
  case importClear =>
    intro s p c hreach hbusy stop run
    have hidle : ¬s.key.busy.isSome = true := by simp [hbusy]
    have hat := State.keyCmdAt_reaches hreach
    refine ⟨fun hz => ?_, fun hz hprov => ?_, fun hz hprov => ?_, fun hz hslot => ?_, fun key hkey hz => ?_, ?_, ?_, ?_,
      fun hlane hz => ?_,
      fun hlane => ?_, fun hlane => ?_, fun hlane hz => ?_, ?_, ?_, ?_, fun hrange => ?_, fun hlo hhi hmax => ?_,
        fun hlo hhi hmax => ?_⟩
    · simp only [exec, execImportClear, execImportWrapped, execMskSet, hat, State.keyCmd, if_neg hidle, State.importClear,
      State.importWrapped,
        State.mskSet, if_pos hz]
      exact ⟨rfl, rfl, rfl⟩
    · simp only [exec, execImportClear, hat, State.keyCmd, if_neg hidle, State.importClear, hz, hprov]
      rfl
    · simp only [exec, execImportClear, hat, State.keyCmd, if_neg hidle, State.importClear, hz, hprov]
      rfl
    · have hnone := State.deriveKey_of_not_allowed (c.slot.setWidth 32) ((s.slot c.slot.toNat).gen + 1) 0 true hslot
      simp only [exec, execImportWrapped, hat, State.keyCmd, if_neg hidle, State.importWrapped, hz, hnone]
      rfl
    · intro opened
      have hopened : gcmOpen key ((s.key.dataBytes 15).take 12) (wrapAad c ((s.slot c.slot.toNat).gen + 1))
          (bytesAt (s.key.dataBytes 15) 12 32) (bytesAt (s.key.dataBytes 15) 44 16) = opened := rfl
      refine ⟨fun hnone => ?_, fun k hsome => ?_⟩
      · simp only [exec, execImportWrapped, hat, State.keyCmd, if_neg hidle, State.importWrapped, hz, hkey, hopened, hnone]
        rfl
      · simp only [exec, execImportWrapped, hat, State.keyCmd, if_neg hidle, State.importWrapped, hz, hkey, hopened, hsome]
        rfl
    · simp only [exec, execErase, hat, State.keyCmd, if_neg hidle]
      rfl
    · simp only [exec, execCloseProv, hat, State.keyCmd, if_neg hidle]
      rfl
    · simp only [exec, execVkInstall, hat, State.keyCmd, if_neg hidle]
      rfl
    · simp only [exec, execMskSet, hat, State.keyCmd, if_neg hidle, State.mskSet, hz, hlane]
      rfl
    · simp only [exec, execMskClear, hat, State.keyCmd, if_neg hidle, State.mskClear, hlane]
      rfl
    · obtain ⟨n, hn⟩ := Option.isSome_iff_exists.mp hlane
      simp only [exec, execMskClear, hat, State.keyCmd, if_neg hidle, State.mskClear, hn]
      rfl
    · obtain ⟨n, hn⟩ := Option.isSome_iff_exists.mp hlane
      simp only [exec, execMskSet, hat, State.keyCmd, if_neg hidle, State.mskSet, hz, hn]
      rfl
    · simp only [exec, execPrefetch, hat, State.keyCmd, if_neg hidle]
      rfl
    · simp only [exec, execTamperClear, hat, State.keyCmd, if_neg hidle]
      rfl
    · simp only [exec, execTamperClear, hat, State.keyCmd, if_neg hidle]
      rfl
    · simp only [exec, execMonoIncr, hat, State.keyCmd, if_neg hidle, State.monoIncr, if_pos hrange]
      rfl
    · simp only [exec, execMonoIncr, hat, State.keyCmd, if_neg hidle, State.monoIncr,
      if_neg (show ¬(c.slot.toNat < 4 ∨ 7 < c.slot.toNat) by omega),
        if_pos hmax, State.keyRefuse]
    · simp only [exec, execMonoIncr, hat, State.keyCmd, if_neg hidle, State.monoIncr,
      if_neg (show ¬(c.slot.toNat < 4 ∨ 7 < c.slot.toNat) by omega),
        if_neg hmax]
      rfl
  case key =>
    intro s p c present hreach hbusy i hmem
    have hat (op : Nat) (d : KeyCmdWord) (pr : Bool) : s.keyCmdAt p op d pr = s.modKey fun k => { k with err := 2 } :=
      (State.keyCmdAt_reaches hreach op d pr).trans (if_pos hbusy)
    simp only [List.mem_cons, List.not_mem_nil, or_false] at hmem
    rcases hmem with rfl | rfl | rfl | rfl | rfl | rfl | rfl | rfl | rfl | rfl <;> exact congrArg Host.Outcome.next (hat _ _ _)
  case importDone =>
    intro s slot side purposes key hbusy
    refine ⟨?importDone_1, ?importDone_2⟩
    case importDone_1 =>
      intro holdkey
      refine ⟨?importDone_3, ?importDone_4⟩
      case importDone_3 =>
        simp [exec, execImportDone, hbusy, holdkey]
      case importDone_4 =>
        simp [exec, execImportDone, State.vaultFail, hbusy, holdkey]
    case importDone_2 =>
      intro holdkey ok
      simp [exec, execImportDone, hbusy, holdkey]
  case oldGenWipe =>
    intro s slot holdkey holdgen
    have hwipes : exec (.oldGenWipe slot) s = .next (s.wipeOld slot.val) := by simp [exec, execOldGenWipe, holdkey, holdgen]
    have hcopy : (s.wipeOld slot.val).copy slot.val = { s.copy slot.val with oldKey := none } := vget_vmod_same slot.isLt
    refine ⟨_, hwipes, by rw [hcopy], by rw [hcopy], fun e he hname => ?_⟩
    have hkept := (List.mem_filter.mp (show e ∈ s.key.cache.filter _ from he)).2
    simp [hname] at hkept
  case eraseDone =>
    intro s slot hbusy
    refine ⟨?eraseDone_1, ?eraseDone_2⟩
    case eraseDone_1 =>
      simp [exec, execEraseDone, hbusy]
    case eraseDone_2 =>
      simp [exec, execEraseDone, State.slot, State.vaultFail, hbusy]
  case keyCmdDone =>
    intro s bytes
    refine ⟨?keyCmdDone_1, ?keyCmdDone_2, ?keyCmdDone_3, ?keyCmdDone_4, ?keyCmdDone_5, ?keyCmdDone_6⟩
    case keyCmdDone_1 =>
      intro hbusy
      simp [exec, execKeyCmdDone, State.keyWritten, State.modVault, hbusy]
    case keyCmdDone_2 =>
      intro hbusy hvkvalid ok
      simp [exec, execKeyCmdDone, hbusy, hvkvalid]
    case keyCmdDone_3 =>
      intro lane key hbusy ok
      simp [exec, execKeyCmdDone, hbusy]
    case keyCmdDone_4 =>
      intro hbusy ok
      simp [exec, execKeyCmdDone, hbusy]
    case keyCmdDone_5 =>
      intro hbusy
      simp [exec, execKeyCmdDone, State.modVault, hbusy]
    case keyCmdDone_6 =>
      intro c hbusy
      refine ⟨?keyCmdDone_7, ?keyCmdDone_8⟩
      case keyCmdDone_7 =>
        simp [exec, execKeyCmdDone, State.keyWritten, State.modVault, hbusy]
      case keyCmdDone_8 =>
        simp [exec, execKeyCmdDone, State.keyWritten, State.vaultFail, hbusy]

end Sys2Proof.Machine
end

section
namespace Sys2Proof.Machine

/-- Settles O34: by what the pin, the sensors and the random source show; a zeroisation ends in the same steps from either. -/
theorem vaultCommandsTakeEffect : Obligations.VaultCommandsTakeEffect := by
  refine ⟨?zeroise_1, ?zeroise_2, ?tamper, ?zeroNRise, ?trngFail, ?clause, ?trngRecover, ?operatingMinute, ?keyRngRead⟩
  case zeroise_1 =>
    intro s ns hns hzeronlow u
    have hrun : exec (.zeroise ns) s = .next ((if bit u.key.zcfg 0 then u.eraseRoots else u).report 1000 3) := by
      have hacts : ¬(ns < 100 ∨ s.key.zeroNLow = true) := by simp [hns, hzeronlow]
      have hu : (s.modKey fun k => { k with zeroNLow := true }).zeroiseSteps = u := congrArg State.zeroiseSteps rfl
      rw [exec, execZeroise, if_neg hacts, hu]
    rw [hrun]
    exact ⟨fun h => by rw [h]; rfl, fun h => by rw [h]; rfl⟩
  case zeroise_2 =>
    intro s ns hns
    simp [exec, execZeroise, hns]
  case tamper =>
    intro s c
    refine ⟨?tamper_1, ?tamper_2⟩
    case tamper_1 =>
      intro hsenses
      simp [exec, execTamper, hsenses]
    case tamper_2 =>
      intro hsenses
      rw [exec, execTamper, if_neg (by simp [hsenses])]
      generalize State.zeroiseSteps = wipe
      intro u
      change (_ → Host.Outcome.next (let v := if bit u.key.zcfg 1 then u.eraseRoots else u
        v.report 1001 4 [v.vault.tamperCauses.setWidth 8]) = _) ∧ (_ → Host.Outcome.next (
        let v := if bit u.key.zcfg 1 then u.eraseRoots else u
        v.report 1001 4 [v.vault.tamperCauses.setWidth 8]) = _)
      exact ⟨fun h => by simp only [h, Bool.false_eq_true, if_false], fun h => by simp only [h, if_true]⟩
  case zeroNRise =>
    intro s hzeronlow
    simp [exec, execZeroNRise, State.modKey, hzeronlow]
  case trngFail =>
    intro s htrngfail
    refine ⟨?trngFail_1, ?trngFail_2, ?drbgReseed⟩
    case trngFail_1 =>
      intro raw hraw
      simp [exec, execTrngFail, State.keyCnt, htrngfail, hraw]
    case trngFail_2 =>
      intro raw hraw
      simp [exec, execTrngFail, htrngfail, hraw]
    case drbgReseed =>
      simp [exec, execDrbgReseed, State.drbgReseed, htrngfail]
  case clause =>
    intro b
    refine ⟨?clause_1, ?clause_2⟩
    case clause_1 =>
      simp [trngFails, equalRun]
    case clause_2 =>
      simp [trngFails, equalRun]
  case trngRecover =>
    intro s htrngfail
    refine ⟨?trngRecover_1, ?trngRecover_2, ?drbgReseed_2⟩
    case trngRecover_1 =>
      intro passed hpassed
      simp [exec, execTrngRecover, State.modKey, htrngfail, hpassed]
    case trngRecover_2 =>
      intro passed hpassed
      simp [exec, execTrngRecover, htrngfail, hpassed]
    case drbgReseed_2 =>
      simp [exec, execDrbgReseed, State.drbgReseed, htrngfail]
  case operatingMinute =>
    intro s hoperatings
    exact congrArg Host.Outcome.next (if_neg (Nat.not_le.mpr hoperatings))
  case keyRngRead =>
    intro s p hreach
    refine ⟨?keyRngRead_1, ?keyRngRead_2, ?keyCntRead⟩
    case keyRngRead_1 =>
      intro hready
      simp (disch := omega) [exec, execKeyRngRead, State.readIsl_reaches hreach, State.keyRng, State.drawWord, State.draw,
        base, hready]
    case keyRngRead_2 =>
      intro hready
      simp (disch := omega) [exec, execKeyRngRead, State.readIsl_reaches hreach, State.keyRng, base, hready]
    case keyCntRead =>
      intro hcntaddr
      rw [exec, execKeyCntRead, State.readIsl_reaches hreach rfl, State.keyCntRead, State.readPair, hcntaddr]
      rfl

end Sys2Proof.Machine
end

section
namespace Sys2Proof.Machine

theorem State.timCmdAt_reaches {s : State} {p : Port} (h : s.reaches p 6) (op : Nat) (ppm : BitVec 8) :
    s.timCmdAt p op ppm = s.timCmd op ppm := State.writeIsl_reaches h rfl

theorem State.modCmp_eq (s : State) (c : Nat) (f : Cmp → Cmp) :
    s.modCmp c f = { s with tim := { s.tim with cmp := vmod s.tim.cmp c f } } := rfl

/-- Settles O36: the commands by the source that steers the count; a stamp, a comparator and a pulse by the registers they find. -/
theorem timeCommandsTakeEffect : Obligations.TimeCommandsTakeEffect := by
  refine ⟨?set, ?replicaUpdate, ?replicaStale, ?tsCal, ?tsCalDone, ?txStamp, ?cmpFire, ?ppsOutPulse, ?ppsOutEnd⟩
  case set =>
    intro s p hreach stop ok
    have hcmd := State.timCmdAt_reaches hreach
    refine ⟨?_, fun hsrc => ⟨?_, fun ppm => ?_⟩, fun hsrc => ⟨?_, fun ppm => ?_⟩, fun hsrc => ?_, fun hsrc hlane => ?_,
      fun n hsrc hlane hsync hpos hnear => ?_, ?_, fun w hsrc => ?_, fun w hsrc hrange => ?_,
        fun w hsrc hlo hhi hstate => ?_, ?_,
      fun e rest htxq => ?_, ?_, fun c => ?_⟩
    · rw [exec, execSet, hcmd]
      rfl
    · rw [exec, execStep, hcmd]
      exact congrArg Host.Outcome.next (if_pos hsrc)
    · rw [exec, execSlew, hcmd]
      exact congrArg Host.Outcome.next (if_pos hsrc)
    · rw [exec, execStep, hcmd]
      exact congrArg Host.Outcome.next (if_neg (not_not.mpr hsrc))
    · rw [exec, execSlew, hcmd]
      exact congrArg Host.Outcome.next (if_neg (not_not.mpr hsrc))
    · rw [exec, execTod, hcmd]
      exact congrArg Host.Outcome.next (if_pos hsrc)
    · rw [exec, execTod, hcmd, State.timCmd, State.timTod, if_neg (not_not.mpr hsrc)]
      simp only [hlane]
      rfl
    · have hahead : (!s.inSync n || (s.tim.todSfc - (s.lane n).ds.sfc).toNat == 0 ||
          decide (2 ^ 20 < (s.tim.todSfc - (s.lane n).ds.sfc).toNat)) = false := by
        simp only [hsync, Bool.not_true, Bool.false_or, Bool.or_eq_false_iff, beq_eq_false_iff_ne, decide_eq_false_iff_not]
        omega
      rw [exec, execTod, hcmd, State.timCmd, State.timTod, if_neg (not_not.mpr hsrc)]
      simp only [hlane, hahead]
      rfl
    · rw [exec, execTodCancel, hcmd]
      rfl
    · rw [exec, execTimIncrWrite, State.writeIsl_reaches hreach rfl]
      exact congrArg Host.Outcome.next (if_pos hsrc)
    · rw [exec, execTimIncrWrite, State.writeIsl_reaches hreach rfl]
      exact congrArg Host.Outcome.next ((if_neg (not_not.mpr hsrc)).trans (if_pos hrange))
    · rw [exec, execTimIncrWrite, State.writeIsl_reaches hreach rfl]
      have hrange : ¬((fld w 0 8 ++ s.tim.incrLo : BitVec 40).toNat < incrMin ∨ incrMax < (fld w 0 8 ++ s.tim.incrLo : BitVec 40).toNat) :=
        not_or.mpr ⟨Nat.not_lt.mpr hlo, Nat.not_lt.mpr hhi⟩
      refine congrArg Host.Outcome.next (((if_neg (not_not.mpr hsrc)).trans (if_neg hrange)).trans ?_)
      exact congrArg (fun t : Time => { s with tim := t }) (if_neg hstate)
    · rw [exec, execTimNowRead, State.readIsl_reaches hreach rfl]
      rfl
    · refine ⟨_, by rw [exec, execTxqRead, State.readIsl_reaches hreach rfl], ?_, ?_⟩
      · simp [State.txqRead, htxq, State.latch_tim]
      · simp [State.txqRead, htxq, State.latch_out]
    · rw [exec, execTxqDropsRead, State.readIsl_reaches hreach rfl]
      rfl
    · rw [exec, execCmpArm, State.writeIsl_reaches hreach (by unfold base; omega), State.modCmp_eq]
  case replicaUpdate =>
    intro s hison hclocked hisline
    have hstale : ((List.finRange 96).filter fun n => (s.lane n).ts.stale && s.isLine n.val) = [] := by
      refine List.filter_eq_nil_iff.mpr fun n _ => ?_
      cases hline : s.isLine n.val <;> simp [hisline n, hline]
    simp only [exec, execReplicaUpdate, hison, hclocked, hstale]
    rfl
  case replicaStale =>
    intro s n hstale hisline
    simp [exec, execReplicaStale, State.reportIf, State.modTs, State.modLane, hstale, hisline]
  case tsCal =>
    intro s p n hreach
    refine ⟨?tsCal_1, ?tsCal_2⟩
    case tsCal_1 =>
      intro hrole hison hison2
      simp [exec, execTsCal, State.writeLane_reaches hreach, State.tsCal, State.modTs, State.modLane, hrole, hison, hison2]
    case tsCal_2 =>
      intro hison
      simp [exec, execTsCal, State.writeLane_reaches hreach, State.tsCal, State.modTs, State.modLane, hison]
  case tsCalDone =>
    intro s n rx tx hcalbusy
    refine ⟨?tsCalDone_1, ?tsCalDone_2⟩
    case tsCalDone_1 =>
      intro hcal hcal2
      simp [exec, execTsCalDone, State.modTs, State.modLane, hcalbusy, hcal, hcal2]
    case tsCalDone_2 =>
      intro hcal
      rcases hcal with hcal | hcal <;> simp [exec, execTsCalDone, State.modTs, State.modLane, hcalbusy, hcal]
  case txStamp =>
    intro s n tag hisline htag u
    have hline : (s.isLine n.val || s.isEth n.val) = true := by simpa using hisline
    have htake : s.takeTag n tag = some u := if_pos (by simpa using htag)
    have hrun : exec (.txStamp n tag) s = .next (
        if u.isOn dTim then u.txqPush { tag := tag, lane := BitVec.ofNat 7 n.val, stamp := s.txStamp n } else u) := by
      simp only [exec, execTxStamp, hline, htake, if_true]
      rfl
    rw [hrun]
    refine ⟨fun hon hroom => ?_, fun hon hfull hovf => ?_, fun hoff => ?_⟩
    · exact congrArg Host.Outcome.next ((if_pos hon).trans (if_pos hroom))
    · refine congrArg Host.Outcome.next ((if_pos hon).trans ((if_neg (Nat.not_lt.mpr hfull)).trans ?_))
      have hovf' : u.tim.txqOvf = false := hovf
      rw [hovf']
      rfl
    · exact congrArg Host.Outcome.next (if_neg (by rw [show u.isOn dTim = false from hoff]; decide))
  case cmpFire =>
    intro s c hison harmed hns
    simp [exec, execCmpFire, State.modCmp, State.modTim, hison, harmed, hns]
  case ppsOutPulse =>
    intro s k hison hppsdue
    refine ⟨?ppsOutPulse_1, ?ppsOutPulse_2⟩
    case ppsOutPulse_1 =>
      intro hppsctl hvalid
      simp [exec, execPpsOutPulse, State.modTim, hison, hppsdue, hppsctl, hvalid]
    case ppsOutPulse_2 =>
      intro hppsctl
      rcases hppsctl with hppsctl | hppsctl <;> simp [exec, execPpsOutPulse, State.modTim, hison, hppsdue, hppsctl]
  case ppsOutEnd =>
    intro s
    rfl

end Sys2Proof.Machine
end

section
namespace Sys2Proof.Machine

/-- A write of SYS_FEAT_LOCK that does not turn feature 8 on starts no link. -/
theorem State.featLock_of_no_rise {s : State} {w : W32} (h : s.feature 8 = true ∨ bit w 0 = false ∨ bit s.sys.accept 8 = false) :
    s.featLock w = { s with sys := { s.sys with lock := s.sys.lock || bit w 0, reject := s.sys.reject && !bit w 1 } } := by
  have hrise : (!s.feature 8 && ((s.sys.lock || bit w 0) && bit s.sys.accept 8)) = false := by
    rcases h with h | h | h
    · simp [h]
    · rw [h, Bool.or_false]
      exact Bool.not_and_self _
    · simp [h]
  exact if_neg (by simpa [State.feature] using hrise)

/-- Settles O41: by the pin, the link and the feature register; a write that does not turn feature 8 on starts no link. -/
theorem hostInterfaceCommandsTakeEffect : Obligations.HostInterfaceCommandsTakeEffect := by
  refine ⟨?perst, ?linkChange, ?gatedAccess, ?partialWrite, ?hifCountRead, ?featAcceptWrite⟩
  case perst =>
    intro s
    refine ⟨?perst_1, ?perst_2, ?hotReset⟩
    case perst_1 =>
      intro hison
      refine ⟨?perst_3, ?perst_4, ?hotReset_2, ?functionLevelReset⟩
      case perst_3 =>
        have hon : State.isOn { s with pins := { s.pins with perstHigh := true } } dHif = true := hison
        simp [exec, execPerst, hon]
      case perst_4 =>
        have hon : State.isOn { s with pins := { s.pins with perstHigh := false } } dHif = true := hison
        simp [exec, execPerst, State.hifDown, hon]
      case hotReset_2 =>
        simp [exec, execHotReset, State.hifDown, hison]
      case functionLevelReset =>
        simp [exec, execFunctionLevelReset, hison]
    case perst_2 =>
      intro hison hpersthigh
      have hoff : State.isOn { s with pins := { s.pins with perstHigh := true } } dHif = false := hison
      simp [exec, execPerst, hpersthigh, hoff]
    case hotReset =>
      intro hison
      refine ⟨?hotReset_3, ?functionLevelReset_2⟩
      case hotReset_3 =>
        simp [exec, execHotReset, State.hifDown, hison]
      case functionLevelReset_2 =>
        simp [exec, execFunctionLevelReset, hison]
  case linkChange =>
    intro s speed width hison
    refine ⟨?linkChange_1, ?linkChange_2⟩
    case linkChange_1 =>
      intro hspeed hwidth
      simp [exec, execLinkChange, State.linkTo, hison, hspeed, hwidth]
    case linkChange_2 =>
      intro hspeed hchanged
      rcases hspeed with hspeed | hspeed <;> simp [exec, execLinkChange, State.linkTo, State.reportIf, State.modHif, hison,
        hspeed, hchanged]
  case gatedAccess =>
    intro s p a hportup htonat hx20000 hanswersat hison hclocked hgated
    simp [exec, execGatedAccess, State.gatedRecord, State.reportIf, alignWord, gatedData, hportup, htonat, hx20000,
      hanswersat, hison, hclocked, hgated]
  case partialWrite =>
    intro s a
    refine ⟨?partialWrite_1, ?partialWrite_2⟩
    case partialWrite_1 =>
      intro hpcie
      simp [exec, execPartialWrite, State.modHif, hpcie]
    case partialWrite_2 =>
      rfl
  case hifCountRead =>
    intro s p hreach
    refine ⟨?hifCountRead_1, ?hifCountRead_2, ?twCtlWrite⟩
    case hifCountRead_1 =>
      simp (disch := omega) [exec, execHifCountRead, State.readIsl_reaches hreach, State.partialCntRead, base, State.modHif]
    case hifCountRead_2 =>
      simp (disch := omega) [exec, execHifCountRead, State.readIsl_reaches hreach, State.gatedCountRead, base, State.modHif]
    case twCtlWrite =>
      intro w
      simp (disch := omega) [exec, execTwCtlWrite, State.writeIsl_reaches hreach, State.twCtlWrite, base, State.modHif]
  case featAcceptWrite =>
    intro s p i w hreach
    refine ⟨?featAcceptWrite_1, ?featAcceptWrite_2, ?featLock_1, ?featLock_2⟩
    case featAcceptWrite_1 =>
      intro hlock
      simp (disch := omega) [exec, execFeatAcceptWrite, State.writeIsl_reaches hreach, State.featAccept, State.modSys, hlock]
    case featAcceptWrite_2 =>
      intro hlock
      simp (disch := omega) [exec, execFeatAcceptWrite, State.writeIsl_reaches hreach, State.featAccept, State.modSys, hlock]
    case featLock_1 =>
      intro hfeature
      rw [exec, execFeatLock, State.writeIsl_reaches hreach rfl, State.featLock_of_no_rise hfeature]
    case featLock_2 =>
      intro hlock hw haccept
      simp [exec, execFeatLock, State.writeIsl_reaches hreach, State.featLock, State.feature, w1cB, State.modSys, hlock, hw,
        haccept]

end Sys2Proof.Machine
end

section
namespace Sys2Proof.Machine

theorem State.modRing_congr {s : State} {r : Nat} {f g : Ring → Ring} (h : f (s.ring r) = g (s.ring r)) : s.modRing r f = s.modRing r g := by
  rw [State.modRing, vmod_congr {} h, State.modRing]

/-- Settles O42: by the ring's registers: whether it is on, what it holds and what the doorbell says. -/
theorem ringCommandsTakeEffect : Obligations.RingCommandsTakeEffect := by
  refine ⟨?doorbell, ?ringStopped, ?punt, ?inject, ?eventRingPost⟩
  case doorbell =>
    intro s r w hpcie x
    refine ⟨fun hacc => ?_, fun hacc => ?_, fun hen hfeat => ?_, fun hfeat => ?_, ?_, ?_⟩
    · simp only [exec, execDoorbell, State.barUp, hpcie, if_true, State.doorbell]
      exact congrArg Host.Outcome.next (State.modRing_congr (if_pos hacc))
    · simp only [exec, execDoorbell, State.barUp, hpcie, if_true, State.doorbell]
      exact congrArg Host.Outcome.next (State.modRing_congr (if_neg (by simpa using hacc)))
    · have hen' : (s.ring r.val).en = false := hen
      simp [exec, execRingEnable, State.barUp, hpcie, State.ringEnable, hen', hfeat]
    · simp [exec, execRingEnable, State.barUp, hpcie, State.ringEnable, hfeat]
    · simp [exec, execRingDisable, State.barUp, hpcie, State.ringDisable]
    · simp [exec, execRingDropsRead, State.barUp, hpcie, State.ringDropsRead, x]
  case ringStopped =>
    intro s r
    refine ⟨?ringStopped_2, ?ringDmaError, ?ringCoalTimer⟩
    case ringStopped_2 =>
      intro hen
      simp [exec, execRingStopped, hen]
    case ringDmaError =>
      intro hstopped k
      simp [exec, execRingDmaError, hstopped]
    case ringCoalTimer =>
      intro hunsig hctl hctl2
      simp [exec, execRingCoalTimer, State.ringInt, hunsig, hctl, hctl2]
  case punt =>
    intro s f rest bufs hpuntq u
    have hu : s.modHif (fun h => { h with puntQ := rest }) = u := rfl
    refine ⟨fun hen => ?_, fun l hon hen hfeat hfill => ?_⟩
    · have hen' : (u.ring 0).en = false := hen
      simp [exec, execPunt, hpuntq, hu, hen']
    · have hen' : (u.ring 0).en = true := hen
      have hon' : u.isOn dHif = true := hon
      have hfeat' : u.feature 0 = true := hfeat
      have hfill' : fillBufs f.bytes.length (bufs.take (u.ring 0).posted) = some l := hfill
      simp [exec, execPunt, hpuntq, hu, hen', hon', hfeat', hfill']
  case inject =>
    intro s d rest hison hen hfeature hlength
    refine ⟨?inject_1, ?inject_2⟩
    case inject_1 =>
      intro hrest
      simp [exec, execInject, hison, hen, hfeature, hlength, hrest]
    case inject_2 =>
      intro hrest
      simp [exec, execInject, hison, hen, hfeature, hlength, hrest]
  case eventRingPost =>
    intro s q x rest htoring u
    have hring : u.ring 2 = s.ring 2 := rfl
    have hon : u.isOn dHif = s.isOn dHif := rfl
    have hfeat : u.feature 2 = s.feature 2 := rfl
    have hpost : exec .eventRingPost s = .next (
        if !u.isOn dHif || !(u.ring 2).en || !u.feature 2 then u
        else if (u.ring 2).room = 0 then ((u.ringDrop 2).modRing 2 fun y => { y with ovf := true }).reportIf (!(u.ring 2).ovf) 919 2
        else (u.ringPut 2 (u.ring 2).devIdx 0 (eventEntry q x (u.ring 2).ph)).ringAdvance 2 1) := by
      simp only [exec, execEventRingPost, htoring]
      rfl
    rw [hpost, hring, hon, hfeat]
    refine ⟨fun hen => ?_, fun hison hen hfeature hroom => ?_, fun hison hen hfeature hroom hovf => ?_⟩
    · simp [hen]
    · simp [hison, hen, hfeature, Nat.ne_of_gt hroom]
    · simp [hison, hen, hfeature, hroom, hovf, State.reportIf_true]

end Sys2Proof.Machine
end

section
namespace Sys2Proof.Machine

theorem State.twHere_own {s : State} (h : s.portUp .twoWire = true) : s.twHere (fld s.pwr.twCopy 0 7) = true := by
  simp [State.twHere, h]

theorem State.twAddr_bar0 {s : State} {off : W32} (h : off.toNat < 2 ^ 25) : s.twAddr off = (some off.toNat, s) := if_pos h

theorem alignWord_of_aligned {a : Nat} (h : a % 4 = 0) : alignWord a = a := by
  rw [alignWord, h, Nat.sub_zero]

/-- Settles O43: the address, the packet error code and the register's island decide, in this order. -/
theorem twoWireCommandsTakeEffect : Obligations.TwoWireCommandsTakeEffect := by
  refine ⟨?twWrite_1, ?twWrite_2⟩
  case twWrite_1 =>
    intro s off data htwowire htonat htonat2 hx20000 addr pec rdPec gated
    have hpec : twWritePec addr off data = pec := rfl
    have haligned := alignWord_of_aligned htonat2
    have hhere : s.twHere addr = true := State.twHere_own htwowire
    refine ⟨fun hans => ⟨?_, fun hreq => ?_, ?_⟩, fun hans => ⟨?_, ?_⟩, fun hon => ⟨fun c hc => ?_, fun hreq => ?_⟩⟩
    · simp [exec, execTwWrite, hhere, hpec, State.twAddr_bar0 htonat, State.bar0Write, haligned, hx20000, hans]
    · simp [exec, execTwWrite, hhere, hreq, State.twAddr_bar0 htonat, State.bar0Write, haligned, hx20000, hans]
    · simp [exec, execTwRead, hhere, State.twAddr_bar0 htonat, State.bar0Read, haligned, hx20000, hans]
      rfl
    · simp [exec, execTwWrite, hhere, hpec, State.twAddr_bar0 htonat, State.bar0Write, haligned, hx20000, hans]
    · simp [exec, execTwRead, hhere, State.twAddr_bar0 htonat, State.bar0Read, haligned, hx20000, hans]
      rfl
    · simp [exec, execTwWrite, hhere, hpec, hc, State.twDiscard, hon]
      rfl
    · simp [exec, execTwWrite, hhere, hreq, State.twDiscard, hon]
      rfl
  case twWrite_2 =>
    intro s addr off data c haddr
    refine ⟨?twWrite, ?twRead⟩
    case twWrite =>
      simp [exec, execTwWrite, State.twHere, haddr]
    case twRead =>
      simp [exec, execTwRead, State.twHere, haddr]

end Sys2Proof.Machine
end

section
namespace Sys2Proof.Machine

/-- Settles O44: each time of the referee acts by the report it finds, and none while the clock is stopped. -/
theorem refereeCommandsTakeEffect : Obligations.RefereeCommandsTakeEffect := by
  refine ⟨?eventReport, ?settleEnd, ?gatherEnd, ?holdEnd, ?lastingExpire, ?clause⟩
  case eventReport =>
    intro s e sev detail hval
    simp [exec, execEventReport, hval]
  case settleEnd =>
    intro s e r rest hclocked hsettle
    refine ⟨?settleEnd_1, ?settleEnd_2⟩
    case settleEnd_1 =>
      intro p hcls
      simp [exec, execSettleEnd, State.settleEnd, hclocked, hsettle, hcls]
    case settleEnd_2 =>
      intro hcls
      simp only [exec, execSettleEnd, hclocked, if_true, State.settleEnd, hsettle, hcls]
      rfl
  case gatherEnd =>
    intro s e x rest hclocked hgather
    simp [exec, execGatherEnd, State.gatherEnd, hclocked, hgather]
  case holdEnd =>
    intro s e hclocked hhold
    refine ⟨?holdEnd_1, ?holdEnd_2⟩
    case holdEnd_1 =>
      intro hlate
      simp [exec, execHoldEnd, State.holdEnd, hclocked, hhold, hlate]
    case holdEnd_2 =>
      intro hlate
      have hlate' : ¬(s.src e).late = 0#32 := hlate
      simp [exec, execHoldEnd, State.holdEnd, closingDetail, hclocked, hhold, hlate']
  case lastingExpire =>
    intro s e hclocked
    simp [exec, execLastingExpire, State.lastingExpire, hclocked]
  case clause =>
    intro s e hclocked i hmem
    simp only [List.mem_cons, List.not_mem_nil, or_false] at hmem
    rcases hmem with rfl | rfl | rfl | rfl
    · simp [exec, execSettleEnd, hclocked]
    · simp [exec, execGatherEnd, hclocked]
    · simp [exec, execHoldEnd, hclocked]
    · simp [exec, execLastingExpire, hclocked]

end Sys2Proof.Machine
end

section
namespace Sys2Proof.Machine

theorem State.afterGroupWrite_quiet {s : State} {g : Nat} (h : s.evt.groupBit g = false ∨ bit (vget 0#32 s.evt.map g) 8 = false) :
    s.afterGroupWrite g = s := by
  refine if_neg ?_
  rcases h with h | h
  · simp [h]
  · simp [Evt.msixEn, h]

theorem State.afterGroupWrite_sends {s : State} {g : Nat} (h : s.evt.groupBit g = true) (hen : bit (vget 0#32 s.evt.map g) 8 = true) :
    s.afterGroupWrite g = s.msixSend (s.evt.vec g) := if_pos (by simp [Evt.msixEn, h, hen])

/-- Settles O45: a write of a status or mask word is judged once more against its group, the other registers are read off. -/
theorem eventRegistersTakeEffect : Obligations.EventRegistersTakeEffect := by
  refine ⟨?evtStatusWrite, ?evtForce, ?evtSrcAccess⟩
  case evtStatusWrite =>
    intro s p g w hreach a b
    have hstatus : exec (.evtStatusWrite p g w) s = .next (a.afterGroupWrite g) := by
      rw [exec, execEvtStatusWrite, State.writeIsl_reaches hreach (by unfold base; omega)]
      rfl
    have hmask : exec (.evtMaskWrite p g w) s = .next (b.afterGroupWrite g) := by
      rw [exec, execEvtMaskWrite, State.writeIsl_reaches hreach (by unfold base; omega)]
      rfl
    rw [hstatus, hmask]
    exact ⟨fun h => congrArg Host.Outcome.next (State.afterGroupWrite_quiet h),
      fun h hen => congrArg Host.Outcome.next (State.afterGroupWrite_sends h hen),
      fun h => congrArg Host.Outcome.next (State.afterGroupWrite_quiet h),
      fun h hen => congrArg Host.Outcome.next (State.afterGroupWrite_sends h hen)⟩
  case evtForce =>
    intro s p w hreach e
    rw [exec, execEvtForce, State.writeIsl_reaches hreach rfl]
    exact ⟨fun h => congrArg Host.Outcome.next (if_neg (by simp [h])), fun h hc => by simp [State.forceEvent, h, hc, e],
      fun h hc => by simp [State.forceEvent, h, hc, e]⟩
  case evtSrcAccess =>
    intro s p hreach e c
    refine ⟨?_, fun h => ?_, fun h => ?_, fun h => ?_⟩
    · rw [exec, execEvtSrcAccess, State.readIsl_reaches hreach rfl]
      rfl
    · rw [h]
      rfl
    · rw [h]
      rfl
    · rw [h]
      rfl

end Sys2Proof.Machine
end

section
namespace Sys2Proof.Machine

theorem Tally.addTo_cfg (t : Tally) (sel : BitVec 8) (q : Option (BitVec 3)) (sl : Option (BitVec 5)) (k c : Nat) :
    (t.addTo sel q sl k c).cfg = t.cfg := by
  unfold Tally.addTo
  split <;> rfl

theorem Tally.addTo_cnt (t : Tally) (sel : BitVec 8) (q : Option (BitVec 3)) (sl : Option (BitVec 5)) (k c : Nat) :
    (t.addTo sel q sl k c).cnt = if admits (vget 0 t.cfg c) sel q sl then vset t.cnt c (vget 0 t.cnt c + BitVec.ofNat 48 k) else t.cnt := by
  unfold Tally.addTo
  split <;> rfl

/-- The counters up to c have counted an occurrence that passes their filter, the others have not. -/
theorem Tally.foldl_addTo (t : Tally) (sel : BitVec 8) (q : Option (BitVec 3)) (sl : Option (BitVec 5)) (k : Nat) (m : Nat) (hm : m ≤ 8) :
    ((List.range m).foldl (fun t c => t.addTo sel q sl k c) t).cfg = t.cfg ∧
      ∀ c < 8, vget 0 ((List.range m).foldl (fun t c => t.addTo sel q sl k c) t).cnt c =
        if c < m ∧ admits (vget 0 t.cfg c) sel q sl = true then vget 0 t.cnt c + BitVec.ofNat 48 k else vget 0 t.cnt c := by
  induction m with
  | zero => simp
  | succ m ih =>
    obtain ⟨hcfg, hcnt⟩ := ih (by omega)
    rw [List.range_succ, List.foldl_append]
    refine ⟨(Tally.addTo_cfg ..).trans hcfg, fun c hc => ?_⟩
    simp only [List.foldl_cons, List.foldl_nil, Tally.addTo_cnt, hcfg]
    by_cases heq : c = m
    · subst heq
      split <;> simp only [vget_vset_same hc, hcnt c hc, Nat.lt_irrefl, Nat.lt_succ_self, false_and, true_and, if_true, if_false, Bool.false_eq_true, *]
    · have hlt : c < m + 1 ↔ c < m := by omega
      split <;> simp only [hcnt c hc, hlt, vget_vset_ne (Ne.symm heq)]

/-- Settles O48: the counters are counted one by one, each against its own configuration; the rest is the register's fields. -/
theorem tallyCommandsTakeEffect : Obligations.TallyCommandsTakeEffect := by
  refine ⟨?tallyOccurrence, ?talCntCfgWrite, ?userSnap⟩
  case tallyOccurrence =>
    intro s sel q sl k hclocked
    refine ⟨?tallyOccurrence_1, ?tallyOccurrence_2⟩
    case tallyOccurrence_1 =>
      intro hfreeze
      simp [exec, execTallyOccurrence, Tally.occur, hclocked, hfreeze]
    case tallyOccurrence_2 =>
      intro hfreeze
      have hfold := Tally.foldl_addTo s.tal sel q sl k 8 le_rfl
      refine ⟨{ s with tal := s.tal.occur sel q sl k }, by simp [exec, execTallyOccurrence, hclocked], ?_⟩
      simp only [Tally.occur, hfreeze, Bool.false_eq_true, if_false]
      refine ⟨hfold.1, fun c => ⟨fun hadm => ?_, fun hadm => ?_⟩⟩
      · rw [hfold.2 c.val c.isLt, if_pos ⟨c.isLt, hadm⟩]
      · rw [hfold.2 c.val c.isLt, if_neg fun h => Bool.noConfusion (hadm.symm.trans h.2)]
  case talCntCfgWrite =>
    intro s p hreach
    refine ⟨?talCntCfgWrite_2, ?tallyFreeze, ?snap⟩
    case talCntCfgWrite_2 =>
      intro c w
      simp (disch := omega) [exec, execTalCntCfgWrite, State.writeIsl_reaches hreach, Tally.writeCfg, base, rw]
    case tallyFreeze =>
      intro on
      simp [exec, execTallyFreeze, State.writeIsl_reaches hreach, base]
    case snap =>
      intro w
      simp [exec, execSnap, State.writeIsl_reaches (a := base 5) hreach rfl, Tally.writeCtl, Tally.takeSnap, bit_setBit]
  case userSnap =>
    intro s hpcie
    refine ⟨?userSnap_1, ?userSnap_2⟩
    case userSnap_1 =>
      intro huseren hfeature husersnap
      simp [exec, execUserSnap, State.pageSnap, State.tallyPage, Tally.takeSnap, hpcie, huseren, hfeature, husersnap]
    case userSnap_2 =>
      intro husersnap
      simp [exec, execUserSnap, State.pageSnap, hpcie, husersnap]

end Sys2Proof.Machine
end

section
namespace Sys2Proof.Machine

theorem State.ringAdvance_fbk (s : State) (r n : Nat) : (s.ringAdvance r n).fbk = s.fbk := State.ringAdvance_only s r n .fbk rfl

theorem exec_lookasideFetch_taken {s : State} {d : LaDesc} (hhif : s.isOn dHif = true) (hclk : s.clocked = true) (hen : (s.ring 3).en = true)
    (hrun : (s.ring 3).stopped = false) (hposted : 0 < (s.ring 3).posted) (hroom : s.fbk.la.length < (s.ring 4).room)
    (hanswers : (s.ring 4).en = true) : exec (.lookasideFetch d) s = .next ((s.ringAdvance 3 1).laEnter d) :=
  congrArg Host.Outcome.next (if_pos ⟨hhif, hen, by simp [hrun], hposted, hroom, hanswers, hclk⟩)

/-- Settles O29: a frame at the front by the plan made for it, a core by the first job that can run, a lookaside job by its status. -/
theorem cipherCommandsTakeEffect : Obligations.CipherCommandsTakeEffect := by
  refine ⟨?cipherDispatch, ?coreJobDone, ?lookasideFetch, ?lookasideComplete⟩
  case cipherDispatch =>
    intro s q f rest hqueue hrob u
    have hroom : ¬4096 ≤ (s.quad q).cph.rob.length := Nat.not_le.mpr hrob
    have hu : (s.modQuad q fun x => { x with cph := { x.cph with queue := rest } }) = u := rfl
    have hrefused (e : NoJob) (he : s.plan f = .inr e) : exec (.cipherDispatch q) s = .next (u.refuseJob q.val f e) := by
      simp only [exec, execCipherDispatch, hqueue, if_neg hroom, he, hu]
    refine ⟨fun p hp => ⟨fun x hx => ?_, fun hx => ?_⟩, fun hop hnone => ?_, fun i hop hsome hxpn hpn hseen => ?_⟩
    · simp only [exec, execCipherDispatch, hqueue, if_neg hroom, hp, hx]
    · simp only [exec, execCipherDispatch, hqueue, if_neg hroom, hp, hx]
    · rw [hrefused (.noSa f.ctx) (by simp only [State.plan, hop, State.planEgress, hnone])]
      rfl
    · have hspent : (if (s.assoc i).xpn then (s.assoc i).spent else decide (2 ^ 32 ≤ (s.assoc i).pn.toNat)) = true := by
        rw [hxpn]
        exact decide_eq_true hpn
      have hseen' : (u.assoc i).exhSeen = true := hseen
      rw [hrefused (.exhausted i) (by simp only [State.plan, hop, State.planEgress, hsome, hspent, if_true]),
        State.refuseJob]
      simp only [hseen']
      rfl
  case coreJobDone =>
    intro s k q i hcoreruns hmap
    simp only [exec, execCoreJobDone, hcoreruns, hmap]
    rfl
  case lookasideFetch =>
    intro s d hison hclocked hen hstopped hposted hla hen2
    refine ⟨?lookasideFetch_1, ?lookasideFetch_2⟩
    case lookasideFetch_1 =>
      intro hlaen
      rw [exec_lookasideFetch_taken hison hclocked hen hstopped hposted hla hen2]
      refine ⟨_, rfl, ?_⟩
      rw [State.laEnter, if_pos (by rw [State.ringAdvance_fbk]; rcases hlaen with h | h <;> simp [h])]
      exact congrArg (fun x : Fallback => { x with la := x.la ++ [({ desc := d, status := some 4 } : LaJob)] }) (State.ringAdvance_fbk s 3 1)
    case lookasideFetch_2 =>
      intro hlaen hinservice hop
      rw [exec_lookasideFetch_taken hison hclocked hen hstopped hposted hla hen2]
      refine ⟨_, rfl, ?_⟩
      rw [State.laEnter, if_neg (by rw [State.ringAdvance_fbk]; simp [hlaen, hinservice]), if_pos (by simp [laBad, hop])]
      exact congrArg (fun x : Fallback => { x with la := x.la ++ [({ desc := d, status := some 2 } : LaJob)] }) (State.ringAdvance_fbk s 3 1)
  case lookasideComplete =>
    intro s j rest input aad tag st hla hstatus hst
    rcases hst with hst | hst <;> simp [exec, execLookasideComplete, State.laFinish, hla, hstatus, hst]

end Sys2Proof.Machine
end

section
namespace Sys2Proof.Machine

theorem Quad.tm_setTm (x : Quad) (down : Bool) (t : TrafficMgr) : (x.setTm down t).tm down = t := by cases down <;> rfl

theorem Quad.setTm_setTm (x : Quad) (down : Bool) (t u : TrafficMgr) : (x.setTm down t).setTm down u = x.setTm down u := by
  cases down <;> rfl

theorem State.modTm_modTm (s : State) (q : Nat) (down : Bool) (f g : TrafficMgr → TrafficMgr) :
    (s.modTm q down f).modTm q down g = s.modTm q down fun t => g (f t) := by
  simp only [State.modTm, State.modQuadN_modQuadN, Quad.tm_setTm, Quad.setTm_setTm]

theorem State.modTm_congr {s : State} {q : Nat} {down : Bool} {f g : TrafficMgr → TrafficMgr} (h : f (s.tm q down) = g (s.tm q down)) :
    s.modTm q down f = s.modTm q down g := by
  have hquad : (fun x : Quad => x.setTm down (f (x.tm down))) (vget {} s.quads q) = (fun x => x.setTm down (g (x.tm down))) (vget {} s.quads q) :=
    congrArg (Quad.setTm _ down) h
  exact congrArg (fun v => { s with quads := v })
    (vmod_congr {} (f := fun x : Quad => x.setTm down (f (x.tm down))) (g := fun x => x.setTm down (g (x.tm down))) hquad)

theorem State.tmData_reaches {s : State} {p : Port} {q : QuadId} (h : s.reaches p (0x10 + q.val)) (down : Bool) (k : State → State) :
    s.writeIsl p (tmData q down) k = k s := State.writeIsl_reaches h (by cases down <;> simp only [tmData, quadBase, base] <;> simp <;> omega)

theorem State.tmData_read {s : State} {p : Port} {q : QuadId} (h : s.reaches p (0x10 + q.val)) (down : Bool) (k : State → W32 × State) :
    s.readIsl p (tmData q down) k = (k s).2.emit (.read p (k s).1) :=
  State.readIsl_reaches h (by cases down <;> simp only [tmData, quadBase, base] <;> simp <;> omega)

theorem State.modShaper_congr {t : TrafficMgr} {i : Nat} {f g : Shaper → Shaper} (h : f (t.shaper i) = g (t.shaper i)) :
    t.modShaper i f = t.modShaper i g :=
  congrArg (fun x => { t with shapers := Tab.put {} t.shapers i x }) h

/-- A write of a shaper's item through the window goes on to the next one. -/
theorem State.tmDataWrite_shaper {s : State} {q : Nat} {down : Bool} (w : W32) (hitem : winItem (s.tm q down).addr / 0x10000 = 1)
    (hsh : winItem (s.tm q down).addr % 0x10000 / 8 < s.shaperCount q down) :
    s.tmDataWrite q down w = s.modTm q down fun t =>
      { (t.modShaper (winItem (s.tm q down).addr % 0x10000 / 8) fun x => x.write s.now (winItem (s.tm q down).addr % 8) w) with
        addr := winStep t.addr } := by
  rw [State.tmDataWrite, State.tmItemWrite, if_neg (by omega), if_pos (by omega), if_pos hsh, State.tmStep, State.modTm_modTm]
  rfl

theorem State.tmDataWrite_queue {s : State} {q : Nat} {down : Bool} (w : W32) (hitem : winItem (s.tm q down).addr < 0x10000)
    (hj : winItem (s.tm q down).addr / 8 < s.queueCount q down) :
    s.tmDataWrite q down w = s.modTm q down fun t =>
      { (t.modQueue (winItem (s.tm q down).addr / 8) fun x => x.write (winItem (s.tm q down).addr % 8) w) with addr := winStep t.addr } := by
  have hmod : winItem (s.tm q down).addr % 0x10000 = winItem (s.tm q down).addr := Nat.mod_eq_of_lt hitem
  rw [State.tmDataWrite, State.tmItemWrite, hmod, if_pos hitem, if_pos hj, State.tmStep, State.modTm_modTm]
  rfl

theorem State.tmDataRead_queue {s : State} {p : Port} {q : Nat} {down : Bool} (hitem : winItem (s.tm q down).addr < 0x10000)
    (hj : winItem (s.tm q down).addr / 8 < s.queueCount q down) :
    s.tmDataRead p q down = (s.queueRead q down (winItem (s.tm q down).addr / 8) (winItem (s.tm q down).addr % 8), s.tmStep q down) := by
  have hmod : winItem (s.tm q down).addr % 0x10000 = winItem (s.tm q down).addr := Nat.mod_eq_of_lt hitem
  rw [State.tmDataRead, State.tmItemRead, hmod, if_pos hitem, if_pos hj]

theorem State.tmDataWrite_port {s : State} {q : Nat} {down : Bool} (w : W32) (k : Fin 24)
    (hitem : winItem (s.tm q down).addr = 0x20000 + 8 * k.val) : s.tmDataWrite q down w = (s.portWrite q down k.val 0 w).tmStep q down := by
  have hk : (0x20000 + 8 * k.val) % 0x10000 / 8 = k.val := by omega
  have hw : (0x20000 + 8 * k.val) % 8 = 0 := by omega
  rw [State.tmDataWrite, State.tmItemWrite, hitem, hk, hw, if_neg (by omega), if_neg (by omega), if_pos (by omega), if_pos k.isLt]

theorem State.tmDataRead_badOffset {s : State} {p : Port} {q : Nat} {down : Bool} (k : Fin 24)
    (hitem : winItem (s.tm q down).addr = 0x20003 + 8 * k.val) (hans : s.portAnswers q k.val down = true) :
    s.tmDataRead p q down = ((vget {} (s.tm q down).ports k.val : TmPort).badOffset, s.modTm q down fun t => { t with
      ports := vmod t.ports k.val fun p => { p with badOffset := 0 }, addr := winStep t.addr }) := by
  have hk : (0x20003 + 8 * k.val) % 0x10000 / 8 = k.val := by omega
  have hw : (0x20003 + 8 * k.val) % 8 = 3 := by omega
  rw [State.tmDataRead, State.tmItemRead, hitem, hk, hw, if_neg (by omega), if_neg (by omega), if_pos (by omega), if_pos k.isLt, State.portRead]
  simp only [hans, State.tmStep, Bool.not_true, Bool.false_eq_true, if_false, if_true, show ¬(3 : Nat) = 0 from by decide,
    show ¬(3 : Nat) = 1 from by decide, show ¬(3 : Nat) = 2 from by decide, State.modTm_modTm]

theorem State.writePol_reaches {s : State} {p : Port} {q : QuadId} (h : s.reaches p (0x10 + q.val)) (k : State → State) :
    s.writeIsl p (quadBase q.val + 0xA004) k = k s := State.writeIsl_reaches h (by unfold quadBase base; omega)

theorem State.readPol_reaches {s : State} {p : Port} {q : QuadId} (h : s.reaches p (0x10 + q.val)) (k : State → W32 × State) :
    s.readIsl p (quadBase q.val + 0xA004) k = (k s).2.emit (.read p (k s).1) := State.readIsl_reaches h (by unfold quadBase base; omega)

/-- Settles O28: from the windows' items and the queue, shaper and policer that they name. -/
theorem trafficCommandsTakeEffect : Obligations.TrafficCommandsTakeEffect := by
  refine ⟨?enqueue, ?calendarSlot, ?wheelRevolution, ?shaperWrite, ?policerWrite, ?tmWinAccess⟩
  case enqueue =>
    intro s q f rest henqueueq u
    have hrun : exec (.enqueue q) s = .next (u.arrive q.val f).floatsAll := by
      simp only [exec, execEnqueue, henqueueq]
      rfl
    rw [hrun]
    refine ⟨fun hd => ?_, fun n hd hoff => ?_, ?_⟩
    · rw [State.arrive, hd]
    · have hgone : (u.isDark (quadOf n.val) || !u.isOn (dQuad (quadOf n.val))) = true := by
        rcases hoff with h | h <;> simp [h]
      rw [State.arrive, hd]
      simp only [if_pos hgone]
    · intro n hd hdark hon hgen hspread down port hoffset j
      have hrest : u.arrive q.val f = u.intoQueue (quadOf n.val) down j f := by
        rw [State.arrive, hd]
        simp only [hdark, hon, hgen, hspread]
        exact if_neg (Nat.not_le.mpr hoffset)
      rw [hrest, State.intoQueue]
      exact ⟨fun c hc => by simp only [hc], fun hno => by simp only [hno]⟩
  case calendarSlot =>
    intro s q down sh hsh
    refine ⟨?calendarSlot_2, ?shaperEligible⟩
    case calendarSlot_2 =>
      intro hcalendar hnow
      rw [exec, execCalendarSlot, if_pos hsh]
      exact congrArg Host.Outcome.next (State.modTm_congr (State.modShaper_congr (if_pos (by simp [hcalendar, hnow]))))
    case shaperEligible =>
      intro hcalendar
      rw [exec, execShaperEligible, if_pos hsh]
      exact congrArg Host.Outcome.next (State.modTm_congr (State.modShaper_congr (if_neg (by simp [hcalendar]))))
  case wheelRevolution =>
    intro s q down
    rfl
  case shaperWrite =>
    intro s p q down w hreach
    refine ⟨?shaperWrite_2, ?tmPortWrite, ?badOffsetRead⟩
    case shaperWrite_2 =>
      intro haddr haddr2 i
      rw [exec, execShaperWrite, if_pos haddr, State.tmData_reaches hreach, State.tmDataWrite_shaper w haddr haddr2]
    case tmPortWrite =>
      intro k haddr hportanswers
      refine ⟨?tmPortWrite_1, ?tmPortWrite_2⟩
      case tmPortWrite_1 =>
        intro hportrefused
        have hr : s.portRefused q.val down k.val (rw 0x1FFF0FFF#32 w) = true := hportrefused
        rw [exec, execTmPortWrite, if_pos (by omega), State.tmData_reaches hreach, State.tmDataWrite_port w k haddr,
          State.portWrite,
          if_neg (by simp [hportanswers]), if_pos rfl, if_pos hr, State.tmStep, State.modTm_modTm]
      case tmPortWrite_2 =>
        intro hportrefused
        have hr : s.portRefused q.val down k.val (rw 0x1FFF0FFF#32 w) = false := hportrefused
        rw [exec, execTmPortWrite, if_pos (by omega), State.tmData_reaches hreach, State.tmDataWrite_port w k haddr,
          State.portWrite,
          if_neg (by simp [hportanswers]), if_pos rfl, if_neg (by rw [hr]; decide), State.tmStep,
          State.modTm_modTm]
        rfl
    case badOffsetRead =>
      intro k haddr hportanswers
      have hslice : (BitVec.ofNat 5 k.val).toNat = k.val := by
        rw [BitVec.toNat_ofNat, Nat.mod_eq_of_lt (by omega)]
      rw [exec, execBadOffsetRead, hslice, if_pos haddr, State.tmData_read hreach,
        State.tmDataRead_badOffset k haddr hportanswers]
  case policerWrite =>
    intro s p q w hreach i hpol hitem
    have hi : winItem (vget {} s.quads q.val).polAddr = i := by rw [State.vget_quads]
    have hwrite : s.polDataWrite q.val w = s.modQuad q fun x => { x with
        policers := Tab.mod {} x.policers (i / 16) fun y => Policer.full { y with w := vset y.w (i % 16) (w &&& polMask (i % 16)) } s.now
        polAddr := winStep x.polAddr } := by
      rw [State.polDataWrite, hi]
      rw [State.polWrite, if_pos ⟨hpol, hitem⟩, State.polStep, State.modQuadN_modQuadN, State.modQuadN_val]
      rfl
    have hread : s.polDataRead p q.val =
        (vget 0 (Tab.get {} (s.quad q).policers (i / 16)).w (i % 16),
          s.modQuad q fun x => { x with polAddr := winStep x.polAddr }) := by
      have hcell : s.polRead p q.val (i / 16) (i % 16) = (vget 0 (Tab.get {} (s.quad q).policers (i / 16)).w (i % 16),
        s) := by
        rw [State.polRead, if_neg (Nat.not_le.mpr hpol), if_pos hitem, State.vget_quads]
      simp only [State.polDataRead, hi, hcell, State.polStep, State.modQuadN_val]
    refine ⟨?_, rfl, ?_⟩
    · rw [exec, execPolicerWrite, State.writePol_reaches hreach, hwrite]
    · rw [exec, execTmWinAccess, State.readPol_reaches hreach, hread]
  case tmWinAccess =>
    intro s p q w down hreach i hitem hj
    have hwrite := State.tmDataWrite_queue w hitem hj
    have hread := State.tmDataRead_queue (p := p) hitem hj
    cases down with
    | false =>
      refine ⟨?_, ?_⟩
      · rw [if_neg (by decide), exec, execTmWinAccess, State.tmData_reaches hreach, hwrite]
      · rw [if_neg (by decide), exec, execTmWinAccess, State.tmData_read hreach, hread]
        rfl
    | true =>
      refine ⟨?_, ?_⟩
      · rw [if_pos rfl, exec, execTmWinAccess, State.tmData_reaches hreach, hwrite]
      · rw [if_pos rfl, exec, execTmWinAccess, State.tmData_read hreach, hread]
        rfl

end Sys2Proof.Machine
end

section
namespace Sys2Proof.Machine

/-- An update of a lane's host bond that keeps its state keeps the state of every link. -/
theorem State.state_link_modHb (s : State) (n : LaneId) (f : HostBond → HostBond) (hf : ∀ h, (f h).state = h.state) (m : LaneId) :
    ((s.modHb n f).link m).state = (s.link m).state :=
  State.part_modLane (f := fun l => { l with hb := f l.hb }) (fun l => l.hb.state) (fun l => hf l.hb) _

theorem State.now_foldl_modHb (s : State) (ms : List LaneId) (f : HostBond → HostBond) :
    (ms.foldl (fun s m => s.modHb m f) s).now = s.now := by
  induction ms generalizing s with
  | nil => rfl
  | cons m ms ih => exact ih (s.modHb m f)

theorem byteAt_toList {k : Nat} (b : Vector Byte k) (i : Nat) (h : i < k) : byteAt b.toList i = b[i] := by
  rw [byteAt, List.getD_eq_getElem _ _ (by simpa using h), Vector.getElem_toList]

/-- Bytes 1 to 6 of a block, over which its CRC runs. -/
theorem bytesAt_one_six (b : Vector Byte 8) : bytesAt b.toList 1 6 = [b[1], b[2], b[3], b[4], b[5], b[6]] := by
  refine List.ext_getElem (by simp [bytesAt]) fun i h _ => ?_
  have hi : i < 6 := by simpa [bytesAt] using h
  simp only [bytesAt, List.getElem_take, List.getElem_drop, Vector.getElem_toList]
  interval_cases i <;> rfl

/-- The rows of OFFER and AGREED alone judge what the peer offers (R94). -/
theorem State.hbJudge_of_settled {s : State} {n : LaneId} (hoffer : (s.link n).state ≠ .offer) (hagreed : (s.link n).state ≠ .agreed) :
    s.hbJudge n = s := by
  rw [State.hbJudge]
  cases (s.link n).peer with
  | none => rfl
  | some p =>
    cases hst : (s.link n).state with
    | offer => exact absurd hst hoffer
    | agreed => exact absurd hst hagreed
    | down | commit | align | up | failed => rfl

/-- What a right handshake block leaves in its lane (R94). -/
def HostBond.heard (b : Vector Byte 8) (h : HostBond) : HostBond :=
  { h with blockLock := true, goodRun := min 8 (h.goodRun + 1), laneNo := some b[2].toNat, phase := (fld b[6] 5 3).toNat }

/-- A marker that is due or found by a lane that is not aligned (R93). -/
def HostBond.marked (due : Bool) (blk lane : Nat) (h : HostBond) : HostBond :=
  { h with aligned := due, lastMarker := some blk, arrival := blk, missRun := 0, laneNo := some lane }

/-- Settles O11: row by row of R94's table, what the row's block or timer makes of the link. -/
theorem hostBondCommandsTakeEffect : Obligations.HostBondCommandsTakeEffect := by
  refine ⟨?hbHandshakeTx, ?hbHandshakeRx, ?hbCommitDone, ?hbTimeout_1, ?hbTimeout_2, ?hbDownHoldExpire, ?hbAlignTimeout,
    ?hbMarkerRx, ?hbMarkerMissing_1, ?hbMarkerMissing_2, ?hbRestart⟩
  case hbHandshakeTx =>
    intro s n hishostbond hstate hison hgenen htxidle
    have hst : ((s.link n).state == .offer || (s.link n).state == .agreed || (s.link n).state == .commit) = true := by
      rcases hstate with h | h | h <;> rw [h] <;> decide
    rw [exec, execHbHandshakeTx]
    refine congrArg Host.Outcome.next ((if_pos ?_).trans rfl)
    simp only [hishostbond, hst, hison, hgenen, htxidle, Bool.not_false, Bool.and_true]
  case hbHandshakeRx =>
    intro s n b hishostbond hb hb2 hb3 htonat htonat2 htonat3 hstate
    have hlane : b[2].toNat ≠ 0 := by omega
    have hoffer : (s.link n).state ≠ .offer := by rcases hstate with h | h | h <;> rw [h] <;> decide
    have hagreed : (s.link n).state ≠ .agreed := by rcases hstate with h | h | h <;> rw [h] <;> decide
    have hjudge : (s.modHb n (HostBond.heard b)).hbJudge n = s.modHb n (HostBond.heard b) :=
      State.hbJudge_of_settled (by rwa [s.state_link_modHb n (HostBond.heard b) fun _ => rfl]) (by rwa [s.state_link_modHb n (HostBond.heard b) fun _ => rfl])
    have hlink : ((s.modHb n fun h => { h with blockLock := true }).link n).state = (s.link n).state :=
      s.state_link_modHb n (fun h => { h with blockLock := true }) (fun _ => rfl) n
    have hrow : (((s.modHb n fun h => { h with blockLock := true }).link n).state == .offer ||
        ((s.modHb n fun h => { h with blockLock := true }).link n).state == .agreed) = false := by
      rw [hlink]
      exact Bool.or_eq_false_iff.mpr ⟨beq_false_of_ne hoffer, beq_false_of_ne hagreed⟩
    simp only [exec, execHbHandshakeRx, hishostbond, byteAt_toList b _ (show 0 < 8 by decide),
      byteAt_toList b _ (show 1 < 8 by decide),
      byteAt_toList b _ (show 2 < 8 by decide), byteAt_toList b _ (show 3 < 8 by decide),
        byteAt_toList b _ (show 6 < 8 by decide),
      byteAt_toList b _ (show 7 < 8 by decide), bytesAt_one_six, hb, hb2, ← hb3, htonat, htonat3, hlane, hrow,
        beq_self_eq_true, decide_true,
      Bool.and_true, Bool.not_true, Bool.false_eq_true, Bool.and_false, if_true, if_false, State.modHb_modHb]
    exact congrArg Host.Outcome.next hjudge
  case hbCommitDone =>
    intro s n hishostbond hstate
    rw [exec, execHbCommitDone, if_pos ⟨hishostbond, hstate⟩]
    simp only [State.now_foldl_modHb]
  case hbTimeout_1 =>
    intro s n hishostbond hstate
    simp [exec, execHbTimeout, hishostbond, hstate]
  case hbTimeout_2 =>
    intro s n p hishostbond hstate hpeer hhbn
    simp [exec, execHbTimeout, State.hbFail, hishostbond, hstate, hpeer, hhbn]
  case hbDownHoldExpire =>
    intro s n hishostbond hstate hfeature
    simp [exec, execHbDownHoldExpire, State.hbOffer, hishostbond, hstate, hfeature]
  case hbAlignTimeout =>
    intro s n hishostbond hstate hfeature
    simp [exec, execHbAlignTimeout, State.hbBreak, State.linkHead, State.hbOffer, State.modLink, hishostbond, hstate,
      hfeature]
  case hbMarkerRx =>
    intro s n blk b hishostbond hb hb2 htonat htonat2 hb3 hb4 hb5 due
    have hrun : exec (.hbMarkerRx n blk b) s = .next (if (s.lane n).hb.aligned && !due then s else
        (s.modHb n (HostBond.marked due blk b[2].toNat)).hbAligned n) := by
      simp only [exec, execHbMarkerRx, hishostbond, byteAt_toList b _ (show 0 < 8 by decide),
        byteAt_toList b _ (show 1 < 8 by decide),
        byteAt_toList b _ (show 2 < 8 by decide), byteAt_toList b _ (show 3 < 8 by decide),
          byteAt_toList b _ (show 4 < 8 by decide),
        byteAt_toList b _ (show 5 < 8 by decide), byteAt_toList b _ (show 6 < 8 by decide),
          byteAt_toList b _ (show 7 < 8 by decide),
        hb, hb2, hb3, hb4, hb5, htonat, htonat2, beq_self_eq_true, decide_true, Bool.and_true, Bool.not_true,
          Bool.false_eq_true, if_false]
      rfl
    rw [hrun]
    refine ⟨fun ha hd => congrArg Host.Outcome.next (if_pos (by rw [ha, hd]; rfl)),
      fun h => congrArg Host.Outcome.next (if_neg ?_)⟩
    rcases h with h | h <;> rw [h] <;> simp
  case hbMarkerMissing_1 =>
    intro s n hishostbond haligned
    refine ⟨?hbMarkerMissing_3, ?hbMarkerMissing_4⟩
    case hbMarkerMissing_3 =>
      intro hmissrun
      simp only [State.lane] at haligned hmissrun
      simp [exec, execHbMarkerMissing, State.hbMiss, State.modHb, State.modLane, hishostbond, haligned, hmissrun, State.lane]
    case hbMarkerMissing_4 =>
      intro hmissrun hstate
      rw [exec, execHbMarkerMissing, if_pos hishostbond, State.hbMiss, haligned]
      simp only [Bool.not_true, Bool.false_eq_true, if_false, if_neg (show ¬(s.lane n).hb.missRun + 1 < 4 by omega),
        State.modHb_modHb]
      rw [if_neg]
      · exact ⟨_, rfl, by rw [State.lane_modHb_same]⟩
      · rw [s.state_link_modHb n]
        · exact fun h => hstate h.1
        · intro h
          rfl
  case hbMarkerMissing_2 =>
    intro s n hishostbond haligned
    simp [exec, execHbMarkerMissing, State.hbMiss, hishostbond, haligned]
  case hbRestart =>
    intro s p n hreach hishead
    simp [exec, execHbRestart, State.writeLane_reaches hreach, State.hbRestart, State.hbOffer, State.modLink, hishead]

end Sys2Proof.Machine
end

section
namespace Sys2Proof.Machine

/-- A Burst_Profile for one ONU, which acknowledges the COMPLETE_u of a lane in O9 (R141, R145). -/
def unicastProfile : Ploam :=
  { onuId := 0, micShared := true, micDefault := true, seqOk := true, acksComplete := true,
    body := .burstProfile 1 true 8 (Vector.replicate 8 0) true (Vector.replicate 8 0) }

/-- Line lanes in O9, whose stewards run, with that Burst_Profile at the head of their queues. -/
def awaitingAcknowledgement : State :=
  { pwr := { on := BitVec.allOnes 224 }, str := { roles := Vector.replicate 96 1 }
    lanes := Vector.replicate 96 { act := { state := .o9 }, ds := { ploamQ := [unicastProfile] } } }

/-- The activation state of lane n that a step leaves. -/
def Res.actState (r : Res) (n : LaneId) : Option ActState :=
  match r with
  | .next s => some (s.lane n).act.state
  | _ => none

/-- The message that acknowledges moves the lane to O5.1 after its own effect. -/
theorem actState_burstProfileMsg_acknowledges : Res.actState (exec (.burstProfileMsg 0) awaitingAcknowledgement) 0 = some .o51 := by
  decide +kernel

/-- Storing a profile alone leaves the lane in O9. -/
theorem act_modPump_popPloam (s : State) (n : LaneId) (f : Pump → Pump) : (((s.popPloam n).modPump n f).lane n).act = (s.lane n).act := by
  rw [State.lane_modPump_same, State.popPloam, State.lane_modDs_same]

/-- Refutes O15: its first clause lets a Burst_Profile store the profile and do nothing else in every state but O1.1, O1.2 and O7. In O9 a
unicast one also acknowledges the COMPLETE_u, and the lane moves to O5.1 (R141), as the statement's last clause says itself. -/
theorem not_ploamMessagesAct : ¬ Obligations.PloamMessagesAct := by
  unfold Obligations.PloamMessagesAct
  rintro ⟨hacts, -⟩
  obtain ⟨hprofile, -⟩ := hacts awaitingAcknowledgement 0 unicastProfile [] (by decide +kernel) rfl (by decide +kernel) rfl
  have hstays := hprofile 1 true 8 _ _ rfl (by decide +kernel) (by decide +kernel) (by decide +kernel)
  have hmoves := actState_burstProfileMsg_acknowledges
  rw [hstays, Res.actState, act_modPump_popPloam] at hmoves
  exact absurd hmoves (by decide +kernel)

end Sys2Proof.Machine
end

section
namespace Sys2Proof.Machine

theorem State.rxMoment_modDs (s : State) (n : LaneId) (f : LineDs → LineDs) : (s.modDs n f).rxMoment n = s.rxMoment n := by
  simp only [State.rxMoment, State.replica, State.lane_modDs_same, State.isLine_modDs, State.isSdh_modDs]
  rfl

/-- A received SFC is a change of the framer alone, which holds the received count or, where it is unreadable, the expected one. -/
theorem State.sfcRx_modDs (s : State) (n : LaneId) (sfc : Hec (BitVec 51)) :
    ∃ f : LineDs → LineDs, s.sfcRx n sfc = s.modDs n f ∧ (f (s.lane n).ds).sfc = sfc.val.getD ((s.lane n).ds.sfc + 1) := by
  cases sfc with
  | bad => exact ⟨_, (State.modDs_modDs .. : (s.modDs n fun d => { d with sfc := (s.lane n).ds.sfc + 1 }).dsCnt n 3 = _), rfl⟩
  | valid v =>
    by_cases hv : v = (s.lane n).ds.sfc + 1
    · exact ⟨_, if_pos hv, rfl⟩
    · exact ⟨_, (if_neg hv).trans (State.modDs_modDs ..), rfl⟩
  | corrected v =>
    by_cases hv : v = (s.lane n).ds.sfc + 1
    · exact ⟨_, (if_pos hv).trans (State.modDs_modDs ..), rfl⟩
    · exact ⟨_, (if_neg hv).trans ((congrArg (State.dsCnt · n 4) (State.modDs_modDs ..)).trans (State.modDs_modDs ..)), rfl⟩

/-- A frame whose PSync field is read is synchronised: the misses end, and its fields are judged in order. -/
theorem execDsFrame_synced {s : State} {n : LaneId} {errs : Nat} (sfc ponId : Hec (BitVec 51)) (hlend : Hec HlEnd) (hsync : s.inSync n = true)
    (herrs : errs < 3) : execDsFrame n errs sfc ponId hlend s =
      .next (((s.modDs n fun d => { d with misses := 0 }).sfcRx n sfc).frameRx n ponId hlend) := by
  rw [execDsFrame, if_neg (by simp [hsync]), if_neg (by omega)]
  simp only [if_neg (show ¬3 ≤ errs by omega)]

/-- A PON-ID that stays the same is latched; the channel is identified by it where none is known. -/
theorem State.ponIdRx_same {s : State} {n : LaneId} {v : BitVec 51} (hv : (s.lane n).ds.ponId = v) :
    s.ponIdRx n (.valid v) = (s.modDs n fun d => { d with ponLatched := true }).modAct n fun a =>
      if a.chKnown then a else { a with chDs := (Config.ponChannels v).1, chUs := (Config.ponChannels v).2, chKnown := true } := by
  have hchg : ((s.lane n).ds.ponLatched && (s.lane n).ds.ponId != v) = false := by simp [hv]
  have hds : (s.modDs n fun d => { d with ponId := v, ponLatched := true, ponidChg := d.ponidChg || false }) =
      s.modDs n fun d => { d with ponLatched := true } := State.modDs_congr (by rw [hv, Bool.or_false])
  simp only [State.ponIdRx, Hec.val, hchg, hds, Bool.not_false, Bool.and_true]
  rfl

theorem pad4_bound {pos pli : Nat} (h : pos + 8 + pad4 pli ≤ 135432) : ¬135432 < pos + 8 + pad4 pli := Nat.not_lt.mpr h

/-- What every received frame resets in its framer. -/
def LineDs.frameStart (d : LineDs) : LineDs :=
  { d with cnt := vmod d.cnt 0 (· + 1), onuId := fld d.ctl 0 10, frameNo := d.frameNo + 1, words := 0, badWords := [] }

theorem State.frameStart_eq (s : State) (n : LaneId) :
    (s.dsCnt n 0).modDs n (fun d => { d with onuId := fld d.ctl 0 10, frameNo := d.frameNo + 1, words := 0, badWords := [] }) =
      s.modDs n LineDs.frameStart := State.modDs_modDs ..

theorem State.frameRx_other {s : State} {n : LaneId} (h : s.tim.refLane ≠ n.val) (ponId : Hec (BitVec 51)) (hlend : Hec HlEnd) :
    s.frameRx n ponId hlend = ((s.modDs n LineDs.frameStart).ponIdRx n ponId).hlendRx n hlend := by
  simp only [State.frameRx, State.frameStart_eq]
  exact congrArg (fun t : State => (t.ponIdRx n ponId).hlendRx n hlend) (if_neg h)

/-- The frame of the lane that is REF_LANE leaves its PSync stamp, and the fields after it leave the time island (R114). -/
theorem State.tim_frameRx_ref {s : State} {n : LaneId} (h : s.tim.refLane = n.val) (ponId : Hec (BitVec 51)) (hlend : Hec HlEnd) :
    (s.frameRx n ponId hlend).tim = { s.tim with psync := some { time := s.rxMoment n, sfc := (s.lane n).ds.sfc } } := by
  rw [State.frameRx, State.frameStart_eq, State.hlendRx_only _ _ _ .tim rfl, State.ponIdRx_only _ _ _ .tim rfl]
  refine (congrArg State.tim (if_pos h)).trans ?_
  rw [State.rxMoment_modDs, State.lane_modDs_same]
  rfl

/-- Settles O14: a received frame is the framer's own change, then PON-ID and HLend, then the stamp of REF_LANE; the rest is branch by
branch. -/
theorem downstreamCommandsTakeEffect : Obligations.DownstreamCommandsTakeEffect := by
  refine ⟨?psyncCandidate, ?candidateCheckPoint_1, ?candidateCheckPoint_2, ?dsFrame_1, ?dsFrame_2, ?dsFrame_3, ?huntRestart,
    ?fecCodeword, ?fecWindowEnd, ?fecThWrite, ?allocStructure, ?dsPloam, ?xgemFrameRx_1, ?xgemFrameRx_2, ?reassemblyTimeout,
    ?portTableWrite, ?dsWinAccess⟩
  case psyncCandidate =>
    intro s n pos hdson hsync hcands
    simp [exec, execPsyncCandidate, hdson, hsync, hcands]
  case candidateCheckPoint_1 =>
    intro s n pos v ponId hlend hdson hsync hpos
    have hheld : (!s.dsOn n || (s.lane n).ds.sync != .presync || !(s.lane n).ds.cands.contains pos) = false := by
      simp [hdson, hsync, hpos]
    rw [exec, execCandidateCheckPoint]
    exact congrArg Host.Outcome.next ((if_neg (by rw [hheld]; decide)).trans rfl)
  case candidateCheckPoint_2 =>
    intro s n pos errs sfc ponId hlend hdson hsync hpos herrs
    simp only [State.lane] at hsync hpos
    simp [exec, execCandidateCheckPoint, State.modDs, State.modLane, hdson, hsync, hpos, herrs, State.lane]
  case dsFrame_1 =>
    intro s n errs h hinsync herrs hreflane
    refine ⟨_, execDsFrame_synced _ _ _ hinsync herrs, ?_⟩
    have hsfc : (s.modDs n fun d => { d with misses := 0 }).sfcRx n (.valid ((s.lane n).ds.sfc + 1)) =
        s.modDs n fun d => { d with misses := 0, sfc := (s.lane n).ds.sfc + 1 } := by
      rw [State.sfcRx, State.lane_modDs_same]
      exact (if_pos rfl).trans (State.modDs_modDs ..)
    rw [hsfc, State.frameRx_other (s := s.modDs n _) hreflane, State.modDs_modDs,
      State.ponIdRx_same (v := (s.lane n).ds.ponId) (by rw [State.lane_modDs_same]; rfl)]
    refine ⟨?_, rfl, rfl, ?_, fun hk => ?_⟩
    · simp only [State.hlendRx, Hec.val, State.lane_modDs_same, State.lane_modAct_same]
      rfl
    · simp only [State.hlendRx, Hec.val, State.lane_modDs_same, State.lane_modAct_same]
      split <;> simp_all
    · simp only [State.hlendRx, Hec.val, State.lane_modDs_same, State.lane_modAct_same, hk, if_true]
  case dsFrame_2 =>
    intro s n errs sfc ponId hlend hinsync herrs hreflane
    refine ⟨_, execDsFrame_synced _ _ _ hinsync herrs, ?_⟩
    obtain ⟨f, hf, hsfc⟩ := State.sfcRx_modDs (s.modDs n fun d => { d with misses := 0 }) n sfc
    rw [State.lane_modDs_same] at hsfc
    rw [hf, State.modDs_modDs, State.tim_frameRx_ref (s := s.modDs n _) hreflane, State.rxMoment_modDs,
      State.lane_modDs_same]
    exact congrArg (fun x => { s.tim with psync := some { time := s.rxMoment n, sfc := x } }) hsfc
  case dsFrame_3 =>
    intro s n errs sfc ponId hlend hinsync herrs hmisses
    simp [exec, execDsFrame, State.lofEntry, hinsync, herrs, hmisses]
  case huntRestart =>
    intro s p n hreach hisline
    refine ⟨?huntRestart_2, ?dsCntClr⟩
    case huntRestart_2 =>
      simp [exec, execHuntRestart, State.writeLane_reaches hreach, State.huntRestart, hisline]
    case dsCntClr =>
      simp [exec, execDsCntClr, State.writeLane_reaches hreach, State.dsCntClr, hisline]
  case fecCodeword =>
    intro s n errs hinsync
    simp [exec, execFecCodeword, hinsync]
  case fecWindowEnd =>
    intro s n hinsync hfecth hfecth2
    have huo : ¬((fld (s.lane n).ds.fecTh 20 10).toNat ≠ 0 ∧ (fld (s.lane n).ds.fecTh 20 10).toNat ≤ (s.lane n).ds.winUnc) := by
      rw [hfecth]
      exact fun h => h.1 rfl
    have hct : (fld (s.lane n).ds.fecTh 0 20).toNat ≠ 0 := fun h => hfecth2 (BitVec.eq_of_toNat_eq h)
    rw [exec, execFecWindowEnd, if_neg (by simp [hinsync])]
    by_cases hco : (fld (s.lane n).ds.fecTh 0 20).toNat ≤ (s.lane n).ds.winCorr
    · simp only [huo, hct, hco, ne_eq, not_false_eq_true, and_self, decide_true, decide_false, Bool.true_and,
      Bool.false_and, Bool.or_false,
        if_true]
      refine congrArg Host.Outcome.next ((congrArg (State.reportIf · _ _ _) ?_).trans rfl)
      exact State.modDs_congr rfl
    · simp only [huo, hco, and_false, decide_false, Bool.false_and, Bool.or_false, if_false]
      rfl
  case fecThWrite =>
    intro s p n w hreach
    simp [exec, execFecThWrite, State.writeLane_reaches hreach, State.fecThWrite]
  case allocStructure =>
    intro s n idx a hinsync hlocated
    refine ⟨?allocStructure_1, ?allocStructure_2⟩
    case allocStructure_1 =>
      rw [exec, execAllocStructure, if_neg (by simp [hinsync, hlocated])]
      rfl
    case allocStructure_2 =>
      rw [exec, execAllocStructure, if_neg (by simp [hinsync, hlocated])]
      rfl
  case dsPloam =>
    intro s n m hinsync hlocated honuid
    rcases honuid with honuid | honuid <;> simp [exec, execDsPloam, hinsync, hlocated, honuid]
  case xgemFrameRx_1 =>
    intro s n h e payload hinsync hdelineated hpli hpli2 hport hkey he
    have hfit := pad4_bound hpli
    have hpos : (s.modDs n fun d => { d with pos := (s.lane n).ds.pos + 8 + pad4 h.pli.toNat }) =
        s.modDs n fun d => { d with pos := d.pos + 8 + pad4 h.pli.toNat } := State.modDs_congr rfl
    have hkind : h.key.toNat = 0 := by rw [hkey]; rfl
    rw [exec, execXgemFrameRx, if_neg (by simp [hinsync, hdelineated])]
    simp only [Hec.val, Hec.isCorrected, Bool.false_eq_true, if_false, if_neg hfit, hpos, hpli2, hport, State.portFrame,
      hkind, he, if_true]
  case xgemFrameRx_2 =>
    intro s n h payload hinsync hdelineated hpli
    have hfit := pad4_bound hpli
    have hpos : (s.modDs n fun d => { d with pos := (s.lane n).ds.pos + 8 + pad4 h.pli.toNat }) =
        s.modDs n fun d => { d with pos := d.pos + 8 + pad4 h.pli.toNat } := State.modDs_congr rfl
    rw [exec, execXgemFrameRx, if_neg (by simp [hinsync, hdelineated])]
    simp only [Hec.val, Hec.isCorrected, Bool.false_eq_true, if_false, if_neg hfit, hpos, if_true]
  case reassemblyTimeout =>
    intro s n port hr
    simp [exec, execReassemblyTimeout, hr]
  case portTableWrite =>
    intro s p n w hreach hisline hwinaddr
    refine ⟨?portTableWrite_2, ?dsWinAccess_2⟩
    case portTableWrite_2 =>
      simp [exec, execPortTableWrite, State.writeLane_reaches hreach, State.dsWinWrite, hisline, hwinaddr]
    case dsWinAccess_2 =>
      simp [exec, execDsWinAccess, execPortTableWrite, State.writeLane_reaches hreach, hisline, hwinaddr]
  case dsWinAccess =>
    intro s p n hreach hisline hwinaddr
    simp [exec, execDsWinAccess, State.readLane_reaches hreach, State.dsWinRead, State.dsItem, State.modDs, State.modLane,
      hisline, hwinaddr]

end Sys2Proof.Machine
end

section
namespace Sys2Proof.Machine

theorem State.carries_modDs (s : State) (n m : LaneId) (f : LineDs → LineDs) : (s.modDs n f).carries m = s.carries m := by
  simp only [State.carries, State.mstate_modDs]

theorem bit_groupMask (w : W32) : bit (w &&& groupMask) 0 = bit w 0 := by
  rw [bit_and, show bit groupMask 0 = true by decide, Bool.and_true]

/-- Item 0 of a group, written through the window, is its control word. -/
theorem State.write_groupCtl {s : State} {p : Port} {g : GroupId} {w : W32} (hreach : s.reaches p 9) (hgrp : s.cst.grp = g.val)
    (hitem : s.cst.grpItem = 0) (hgate : bit w 0 = false ∨ s.feature (groupFeature g.val) = true) :
    s.writeIsl p (base 9 + 0x800C) (fun s => s.grpDataWrite w) =
      { s.groupCtl g.val w with cst := (s.groupCtl g.val w).cst.grpStep } := by
  have hopen : (bit w 0 && !s.feature (groupFeature g.val)) = false := by
    rcases hgate with h | h <;> simp [h]
  rw [State.writeIsl_reaches hreach (by unfold base; omega), State.grpDataWrite, hgrp, hitem, State.groupWrite, if_pos rfl, hopen]
  rfl

theorem State.grpAt0_of {s : State} {g : GroupId} (hgrp : s.cst.grp = g.val) (hitem : s.cst.grpItem = 0) : s.grpAt0 g = true := by
  simp [State.grpAt0, hgrp, hitem]

/-- The words of a group that is off are stored, and an enable is judged with them in place. -/
theorem State.groupCtl_off {s : State} {g : Nat} {w : W32} (hen : (s.group g).en = false) (hw : bit w 0 = true) :
    s.groupCtl g w = match (s.modGroup g fun x => { x with w0 := setBit (w &&& groupMask) 0 false }).refuseGroup g
        ((s.modGroup g fun x => { x with w0 := setBit (w &&& groupMask) 0 false }).group g) with
      | some c => (s.modGroup g fun x => { x with w0 := setBit (w &&& groupMask) 0 false }).skewRefuse c
      | none => (s.modGroup g fun x => { x with w0 := setBit (w &&& groupMask) 0 false }).groupUp g := by
  have hon : bit (rw groupMask w) 0 = true := (bit_groupMask w).trans hw
  simp only [State.groupCtl, hen, hon, Bool.false_eq_true, if_false, if_true]
  rfl

theorem State.groupCtl_on {s : State} {g : Nat} {w : W32} (hen : (s.group g).en = true) (hw : bit w 0 = false) :
    s.groupCtl g w = (s.groupDown g).modGroup g fun x => { x with w0 := w &&& groupMask } := by
  have hoff : bit (rw groupMask w) 0 = false := (bit_groupMask w).trans hw
  simp only [State.groupCtl, hen, hoff, Bool.false_eq_true, if_false, if_true]
  rfl

/-- An SDU that is not late joins its group's buffer where its member's part of the region and the controller hold it, and is dropped
elsewhere. -/
theorem State.skewWrite_timely {s : State} {n : LaneId} {g : Nat} {u : Sdu} (hmode : s.cst.mode ≠ .offline)
    (htime : (s.group g).lastReleased = none ∨ ∃ r, (s.group g).lastReleased = some r ∧ tagAfter u.tag r = true) :
    s.skewWrite n g u =
      if decide (s.skewPart g < (s.group g).buffered n.val + u.bytes.length) || !s.cstRoom 0 then
        ((s.modBond n fun b => { b with rejoin := false }).grpCnt g 4).skewDrop u
      else ((s.modBond n fun b => { b with rejoin := false }).request 0 true (linesOf u.bytes.length)).modGroup g fun x =>
        { x with buffer := x.buffer ++ [u] } := by
  rw [State.skewWrite]
  rcases htime with h | ⟨r, h, hr⟩
  · simp only [h, if_neg hmode, Bool.false_eq_true, if_false]
  · simp only [h, hr, Bool.not_true, if_neg hmode, Bool.false_eq_true, if_false]

/-- Settles O21: through the window's item 0, the SDUs' way into the skew buffer and the judgement of a VCAT member's frame. -/
theorem groupCommandsTakeEffect : Obligations.GroupCommandsTakeEffect := by
  refine ⟨?skewSduWrite, ?skewSlotRelease, ?groupEnable, ?grpDataAccess, ?skwRestart, ?vcatRecover, ?vcatMemberFrame⟩
  case skewSduWrite =>
    intro s n g u rest hsduq hgroupof hcarries hmode hlastreleased v
    have hrun : exec (.skewSduWrite n) s = .next ((s.modDs n fun d => { d with sduQ := rest }).skewWrite n g u) := by
      have hgroup : (s.modDs n fun d => { d with sduQ := rest }).groupOf n.val = some g := hgroupof
      rw [exec, execSkewSduWrite, hsduq]
      simp only [hgroup, State.carries_modDs, hcarries, if_true]
    rw [hrun, State.skewWrite_timely (s := s.modDs n _) hmode hlastreleased]
    refine ⟨fun hfit hroom => congrArg Host.Outcome.next (if_neg (ne_true_of_eq_false (Bool.or_eq_false_iff.mpr ?_))),
      fun hfull => congrArg Host.Outcome.next (if_pos (Bool.or_eq_true_iff.mpr (Or.inl (decide_eq_true hfull))))⟩
    exact ⟨decide_eq_false (Nat.not_lt.mpr hfit), congrArg (! ·) hroom⟩
  case skewSlotRelease =>
    intro s g r hval hen hlastreleased hallseen hup
    have hgo : (!true || decide (8 ≤ g.val) || !(true && true || s.slotLate g.val (r + 1))) = false := by
      simp [hval]
    rw [exec, execSkewSlotRelease]
    simp only [hlastreleased, hallseen, hup, hen, hgo, Bool.false_eq_true, if_false, if_true]
  case groupEnable =>
    intro s p g w hreach hgrp hgrpitem
    refine ⟨?groupEnable_1, ?groupEnable_2, ?groupDisable, ?grpDataAccess_2⟩
    case groupEnable_1 =>
      intro hw hfeature
      simp (disch := omega) [exec, execGroupEnable, State.writeIsl_reaches hreach, State.grpAt0, State.grpDataWrite,
        State.groupWrite, base, State.modGroup, hgrp, hgrpitem, hw, hfeature]
    case groupEnable_2 =>
      intro hw hen hfeature u
      have hrun : exec (.groupEnable p g w) s = .next { s.groupCtl g.val w with cst := (s.groupCtl g.val w).cst.grpStep } := by
        rw [exec, execGroupEnable, if_pos ⟨State.grpAt0_of hgrp hgrpitem, hw⟩,
          State.write_groupCtl hreach hgrp hgrpitem (Or.inr hfeature)]
      rw [hrun, State.groupCtl_off hen hw]
      refine ⟨fun hno => ?_, fun c hc => ?_⟩
      · rw [show (s.modGroup g.val _).refuseGroup g.val _ = none from hno]
      · rw [show (s.modGroup g.val _).refuseGroup g.val _ = some c from hc]
        rfl
    case groupDisable =>
      intro hw hen
      rw [exec, execGroupDisable, if_pos ⟨State.grpAt0_of hgrp hgrpitem, by rw [hw]; rfl⟩,
        State.write_groupCtl hreach hgrp hgrpitem (Or.inl hw), State.groupCtl_on hen hw]
    case grpDataAccess_2 =>
      intro hw
      rw [exec, execGrpDataAccess, State.write_groupCtl hreach hgrp hgrpitem hw]
  case grpDataAccess =>
    intro s p g hreach hval hgrp hgrpitem hgrpsel
    simp (disch := omega) [exec, execGrpDataAccess, State.readIsl_reaches hreach, State.grpDataRead, State.groupRead, base,
      Cistern.grpStep, hval, hgrp, hgrpitem, hgrpsel]
  case skwRestart =>
    intro s p w n hreach htonat hw hmstate
    simp (disch := omega) [exec, execSkwRestart, State.writeIsl_reaches hreach, State.skwCmd, base, htonat, hw, hmstate]
  case vcatRecover =>
    intro s g hval hen hgstate hgroup
    simp [exec, execVcatRecover, hval, hen, hgstate, hgroup]
  case vcatMemberFrame =>
    intro s g pos f n hval hen hseqvalid hseqlane hsdhon hsigdet hlof hon hon2
    have hlt : (s.group g.val).seqLane pos.val < 96 := by omega
    have hn : (⟨(s.group g.val).seqLane pos.val, hlt⟩ : LaneId) = n := Fin.ext hseqlane
    have hreads : s.memberReads (s.group g.val) pos.val = true := by
      have hlane : s.lanes[(s.group g.val).seqLane pos.val] = s.lane n := by rw [← hn]; rfl
      obtain ⟨hsdh, -⟩ := Bool.and_eq_true_iff.mp hsdhon
      rw [State.memberReads, dif_pos hlt, hlane]
      simp only [hseqlane, hsdh, hsigdet, hlof, hon, hon2, Bool.not_false, Bool.and_self]
    rw [exec, execVcatMemberFrame, dif_pos hlt]
    have hgo : (decide (g.val < 8) || !(s.group g.val).en || !(s.group g.val).seqValid pos.val || !s.sdhOn n) = false := by
      simp [hval, hen, hseqvalid, hsdhon]
    simp only [hgo, hreads, hseqlane, Bool.not_true, Bool.false_eq_true, if_false]

end Sys2Proof.Machine
end

section
namespace Sys2Proof.Machine

/-- The control words of a lane's tributary entries, through the window. -/
theorem State.sdhItemWrite_entry {s : State} {n : LaneId} {t : Fin 64} (k : Nat) (hk : k < 2) (w : W32) :
    s.sdhItemWrite n (0x100 + k + 4 * t.val) w =
      if k = 0 then s.entryWrite n t.val w else s.modEntry n t.val fun e => { e with txCtx := w } := by
  have hlt := t.isLt
  have ht : (0x100 + k + 4 * t.val - 0x100) / 4 = t.val := by omega
  have hm : (0x100 + k + 4 * t.val) % 4 = k := by omega
  simp only [State.sdhItemWrite, ht, hm]
  rw [if_neg (by omega), if_neg (by omega), if_neg (by omega), if_pos (by omega)]
  by_cases h : k = 0
  · rw [if_pos h, if_pos h]
  · rw [if_neg h, if_neg h, if_pos (by omega)]

theorem execTribEntryWrite_entry {s : State} {p : Port} {n : LaneId} {t : Fin 64} {w : W32} (k : Nat) (hk : k < 2)
    (hreach : s.reachesLane p n .rx) (hsdh : s.isSdh n.val = true) (haddr : laneItem (s.lane n).sdh.winAddr = 0x100 + k + 4 * t.val) :
    execTribEntryWrite p n w s = .next
      ((if k = 0 then s.entryWrite n t.val w else s.modEntry n t.val fun e => { e with txCtx := w }).modSdh n fun x =>
        { x with winAddr := laneWinStep x.winAddr }) := by
  have hlt := t.isLt
  rw [execTribEntryWrite, haddr, if_pos ⟨hsdh, by omega, by omega, by omega⟩, State.writeLane_reaches hreach, State.sdhWinWrite, haddr,
    State.sdhItemWrite_entry k hk]

theorem State.sdhItem_txCtx (s : State) (p : Port) (n : LaneId) (t : Fin 64) :
    s.sdhItem p n (0x101 + 4 * t.val) = ((vget {} (s.lane n).sdh.trib t.val).txCtx, s) := by
  have hlt := t.isLt
  have ht : (0x101 + 4 * t.val - 0x100) / 4 = t.val := by omega
  have hm : (0x101 + 4 * t.val) % 4 = 1 := by omega
  simp only [State.sdhItem, ht, hm]
  rw [if_neg (by omega), if_neg (by omega), if_neg (by omega), if_neg (by omega), if_pos (by omega)]
  rfl

/-- Settles O24: framing, defects and performance by the lane's state; entries through the window; frames as the transmitter builds them. -/
theorem sdhCommandsTakeEffect : Obligations.SdhCommandsTakeEffect := by
  refine ⟨?sdhCandidate, ?sdhCntClr, ?tribEntryWrite, ?tribSeal, ?tribBlockRx, ?sdhTxFrame, ?pmSecond⟩
  case sdhCandidate =>
    intro s n hsdhon
    refine ⟨?sdhCandidate_1, ?sdhCandidate_2, ?sdhCheckPoint, ?sdhFrame_1, ?sdhFrame_2, ?sdhLofTimer_1, ?sdhLofTimer_2,
      ?sdhSdWindow_1, ?sdhSdWindow_2⟩
    case sdhCandidate_1 =>
      intro pos hsigdet hcdrlock hfrm hcands
      simp [exec, execSdhCandidate, framingPattern, State.modSdh, State.modLane, hsdhon, hsigdet, hcdrlock, hfrm, hcands]
    case sdhCandidate_2 =>
      intro pos hsigdet hcdrlock hfrm hcands
      simp [exec, execSdhCandidate, framingPattern, State.modSdh, State.modLane, hsdhon, hsigdet, hcdrlock, hfrm, hcands]
    case sdhCheckPoint =>
      intro pos hfrm hpos
      refine ⟨?sdhCheckPoint_1, ?sdhCheckPoint_2⟩
      case sdhCheckPoint_1 =>
        rw [exec, execSdhCheckPoint]
        exact congrArg Host.Outcome.next ((if_pos (by simp [hsdhon, hfrm, hpos])).trans rfl)
      case sdhCheckPoint_2 =>
        intro bits hbits
        rw [exec, execSdhCheckPoint]
        exact congrArg Host.Outcome.next ((if_pos (by simp [hsdhon, hfrm, hpos])).trans (if_neg hbits))
    case sdhFrame_1 =>
      intro f hfrm hf hmisses
      simp [exec, execSdhFrame, hsdhon, hfrm, hf, hmisses]
    case sdhFrame_2 =>
      intro f hfrm hf
      have hkept : ¬((!patternOk f) = true ∧ (s.lane n).sdh.misses = 3) := by
        rintro ⟨hbad, hmisses⟩
        rcases hf with h | h
        · rw [h] at hbad
          exact absurd hbad (by decide)
        · exact h hmisses
      rw [exec, execSdhFrame, if_neg (by simp [hsdhon, hfrm]), if_neg hkept]
    case sdhLofTimer_1 =>
      intro hsigdet hfrm hlof
      simp [exec, execSdhLofTimer, hsdhon, hsigdet, hfrm, hlof]
    case sdhLofTimer_2 =>
      intro hsigdet hfrm hlof
      simp [exec, execSdhLofTimer, hsdhon, hsigdet, hfrm, hlof]
    case sdhSdWindow_1 =>
      intro hctl hctl2 hsd hdefseen
      have hth : (fld (s.lane n).sdh.ctl 16 16).toNat ≠ 0 := fun h => hctl (BitVec.eq_of_toNat_eq h)
      rw [exec, execSdhSdWindow, if_neg (by simp [hsdhon])]
      simp only [hth, hctl2, hsd, State.defectSeen, ne_eq, not_false_eq_true, and_self, decide_true, Bool.not_false,
        State.lane_modSdh_same, hdefseen, State.modSdh_modSdh]
      rfl
    case sdhSdWindow_2 =>
      intro hb2frames
      have hth : ¬(fld (s.lane n).sdh.ctl 16 16).toNat ≤ (s.lane n).sdh.b2Frames := Nat.not_le.mpr hb2frames
      rw [exec, execSdhSdWindow, if_neg (by simp [hsdhon])]
      simp only [hth, State.defectSeen, and_false, decide_false, Bool.false_and, Bool.false_eq_true, if_false]
  case sdhCntClr =>
    intro s p n hreach hissdh
    refine ⟨?sdhCntClr_2, ?sdhHuntRestart, ?pmClr⟩
    case sdhCntClr_2 =>
      simp [exec, execSdhCntClr, State.writeLane_reaches hreach, State.sdhCntClr, hissdh]
    case sdhHuntRestart =>
      intro hison
      simp [exec, execSdhHuntRestart, State.writeLane_reaches hreach, State.sdhRestart, State.sdhOn, State.sdhHunt,
        State.modSdh, hissdh, hison]
    case pmClr =>
      rw [exec, execPmClr, if_pos hissdh, State.writeLane_reaches hreach, State.pmClr, State.pmStart]
      rfl
  case tribEntryWrite =>
    intro s p n w hreach hissdh
    refine ⟨?tribEntryWrite_1, ?tribEntryWrite_2⟩
    case tribEntryWrite_1 =>
      intro t hwinaddr
      refine ⟨?tribEntryWrite_3, ?sdhWinAccess_1, ?sdhWinAccess_2⟩
      case tribEntryWrite_3 =>
        exact execTribEntryWrite_entry 1 (by decide) hreach hissdh hwinaddr
      case sdhWinAccess_1 =>
        have hlt := t.isLt
        rw [exec, exec, execSdhWinAccess, execTribEntryWrite, hwinaddr, if_pos hissdh, if_pos ⟨hissdh, by omega, by omega,
          by omega⟩]
      case sdhWinAccess_2 =>
        rw [exec, execSdhWinAccess, if_pos hissdh]
        simp only [State.readLane_reaches hreach, State.sdhWinRead, hwinaddr, State.sdhItem_txCtx]
    case tribEntryWrite_2 =>
      intro t hwinaddr
      exact execTribEntryWrite_entry 0 (by decide) hreach hissdh hwinaddr
  case tribSeal =>
    intro s n t hsdhon hvalid
    simp [exec, execTribSeal, hsdhon, hvalid]
  case tribBlockRx =>
    intro s n hissdh hison hison2 hgenen x hpickdown u b a
    have hpick : s.pickDown n = (u, some x) := Prod.ext rfl hpickdown
    rw [exec, execTribBlockRx, if_neg (by simp [hissdh, hison, hison2]), if_neg (by simp [hgenen]), hpick]
    refine ⟨fun hno => ?_, fun t ht => ?_⟩
    · simp only [show (u.lane n).sdh.rxEntry (BitVec.ofNat 32 (beAt x.2.frame.bytes x.2.frame.hdr.blockAt 4)) = none from hno]
      rfl
    · simp only [show (u.lane n).sdh.rxEntry (BitVec.ofNat 32 (beAt x.2.frame.bytes x.2.frame.hdr.blockAt 4)) = some t from ht]
      rfl
  case sdhTxFrame =>
    intro s n hissdh hison hgenen hsquelched u aus f
    refine ⟨?_, by simp [aus, State.ausTx], rfl, rfl, rfl, rfl⟩
    rw [exec, execSdhTxFrame, if_neg (by simp [hissdh, hison, hgenen, hsquelched])]
    rfl
  case pmSecond =>
    intro s n hissdh
    refine ⟨?pmSecond_1, ?pmSecond_2, ?pmBinClose⟩
    case pmSecond_1 =>
      intro i hison hval
      have hextra : (i.val == 0) = false := beq_false_of_ne hval
      rw [exec, execPmSecond, if_neg (by simp [hissdh]), if_neg (by simp [hison])]
      simp only [hextra, Bool.false_and]
    case pmSecond_2 =>
      intro hison
      rw [exec, execPmSecond, if_neg (by simp [hissdh]), if_neg (by simp [hison])]
      rfl
    case pmBinClose =>
      intro day at_
      exact congrArg Host.Outcome.next (if_pos hissdh)

end Sys2Proof.Machine
end

section
namespace Sys2Proof.Machine

/-- A bank command that reaches its quadrant is judged by the quadrant's state. -/
theorem State.clsCmd_reaches {s : State} {p : Port} {q : QuadId} (h : s.reaches p (0x10 + q.val)) (op : Nat) :
    s.clsCmd p q op = s.modQuad q fun x => x.bankCmd op :=
  State.writeIsl_reaches h (by unfold quadBase base; omega)

theorem Quad.bankCmd_of_busy {x : Quad} (h : x.busy.isSome = true) (op : Nat) : x.bankCmd op = { x with clsErr := 1 } := if_pos h

theorem Quad.bankCmd_of_idle {x : Quad} (h : x.busy = none) :
    x.bankCmd 1 = x.swap ∧ x.bankCmd 2 = { x with busy := some .copy, clsErr := 0 } ∧
      x.bankCmd 3 = { x with busy := some .clear, clsErr := 0 } := by
  simp [Quad.bankCmd, h]

theorem State.latch_sys (s : State) (p : Port) (a : Nat) (w : W32) : (s.latch p a w).sys = s.sys := s.latch_only p a w .sys rfl

/-- Settles O25: the head of each queue, the windows of system control and of a quadrant, and the bank commands by the quadrant's state. -/
theorem classifierCommandsTakeEffect : Obligations.ClassifierCommandsTakeEffect := by
  refine ⟨?classify, ?fragTimeout, ?fragFlush, ?sumpClr, ?prsDeepCntRead, ?clsSwapDrained, ?clsCmdDone_1, ?clsCmdDone_2⟩
  case classify =>
    intro s q f rest
    refine ⟨?classify_2, ?rallyPass⟩
    case classify_2 =>
      intro hparseq
      simp [exec, execClassify, hparseq]
    case rallyPass =>
      intro hrallyq
      simp [exec, execRallyPass, hrallyq]
  case fragTimeout =>
    intro s k he
    simp [exec, execFragTimeout, he]
  case fragFlush =>
    intro s p hreach
    refine ⟨?fragFlush_2, ?frgCntRead_1, ?frgCntRead_2, ?frgCntRead_3⟩
    case fragFlush_2 =>
      simp (disch := omega) [exec, execFragFlush, State.writeIsl_reaches hreach, State.fragFlush, base]
    case frgCntRead_1 =>
      simp (disch := omega) [exec, execFrgCntRead, State.readIsl_reaches hreach, State.frgRead, base]
    case frgCntRead_2 =>
      simp (disch := omega) [exec, execFrgCntRead, State.readIsl_reaches hreach, State.frgRead, base]
    case frgCntRead_3 =>
      simp (disch := omega) [exec, execFrgCntRead, State.readIsl_reaches hreach, State.frgRead, base]
  case sumpClr =>
    intro s p hreach
    refine ⟨?sumpClr_2, ?sumpDataRead⟩
    case sumpClr_2 =>
      intro mask
      simp [exec, execSumpClr, State.writeIsl_reaches hreach, State.sumpClr]
    case sumpDataRead =>
      intro q c hsumpaddr hsumpaddr2
      have hc : (256 * q.val + 4 * c.val) % 256 / 4 = c.val := by omega
      have hq : (256 * q.val + 4 * c.val) / 256 = q.val := by omega
      have hlow : (256 * q.val + 4 * c.val) % 4 = 0 := by omega
      have heven : ((256 * q.val + 4 * c.val) % 2 == 1) = false := beq_false_of_ne (by omega)
      rw [exec, execSumpDataRead, State.readIsl_reaches hreach rfl]
      simp only [State.sumpRead, hsumpaddr2, hc, hq, hlow, heven, c.isLt, if_true, Nat.zero_lt_two, State.readPair,
        Bool.false_eq_true, if_false,
        State.readLow, State.latch_sys, hsumpaddr]
  case prsDeepCntRead =>
    intro s p q hreach
    refine ⟨?prsDeepCntRead_2, ?prsSkipCntRead, ?rlyStatusRead, ?clsCopy_1, ?clsCopy_2, ?ruleWrite_1, ?ruleWrite_2⟩
    case prsDeepCntRead_2 =>
      rw [exec, execPrsDeepCntRead, State.readQuad_reaches hreach _ (by decide), State.deepRead, State.vget_quads,
        State.modQuadN_val]
    case prsSkipCntRead =>
      rw [exec, execPrsSkipCntRead, State.readQuad_reaches hreach _ (by decide), State.skipRead, State.vget_quads,
        State.modQuadN_val]
    case rlyStatusRead =>
      rw [exec, execRlyStatusRead, State.readQuad_reaches hreach _ (by decide), State.rallyRead, State.vget_quads,
        State.modQuadN_val]
    case clsCopy_1 =>
      intro hbusy
      refine ⟨?clsCopy, ?clsClear, ?clsSwap_1, ?clsSwap_2⟩
      case clsCopy =>
        rw [exec, execClsCopy, State.clsCmd_reaches hreach]
        exact congrArg Host.Outcome.next (State.modQuad_congr (Quad.bankCmd_of_idle hbusy).2.1)
      case clsClear =>
        rw [exec, execClsClear, State.clsCmd_reaches hreach]
        exact congrArg Host.Outcome.next (State.modQuad_congr (Quad.bankCmd_of_idle hbusy).2.2)
      case clsSwap_1 =>
        intro hactive
        rw [exec, execClsSwap, State.clsCmd_reaches hreach]
        refine congrArg Host.Outcome.next (State.modQuad_congr ((Quad.bankCmd_of_idle hbusy).1.trans ?_))
        simp only [Quad.swap, hactive, ne_eq, not_true_eq_false, decide_false, if_true]
      case clsSwap_2 =>
        intro hactive
        rw [exec, execClsSwap, State.clsCmd_reaches hreach]
        refine congrArg Host.Outcome.next (State.modQuad_congr ((Quad.bankCmd_of_idle hbusy).1.trans ?_))
        simp only [Quad.swap, hactive, ne_eq, not_false_eq_true, decide_true, if_false]
    case clsCopy_2 =>
      intro hbusy
      refine ⟨?clsCopy_3, ?clsClear_2, ?clsSwap⟩
      case clsCopy_3 =>
        rw [exec, execClsCopy, State.clsCmd_reaches hreach]
        exact congrArg Host.Outcome.next (State.modQuad_congr (Quad.bankCmd_of_busy hbusy _))
      case clsClear_2 =>
        rw [exec, execClsClear, State.clsCmd_reaches hreach]
        exact congrArg Host.Outcome.next (State.modQuad_congr (Quad.bankCmd_of_busy hbusy _))
      case clsSwap =>
        rw [exec, execClsSwap, State.clsCmd_reaches hreach]
        exact congrArg Host.Outcome.next (State.modQuad_congr (Quad.bankCmd_of_busy hbusy _))
    case ruleWrite_1 =>
      intro w
      simp (disch := omega) [exec, execRuleWrite, State.writeIsl_reaches hreach, quadBase, base, State.modQuad]
    case ruleWrite_2 =>
      simp (disch := omega) [exec, execRuleWrite, State.readIsl_reaches hreach, quadBase, base, State.modQuad]
  case clsSwapDrained =>
    intro s q hbusy hdraining
    refine ⟨?clsSwapDrained_2, ?epochRetire⟩
    case clsSwapDrained_2 =>
      intro hactive
      simp only [State.quad] at hbusy hdraining hactive
      simp [exec, execClsSwapDrained, State.modQuad, hbusy, hdraining, hactive]
    case epochRetire =>
      simp [exec, execEpochRetire, hbusy, hdraining]
  case clsCmdDone_1 =>
    intro s q hbusy
    simp only [State.quad] at hbusy
    simp [exec, execClsCmdDone, Quad.cmdDone, State.modQuad, hbusy]
  case clsCmdDone_2 =>
    intro s q hbusy
    simp only [State.quad] at hbusy
    simp [exec, execClsCmdDone, Quad.cmdDone, State.modQuad, hbusy]

end Sys2Proof.Machine
end

section
namespace Sys2Proof.Machine

/-- Entries whose stored bits stand right pass their check. -/
theorem State.checkSlots_of_right {s : State} {flow : Bool} (h : ∀ x ∈ s.tbl.hash flow, x.2.flips = 0) (p : Nat → TblEntry → Bool) :
    s.checkSlots flow p = s := by
  have hnone : (s.tbl.hash flow).filter (fun x => x.2.flips != 0 && !x.2.bad && p x.1 x.2) = [] :=
    List.filter_eq_nil_iff.mpr fun x hx => by simp [h x hx]
  rw [State.checkSlots, hnone]
  rfl

theorem State.latch_tbl (s : State) (p : Port) (a : Nat) (w : W32) : (s.latch p a w).tbl = s.tbl := s.latch_only p a w .tbl rfl

/-- A command that reaches the engine is written. -/
theorem State.tblOp_reaches {s : State} {p : Port} (h : s.reaches p 10) (op : Nat) (t : BitVec 3) (static : Bool) (port : Byte)
    (shadow byLoc : Bool) : s.tblOp p op t static port shadow byLoc = s.tblCmdWrite (s.tbl.cmd op t.toNat static port shadow byLoc) :=
  State.writeIsl_reaches h (by unfold base; omega)

/-- The engine takes command c. -/
def State.tblAccept (s : State) (c : TblCmd) : State :=
  { s with tbl := { s.tbl with busy := some c, err := 0, found := false, replaced := false, moved := false, endSeen := false } }

theorem State.tblCmdWrite_busy {s : State} (h : s.tbl.busy.isSome = true) (c : TblCmd) : s.tblCmdWrite c = s.tblErr 1 := if_pos h

theorem State.tblCmdWrite_refused {s : State} {c : TblCmd} {e : BitVec 4} (h : s.tbl.busy = none) (hc : s.tblCheck c = e) (he : e ≠ 0) :
    s.tblCmdWrite c = s.tblErr e := by
  rw [State.tblCmdWrite, h, hc]
  exact (if_neg (by decide)).trans (if_neg he)

theorem State.tblCmdWrite_accepted {s : State} {c : TblCmd} (h : s.tbl.busy = none) (hc : s.tblCheck c = 0) :
    s.tblCmdWrite c = (s.tblAccept c).tblStart c := by
  rw [State.tblCmdWrite, h, hc]
  rfl

/-- Only an INSERT and a REPAIR start something with their acceptance. -/
theorem State.tblStart_other {s : State} {c : TblCmd} (h3 : c.op ≠ 3 ∨ 2 ≤ c.table) (h9 : c.op ≠ 9) : s.tblStart c = s := by
  rw [State.tblStart]
  refine (if_neg ?_).trans (if_neg h9)
  rintro ⟨hop, htable, -⟩
  omega

section
variable {s : State} {c : TblCmd}

theorem State.tblCheck_plain (hop : c.op = 1 ∨ c.op = 2 ∨ c.op = 5 ∨ c.op = 6) (ht : c.table < 4) : s.tblCheck c = 0 := by
  have hgt : ¬3 < c.table := by omega
  rcases hop with h | h | h | h <;> simp [State.tblCheck, h, hgt]

theorem State.tblCheck_insert_port (hop : c.op = 3) (ht : c.table < 4) (hp : portValid (fld c.res0 0 8) = false) : s.tblCheck c = 5 := by
  have hgt : ¬3 < c.table := by omega
  simp [State.tblCheck, hop, hgt, hp]

theorem State.tblCheck_insert (hop : c.op = 3) (ht : c.table < 4) (hp : portValid (fld c.res0 0 8) = true)
    (hlpm : 2 ≤ c.table → c.badPrefix = false ∧ c.shadow = false) : s.tblCheck c = 0 := by
  have hgt : ¬3 < c.table := by omega
  by_cases h2 : 2 ≤ c.table
  · obtain ⟨hprefix, hshadow⟩ := hlpm h2
    simp [State.tblCheck, hop, hgt, hp, hprefix, hshadow]
  · simp [State.tblCheck, hop, hgt, hp, h2]

theorem State.tblCheck_delete (hop : c.op = 4) (ht : c.table < 4) (hlpm : 2 ≤ c.table → c.shadow = false) : s.tblCheck c = 0 := by
  have hgt : ¬3 < c.table := by omega
  by_cases h2 : 2 ≤ c.table
  · simp [State.tblCheck, hop, hgt, hlpm h2]
  · simp [State.tblCheck, hop, hgt, h2]

theorem State.tblCheck_delete_shadow (hop : c.op = 4) (ht : c.table < 4) (hlpm : 2 ≤ c.table) (hshadow : c.shadow = true)
    (hr : (s.tbl.fam c.v6).rebuilding = false) : s.tblCheck c = 6 := by
  have hgt : ¬3 < c.table := by omega
  simp [State.tblCheck, hop, hgt, hlpm, hshadow, hr]

theorem State.tblCheck_swap (hop : c.op = 7) (ht : c.table < 4) (hlpm : 2 ≤ c.table) :
    s.tblCheck c = if (s.tbl.fam c.v6).rebuilding then 0 else 6 := by
  have hgt : ¬3 < c.table := by omega
  simp [State.tblCheck, hop, hgt, hlpm]

theorem State.tblCheck_rebuild (hop : c.op = 8) (ht : c.table < 4) (hlpm : 2 ≤ c.table) :
    s.tblCheck c = if s.cst.degradedMode then 6 else 0 := by
  have hgt : ¬3 < c.table := by omega
  simp only [State.tblCheck, hop, hgt, hlpm, State.cstDegraded]
  rfl

theorem State.tblCheck_lpm_only (hop : c.op = 7 ∨ c.op = 8) (ht : c.table < 2) : s.tblCheck c = 2 := by
  have hgt : ¬3 < c.table := by omega
  have h2 : ¬2 ≤ c.table := by omega
  rcases hop with h | h <;> simp [State.tblCheck, h, hgt, h2]

theorem State.tblCheck_repair {b : Nat} (hop : c.op = 9) (ht : c.table < 2) (hb : s.poolBank (c.table == 1) c.loc.toNat = some b)
    (hspare : (vget [] s.tbl.spares b).length < 2) : s.tblCheck c = 0 := by
  have hgt : ¬3 < c.table := by omega
  have h2 : ¬2 ≤ c.table := by omega
  simp [State.tblCheck, hop, hgt, h2, hb, hspare]

end

/-- A command of a table that starts nothing runs once it is accepted. -/
theorem State.tblOp_runs {s : State} {p : Port} {op : Nat} {t : BitVec 3} {static shadow byLoc : Bool} {port : Byte} (h : s.reaches p 10)
    (hidle : s.tbl.busy = none) (hc : s.tblCheck (s.tbl.cmd op t.toNat static port shadow byLoc) = 0) (h3 : op ≠ 3 ∨ 2 ≤ t.toNat)
    (h9 : op ≠ 9) :
    (.next (s.tblOp p op t static port shadow byLoc) : Res) = .next (s.tblAccept (s.tbl.cmd op t.toNat static port shadow byLoc)) := by
  rw [State.tblOp_reaches h, State.tblCmdWrite_accepted hidle hc]
  exact congrArg Host.Outcome.next (State.tblStart_other h3 h9)

theorem State.tblOp_starts {s : State} {p : Port} {op : Nat} {t : BitVec 3} {static shadow byLoc : Bool} {port : Byte} (h : s.reaches p 10)
    (hidle : s.tbl.busy = none) (hc : s.tblCheck (s.tbl.cmd op t.toNat static port shadow byLoc) = 0) :
    (.next (s.tblOp p op t static port shadow byLoc) : Res) =
      .next ((s.tblAccept (s.tbl.cmd op t.toNat static port shadow byLoc)).tblStart (s.tbl.cmd op t.toNat static port shadow byLoc)) := by
  rw [State.tblOp_reaches h, State.tblCmdWrite_accepted hidle hc]

theorem State.tblOp_refused {s : State} {p : Port} {op : Nat} {t : BitVec 3} {static shadow byLoc : Bool} {port : Byte} {e : BitVec 4}
    (h : s.reaches p 10) (hidle : s.tbl.busy = none) (hc : s.tblCheck (s.tbl.cmd op t.toNat static port shadow byLoc) = e) (he : e ≠ 0) :
    (.next (s.tblOp p op t static port shadow byLoc) : Res) = .next (s.tblErr e) := by
  rw [State.tblOp_reaches h, State.tblCmdWrite_refused hidle hc he]

/-- The engine free again. -/
def State.tblFree (s : State) : State := { s with tbl := { s.tbl with busy := none } }

/-- FLUSH_PORT of the bridge or the flow table. -/
def State.flushHash (s : State) (flow : Bool) (port : Byte) (static : Bool) : State :=
  { s with tbl := s.tbl.setHash flow (flushPorts (s.tbl.hash flow) (· == port) static) }

section
variable {s : State} {c : TblCmd} (hbusy : s.tbl.busy = some c)
include hbusy

/-- What a command of the bridge or the flow table does when it completes: every entry passes its check, and nothing overtakes it. -/
theorem State.tblDone_hash (ht : c.table < 2) (hright : ∀ x ∈ s.tbl.hash (c.table == 1), x.2.flips = 0) (hits : List Nat) :
    (c.op = 1 → s.tblDone hits = s.tblFree.doSearch c) ∧
    (c.op = 3 → s.tblDone hits = s.tblFree.insertHash (c.table == 1)
      { key := c.maskedKey, res0 := c.res0, res1 := c.res1, static := bit c.ctl 0, ageEn := bit c.ctl 1 }) ∧
    (c.op = 5 → s.tblDone hits = s.tblFree.flushHash (c.table == 1) c.port c.static) := by
  have h2 : ¬2 ≤ c.table := by omega
  have hslots := State.checkSlots_of_right (s := s.tblFree) hright
  refine ⟨fun hop => ?_, fun hop => ?_, fun hop => ?_⟩
  · simp only [State.tblDone, hbusy, if_pos ht, State.tblOvertaken, hop, Nat.reduceBEq, Bool.false_and, Bool.false_or, Bool.false_eq_true,
      if_false]
    exact congrArg (State.doSearch · c) (hslots _)
  · simp only [State.tblDone, hbusy, if_pos ht, State.tblOvertaken, hop, Nat.reduceBEq, Bool.false_and, Bool.false_or, Bool.true_or,
      Bool.true_and, h2, decide_false, Bool.false_eq_true, if_false]
    exact congrArg (State.insertHash · _ _) (hslots _)
  · simp only [State.tblDone, hbusy, if_pos ht, State.tblOvertaken, hop, Nat.reduceBEq, Bool.false_and, Bool.false_or, Bool.false_eq_true,
      if_false, h2]
    exact congrArg (State.flushHash · _ _ _) (hslots _)

/-- A REBUILD completes, unless the degradation of the cistern has overtaken it. -/
theorem State.tblDone_rebuild (ht : 2 ≤ c.table) (hop : c.op = 8) (hits : List Nat) :
    s.tblDone hits = if s.cst.degradedMode then s.tblFree.tblErr 6 else s.tblFree.doRebuild c := by
  have h2 : ¬c.table < 2 := by omega
  simp only [State.tblDone, hbusy, if_neg h2, State.tblOvertaken, hop, State.cstDegraded, Nat.reduceBEq, Bool.true_and,
    Bool.false_and, Bool.or_false]
  rfl

end

/-- Settles O27: a command is judged by tblCheck when it is written, and acts by its operation when it completes, where every entry passes
its check. -/
theorem tableCommandsTakeEffect : Obligations.TableCommandsTakeEffect := by
  refine ⟨?search, ?tblCmdDone, ?agePass, ?learnInsert, ?tblPortAccess⟩
  case search =>
    intro s p t hreach run start stop
    refine ⟨fun hb => ?_, fun hidle ht => ?_, fun hidle ht => ?_, fun hidle ht => ?_⟩
    · exact congrArg Host.Outcome.next ((State.tblOp_reaches hreach ..).trans (State.tblCmdWrite_busy hb _))
    · exact ⟨State.tblOp_runs hreach hidle (State.tblCheck_plain (by simp [Tables.cmd]) ht) (Or.inl (by decide)) (by decide),
        State.tblOp_runs hreach hidle (State.tblCheck_plain (by simp [Tables.cmd]) ht) (Or.inl (by decide)) (by decide)⟩
    · have ht4 : t.toNat < 4 := by omega
      have hno (hlpm : 2 ≤ t.toNat) : False := absurd ht (Nat.not_lt.mpr hlpm)
      refine ⟨fun shadow hp => ?_, fun shadow hp => ?_, fun shadow byLoc => ?_, fun port static => ?_, ?_,
        fun b hb hspare => ?_, ?_, ?_⟩
      · exact State.tblOp_starts hreach hidle (State.tblCheck_insert rfl ht4 hp fun h => (hno h).elim)
      · exact State.tblOp_refused hreach hidle (State.tblCheck_insert_port rfl ht4 hp) (by decide)
      · exact State.tblOp_runs hreach hidle (State.tblCheck_delete rfl ht4 fun h => (hno h).elim)
          (Or.inl (by decide)) (by decide)
      · exact State.tblOp_runs hreach hidle (State.tblCheck_plain (by simp [Tables.cmd]) ht4) (Or.inl (by decide))
          (by decide)
      · exact State.tblOp_runs hreach hidle (State.tblCheck_plain (by simp [Tables.cmd]) ht4) (Or.inl (by decide))
          (by decide)
      · exact State.tblOp_starts hreach hidle (State.tblCheck_repair rfl ht hb hspare)
      · exact State.tblOp_refused hreach hidle (State.tblCheck_lpm_only (Or.inr rfl) ht) (by decide)
      · exact State.tblOp_refused hreach hidle (State.tblCheck_lpm_only (Or.inl rfl) ht) (by decide)
    · have ht4 : t.toNat < 4 := by omega
      have hlpm : 2 ≤ t.toNat := by omega
      refine ⟨fun hp hprefix => ?_, ?_, fun port static => ?_, ?_, fun hr => ?_, fun hr => ⟨?_, fun byLoc => ?_⟩,
        fun hd => ?_, fun hd => ?_⟩
      · exact State.tblOp_runs hreach hidle (State.tblCheck_insert rfl ht4 hp fun _ => ⟨hprefix, rfl⟩) (Or.inr hlpm)
          (by decide)
      · exact State.tblOp_runs hreach hidle (State.tblCheck_delete rfl ht4 fun _ => rfl) (Or.inr hlpm) (by decide)
      · exact State.tblOp_runs hreach hidle (State.tblCheck_plain (by simp [Tables.cmd]) ht4) (Or.inr hlpm) (by decide)
      · exact State.tblOp_runs hreach hidle (State.tblCheck_plain (by simp [Tables.cmd]) ht4) (Or.inr hlpm) (by decide)
      · exact State.tblOp_runs hreach hidle ((State.tblCheck_swap rfl ht4 hlpm).trans (if_pos hr)) (Or.inr hlpm)
          (by decide)
      · exact State.tblOp_refused hreach hidle ((State.tblCheck_swap rfl ht4 hlpm).trans
          (if_neg (ne_true_of_eq_false hr))) (by decide)
      · exact State.tblOp_refused hreach hidle (State.tblCheck_delete_shadow rfl ht4 hlpm rfl hr) (by decide)
      · exact State.tblOp_runs hreach hidle ((State.tblCheck_rebuild rfl ht4 hlpm).trans
          (if_neg (ne_true_of_eq_false hd))) (Or.inr hlpm) (by decide)
      · exact State.tblOp_refused hreach hidle ((State.tblCheck_rebuild rfl ht4 hlpm).trans (if_pos hd)) (by decide)
  case tblCmdDone =>
    intro s c hits hbusy u flow
    refine ⟨fun ht hright => ?_, fun hop ht hd => ?_, fun hop ht hd => ?_⟩
    · obtain ⟨hsearch, hinsert, hflush⟩ := State.tblDone_hash hbusy ht hright hits
      refine ⟨fun hop => ⟨fun i e hfind => ?_, fun hfind => ?_⟩, fun hop i e hfind => ?_,
        fun hop => congrArg Host.Outcome.next (hflush hop)⟩
      · have hu : s.tblFree.tblFind (c.table == 1) c.maskedKey = some (i, e) := hfind
        refine congrArg Host.Outcome.next ((hsearch hop).trans ?_)
        rw [State.doSearch, if_neg (Nat.not_le.mpr ht), hu]
        rfl
      · have hu : s.tblFree.tblFind (c.table == 1) c.maskedKey = none := hfind
        refine congrArg Host.Outcome.next ((hsearch hop).trans ?_)
        rw [State.doSearch, if_neg (Nat.not_le.mpr ht), hu]
        rfl
      · have hu : findKey (c.table == 1) (s.tblFree.buckets (c.table == 1)) (endMoves (s.tblFree.tbl.hash (c.table == 1))) c.maskedKey =
            some (i, e) := hfind
        refine congrArg Host.Outcome.next ((hinsert hop).trans ?_)
        simp only [State.insertHash, hu]
        rfl
    · exact congrArg Host.Outcome.next ((State.tblDone_rebuild hbusy ht hop hits).trans (if_neg (ne_true_of_eq_false hd)))
    · exact congrArg Host.Outcome.next ((State.tblDone_rebuild hbusy ht hop hits).trans (if_pos hd))
  case agePass =>
    intro s flow hits hx
    have haged : ageAll flow hits (endMoves (s.tbl.hash flow)) = (endMoves (s.tbl.hash flow)).filterMap fun p =>
        (if p.2.ages flow = false then some p.2 else if hits.contains p.1 = true then some { p.2 with age := 0 }
          else if p.2.age = 2 then none else some { p.2 with age := p.2.age + 1 }).map fun e => (p.1, e) := by
      simp only [ageAll, ageEntry, Bool.not_eq_true']
    have hrun : exec (.agePass flow hits []) s = .next (s.agePass flow hits) := rfl
    rw [hrun, State.agePass, State.checkSlots_of_right hx]
    simp only [haged]
  case learnInsert =>
    intro s q k0 k1 port rest hlearnq key hfind
    obtain ⟨x, hx⟩ := Option.isSome_iff_exists.mp hfind
    have hx' : (s.modQuad q fun x => { x with learnQ := rest }).tblFind false (bridgeKey k0 k1) = some x := hx
    simp only [exec, execLearnInsert, State.learnInsert, hlearnq, hx']
    rfl
  case tblPortAccess =>
    intro s p hreach
    refine ⟨?tblPortAccess_1, ?tblPortAccess_2, ?tblCntRead⟩
    case tblPortAccess_1 =>
      simp (disch := omega) [exec, execTblPortAccess, State.readIsl_reaches hreach, base]
    case tblPortAccess_2 =>
      intro w
      simp (disch := omega) [exec, execTblPortAccess, State.writeIsl_reaches hreach, base]
    case tblCntRead =>
      intro hcntaddr hcntaddr2
      have hlt : ¬16 ≤ (fld s.tbl.cntAddr 0 5).toNat := Nat.not_le.mpr hcntaddr
      rw [exec, execTblCntRead, State.readIsl_reaches hreach (by unfold base; omega), State.tblCntRead]
      simp only [hlt, hcntaddr2, if_false, State.readPair, Bool.false_eq_true, State.readLow]

end Sys2Proof.Machine
end

section
namespace Sys2Proof.Machine

theorem State.modCoreN_val (s : State) (k : CoreId) (f : Core → Core) : s.modCoreN k.val f = s.modCore k f := by
  rw [State.modCoreN, State.modCore, vmod_of_lt k.isLt]

theorem State.coreN_val (s : State) (k : CoreId) : s.coreN k.val = s.core k := by
  rw [State.coreN, vget_eq_getElem k.isLt, State.core]

theorem State.writeCore_reaches {s : State} {p : Port} {k : CoreId} (h : s.reaches p (0x80 + k.val)) (f : State → State) :
    s.writeIsl p (coreBase k.val) f = f s :=
  State.writeIsl_reaches h (by unfold coreBase base; omega)

theorem State.readCore_reaches {s : State} {p : Port} {k : CoreId} (h : s.reaches p (0x80 + k.val)) (off : Nat) (hoff : off < 0x10000)
    (f : State → W32 × State) : s.readIsl p (coreBase k.val + off) f = (f s).2.emit (.read p (f s).1) :=
  State.readIsl_reaches h (by unfold coreBase base; omega)

/-- Settles O31: a test's result on the core or the fallback pipeline, the host's commands to a core, and the windows of authentication
failures. -/
theorem cipherTestCommandsTakeEffect : Obligations.CipherTestCommandsTakeEffect := by
  refine ⟨?katDue, ?katOverdue, ?firstKat_1, ?firstKat_2, ?katNow, ?integrityFault_1, ?integrityFault_2, ?afWindow_1, ?afWindow_2,
    ?cphCntRead⟩
  case katDue =>
    intro s k hcoreruns hassignedto
    refine ⟨?katDue_1, ?katDue_2⟩
    case katDue_1 =>
      intro hisempty
      refine ⟨?katDue_3, ?katDue_4⟩
      case katDue_3 =>
        rw [exec, execKatDue]
        simp only [hcoreruns, hisempty, State.katRun, State.modCoreN_val, Bool.not_true, Bool.false_eq_true, if_false, if_true]
      case katDue_4 =>
        rw [exec, execKatDue]
        simp only [hcoreruns, hisempty, State.katRun, State.modCoreN_val, Bool.not_true, Bool.false_eq_true, if_false, if_true]
    case katDue_2 =>
      intro hisempty pass
      rw [exec, execKatDue]
      simp only [hcoreruns, hisempty, Bool.not_true, Bool.false_eq_true, if_false]
  case katOverdue =>
    intro s k pass hkatdue
    simp [exec, execKatOverdue, hkatdue]
  case firstKat_1 =>
    intro s k hison hstate hcause
    refine ⟨?firstKat_3, ?firstKat_4⟩
    case firstKat_3 =>
      simp [exec, execFirstKat, hison, hstate, hcause]
    case firstKat_4 =>
      simp [exec, execFirstKat, hison, hstate, hcause]
  case firstKat_2 =>
    intro s hison hinservice hfailed
    refine ⟨?firstKat_5, ?firstKat_6⟩
    case firstKat_5 =>
      simp [exec, execFirstKat, hison, hinservice, hfailed]
    case firstKat_6 =>
      simp [exec, execFirstKat, hison, hinservice, hfailed]
  case katNow =>
    intro s p k hreach
    refine ⟨?katNow_1, ?katNow_2, ?quarForce_1, ?quarForce_2, ?retest, ?cphJobsRead, ?cphAfRead⟩
    case katNow_1 =>
      simp [exec, execKatNow, State.writeIsl_reaches hreach, coreBase, base]
    case katNow_2 =>
      simp [exec, execKatNow, State.writeIsl_reaches hreach, coreBase, base]
    case quarForce_1 =>
      rw [exec, execQuarForce, State.writeCore_reaches hreach, State.quarForce, State.modCoreN_val]
      rfl
    case quarForce_2 =>
      intro hquarforce
      rw [exec, execQuarForce, State.writeCore_reaches hreach, State.quarForce, State.coreN_val, hquarforce,
        State.modCoreN_val]
      rfl
    case retest =>
      intro hquarforce hstate
      refine ⟨?retest_1, ?retest_2⟩
      case retest_1 =>
        rw [exec, execRetest]
        simp only [State.writeCore_reaches hreach, State.coreRetest, State.coreN_val, hquarforce, hstate, decide_true,
          Bool.not_true, Bool.or_self,
          Bool.false_eq_true, if_false, if_true]
      case retest_2 =>
        rw [exec, execRetest]
        simp only [State.writeCore_reaches hreach, State.coreRetest, State.coreN_val, hquarforce, hstate, decide_true,
          Bool.not_true, Bool.or_self,
          Bool.false_eq_true, if_false, State.modCoreN_val]
    case cphJobsRead =>
      rw [exec, execCphJobsRead, State.readCore_reaches hreach _ (by decide), State.jobsRead, State.coreN_val,
        State.modCoreN_val]
    case cphAfRead =>
      rw [exec, execCphAfRead, State.readCore_reaches hreach _ (by decide), State.afRead, State.coreN_val, State.modCoreN_val]
  case integrityFault_1 =>
    intro s k cause hison
    simp [exec, execIntegrityFault, hison]
  case integrityFault_2 =>
    intro s cause hison
    simp [exec, execIntegrityFault, hison]
  case afWindow_1 =>
    intro s k hafth hafth2 hafover hisidle
    have hpast : ((s.core k).afTh != 0 && decide ((s.core k).afTh.toNat ≤ (s.core k).afWin)) = true := by
      simp only [bne_iff_ne.mpr hafth, hafth2, decide_true, Bool.and_self]
    rw [exec, execAfWindow]
    simp only [hpast, hafover, hisidle, Bool.or_true]
    rfl
  case afWindow_2 =>
    intro s k hafwin
    have hpast : ((s.core k).afTh != 0 && decide ((s.core k).afTh.toNat ≤ (s.core k).afWin)) = false := by
      rw [decide_eq_false (Nat.not_le.mpr hafwin), Bool.and_false]
    rw [exec, execAfWindow]
    simp only [hpast, Bool.or_false]
    rfl
  case cphCntRead =>
    intro s p q hreach hcntaddr hcntaddr2
    have heven : ((s.quad q).cph.cntAddr.toNat % 2 == 1) = false := beq_false_of_ne (by omega)
    rw [exec, execCphCntRead]
    simp only [State.readQuad_reaches hreach 0x401C (by decide), State.cphCntRead, State.cntItem, State.vget_quads,
      if_neg (Nat.not_le.mpr hcntaddr2), heven, State.readPair, State.readLow, Bool.false_eq_true, if_false]

end Sys2Proof.Machine
end

section
namespace Sys2Proof.Machine

/-- Settles O38: the conditions by the source and the servo's state, TIM_CTL by which of its fields changed. -/
theorem servoCommandsTakeEffect : Obligations.ServoCommandsTakeEffect := by
  refine ⟨?tauDsRecompute, ?refLost_1, ?refLost_2, ?todLatch, ?servoSample, ?timCtlWrite_1, ?timCtlWrite_2, ?ppsInEdge⟩
  case tauDsRecompute =>
    intro s hison
    refine ⟨?tauDsRecompute_1, ?tauDsRecompute_2⟩
    case tauDsRecompute_1 =>
      intro hsrcfield
      rw [exec, execTauDsRecompute, if_neg (by simp [hison])]
      exact congrArg Host.Outcome.next (if_neg fun h => hsrcfield h.1)
    case tauDsRecompute_2 =>
      intro hsrcfield hsteers hstepth
      rw [exec, execTauDsRecompute, if_neg (by simp [hison])]
      exact congrArg Host.Outcome.next (if_pos ⟨hsrcfield, hsteers, Or.inl hstepth⟩)
  case refLost_1 =>
    intro s hison hsrcfield hrefpresent
    refine ⟨?refLost_3, ?refLost_4⟩
    case refLost_3 =>
      intro hsteers
      simp [exec, execRefLost, hison, hsrcfield, hrefpresent, hsteers]
    case refLost_4 =>
      intro hsteers
      simp [exec, execRefLost, State.modTim, hison, hsrcfield, hrefpresent, hsteers]
  case refLost_2 =>
    intro s hison hsrcfield hsteers
    rw [exec, execRefLost]
    simp only [hison, hsrcfield, Bool.not_true, Nat.reduceBEq, Bool.false_and, Bool.or_self, Bool.false_eq_true, if_false,
      if_true]
    exact congrArg Host.Outcome.next (if_neg (ne_true_of_eq_false hsteers))
  case todLatch =>
    intro s ps hison hsrcfield htodarmed hpsync hsfc
    refine ⟨?todLatch_1, ?todLatch_2, ?todLatch_3⟩
    case todLatch_1 =>
      intro htaunow
      simp [exec, execTodLatch, State.timErr, State.modTim, hison, hsrcfield, htodarmed, hpsync, hsfc, htaunow]
    case todLatch_2 =>
      intro tau htaunow htimeset
      rw [exec, execTodLatch]
      simp only [hison, hsrcfield, htodarmed, hpsync, hsfc, htaunow, and_self, if_true, ne_eq, not_true_eq_false, if_false]
      exact congrArg Host.Outcome.next ((if_pos htimeset).trans (by rw [← hsfc]; rfl))
    case todLatch_3 =>
      intro tau htaunow htimeset
      simp [exec, execTodLatch, State.disarmTod, State.stepBy, State.stepCount, nsUnit, timeDiff, State.modTim, hison,
        hsrcfield, htodarmed, hpsync, hsfc, htaunow, htimeset]
  case servoSample =>
    intro s u e hison hrefpresent htakesample v
    have hrun : ∀ st, v.tim.state = st → exec .servoSample s = .next (match st with
        | .host => v
        | .priming => if v.tim.holdBit then v else State.steered { v with tim := { v.tim.noRuns with state := .acquire, freq := 0 } } e
        | .holdover => if v.tim.holdBit then { v with tim := { v.tim with holdRun := [] } } else { v with tim := v.tim.held e }
        | .acquire => v.steered e
        | .locked => v.steered e) := by
      rintro st rfl
      simp only [exec, execServoSample, hison, hrefpresent, htakesample, Bool.not_true, Bool.or_self, Bool.false_eq_true,
        if_false]
      rfl
    refine ⟨fun h => hrun _ h, fun h => ?_, fun h hh => ?_, fun h hh => ?_, fun h hh => ?_, fun h hh => ?_⟩
    · rcases h with h | h <;> exact hrun _ h
    · exact (hrun _ h).trans (congrArg Host.Outcome.next (if_pos hh))
    · exact (hrun _ h).trans (congrArg Host.Outcome.next (if_neg (ne_true_of_eq_false hh)))
    · exact (hrun _ h).trans (congrArg Host.Outcome.next (if_neg (ne_true_of_eq_false hh)))
    · exact (hrun _ h).trans (congrArg Host.Outcome.next (if_pos hh))
  case timCtlWrite_1 =>
    intro s p w hreach hsrcfield hreflane hholdbit
    have hhold : (({ s.tim with ctl := w } : Time).holdBit && !s.tim.holdBit && s.tim.steers) = false := by
      rcases hholdbit with h | h
      · simp [h]
      · simp [Time.holdBit, h]
    have hsrc : decide (s.tim.srcField ≠ ({ s.tim with ctl := w } : Time).srcField) = false := decide_eq_false (not_not.mpr hsrcfield)
    have href : decide (s.tim.refLane ≠ ({ s.tim with ctl := w } : Time).refLane) = false := decide_eq_false (not_not.mpr hreflane)
    rw [exec, execTimCtlWrite, State.writeIsl_reaches hreach (by unfold base; omega)]
    simp only [State.timCtlWrite, hsrc, href, hhold, Bool.or_self, Bool.false_and, Bool.false_eq_true, if_false, ite_self]
    rfl
  case timCtlWrite_2 =>
    intro s p w hreach hsrcfield hsrcfield2 hreflane
    have hsrc : decide (s.tim.srcField ≠ 0) = true := decide_eq_true hsrcfield
    have href : decide (s.tim.refLane ≠ ({ s.tim with ctl := w } : Time).refLane) = false := decide_eq_false (not_not.mpr hreflane)
    rw [exec, execTimCtlWrite, State.writeIsl_reaches hreach (by unfold base; omega)]
    simp only [State.timCtlWrite, hsrcfield2, hsrc, href, Bool.true_or, Bool.true_and, BEq.rfl, Bool.false_eq_true,
      if_false, if_true]
    rfl
  case ppsInEdge =>
    intro s sub y hison hppslastedge v t
    refine ⟨fun hearly => ?_, fun hlo hhi hlast hsrc => ?_⟩
    · rw [exec, execPpsInEdge, if_neg (by simp [hison])]
      simp only [hppslastedge, decide_eq_false (Nat.not_le.mpr hearly)]
      rfl
    · rw [exec, execPpsInEdge, if_neg (by simp [hison])]
      simp only [hppslastedge, hlast, decide_eq_true hlo, decide_eq_true (And.intro hlo hhi), Bool.or_true, Bool.not_true,
        Bool.true_and,
        Bool.false_eq_true, if_false]
      exact congrArg Host.Outcome.next (if_pos (beq_of_eq hsrc))

end Sys2Proof.Machine
end

section
namespace Sys2Proof.Machine

theorem State.writeCst_reaches {s : State} {p : Port} (h : s.reaches p 9) (k : State → State) : s.writeIsl p (base 9) k = k s :=
  State.writeIsl_reaches h (by unfold base; omega)

/-- No line that was corrected counts or raises nothing. -/
theorem State.linesCorrected_none (s : State) (chs : List Nat) :
    chs.foldl (fun s ch => s.linesCorrected ch (vget 0 (Vector.replicate 8 0) ch)) s = s := by
  have hzero (ch : Nat) : vget 0 (Vector.replicate 8 0) ch = 0 := by
    by_cases h : ch < 8
    · rw [vget_eq_getElem h, Vector.getElem_replicate]
    · simp [vget, h]
  induction chs with
  | nil => rfl
  | cons ch chs ih => rw [List.foldl_cons, State.linesCorrected, if_pos (hzero ch), ih]

theorem State.maintServed_idle {s : State} (h : s.cst.waiting 4 = 0) : s.maintServed = s := by
  rw [State.maintServed]
  exact if_pos h

theorem State.retiring_request (s : State) (k : Nat) (write : Bool) (lines : Nat) :
    (s.request k write lines).cst.retiring = s.cst.retiring := by
  rw [State.request]
  split <;> rfl

/-- The device drained: what was lost counts, and the device is no longer trained. -/
def State.drained (s : State) (lost : Nat) : State :=
  (s.cstCnt 0x8E lost).modCst fun c => { c with trained := setBit c.trained c.dev.toNat false }

theorem State.retiring_drained (s : State) (lost : Nat) : (s.drained lost).cst.retiring = s.cst.retiring := rfl

/-- The controller goes on from the drained device: it retires it, or trains it anew. -/
def State.leaveDrain (u : State) : State :=
  let v := if u.cst.retiring then u else u.request 4 true deviceLines
  (v.cstEnter (if v.cst.retiring then .degraded else .retraining)).powerSettle

theorem State.leaveDrain_retiring {u : State} (h : u.cst.retiring = true) : u.leaveDrain = (u.cstEnter .degraded).powerSettle := by
  simp only [State.leaveDrain, h, if_true]

theorem State.leaveDrain_training {u : State} (h : u.cst.retiring = false) :
    u.leaveDrain = ((u.request 4 true deviceLines).cstEnter .retraining).powerSettle := by
  simp only [State.leaveDrain, h, State.retiring_request, Bool.false_eq_true, if_false]

theorem execDrainDone_copied {s : State} (timeout : Bool) (hmode : s.cst.mode = .draining) (hcopied : s.cst.copied = true) :
    execDrainDone timeout s = .next (State.leaveDrain
      ((if timeout then s.loseLines else s).drained (s.cisternHeld - (if timeout then s.loseLines else s).cisternHeld))) := by
  rw [execDrainDone, if_neg (by simp [hmode, hcopied])]
  rfl

/-- Settles O40: the commands by the controller's mode, the ends of what they started, and line errors by their kind. -/
theorem cisternCommandsTakeEffect : Obligations.CisternCommandsTakeEffect := by
  refine ⟨?retrain, ?cstTrainDone, ?redirectCopyDone, ?drainDone, ?restoreDone, ?scrubPass, ?cstLineError, ?cstCntRead⟩
  case retrain =>
    intro s p d hreach stop
    have hretrain : exec (.retrain p d) s = .next (s.cstRetrain (BitVec.ofFin d)) := by
      rw [exec, execRetrain, State.writeCst_reaches hreach, State.cstCmd]
    have hretire : exec (.retire p d) s = .next (s.cstRetire (BitVec.ofFin d)) := by
      rw [exec, execRetire, State.writeCst_reaches hreach, State.cstCmd]
    have hscrub : exec (.scrubNow p) s = .next s.cstScrub := by
      rw [exec, execScrubNow, State.writeCst_reaches hreach, State.cstCmd]
    rw [hretrain, hretire, hscrub, State.cstRetrain, State.cstRetire, State.cstScrub]
    refine ⟨fun hm => ⟨?_, congrArg Host.Outcome.next (if_pos hm)⟩, fun hm hd => ?_, fun hm hd => ?_,
      fun hm => congrArg Host.Outcome.next (if_neg hm), fun hm => ?_,
      fun hb => congrArg Host.Outcome.next (if_neg (ne_true_of_eq_false hb)),
        fun hb => congrArg Host.Outcome.next (if_pos hb)⟩
    · rw [hm]
    · rw [hm]
      exact congrArg Host.Outcome.next (if_neg (not_not.mpr hd))
    · rw [hm]
      exact congrArg Host.Outcome.next (if_pos hd)
    · rcases hm with hm | hm <;> rw [hm] <;> rfl
  case cstTrainDone =>
    intro s failed
    refine ⟨?cstTrainDone_1, ?cstTrainDone_2⟩
    case cstTrainDone_1 =>
      intro hmode hcstup
      simp [exec, execCstTrainDone, hmode, hcstup]
    case cstTrainDone_2 =>
      intro hmode hdev hwaiting
      refine ⟨?cstTrainDone_3, ?cstTrainDone_4⟩
      case cstTrainDone_3 =>
        intro hdev2
        simp [exec, execCstTrainDone, State.maintServed, State.trainFailed, hmode, hdev, hwaiting, hdev2]
      case cstTrainDone_4 =>
        intro hdev2
        simp [exec, execCstTrainDone, State.maintServed, State.modCst, hmode, hdev, hwaiting, hdev2]
  case redirectCopyDone =>
    intro s hmode
    refine ⟨?redirectCopyDone_2, ?drainDone_2⟩
    case redirectCopyDone_2 =>
      simp [exec, execRedirectCopyDone, State.modCst, hmode]
    case drainDone_2 =>
      intro hcopied timeout
      simp [exec, execDrainDone, hmode, hcopied]
  case drainDone =>
    intro s timeout hmode hcopied w u
    rw [exec, execDrainDone_copied timeout hmode hcopied]
    exact ⟨fun h => congrArg Host.Outcome.next (State.leaveDrain_retiring ((State.retiring_drained _ _).trans h)),
      fun h => congrArg Host.Outcome.next (State.leaveDrain_training ((State.retiring_drained _ _).trans h))⟩
  case restoreDone =>
    intro s hmode
    simp [exec, execRestoreDone, hmode]
  case scrubPass =>
    intro s hwaiting
    refine ⟨?scrubPass_1, ?scrubPass_2⟩
    case scrubPass_1 =>
      intro hscrubbing
      rw [exec, execScrubPass, if_neg (by simp [hscrubbing]), State.linesCorrected_none]
      simp only [hscrubbing, if_true, State.maintServed_idle hwaiting]
    case scrubPass_2 =>
      intro hscrubbing hctl v
      simp [exec, execScrubPass, hscrubbing, hctl]
  case cstLineError =>
    intro s ch line
    refine ⟨?cstLineError_1, ?cstLineError_2, ?cstLineError_3⟩
    case cstLineError_1 =>
      rfl
    case cstLineError_2 =>
      intro k user
      rfl
    case cstLineError_3 =>
      refine ⟨s.lineLost ch.val line .scrub, rfl, ?_, ?_⟩ <;> simp only [State.lineLost, State.report_cst, State.modCst_cst]
  case cstCntRead =>
    intro s p hreach
    refine ⟨?cstCntRead_1, ?cstCntRead_2⟩
    case cstCntRead_1 =>
      intro hcntaddr
      have heven : (s.cst.cntAddr.toNat % 2 == 1) = false := beq_false_of_ne (by omega)
      have hpair : s.cst.cntAddr.toNat / 2 * 2 = s.cst.cntAddr.toNat := by omega
      rw [exec, execCstCntRead, State.readIsl_reaches hreach (by unfold base; omega), State.cstCntRead]
      simp only [heven, hpair, State.readPair, State.readLow, Bool.false_eq_true, if_false]
    case cstCntRead_2 =>
      intro hcntaddr
      have hodd : (s.cst.cntAddr.toNat % 2 == 1) = true := beq_of_eq hcntaddr
      rw [exec, execCstCntRead, State.readIsl_reaches hreach (by unfold base; omega), State.cstCntRead]
      simp only [hodd, State.readPair, if_true]

end Sys2Proof.Machine
end

section
namespace Sys2Proof.Machine

/-! The challenge's 32 bytes: the words of the window hold them, and the generator gives the first 16. -/

theorem leNat_lt (l : List Byte) : leNat l < 256 ^ l.length := by
  induction l with
  | nil => decide
  | cons b l ih =>
    have hb := b.isLt
    rw [leNat, List.length_cons, Nat.pow_succ]
    omega

theorem leBytes_leNat (l : List Byte) : leBytes l.length (leNat l) = l := by
  induction l with
  | nil => rfl
  | cons b l ih =>
    have hb := b.isLt
    rw [List.length_cons, leBytes, leNat, show (b.toNat + 256 * leNat l) / 256 = leNat l by omega, ih]
    congr 1
    refine BitVec.eq_of_toNat_eq ?_
    rw [BitVec.toNat_ofNat]
    omega

theorem leBytes_wordOf {l : List Byte} (h : l.length = 4) : leBytes 4 (BitVec.ofNat 32 (leNat l)).toNat = l := by
  have hlt : leNat l < 2 ^ 32 := by
    have := leNat_lt l
    rw [h] at this
    exact this
  rw [BitVec.toNat_ofNat, Nat.mod_eq_of_lt hlt, ← h, leBytes_leNat]

/-- Bytes laid into words of four and read again. -/
theorem flatten_words (n : Nat) (l : List Byte) (h : l.length = 4 * n) :
    (List.ofFn fun i : Fin n => leBytes 4 (BitVec.ofNat 32 (leAt l (4 * i.val) 4)).toNat).flatten = l := by
  induction n generalizing l with
  | zero => simpa using (List.length_eq_zero_iff.mp h).symm
  | succ n ih =>
    have hrest : ∀ i : Fin n, leAt l (4 * i.succ.val) 4 = leAt (l.drop 4) (4 * i.val) 4 := fun i => by
      rw [leAt, leAt, bytesAt, bytesAt, List.drop_drop, Fin.val_succ, show 4 * (i.val + 1) = 4 + 4 * i.val by omega]
    have hhead : leBytes 4 (BitVec.ofNat 32 (leAt l (4 * (0 : Fin (n + 1)).val) 4)).toNat = l.take 4 :=
      leBytes_wordOf (l := l.take 4) (by rw [List.length_take]; omega)
    rw [List.ofFn_succ, List.flatten_cons, hhead]
    simp only [hrest]
    rw [ih (l.drop 4) (by rw [List.length_drop]; omega), List.take_append_drop]

theorem bytesOf_wordsOf {n : Nat} {l : List Byte} (h : l.length = 4 * n) : bytesOf (wordsOf n l) = l := by
  rw [bytesOf, wordsOf, Vector.toList_ofFn, List.flatMap_def, List.map_ofFn]
  exact flatten_words n l h

theorem length_rotateLeft {α : Type} (l : List α) (n : Nat) : (l.rotateLeft n).length = l.length := by
  rw [List.rotateLeft]
  split
  · rfl
  · rw [List.length_append, List.length_drop, List.length_take]
    omega

/-- The word that the key schedule adds next. -/
def nextKeyWord (nk : Nat) (rcon : Byte) (i : Nat) (l : List (List Byte)) : List Byte :=
  xorBytes (l.getD (nk - 1) [])
    (if i % nk = 0 then xorBytes (((l.headD []).rotateLeft 1).map subByte) [rcon, 0, 0, 0]
      else if 6 < nk ∧ i % nk = 4 then (l.headD []).map subByte else l.headD [])

theorem keyWords_succ (nk : Nat) (rcon : Byte) (n i : Nat) (l : List (List Byte)) :
    keyWords nk rcon (n + 1) i l = keyWords nk (if i % nk = 0 then gfDouble rcon else rcon) n (i + 1) (nextKeyWord nk rcon i l :: l) := rfl

theorem nextKeyWord_length {nk : Nat} (hnk : 0 < nk) (rcon : Byte) (i : Nat) {l : List (List Byte)} (hl : nk ≤ l.length)
    (hw : ∀ w ∈ l, w.length = 4) : (nextKeyWord nk rcon i l).length = 4 := by
  have hhead : (l.headD []).length = 4 := by
    cases l with
    | nil => exact absurd hl (Nat.not_le.mpr hnk)
    | cons w l => exact hw w (List.mem_cons_self ..)
  have hold : (l.getD (nk - 1) []).length = 4 := by
    rw [List.getD_eq_getElem _ _ (by omega)]
    exact hw _ (List.getElem_mem _)
  rw [nextKeyWord, xorBytes, List.length_zipWith, hold]
  split
  · rw [xorBytes, List.length_zipWith, List.length_map, length_rotateLeft, hhead]
    rfl
  · split
    · rw [List.length_map, hhead]
      rfl
    · rw [hhead]
      rfl

/-- The key schedule adds words of four bytes. -/
theorem keyWords_words {nk : Nat} (hnk : 0 < nk) (rcon : Byte) (n i : Nat) (l : List (List Byte)) (hl : nk ≤ l.length)
    (hw : ∀ w ∈ l, w.length = 4) :
    (keyWords nk rcon n i l).length = n + l.length ∧ ∀ w ∈ keyWords nk rcon n i l, w.length = 4 := by
  induction n generalizing rcon i l with
  | zero => exact ⟨by simp [keyWords], hw⟩
  | succ n ih =>
    rw [keyWords_succ]
    obtain ⟨hlen, hmem⟩ := ih (if i % nk = 0 then gfDouble rcon else rcon) (i + 1) (nextKeyWord nk rcon i l :: l)
      (by rw [List.length_cons]; omega) (List.forall_mem_cons.mpr ⟨nextKeyWord_length hnk rcon i hl hw, hw⟩)
    exact ⟨by rw [hlen, List.length_cons]; omega, hmem⟩

theorem length_flatMap_words {l : List (List Byte)} (h : ∀ w ∈ l, w.length = 4) : (l.flatMap id).length = 4 * l.length := by
  induction l with
  | nil => rfl
  | cons w l ih =>
    obtain ⟨hw, hl⟩ := List.forall_mem_cons.mp h
    rw [List.flatMap_cons, List.length_append, ih hl, id, hw, List.length_cons]
    omega

theorem roundKeys_length {key : List Byte} (h : key.length = 32) : ∀ k ∈ roundKeys key, k.length = 16 := by
  have hfirst : ∀ w ∈ ((List.range 8).map fun i => bytesAt key (4 * i) 4).reverse, w.length = 4 := by
    intro w hw
    obtain ⟨i, hi, rfl⟩ := List.mem_map.mp (List.mem_reverse.mp hw)
    have hlt := List.mem_range.mp hi
    rw [bytesAt, List.length_take, List.length_drop, h]
    omega
  obtain ⟨hlen, hwords⟩ := keyWords_words (nk := 8) (by decide) 1 52 8 _ (by simp) hfirst
  intro k hk
  rw [roundKeys, h] at hk
  obtain ⟨i, hi, rfl⟩ := List.mem_map.mp hk
  have hlt : i < 15 := List.mem_range.mp hi
  rw [roundKeys.bytesOfWords, length_flatMap_words fun w hw =>
    hwords w (List.mem_reverse.mp (List.mem_of_mem_drop (List.mem_of_mem_take hw)))]
  rw [List.length_take, List.length_drop, List.length_reverse, hlen, List.length_reverse, List.length_map, List.length_range]
  omega

theorem aesRounds_length {ks : List (List Byte)} (hne : ks ≠ []) (hk : ∀ k ∈ ks, k.length = 16) (b : List Byte) :
    (aesRounds ks b).length = 16 := by
  induction ks generalizing b with
  | nil => exact absurd rfl hne
  | cons k ks ih =>
    cases ks with
    | nil =>
      rw [aesRounds, xorBytes, List.length_zipWith, hk k (List.mem_cons_self ..), shiftRows, List.length_map, List.length_range]
      rfl
    | cons k' ks => exact ih (by simp) (fun x hx => hk x (List.mem_cons_of_mem _ hx)) _

theorem aesBlock_length {key : List Byte} (h : key.length = 32) (block : List Byte) : (aesBlock key block).length = 16 := by
  have hkeys := roundKeys_length h
  have hcount : (roundKeys key).length = 15 := by rw [roundKeys, h, List.length_map, List.length_range]
  rw [aesBlock, aesWith]
  exact aesRounds_length (List.ne_nil_of_length_pos (by rw [List.length_drop, hcount]; decide)) (fun k hk => hkeys k (List.mem_of_mem_drop hk)) _

theorem drbgBlocks_length {key : List Byte} (h : key.length = 32) (n : Nat) (v : List Byte) : (drbgBlocks key n v).1.length = 16 * n := by
  induction n generalizing v with
  | zero => rfl
  | succ n ih =>
    rw [drbgBlocks, List.length_append, aesBlock_length h, ih]
    omega

theorem Drbg.generate_length (d : Drbg) (n : Nat) : (d.generate n).1.length = n := by
  have hkey : (beBytes 32 d.key.toNat).length = 32 := by rw [beBytes, List.length_reverse, length_leBytes]
  rw [Drbg.generate, List.length_take, drbgBlocks_length hkey]
  omega

theorem State.chalBytes_length (s : State) : s.chalBytes.length = 32 := by
  simp only [State.chalBytes, State.draw, List.length_append, Drbg.generate_length, beBytes, List.length_reverse, length_leBytes, zeros,
    List.length_replicate]

/-- The challenge holds the next SEQ and the power cycles after 16 bytes of the generator (R522). -/
theorem State.chalBytes_drop (s : State) :
    s.chalBytes.drop 16 = beBytes 4 s.wel.seqNext.toNat ++ beBytes 4 s.vault.powerCycles.toNat ++ zeros 8 := by
  have hdraw : (s.draw 16).1.length = 16 := Drbg.generate_length _ 16
  rw [State.chalBytes, List.append_assoc, List.append_assoc, List.drop_left' hdraw, List.append_assoc]

/-! What an appended record leaves of the freeze and of the power-fail sequence. -/

/-- The well's flags of a freeze and of the power-fail sequence. -/
def Well.stance (w : Well) : Bool × Bool × Bool := (w.pfailSeen, w.frozen, w.freezeBroken)

theorem Well.stance_trigger (w : Well) : w.trigger.stance = w.stance := by
  rw [Well.trigger]
  split
  · split <;> rfl
  · split
    · rfl
    · split <;> rfl

theorem Well.stance_append (w : Well) (r : RamRec) : (w.append r).1.stance = w.stance := by
  rw [Well.append]
  split
  · rfl
  · split <;> rfl

theorem State.stance_wellDiscarded (s : State) : s.wellDiscarded.wel.stance = s.wel.stance := by
  rw [State.wellDiscarded, State.reportIf_only _ _ _ _ _ .wel rfl]
  rfl

theorem State.stance_wellAppend (s : State) (r : RamRec) : (s.wellAppend r).wel.stance = s.wel.stance := by
  have happend := s.wel.stance_append r
  simp only [State.wellAppend]
  generalize s.wel.append r = x at happend ⊢
  have hdue : (if decide (3 ≤ r.body.raised.rep.sev.toNat) && !x.2 then { x.1 with sevDue := true } else x.1).stance = s.wel.stance := by
    split
    · exact happend
    · exact happend
  generalize (if decide (3 ≤ r.body.raised.rep.sev.toNat) && !x.2 then { x.1 with sevDue := true } else x.1) = w at hdue ⊢
  have hflush : (if w.unflushed ≥ 3584 ∧ (!x.2) = true then w.trigger else w).stance = s.wel.stance := by
    split
    · rw [Well.stance_trigger, hdue]
    · exact hdue
  generalize (if w.unflushed ≥ 3584 ∧ (!x.2) = true then w.trigger else w) = w' at hflush ⊢
  split
  · rw [State.stance_wellDiscarded]
    exact hflush
  · exact hflush

theorem State.stance_foldl_wellAppend (s : State) (rs : List RamRec) : (rs.foldl State.wellAppend s).wel.stance = s.wel.stance := by
  induction rs generalizing s with
  | nil => rfl
  | cons r rs ih => rw [List.foldl_cons, ih, State.stance_wellAppend]

theorem State.stance_fresh {s : State} (h : s.wel.frozen = false) (x : Raised) : (State.wellWrite.fresh s x).wel.stance = s.wel.stance := by
  simp only [State.wellWrite.fresh, h, Bool.false_and, Bool.false_eq_true, if_false]
  refine (State.stance_wellAppend _ _).trans ?_
  simp only [Well.stance, h]

/-- A command of the well is refused while one is in progress, and acts elsewhere. -/
theorem State.wellCmd_reaches {s : State} {p : Port} (h : s.reaches p 4) (k : State → State) :
    s.writeIsl p (base 4) (fun s => s.wellCmd k) = if s.wel.busy.isSome then s.wellErr 2 else k s :=
  State.writeIsl_reaches h (by unfold base; omega)

/-- The first fall of PFAIL_N breaks a freeze, whatever its side buffer held (R518). -/
theorem State.stance_pfail {s : State} (h : s.wel.pfailSeen = false) :
    s.pfail.wel.stance = (true, false, s.wel.freezeBroken || s.wel.frozen) := by
  simp only [State.pfail, h, Bool.false_eq_true, if_false]
  have hside := State.stance_foldl_wellAppend { s with wel := { s.wel with
    pfailSeen := true, flush := some { pfail := true }, frozen := false, side := []
    freezeBroken := s.wel.freezeBroken || s.wel.frozen } } s.wel.side
  generalize s.wel.side.foldl State.wellAppend _ = u at hside ⊢
  have hthawed : u.wel.frozen = false := congrArg (fun x => x.2.1) hside
  split
  · exact hside
  · exact (State.stance_fresh hthawed _).trans hside

/-- Settles O46: the commands by the freeze and the challenge, what a flush, a power failure and a READ leave, and the challenge's bytes. -/
theorem wellCommandsTakeEffect : Obligations.WellCommandsTakeEffect := by
  refine ⟨?wellScan, ?wellSeverityFlush, ?wellPeriodicFlush, ?wellFlushRecord, ?pfailFall_1, ?pfailFall_2, ?wel, ?wellFlush,
    ?freezeTimeout, ?challengeExpire, ?wellCmdDone⟩
  case wellScan =>
    intro s
    refine ⟨?wellScan_1, ?wellScan_2⟩
    case wellScan_1 =>
      intro hscanned
      simp [exec, execWellScan, State.wellScan, hscanned]
    case wellScan_2 =>
      intro hscanned hprescan
      rw [exec, execWellScan, State.wellScan, if_neg (ne_true_of_eq_false hscanned), hprescan]
      rfl
  case wellSeverityFlush =>
    intro s hsevdue
    simp [exec, execWellSeverityFlush, State.wellTrigger, hsevdue]
  case wellPeriodicFlush =>
    intro s
    rfl
  case wellFlushRecord =>
    intro s f q rest r hflush htodo hfind
    refine ⟨?wellFlushRecord_1, ?wellFlushRecord_2⟩
    case wellFlushRecord_1 =>
      intro l hbody
      simp [exec, execWellFlushRecord, State.flushRecord, hflush, htodo, hfind, hbody]
    case wellFlushRecord_2 =>
      have hrun : exec (.wellFlushRecord false) s = .next (State.report { s.tookFree with
          vault := { s.tookFree.vault with wellBad := s.tookFree.vault.wellBad + (s.freeBits 1).toNat }
          wel := { s.tookFree.wel.flushNext with err := 8 } } 1003 3) := by
        simp only [exec, execWellFlushRecord, State.flushRecord, hflush, htodo, hfind, Bool.false_eq_true, if_false]
      refine ⟨_, hrun, ?_, ?_⟩
      · rw [State.report_only _ _ _ _ .wel rfl]
      · rw [State.report_only _ _ _ _ .vault rfl]
        rfl
  case pfailFall_1 =>
    intro s hpfailseen
    simp [exec, execPfailFall, State.pfail, hpfailseen]
  case pfailFall_2 =>
    intro s hpfailseen
    have hstance := State.stance_pfail hpfailseen
    exact ⟨s.pfail, rfl, congrArg (fun x => x.1) hstance, congrArg (fun x => x.2.1) hstance,
      congrArg (fun x => x.2.2) hstance⟩
  case wel =>
    intro s p hreach hbusy i hmem
    have hrefused (k : State → State) : s.writeIsl p (base 4) (fun s => s.wellCmd k) = s.wellErr 2 :=
      (State.wellCmd_reaches hreach k).trans (if_pos hbusy)
    simp only [List.mem_cons, List.not_mem_nil, or_false] at hmem
    rcases hmem with rfl | rfl | rfl | rfl | rfl | rfl <;> exact congrArg Host.Outcome.next (hrefused _)
  case wellFlush =>
    intro s p hreach hbusy stop
    have hrun (k : State → State) : (.next (s.writeIsl p (base 4) fun s => s.wellCmd k) : Res) = .next (k s) :=
      congrArg Host.Outcome.next ((State.wellCmd_reaches hreach k).trans (if_neg (by rw [hbusy]; decide)))
    simp only [exec, execWellFlush, execWellFreeze, execClear, execWellThaw, execWellRead, execChallenge, hrun]
    refine ⟨rfl, fun hf => ⟨?_, ?_, ?_, ?_⟩, fun hf => ⟨?_, ?_⟩, fun hf hflush => ?_, rfl, fun hf hc => ?_,
      fun hf hc hz => ?_,
      fun k hf hc hz hk => ⟨fun ht => ?_, fun ht => ?_⟩⟩
    · exact congrArg Host.Outcome.next (if_pos hf)
    · exact congrArg Host.Outcome.next (if_pos hf)
    · exact congrArg Host.Outcome.next (if_pos hf)
    · exact congrArg Host.Outcome.next (if_pos hf)
    · exact congrArg Host.Outcome.next (if_neg (ne_true_of_eq_false hf))
    · exact congrArg Host.Outcome.next (if_neg (ne_true_of_eq_false hf))
    · rw [State.wellFreeze, hf, hflush]
      simp only [Bool.false_eq_true, if_false, Bool.or_false]
    · rw [State.clearCmd, hf, hc]
      rfl
    · rw [State.clearCmd, hf, hc, hz]
      rfl
    · simp only [State.clearCmd, hf, hc, hz, hk, Bool.false_eq_true, if_false, if_true, Bool.not_true]
      exact congrArg Host.Outcome.next (if_pos ht)
    · simp only [State.clearCmd, hf, hc, hz, hk, Bool.false_eq_true, if_false, if_true, Bool.not_true]
      exact congrArg Host.Outcome.next (if_neg ht)
  case freezeTimeout =>
    intro s
    refine ⟨?freezeTimeout_1, ?freezeTimeout_2⟩
    case freezeTimeout_1 =>
      intro hfrozen
      simp [exec, execFreezeTimeout, hfrozen]
    case freezeTimeout_2 =>
      intro hfrozen
      simp [exec, execFreezeTimeout, hfrozen]
  case challengeExpire =>
    intro s
    rfl
  case wellCmdDone =>
    intro s
    refine ⟨?wellCmdDone_1, ?wellCmdDone_2⟩
    case wellCmdDone_1 =>
      intro hbusy
      refine ⟨?wellCmdDone_3, ?wellCmdDone_4⟩
      case wellCmdDone_3 =>
        intro r hwellnext
        have hnext : ({ s with wel := { s.wel with busy := none } } : State).wellNext = some r := hwellnext
        rw [exec, execWellCmdDone, State.wellDone, hbusy]
        simp only [State.wellReadDone, hnext]
      case wellCmdDone_4 =>
        intro hwellnext
        have hnext : ({ s with wel := { s.wel with busy := none } } : State).wellNext = none := hwellnext
        rw [exec, execWellCmdDone, State.wellDone, hbusy]
        simp only [State.wellReadDone, hnext]
    case wellCmdDone_2 =>
      intro hbusy
      refine ⟨State.challengeDone { s with wel := { s.wel with busy := none } }, ?_, rfl, ?_, ?_⟩
      · rw [exec, execWellCmdDone, State.wellDone, hbusy]
      · exact congrArg Well.busy (State.draw_only { s with wel := { s.wel with busy := none } } 16 .wel rfl)
      · rw [State.challengeDone, bytesOf_wordsOf (State.chalBytes_length _), State.chalBytes_drop]

end Sys2Proof.Machine
end
